-- ==== Sys2Proof/Word.lean ====
section
/-! DEFINITION. The word types of the machine (R4) and its sparse tables. -/

namespace Sys2Proof

/-- A byte (R4). -/
abbrev Byte := BitVec 8
/-- A doubleword: a scalar register (R139). -/
abbrev Dword := BitVec 64
/-- A vector register of the widest array, VLBITS = 1024 (R139, R145). An XA register uses bits [511:0]. -/
abbrev Vec := BitVec 1024
/-- A 48-bit virtual address (R242). -/
abbrev Va := BitVec 48

/-- A sparse table: keys rise, and a key that is not listed has its default value. -/
abbrev Tbl (α : Type) := List (Nat × α)

end Sys2Proof
end

