-- ==== Sys2Proof/Machine/Bits.lean ====
section
/-! DEFINITION. Sparse tables, byte strings and the width helpers of R10. -/

namespace Sys2Proof.Machine

/-- The value of a key, or the default when the key is not listed. -/
def tget {α : Type} (d : α) : Tbl α → Nat → α
  | [], _ => d
  | (j, a) :: t, k => if k = j then a else tget d t k

/-- The table with one key changed; keys stay in rising order. -/
def tset {α : Type} : Tbl α → Nat → α → Tbl α
  | [], k, a => [(k, a)]
  | (j, b) :: t, k, a =>
    if k = j then (k, a) :: t else if k < j then (k, a) :: (j, b) :: t else (j, b) :: tset t k a

/-- The value of a key, if the key is listed. -/
def tfind {α : Type} : Tbl α → Nat → Option α
  | [], _ => none
  | (j, a) :: t, k => if k = j then some a else tfind t k

/-- The table without a key. -/
def tdel {α : Type} : Tbl α → Nat → Tbl α
  | [], _ => []
  | (j, b) :: t, k => if k = j then tdel t k else (j, b) :: tdel t k

/-- One byte of a memory in canonical form: an unlisted address reads 0 (R27). -/
def memGet : List (Nat × Byte) → Nat → Byte
  | [], _ => 0
  | (a, b) :: t, k => if k = a then b else if k < a then 0 else memGet t k

/-- A memory with one byte written; a zero byte is not listed, so equal memories are equal lists. -/
def memSet : List (Nat × Byte) → Nat → Byte → List (Nat × Byte)
  | [], k, x => if x = 0 then [] else [(k, x)]
  | (a, b) :: t, k, x =>
    if k = a then (if x = 0 then t else (k, x) :: t)
    else if k < a then (if x = 0 then (a, b) :: t else (k, x) :: (a, b) :: t)
    else (a, b) :: memSet t k x

/-- The canonical form: addresses rise strictly above `lo`, and no listed byte is 0. -/
def memSorted : Nat → List (Nat × Byte) → Bool
  | _, [] => true
  | lo, (a, b) :: t => decide (lo ≤ a) && decide (b ≠ 0) && memSorted (a + 1) t

/-- A memory in canonical form: addresses rise strictly and no listed byte is 0, which an unlisted address reads as. -/
def Memory.wf (m : List (Nat × Byte)) : Bool := memSorted 0 m

/-- `n` bytes from an address, lowest first. -/
def memRead (m : List (Nat × Byte)) : Nat → Nat → List Byte
  | _, 0 => []
  | a, n + 1 => memGet m a :: memRead m (a + 1) n

/-- A byte string written from an address upward. -/
def memWrite (m : List (Nat × Byte)) : Nat → List Byte → List (Nat × Byte)
  | _, [] => m
  | a, b :: bs => memWrite (memSet m a b) (a + 1) bs

/-- Little-endian number of a byte string (R3). -/
def bytesNat : List Byte → Nat
  | [] => 0
  | b :: bs => b.toNat + 256 * bytesNat bs

/-- The low `n` bytes of a number, lowest first (R3). -/
def natBytes : Nat → Nat → List Byte
  | 0, _ => []
  | n + 1, x => BitVec.ofNat 8 x :: natBytes n (x / 256)

/-- SignExtend(x, n) (R10). -/
def sext (x : Nat) (n : Nat) : Dword := ((BitVec.ofNat n x).signExtend 64)
/-- ZeroExtend(x, n) (R10). -/
def zext (x : Nat) (n : Nat) : Dword := BitVec.ofNat 64 (x % 2 ^ n)

/-- Bits [hi:lo] of a number (R2). -/
def fld (x hi lo : Nat) : Nat := x / 2 ^ lo % 2 ^ (hi + 1 - lo)
/-- Bits [hi:lo] of a doubleword. -/
def dfld (x : Dword) (hi lo : Nat) : Nat := fld x.toNat hi lo
/-- Bit n of a number. -/
def bitOf (x n : Nat) : Bool := x / 2 ^ n % 2 == 1
/-- 0 or 1. -/
def b2n (b : Bool) : Nat := if b then 1 else 0
/-- A doubleword with bits [hi:lo] replaced. -/
def setFld (x : Dword) (hi lo v : Nat) : Dword :=
  BitVec.ofNat 64 (x.toNat - dfld x hi lo * 2 ^ lo + v % 2 ^ (hi + 1 - lo) * 2 ^ lo)

/-- The unit of a list at a position replaced. -/
def listSet {α : Type} : List α → Nat → α → List α
  | [], _, _ => []
  | _ :: t, 0, a => a :: t
  | h :: t, n + 1, a => h :: listSet t n a

/-- The list without the element at a position. -/
def listDel {α : Type} : List α → Nat → List α
  | [], _ => []
  | _ :: t, 0 => t
  | h :: t, n + 1 => h :: listDel t n

/-- The first element that meets a test, with its position. -/
def findIx {α : Type} (p : α → Bool) : List α → Nat → Option (Nat × α)
  | [], _ => none
  | h :: t, n => if p h then some (n, h) else findIx p t (n + 1)

/-- floor(log2 x) of a positive number, by at most `fuel` halvings. -/
def log2Fuel : Nat → Nat → Nat
  | 0, _ => 0
  | f + 1, x => if x < 2 then 0 else 1 + log2Fuel f (x / 2)
/-- floor(log2 x), for numbers below 2 ^ 2048; 0 for 0. -/
def ilog2 (x : Nat) : Nat := log2Fuel 2048 x

/-- Saturating increment of a counter with a largest value. -/
def satInc (x top : Nat) : Nat := if x < top then x + 1 else top

end Sys2Proof.Machine
end

