-- ==== Sys2Proof/Syntax.lean ====
section
/-! DEFINITION. The instructions and the device steps of the Streloth S2: one constructor per row of spec/opcode_table.json, in its order. An encoded instruction carries its register and immediate fields; a device step carries the unit that acts and the values that come from outside the machine. -/

namespace Sys2Proof

/-- One constructor per row of the table of operations and events. -/
inductive Instr where
  /-- POWER_ON_RESET (R23). Power-on reset returns the device to phase RESET and resets every register to its Reset value. -/
  | powerOnReset
  /-- POWER_GOOD (R35). Power-good: the DTB starts from 0, PCIe link training starts and the collar tile enters phase COLLAR. -/
  | powerGood
  /-- CCT_SELECT (R31). The collar tile finishes reading the fuses and both CCT copies, validates them and selects one, or stops with ERR 0x01 or 0x06. -/
  | cctSelect
  /-- FIRMWARE_IMAGE_LOAD (R33). Phase 2 ends: the image hash is checked, the Headframe is loaded, the firewalls are programmed and the boot lock is set. -/
  | firmwareImageLoad
  /-- MEMORY_TRAINING (R34). Phase 3 training of all 24 channels completes, with lane-degraded bring-up or ERR 0x04. -/
  | memoryTraining (oneLane : List (Nat × Nat)) (dead : List Nat)
  /-- MEMORY_CLEAR (R27). Phase 4 completes: DRAM, local stores, XA shared SRAM and MBM are cleared, or boot stops with ERR 0x05. -/
  | memoryClear (uncorrectable : Bool)
  /-- PCIE_LINK_TRAINING (R24). PCIe 6.0 link training completes. -/
  | pcieLinkTraining
  /-- CONFIGURATION_REQUEST (R24). A host configuration request is answered with CRS before CCT selection, and from the selected CCT afterwards. -/
  | configurationRequest (fn : Nat) (resize : Option Nat)
  /-- IVTCTL_WRITE (R38). A host write of 1 to IVTCTL negotiates every host interface and enters READY, or stays in phase 5. -/
  | ivtctlWrite (fn : Nat) (val : BitVec 64)
  /-- PTM_EXCHANGE (R35). A completed PTM exchange sets the DTB to host time, or corrects it by slewing, and sets DTBSYNC. -/
  | ptmExchange (hostTime : Nat)
  /-- PTM_REPEAT (R35). The firmware timer repeats the PTM exchange at least every 10 ms. -/
  | ptmRepeat (hostTime : Nat)
  /-- DTB_OFFSET_CHECK (R35). An offset above 1 µs that lasts 1 s is reported with record 0x34B. -/
  | dtbOffsetCheck (offsetNs : Nat) (heldNs : Nat)
  /-- THERMAL_THROTTLE (R20). The junction reaches its grade limit: the clock drops by a 1/16 step and record 0x34A is written. -/
  | thermalThrottle (temp : Nat)
  /-- REGISTER_WRITE (R8). A host write to a BAR 0 register that has no behaviour of its own, subject to access codes, locks and enable conditions. -/
  | registerWrite (fn : Nat) (off : Nat) (val : BitVec 64)
  /-- QTAIL_DOORBELL (R86). A host write of QTAIL sets the new tail, or records 0x2CA when the value is rejected. -/
  | qtailDoorbell (fn : Nat) (q : Nat) (val : BitVec 64)
  /-- QCTL_ENABLE (R86). Writing EN from 0 to 1 resets the queue to IDLE, unless the device is not READY or NEGF is set. -/
  | qctlEnable (fn : Nat) (q : Nat) (val : BitVec 64)
  /-- QCTL_DISABLE (R86). Writing EN from 1 to 0 finishes or abandons the current instruction, clears the queue state and sets STATE OFF. -/
  | qctlDisable (fn : Nat) (q : Nat) (val : BitVec 64)
  /-- QCTL_RESUME (R86). Writing RESUME in FAULT returns the queue to RUN and refetches the faulting instruction. -/
  | qctlResume (fn : Nat) (q : Nat) (val : BitVec 64)
  /-- QCANCEL_WRITE (R87). A host write to QCANCEL cancels a launch, graph, phase or job of the queue's tenant. -/
  | qcancelWrite (fn : Nat) (q : Nat) (val : BitVec 64)
  /-- TLBINV_WRITE (R265). A host write to TLBINV invalidates the tenant's TLB entries in a range and sets BUSY. -/
  | tlbinvWrite (fn : Nat) (t : Nat) (val : BitVec 64)
  /-- TLB_INVALIDATION_COMPLETE (R265). BUSY clears once no access that used an invalidated entry remains unperformed. -/
  | tlbInvalidationComplete (t : Nat)
  /-- FBCTL_GO (R267). A Headframe write of FBCTL.GO starts replay-all for the tenant. -/
  | fbctlGo (t : Nat)
  /-- PCFG_ENABLE (R301). Writing EN = 1 enables a pool, or refuses and sets ERR; on success the unit copies frequencies and zeroes the metadata. -/
  | pcfgEnable (fn : Nat) (p : Nat) (val : BitVec 64)
  /-- PCFG_DISABLE (R301). Writing EN = 0 drops every sequence and page of the pool, unless the tenant has a live launch. -/
  | pcfgDisable (fn : Nat) (p : Nat) (val : BitVec 64)
  /-- MBCFG_ENABLE (R366). Setting MBCFG.EN from 0 to 1 zeroes both buffers, VERSION and TIME, and sets FRONT to 0. -/
  | mbcfgEnable (fn : Nat) (m : Nat) (val : BitVec 64)
  /-- TRCTL_ENABLE (R340). Writing TRCTL.EN from 0 to 1 starts tracing with NEXT 0 and WRAP clear. -/
  | trctlEnable (tile : Nat) (val : BitVec 64)
  /-- FEPREEMPT_START (R398). A write of FEPREEMPT with GO and a nonzero RUNG starts a ladder on the queue. -/
  | fepreemptStart (fn : Nat) (val : BitVec 64)
  /-- FEPREEMPT_END (R398). A write of FEPREEMPT with GO and RUNG 0 ends that queue's ladder. -/
  | fepreemptEnd (fn : Nat) (val : BitVec 64)
  /-- TDBGREL_WRITE (R392). A write that names a halted context makes it ready again. -/
  | tdbgrelWrite (fn : Nat) (t : Nat) (val : BitVec 64)
  /-- LVQ_WRITE (R408). A write to LVQ starts a status query of a level instance and sets BUSY. -/
  | lvqWrite (fn : Nat) (t : Nat) (val : BitVec 64)
  /-- LEVEL_QUERY_COMPLETE (R408). The query completes: LVRES and LVDIG are filled and BUSY clears. -/
  | levelQueryComplete (t : Nat)
  /-- PEERCTL_ENABLE (R415). Writing PEERCTL.EN from 0 to 1 starts a join and sends JOIN. -/
  | peerctlEnable (fn : Nat) (val : BitVec 64)
  /-- FWCTL_GO (R420). A write of FWCTL.GO starts verification of the image in the update window, or is refused while BUSY. -/
  | fwctlGo (fn : Nat)
  /-- FIRMWARE_VERIFY_COMPLETE (R421). Verification ends: a refusal records 0x34D, otherwise the switchover begins and requests are held. -/
  | firmwareVerifyComplete
  /-- FIRMWARE_SWITCHOVER_COMPLETE (R421). The new image starts, the held requests are released and record 0x34C is written. -/
  | firmwareSwitchoverComplete
  /-- RMAP_SET_VALID (R428). Setting V on a remap entry holds the row's accesses and copies the row to a spare row. -/
  | rmapSetValid (fn : Nat) (c : Nat) (e : Nat) (val : BitVec 64)
  /-- ROW_REMAP_COMPLETE (R428). The spare-row copy ends: the entry becomes valid, the held accesses proceed and record 0x346 is written. -/
  | rowRemapComplete (c : Nat) (e : Nat)
  /-- RMAP_CLEAR_VALID (R428). Clearing V frees the remap entry without copying back. -/
  | rmapClearValid (fn : Nat) (c : Nat) (e : Nat) (val : BitVec 64)
  /-- RMAP_PPR_START (R429). Setting PPR starts an hPPR or sPPR post-package repair, or waits for PPRBUSY to clear. -/
  | rmapPprStart (fn : Nat) (c : Nat) (e : Nat) (val : BitVec 64)
  /-- PPR_COMPLETE (R429). The repair ends: success copies the row back and records 0x348, failure records 0x349. -/
  | pprComplete (c : Nat) (ok : Bool)
  /-- LOG_TAIL_WRITE (R432). A write of TAIL frees read records, and is ignored when out of span. -/
  | logTailWrite (fn : Nat) (log : Nat) (val : BitVec 64)
  /-- HOST_BAR2_READ (R250). A host read through a BAR 2 aperture, translated or physical; a refusal returns 0xFF and records 0x088. -/
  | hostBar2Read (fn : Nat) (off : Nat) (size : Nat)
  /-- HOST_BAR2_WRITE (R250). A host write through a BAR 2 aperture; it sets local-store tags full, and a refusal discards it and records 0x088. -/
  | hostBar2Write (fn : Nat) (off : Nat) (size : Nat) (val : BitVec 512)
  /-- HOST_MBM_WINDOW_ACCESS (R366). A host read of the MBM window returns raw buffer bytes; a host write is discarded. -/
  | hostMbmWindowAccess (fn : Nat) (off : Nat) (size : Nat) (wr : Bool) (val : BitVec 512)
  /-- QUEUE_SELECT (R89). The queue engine chooses the next runnable queue by priority and rotation and begins its next instruction. -/
  | queueSelect (e : Nat)
  /-- FETCH_BLOCK_READ (R91). A fetch-ahead block read of a queue completes, and its granules are snapshotted. -/
  | fetchBlockRead (q : Nat)
  /-- QWAIT_POLL (R105). A waiting queue rereads its word at least once per µs and returns to RUN when the condition holds. -/
  | qwaitPoll (q : Nat)
  /-- QWAIT_TIMEOUT (R105). The QWAIT timeout expires and the queue faults with 0x2C7. -/
  | qwaitTimeout (q : Nat)
  /-- SIGNAL_WRITE (R104). A due posted signal is written as a release and may send an MSI-X vector; an address fault faults the queue. -/
  | signalWrite (q : Nat)
  /-- LAUNCH_ACCEPT (R54). The Front End reads the packet and header, checks them and accepts the launch with a new launch ID. -/
  | launchAccept (q : Nat)
  /-- DETERMINISTIC_RESERVATION (R122). A deterministic launch's placement set is reserved once no other deterministic launch holds its tiles. -/
  | deterministicReservation (n : Nat)
  /-- TASK_PLACE (R118). The placement logic picks a tile, marks the contexts and run, and starts staging the footprint. -/
  | taskPlace (n : Nat)
  /-- FOOTPRINT_STAGING_COMPLETE (R118). Staging ends: the scratch is zeroed, the seeds are written and the contexts become eligible. -/
  | footprintStagingComplete (id : Nat)
  /-- TASK_RETIRE (R129). A task with no live lane and a zero counter retires: the run is unpinned, the contexts freed and the launch counter decremented. -/
  | taskRetire (id : Nat)
  /-- INSTANCE_COMPLETE (R406). A closed level instance with a zero counter completes: its status is fixed, the parent decremented, QDEPs released and signals made due. -/
  | instanceComplete (t : Nat) (kind : Nat) (id : Nat)
  /-- RESULT_DIGEST (R411). The digest read of the output regions completes, or stops with record 0x381. -/
  | resultDigest (n : Nat)
  /-- STARVATION_WATCHDOG (R125). T_starve expires for an unplaceable launch: rung 2 is applied to a victim queue and 0x2C3 is recorded. -/
  | starvationWatchdog (n : Nat)
  /-- LADDER_START (R398). An unplaceable task contested by a lower-priority queue starts the pre-emption ladder at rung 1. -/
  | ladderStart (n : Nat)
  /-- RUNG_2_SAVE (R399). T1 expires while the need persists: the victim's resident tasks start saving. -/
  | rung2Save (q : Nat)
  /-- RUNG_3_RESET (R399). T2 expires: tasks not yet saved are killed and returned to their task queues. -/
  | rung3Reset (q : Nat)
  /-- TASK_SAVE_COMPLETE (R400). A task's frame is written to the save area and its contexts and run are freed. -/
  | taskSaveComplete (id : Nat)
  /-- TASK_RESTORE (R401). A saved task is restored to its own tile, slots and run once they are free and the ladder has ended. -/
  | taskRestore (id : Nat)
  /-- QUANTUM_EXPIRY (R402). QUANTUM.LEFT reaches 0: the task switches out for waiting work, or LEFT reloads. -/
  | quantumExpiry (tile : Nat) (slot : Nat)
  /-- KILL_QUIET (R403). All ports acknowledge a killed generation: the run and contexts are freed and the obligations removed. -/
  | killQuiet (id : Nat)
  /-- PARK_WATCHDOG (R404). A context parked for TWAIT on one wait produces record 0x305. -/
  | parkWatchdog (tile : Nat) (slot : Nat) (bank : Nat)
  /-- LAUNCH_STALL_WATCHDOG (R404). A launch stalled for TSTALL produces record 0x306 and is killed when KILL = 1. -/
  | launchStallWatchdog (n : Nat)
  /-- RESULT_WRITEBACK (R135). A fixed-latency result is written to its register in the issuing bank. -/
  | resultWriteback (tile : Nat) (slot : Nat) (bank : Nat)
  /-- ACCESS_PERFORMED (R251). A memory access is performed at its owning port and its data or acknowledgement returns to the thread.
  `ix` names one of the bank's four outstanding accesses, and in steps of 4 the failing symbols or bits that its read meets (log entry 5). -/
  | accessPerformed (tile : Nat) (slot : Nat) (bank : Nat) (ix : Nat)
  /-- REMOTE_ACCESS_ARRIVAL (R248). A determinate-network request arrives at a tile port and is performed in bank order. -/
  | remoteAccessArrival (tile : Nat) (slot : Nat) (bank : Nat) (ix : Nat)
  /-- REMOTE_REPLY_ARRIVAL (R410). A reply message arrives at the requesting context and completes its waiting instruction. -/
  | remoteReplyArrival (tile : Nat) (slot : Nat) (bank : Nat)
  /-- FETCH_UNIT_READ (R137). A 16-byte fetch unit read completes into a context's fetch buffer. -/
  | fetchUnitRead (tile : Nat) (slot : Nat)
  /-- BANK_SWITCH_COMPLETE (R140). A bank switch of one rotation ends and the new bank's context may issue. -/
  | bankSwitchComplete (tile : Nat) (slot : Nat)
  /-- WAIT_LIST_RETRY (R259). A refused wait is resent 64 cycles later. -/
  | waitListRetry (tile : Nat) (slot : Nat) (bank : Nat)
  /-- PAGE_WALK_COMPLETE (R264). A TLB miss walk ends with a mapping, a trap or a not-present outcome. -/
  | pageWalkComplete (tile : Nat) (t : Nat) (va : Nat)
  /-- REPLAY_ALL_SEND (R267). Replay-all sends one parked request through translation again, and clears REPLAY after the last. -/
  | replayAllSend (t : Nat)
  /-- SCRUB_READ (R425). A paced scrub read corrects or poisons one DRAM line or SRAM word. -/
  | scrubRead (line : Nat) (errs : Nat)
  /-- LANE_FAILURE (R430). A persistent single-lane failure in service starts conversion to lane-degraded mode. -/
  | laneFailure (c : Nat) (lane : Nat)
  /-- LANE_DEGRADED_COMPLETE (R430). Conversion ends: DEGR and LANE are set and record 0x345 is written. -/
  | laneDegradedComplete (c : Nat)
  /-- BTE_COMMAND_ENTRY (R270). A copy or burst command enters the BTE queue after its descriptor read and checks. -/
  | bteCommandEntry (tile : Nat) (ix : Nat)
  /-- BTE_CHUNK_COMPLETE (R277). A chunk's writes are performed and its bit is ORed into the record. -/
  | bteChunkComplete (tile : Nat) (ix : Nat) (chunk : Nat)
  /-- BTE_COMMAND_COMPLETE (R277). A copy completes or fails: the record's STATUS is written, the tag set full and COPYBYTES updated. -/
  | bteCommandComplete (tile : Nat) (ix : Nat)
  /-- BURST_DATA_RETURN (R293). A burst's data return and it is born, waits for its promised slot, or queues. -/
  | burstDataReturn (tile : Nat) (ix : Nat) (burst : Nat)
  /-- BURST_BIRTH (R292). A queued or waiting burst is born as a handler thread in a free pool slot. -/
  | burstBirth (tile : Nat) (slot : Nat)
  /-- MATRIX_COMMAND_ENTRY (R222). A matrix command enters its queue, at once or when an entry frees. -/
  | matrixCommandEntry (tile : Nat)
  /-- MATRIX_COMMAND_START (R224). The command at the head meets its start conditions and starts. -/
  | matrixCommandStart (tile : Nat) (leash : Bool)
  /-- MATRIX_STEP_COMPLETE (R223). A step's last row drains, and its flags are ORed into the issuing bank or RFLAGS. -/
  | matrixStepComplete (tile : Nat) (leash : Bool)
  /-- MATRIX_COMMAND_COMPLETE (R224). A load, swap, zero, write-in or read-out command completes. -/
  | matrixCommandComplete (tile : Nat) (leash : Bool) (ix : Nat)
  /-- MATRIX_CLEAR_COMPLETE (R213). Clearing of the task set ends after 64 cycles and ownership is dropped. -/
  | matrixClearComplete (tile : Nat)
  /-- MCMD_ARRIVAL (R238). A remote matrix command arrives and is accepted or refused, with a reply. -/
  | mcmdArrival (tile : Nat)
  /-- SEQ_COMMAND_EXECUTE (R302). A sequence command is carried out as one action in pool order at its slice. -/
  | seqCommandExecute (p : Nat)
  /-- STREAM_DELIVERY (R320). The sequence unit delivers one FIFO entry of an SQRD stream. -/
  | streamDelivery (tile : Nat) (slot : Nat) (port : Nat)
  /-- BIND_NOTICE_ARRIVAL (R326). A bind notice arrives: it is kept, grants credit, or is discarded with 0x114. -/
  | bindNoticeArrival (ix : Nat)
  /-- CREDIT_ARRIVAL (R326). Credits granted or returned by a receiving port arrive at the sender. -/
  | creditArrival (ix : Nat)
  /-- CHANNEL_MESSAGE_ARRIVAL (R329). A channel entry arrives and enters the FIFO, or is discarded with 0x113. -/
  | channelMessageArrival (ix : Nat)
  /-- TREE_DELIVER_ARRIVAL (R355). A tree value arrives at the parent's inbox and is accepted or refused. -/
  | treeDeliverArrival (ix : Nat)
  /-- TREE_DELIVER_RETRY (R355). A refused tree send repeats 64 cycles later. -/
  | treeDeliverRetry (tile : Nat) (slot : Nat) (bank : Nat)
  /-- BARRIER_ARRIVAL (R353). A core's arrival reaches the home tile; after NCORE arrivals the home sends releases. -/
  | barrierArrival (ix : Nat)
  /-- BARRIER_RELEASE (R353). A release reaches a tile: GEN advances, waiters wake and a held batch is sent. -/
  | barrierRelease (ix : Nat)
  /-- REDUCTION_PERFORM (R346). A memory-side reduction is performed at its owning port, or dropped on a fault. -/
  | reductionPerform (ix : Nat)
  /-- MAILBOX_PUBLICATION_ARRIVAL (R369). A posted publication reaches the MBM and is refused with 0x249, applied or set pending. -/
  | mailboxPublicationArrival (m : Nat)
  /-- MAILBOX_FLIP (R371). A pending publication flips FRONT, advances VERSION and sets TIME. -/
  | mailboxFlip (m : Nat)
  /-- MBPUBC_COPY_COMPLETE (R369). The MBPUBC copy of the new front to the back buffer ends. -/
  | mbpubcCopyComplete (m : Nat)
  /-- MAILBOX_READ_TRANSACTION (R371). An MBRD read of the front buffer, VERSION and TIME starts at the MBM and is answered whole. -/
  | mailboxReadTransaction (tile : Nat) (slot : Nat) (bank : Nat)
  /-- CEILING_TRIP (R362). The reflex instruction ceiling is exceeded: 0x247 ends the activation and CEIL increases. -/
  | ceilingTrip (tile : Nat) (slot : Nat)
  /-- LEASH_CEILING (R378). A leash context exceeds its ceiling and forces release with record 0x248. -/
  | leashCeiling (tile : Nat) (slot : Nat)
  /-- SEIZE_ARRIVAL (R376). A SEIZE message reaches an LA tile: it freezes the task queue and reads the header, or replies busy. -/
  | seizeArrival (tile : Nat)
  /-- SEIZURE_DRAIN_COMPLETE (R376). The step is done: a valid header starts the bank switch, an invalid one replies 2. -/
  | seizureDrainComplete (tile : Nat)
  /-- SEIZURE_SWAP_COMPLETE (R376). After 8 cycles of SWAPPING the leash contexts are seeded and the tile is SEIZED. -/
  | seizureSwapComplete (tile : Nat)
  /-- SEIZE_REPLY_ARRIVAL (R375). The seizure reply arrives and sets g[D] of the parked SEIZE. -/
  | seizeReplyArrival (tile : Nat) (slot : Nat) (bank : Nat)
  /-- REMOTE_SRLS_ARRIVAL (R379). A remote SRLS reaches the seized tile and releases it. -/
  | remoteSrlsArrival (tile : Nat)
  /-- SEIZURE_RELEASE_COMPLETE (R376). The switch back ends, the tile returns to IDLE and the seizure counters update. -/
  | seizureReleaseComplete (tile : Nat)
  /-- HFCALL_REPLY (R390). Headframe firmware answers a service call and the caller resumes with an acquire. -/
  | hfcallReply (tile : Nat) (slot : Nat) (bank : Nat)
  /-- PORSOL_JOIN (R415). A received JOIN is answered with JOINACK and negotiation proceeds. -/
  | porsolJoin (msg : BitVec 512)
  /-- PORSOL_JOINACK (R415). A received JOINACK completes negotiation: JOINED with roles, or FAIL with 0x384. -/
  | porsolJoinack (msg : BitVec 512)
  /-- PORSOL_HEART (R415). A received heartbeat renews the peer's liveness. -/
  | porsolHeart (msg : BitVec 512)
  /-- PORSOL_PDIG (R416). A received period digest is compared, updating CMP or MISM with record 0x382. -/
  | porsolPdig (msg : BitVec 512)
  /-- PORSOL_TAKEOVER (R417). A primary that receives TAKEOVER sets ROLE to 1. -/
  | porsolTakeover (msg : BitVec 512)
  /-- HEARTBEAT_SEND (R415). Every HB × 10 µs a joined side sends HEART. -/
  | heartbeatSend
  /-- JOIN_TIMEOUT (R415). No JOINACK within 10 ms: the join fails with 0x384. -/
  | joinTimeout
  /-- PEER_LOST (R417). MISS heartbeat periods pass without a message: LOST with 0x383, and takeover with AUTO. -/
  | peerLost
  /-- ILLEGAL (R72). MO 0, a reserved major, a reserved compressed form or QCLASS on a core traps with its instruction-class cause. -/
  | illegal (cause : BitVec 10) (bits : BitVec 32)
  /-- ADD (R178). g[D] := a + b. -/
  | add (d : BitVec 5) (a : BitVec 5) (b : BitVec 5)
  /-- SUB (R178). g[D] := a − b. -/
  | sub (d : BitVec 5) (a : BitVec 5) (b : BitVec 5)
  /-- AND (R178). Bitwise AND. -/
  | and (d : BitVec 5) (a : BitVec 5) (b : BitVec 5)
  /-- OR (R178). Bitwise OR. -/
  | or (d : BitVec 5) (a : BitVec 5) (b : BitVec 5)
  /-- XOR (R178). Bitwise XOR. -/
  | xor (d : BitVec 5) (a : BitVec 5) (b : BitVec 5)
  /-- ANDN (R178). a AND NOT b. -/
  | andn (d : BitVec 5) (a : BitVec 5) (b : BitVec 5)
  /-- SHL (R178). Shift left by b[5:0]. -/
  | shl (d : BitVec 5) (a : BitVec 5) (b : BitVec 5)
  /-- SHR (R178). Logical shift right. -/
  | shr (d : BitVec 5) (a : BitVec 5) (b : BitVec 5)
  /-- SHA (R178). Arithmetic shift right. -/
  | sha (d : BitVec 5) (a : BitVec 5) (b : BitVec 5)
  /-- ROTR (R178). Rotate right. -/
  | rotr (d : BitVec 5) (a : BitVec 5) (b : BitVec 5)
  /-- MIN (R178). Signed minimum. -/
  | min (d : BitVec 5) (a : BitVec 5) (b : BitVec 5)
  /-- MAX (R178). Signed maximum. -/
  | max (d : BitVec 5) (a : BitVec 5) (b : BitVec 5)
  /-- MINU (R178). Unsigned minimum. -/
  | minu (d : BitVec 5) (a : BitVec 5) (b : BitVec 5)
  /-- MAXU (R178). Unsigned maximum. -/
  | maxu (d : BitVec 5) (a : BitVec 5) (b : BitVec 5)
  /-- CMPEQ (R178). 1 if a = b. -/
  | cmpeq (d : BitVec 5) (a : BitVec 5) (b : BitVec 5)
  /-- CMPNE (R178). 1 if a ≠ b. -/
  | cmpne (d : BitVec 5) (a : BitVec 5) (b : BitVec 5)
  /-- CMPLT (R178). 1 if a < b, signed. -/
  | cmplt (d : BitVec 5) (a : BitVec 5) (b : BitVec 5)
  /-- CMPLTU (R178). 1 if a < b, unsigned. -/
  | cmpltu (d : BitVec 5) (a : BitVec 5) (b : BitVec 5)
  /-- CMPGE (R178). 1 if a ≥ b, signed. -/
  | cmpge (d : BitVec 5) (a : BitVec 5) (b : BitVec 5)
  /-- CMPGEU (R178). 1 if a ≥ b, unsigned. -/
  | cmpgeu (d : BitVec 5) (a : BitVec 5) (b : BitVec 5)
  /-- SEL (R178). a if the old g[D] ≠ 0, else b. -/
  | sel (d : BitVec 5) (a : BitVec 5) (b : BitVec 5)
  /-- ADDW (R178). 32-bit add, sign-extended. -/
  | addw (d : BitVec 5) (a : BitVec 5) (b : BitVec 5)
  /-- SUBW (R178). 32-bit subtract, sign-extended. -/
  | subw (d : BitVec 5) (a : BitVec 5) (b : BitVec 5)
  /-- ADDI (R179). Add sign-extended imm15. -/
  | addi (d : BitVec 5) (a : BitVec 5) (i : BitVec 15)
  /-- ANDI (R179). AND with sign-extended imm15. -/
  | andi (d : BitVec 5) (a : BitVec 5) (i : BitVec 15)
  /-- ORI (R179). OR with sign-extended imm15. -/
  | ori (d : BitVec 5) (a : BitVec 5) (i : BitVec 15)
  /-- XORI (R179). XOR with sign-extended imm15. -/
  | xori (d : BitVec 5) (a : BitVec 5) (i : BitVec 15)
  /-- SHLI (R180). Shift left by immediate. -/
  | shli (d : BitVec 5) (a : BitVec 5) (n : BitVec 6)
  /-- SHRI (R180). Logical shift right by immediate. -/
  | shri (d : BitVec 5) (a : BitVec 5) (n : BitVec 6)
  /-- SHAI (R180). Arithmetic shift right by immediate. -/
  | shai (d : BitVec 5) (a : BitVec 5) (n : BitVec 6)
  /-- ROTRI (R180). Rotate right by immediate. -/
  | rotri (d : BitVec 5) (a : BitVec 5) (n : BitVec 6)
  /-- CMPEQI (R181). 1 if g[A] equals imm12. -/
  | cmpeqi (d : BitVec 5) (a : BitVec 5) (i : BitVec 12)
  /-- CMPNEI (R181). 1 if g[A] differs from imm12. -/
  | cmpnei (d : BitVec 5) (a : BitVec 5) (i : BitVec 12)
  /-- CMPLTI (R181). 1 if g[A] < imm12, signed. -/
  | cmplti (d : BitVec 5) (a : BitVec 5) (i : BitVec 12)
  /-- CMPLTUI (R181). 1 if g[A] < imm12, unsigned. -/
  | cmpltui (d : BitVec 5) (a : BitVec 5) (i : BitVec 12)
  /-- CMPGEI (R181). 1 if g[A] ≥ imm12, signed. -/
  | cmpgei (d : BitVec 5) (a : BitVec 5) (i : BitVec 12)
  /-- CMPGEUI (R181). 1 if g[A] ≥ imm12, unsigned. -/
  | cmpgeui (d : BitVec 5) (a : BitVec 5) (i : BitVec 12)
  /-- LIH (R182). g[D] := SignExtend(imm20) × 2^12. -/
  | lih (d : BitVec 5) (i : BitVec 20)
  /-- ADDPC (R182). g[D] := PC + SignExtend(imm20) × 2^12, modulo 2^48. -/
  | addpc (d : BitVec 5) (i : BitVec 20)
  /-- LI64 (R183). Load a 64-bit immediate from two extension words. -/
  | li64 (d : BitVec 5) (imm : BitVec 64)
  /-- MUL (R184). Low 64 bits of the product. -/
  | mul (d : BitVec 5) (a : BitVec 5) (b : BitVec 5)
  /-- MULH (R184). High 64 bits, signed × signed. -/
  | mulh (d : BitVec 5) (a : BitVec 5) (b : BitVec 5)
  /-- MULHU (R184). High 64 bits, unsigned. -/
  | mulhu (d : BitVec 5) (a : BitVec 5) (b : BitVec 5)
  /-- MULHSU (R184). High 64 bits, signed × unsigned. -/
  | mulhsu (d : BitVec 5) (a : BitVec 5) (b : BitVec 5)
  /-- DIV (R185). Signed quotient with defined zero-divisor results. -/
  | div (d : BitVec 5) (a : BitVec 5) (b : BitVec 5)
  /-- DIVU (R185). Unsigned quotient. -/
  | divu (d : BitVec 5) (a : BitVec 5) (b : BitVec 5)
  /-- REM (R185). Signed remainder. -/
  | rem (d : BitVec 5) (a : BitVec 5) (b : BitVec 5)
  /-- REMU (R185). Unsigned remainder. -/
  | remu (d : BitVec 5) (a : BitVec 5) (b : BitVec 5)
  /-- MULW (R184). 32-bit product, sign-extended. -/
  | mulw (d : BitVec 5) (a : BitVec 5) (b : BitVec 5)
  /-- MADD (R184). old g[D] + a × b. -/
  | madd (d : BitVec 5) (a : BitVec 5) (b : BitVec 5)
  /-- BFX (R187). Extract a signed bit field. -/
  | bfx (d : BitVec 5) (a : BitVec 5) (b : BitVec 5)
  /-- BFXU (R187). Extract an unsigned bit field. -/
  | bfxu (d : BitVec 5) (a : BitVec 5) (b : BitVec 5)
  /-- BFI (R187). Insert a bit field into old g[D]. -/
  | bfi (d : BitVec 5) (a : BitVec 5) (b : BitVec 5)
  /-- POPC (R186). Count of 1 bits. -/
  | popc (d : BitVec 5) (a : BitVec 5)
  /-- CLZ (R186). Count leading zeros. -/
  | clz (d : BitVec 5) (a : BitVec 5)
  /-- CTZ (R186). Count trailing zeros. -/
  | ctz (d : BitVec 5) (a : BitVec 5)
  /-- BREV (R186). Reverse bits. -/
  | brev (d : BitVec 5) (a : BitVec 5)
  /-- BSWAP (R186). Reverse bytes. -/
  | bswap (d : BitVec 5) (a : BitVec 5)
  /-- SEXTB (R186). Sign-extend byte. -/
  | sextb (d : BitVec 5) (a : BitVec 5)
  /-- SEXTH (R186). Sign-extend halfword. -/
  | sexth (d : BitVec 5) (a : BitVec 5)
  /-- SEXTW (R186). Sign-extend word. -/
  | sextw (d : BitVec 5) (a : BitVec 5)
  /-- ZEXTB (R186). Zero-extend byte. -/
  | zextb (d : BitVec 5) (a : BitVec 5)
  /-- ZEXTH (R186). Zero-extend halfword. -/
  | zexth (d : BitVec 5) (a : BitVec 5)
  /-- ZEXTW (R186). Zero-extend word. -/
  | zextw (d : BitVec 5) (a : BitVec 5)
  /-- LEA (R188). g[D] := g[A] + g[B] × 2^SC + disp7. -/
  | lea (d : BitVec 5) (a : BitVec 5) (b : BitVec 5) (i : BitVec 7) (c : BitVec 3)
  /-- BEQ (R189). Branch if equal. -/
  | beq (a : BitVec 5) (b : BitVec 5) (o : BitVec 12)
  /-- BNE (R189). Branch if not equal. -/
  | bne (a : BitVec 5) (b : BitVec 5) (o : BitVec 12)
  /-- BLT (R189). Branch if less, signed. -/
  | blt (a : BitVec 5) (b : BitVec 5) (o : BitVec 12)
  /-- BGE (R189). Branch if greater or equal, signed. -/
  | bge (a : BitVec 5) (b : BitVec 5) (o : BitVec 12)
  /-- BLTU (R189). Branch if less, unsigned. -/
  | bltu (a : BitVec 5) (b : BitVec 5) (o : BitVec 12)
  /-- BGEU (R189). Branch if greater or equal, unsigned. -/
  | bgeu (a : BitVec 5) (b : BitVec 5) (o : BitVec 12)
  /-- BBS (R189). Branch if bit set. -/
  | bbs (a : BitVec 5) (b : BitVec 5) (o : BitVec 12)
  /-- BBC (R189). Branch if bit clear. -/
  | bbc (a : BitVec 5) (b : BitVec 5) (o : BitVec 12)
  /-- BEQZ (R190). Branch if zero. -/
  | beqz (a : BitVec 5) (o : BitVec 12)
  /-- BNEZ (R190). Branch if nonzero. -/
  | bnez (a : BitVec 5) (o : BitVec 12)
  /-- BLTZ (R190). Branch if negative. -/
  | bltz (a : BitVec 5) (o : BitVec 12)
  /-- BGEZ (R190). Branch if non-negative. -/
  | bgez (a : BitVec 5) (o : BitVec 12)
  /-- BGTZ (R190). Branch if positive. -/
  | bgtz (a : BitVec 5) (o : BitVec 12)
  /-- BLEZ (R190). Branch if not positive. -/
  | blez (a : BitVec 5) (o : BitVec 12)
  /-- DBNZ (R190). Decrement g[A] and branch if the result is nonzero. -/
  | dbnz (a : BitVec 5) (o : BitVec 12)
  /-- J (R191). Jump PC-relative. -/
  | j (i : BitVec 25)
  /-- JL (R191). Jump and link to g1. -/
  | jl (i : BitVec 25)
  /-- JR (R192). Jump to g[A]. -/
  | jr (a : BitVec 5)
  /-- JLR (R192). Jump to g[A] and link to g[D]. -/
  | jlr (d : BitVec 5) (a : BitVec 5)
  /-- RPT (R150). Run a body of n instructions c times with register strides. -/
  | rpt (a : BitVec 5) (n : BitVec 5) (x : BitVec 3) (y : BitVec 3) (z : BitVec 3)
  /-- LD_S8 (R255). Load a byte, sign-extended. -/
  | ldS8 (d : BitVec 5) (a : BitVec 5) (k : BitVec 4) (i : BitVec 8)
  /-- LD_Z8 (R255). Load a byte, zero-extended. -/
  | ldZ8 (d : BitVec 5) (a : BitVec 5) (k : BitVec 4) (i : BitVec 8)
  /-- LD_S16 (R255). Load a halfword, sign-extended. -/
  | ldS16 (d : BitVec 5) (a : BitVec 5) (k : BitVec 4) (i : BitVec 8)
  /-- LD_Z16 (R255). Load a halfword, zero-extended. -/
  | ldZ16 (d : BitVec 5) (a : BitVec 5) (k : BitVec 4) (i : BitVec 8)
  /-- LD_S32 (R255). Load a word, sign-extended. -/
  | ldS32 (d : BitVec 5) (a : BitVec 5) (k : BitVec 4) (i : BitVec 8)
  /-- LD_Z32 (R255). Load a word, zero-extended. -/
  | ldZ32 (d : BitVec 5) (a : BitVec 5) (k : BitVec 4) (i : BitVec 8)
  /-- LD_64 (R255). Load a doubleword. -/
  | ld64 (d : BitVec 5) (a : BitVec 5) (k : BitVec 4) (i : BitVec 8)
  /-- ST_8 (R255). Store a byte. -/
  | st8 (d : BitVec 5) (a : BitVec 5) (k : BitVec 4) (i : BitVec 8)
  /-- ST_16 (R255). Store a halfword. -/
  | st16 (d : BitVec 5) (a : BitVec 5) (k : BitVec 4) (i : BitVec 8)
  /-- ST_32 (R255). Store a word. -/
  | st32 (d : BitVec 5) (a : BitVec 5) (k : BitVec 4) (i : BitVec 8)
  /-- ST_64 (R255). Store a doubleword. -/
  | st64 (d : BitVec 5) (a : BitVec 5) (k : BitVec 4) (i : BitVec 8)
  /-- LDX_S8 (R255). Indexed byte load, sign-extended. -/
  | ldxS8 (d : BitVec 5) (a : BitVec 5) (b : BitVec 5) (k : BitVec 4) (c : BitVec 3)
  /-- LDX_Z8 (R255). Indexed byte load, zero-extended. -/
  | ldxZ8 (d : BitVec 5) (a : BitVec 5) (b : BitVec 5) (k : BitVec 4) (c : BitVec 3)
  /-- LDX_S16 (R255). Indexed halfword load, sign-extended. -/
  | ldxS16 (d : BitVec 5) (a : BitVec 5) (b : BitVec 5) (k : BitVec 4) (c : BitVec 3)
  /-- LDX_Z16 (R255). Indexed halfword load, zero-extended. -/
  | ldxZ16 (d : BitVec 5) (a : BitVec 5) (b : BitVec 5) (k : BitVec 4) (c : BitVec 3)
  /-- LDX_S32 (R255). Indexed word load, sign-extended. -/
  | ldxS32 (d : BitVec 5) (a : BitVec 5) (b : BitVec 5) (k : BitVec 4) (c : BitVec 3)
  /-- LDX_Z32 (R255). Indexed word load, zero-extended. -/
  | ldxZ32 (d : BitVec 5) (a : BitVec 5) (b : BitVec 5) (k : BitVec 4) (c : BitVec 3)
  /-- LDX_64 (R255). Indexed doubleword load. -/
  | ldx64 (d : BitVec 5) (a : BitVec 5) (b : BitVec 5) (k : BitVec 4) (c : BitVec 3)
  /-- STX_8 (R255). Indexed byte store. -/
  | stx8 (d : BitVec 5) (a : BitVec 5) (b : BitVec 5) (k : BitVec 4) (c : BitVec 3)
  /-- STX_16 (R255). Indexed halfword store. -/
  | stx16 (d : BitVec 5) (a : BitVec 5) (b : BitVec 5) (k : BitVec 4) (c : BitVec 3)
  /-- STX_32 (R255). Indexed word store. -/
  | stx32 (d : BitVec 5) (a : BitVec 5) (b : BitVec 5) (k : BitVec 4) (c : BitVec 3)
  /-- STX_64 (R255). Indexed doubleword store. -/
  | stx64 (d : BitVec 5) (a : BitVec 5) (b : BitVec 5) (k : BitVec 4) (c : BitVec 3)
  /-- LDFE (R258). Wait for full, read the word and set it empty; acquire. -/
  | ldfe (d : BitVec 5) (a : BitVec 5) (i : BitVec 8) (s : BitVec 3)
  /-- LDFW (R258). Wait for full and read without emptying; acquire. -/
  | ldfw (d : BitVec 5) (a : BitVec 5) (i : BitVec 8) (s : BitVec 3)
  /-- STFW (R258). Wait for empty, write the word and set it full; release. -/
  | stfw (d : BitVec 5) (a : BitVec 5) (i : BitVec 8) (s : BitVec 3)
  /-- STFS (R258). Write the word and set it full without waiting; release. -/
  | stfs (d : BitVec 5) (a : BitVec 5) (i : BitVec 8) (s : BitVec 3)
  /-- FETAG (R258). Read the tag; acquire. -/
  | fetag (d : BitVec 5) (a : BitVec 5) (i : BitVec 8) (s : BitVec 3)
  /-- FECLR (R258). Set the tag empty; release. -/
  | feclr (a : BitVec 5) (i : BitVec 8) (s : BitVec 3)
  /-- FENCE (R261). Wait until earlier accesses are performed at the scope. -/
  | fence (s : BitVec 3)
  /-- IFENCE (R261). FENCE, then discard the fetch buffer. -/
  | ifence (s : BitVec 3)
  /-- EFENCE (R261). FENCE and wait for the thread's engine commands. -/
  | efence (s : BitVec 3)
  /-- VLD (R256). Vector load of consecutive words under a mask. -/
  | vld (d : BitVec 5) (a : BitVec 5) (b : BitVec 5) (k : BitVec 4)
  /-- VST (R256). Vector store of consecutive words. -/
  | vst (d : BitVec 5) (a : BitVec 5) (b : BitVec 5) (k : BitVec 4)
  /-- VLDS (R256). Strided vector load. -/
  | vlds (d : BitVec 5) (a : BitVec 5) (b : BitVec 5) (k : BitVec 4)
  /-- VSTS (R256). Strided vector store. -/
  | vsts (d : BitVec 5) (a : BitVec 5) (b : BitVec 5) (k : BitVec 4)
  /-- VLDX (R256). Indexed vector gather. -/
  | vldx (d : BitVec 5) (a : BitVec 5) (b : BitVec 5) (k : BitVec 4)
  /-- VSTX (R256). Indexed vector scatter. -/
  | vstx (d : BitVec 5) (a : BitVec 5) (b : BitVec 5) (k : BitVec 4)
  /-- VLDB (R256). Broadcast load of one word. -/
  | vldb (d : BitVec 5) (a : BitVec 5) (b : BitVec 5) (k : BitVec 4)
  /-- LDT (R236). Load the shadow or leash plane from a row-major source, transposed. -/
  | ldt (a : BitVec 5) (b : BitVec 5) (k : BitVec 4)
  /-- VADD_I16 (R200). 16-bit lane add. -/
  | vaddI16 (d : BitVec 5) (a : BitVec 5) (b : BitVec 5) (m : BitVec 5)
  /-- VSUB_I16 (R200). 16-bit lane subtract. -/
  | vsubI16 (d : BitVec 5) (a : BitVec 5) (b : BitVec 5) (m : BitVec 5)
  /-- VMUL_I16 (R200). 16-bit lane multiply, low half. -/
  | vmulI16 (d : BitVec 5) (a : BitVec 5) (b : BitVec 5) (m : BitVec 5)
  /-- VMULH_I16 (R200). 16-bit lane signed multiply, high half. -/
  | vmulhI16 (d : BitVec 5) (a : BitVec 5) (b : BitVec 5) (m : BitVec 5)
  /-- VMIN_I16 (R200). 16-bit signed minimum. -/
  | vminI16 (d : BitVec 5) (a : BitVec 5) (b : BitVec 5) (m : BitVec 5)
  /-- VMAX_I16 (R200). 16-bit signed maximum. -/
  | vmaxI16 (d : BitVec 5) (a : BitVec 5) (b : BitVec 5) (m : BitVec 5)
  /-- VMINU_I16 (R200). 16-bit unsigned minimum. -/
  | vminuI16 (d : BitVec 5) (a : BitVec 5) (b : BitVec 5) (m : BitVec 5)
  /-- VMAXU_I16 (R200). 16-bit unsigned maximum. -/
  | vmaxuI16 (d : BitVec 5) (a : BitVec 5) (b : BitVec 5) (m : BitVec 5)
  /-- VAND_I16 (R200). 16-bit lane AND. -/
  | vandI16 (d : BitVec 5) (a : BitVec 5) (b : BitVec 5) (m : BitVec 5)
  /-- VOR_I16 (R200). 16-bit lane OR. -/
  | vorI16 (d : BitVec 5) (a : BitVec 5) (b : BitVec 5) (m : BitVec 5)
  /-- VXOR_I16 (R200). 16-bit lane XOR. -/
  | vxorI16 (d : BitVec 5) (a : BitVec 5) (b : BitVec 5) (m : BitVec 5)
  /-- VSHL_I16 (R200). 16-bit lane shift left. -/
  | vshlI16 (d : BitVec 5) (a : BitVec 5) (b : BitVec 5) (m : BitVec 5)
  /-- VSHR_I16 (R200). 16-bit lane logical shift right. -/
  | vshrI16 (d : BitVec 5) (a : BitVec 5) (b : BitVec 5) (m : BitVec 5)
  /-- VSHA_I16 (R200). 16-bit lane arithmetic shift right. -/
  | vshaI16 (d : BitVec 5) (a : BitVec 5) (b : BitVec 5) (m : BitVec 5)
  /-- VABS_I16 (R200). 16-bit lane absolute value. -/
  | vabsI16 (d : BitVec 5) (a : BitVec 5) (m : BitVec 5)
  /-- VNEG_I16 (R200). 16-bit lane negate. -/
  | vnegI16 (d : BitVec 5) (a : BitVec 5) (m : BitVec 5)
  /-- VADDS_I16 (R200). 16-bit saturating add, raising SA. -/
  | vaddsI16 (d : BitVec 5) (a : BitVec 5) (b : BitVec 5) (m : BitVec 5)
  /-- VSUBS_I16 (R200). 16-bit saturating subtract, raising SA. -/
  | vsubsI16 (d : BitVec 5) (a : BitVec 5) (b : BitVec 5) (m : BitVec 5)
  /-- VMAC_I16 (R200). 16-bit multiply-accumulate. -/
  | vmacI16 (d : BitVec 5) (a : BitVec 5) (b : BitVec 5) (m : BitVec 5)
  /-- VADD_I32 (R200). 32-bit lane add. -/
  | vaddI32 (d : BitVec 5) (a : BitVec 5) (b : BitVec 5) (m : BitVec 5)
  /-- VSUB_I32 (R200). 32-bit lane subtract. -/
  | vsubI32 (d : BitVec 5) (a : BitVec 5) (b : BitVec 5) (m : BitVec 5)
  /-- VMUL_I32 (R200). 32-bit lane multiply, low half. -/
  | vmulI32 (d : BitVec 5) (a : BitVec 5) (b : BitVec 5) (m : BitVec 5)
  /-- VMULH_I32 (R200). 32-bit lane signed multiply, high half. -/
  | vmulhI32 (d : BitVec 5) (a : BitVec 5) (b : BitVec 5) (m : BitVec 5)
  /-- VMIN_I32 (R200). 32-bit signed minimum. -/
  | vminI32 (d : BitVec 5) (a : BitVec 5) (b : BitVec 5) (m : BitVec 5)
  /-- VMAX_I32 (R200). 32-bit signed maximum. -/
  | vmaxI32 (d : BitVec 5) (a : BitVec 5) (b : BitVec 5) (m : BitVec 5)
  /-- VMINU_I32 (R200). 32-bit unsigned minimum. -/
  | vminuI32 (d : BitVec 5) (a : BitVec 5) (b : BitVec 5) (m : BitVec 5)
  /-- VMAXU_I32 (R200). 32-bit unsigned maximum. -/
  | vmaxuI32 (d : BitVec 5) (a : BitVec 5) (b : BitVec 5) (m : BitVec 5)
  /-- VAND_I32 (R200). 32-bit lane AND. -/
  | vandI32 (d : BitVec 5) (a : BitVec 5) (b : BitVec 5) (m : BitVec 5)
  /-- VOR_I32 (R200). 32-bit lane OR. -/
  | vorI32 (d : BitVec 5) (a : BitVec 5) (b : BitVec 5) (m : BitVec 5)
  /-- VXOR_I32 (R200). 32-bit lane XOR. -/
  | vxorI32 (d : BitVec 5) (a : BitVec 5) (b : BitVec 5) (m : BitVec 5)
  /-- VSHL_I32 (R200). 32-bit lane shift left. -/
  | vshlI32 (d : BitVec 5) (a : BitVec 5) (b : BitVec 5) (m : BitVec 5)
  /-- VSHR_I32 (R200). 32-bit lane logical shift right. -/
  | vshrI32 (d : BitVec 5) (a : BitVec 5) (b : BitVec 5) (m : BitVec 5)
  /-- VSHA_I32 (R200). 32-bit lane arithmetic shift right. -/
  | vshaI32 (d : BitVec 5) (a : BitVec 5) (b : BitVec 5) (m : BitVec 5)
  /-- VABS_I32 (R200). 32-bit lane absolute value. -/
  | vabsI32 (d : BitVec 5) (a : BitVec 5) (m : BitVec 5)
  /-- VNEG_I32 (R200). 32-bit lane negate. -/
  | vnegI32 (d : BitVec 5) (a : BitVec 5) (m : BitVec 5)
  /-- VADDS_I32 (R200). 32-bit saturating add. -/
  | vaddsI32 (d : BitVec 5) (a : BitVec 5) (b : BitVec 5) (m : BitVec 5)
  /-- VSUBS_I32 (R200). 32-bit saturating subtract. -/
  | vsubsI32 (d : BitVec 5) (a : BitVec 5) (b : BitVec 5) (m : BitVec 5)
  /-- VMAC_I32 (R200). 32-bit multiply-accumulate. -/
  | vmacI32 (d : BitVec 5) (a : BitVec 5) (b : BitVec 5) (m : BitVec 5)
  /-- VADD_F32 (R201). FP32 add. -/
  | vaddF32 (d : BitVec 5) (a : BitVec 5) (b : BitVec 5) (m : BitVec 5)
  /-- VSUB_F32 (R201). FP32 subtract. -/
  | vsubF32 (d : BitVec 5) (a : BitVec 5) (b : BitVec 5) (m : BitVec 5)
  /-- VMUL_F32 (R201). FP32 multiply. -/
  | vmulF32 (d : BitVec 5) (a : BitVec 5) (b : BitVec 5) (m : BitVec 5)
  /-- VFMA_F32 (R201). FP32 fused a × b + d. -/
  | vfmaF32 (d : BitVec 5) (a : BitVec 5) (b : BitVec 5) (m : BitVec 5)
  /-- VFMS_F32 (R201). FP32 fused a × b − d. -/
  | vfmsF32 (d : BitVec 5) (a : BitVec 5) (b : BitVec 5) (m : BitVec 5)
  /-- VMIN_F32 (R201). FP32 minimum. -/
  | vminF32 (d : BitVec 5) (a : BitVec 5) (b : BitVec 5) (m : BitVec 5)
  /-- VMAX_F32 (R201). FP32 maximum. -/
  | vmaxF32 (d : BitVec 5) (a : BitVec 5) (b : BitVec 5) (m : BitVec 5)
  /-- VABS_F32 (R201). FP32 clear the sign bit. -/
  | vabsF32 (d : BitVec 5) (a : BitVec 5) (m : BitVec 5)
  /-- VNEG_F32 (R201). FP32 invert the sign bit. -/
  | vnegF32 (d : BitVec 5) (a : BitVec 5) (m : BitVec 5)
  /-- VSCALE_F32 (R201). FP32 a × 2^n. -/
  | vscaleF32 (d : BitVec 5) (a : BitVec 5) (b : BitVec 5) (m : BitVec 5)
  /-- VFNMA_F32 (R201). FP32 fused d − a × b. -/
  | vfnmaF32 (d : BitVec 5) (a : BitVec 5) (b : BitVec 5) (m : BitVec 5)
  /-- VADD_BF16 (R201). BF16 add. -/
  | vaddBf16 (d : BitVec 5) (a : BitVec 5) (b : BitVec 5) (m : BitVec 5)
  /-- VSUB_BF16 (R201). BF16 subtract. -/
  | vsubBf16 (d : BitVec 5) (a : BitVec 5) (b : BitVec 5) (m : BitVec 5)
  /-- VMUL_BF16 (R201). BF16 multiply. -/
  | vmulBf16 (d : BitVec 5) (a : BitVec 5) (b : BitVec 5) (m : BitVec 5)
  /-- VFMA_BF16 (R201). BF16 fused multiply-add. -/
  | vfmaBf16 (d : BitVec 5) (a : BitVec 5) (b : BitVec 5) (m : BitVec 5)
  /-- VFMS_BF16 (R201). BF16 fused multiply-subtract. -/
  | vfmsBf16 (d : BitVec 5) (a : BitVec 5) (b : BitVec 5) (m : BitVec 5)
  /-- VMIN_BF16 (R201). BF16 minimum. -/
  | vminBf16 (d : BitVec 5) (a : BitVec 5) (b : BitVec 5) (m : BitVec 5)
  /-- VMAX_BF16 (R201). BF16 maximum. -/
  | vmaxBf16 (d : BitVec 5) (a : BitVec 5) (b : BitVec 5) (m : BitVec 5)
  /-- VABS_BF16 (R201). BF16 clear the sign bit. -/
  | vabsBf16 (d : BitVec 5) (a : BitVec 5) (m : BitVec 5)
  /-- VNEG_BF16 (R201). BF16 invert the sign bit. -/
  | vnegBf16 (d : BitVec 5) (a : BitVec 5) (m : BitVec 5)
  /-- VSCALE_BF16 (R201). BF16 a × 2^n. -/
  | vscaleBf16 (d : BitVec 5) (a : BitVec 5) (b : BitVec 5) (m : BitVec 5)
  /-- VFNMA_BF16 (R201). BF16 fused d − a × b. -/
  | vfnmaBf16 (d : BitVec 5) (a : BitVec 5) (b : BitVec 5) (m : BitVec 5)
  /-- VADD_F16 (R201). FP16 add. -/
  | vaddF16 (d : BitVec 5) (a : BitVec 5) (b : BitVec 5) (m : BitVec 5)
  /-- VSUB_F16 (R201). FP16 subtract. -/
  | vsubF16 (d : BitVec 5) (a : BitVec 5) (b : BitVec 5) (m : BitVec 5)
  /-- VMUL_F16 (R201). FP16 multiply. -/
  | vmulF16 (d : BitVec 5) (a : BitVec 5) (b : BitVec 5) (m : BitVec 5)
  /-- VFMA_F16 (R201). FP16 fused multiply-add. -/
  | vfmaF16 (d : BitVec 5) (a : BitVec 5) (b : BitVec 5) (m : BitVec 5)
  /-- VFMS_F16 (R201). FP16 fused multiply-subtract. -/
  | vfmsF16 (d : BitVec 5) (a : BitVec 5) (b : BitVec 5) (m : BitVec 5)
  /-- VMIN_F16 (R201). FP16 minimum. -/
  | vminF16 (d : BitVec 5) (a : BitVec 5) (b : BitVec 5) (m : BitVec 5)
  /-- VMAX_F16 (R201). FP16 maximum. -/
  | vmaxF16 (d : BitVec 5) (a : BitVec 5) (b : BitVec 5) (m : BitVec 5)
  /-- VABS_F16 (R201). FP16 clear the sign bit. -/
  | vabsF16 (d : BitVec 5) (a : BitVec 5) (m : BitVec 5)
  /-- VNEG_F16 (R201). FP16 invert the sign bit. -/
  | vnegF16 (d : BitVec 5) (a : BitVec 5) (m : BitVec 5)
  /-- VSCALE_F16 (R201). FP16 a × 2^n. -/
  | vscaleF16 (d : BitVec 5) (a : BitVec 5) (b : BitVec 5) (m : BitVec 5)
  /-- VFNMA_F16 (R201). FP16 fused d − a × b. -/
  | vfnmaF16 (d : BitVec 5) (a : BitVec 5) (b : BitVec 5) (m : BitVec 5)
  /-- VADD_E4M3 (R202). Packed E4M3 add. -/
  | vaddE4m3 (d : BitVec 5) (a : BitVec 5) (b : BitVec 5) (m : BitVec 5)
  /-- VSUB_E4M3 (R202). Packed E4M3 subtract. -/
  | vsubE4m3 (d : BitVec 5) (a : BitVec 5) (b : BitVec 5) (m : BitVec 5)
  /-- VMUL_E4M3 (R202). Packed E4M3 multiply. -/
  | vmulE4m3 (d : BitVec 5) (a : BitVec 5) (b : BitVec 5) (m : BitVec 5)
  /-- VADD_E5M2 (R202). Packed E5M2 add. -/
  | vaddE5m2 (d : BitVec 5) (a : BitVec 5) (b : BitVec 5) (m : BitVec 5)
  /-- VSUB_E5M2 (R202). Packed E5M2 subtract. -/
  | vsubE5m2 (d : BitVec 5) (a : BitVec 5) (b : BitVec 5) (m : BitVec 5)
  /-- VMUL_E5M2 (R202). Packed E5M2 multiply. -/
  | vmulE5m2 (d : BitVec 5) (a : BitVec 5) (b : BitVec 5) (m : BitVec 5)
  /-- VADD_I8 (R202). Packed 8-bit add. -/
  | vaddI8 (d : BitVec 5) (a : BitVec 5) (b : BitVec 5) (m : BitVec 5)
  /-- VSUB_I8 (R202). Packed 8-bit subtract. -/
  | vsubI8 (d : BitVec 5) (a : BitVec 5) (b : BitVec 5) (m : BitVec 5)
  /-- VADDS_I8 (R202). Packed 8-bit saturating add. -/
  | vaddsI8 (d : BitVec 5) (a : BitVec 5) (b : BitVec 5) (m : BitVec 5)
  /-- VMIN_I8 (R202). Packed 8-bit signed minimum. -/
  | vminI8 (d : BitVec 5) (a : BitVec 5) (b : BitVec 5) (m : BitVec 5)
  /-- VMAX_I8 (R202). Packed 8-bit signed maximum. -/
  | vmaxI8 (d : BitVec 5) (a : BitVec 5) (b : BitVec 5) (m : BitVec 5)
  /-- VMOV (R203). Copy lanes of vA under a mask. -/
  | vmov (d : BitVec 5) (a : BitVec 5) (m : BitVec 5)
  /-- VMERGE (R203). Select vA or vB per mask bit. -/
  | vmerge (d : BitVec 5) (a : BitVec 5) (b : BitVec 5) (m : BitVec 5)
  /-- VBCAST_16 (R203). Broadcast a scalar to 16-bit lanes. -/
  | vbcast16 (d : BitVec 5) (a : BitVec 5) (m : BitVec 5)
  /-- VBCAST_32 (R203). Broadcast a scalar to 32-bit lanes. -/
  | vbcast32 (d : BitVec 5) (a : BitVec 5) (m : BitVec 5)
  /-- VBCAST_64 (R203). Broadcast a scalar to 64-bit lanes. -/
  | vbcast64 (d : BitVec 5) (a : BitVec 5) (m : BitVec 5)
  /-- VEXT_16 (R203). Extract a 16-bit lane to a scalar. -/
  | vext16 (d : BitVec 5) (a : BitVec 5) (b : BitVec 5)
  /-- VEXT_32 (R203). Extract a 32-bit lane to a scalar. -/
  | vext32 (d : BitVec 5) (a : BitVec 5) (b : BitVec 5)
  /-- VINS_16 (R203). Insert a scalar into a 16-bit lane. -/
  | vins16 (d : BitVec 5) (a : BitVec 5) (b : BitVec 5)
  /-- VINS_32 (R203). Insert a scalar into a 32-bit lane. -/
  | vins32 (d : BitVec 5) (a : BitVec 5) (b : BitVec 5)
  /-- VPERM_16 (R203). Permute 16-bit lanes by index. -/
  | vperm16 (d : BitVec 5) (a : BitVec 5) (b : BitVec 5) (m : BitVec 5)
  /-- VPERM_32 (R203). Permute 32-bit lanes by index. -/
  | vperm32 (d : BitVec 5) (a : BitVec 5) (b : BitVec 5) (m : BitVec 5)
  /-- VSLIDEUP (R203). Slide lanes up by g[B]. -/
  | vslideup (d : BitVec 5) (a : BitVec 5) (b : BitVec 5) (m : BitVec 5)
  /-- VSLIDEDN (R203). Slide lanes down by g[B]. -/
  | vslidedn (d : BitVec 5) (a : BitVec 5) (b : BitVec 5) (m : BitVec 5)
  /-- VZIP_16 (R203). Interleave the 16-bit lanes of two registers. -/
  | vzip16 (d : BitVec 5) (a : BitVec 5) (b : BitVec 5) (m : BitVec 5)
  /-- VUNZIP_16 (R203). De-interleave 16-bit lanes. -/
  | vunzip16 (d : BitVec 5) (a : BitVec 5) (m : BitVec 5)
  /-- VREDSUM_F32 (R204). FP32 tree sum to a scalar. -/
  | vredsumF32 (d : BitVec 5) (a : BitVec 5) (m : BitVec 5)
  /-- VREDSUM_BF16 (R204). BF16 tree sum to a scalar. -/
  | vredsumBf16 (d : BitVec 5) (a : BitVec 5) (m : BitVec 5)
  /-- VREDMAX_F32 (R204). FP32 tree maximum. -/
  | vredmaxF32 (d : BitVec 5) (a : BitVec 5) (m : BitVec 5)
  /-- VREDMIN_F32 (R204). FP32 tree minimum. -/
  | vredminF32 (d : BitVec 5) (a : BitVec 5) (m : BitVec 5)
  /-- VREDSUM_I32 (R204). Exact signed integer sum. -/
  | vredsumI32 (d : BitVec 5) (a : BitVec 5) (m : BitVec 5)
  /-- VREDMAX_BF16 (R204). BF16 tree maximum. -/
  | vredmaxBf16 (d : BitVec 5) (a : BitVec 5) (m : BitVec 5)
  /-- VCVT_BF16_F32 (R206). FP32 to BF16. -/
  | vcvtBf16F32 (d : BitVec 5) (a : BitVec 5) (m : BitVec 5)
  /-- VCVT_F16_F32 (R206). FP32 to FP16. -/
  | vcvtF16F32 (d : BitVec 5) (a : BitVec 5) (m : BitVec 5)
  /-- VCVT_F32_BF16 (R206). BF16 to FP32, exact. -/
  | vcvtF32Bf16 (d : BitVec 5) (a : BitVec 5) (m : BitVec 5)
  /-- VCVT_F32_F16 (R206). FP16 to FP32, exact. -/
  | vcvtF32F16 (d : BitVec 5) (a : BitVec 5) (m : BitVec 5)
  /-- VCVT_E4M3_F32 (R206). FP32 to E4M3. -/
  | vcvtE4m3F32 (d : BitVec 5) (a : BitVec 5) (m : BitVec 5)
  /-- VCVT_E5M2_F32 (R206). FP32 to E5M2. -/
  | vcvtE5m2F32 (d : BitVec 5) (a : BitVec 5) (m : BitVec 5)
  /-- VCVT_F32_E4M3 (R206). E4M3 to FP32, exact. -/
  | vcvtF32E4m3 (d : BitVec 5) (a : BitVec 5) (m : BitVec 5)
  /-- VCVT_F32_E5M2 (R206). E5M2 to FP32, exact. -/
  | vcvtF32E5m2 (d : BitVec 5) (a : BitVec 5) (m : BitVec 5)
  /-- VCVT_I32_F32 (R206). FP32 to INT32, rounded by RM. -/
  | vcvtI32F32 (d : BitVec 5) (a : BitVec 5) (m : BitVec 5)
  /-- VCVT_F32_I32 (R206). INT32 to FP32. -/
  | vcvtF32I32 (d : BitVec 5) (a : BitVec 5) (m : BitVec 5)
  /-- VCVT_I16_F32 (R206). FP32 to INT16. -/
  | vcvtI16F32 (d : BitVec 5) (a : BitVec 5) (m : BitVec 5)
  /-- VQ4 (R208). Quantise FP32 lanes to Q4 codes under a scale word. -/
  | vq4 (d : BitVec 5) (a : BitVec 5) (b : BitVec 5) (m : BitVec 5)
  /-- VDQ4 (R208). Dequantise Q4 codes to FP32 lanes. -/
  | vdq4 (d : BitVec 5) (a : BitVec 5) (b : BitVec 5) (m : BitVec 5)
  /-- VPACK8 (R207). Pack the low bytes of lanes into part p. -/
  | vpack8 (d : BitVec 5) (a : BitVec 5) (b : BitVec 5) (m : BitVec 5)
  /-- VUNPK8 (R207). Unpack part p bytes into lanes. -/
  | vunpk8 (d : BitVec 5) (a : BitVec 5) (b : BitVec 5) (m : BitVec 5)
  /-- VCVT_BF16_E4M3 (R206). E4M3 to BF16, exact. -/
  | vcvtBf16E4m3 (d : BitVec 5) (a : BitVec 5) (m : BitVec 5)
  /-- VCVT_E4M3_BF16 (R206). BF16 to E4M3 in one rounding. -/
  | vcvtE4m3Bf16 (d : BitVec 5) (a : BitVec 5) (m : BitVec 5)
  /-- VRCP (R209). Reciprocal, f32 or bf16 by the type bit. -/
  | vrcp (d : BitVec 5) (a : BitVec 5) (m : BitVec 5) (t : BitVec 1)
  /-- VRSQ (R209). Reciprocal square root. -/
  | vrsq (d : BitVec 5) (a : BitVec 5) (m : BitVec 5) (t : BitVec 1)
  /-- VSQRT (R209). Correctly rounded square root. -/
  | vsqrt (d : BitVec 5) (a : BitVec 5) (m : BitVec 5) (t : BitVec 1)
  /-- VEXP2 (R209). 2^x. -/
  | vexp2 (d : BitVec 5) (a : BitVec 5) (m : BitVec 5) (t : BitVec 1)
  /-- VEXP (R209). e^x. -/
  | vexp (d : BitVec 5) (a : BitVec 5) (m : BitVec 5) (t : BitVec 1)
  /-- VLOG2 (R209). log2 x. -/
  | vlog2 (d : BitVec 5) (a : BitVec 5) (m : BitVec 5) (t : BitVec 1)
  /-- VSIN (R209). sin x. -/
  | vsin (d : BitVec 5) (a : BitVec 5) (m : BitVec 5) (t : BitVec 1)
  /-- VCOS (R209). cos x. -/
  | vcos (d : BitVec 5) (a : BitVec 5) (m : BitVec 5) (t : BitVec 1)
  /-- VTANH (R209). tanh x. -/
  | vtanh (d : BitVec 5) (a : BitVec 5) (m : BitVec 5) (t : BitVec 1)
  /-- VSIGM (R209). Logistic sigmoid. -/
  | vsigm (d : BitVec 5) (a : BitVec 5) (m : BitVec 5) (t : BitVec 1)
  /-- VERF (R209). erf x. -/
  | verf (d : BitVec 5) (a : BitVec 5) (m : BitVec 5) (t : BitVec 1)
  /-- VCMP (R205). Lane compare by type and condition into a scalar mask. -/
  | vcmp (d : BitVec 5) (a : BitVec 5) (b : BitVec 5) (m : BitVec 5) (c : BitVec 2) (t : BitVec 3)
  /-- VWHILE_16 (R199). Governing predicate for 16-bit lanes. -/
  | vwhile16 (d : BitVec 5) (a : BitVec 5) (b : BitVec 5)
  /-- VWHILE_32 (R199). Governing predicate for 32-bit lanes. -/
  | vwhile32 (d : BitVec 5) (a : BitVec 5) (b : BitVec 5)
  /-- VWHILE_64 (R199). Governing predicate for 64-bit lanes. -/
  | vwhile64 (d : BitVec 5) (a : BitVec 5) (b : BitVec 5)
  /-- VLQ (R199). Bytes per vector register. -/
  | vlq (d : BitVec 5)
  /-- VLANES (R199). Lanes of a given width. -/
  | vlanes (d : BitVec 5) (a : BitVec 5)
  /-- MFIRST (R199). Lowest set bit of g[A]. -/
  | mfirst (d : BitVec 5) (a : BitVec 5)
  /-- MWLD (R226). Queue a load of the shadow or leash plane. -/
  | mwld (a : BitVec 5) (b : BitVec 5)
  /-- MWSWAP (R227). Queue an exchange of the active and shadow planes. -/
  | mwswap
  /-- MSTRM (R228). Queue a step streaming n activation rows into a bank. -/
  | mstrm (a : BitVec 5) (b : BitVec 5)
  /-- MZERO (R230). Queue zeroing of accumulator rows. -/
  | mzero (b : BitVec 5)
  /-- MRDA (R231). Read an accumulator row into vD with rounding. -/
  | mrda (d : BitVec 5) (b : BitVec 5) (k : BitVec 4)
  /-- MWRA (R232). Write vA into an accumulator row. -/
  | mwra (a : BitVec 5) (b : BitVec 5)
  /-- MWAIT (R233). Park until the thread's matrix commands complete and deliver a deferred error. -/
  | mwait
  /-- MGATH (R229). Queue a step from a CSR sparse block. -/
  | mgath (a : BitVec 5) (b : BitVec 5)
  /-- MXSWAP (R227). Queue an exchange of the names acc0 and acc1. -/
  | mxswap
  /-- MSTAT (R234). Read the matrix status word, or deliver a pending error. -/
  | mstat (d : BitVec 5)
  /-- MCMD (R237). Send one matrix command to another tile's unit and park for the reply. -/
  | mcmd (d : BitVec 5) (a : BitVec 5) (b : BitVec 5) (cmd : BitVec 32) (notify : BitVec 64)
  /-- TCOPY (R281). Copy a tensor box between memory and the near side. -/
  | tcopy (d : BitVec 5) (a : BitVec 5) (b : BitVec 5) (x0 : BitVec 32)
  /-- TSLIDE (R282). Copy the leading slab of a sliding box into a ring. -/
  | tslide (d : BitVec 5) (a : BitVec 5) (b : BitVec 5) (x0 : BitVec 32) (x1 : BitVec 32)
  /-- LPREF (R283). Warm the L2 lines of a box. -/
  | lpref (a : BitVec 5) (b : BitVec 5) (x0 : BitVec 32)
  /-- CWAIT (R288). Park until a completion record's mask or completion holds. -/
  | cwait (d : BitVec 5) (a : BitVec 5) (b : BitVec 5)
  /-- CTEST (R288). Read a completion record without waiting. -/
  | ctest (d : BitVec 5) (a : BitVec 5) (b : BitVec 5)
  /-- CCLR (R288). Clear a record word and set its tag empty. -/
  | cclr (a : BitVec 5)
  /-- BREAD (R289). Start a burst-handler read of a box. -/
  | bread (a : BitVec 5) (b : BitVec 5) (x0 : BitVec 32) (x1 : BitVec 32)
  /-- ARSV (R344). Take a reservation on a word, or queue for it; acquire. -/
  | arsv (d : BitVec 5) (a : BitVec 5)
  /-- ARLS (R344). Write the word and pass the reservation on; release. -/
  | arls (a : BitVec 5) (b : BitVec 5)
  /-- ARCN (R344). Pass the reservation on without writing. -/
  | arcn (a : BitVec 5)
  /-- CAS (R343). Compare-and-swap at the owning bank. -/
  | cas (d : BitVec 5) (a : BitVec 5) (b : BitVec 5) (k : BitVec 4)
  /-- SWAP (R343). Atomic swap. -/
  | swap (d : BitVec 5) (a : BitVec 5) (b : BitVec 5) (k : BitVec 4)
  /-- FADD (R343). Atomic fetch-and-add. -/
  | fadd (d : BitVec 5) (a : BitVec 5) (b : BitVec 5) (k : BitVec 4)
  /-- RED_ADD_64 (R346). Memory-side 64-bit add. -/
  | redAdd64 (r : BitVec 1) (a : BitVec 5) (b : BitVec 5) (s : BitVec 3) (q : BitVec 1)
  /-- RED_ADD_32 (R346). Memory-side 32-bit add. -/
  | redAdd32 (r : BitVec 1) (a : BitVec 5) (b : BitVec 5) (s : BitVec 3) (q : BitVec 1)
  /-- RED_MIN_64 (R346). Memory-side signed minimum. -/
  | redMin64 (r : BitVec 1) (a : BitVec 5) (b : BitVec 5) (s : BitVec 3) (q : BitVec 1)
  /-- RED_MAX_64 (R346). Memory-side signed maximum. -/
  | redMax64 (r : BitVec 1) (a : BitVec 5) (b : BitVec 5) (s : BitVec 3) (q : BitVec 1)
  /-- RED_MINU_64 (R346). Memory-side unsigned minimum. -/
  | redMinu64 (r : BitVec 1) (a : BitVec 5) (b : BitVec 5) (s : BitVec 3) (q : BitVec 1)
  /-- RED_MAXU_64 (R346). Memory-side unsigned maximum. -/
  | redMaxu64 (r : BitVec 1) (a : BitVec 5) (b : BitVec 5) (s : BitVec 3) (q : BitVec 1)
  /-- RED_AND_64 (R346). Memory-side AND. -/
  | redAnd64 (r : BitVec 1) (a : BitVec 5) (b : BitVec 5) (s : BitVec 3) (q : BitVec 1)
  /-- RED_OR_64 (R346). Memory-side OR. -/
  | redOr64 (r : BitVec 1) (a : BitVec 5) (b : BitVec 5) (s : BitVec 3) (q : BitVec 1)
  /-- RED_XOR_64 (R346). Memory-side XOR. -/
  | redXor64 (r : BitVec 1) (a : BitVec 5) (b : BitVec 5) (s : BitVec 3) (q : BitVec 1)
  /-- REDF_ADD_F32 (R347). FP32 memory-side add, rounding at the port or exact into a wide accumulator. -/
  | redfAddF32 (r : BitVec 1) (a : BitVec 5) (b : BitVec 5) (s : BitVec 3) (q : BitVec 1)
  /-- REDF_ADD_BF16 (R347). BF16 memory-side add. -/
  | redfAddBf16 (r : BitVec 1) (a : BitVec 5) (b : BitVec 5) (s : BitVec 3) (q : BitVec 1)
  /-- WACRD (R350). Read out a wide accumulator with one rounding. -/
  | wacrd (d : BitVec 5) (a : BitVec 5) (k : BitVec 4)
  /-- WACCLR (R350). End a wide-accumulator binding. -/
  | wacclr (a : BitVec 5)
  /-- BREG (R352). Register a barrier slot. -/
  | breg (d : BitVec 5) (a : BitVec 5) (b : BitVec 5)
  /-- BARV (R353). Arrive at a barrier; release. -/
  | barv (d : BitVec 5) (a : BitVec 5)
  /-- BWAIT (R353). Wait for a barrier generation; acquire. -/
  | bwait (a : BitVec 5) (b : BitVec 5)
  /-- BARVW (R353). Arrive and wait for the generation. -/
  | barvw (d : BitVec 5) (a : BitVec 5)
  /-- BTEST (R353). Read the barrier slot status. -/
  | btest (d : BitVec 5) (a : BitVec 5)
  /-- CHBIND (R326). Bind a channel port. -/
  | chbind (d : BitVec 5) (a : BitVec 5)
  /-- CHUNB (R327). Unbind a channel port. -/
  | chunb (a : BitVec 5)
  /-- CHSTAT (R328). Read a port's status. -/
  | chstat (d : BitVec 5) (a : BitVec 5)
  /-- SEND (R355). Deliver a value to the tree parent. -/
  | send (a : BitVec 5)
  /-- RSRV (R355). Combine the children's inboxes and forward the result. -/
  | rsrv (d : BitVec 5) (a : BitVec 5)
  /-- TREESET (R355). Set the TREE CSR. -/
  | treeset (a : BitVec 5)
  /-- SQRES (R312). Reserve N slots in a sequence. -/
  | sqres (d : BitVec 5) (a : BitVec 5) (b : BitVec 5)
  /-- SQST (R313). Write part of a reserved record. -/
  | sqst (d : BitVec 5) (a : BitVec 5) (b : BitVec 5)
  /-- SQSTR (R314). Write part of a record through the rotary path. -/
  | sqstr (d : BitVec 5) (a : BitVec 5) (b : BitVec 5)
  /-- SQCMT (R315). Commit slots and advance LC. -/
  | sqcmt (d : BitVec 5) (a : BitVec 5) (b : BitVec 5)
  /-- SQABAND (R315). Abandon slots and advance LC. -/
  | sqaband (d : BitVec 5) (a : BitVec 5) (b : BitVec 5)
  /-- SQLEN (R316). Read LC, W, LR or a record VA. -/
  | sqlen (d : BitVec 5) (a : BitVec 5) (b : BitVec 5)
  /-- SQFORK (R317). Create a child sequence from a prefix. -/
  | sqfork (d : BitVec 5) (a : BitVec 5) (b : BitVec 5)
  /-- SQREL (R319). Release a sequence. -/
  | sqrel (a : BitVec 5)
  /-- SQTRIM (R319). Raise the window bound W. -/
  | sqtrim (d : BitVec 5) (a : BitVec 5) (b : BitVec 5)
  /-- SQRD (R320). Start a stream of committed records into a port. -/
  | sqrd (d : BitVec 5) (a : BitVec 5) (b : BitVec 5)
  /-- SQCOW (R318). Make a private copy of a shared page. -/
  | sqcow (d : BitVec 5) (a : BitVec 5) (b : BitVec 5)
  /-- SQUNPIN (R321). End a port's stream and drop its pins. -/
  | squnpin (a : BitVec 5)
  /-- MBWR (R368). Write bytes of a mailbox back buffer. -/
  | mbwr (d : BitVec 5) (a : BitVec 5)
  /-- MBPUB (R369). Post a mailbox publication. -/
  | mbpub (a : BitVec 5) (b : BitVec 5)
  /-- MBPUBC (R369). Post a publication with carry-forward copy. -/
  | mbpubc (a : BitVec 5) (b : BitVec 5)
  /-- MBRD (R370). Read one whole mailbox version. -/
  | mbrd (d : BitVec 5) (a : BitVec 5) (b : BitVec 5)
  /-- SEIZE (R375). Seize an LA tile for leash code and park for the reply. -/
  | seize (d : BitVec 5) (a : BitVec 5) (b : BitVec 5) (x0 : BitVec 32)
  /-- SRLS (R379). Leash code releases the seizure of its own tile. -/
  | srls
  /-- SRLS_REMOTE (R379). The seizing task releases the seizure of target g[A]. -/
  | srlsRemote (a : BitVec 5)
  /-- SEIZQ (R380). Query a tile's seizure state. -/
  | seizq (d : BitVec 5) (a : BitVec 5)
  /-- SPAWN (R127). Start a free lane of the task at a sibling entry. -/
  | spawn (d : BitVec 5) (a : BitVec 5) (b : BitVec 5)
  /-- EXIT (R128). End the issuing context. -/
  | exit
  /-- TIME (R148). Read the DTB. -/
  | time (d : BitVec 5)
  /-- HEND (R296). End a burst handler after an EFENCE. -/
  | hend
  /-- BQRY (R297). Read the tile's burst state. -/
  | bqry (d : BitVec 5)
  /-- PRIME (R359). Arm a slot for reflex activations. -/
  | prime (d : BitVec 5) (a : BitVec 5) (b : BitVec 5)
  /-- UNPRIME (R364). Disarm a reflex slot. -/
  | unprime (d : BitVec 5) (a : BitVec 5)
  /-- CSRRD (R147). Read a CSR. -/
  | csrrd (d : BitVec 5) (c : BitVec 12)
  /-- CSRWR (R147). Write a CSR and return the old value. -/
  | csrwr (d : BitVec 5) (a : BitVec 5) (c : BitVec 12)
  /-- CSRSET (R147). Set CSR bits. -/
  | csrset (d : BitVec 5) (a : BitVec 5) (c : BitVec 12)
  /-- CSRCLR (R147). Clear CSR bits. -/
  | csrclr (d : BitVec 5) (a : BitVec 5) (c : BitVec 12)
  /-- TRAP (R388). Raise software trap 0x3C0 + n. -/
  | trap (n : BitVec 6)
  /-- ERET (R389). Return from a handler to TRAPPC. -/
  | eret
  /-- EBRK (R388). Breakpoint trap, or debug halt. -/
  | ebrk (n : BitVec 6)
  /-- HFCALL (R390). Request a Headframe firmware service and park. -/
  | hfcall (d : BitVec 5) (a : BitVec 5) (n : BitVec 6)
  /-- CANCEL (R391). Cancel a launch, graph, phase or job of the tenant. -/
  | cancel (d : BitVec 5) (a : BitVec 5) (n : BitVec 6)
  /-- DLAUNCH (R126). Submit a work packet from a thread. -/
  | dlaunch (d : BitVec 5) (a : BitVec 5)
  /-- C_ILL (R70). Compressed illegal form; traps with 0x001. -/
  | cIll (i : BitVec 10)
  /-- C_NOP (R70). No operation. -/
  | cNop
  /-- C_MOV (R70). ADD gr1, g0, gf2. -/
  | cMov (r : BitVec 5) (f : BitVec 5)
  /-- C_ADD (R70). ADD gr1, gr1, gf2. -/
  | cAdd (r : BitVec 5) (f : BitVec 5)
  /-- C_SUB (R70). SUB gr1, gr1, gf2. -/
  | cSub (r : BitVec 5) (f : BitVec 5)
  /-- C_ADDI (R70). ADDI with a 5-bit immediate. -/
  | cAddi (r : BitVec 5) (i : BitVec 5)
  /-- C_LI (R70). Load a 5-bit immediate. -/
  | cLi (r : BitVec 5) (i : BitVec 5)
  /-- C_SHLI (R70). SHLI by 0–31. -/
  | cShli (r : BitVec 5) (n : BitVec 5)
  /-- C_SHRI (R70). SHRI by 0–31. -/
  | cShri (r : BitVec 5) (n : BitVec 5)
  /-- C_AND (R70). AND gr1, gr1, gf2. -/
  | cAnd (r : BitVec 5) (f : BitVec 5)
  /-- C_OR (R70). OR gr1, gr1, gf2. -/
  | cOr (r : BitVec 5) (f : BitVec 5)
  /-- C_XOR (R70). XOR gr1, gr1, gf2. -/
  | cXor (r : BitVec 5) (f : BitVec 5)
  /-- C_LD64 (R70). LD.64 gr1, [gf2]. -/
  | cLd64 (r : BitVec 5) (f : BitVec 5)
  /-- C_ST64 (R70). ST.64 [gf2], gr1. -/
  | cSt64 (r : BitVec 5) (f : BitVec 5)
  /-- C_BEQZ (R70). Short branch if zero. -/
  | cBeqz (r : BitVec 5) (o : BitVec 5)
  /-- C_BNEZ (R70). Short branch if nonzero. -/
  | cBnez (r : BitVec 5) (o : BitVec 5)
  /-- C_J (R70). Short jump. -/
  | cJ (o : BitVec 10)
  /-- C_RLX (R71). Relaxed prefix joined with the following memory instruction into one unit. -/
  | cRlx (s : BitVec 3)
  /-- C_EXIT (R70). EXIT. -/
  | cExit
  /-- C_HEND (R70). HEND. -/
  | cHend
  /-- C_JR (R70). JR gr1. -/
  | cJr (r : BitVec 5)
  /-- QLAUNCH (R99). Hand a work packet to the Front End and wait in DEP for acceptance. -/
  | qlaunch (va : BitVec 64)
  /-- QIB (R100). Enter an indirect buffer one level deeper. -/
  | qib (va : BitVec 64) (len : BitVec 32)
  /-- QRET (R100). Return from an indirect buffer. -/
  | qret
  /-- QPRED (R101). Open a predicate, or skip to the matching QENDP. -/
  | qpred (cond : BitVec 5) (va : BitVec 64) (x : BitVec 64)
  /-- QENDP (R101). Close one predicate. -/
  | qendp
  /-- QLOOP (R102). Open a counted loop. -/
  | qloop (count : BitVec 32)
  /-- QENDL (R102). Decrement the loop count and loop back, or pop the loop. -/
  | qendl
  /-- QSIG (R104). Post a signal to be written when earlier launches complete. -/
  | qsig (irq : BitVec 1) (vec : BitVec 5) (va : BitVec 64) (x : BitVec 64)
  /-- QWAIT (R105). Wait until a memory word meets a condition. -/
  | qwait (cond : BitVec 5) (va : BitVec 64) (x : BitVec 64) (timeout : BitVec 32)
  /-- QFF (R108). Discard the fetch-ahead buffer. -/
  | qff
  /-- QWR (R103). Write a 64-bit word and wait until it is performed. -/
  | qwr (va : BitVec 64) (x : BitVec 64)
  /-- QDEP (R106). Wait until a queue, launch, graph, phase or job instance completes. -/
  | qdep (kind : BitVec 5) (id : BitVec 32)
  /-- QNOP (R96). No operation with any number of ignored extension words. -/
  | qnop (nx : BitVec 3)
  /-- QMARK (R107). Close a graph, phase or job, or set QMARKV. -/
  | qmark (kind : BitVec 5) (id : BitVec 32)
  /-- QREPLAY (R109). Start the tenant's replay-all, optionally waiting for it. -/
  | qreplay (w : BitVec 1)
  /-- QPRIO (R110). Set the queue priority, clamped to PRIOMAX. -/
  | qprio (p : BitVec 4)
  /-- THROTTLE_EXIT (R431). The junction temperature falls back below its grade limit and the core clock steps back up toward full clock, so HKSTAT.STEP returns toward 0. -/
  | throttleExit
  deriving DecidableEq, Repr

end Sys2Proof
end

