-- ==== Sys2Proof/Config.lean ====
section
/-! DEFINITION. What an implementation or the outside world fixes and the spec does not: free values without a body, and the
agents that a step can move. -/

namespace Sys2Proof

/-- Who performs a step: the whole device once around, the common clock, a context of a core, a core by the turn rule of R133, a queue
engine that serves a queue, Headframe firmware that writes through a tile window (R247), or one of the device's own steps. -/
inductive Agent where
  | round
  | clock
  | core (tile slot : Nat)
  | turn (tile : Nat)
  | queue (q : Nat)
  | firmware (tile off n val : Nat)
  | event (i : Instr)
  deriving DecidableEq, Repr, Inhabited

namespace Config

/-- The agent that moves at a tick when no agent has the machine to itself: every interleaving (log entry 1). -/
opaque nextAgent : Nat → Agent
/-- A fresh unconstrained number per tick (log entry 2). -/
opaque freeNat : Nat → Nat
/-- Bytes of the SPI NOR flash (R30, R33): an implementation's contents. -/
opaque flash : Nat → Byte
/-- ML-DSA-65 verification of a signature over a message under a public key (R31, R419). -/
opaque mldsaVerify : List Byte → List Byte → List Byte → Bool
/-- ML-DSA-65 signature of a message under the device identity key (R422). -/
opaque identitySign : List Byte → List Byte
/-- The identity public key, 1,952 bytes (R422). -/
opaque identityKey : List Byte
/-- The key digest in the fuses; `none` is a blank digest (R29, R31). -/
opaque fuseKeyDigest : Option (BitVec 256)
/-- The minimum sequence number in the fuses (R31). -/
opaque fuseMinSequence : Nat
/-- Whether the device is of the extended temperature grade, with a junction limit of 110 °C and not 100 °C (R20). -/
opaque extendedGrade : Bool
/-- Where in a Headframe tile's local store a firmware image is loaded (R33, R421). -/
opaque imageAt : Nat → Nat
/-- The device serial number in the fuses (R422). -/
opaque serial : Dword
/-- The range words that the device publishes, index 0 to 7 (R36). -/
opaque deviceRange : Nat → BitVec 32
/-- Bits of a special-function result: minor, format (0 FP32, 1 BF16) and operand bits (R209). -/
opaque sfu : Nat → Nat → Nat → Nat
/-- Which of the two nearest FP32 values SinR (0) or CosR (1) of a phase is, by its sign and mantissa · 2 ^ exponent (R314). -/
opaque rotary : Nat → Bool → Nat → Int → Nat
/-- Whether the negotiated firmware-service version defines a service from 3 upward (R390). -/
opaque serviceDefined : Nat → Nat → Bool
/-- Whether the firmware refuses a service for a tenant (R390). -/
opaque serviceRefused : Nat → Nat → Bool
/-- The memory channel of a 64-byte line, modulo 24: the spec gives no map from addresses to channels (R427). -/
opaque channelOf : Nat → Nat
/-- The DRAM lines of a channel's row, by the BANK and ROW bits of a remap entry: the spec gives no map from addresses to rows (R427, R428). -/
opaque rowLines : Nat → Nat → List Nat
/-- The DRAM line that an L2 cache word holds, by the word and the tick (R425). -/
opaque cachedLine : Nat → Nat → Nat
/-- The trim of VDD_CORE above 470 mV, by the cycle (R431). -/
opaque coreTrim : Nat → Nat
/-- The result of a service from 3 upward: version, service, argument, tick (R390). -/
opaque serviceResult : Nat → Nat → Dword → Nat → Dword

end Config
end Sys2Proof
end

