-- ==== Sys2Proof/Machine/State.lean ====
section
/-! DEFINITION. The state of the whole device as plain data, and the state after power-on reset. -/

namespace Sys2Proof.Machine

/-- Why a step stops with a fault. -/
inductive Fault where
  /-- Raised by nobody at present: every address is checked before an access is performed, and a refused one traps (R254). Safe. -/
  | noSuchLocation (loc : Nat)
  deriving DecidableEq, Repr

/-- Why a step has no meaning. -/
inductive Refusal where
  /-- Raised by an arm of exec whose instruction has no meaning yet. Safe. -/
  | notModelled (mnemonic : String)
  deriving DecidableEq, Repr

/-! ### Names of units -/

/-- A register bank: tile, slot and bank number (R139). -/
structure BankRef where
  tile : Nat
  slot : Nat
  bank : Nat
  deriving DecidableEq, Repr, Inhabited

/-- A channel port of a context: tile, slot and port number (R325). -/
structure PortRef where
  tile : Nat
  slot : Nat
  port : Nat
  deriving DecidableEq, Repr, Inhabited

/-! ### State of a bank -/

/-- Where a result goes. -/
inductive Dest where
  | none
  | g (r : Nat)
  | v (r : Nat)
  deriving DecidableEq, Repr

/-- A trap that is known but not yet taken: cause, failing address and value (R65, R384). -/
structure TrapInfo where
  cause : Nat
  addr : Dword
  val : Dword
  deriving DecidableEq, Repr

/-- An open lookahead window (R63 to R66): instructions left, destination, the result once it has arrived, the deferred error
that it carries, the sticky flags it raises, whether its result has been written back while its thread waits for another that closed with
it (R64), and the port entries taken for it, which leave when it writes its result (R329). -/
structure Window where
  left : Nat
  dest : Dest
  result : Option Vec
  err : Option TrapInfo
  flags : BitVec 7
  id : Nat
  back : Bool := false
  frees : List (Nat × Vec) := []
  deriving DecidableEq, Repr

/-- A fixed-latency result that has not yet been written back (R135, R177, R246): its register, the value the register held
before it, the cycle in which it lands, the own issue turns after which it has landed in any case (R131, R133), and the ports whose
taken entries it frees (R329). -/
structure Pending where
  dest : Dest
  old : Vec
  due : Nat
  turns : Nat
  frees : List Nat
  deriving DecidableEq, Repr

/-- One part of an outstanding relaxed access: its location (a window part lies at 2 ^ 46 and above), size in bytes, and the bytes
to store or, for a vector load, the lane. -/
structure Part where
  loc : Nat
  size : Nat
  data : Dword
  deriving DecidableEq, Repr

/-- An outstanding relaxed access (R252): its number, scope, whether it writes, whether it leaves the tile, its address and parts,
and for a load the window that takes the result, the extension (F3, or 7 for lanes) and the lanes that keep their value; the number from which
matrix commands came after it, once it has arrived at a unit that is busy (R215). -/
structure Access where
  id : Nat
  scope : Nat
  write : Bool
  remote : Bool
  va : Dword
  parts : List Part
  win : Nat
  ext : Nat
  base : Vec
  pass : Option Nat := none
  deriving DecidableEq, Repr

/-- The frame of an RPT (R150 to R153): its address, passes left, index, n - 1, strides, pass number and body. -/
structure RptFrame where
  act : Bool
  frozen : Bool
  base : Va
  left : BitVec 32
  idx : Nat
  nm1 : Nat
  sd : Nat
  sa : Nat
  sb : Nat
  jmod : Nat
  body : List (BitVec 32)
  deriving DecidableEq, Repr

/-- The trap CSRs of a bank (R383). -/
structure TrapCsrs where
  pc : Va
  cause : BitVec 10
  addr : Dword
  val : Dword
  vec : Va
  inh : Bool
  dfr : Bool
  win : Bool
  deriving DecidableEq, Repr

/-- An SQRD stream (R320): pool, the arena offsets of its records still to deliver, bytes of the current record already delivered,
and the pages it pins. -/
structure Stream where
  pool : Nat
  toks : List Nat
  pos : Nat
  pins : List Nat
  left : Nat
  deriving DecidableEq, Repr

/-- A bound channel port (R325 to R330). -/
structure Port where
  mode : Nat
  peer : PortRef
  fifo : List Vec
  taken : Nat
  credit : Nat
  stream : Option Stream
  deriving DecidableEq, Repr

/-- A BTE copy command (R270 to R285), with the values taken at issue and its progress. -/
structure CopyCmd where
  id : Nat
  owner : BankRef
  thread : Nat
  task : Nat
  minor : Nat
  pc : Va
  desc : List Byte
  start : List Int
  near : Nat
  recAt : Option Nat
  out : Bool
  rel : Bool
  acq : Bool
  scope : Nat
  axis : Nat
  step : Nat
  /-- Chunks whose reads are parked on a not-present page (R285). -/
  parked : List Nat
  todo : List Nat
  /-- Elements read so far of the chunks under way: chunk, element, value (R285). -/
  got : List (Nat × Nat × Nat)
  /-- A far access that waits for a matrix unit: the tile, and the number from which commands came later (R215). -/
  pass : Option (Nat × Nat)
  chunks : BitVec 48
  oob : Bool
  inb : Bool
  skipped : Bool
  status : Nat
  deriving DecidableEq, Repr

/-- A burst of a BREAD that has been requested (R291, R293): promised slot, place in the queue, the elements read so far, its data once they have
returned, the slot in which it was born, and the matrix commands that its read waits for (R215). -/
structure Burst where
  ix : Nat
  promised : Option Nat
  queued : Option Nat
  got : List (Nat × Nat)
  data : Option (BitVec 512)
  born : Option Nat
  pass : Option (Nat × Nat)
  deriving DecidableEq, Repr

/-- A BREAD in progress (R289 to R296). -/
structure BreadCmd where
  id : Nat
  owner : BankRef
  thread : Nat
  task : Nat
  pc : Va
  desc : List Byte
  start : List Int
  recAt : Nat
  rel : Bool
  acq : Bool
  scope : Nat
  pool : Nat
  role : Nat
  tag : Nat
  ods : Tbl Dword
  total : Nat
  next : Nat
  counted : Nat
  flags : BitVec 7
  oob : Bool
  inb : Bool
  status : Nat
  bursts : List Burst
  pins : List (Nat × Nat)
  /-- Bursts whose read is parked on a not-present page (R295). -/
  parked : List Nat
  deriving DecidableEq, Repr

/-- A command of the matrix unit (R222), with the operands taken at issue: minor of R225 (16 for LDT), the value of g[A] (for MRDA the
NUMCTL), control word and descriptor, vA of MWRA, the issuing bank and its task, the task that it counts against, the notify word of MCMD,
the window of MRDA or LDT, and the cycle of its start. -/
structure MxCmd where
  id : Nat
  minor : Nat
  ga : Dword
  ctl : Dword
  od : Dword
  vdata : Vec
  /-- The bytes that a load has read so far (R226, R236). -/
  data : List Byte
  /-- The record word, once the unit has read it for a step at the head of the queue (R223). -/
  recw : Option Nat := none
  /-- Pieces of LDT's source still to be read: address and bytes (R236). -/
  todo : List (Nat × Nat)
  /-- The Q4 scale words that it has read (R218). -/
  scl : List (BitVec 16)
  /-- MGATH's rows as checked at the start: column and number of each entry (R229). -/
  gath : List (List (Nat × Nat))
  owner : BankRef
  thread : Nat
  sender : Nat
  task : Nat
  pc : Va
  remote : Bool
  notify : Option Nat
  win : Nat
  /-- The rows of a step that have entered: the cycle and the flags of each (R223). -/
  rows : List (Nat × BitVec 7)
  /-- Rows whose step has completed (R228, R229). -/
  drained : Nat
  started : Option Nat
  deriving DecidableEq, Repr

/-- A command sent to a sequence unit (R309): minor, handle, control word, vector data, destination, the issuer's NUMCTL (R314) and the
ports whose entries it has taken (R329). -/
structure SeqCmd where
  owner : BankRef
  minor : Nat
  sid : Nat
  ctl : Dword
  data : Vec
  dest : Nat
  numctl : Dword
  ports : List Nat
  deriving DecidableEq, Repr

/-- What a parked or stalled bank waits for (R141). The program counter has already passed the instruction, except in
`chanRead`, `credit` and `fetch`, where the instruction has not issued. -/
inductive Wait where
  /-- An FE instruction on a wait list: location, minor, register, value to store; admitted to the list or refused (R258, R259). -/
  | fe (loc minor reg : Nat) (val : Dword) (admitted : Bool)
  /-- A reservation queue: location, ATOM minor, register, expected and new value (R344). -/
  | resv (loc minor reg : Nat) (exp val : Dword) (win : Nat) (admitted : Bool)
  /-- The next instruction reads an empty port (R329). -/
  | chanRead (port : Nat)
  /-- The next instruction writes a SEND port that holds no credit (R329). -/
  | credit (port : Nat)
  /-- CHUNB of a SEND port with results still to send (R327). -/
  | chunb (port : Nat)
  /-- CWAIT: record location, mask, register (R288). -/
  | copy (loc : Nat) (mask : BitVec 48) (reg : Nat)
  /-- A copy command or BREAD (minor 3) whose descriptor lies on a not-present page, with what it took at issue: descriptor and near address,
  vector, extension words, and ports (R281). The instruction has issued. -/
  | desc (minor : Nat) (va near : Dword) (v : Vec) (x0 x1 : BitVec 32) (ports : List Nat)
  /-- A copy command that found the BTE queue full (R270). -/
  | bteFull (c : CopyCmd)
  /-- A BREAD that found the BTE queue full (R270). -/
  | bteFullB (c : BreadCmd)
  /-- A matrix command that found its queue full (R222). -/
  | mxFull (c : MxCmd)
  /-- MWAIT (R233). -/
  | mwait
  /-- A window has closed before its result is ready (R64). -/
  | window
  /-- A precise trap that is known, with its TRAPPC: the windows that its entry closes lack a result (R64, R384). -/
  | trap (info : TrapInfo) (pc : Va)
  /-- EFENCE at a scope (R261), or HEND of a burst handler, which contains one (R296). -/
  | efence (scope : Nat) (hend : Bool)
  /-- An arrival that waits for its release's engine commands: BARR minor, slot, register (R353). -/
  | arrive (minor slot reg : Nat)
  /-- BARV that found a full batch (R353). -/
  | batch (minor slot reg : Nat)
  /-- BWAIT, and the second half of BARVW: slot, generation, register (R353). -/
  | barrier (slot : Nat) (gen : BitVec 32) (reg : Option Nat)
  /-- RSRV: its register, and the register of its own value, read once the inboxes are full (R355). -/
  | rsrv (reg own : Nat)
  /-- Deliver: value sent to the parent, with the register of an RSRV; refused by a full inbox or not (R355). -/
  | deliver (reg : Option Nat) (val : Dword) (refused : Bool)
  /-- MCMD's reply (R239). -/
  | mcmd (reg : Nat)
  /-- SEIZE's reply (R375). -/
  | seize (reg : Nat)
  /-- SEIZQ's reply: target, register (R380). -/
  | seizq (target reg : Nat)
  /-- HFCALL's reply: service, argument (R390). -/
  | hfcall (n reg : Nat) (arg : Dword)
  /-- A sequence command's reply (R309). -/
  | seq (c : SeqCmd)
  /-- MBRD's transaction: mailbox, destination, control register, control word (R370). -/
  | mbrd (m d b : Nat) (ctl : Dword)
  /-- A window access to a bank or plane that waits for the commands accepted before it: tile, offset, and the number from which commands came
  later (R215). -/
  | unit (tile off upto : Nat)
  /-- The thread's relaxed accesses that wait at a matrix unit (R215). -/
  | rlx
  /-- An access after an engine command with ACQ (R221, R286, R346). -/
  | acq
  /-- The 65th reduction (R346): location information of the reduction path is full. -/
  | redFull
  /-- WACRD or WACCLR behind the thread's reductions (R350). -/
  | wac (minor reg : Nat) (pa : Nat) (win : Nat)
  /-- A thread access parked on a not-present page: granule VA and kind 0 read, 1 write (R266). The instruction has issued and counted. -/
  | page (va : Nat) (kind : Nat)
  /-- The next instruction's fetch is parked on a not-present page (R137). -/
  | fetch (va : Nat)
  /-- An MBWR behind the thread's own publications (R369): mailbox. It has not issued. -/
  | mbwr (m : Nat)
  /-- A debug halt (R392). -/
  | debug
  deriving DecidableEq, Repr

/-- One register bank of a context and everything that is state of the bank (R139). -/
structure Bank where
  g : Tbl Dword := []
  v : Tbl Vec := []
  pc : Va := 0
  numctl : Dword := 0
  od : Tbl Dword := []
  wins : List Window := []
  nextWin : Nat := 1
  fbuf : List (BitVec 16) := []
  rpt : RptFrame := ⟨false, false, 0, 0, 0, 0, 0, 0, 0, 0, []⟩
  trap : TrapCsrs := ⟨0, 0, 0, 0, 0, false, false, false⟩
  deferred : List TrapInfo := []
  tree : Dword := 0
  inbox : Tbl Dword := []
  seizeCount : Nat := 0
  seizeCyc : Nat := 0
  icount : Dword := 0
  quantLeft : BitVec 32 := 0
  quantLen : BitVec 32 := 0
  kind : Nat := 0
  pack : Bool := false
  det : Bool := false
  prio : Nat := 0
  lane : Nat := 0
  tenant : Nat := 0
  taskIndex : Nat := 0
  fbase : Nat := 0
  lid : BitVec 32 := 0
  quota : Nat := 0
  /-- The task that owns the bank's work: 0 none, else a placement number. -/
  task : Nat := 0
  /-- Model's own: names the thread that runs in the bank, so that a later thread of the slot is another one (log entry 1). -/
  thread : Nat := 0
  /-- For leash code, the tile and slot that seized (R378). -/
  seizer : Option BankRef := none
  ceiling : Nat := 0
  seeded : Bool := false
  staging : Bool := false
  pend : List Pending := []
  rlx : List Access := []
  wait : Option Wait := none
  waitPc : Va := 0
  waitSince : Nat := 0
  waitLogged : Bool := false
  /-- The halfwords of the parked instruction, as they were fetched (R138). -/
  waitBuf : List (BitVec 16) := []
  /-- Model's own: the first cycle in which the woken context is ready (R142), or its target fetched (R194). -/
  readyAt : Nat := 0
  counted : Bool := false
  /-- A window access that has waited may pass: commands from this number on came later (R215). -/
  unitPass : Option Nat := none
  ports : Tbl Port := []
  /-- The notice that each port keeps, with its launch (R326). -/
  notices : Tbl (PortRef × Nat) := []
  copyBytes : Dword := 0
  mxErr : Option (Nat × Va × Dword) := none
  /-- The BREAD and burst that a burst handler serves (R292). -/
  burst : Option (Nat × Nat) := none
  deriving DecidableEq, Repr, Inhabited

/-- The presets of an armed slot (R358). -/
structure Preset where
  pc : Va
  g5 : Dword
  g6 : Dword
  g7 : Dword
  od : Tbl Dword
  numctl : Dword
  trigger : Nat
  deadline : Nat
  task : Nat
  deriving DecidableEq, Repr

/-- RXSTAT of a slot and its presets (R358, R363). -/
structure Reflex where
  armed : Bool := false
  active : Bool := false
  late : Bool := false
  missLast : Bool := false
  act : Nat := 0
  miss : Nat := 0
  ceil : Nat := 0
  ovr : Nat := 0
  preset : Option Preset := none
  disarm : Bool := false
  began : Dword := 0
  deriving DecidableEq, Repr, Inhabited

/-- One context: two banks, the active one, a bank switch in progress to a bank until a cycle, and the reflex state of the slot (R139 to R141). -/
structure Ctx where
  b0 : Bank := {}
  b1 : Bank := {}
  active : Nat := 0
  switch : Option (Nat × Nat) := none
  reflex : Reflex := {}
  /-- The cycle in which a seizure began to swap bank 0 out (R381). -/
  swapStart : Nat := 0
  deriving DecidableEq, Repr, Inhabited

/-! ### State of a tile -/

/-- A plane of the matrix unit (R212): bytes in swizzle-0 layout, Q4 scale words and FMT. -/
structure Plane where
  bytes : Tbl Byte := []
  scales : Tbl (BitVec 16) := []
  fmt : Nat := 0
  deriving DecidableEq, Repr, Inhabited

/-- The matrix unit of a tile (R212, R213). -/
structure Matrix where
  active : Plane := {}
  shadow : Plane := {}
  leash : Plane := {}
  acc0 : Tbl (BitVec 40) := []
  acc1 : Tbl (BitVec 40) := []
  accL : Tbl (BitVec 40) := []
  tq : List MxCmd := []
  lq : List MxCmd := []
  owner : Option Nat := none
  clearing : Bool := false
  frozen : Bool := false
  rflags : BitVec 7 := 0
  steps : Nat := 0
  deriving DecidableEq, Repr, Inhabited

/-- A barrier slot of a tile (R352, R353), with the arrivals counted at the home. -/
structure BarSlot where
  launch : Nat
  loc : Nat
  rect : BitVec 18
  gen : BitVec 32
  arrived : Nat
  pend : Bool
  home : Nat
  deriving DecidableEq, Repr

/-- An entry of a wait list (R259, R344): who waits and for which location. -/
structure WaitEnt where
  who : BankRef
  loc : Nat
  deriving DecidableEq, Repr

/-- A reservation: location and holder (R344). -/
structure Resv where
  loc : Nat
  who : BankRef
  deriving DecidableEq, Repr

/-- A reduction on its way (R346). -/
structure Reduction where
  id : Nat
  va : Dword
  val : Dword
  minor : Nat
  det : Bool
  acq : Bool
  scope : Nat
  owner : BankRef
  thread : Nat
  task : Nat
  pc : Va
  parked : Bool
  /-- As of an outstanding relaxed access (R215). -/
  pass : Option Nat := none
  deriving DecidableEq, Repr

/-- Model's own: an access of the host, or the write of a notify word, that has arrived at a busy matrix unit (R215): the host's function, whether it
reads, the offset of its first byte, its parts (offset, size, location), its data, its kind and source for the trace ring, and the number from which
matrix commands came after it. -/
structure UnitAccess where
  fn : Option Nat
  read : Bool
  base : Nat
  parts : List (Nat × Nat × Nat)
  val : Nat
  kind : Nat
  src : Nat
  upto : Nat
  deriving DecidableEq, Repr

/-- The seizure state machine of a tile (R376): 0 IDLE, 1 DRAINING, 2 SWAPPING, 3 SEIZED, 4 RELEASING. -/
structure Seizure where
  st : Nat := 0
  seizer : BankRef := ⟨0, 0, 0⟩
  task : Nat := 0
  /-- Seizer of the last completed seizure (R380). -/
  lastBy : BankRef := ⟨0, 0, 0⟩
  /-- What the header held when it was read: whether it is valid, its leash entry, trap vector offset and ceiling (R376, R378). -/
  valid : Bool := false
  entry : Nat := 0
  trapOff : Nat := 0
  ceiling : Nat := 0
  hdr : Nat := 0
  n : Nat := 0
  od : Tbl Dword := []
  g5 : Dword := 0
  g6 : Dword := 0
  g7 : Dword := 0
  numctl : Dword := 0
  arrive : Nat := 0
  start : Nat := 0
  first : Bool := false
  count : Dword := 0
  cyc : Dword := 0
  last : Nat := 0
  worst : Nat := 0
  deriving DecidableEq, Repr, Inhabited

/-- Everything of a tile beside its contexts and its local store's bytes. -/
structure Tile where
  tags : List Nat := []
  waits : List WaitEnt := []
  resv : List Resv := []
  bte : List CopyCmd := []
  breads : List BreadCmd := []
  gen : BitVec 16 := 0
  mx : Matrix := {}
  bars : Tbl BarSlot := []
  /-- Arrivals that reached this tile as home of a free slot: slot and launch (R352). -/
  held : List (Nat × Nat) := []
  reds : List Reduction := []
  seize : Seizure := {}
  trctl : Dword := 0
  trnext : Nat := 0
  trwrap : Bool := false
  trhalt : Bool := false
  trace : Tbl (Dword × Dword) := []
  /-- The first arrival slot of each local-store bank that no traced access has taken (R248, R341). -/
  trslots : Tbl Nat := []
  /-- The slot that issued last on the core and the cycle of its issue (R133). -/
  lastIssue : Option (Nat × Nat) := none
  deriving DecidableEq, Repr, Inhabited

/-- A message on the determinate network. -/
inductive Msg where
  /-- CHBIND's notice from a SEND port, with its launch and task (R326, R330). -/
  | notice (src dst : PortRef) (launch task : Nat)
  /-- Credits for a SEND port, with the task that grants them (R326, R329, R330). -/
  | credit (src dst : PortRef) (n task : Nat)
  /-- A channel entry, with its launch and task (R329, R330). -/
  | entry (src dst : PortRef) (data : Vec) (task : Nat)
  /-- A value for a parent's inbox (R355). -/
  | deliver (src : BankRef) (tile slot idx : Nat) (val : Dword) (launch task : Nat)
  /-- A barrier arrival at the home tile (R353). -/
  | arrival (home slot launch task : Nat)
  /-- A barrier release for one tile (R353). -/
  | release (tile slot launch : Nat)
  /-- A forwarded matrix command (R237): target, capability, sender's tenant and command. -/
  | mcmd (tile : Nat) (cap : Dword) (tenant : Nat) (cmd : MxCmd)
  /-- A reply to MCMD (R239). -/
  | mcmdReply (dst : BankRef) (task : Nat) (val : Nat)
  /-- A SEIZE on its way (R375): target and what the seizing bank supplies. -/
  | seize (tile : Nat) (sz : Seizure)
  /-- A reply to SEIZE (R375). -/
  | seizeReply (dst : BankRef) (task : Nat) (val : Dword)
  /-- A remote SRLS, or the kill of the seizing task (R379). -/
  | srls (tile : Nat) (task : Nat)
  deriving DecidableEq, Repr

/-! ### The Front End and the queues -/

/-- An indirect buffer that is running (R100). -/
structure Ib where
  base : Va
  len : Nat
  ret : Nat
  deriving DecidableEq, Repr

/-- An open loop (R102): count left, start offset, level. -/
structure LoopRec where
  count : BitVec 32
  start : Nat
  level : Nat
  deriving DecidableEq, Repr

/-- A posted signal (R104): target, value, interrupt, vector, position, and the launches it waits for. -/
structure Signal where
  va : Va
  val : Dword
  irq : Bool
  vec : Nat
  pc : Va
  level : Nat
  launches : List Nat
  deriving DecidableEq, Repr

/-- What a queue in WAIT or DEP waits for: acceptance of the packet at a VA (R99); a word and condition, with the timeout in µs and the
DTB of the first read (R105); an instance, by kind and ID (R106); room for a signal (R104); the end of a replay-all (R109). -/
inductive QHold where
  | launch (va : Va)
  | wait (cond : Nat) (va : Va) (x : Dword) (timeout since : Nat)
  | dep (kind id : Nat)
  | signal (g : Signal)
  | replay
  deriving DecidableEq, Repr

/-- A ladder in progress on a queue (R398, R399): rung applied, deepest rung permitted, start time, the launch it runs for, and whether
the starvation watchdog started it, which leaves the queue running (R125). -/
structure Ladder where
  rung : Nat
  deepest : Nat
  since : Nat
  launch : Option Nat
  starve : Bool
  deriving DecidableEq, Repr

/-- One queue: its registers (R83 to R88), stacks, fetch-ahead buffer, signals and ladder. -/
structure Queue where
  size : Nat := 0
  base : BitVec 36 := 0
  tail : Nat := 0
  head : Nat := 0
  en : Bool := false
  prioMax : Nat := 0
  tenant : Nat := 0
  evec : Nat := 0
  eien : Bool := false
  t1 : Nat := 20
  t2 : Nat := 80
  st : Nat := 0
  prung : Nat := 0
  prio : Nat := 0
  cause : Nat := 0
  exec : BitVec 32 := 0
  lastLid : BitVec 32 := 0
  faultPc : Va := 0
  faultLvl : Nat := 0
  markv : BitVec 32 := 0
  /-- Offset of the next instruction at the current level. -/
  ip : Nat := 0
  ibs : List Ib := []
  loops : List LoopRec := []
  preds : List Nat := []
  /-- The fetch-ahead buffer: word offsets at the current level and the words read (R91). -/
  ahead : List (Nat × BitVec 32) := []
  block : Option Nat := none
  signals : List Signal := []
  /-- The instruction that the queue waits in, with its length in bytes (R99, R104 to R106, R109). -/
  hold : Option (QHold × Nat) := none
  /-- A QPRED that skips: predicates and loops opened in the skipped region (R101). -/
  skip : Option (Nat × Nat) := none
  /-- An access that waits for a matrix unit: the tile, and the number from which commands came later (R215). -/
  pass : Option (Nat × Nat) := none
  ladder : Option Ladder := none
  /-- FEQUANT.LEN of the queue (R402). -/
  quant : BitVec 32 := 0
  deriving DecidableEq, Repr, Inhabited

/-- A launch that the Front End has accepted (R41, R50, R45, R115). -/
structure Launch where
  key : Nat
  tenant : Nat
  lid : BitVec 32
  queue : Option Nat
  /-- The queue whose launch issued it, for R125, when DLAUNCH made it. -/
  root : Nat
  prio : Nat
  mode : Nat
  digest : Bool
  taskCount : Nat
  hdr : Va
  quota : Nat
  job : Nat
  phase : Nat
  graph : Nat
  rect : BitVec 18
  arg : Dword
  s5 : Dword
  s6 : Dword
  s7 : Dword
  od : Tbl Dword
  foot : Nat
  scratch : Nat
  entry : Nat
  trapOff : Nat
  gCount : Nat
  vCount : Nat
  odCount : Nat
  numctl : Dword
  roles : List (Nat × Nat)
  regions : List (Dword × Nat × Bool)
  ceiling : Nat
  hash : BitVec 128
  /-- TMEMB0-7 of the tenant in force at acceptance (R113). -/
  memb : BitVec 512
  next : Nat
  closed : Bool
  lastTile : Option Nat
  /-- Reset tasks to place again from their entry: task index (R399). -/
  again : List Nat
  /-- Reservation of a deterministic launch: held or not (R122). -/
  reserved : Bool
  dropped : Bool
  reset : Bool
  cancelled : Bool
  failed : Bool
  faulted : Bool
  nrec : Nat
  digestParked : Bool
  /-- The region and the offset in it that the digest reads next, and the bytes of its string so far (R411). -/
  digestAt : Nat × Nat
  digestRead : List Byte
  /-- The digest once computed; an inner none is a region that could not be read (R411). -/
  dig : Option (Option (BitVec 256))
  /-- DTB since which the next task has been unplaceable (R125). -/
  stuckSince : Option Nat
  /-- DTB since which every context is parked and nothing is in progress (R404). -/
  stallSince : Option Nat
  stallLogged : Bool
  deriving DecidableEq, Repr

/-- A placed task (R42, R118). -/
structure Task where
  id : Nat
  launch : Nat
  index : Nat
  tile : Nat
  slots : List Nat
  gen : BitVec 16
  base : Nat
  /-- Bytes of the footprint image that staging has copied (R55, R118). -/
  copied : Nat
  staged : Bool
  /-- Staging is parked on a not-present page, at this address (R120). -/
  parked : Option Nat
  killing : Bool
  /-- Reason of a kill: 0 cancel, 1 reset, 2 fatal (R399, R403). -/
  why : Nat
  saving : Bool
  quantum : Bool
  deriving DecidableEq, Repr

/-- A saved task (R400 to R402): the task, the bytes and tags of its run, its matrix set and its bursts, the place of its frame, and
whether it is a quantum switch, which keeps all but the contexts where they are. Its contexts stand in `ctxs` under tile numbers of
512 and above (log entry 1). -/
structure Saved where
  task : Task
  bytes : List Byte
  tags : List Nat
  mx : Option Matrix
  breads : List BreadCmd
  frame : Option (Nat × Nat)
  quantum : Bool
  deriving DecidableEq, Repr

/-- An instance of a graph (2), phase (3) or job (4) that has not completed (R42). -/
structure Inst where
  tenant : Nat
  kind : Nat
  id : Nat
  /-- ID of the instance one level up: of a graph its phase, of a phase its job. -/
  parent : Nat
  closed : Bool
  cancelled : Bool
  status : Nat
  reset : Bool
  digv : Bool
  digerr : Bool
  nrec : Nat
  digests : List (Nat × BitVec 256)
  deriving DecidableEq, Repr

/-- The kept status of a completed instance (R407, R408). -/
structure Done where
  tenant : Nat
  kind : Nat
  id : Nat
  status : Nat
  reset : Bool
  digv : Bool
  digerr : Bool
  digest : BitVec 256
  nrec : Nat
  deriving DecidableEq, Repr

/-- A fault-buffer entry (R266). -/
structure FbEnt where
  granule : Nat
  rd : Bool
  wr : Bool
  ex : Bool
  joined : Nat
  engine : BitVec 16
  lid : BitVec 32
  deriving DecidableEq, Repr

/-- Who has a request parked on a not-present page (R266): a thread's access, a fetch, a copy, a burst read, a reduction, the
staging of a task or the digest of a launch. -/
inductive Requester where
  | thread (b : BankRef)
  | fetch (b : BankRef)
  | copy (tile id chunk : Nat)
  | burst (tile id ix : Nat)
  | reduction (tile id : Nat)
  | staging (task : Nat)
  | digest (launch : Nat)
  deriving DecidableEq, Repr

/-- A request of a tenant parked on a not-present page (R266): the requester, address, kind (0 read, 1 write, 2 fetch) and launch ID, oldest first. -/
structure Parked where
  who : Requester
  va : Nat
  kind : Nat
  lid : BitVec 32
  deriving DecidableEq, Repr

/-- An error log (R432). -/
structure ErrLog where
  recs : Tbl (BitVec 512) := []
  head : Nat := 0
  tail : Nat := 0
  lost : Bool := false
  deriving DecidableEq, Repr, Inhabited

/-- Registers and Front End state of a tenant. -/
structure Tenant where
  memb : BitVec 512 := 0
  ptEn : Bool := false
  ptBase : BitVec 32 := 0
  tlbSize : BitVec 2 := 0
  tlbVa : BitVec 30 := 0
  tlbBusy : Bool := false
  fb : List FbEnt := []
  fbDrop : Bool := false
  replay : Bool := false
  fbIen : Bool := false
  fbVec : BitVec 5 := 0
  /-- Requests that the replay in progress has still to send again (R267). -/
  resend : List Parked := []
  parked : List Parked := []
  leash : Dword := 0
  debug : Bool := false
  save : Dword := 0
  saveSize : Dword := 0
  lvq : Dword := 0
  lvres : Dword := 0
  lvdig : BitVec 256 := 0
  log : ErrLog := {}
  lastLid : BitVec 32 := 0xFFFFFFFF
  deriving DecidableEq, Repr, Inhabited

/-! ### Shared units -/

/-- A sequence pool (R300 to R307): registers, frequency table, free runs (start, order) and the commands sent to it. -/
structure Pool where
  cfg : Dword := 0
  arena : Dword := 0
  md : Dword := 0
  sids : Dword := 0
  rot : Dword := 0
  freq : List (BitVec 32) := []
  free : List (Nat × Nat) := []
  cmds : List SeqCmd := []
  deriving DecidableEq, Repr, Inhabited

/-- A bound wide accumulator (R173, R349). -/
structure WideAcc where
  tenant : Nat
  pa : Nat
  bf : Bool
  n : BitVec 640
  pinf : Bool
  ninf : Bool
  nan : Bool
  job : Nat
  deriving DecidableEq, Repr

/-- A posted publication (R369). -/
structure Pub where
  id : Nat
  copy : Bool
  rel : Bool
  owner : BankRef
  thread : Nat
  task : Nat
  arrived : Bool
  deriving DecidableEq, Repr

/-- A mailbox (R366 to R371). -/
structure Mailbox where
  cfg : Dword := 0
  version : BitVec 48 := 0
  front : Bool := false
  time : Dword := 0
  pubs : List Pub := []
  /-- Reads in progress, each with the DTB of its start (R371). -/
  reads : List (BankRef × Nat) := []
  copying : Bool := false
  deriving DecidableEq, Repr, Inhabited

/-- The configuration table that boot selected (R30, R31). -/
structure Cct where
  slot : Nat
  seqNo : Nat
  hfCol : Nat
  hfWidth : Nat
  fwOffset : Nat
  fwLength : Nat
  fwHash : BitVec 256
  leashable : BitVec 512
  numVf : Nat
  bar2Init : Nat
  key : List Byte
  deriving DecidableEq, Repr

/-- Boot, time and housekeeping state (R28, R35, R36, R419 to R431). -/
structure Boot where
  phase : Nat := 0
  lock : Bool := false
  dtbSync : Bool := false
  degr : Bool := false
  peer : Bool := false
  negf : Bool := false
  err : Nat := 0
  chok : BitVec 24 := 0
  cct : Option Cct := none
  linkUp : Bool := false
  /-- BAR 2 size of each function, as an exponent over 1 GiB (R250). -/
  bar2 : Tbl Nat := []
  devRange : Tbl (BitVec 32) := []
  hostRange : Tbl (BitVec 32) := []
  negotiated : Tbl Dword := []
  dtb : Nat := 0
  /-- Model's own: nanoseconds since the last slew, at most 10 µs (R35). -/
  slewNs : Nat := 0
  /-- Nanoseconds by which the DTB has still to slew (R35). -/
  slew : Int := 0
  fwVersion : BitVec 16 := 0
  fwHash : BitVec 256 := 0
  fwBusy : Bool := false
  fwResult : Nat := 0
  fwSwitch : Bool := false
  /-- The network firewall registers are set (R33). -/
  firewall : Bool := false
  /-- Bytes of the update window (R419). -/
  window : List Host.Cell := []
  /-- HFCALLs and FBCTL.GO writes held during a switchover (R421). -/
  heldGo : List Nat := []
  tj : Nat := 0
  clkStep : Nat := 0
  thr : Nat := 0
  deriving DecidableEq, Repr, Inhabited

/-- A memory channel's RAS block (R427). -/
structure Channel where
  degr : Bool := false
  lane : Nat := 0
  ce : Nat := 0
  pprBusy : Option Nat := none
  pprWait : List Nat := []
  rmap : Tbl Dword := []
  /-- Entries whose row copy is in progress (R428). -/
  remapping : List Nat := []
  /-- Entries whose row copy is held during a switchover (R421). -/
  remapHeld : List Nat := []
  lost : Bool := false
  failing : Bool := false
  /-- A failed lane whose conversion waits for the end of a switchover (R421). -/
  laneHeld : Option Nat := none
  /-- What the rows behind valid remap entries held when they were copied (R428): entry, and line, bytes and POISON. -/
  oldRows : Tbl (List (Nat × List Byte × Bool)) := []
  deriving DecidableEq, Repr, Inhabited

/-- The peer registers and protocol state (R413 to R417). -/
structure Peer where
  en : Bool := false
  auto : Bool := false
  spare : Bool := false
  hb : Nat := 10
  miss : Nat := 3
  vec : Nat := 0
  ien : Bool := false
  addr : Dword := 0
  st : Nat := 0
  role : Bool := false
  cmp : BitVec 24 := 0
  mism : Nat := 0
  lastPh : Nat := 0
  /-- Number of the next message to send, and of the next period. -/
  seq : Nat := 0
  pidx : Nat := 0
  joinAt : Nat := 0
  /-- The peer's JOINACK has arrived since the join began (R415). -/
  acked : Bool := false
  lastMsg : Nat := 0
  sentAt : Nat := 0
  mine : List (Nat × Nat × BitVec 256) := []
  other : List (Nat × BitVec 256) := []
  slots : Tbl (BitVec 512) := []
  sent : List (BitVec 512) := []
  deriving DecidableEq, Repr, Inhabited

/-- FESTARVE, FEPREEMPT, FEWDOG and SCRUBCTL (R124, R398, R404, R426). -/
structure FeRegs where
  tstarve : Nat := 200
  starveOff : Bool := false
  preQueue : Nat := 0
  preRung : Nat := 0
  twait : Nat := 100
  tstall : Nat := 1000
  kill : Bool := false
  scrubPeriod : Nat := 24
  scrubOff : Bool := false
  passes : Nat := 0
  /-- The next DRAM line, and the next on-die SRAM word, that scrubbing reads (R425, R426). -/
  scrubPos : Nat := 0
  scrubSram : Nat := 0
  deriving DecidableEq, Repr, Inhabited

/-- The instruction after a C.RLX: the instruction, or the cause that refuses its bits; its length in bytes and its bits (R71, R73). -/
structure Follow where
  ins : Option Instr := none
  cause : BitVec 10 := 0
  len : Nat := 2
  bits : BitVec 32 := 0
  deriving DecidableEq, Repr, Inhabited

/-- The whole device. -/
structure State where
  /-- Model's own: who has the machine to itself (log entry 1). -/
  focus : Option Agent := none
  /-- Model's own: numbers the free values (log entry 2). -/
  tick : Nat := 0
  /-- Model's own: the tile and slot, and the queue, for which this step acts (log entry 1). -/
  cur : Nat × Nat := (0, 0)
  curq : Nat := 0
  /-- Model's own: length in bytes of the instruction in execution (log entry 1). -/
  len : Nat := 4
  /-- Model's own: address and bits of the instruction in execution, for TRAPADDR and TRAPVAL of R72 (log entry 1). -/
  iaddr : Va := 0
  ibits : BitVec 32 := 0
  /-- Model's own: what follows a C.RLX in execution (R71, log entry 1). -/
  follow : Follow := {}
  /-- Model's own: scope of the C.RLX joined with the running instruction (R71, log entry 1). -/
  rlxScope : Option Nat := none
  /-- Model's own: a counter that names commands, tasks and launches (log entry 1). -/
  fresh : Nat := 1
  /-- Model's own: what left the device by the host interface (log entry 3). -/
  hostReads : List (Nat × Nat × BitVec 512) := []
  msix : List (Nat × Nat) := []
  cycle : Nat := 0
  mem : List Host.Cell := []
  /-- Poisoned DRAM lines (location / 64, R423, R424) and uncorrectable on-die SRAM words (location / 8, R425). -/
  poison : List Nat := []
  /-- Failing symbols of DRAM lines and failing bits of on-die SRAM words that no read has met yet, by the numbers of `poison` (R423, R425). -/
  failing : Tbl Nat := []
  ctxs : Tbl Ctx := []
  tiles : Tbl Tile := []
  xaResv : List Resv := []
  xaWaits : List WaitEnt := []
  net : List Msg := []
  queues : Tbl Queue := []
  lastServed : Tbl Nat := []
  /-- The queue that an engine serves, plus 1; 0 when it has still to choose (R89). -/
  serving : Tbl Nat := []
  launches : List Launch := []
  tasks : List Task := []
  saved : List Saved := []
  insts : List Inst := []
  dones : List Done := []
  /-- Tenant, kind and ID of every graph, phase and job that has completed (R42). -/
  ended : List (Nat × Nat × Nat) := []
  tenants : Tbl Tenant := []
  /-- L1 and L2 TLB entries: tile (512 for the L2 slices), tenant, granule VA and the leaf's granule PA with W and X (R264). -/
  tlb : List (Nat × Nat × Nat × Nat × Bool × Bool) := []
  /-- Page walks in progress that have found the page not present (R438): tenant and granule VA. -/
  walks : List (Nat × Nat) := []
  pools : Tbl Pool := []
  wacc : List WideAcc := []
  /-- Accesses of the host and of notify words that wait at a matrix unit (R215). -/
  atUnit : List UnitAccess := []
  mailboxes : Tbl Mailbox := []
  fnten : Tbl (BitVec 7) := []
  b2ap : Tbl Dword := []
  boot : Boot := {}
  channels : Tbl Channel := []
  peer : Peer := {}
  fe : FeRegs := {}
  log : ErrLog := {}
  deriving DecidableEq, Repr, Inhabited

/-- The device right after power-on reset: every field at the value its register map gives, or at the value that a log entry names. -/
def State.reset : State := {}

end Sys2Proof.Machine
end

