-- ==== Sys2Proof/Machine/Ops.lean ====
section
/-! DEFINITION. The shared operations: reaching the parts of the state, memory, address checks and translation, error records,
lookahead windows, ending an instruction, and taking a trap. -/

namespace Sys2Proof.Machine

/-- The outcome of a step. -/
abbrev Out := Host.Outcome State Fault Refusal

/-! ### Reaching the parts of the state -/

/-- The context in a slot of a tile. -/
def State.ctx (s : State) (tile slot : Nat) : Ctx := tget {} s.ctxs (tile * 8 + slot)
def State.setCtx (s : State) (tile slot : Nat) (c : Ctx) : State := { s with ctxs := tset s.ctxs (tile * 8 + slot) c }
/-- A bank of a context (R139). -/
def Ctx.bank (c : Ctx) (b : Nat) : Bank := if b = 0 then c.b0 else c.b1
def Ctx.setBank (c : Ctx) (b : Nat) (k : Bank) : Ctx := if b = 0 then { c with b0 := k } else { c with b1 := k }
def State.bank (s : State) (r : BankRef) : Bank := (s.ctx r.tile r.slot).bank r.bank
def State.setBank (s : State) (r : BankRef) (k : Bank) : State := s.setCtx r.tile r.slot ((s.ctx r.tile r.slot).setBank r.bank k)
/-- The active bank of the context for which the step acts. -/
def State.curRef (s : State) : BankRef := ⟨s.cur.1, s.cur.2, (s.ctx s.cur.1 s.cur.2).active⟩
def State.me (s : State) : Bank := s.bank s.curRef
def State.setMe (s : State) (k : Bank) : State := s.setBank s.curRef k
def State.tile (s : State) (t : Nat) : Tile := tget {} s.tiles t
def State.setTile (s : State) (t : Nat) (x : Tile) : State := { s with tiles := tset s.tiles t x }
def State.queue (s : State) (q : Nat) : Queue := tget {} s.queues q
def State.setQueue (s : State) (q : Nat) (x : Queue) : State := { s with queues := tset s.queues q x }
def State.tenant (s : State) (t : Nat) : Tenant := tget {} s.tenants t
def State.setTenant (s : State) (t : Nat) (x : Tenant) : State := { s with tenants := tset s.tenants t x }
def State.pool (s : State) (p : Nat) : Pool := tget {} s.pools p
def State.setPool (s : State) (p : Nat) (x : Pool) : State := { s with pools := tset s.pools p x }
def State.mbox (s : State) (m : Nat) : Mailbox := tget {} s.mailboxes m
def State.setMbox (s : State) (m : Nat) (x : Mailbox) : State := { s with mailboxes := tset s.mailboxes m x }
def State.channel (s : State) (c : Nat) : Channel := tget {} s.channels c
def State.setChannel (s : State) (c : Nat) (x : Channel) : State := { s with channels := tset s.channels c x }
/-- The running instruction is over: a C.RLX in front of it no longer holds (R71). -/
def State.unscoped (s : State) : State := { s with rlxScope := none }
/-- The next unconstrained number, and the state that has drawn it (log entry 2). -/
def State.free (s : State) : Nat := Config.freeNat s.tick
def State.drawn (s : State) : State := { s with tick := s.tick + 1 }
/-- A live launch by its key. -/
def State.launch? (s : State) (k : Nat) : Option Launch := s.launches.find? (fun l => l.key == k)
def State.setLaunch (s : State) (l : Launch) : State :=
  { s with launches := s.launches.map (fun x => if x.key = l.key then l else x) }
/-- A task by its number, placed or saved. -/
def State.task? (s : State) (i : Nat) : Option Task :=
  match s.tasks.find? (fun t => t.id == i) with
  | some t => some t
  | none => (s.saved.find? (fun v => v.task.id == i)).map (·.task)
/-- A task that is placed, and not saved. -/
def State.resident (s : State) (i : Nat) : Bool := s.tasks.any (fun t => t.id == i)
def State.setTask (s : State) (t : Task) : State :=
  { s with tasks := s.tasks.map (fun x => if x.id = t.id then t else x) }
/-- The tile number under which the contexts of a saved task stand (log entry 1). -/
def awayTile (tile id : Nat) : Nat := tile + 512 * id
/-- The launch that owns a bank's work. -/
def State.launchOf (s : State) (b : Bank) : Option Launch :=
  match s.task? b.task with
  | some t => s.launch? t.launch
  | none => none

/-! ### Places of the die (R13 to R16) -/

/-- True of the TILEID of an LA tile. -/
def isLa (t : Nat) : Bool := decide (t < 0x190)
/-- True of the TILEID of an XA tile. -/
def isXa (t : Nat) : Bool := decide (0x190 ≤ t) && decide (t < 0x1D0) && decide (t % 16 < 8)
/-- The collar tile. -/
def collar : Nat := 0x1CF
/-- True of a tile with a local store. -/
def hasWindow (t : Nat) : Bool := isLa t || isXa t || t == collar
def colOf (t : Nat) : Nat := t / 16
def rowOf (t : Nat) : Nat := t % 16
/-- A tile of a cast Headframe column (R16). -/
def State.headframe (s : State) (t : Nat) : Bool :=
  match s.boot.cct with
  | some c => decide (c.hfCol ≤ colOf t) && decide (colOf t < c.hfCol + c.hfWidth) && isLa t
  | none => false
/-- Tenant membership of a tile (R113). -/
def State.member (s : State) (t tile : Nat) : Bool := (s.tenant t).memb.getLsbD tile
/-- A compute tile that a tenant may use: a member, not a Headframe tile, not the collar tile (R113). -/
def State.usable (s : State) (t tile : Nat) : Bool :=
  (isLa tile || isXa tile) && s.member t tile && !s.headframe tile
/-- Vector register width in bits (R145). -/
def vlBits (tile : Nat) : Nat := if isXa (tile % 512) || tile % 512 == collar then 512 else 1024
/-- Local-store bytes (R13, R245). -/
def lsBytes (tile : Nat) : Nat := if isLa tile then 0x100000 else 0x80000
/-- Task space of a tile (R117). -/
def taskSpace (tile : Nat) : Nat := if isLa tile then 0xF0000 else 0x80000

/-- The tiles of a placement rectangle in column-major order (R52): ORIGIN, NCOLM1, NROWM1. -/
def rectTiles (r : BitVec 18) : List Nat :=
  let o := fld r.toNat 8 0
  (List.range (fld r.toNat 13 9 + 1)).flatMap (fun c => (List.range (fld r.toNat 17 14 + 1)).map (fun w => o + c * 16 + w))
/-- A rectangle that lies wholly within one array (R52). -/
def rectOk (r : BitVec 18) : Bool :=
  let o := fld r.toNat 8 0
  let c := colOf o + fld r.toNat 13 9
  let w := rowOf o + fld r.toNat 17 14
  if isLa o then decide (c ≤ 24) && decide (w ≤ 15) else isXa o && decide (c ≤ 28) && decide (w ≤ 7)
/-- A tile lies in a rectangle. -/
def inRect (r : BitVec 18) (t : Nat) : Bool := (rectTiles r).contains t

/-! ### Locations: one byte memory for every memory of the device -/

/-- Byte location of host memory (R263). -/
def hostLoc : Nat := 2 ^ 43
/-- Byte location of the XA shared SRAM (R242). -/
def xaLoc : Nat := 2 ^ 44
/-- Byte location of the mailbox memory (R242). -/
def mbmLoc : Nat := 2 ^ 44 + 2 ^ 32
/-- Byte location of a tile's local store (R245). -/
def lsLoc (tile off : Nat) : Nat := 2 ^ 45 + tile * 2 ^ 22 + off
/-- Tile of a local-store location. -/
def locTile (loc : Nat) : Nat := (loc - 2 ^ 45) / 2 ^ 22
/-- Tile of a local-store location or of a location of a window's registers. -/
def homeTile (loc : Nat) : Nat := if loc < 2 ^ 46 then locTile loc else (loc - 2 ^ 46) / 2 ^ 22
def locOff (loc : Nat) : Nat := loc % 2 ^ 22
def isLsLoc (loc : Nat) : Bool := decide (2 ^ 45 ≤ loc)
def isXaLoc (loc : Nat) : Bool := decide (xaLoc ≤ loc) && decide (loc < mbmLoc)
/-- DRAM installed (R263). -/
def dramBytes : Nat := 0x3000000000
def isDramLoc (loc : Nat) : Bool := decide (loc < dramBytes)

/-- Bytes at a location. -/
def State.bytes (s : State) (loc n : Nat) : List Byte := memRead s.mem loc n
/-- Little-endian value at a location (R3). -/
def State.load (s : State) (loc n : Nat) : Nat := bytesNat (memRead s.mem loc n)
/-- The number under which a location's DRAM line (R423) or SRAM word (R425) is marked. -/
def markOf (loc : Nat) : Nat := if isDramLoc loc then loc / 64 else loc / 8
/-- The first location and the size of a marked unit. -/
def markSpan (m : Nat) : Nat × Nat := if m < dramBytes / 64 then (m * 64, 64) else (m * 8, 8)
/-- Marks of lines and words that a write covers whole go (R423). -/
def clearPoison (p : List Nat) (loc n : Nat) : List Nat :=
  p.filter (fun m => !(decide (loc ≤ (markSpan m).1) && decide ((markSpan m).1 + (markSpan m).2 ≤ loc + n)))
/-- Failing symbols and bits of what a write covers whole are gone with the old contents (R423). -/
def clearFailing (p : Tbl Nat) (loc n : Nat) : Tbl Nat :=
  p.filter (fun m => !(decide (loc ≤ (markSpan m.1).1) && decide ((markSpan m.1).1 + (markSpan m.1).2 ≤ loc + n)))
/-- Bytes written at a location. -/
def State.storeBytes (s : State) (loc : Nat) (bs : List Byte) : State :=
  { s with
    mem := memWrite s.mem loc bs, poison := clearPoison s.poison loc bs.length, failing := clearFailing s.failing loc bs.length }
/-- Every byte of a line or word lies in one of some runs of bytes. -/
def covered (l : List (Nat × Nat)) (m : Nat) : Bool :=
  (List.range (markSpan m).2).all (fun i => l.any (fun p => decide (p.1 ≤ (markSpan m).1 + i) && decide ((markSpan m).1 + i < p.1 + p.2)))
/-- A write of several runs of bytes that together cover a line or word whole is a full write of it (R423, R424). -/
def State.wrote (s : State) (l : List (Nat × Nat)) : State :=
  if s.poison = [] ∧ s.failing = [] then s
  else { s with poison := s.poison.filter (fun m => !covered l m), failing := s.failing.filter (fun m => !covered l m.1) }
def State.store (s : State) (loc n v : Nat) : State := s.storeBytes loc (natBytes n v)
/-- A DRAM line of a channel with two failed lanes (R430). -/
def State.lostLine (s : State) (loc : Nat) : Bool := isDramLoc loc && (s.channel (Config.channelOf (loc / 64) % 24)).lost
/-- A DRAM line or SRAM word that an access of `n` bytes touches cannot be read (R423, R425, R430). -/
def State.poisoned (s : State) (loc n : Nat) : Bool :=
  s.poison.any (fun m => decide (markOf loc ≤ m) && decide (m ≤ markOf (loc + n - 1))) || s.lostLine loc

/-- Sorted insertion and removal of a tag. -/
def tagAdd : List Nat → Nat → List Nat
  | [], k => [k]
  | a :: t, k => if k = a then a :: t else if k < a then k :: a :: t else a :: tagAdd t k
/-- The full/empty tag of a local-store word (R257): full or not. -/
def State.tag (s : State) (loc : Nat) : Bool := (s.tile (locTile loc)).tags.contains (locOff loc / 8)
def State.setTag (s : State) (loc : Nat) (full : Bool) : State :=
  let t := s.tile (locTile loc)
  let w := locOff loc / 8
  s.setTile (locTile loc) { t with tags := if full then tagAdd t.tags w else t.tags.filter (· != w) }

/-! ### Registers of a bank -/

/-- A scalar register; g0 reads 0 (R139). -/
def Bank.rg (b : Bank) (n : Nat) : Dword := if n = 0 then 0 else tget 0 b.g n
/-- A scalar register written; a write to g0 is discarded (R139). -/
def Bank.wg (b : Bank) (n : Nat) (x : Dword) : Bank := if n = 0 then b else { b with g := tset b.g n x }
def Bank.rv (b : Bank) (n : Nat) : Vec := tget 0 b.v n
def Bank.wv (b : Bank) (n : Nat) (x : Vec) : Bank := { b with v := tset b.v n x }
/-- An operand descriptor (R53). -/
def Bank.rod (b : Bank) (n : Nat) : Dword := tget 0 b.od n
/-- The scalar operand of the running instruction. -/
def State.rg (s : State) (n : BitVec 5) : Dword := s.me.rg n.toNat
/-- A port of a bank. -/
def Bank.port (b : Bank) (p : Nat) : Option Port := tfind b.ports p
/-- The context's array decides the vector width. -/
def State.vl (s : State) : Nat := vlBits s.cur.1
/-- A vector kept to the width of the running core. -/
def State.clip (s : State) (x : Vec) : Vec := if s.vl = 1024 then x else x &&& ((1#1024 <<< 512) - 1)

/-! ### Error records and interrupts -/

/-- What an error record reports (R393). -/
structure RecIn where
  cause : Nat
  sev : Nat
  engine : Nat
  tenant : Option Nat := none
  ctx : Nat := 0
  va : Option Nat := none
  pa : Option Nat := none
  dfr : Bool := false
  dbl : Bool := false
  asyn : Bool := false
  launch : Option Launch := none
  task : Nat := 0
  detail : Nat := 0

/-- An ENGINE halfword (R394). -/
def engineId (kind unit sub : Nat) : Nat := kind * 4096 + unit % 512 * 8 + sub

/-- The 64 bytes of a record (R393). -/
def recordBits (r : RecIn) (time : Nat) (lost : Bool) : BitVec 512 :=
  let l := r.launch
  let f (g : Launch → Nat) := match l with
    | some x => g x
    | none => 0
  let flags := b2n r.va.isSome + 2 * b2n r.pa.isSome + 4 * b2n l.isSome + 8 * b2n r.dfr + 16 * b2n r.dbl +
    32 * b2n r.asyn + 64 * b2n lost + 128 * b2n l.isSome
  BitVec.ofNat 512
    (r.cause % 1024 + r.sev * 2 ^ 10 + r.engine % 2 ^ 16 * 2 ^ 16 + r.tenant.getD 0 % 64 * 2 ^ 32 + r.ctx % 64 * 2 ^ 40 +
     flags * 2 ^ 48 + f (·.job) * 2 ^ 64 + f (·.phase) * 2 ^ 80 + f (·.graph) * 2 ^ 96 +
     (if l.isSome then r.task % 2 ^ 16 else 0) * 2 ^ 112 + f (·.lid.toNat) * 2 ^ 128 +
     r.va.getD 0 % 2 ^ 48 * 2 ^ 160 + r.pa.getD 0 % 2 ^ 44 * 2 ^ 208 + time % 2 ^ 64 * 2 ^ 256 + r.detail % 2 ^ 64 * 2 ^ 320 +
     f (·.hash.toNat) * 2 ^ 384)

/-- One record appended to a log of `size` slots; a full log drops it and remembers the loss (R396, R432). -/
def logAppend (g : ErrLog) (size : Nat) (bits : Bool → BitVec 512) : ErrLog :=
  if (g.head + 1) % size = g.tail then { g with lost := true }
  else { recs := tset g.recs g.head (bits g.lost), head := (g.head + 1) % size, tail := g.tail, lost := false }

/-- Causes of dropped engine work (R407): matrix commands, copies, bursts, pins, publications, reductions, and discarded messages of channels
and barriers. -/
def dropCause (c : Nat) : Bool :=
  [0x087, 0x113, 0x114, 0x141, 0x145, 0x149, 0x14A, 0x184, 0x185, 0x1C4, 0x1C5, 0x20B, 0x249, 0x286, 0x287, 0x288].contains c

/-- NREC of every instance that a record names (R408), and the mark of dropped engine work (R407). -/
def State.countRec (s : State) (l : Launch) (drop : Bool) : State :=
  let l := (s.launch? l.key).getD l
  let s := s.setLaunch { l with nrec := satInc l.nrec (2 ^ 32 - 1), dropped := l.dropped || drop }
  let hit := fun (i : Inst) => i.tenant == l.tenant &&
    ((i.kind == 2 && i.id == l.graph) || (i.kind == 3 && i.id == l.phase) || (i.kind == 4 && i.id == l.job))
  { s with insts := s.insts.map (fun i => if hit i then { i with nrec := satInc i.nrec (2 ^ 32 - 1) } else i) }

/-- An error record written to the device log and to the log of the tenant it names (R393). -/
def State.record (s : State) (r : RecIn) : State :=
  let bits := recordBits r s.boot.dtb
  let s := { s with log := logAppend s.log 256 bits }
  let s := match r.tenant with
    | some t => s.setTenant t { s.tenant t with log := logAppend (s.tenant t).log 32 bits }
    | none => s
  match r.launch with
  | some l => s.countRec l (r.sev == 2 && r.asyn && dropCause r.cause)
  | none => s

/-- CTX byte of a record: slot, bank and KIND (R393). -/
def ctxByte (s : State) (r : BankRef) : Nat := r.slot + 8 * r.bank + 16 * (s.bank r).kind

/-- A record about a thread: its tenant and work fields (R393). -/
def State.threadRec (s : State) (r : BankRef) (cause sev engine : Nat) (va : Option Nat) (detail : Nat) : RecIn :=
  let b := s.bank r
  { cause := cause, sev := sev, engine := engine, tenant := some b.tenant, ctx := ctxByte s r, va := va,
    launch := s.launchOf b, task := b.taskIndex, detail := detail }

/-- A record about an engine's work for a task: the tenant and work fields of the owning task (R396). -/
def State.taskRec (s : State) (r : BankRef) (task cause sev engine : Nat) (va : Option Nat) (detail : Nat) : RecIn :=
  let t := s.task? task
  let l := t.bind (fun t => s.launch? t.launch)
  { cause := cause, sev := sev, engine := engine, tenant := l.map (·.tenant), ctx := ctxByte s r, va := va, asyn := true,
    launch := l, task := (t.map (·.index)).getD 0, detail := detail }

/-- The unit that reports an unreadable location (R394): the cache of the DRAM line's slice, the core of a local-store word, the mailbox
memory, or the first XA core for the XA shared SRAM (log entry 96). -/
def lineEngine (loc : Nat) : Nat :=
  if isDramLoc loc then engineId 3 (0x1E0 + (fld loc 10 6 ^^^ fld loc 15 11)) 4
  else if isLsLoc loc then engineId 0 (locTile loc) 0
  else if isXaLoc loc then engineId 0 0x190 0
  else engineId 6 0x1D9 0
/-- A record turned into the one of an unreadable location: 0x342 of DRAM (R423), 0x344 of on-die SRAM (R425). -/
def RecIn.unreadable (r : RecIn) (loc : Nat) : RecIn :=
  { r with cause := if isDramLoc loc then 0x342 else 0x344, sev := 2, engine := lineEngine loc,
           pa := if isDramLoc loc then some loc else none }

/-! ### Errors that a read meets (R423, R425) -/

/-- A memory controller's record: channel and sub-channel (R394). -/
def State.chanRecord (s : State) (c sub cause sev detail : Nat) : State :=
  s.record { cause := cause, sev := sev, engine := engineId 7 c sub, detail := detail }

/-- The failing symbols of a line that a channel corrects: 2, or 1 in lane-degraded mode (R423). -/
def Channel.correctable (x : Channel) : Nat := if x.degr then 1 else 2

/-- A DRAM line corrected, counted by its channel, and recorded (R423, R427). -/
def State.corrected (s : State) (line : Nat) : State :=
  let c := Config.channelOf line % 24
  (s.setChannel c { s.channel c with ce := satInc (s.channel c).ce (2 ^ 32 - 1) }).record
    { cause := 0x341, sev := 1, engine := engineId 7 c 0, pa := some (line * 64) }

/-- A line written back with POISON, or an SRAM word that holds no data any more (R423, R425). -/
def State.mark (s : State) (m : Nat) : State := if s.poison.contains m then s else { s with poison := s.poison ++ [m] }

/-- Symbols or bits of a line or word that fail from now on (log entry 5). -/
def State.plant (s : State) (m errs : Nat) : State := if errs = 0 then s else { s with failing := tset s.failing m (tget 0 s.failing m + errs) }

/-- A read meets the failing symbols or bits of a line or word (R423, R425): what can be corrected is, with its record, and anything else is marked,
so that this read and later ones get no data. -/
def State.meetMark (s : State) (m : Nat) : State :=
  let n := tget 0 s.failing m
  if n = 0 then s
  else
    let s := { s with failing := tdel s.failing m }
    if m < dramBytes / 64 then
      if s.poison.contains m ∨ (s.channel (Config.channelOf m % 24)).correctable < n then s.mark m else s.corrected m
    else if n = 1 then s.record { cause := 0x343, sev := 1, engine := lineEngine (m * 8) }
    else s.mark m

/-- The lines and words that a read of `n` bytes touches. -/
def State.meet (s : State) (loc n : Nat) : State :=
  ((s.failing.map (·.1)).filter (fun m => decide (markOf loc ≤ m) && decide (m ≤ markOf (loc + n - 1)))).foldl (fun s m => s.meetMark m) s
def State.meetAll (s : State) (l : List (Nat × Nat)) : State := l.foldl (fun s p => s.meet p.1 p.2) s

/-- Bursts of a BREAD that have returned and stand in the burst queue (R293). -/
def BreadCmd.queuedBursts (c : BreadCmd) : Nat := (c.bursts.filter (fun u => u.queued.isSome && u.data.isSome && u.born.isNone)).length

/-- The record of a read that meets the first of listed runs that cannot be read (R423, R425). -/
def State.recordPoison (s : State) (r : RecIn) (l : List (Nat × Nat)) : State :=
  match l.find? (fun p => s.poisoned p.1 p.2) with
  | some p => s.record (r.unreadable p.1)
  | none => s

/-- The tenant's function: the lowest virtual function that serves it, else the physical function (R455). -/
def State.functionOf (s : State) (t : Nat) : Nat :=
  match (List.range 8).find? (fun f => (tget 0 s.fnten (f + 1)).toNat == 64 + t) with
  | some f => f + 1
  | none => 0

/-- An MSI-X message of a function (R455). -/
def State.msi (s : State) (fn vec : Nat) : State := { s with msix := s.msix ++ [(fn, vec)] }

/-- What a host read returned: function, address and data (log entry 3); a retried configuration request is the data 1. -/
def State.answer (s : State) (fn addr : Nat) (x : BitVec 512) : State := { s with hostReads := s.hostReads ++ [(fn, addr, x)] }

/-- No earlier access of a PCIe function waits at a matrix unit: its later ones reach the device only then (R215, R439). -/
def State.hostClear (s : State) (fn : Nat) : Bool := !s.atUnit.any (·.fn == some fn)

/-- The DTB (R35). -/
def State.dtb (s : State) : Dword := BitVec.ofNat 64 s.boot.dtb

/-! ### Writing results -/

/-- A message put on the determinate network. -/
def State.send (s : State) (m : Msg) : State := { s with net := s.net ++ [m] }

/-- A tile is seized, from the start of the swap to the end of the release (R381). -/
def State.seized (s : State) (tile : Nat) : Bool := decide (2 ≤ (s.tile tile).seize.st)

/-- A register written when its result lands: a bound SEND port also sends the value (R329); while its tile is seized the value stays to be
sent after the release (R330). -/
def State.land (s : State) (r : BankRef) (d : Dest) (x : Vec) : State :=
  match d with
  | .none => s
  | .g n => s.setBank r ((s.bank r).wg n (x.setWidth 64))
  | .v n =>
    let b := (s.bank r).wv n x
    match (if 28 ≤ n then b.port (n - 28) else none) with
    | some p =>
      if p.mode ≠ 1 then s.setBank r b
      else if r.bank = 0 ∧ s.seized r.tile then s.setBank r { b with pend := b.pend ++ [⟨.v n, x, s.cycle, 1, []⟩] }
      else (s.setBank r b).send (.entry ⟨r.tile, r.slot, n - 28⟩ p.peer x b.task)
    | none => s.setBank r b

/-- The credit of a SEND port comes back when the result that took it is never sent (R329). -/
def State.backCredit (s : State) (r : BankRef) (d : Dest) : State :=
  match d with
  | .v n =>
    let b := s.bank r
    match (if 28 ≤ n then b.port (n - 28) else none) with
    | some p => if p.mode = 1 then s.setBank r { b with ports := tset b.ports (n - 28) { p with credit := p.credit + 1 } } else s
    | none => s
  | _ => s

/-- Sticky flags ORed into NUMCTL[22:16] (R161). -/
def Bank.raise (b : Bank) (f : BitVec 7) : Bank := { b with numctl := b.numctl ||| (f.setWidth 64 <<< 16) }

/-- Results still pending for a register that is written again have landed; freed entries without a register stay. -/
def dropPend (ps : List Pending) (d : Dest) : List Pending :=
  match d with
  | .none => ps
  | _ => ps.filter (fun p => p.dest != d)

/-- A result of fixed latency is awaited (R135): an own turn comes at the earliest 8 cycles after the one before it, in pack mode 2 (R131, R133). -/
def Bank.await (b : Bank) (now : Nat) (d : Dest) (lat : Nat) (old : Vec) (frees : List Nat) : Bank :=
  let gap := if b.pack then 2 else 8
  { b with pend := dropPend b.pend d ++ [⟨d, old, now + lat, (lat + gap - 1) / gap, frees⟩] }

/-- A scalar result of fixed latency (R135): program-visible at once, its old value kept for register windows until it lands (R246). -/
def State.wgLat (s : State) (n lat : Nat) (x : Dword) : State :=
  if n = 0 then s
  else
    let b := s.me
    s.setMe ((b.wg n x).await s.cycle (.g n) lat ((b.rg n).setWidth 1024) [])

/-! ### Ending a thread's work -/

/-- The kill of a task reaches every tile that the task has seized (R376). -/
def State.killSeizures (s : State) (ids : List Nat) : State :=
  (s.tiles.filter (fun y => y.2.seize.st != 0 && ids.contains y.2.seize.task)).foldl
    (fun s y => s.send (.srls y.1 y.2.seize.task)) s

/-- The victims of a ladder that has ended go on: their tasks still being saved run again (R398). -/
def State.abandonSaves (s : State) (k : Nat) : State :=
  let mine : Task → Bool := fun t => match s.launch? t.launch with
    | some l => l.root == k
    | none => false
  { s with tasks := s.tasks.map (fun t => if t.saving && !t.quantum && mine t then { t with saving := false } else t) }

/-- A queue in SAVED without a ladder and without a saved task returns to RUN with an entry, or to IDLE when its ring holds nothing; an
instruction that waited starts again (R88, R112, R401). -/
def State.unsave (s : State) (k : Nat) : State :=
  let q := s.queue k
  let held := s.saved.any (fun v => !v.quantum && (match s.launch? v.task.launch with
    | some l => l.root == k
    | none => false))
  if q.st = 6 ∧ q.ladder.isNone ∧ ¬ held then
    s.setQueue k { q with
      st := if q.ibs.isEmpty ∧ q.ip = q.tail then 1 else 2, ahead := [], block := none, hold := none } else s

/-- The ladder of a queue ends (R398). -/
def State.endLadder (s : State) (k : Nat) : State :=
  ((s.setQueue k { s.queue k with ladder := none }).abandonSaves k).unsave k

/-- Every ladder that runs for a launch ends: the launch has no unplaced task, or has been cancelled (R398). -/
def State.endLadders (s : State) (key : Nat) : State :=
  ((s.queues.filter (fun q => (q.2.ladder.bind (·.launch)) == some key)).map (·.1)).foldl (fun s k => s.endLadder k) s

/-- The armed slots of tasks whose kill begins are disarmed: a later fill changes only the tag (R365). -/
def State.disarm (s : State) (ids : List Nat) : State :=
  let off : Reflex → Reflex := fun x => if x.preset.any (fun p => ids.contains p.task) then { x with armed := false } else x
  { s with ctxs := s.ctxs.map (fun (c : Nat × Ctx) => (c.1, { c.2 with reflex := off c.2.reflex })) }

/-- A wait that a kill leaves to kill-quiet: a BREAD's command without a queue entry holds the pins that end there (R305). -/
def Wait.keepsPins : Wait → Bool
  | .bteFullB _ => true
  | _ => false

/-- Steps 1 and 2 of the kill of tasks (R403): their parked waits are removed, with the list entries, mailbox reads and sequence commands that they
stand for (R260, R324, R356), and their matrix commands that have not begun are discarded (R240). -/
def State.dropWaits (s : State) (ids : List Nat) : State :=
  let mine := fun (r : BankRef) => ids.contains (s.bank r).task
  let dead := fun (c : MxCmd) => c.started.isNone && (ids.contains c.task || ids.contains c.sender)
  let out := fun (b : Bank) => if ids.contains b.task ∧ ¬ b.wait.any Wait.keepsPins then { b with wait := none } else b
  { s with
    ctxs := s.ctxs.map (fun (c : Nat × Ctx) => (c.1, { c.2 with b0 := out c.2.b0, b1 := out c.2.b1 }))
    tiles := s.tiles.map (fun (t : Nat × Tile) => (t.1, { t.2 with
      waits := t.2.waits.filter (fun w => !mine w.who)
      mx := { t.2.mx with tq := t.2.mx.tq.filter (fun c => !dead c), lq := t.2.mx.lq.filter (fun c => !dead c) } }))
    xaWaits := s.xaWaits.filter (fun w => !mine w.who)
    mailboxes := s.mailboxes.map (fun (m : Nat × Mailbox) => (m.1, { m.2 with reads := m.2.reads.filter (fun x => !mine x.1) }))
    pools := s.pools.map (fun (p : Nat × Pool) => (p.1, { p.2 with cmds := p.2.cmds.filter (fun c => !mine c.owner) })) }

/-- Every resident task of a launch marked for kill, its unplaced tasks discarded and its reservation over (R122, R391, R403): reason 0 cancel,
2 fatal, which cancels the launch by kill (R385, R404). -/
def State.killLaunch (s : State) (k why : Nat) : State :=
  match s.launch? k with
  | none => s
  | some l =>
    let s := s.setLaunch { l with
      closed := true, next := l.taskCount, again := [], reserved := false, cancelled := true, faulted := l.faulted || why == 2 }
    let ids := ((s.tasks ++ s.saved.map (·.task)).filter (fun t => t.launch == k && !t.killing)).map (·.id)
    let s := { s with
      tasks := s.tasks.map (fun (t : Task) => if t.launch = k then { t with killing := true, why := why } else t),
      saved := s.saved.map (fun (v : Saved) =>
        if v.task.launch = k then { v with task := { v.task with killing := true, why := why } } else v) }
    (((s.dropWaits ids).disarm ids).killSeizures ids).endLadders k

/-- The release of a seizure (R379): leash issue stops, unstarted leash commands are discarded, the contexts switch back, and a seizer
that has had no reply yet gets 3 (R376). -/
def State.releaseSeizure (s : State) (tile : Nat) : State :=
  let t := s.tile tile
  let s := if t.seize.first then s else s.send (.seizeReply t.seize.seizer t.seize.task 3)
  let s := s.setTile tile { t with
    seize := { t.seize with st := 4, start := s.cycle, first := true },
    mx := { t.mx with lq := t.mx.lq.filter (fun c => c.started.isSome) } }
  (List.range 8).foldl (fun s k => s.setCtx tile k { s.ctx tile k with switch := some (0, s.cycle + 10) }) s

/-- The EXIT of an activation (R361, R362): the deadline is checked and bank 0 returns after one rotation, which begins in the next cycle (log
entry 120). -/
def State.endActivation (s : State) (tile slot : Nat) : State :=
  let c := s.ctx tile slot
  let late := match c.reflex.preset with
    | some p => decide (p.deadline ≠ 0) && decide (p.deadline * 1000 < (s.dtb - c.reflex.began).toNat)
    | none => false
  s.setCtx tile slot { c with
    switch := some (0, s.cycle + 10),
    b1 := { c.b1 with wins := [], wait := none, seeded := false },
    reflex := { c.reflex with
      missLast := late,
      miss := if late then satInc c.reflex.miss 0xFFFF else c.reflex.miss } }

/-! ### Taking a trap (R384, R385) -/

/-- The VA of a fatal trap's record (R393): instruction, translation and access causes have an address, and every other one has it when it
names one (log entry 101). -/
def TrapInfo.va (i : TrapInfo) : Option Nat := if [0, 2, 3].contains (i.cause / 64) ∨ i.addr ≠ 0 then some i.addr.toNat else none

/-- FatalTrap by the kind of thread (R385). -/
def State.fatalTrap (s : State) (r : BankRef) (i : TrapInfo) (dfr : Bool) : State :=
  let b := s.bank r
  let s := s.record { s.threadRec r i.cause 3 (engineId 0 r.tile 0) i.va b.pc.toNat with dfr := dfr, dbl := b.trap.inh }
  if b.kind = 2 then s.releaseSeizure r.tile
  else if b.kind = 3 then s.endActivation r.tile r.slot
  else
    match s.task? b.task with
    | some t => s.killLaunch t.launch 2
    | none => s.setBank r { b with seeded := false }

/-- The cause of EBRK (R388). -/
def ebrkCause : Nat := 0x3F0

/-- Every open window has one instruction fewer left (R63). -/
def Bank.tickWindows (b : Bank) : Bank := { b with wins := b.wins.map (fun w => { w with left := w.left - 1 }) }
/-- Every open window has no instruction left (R64). -/
def Bank.endWindows (b : Bank) : Bank := { b with wins := b.wins.map (fun w => { w with left := 0 }) }

/-- An instruction that has issued counts once for ICOUNT, QUANTUM and the open windows (R63, R146). -/
def Bank.count (b : Bank) : Bank :=
  if b.counted then { b with counted := false }
  else { b.tickWindows with
    icount := b.icount + 1
    quantLeft := if b.quantLeft = 0 ∨ b.quantLeft = 0xFFFFFFFF then b.quantLeft else b.quantLeft - 1 }

/-- An instruction that had been counted, and traps after all, is not counted (R146). -/
def Bank.uncount (b : Bank) : Bank :=
  if b.counted then { b with counted := false, icount := b.icount - 1,
                             quantLeft := if b.quantLen = 0 ∨ b.quantLeft = 0xFFFFFFFF then b.quantLeft else b.quantLeft + 1 }
  else b

/-- The task of a bank is being killed. -/
def State.dying (s : State) (r : BankRef) : Bool := (s.task? (s.bank r).task).any (·.killing)

/-- TakeTrap of R384, once the open windows have closed: a trap during the kill of its task is discarded, an activation that meets its
ceiling ends, an EBRK of a debugged tenant halts, a trap in a handler or without a handler is fatal, and every other trap saves its CSRs and
goes to the vector. -/
def State.enterTrap (s : State) (r : BankRef) (i : TrapInfo) (pc : Va) (dfr win : Bool) : State :=
  let b := s.bank r
  if s.dying r then s
  else if b.kind = 3 ∧ i.cause = 0x247 then
    let s := s.record (s.threadRec r 0x247 3 (engineId 0 r.tile 0) none pc.toNat)
    let c := s.ctx r.tile r.slot
    (s.setCtx r.tile r.slot { c with reflex := { c.reflex with ceil := satInc c.reflex.ceil 255 } }).endActivation r.tile r.slot
  else if i.cause = ebrkCause ∧ (s.tenant b.tenant).debug then
    let s := s.record (s.threadRec r 0x3F0 0 (engineId 0 r.tile 0) none pc.toNat)
    s.setBank r { (s.bank r).count with pc := pc, fbuf := [], wait := some .debug, waitPc := pc }
  else if b.trap.inh = true ∨ b.trap.vec = 0 then s.fatalTrap r i dfr
  else
    s.setBank r { b with
      trap := { b.trap with pc := pc, cause := BitVec.ofNat 10 i.cause, addr := i.addr, val := i.val, inh := true, dfr := dfr, win := win },
      pc := b.trap.vec, fbuf := [], wait := none, counted := false, unitPass := none, readyAt := max b.readyAt (s.cycle + 5),
      rpt := { b.rpt with frozen := b.rpt.act },
      icount := b.icount + 1,
      quantLeft := if b.quantLeft = 0 ∨ b.quantLeft = 0xFFFFFFFF then b.quantLeft else b.quantLeft - 1 }

/-- A register that a held write-back has replaced already keeps that value: a result written later is replaced at once (R63). -/
def State.landUnder (s : State) (r : BankRef) (d : Dest) (x : Vec) : State :=
  let b := s.bank r
  let s := s.land r d x
  match d with
  | .none => s
  | .g n => s.setBank r ((s.bank r).wg n (b.rg n))
  | .v n => s.setBank r ((s.bank r).wv n (b.rv n))

/-- A window whose last instruction has issued, whose result is there and carries no error, and which has not been written back. -/
def Window.due (w : Window) : Bool := w.left == 0 && w.result.isSome && w.err.isNone && !w.back

/-- Windows in issue order: what is due is written back, the later instruction first, so that the held write-back of an earlier one replaces
the result of an instruction in its window (R63, R64); `seen` are the registers that earlier windows have written already. The port entries
taken for a window leave as its result is written (R329). -/
def bring (r : BankRef) : List Dest → List Window → State → State
  | _, [], s => s
  | seen, w :: ws, s =>
    let s := bring r (if w.back then w.dest :: seen else seen) ws s
    if w.due then
      let x := w.result.getD 0
      let s := if seen.contains w.dest then s.landUnder r w.dest x else s.land r w.dest x
      let b := (s.bank r).raise w.flags
      s.setBank r (if w.frees = [] then b else { b with pend := b.pend ++ [⟨.none, 0, s.cycle, 1, w.frees.map (·.1)⟩] })
    else s

/-- The windows that are due written back (R64). -/
def State.writeBack (s : State) (r : BankRef) : State :=
  let ws := (s.bank r).wins
  if ws.any Window.due then
    let s := bring r [] ws s
    s.setBank r { s.bank r with wins := ws.map (fun w => if w.due then { w with back := true } else w) }
  else s

/-- A source entry that an instruction has taken goes back to the head of its FIFO (R329). -/
def Bank.giveBackEntry (b : Bank) (k : Nat) (x : Vec) : Bank :=
  match b.port k with
  | some p => { b with ports := tset b.ports k { p with
      fifo := p.fifo.take (p.taken - 1) ++ x :: p.fifo.drop p.taken, taken := p.taken - 1 } }
  | none => b

/-- Windows that close with a deferred error: the entries taken for them go back, the latest first, and the credits of results that are never
sent return (R329). -/
def undo (r : BankRef) : List Window → State → State
  | [], s => s
  | w :: ws, s =>
    let s := undo r ws s
    if w.err.isSome then
      (s.setBank r (w.frees.foldr (fun p b => b.giveBackEntry p.1 p.2) (s.bank r))).backCredit r w.dest
    else s

/-- The windows with no instruction left are closed (R64): a result that is there is written back, and one that has not arrived makes the
thread wait. A deferred error among them is a trap, for which every other window closes too (R384); the first error in issue order is taken
with TRAPPC at the next instruction, and the others wait for the handler's ERET (R65). -/
def State.closeDue (s : State) (r : BankRef) : State :=
  if (s.bank r).wins.all (fun w => w.left != 0) then s
  else
    let b := s.bank r
    let b := if b.wins.any (fun w => w.left == 0 && w.err.isSome) then b.endWindows else b
    let s := (s.setBank r b).writeBack r
    let b := s.bank r
    let due := b.wins.filter (fun w => w.left == 0)
    if due.any (fun w => w.result.isNone) then s.setBank r { b with wait := some .window, waitSince := s.boot.dtb }
    else
      let s := undo r due (s.setBank r { b with wins := b.wins.filter (fun w => w.left != 0) })
      match due.filterMap (·.err) with
      | [] => s
      | e :: es =>
        let b := s.bank r
        (s.setBank r { b with deferred := b.deferred ++ es }).enterTrap r e b.pc true true

/-- A precise trap of the instruction at the PC (R384): the windows close first; the trap stands over while one lacks its result, and one
with a deferred error is taken instead (R65). -/
def State.takeTrap (s : State) (r : BankRef) (i : TrapInfo) (pc : Va) : State :=
  let b := (s.bank r).uncount
  if b.wins = [] then (s.setBank r b).enterTrap r i pc false false
  else
    let s := (s.setBank r b.endWindows).writeBack r
    let b := s.bank r
    if b.wins.any (fun w => w.result.isNone) then s.setBank r { b with wait := some (.trap i pc), waitSince := s.boot.dtb }
    else
      let s := undo r b.wins (s.setBank r { b with wins := [] })
      match b.wins.filterMap (·.err) with
      | [] => s.enterTrap r i pc false true
      | e :: es =>
        let c := s.bank r
        (s.setBank r { c with deferred := c.deferred ++ es }).enterTrap r e c.pc true true

/-- A precise trap of the running instruction, at its own address. -/
def trapAt (cause : Nat) (addr val : Dword) (s : State) : Out :=
  .next (s.unscoped.takeTrap s.curRef ⟨cause, addr, val⟩ s.me.pc)

/-- A precise trap without address and value. -/
def trap (cause : Nat) (s : State) : Out := trapAt cause 0 0 s

/-- A trap of an instruction-class cause: TRAPADDR is the instruction's address and TRAPVAL its bits (R72). -/
def insTrap (cause : Nat) (s : State) : Out := trapAt cause (s.iaddr.setWidth 64) (s.ibits.setWidth 64) s

/-! ### Ending an instruction -/

/-- The PC, fetch buffer and repeat frame after an instruction of `len` bytes (R138, R150). A frame that ends clears ACT, LEFT and IDX, and its
other fields keep their values (R153, log entry 121). -/
def Bank.advance (b : Bank) (len : Nat) : Bank :=
  if b.rpt.act ∧ ¬ b.rpt.frozen then
    if b.rpt.idx < b.rpt.nm1 then { b with pc := b.pc + 4, rpt := { b.rpt with idx := b.rpt.idx + 1 } }
    else if b.rpt.left = 1 then
      { b with pc := b.rpt.base + 4 + BitVec.ofNat 48 (4 * (b.rpt.nm1 + 1)), fbuf := [],
               rpt := { b.rpt with act := false, left := 0, idx := 0, body := [] } }
    else { b with pc := b.rpt.base + 4,
                  rpt := { b.rpt with idx := 0, left := b.rpt.left - 1, jmod := (b.rpt.jmod + 1) % 32 } }
  else { b with pc := b.pc + BitVec.ofNat 48 len, fbuf := b.fbuf.drop (len / 2) }

/-- The first leash instruction of a seizure answers the seizer with LAT (R376). -/
def State.leashReply (s : State) (r : BankRef) : State :=
  let t := s.tile r.tile
  if (s.bank r).kind = 2 ∧ ¬ t.seize.first then
    let lat := (s.cycle - t.seize.arrive) % 65536
    (s.setTile r.tile { t with seize := { t.seize with first := true, last := lat, worst := max lat t.seize.worst } }).send
      (.seizeReply t.seize.seizer t.seize.task (BitVec.ofNat 64 (lat * 2 ^ 32)))
  else s

/-- A bank whose instruction has issued: it is counted and the PC passes it. -/
def Bank.stepped (b : Bank) (len : Nat) : Bank := { b.count.advance len with unitPass := none }

/-- The instruction has issued. -/
def State.issued (s : State) : State := (s.unscoped.setMe (s.me.stepped s.len)).leashReply s.curRef

/-- A thread's instruction is complete: the windows of which it was the last instruction close (R64). -/
def State.settle (s : State) (r : BankRef) : State := s.closeDue r

/-- The end of an instruction that completes at issue. -/
def State.retire (s : State) : State := s.issued.settle s.curRef

/-- The end of an instruction that parks its thread with the PC behind it (R142): the windows of which it was the last instruction close at this
issue (R64). -/
def State.park (s : State) (w : Wait) : State :=
  let pc := s.me.pc
  let h := s.me.fbuf.take (s.len / 2)
  let s := s.issued
  (s.setMe { s.me with wait := some w, waitPc := pc, waitBuf := h, waitSince := s.boot.dtb, waitLogged := false }).writeBack s.curRef

/-- A thread that waits before its instruction issues. -/
def State.hold (s : State) (w : Wait) : State :=
  s.setMe { s.me with wait := some w, waitPc := s.me.pc, waitSince := s.boot.dtb, waitLogged := false }

/-- The wait of a bank is over: its context is ready from the next cycle on (R142), or later where it was to be ready later (R194). -/
def State.unpark (s : State) (r : BankRef) : State :=
  s.setBank r { s.bank r with wait := none, readyAt := max (s.bank r).readyAt (s.cycle + 1) }

/-- A wait that has ended, its register written, unless a window closed at its issue holds it (R63), and the instruction complete. -/
def State.wake (s : State) (r : BankRef) (d : Dest) (x : Vec) : State :=
  let t := s.unpark r
  (if (s.bank r).wins.any (fun w => w.back && w.dest == d) then t.landUnder r d x else t.land r d x).settle r

/-- A thread held before its instruction may try it again. -/
def State.rouse (s : State) (r : BankRef) (w : Wait) : State :=
  if (s.bank r).wait = some w then s.unpark r else s

/-- A bank whose transfer of control is taken: it is counted, and the fetch buffer is discarded (R138). -/
def Bank.redirect (b : Bank) (target : Va) : Bank := { b.count with pc := target, fbuf := [] }

/-- A taken control transfer (R138): every window closes before the target issues. -/
def State.jump (s : State) (target : Va) : State :=
  let r := s.curRef
  let s := (s.unscoped.setMe (s.me.redirect target)).leashReply r
  (s.setBank r (s.bank r).endWindows).closeDue r

/-- A window opened with LK = k, with the result or without it yet (R63): the issue of its own instruction, where that is not counted yet, counts it
down with the others. -/
def State.openWindow (s : State) (k : Nat) (d : Dest) (x : Option Vec) (err : Option TrapInfo) (fl : BitVec 7 := 0)
    (fr : List (Nat × Vec) := []) : State :=
  let b := s.me
  s.setMe { b with
    wins := b.wins ++ [⟨if b.counted then k else k + 1, d, x, err, fl, b.nextWin, false, fr⟩], nextWin := b.nextWin + 1 }

/-- A long-latency instruction (R63): its window opens, and the instruction issues. -/
def State.finishLong (s : State) (k : Nat) (d : Dest) (x : Option Vec) (err : Option TrapInfo) (fl : BitVec 7) (fr : List (Nat × Vec) := []) :
    State :=
  (s.openWindow k d x err fl fr).retire

/-- A scalar result of fixed latency and the end of the instruction. -/
def done (d lat : Nat) (x : Dword) (s : State) : Out := .next (s.wgLat d lat x).retire

end Sys2Proof.Machine
end

