-- ==== Sys2Proof/Machine/Access.lean ====
section
/-! DEFINITION. The address map, the checks of CheckAccess, translation, the fault buffer, and the register, accumulator, plane and
control parts of the tile windows (R242 to R267, R214, R215). -/

namespace Sys2Proof.Machine

/-- A region of the address map (R242). -/
inductive Region where
  | near (off : Nat)
  | trans (va : Nat)
  | mbm (off : Nat)
  | xa (off : Nat)
  | win (tile off : Nat)
  | bad
  deriving DecidableEq, Repr

/-- Which row of R243 a requester takes. -/
inductive Map where
  | task
  | leash
  | xa
  | other
  deriving DecidableEq, Repr

/-- A requester: tile (512 for units that have none), tenant, address map, and whether it is the leash code of its tile. -/
structure Req where
  tile : Nat
  tenant : Nat
  map : Map
  deriving DecidableEq, Repr

/-- The region of a 64-bit address (R242). -/
def region (va : Nat) : Region :=
  if 2 ^ 48 ≤ va then .bad
  else if va < 0x100000 then .near va
  else if va < 0xFE0000000000 then .trans va
  else if va < 0xFE0000200000 then .mbm (va - 0xFE0000000000)
  else if va < 0xFE8000000000 then .bad
  else if va < 0xFE8002000000 then .xa (va - 0xFE8000000000)
  else if va < 0xFF0000000000 then .bad
  else
    let t := (va - 0xFF0000000000) / 0x400000
    if t < 512 ∧ hasWindow t then .win t (va % 0x400000) else .bad

/-- An address of translated memory. -/
def isTrans (va : Nat) : Bool :=
  match region va with
  | .trans _ => true
  | _ => false
/-- A near-window address. -/
def isNear (va : Nat) : Bool :=
  match region va with
  | .near _ => true
  | _ => false

/-- The parts of a tile window (R245). -/
inductive WinPart where
  | store
  | scalar
  | vector
  | acc
  | plane
  | control
  | none
  deriving DecidableEq, Repr

/-- The part that an offset of a tile's window lies in, when the part assigns the offset (R143, R214, R245, R278, R340, R341, R363, R381). -/
def windowPart (tile off : Nat) : WinPart :=
  if off < lsBytes tile then .store
  else if tile = collar then .none
  else if 0x100000 ≤ off ∧ off < 0x102000 then (if off % 0x200 < 0x150 then .scalar else .none)
  else if 0x180000 ≤ off ∧ off < 0x190000 then .vector
  else if 0x200000 ≤ off ∧ off < (if isLa tile then 0x20C000 else 0x208000) then .acc
  else if 0x280000 ≤ off ∧ off < (if isLa tile then 0x280C00 else 0x280800) then .plane
  else if 0x280C00 ≤ off ∧ off < (if isLa tile then 0x280D80 else 0x280D00) then .plane
  else if 0x300000 ≤ off ∧ off < 0x300010 then .control
  else if 0x301000 ≤ off ∧ off < 0x301080 then .control
  else if 0x302000 ≤ off ∧ off < 0x303000 then .control
  else if 0x303000 ≤ off ∧ off < 0x303040 then .control
  else if 0x303100 ≤ off ∧ off < 0x303118 then .control
  else .none

/-- Sizes that a part accepts (R245). -/
def partSize (p : WinPart) (n : Nat) : Bool :=
  match p with
  | .store | .vector | .plane => true
  | .scalar | .acc | .control => n == 8
  | .none => false

/-- The seizing XA tile's requests and the leash code of the seized tile (R244, R247). -/
def State.seizerOf (s : State) (q : Req) (tile : Nat) : Bool :=
  s.seized tile && ((q.tile == (s.tile tile).seize.seizer.tile && q.map == .xa) || (q.tile == tile && q.map == .leash))

/-- An access outside R243 for the requester, or a reserved address. kind: 0 read, 1 write, 2 fetch. -/
def outsideMap (q : Req) (kind : Nat) : Region → Bool
  | .bad => true
  | .near off =>
    match q.map with
    | .task => decide (0xF0000 ≤ off)
    | .leash => decide (off < 0xF0000)
    | .xa => decide (0x80000 ≤ off)
    | .other => true
  | .trans _ => q.map == .leash || q.map == .xa
  | .mbm _ => true
  | .xa _ => false
  | .win t off =>
    match windowPart t off with
    | .none => true
    | .store => false
    | _ => kind == 2

/-- Size accepted by R245; other regions take every size. -/
def sizeOk (n : Nat) : Region → Bool
  | .win t off => partSize (windowPart t off) n
  | _ => true

/-- The parts of a seized tile's window that R247 opens to its seizer: the leash partition and bank 1. -/
def seizerPart (t off : Nat) : Bool :=
  match windowPart t off with
  | .store => decide (0xF0000 ≤ off)
  | .scalar => decide (0x200 ≤ off % 0x400)
  | .vector => decide (0x1000 ≤ off % 0x2000)
  | _ => false

/-- The tenant check of R244. -/
def State.tenantOk (s : State) (q : Req) : Region → Bool
  | .win t off => s.usable q.tenant t || (s.seizerOf q t && seizerPart t off)
  | .xa _ => (List.range 512).any (fun t => isXa t && s.member q.tenant t)
  | _ => true

/-- R247: the leash partition and the banks of a seized tile. -/
def State.leashOk (s : State) (q : Req) (kind : Nat) : Region → Bool
  | .win t off =>
    match windowPart t off with
    | .store => decide (off < 0xF0000) || !isLa t || s.seizerOf q t
    | .scalar =>
      if s.seized t then (if off % 0x400 < 0x200 then kind == 0 && s.usable q.tenant t else s.seizerOf q t) else true
    | .vector =>
      if s.seized t then (if off % 0x2000 < 0x1000 then kind == 0 && s.usable q.tenant t else s.seizerOf q t) else true
    | _ => true
  | _ => true

/-- Window locations to which a write faults (R246, R278, R341, R363, R381); a write of TRSTAT is ignored (R8, R340). -/
def readOnlyLoc : Region → Bool
  | .win t off =>
    match windowPart t off with
    | .scalar => decide (0x110 ≤ off % 0x200)
    | .control => decide (off ≠ 0x300000) && decide (off ≠ 0x300008)
    | _ => false
  | _ => false

/-- The byte location of an untranslated region that is memory. -/
def regionLoc (q : Req) : Region → Option Nat
  | .near off => some (lsLoc q.tile off)
  | .xa off => some (xaLoc + off)
  | .mbm off => some (mbmLoc + off)
  | .win t off => if windowPart t off = .store then some (lsLoc t off) else none
  | _ => none

/-! ### Translation (R262 to R267) -/

/-- What a walk finds. -/
inductive Walk where
  | leaf (pa : Nat) (w x : Bool)
  | absent
  | bad (cause : Nat)
  deriving DecidableEq, Repr

/-- The index of a level's table: n + 1 = 4 is level 1, n + 1 = 1 is level 4 (R262). -/
def walkIndex (n va : Nat) : Nat :=
  match n with
  | 3 => fld va 47 39
  | 2 => fld va 38 30
  | 1 => fld va 29 24
  | _ => fld va 23 18

/-- The table entries that a walk reads. -/
def walkPath (m : List (Nat × Byte)) : Nat → Nat → Nat → List Nat
  | 0, _, _ => []
  | n + 1, table, va =>
    let a := table + walkIndex n va * 8
    let e := bytesNat (memRead m a 8)
    if table ≥ 2 ^ 43 ∨ dramBytes ≤ a then []
    else a :: (if bitOf e 0 ∧ ¬ bitOf e 1 ∧ n ≠ 0 then walkPath m n (fld e 43 9 * 512) va else [])

/-- One level of the walk and those below it: index position, and the size of a leaf at this level (R262, R263); an entry that cannot be read is
uncorrectable data for the access (R423, R430, log entry 107). -/
def walkLevel (m : List (Nat × Byte)) (bad : Nat → Bool) : Nat → Nat → Nat → Walk
  | 0, _, _ => .bad 0x0C4
  | n + 1, table, va =>
    let idx := walkIndex n va
    let low := match n with
      | 3 => 39
      | 2 => 30
      | 1 => 24
      | _ => 18
    if table ≥ 2 ^ 43 ∨ dramBytes ≤ table + idx * 8 then .bad 0x0C5
    else if bad (table + idx * 8) then .bad 0x087
    else
      let e := bytesNat (memRead m (table + idx * 8) 8)
      if ¬ bitOf e 0 then .absent
      else if fld e 8 4 ≠ 0 ∨ fld e 63 44 ≠ 0 then .bad 0x0C4
      else if bitOf e 1 then
        if n = 3 ∨ fld e (low - 1) 9 ≠ 0 then .bad 0x0C4
        else
          let pa := fld e 43 9 * 512 + va % 2 ^ low
          if pa < 2 ^ 43 ∧ dramBytes ≤ pa then .bad 0x0C5
          else .leaf pa (bitOf e 2) (bitOf e 3)
      else if n = 0 then .bad 0x0C4
      else walkLevel m bad n (fld e 43 9 * 512) va

/-- The walk of a tenant's table for an address. -/
def State.walk (s : State) (t va : Nat) : Walk :=
  let x := s.tenant t
  if x.ptEn then walkLevel s.mem (fun a => s.poisoned a 8) 4 (x.ptBase.toNat * 4096) va else .bad 0x0C6

/-- The table entries that a walk meets are read, with the record of one that cannot be (R423, R430). -/
def State.walkReads (s : State) (t va : Nat) : State :=
  let x := s.tenant t
  let l := if x.ptEn then (walkPath s.mem 4 (x.ptBase.toNat * 4096) va).map (fun a => (a, 8)) else []
  let s := s.meetAll l
  s.recordPoison { cause := 0, sev := 2, engine := 0, tenant := some t, va := some va } l

/-- A walk that has found the page not present is in progress until its end is seen (R438, log entry 117). -/
def State.beginWalk (s : State) (t va : Nat) : State := { s with walks := s.walks ++ [(t, va / 2 ^ 18)] }

/-- A walk for a tenant's granule is in progress at its slice, with the outcome not present. -/
def State.walking (s : State) (t va : Nat) : Bool := s.walks.contains (t, va / 2 ^ 18)

/-- What translation answers: the PA, a trap, or a request that parks. -/
inductive Tr where
  | pa (a : Nat)
  | trap (cause : Nat)
  | absent
  deriving DecidableEq, Repr

/-- A permission check of a leaf (R264). kind: 0 read, 1 write, 2 fetch. -/
def permit (pa : Nat) (w x : Bool) (kind : Nat) : Tr :=
  if kind = 1 ∧ ¬ w then .trap 0x0C2 else if kind = 2 ∧ ¬ x then .trap 0x0C3 else .pa pa

/-- A TLB's list with an entry added; the oldest beyond its capacity is displaced (R264). -/
def tlbAdd (l : List (Nat × Nat × Nat × Nat × Bool × Bool)) (cap : Nat) (e : Nat × Nat × Nat × Nat × Bool × Bool) :
    List (Nat × Nat × Nat × Nat × Bool × Bool) :=
  let same := l.filter (fun x => x.1 == e.1 && !(x.2.1 == e.2.1 && x.2.2.1 == e.2.2.1))
  let rest := l.filter (fun x => x.1 != e.1)
  rest ++ (if cap ≤ same.length then same.drop 1 else same) ++ [e]

/-- The L2 TLB slice of an address, as a TLB number after the tiles (R264). -/
def l2Tlb (va : Nat) : Nat := 512 + (fld va 22 18 ^^^ fld va 27 23)

/-- A cached translation of a granule for a tenant. -/
def State.tlbFind (s : State) (who t va : Nat) : Option (Nat × Bool × Bool) :=
  (s.tlb.find? (fun e => e.1 == who && e.2.1 == t && e.2.2.1 == va / 2 ^ 18)).map (fun e => (e.2.2.2.1, e.2.2.2.2))

/-- The L1 TLB filled with a granule. -/
def State.tlbFill (s : State) (who t va pa : Nat) (w x : Bool) : State :=
  { s with tlb := tlbAdd s.tlb (if who < 512 then 32 else 1024) (who, t, va / 2 ^ 18, pa / 2 ^ 18, w, x) }

/-- The end of a walk (R438). -/
def State.endWalk (s : State) (t va : Nat) : State := { s with walks := s.walks.filter (· != (t, va / 2 ^ 18)) }

/-- Translate(va, kind) (R264): the tile's L1 TLB, the slice's L2 TLB, then the walk, whose valid leaf is cached; a miss whose granule's walk is in
progress takes its outcome (R438). -/
def State.translate (s : State) (q : Req) (va kind : Nat) : State × Tr :=
  match (if q.tile < 512 then s.tlbFind q.tile q.tenant va else none) with
  | some (g, w, x) => (s, permit (g * 2 ^ 18 + va % 2 ^ 18) w x kind)
  | none =>
    match s.tlbFind (l2Tlb va) q.tenant va with
    | some (g, w, x) =>
      (if q.tile < 512 then s.tlbFill q.tile q.tenant va (g * 2 ^ 18) w x else s, permit (g * 2 ^ 18 + va % 2 ^ 18) w x kind)
    | none =>
      if s.walking q.tenant va then (s, .absent)
      else
        let s := s.walkReads q.tenant va
        match s.walk q.tenant va with
        | .leaf pa w x =>
          let s := s.tlbFill (l2Tlb va) q.tenant va pa w x
          (if q.tile < 512 then s.tlbFill q.tile q.tenant va pa w x else s, permit pa w x kind)
        | .absent => (s.beginWalk q.tenant va, .absent)
        | .bad c => (s, .trap c)

/-- The ENGINE halfword of a parked requester (R394). -/
def requesterEngine (va : Nat) : Requester → Nat
  | .thread b => engineId 0 (b.tile % 512) 0
  | .fetch b => engineId 0 (b.tile % 512) 0
  | .copy t _ _ => engineId 1 t 0
  | .burst t _ _ => engineId 1 t 1
  | .reduction _ _ => engineId 3 (0x1E0 + (l2Tlb va - 512)) 1
  | .staging _ => engineId 5 0x1D8 0
  | .digest _ => engineId 5 0x1D8 1

/-- The record of a request that the full fault buffer drops (R266, R393, R441): the granule's slice reports it for the requester's work. -/
def State.overflowRec (s : State) (t : Nat) (who : Requester) (va : Nat) : RecIn :=
  let eng := engineId 3 (0x1E0 + (l2Tlb va - 512)) 0
  let ofWork : Option Launch → Nat → RecIn := fun l i =>
    { cause := 0x0C7, sev := 0, engine := eng, tenant := some t, va := some va, asyn := true, launch := l, task := i }
  let ofTask : Option (BankRef × Nat) → RecIn := fun p => match p with
    | some (r, k) => s.taskRec r k 0x0C7 0 eng (some va) 0
    | none => ofWork none 0
  match who with
  | .thread b | .fetch b => { s.threadRec b 0x0C7 0 eng (some va) 0 with asyn := true }
  | .copy tile id _ => ofTask (((s.tile tile).bte.find? (fun c => c.id == id)).map (fun c => (c.owner, c.task)))
  | .burst tile id _ => ofTask (((s.tile tile).breads.find? (fun c => c.id == id)).map (fun c => (c.owner, c.task)))
  | .reduction tile id => ofTask (((s.tile tile).reds.find? (fun c => c.id == id)).map (fun c => (c.owner, c.task)))
  | .staging id => ofWork ((s.task? id).bind (fun k => s.launch? k.launch)) (((s.task? id).map (·.index)).getD 0)
  | .digest key => ofWork (s.launch? key) 0

/-- A not-present request recorded in the tenant's fault buffer, and parked (R266). -/
def State.parkRequest (s : State) (t : Nat) (who : Requester) (va kind : Nat) (lid : BitVec 32) : State :=
  let x := s.tenant t
  let g := va / 2 ^ 18
  let eng := requesterEngine va who
  let add := { x with parked := x.parked ++ [⟨who, va, kind, lid⟩] }
  if x.fb.any (fun e => e.granule == g) then
    s.setTenant t { add with fb := x.fb.map (fun e =>
      if e.granule = g then { e with
        joined := satInc e.joined 0xFFFF, rd := e.rd || kind == 0, wr := e.wr || kind == 1, ex := e.ex || kind == 2 } else e) }
  else if x.fb.length < 8 then
    let s := s.setTenant t { add with
      fb := x.fb ++ [⟨g, kind == 0, kind == 1, kind == 2, 1, BitVec.ofNat 16 eng, lid⟩] }
    if x.fb.isEmpty ∧ x.fbIen then s.msi (s.functionOf t) x.fbVec.toNat else s
  else if x.fbDrop then s.setTenant t add
  else
    let s := s.setTenant t { add with fbDrop := true }
    let s := s.record (s.overflowRec t who va)
    if x.fbIen then s.msi (s.functionOf t) x.fbVec.toNat else s

/-! ### CheckAccess (R254) -/

/-- Where an accepted access goes: a byte location, or a register part of a tile window. -/
inductive Target where
  | mem (loc : Nat)
  | win (tile off : Nat)
  deriving DecidableEq, Repr

/-- What CheckAccess answers. -/
inductive Chk where
  | ok (t : Target)
  | trap (cause : Nat)
  | absent
  deriving DecidableEq, Repr

/-- The checks of R254 up to translation, in its order; `none` accepts. -/
def State.checkMap (s : State) (q : Req) (va n kind : Nat) : Option Nat :=
  let r := region va
  if outsideMap q kind r then some 0x082
  else if va % n ≠ 0 ∨ ¬ sizeOk n r then some 0x081
  else if ¬ s.tenantOk q r then some 0x083
  else if ¬ s.leashOk q kind r then some 0x084
  else if kind = 1 ∧ readOnlyLoc r then some 0x085
  else none

/-- CheckAccess(va, size, kind) with its translation (R254). -/
def State.check (s : State) (q : Req) (va n kind : Nat) : State × Chk :=
  match s.checkMap q va n kind with
  | some c => (s, .trap c)
  | none =>
    match region va with
    | .trans v =>
      match s.translate q v kind with
      | (s, .pa a) => (s, .ok (.mem a))
      | (s, .trap c) => (s, .trap c)
      | (s, .absent) => (s, .absent)
    | .win t off =>
      match regionLoc q (.win t off) with
      | some l => (s, .ok (.mem l))
      | none => (s, .ok (.win t off))
    | r =>
      match regionLoc q r with
      | some l => (s, .ok (.mem l))
      | none => (s, .trap 0x082)

/-! ### Fetching (R57, R58, R136, R137) -/

/-- The halfwords from a location on. -/
def State.halves (s : State) : Nat → Nat → List (BitVec 16)
  | 0, _ => []
  | n + 1, loc => BitVec.ofNat 16 (s.load loc 2) :: s.halves n (loc + 2)

/-- A C.RLX that decoding accepts, which is fetched with the instruction behind it (R71). -/
def isPrefix (lo : BitVec 16) : Bool :=
  lo.extractLsb' 0 6 == 34 && lo.extractLsb' 9 7 == 0 && decide ((lo.extractLsb' 6 3).toNat < 6)

/-- The requester that a bank's thread is (R243). -/
def Bank.req (b : Bank) (tile : Nat) : Req :=
  ⟨tile, b.tenant, if isXa tile then .xa else if b.kind = 2 then .leash else .task⟩
def State.req (s : State) : Req := s.me.req s.cur.1

/-! ### Register, accumulator, plane and control parts -/

/-! ### Register windows -/

/-- The value a register window shows: the old one while the result has not landed (R246). -/
def Bank.shownG (b : Bank) (n : Nat) : Dword :=
  match b.pend.find? (fun p => p.dest == .g n) with
  | some p => p.old.setWidth 64
  | none => b.rg n
def Bank.shownV (b : Bank) (n : Nat) : Vec :=
  match b.pend.find? (fun p => p.dest == .v n) with
  | some p => p.old
  | none => b.rv n

/-- RXSTAT (R363). -/
def Reflex.word (x : Reflex) : Nat :=
  b2n x.armed + 2 * b2n x.active + 4 * b2n x.late + 8 * b2n x.missLast + x.act % 65536 * 2 ^ 8 + x.miss * 2 ^ 24 +
    x.ceil * 2 ^ 40 + x.ovr * 2 ^ 48

/-- A plane byte and a scale word by plane number: 0 active, 1 shadow, 2 leash (R214). -/
def Matrix.plane (m : Matrix) (p : Nat) : Plane := if p = 0 then m.active else if p = 1 then m.shadow else m.leash
def Matrix.setPlane (m : Matrix) (p : Nat) (x : Plane) : Matrix :=
  if p = 0 then { m with active := x } else if p = 1 then { m with shadow := x } else { m with leash := x }
def Matrix.acc (m : Matrix) (b : Nat) : Tbl (BitVec 40) := if b = 0 then m.acc0 else if b = 1 then m.acc1 else m.accL
def Matrix.setAcc (m : Matrix) (b : Nat) (x : Tbl (BitVec 40)) : Matrix :=
  if b = 0 then { m with acc0 := x } else if b = 1 then { m with acc1 := x } else { m with accL := x }

/-- A byte of the plane part: plane bytes, then the scale words' bytes (R214). -/
def planeByte (m : Matrix) (o : Nat) : Byte :=
  if o < 0xC00 then tget 0 (m.plane (o / 0x400)).bytes (o % 0x400)
  else ((tget 0 (m.plane ((o - 0xC00) / 0x80)).scales ((o - 0xC00) % 0x80 / 2)).extractLsb' (8 * (o % 2)) 8)
def setPlaneByte (m : Matrix) (o : Nat) (x : Byte) : Matrix :=
  if o < 0xC00 then
    let p := m.plane (o / 0x400)
    m.setPlane (o / 0x400) { p with bytes := tset p.bytes (o % 0x400) x }
  else
    let k := (o - 0xC00) / 0x80
    let p := m.plane k
    let i := (o - 0xC00) % 0x80 / 2
    let old := tget 0 p.scales i
    let new : BitVec 16 := if o % 2 = 0 then old.extractLsb' 8 8 ++ x else x ++ old.extractLsb' 0 8
    m.setPlane k { p with scales := tset p.scales i new }

/-- Bytes of a vector register from an offset; an XA entry's upper 64 bytes read 0 (R143). -/
def vecBytes (tile : Nat) (x : Vec) (o n : Nat) : Nat :=
  (if vlBits tile = 512 then x.toNat % 2 ^ 512 else x.toNat) / 2 ^ (8 * o) % 2 ^ (8 * n)
/-- A vector with `n` bytes from an offset replaced. -/
def setVecBytes (x : Vec) (o n v : Nat) : Vec :=
  let old := x.toNat / 2 ^ (8 * o) % 2 ^ (8 * n)
  BitVec.ofNat 1024 (x.toNat - old * 2 ^ (8 * o) + v % 2 ^ (8 * n) * 2 ^ (8 * o))

/-- A read of `n` bytes of a window part that is not memory (R143, R214, R246). -/
def State.winRead (s : State) (tile off n : Nat) : Nat :=
  match windowPart tile off with
  | .scalar =>
    let o := off - 0x100000
    let b := (s.ctx tile (o / 0x400)).bank (o % 0x400 / 0x200)
    let i := o % 0x200
    if i < 0x100 then (if i = 0 then 0 else (b.shownG (i / 8)).toNat)
    else if i = 0x100 then b.pc.toNat
    else if i = 0x108 then b.numctl.toNat
    else (b.rod ((i - 0x110) / 8)).toNat
  | .vector =>
    let o := off - 0x180000
    let b := (s.ctx tile (o / 0x2000)).bank (o % 0x2000 / 0x1000)
    vecBytes tile (b.shownV (o % 0x1000 / 0x80)) (o % 0x80) n
  | .acc =>
    let o := off - 0x200000
    (tget 0 ((s.tile tile).mx.acc (o / 0x4000)) (o % 0x4000 / 8)).toNat
  | .plane =>
    let o := off - 0x280000
    bytesNat ((List.range n).map (fun k => planeByte (s.tile tile).mx (o + k)))
  | .control =>
    let t := s.tile tile
    if off = 0x300000 then t.trctl.toNat
    else if off = 0x300008 then t.trnext + 256 * b2n t.trwrap + 512 * b2n t.trhalt
    else if off < 0x301080 then (((s.ctx tile ((off - 0x301000) / 0x10)).bank (off % 0x10 / 8)).copyBytes).toNat
    else if off < 0x303000 then
      let e := tget (0, 0) t.trace ((off - 0x302000) / 16)
      if off % 16 < 8 then e.1.toNat else e.2.toNat
    else if off < 0x303040 then (s.ctx tile ((off - 0x303000) / 8)).reflex.word
    else if off = 0x303100 then t.seize.count.toNat
    else if off = 0x303108 then t.seize.cyc.toNat
    else t.seize.last + t.seize.worst * 65536
  | _ => 0

/-- NUMCTL as a window or CSR write leaves it: RM 6 and 7, DET, CNAN under DET and the reserved bits keep their values (R161, R246). -/
def numctlWrite (old x : Dword) : Dword :=
  let rm := if 6 ≤ dfld x 2 0 then dfld old 2 0 else dfld x 2 0
  let det := dfld old 6 6
  let cnan := if det = 1 then 1 else dfld x 4 4
  BitVec.ofNat 64 (rm + dfld x 3 3 * 8 + cnan * 16 + dfld x 5 5 * 32 + det * 64 + dfld x 14 8 * 256 + dfld x 22 16 * 65536 +
    dfld x 31 24 * 2 ^ 24)

/-- TRCTL written: EN 0 → 1 restarts the ring (R340). -/
def traceWrite (t : Tile) (v : Nat) : Tile :=
  let on := bitOf v 0 && !bitOf t.trctl.toNat 0
  { t with
    trctl := BitVec.ofNat 64 (v % 16)
    trnext := if on then 0 else t.trnext
    trwrap := if on then false else t.trwrap
    trhalt := if on || !bitOf v 3 then false else t.trhalt }

/-- A write of `n` bytes to a window part that is not memory (R214, R246). -/
def State.winWrite (s : State) (tile off n v : Nat) : State :=
  match windowPart tile off with
  | .scalar =>
    let o := off - 0x100000
    let r : BankRef := ⟨tile, o / 0x400, o % 0x400 / 0x200⟩
    let b := s.bank r
    let i := o % 0x200
    if i < 0x100 then
      -- a result still pending for the register lands later and replaces the write (R246)
      match b.pend.find? (fun p => p.dest == .g (i / 8)) with
      | some _ => s.setBank r { b with pend := b.pend.map (fun p =>
          if p.dest = .g (i / 8) then { p with old := BitVec.ofNat 1024 v } else p) }
      | none => s.setBank r (b.wg (i / 8) (BitVec.ofNat 64 v))
    else if i = 0x100 then s.setBank r { b with pc := BitVec.ofNat 48 (v / 2 * 2), fbuf := [] }
    else if i = 0x108 then s.setBank r { b with numctl := numctlWrite b.numctl (BitVec.ofNat 64 v) }
    else s
  | .vector =>
    let o := off - 0x180000
    if vlBits tile = 512 ∧ 64 ≤ o % 0x80 then s
    else
      let r : BankRef := ⟨tile, o / 0x2000, o % 0x2000 / 0x1000⟩
      let b := s.bank r
      let k := o % 0x1000 / 0x80
      if 28 ≤ k ∧ (b.port (k - 28)).isSome then s
      else
        match b.pend.find? (fun p => p.dest == .v k) with
        | some _ => s.setBank r { b with pend := b.pend.map (fun p =>
            if p.dest = .v k then { p with old := setVecBytes p.old (o % 0x80) n v } else p) }
        | none => s.setBank r (b.wv k (setVecBytes (b.rv k) (o % 0x80) n v))
  | .acc =>
    let o := off - 0x200000
    let t := s.tile tile
    s.setTile tile { t with mx := t.mx.setAcc (o / 0x4000) (tset (t.mx.acc (o / 0x4000)) (o % 0x4000 / 8) (BitVec.ofNat 40 v)) }
  | .plane =>
    let o := off - 0x280000
    let t := s.tile tile
    let m := (List.range n).foldl (fun m k => setPlaneByte m (o + k) (BitVec.ofNat 8 (v / 2 ^ (8 * k)))) t.mx
    s.setTile tile { t with mx := m }
  | .control => if off = 0x300000 then s.setTile tile (traceWrite (s.tile tile) v) else s
  | _ => s

/-- MSTRM and MGATH are steps. -/
def MxCmd.isStep (c : MxCmd) : Bool := c.minor == 2 || c.minor == 7
/-- Some rows of a step are in the array or its pipeline, or about to enter it (R223, R240). -/
def MxCmd.inArray (c : MxCmd) : Bool := c.isStep && c.started.isSome && (c.rows == [] || decide (c.drained < c.rows.length))

/-- A command of the task set, or of the leash set, touches the bank or plane that a window offset names (R215). -/
def touches (leash : Bool) (c : MxCmd) (off : Nat) : Bool :=
  let bank := dfld c.ctl 13 12
  if 0x200000 ≤ off ∧ off < 0x20C000 then
    let b := (off - 0x200000) / 0x4000
    (c.minor == 8 && decide (b < 2)) || ((c.minor == 2 || c.minor == 3 || c.minor == 4 || c.minor == 5 || c.minor == 7) && bank == b)
  else
    let p := if off < 0x280C00 then (off - 0x280000) / 0x400 else (off - 0x280C00) / 0x80
    (c.minor == 1 && decide (p < 2)) || ((c.minor == 0 || c.minor == 16) && p == (if leash then 2 else 1)) ||
      ((c.minor == 2 || c.minor == 7) && p == (if leash then 2 else 0))

/-- A window access to banks or planes must wait for commands accepted before it, those numbered below `upto` (R215). -/
def State.unitBusy (s : State) (tile off upto : Nat) : Bool :=
  match windowPart tile off with
  | .acc | .plane =>
    let m := (s.tile tile).mx
    m.tq.any (fun c => decide (c.id < upto) && touches false c off) || m.lq.any (fun c => decide (c.id < upto) && touches true c off)
  | _ => false

/-- The unit that an engine's access to some targets must wait for (R215): its tile, and the number from which commands came after the access. -/
def State.waitsUnit (s : State) (pass : Option (Nat × Nat)) (ts : List Target) : Option (Nat × Nat) :=
  ts.findSome? (fun t => match t with
    | .win tile off =>
      let upto := ((pass.filter (·.1 == tile)).map (·.2)).getD s.fresh
      if s.unitBusy tile off upto then some (tile, upto) else none
    | .mem _ => none)

/-! ### The trace ring (R340, R341) -/

/-- An arrival at a tile's local store recorded when tracing covers it: kind of R341, source and rank of R248. A bank performs one access in a
cycle: its arrival slot is this cycle, or the first one that the bank has free (log entry 104). -/
def State.traceAt (s : State) (loc n kind src slot bank rank : Nat) (remote : Bool) : State :=
  if ¬ isLsLoc loc then s
  else
    let tile := locTile loc
    let t := s.tile tile
    let mode := dfld t.trctl 2 1
    let wanted := bitOf t.trctl.toNat 0 && !t.trhalt &&
      (mode == 3 || (remote && (mode == 2 || (mode == 1 && kind != 0) || (mode == 0 && (kind == 1 || kind == 5 || kind == 6)))))
    if wanted then
      let what := BitVec.ofNat 64 (locOff loc + ilog2 n * 2 ^ 22 + kind * 2 ^ 25 + src * 2 ^ 32 + slot * 2 ^ 41 + bank * 2 ^ 44)
      let port := locOff loc / 64 % 16
      let arrival := max s.cycle (tget 0 t.trslots port)
      let when_ := BitVec.ofNat 64 (arrival % 2 ^ 48 + rank * 2 ^ 48)
      let full := t.trnext == 255
      let stop := full && bitOf t.trctl.toNat 3
      s.setTile tile { t with
        trace := tset t.trace t.trnext (what, when_)
        trslots := tset t.trslots port (arrival + 1)
        trnext := (t.trnext + 1) % 256
        trwrap := t.trwrap || full
        trhalt := stop }
    else s

/-! ### Fetching (R137, R150) -/

/-- The line or words that a fetch of some halfwords reads. -/
def State.meetHalves (s : State) (n loc : Nat) : State := if n = 0 then s else s.meet loc (2 * n)
/-- The halfwords of a run that can be read, up to the first that cannot (R423, R425). -/
def State.soundHalves (s : State) (n loc : Nat) : Nat := ((List.range n).takeWhile (fun j => !s.poisoned (loc + 2 * j) 2)).length

/-- A fetch of the rest of the 16-byte unit that holds an address (R137), which the trace ring records (R340); a line or word that cannot be read
ends it, and is the fetch's fault 0x087 at its first halfword (log entry 107). -/
def State.fetchUnit (s : State) (r : BankRef) (va : Va) : State × Except Chk (List (BitVec 16)) :=
  match s.check ((s.bank r).req (r.tile % 512)) va.toNat 2 2 with
  | (s, .ok (.mem loc)) =>
    let s := s.meetHalves ((16 - va.toNat % 16) / 2) loc
    let n := s.soundHalves ((16 - va.toNat % 16) / 2) loc
    if n = 0 then (s, .error (.trap 0x087))
    else (s.traceAt (loc / 16 * 16) 16 0 (r.tile % 512) r.slot r.bank 3 (locTile loc != r.tile % 512), .ok (s.halves n loc))
  | (s, c) => (s, .error c)

/-- The word of a frame's body at an address (R150). -/
def State.frameWord (s : State) (r : BankRef) (va : Va) : State × Except (Chk × Va) (List (BitVec 16)) :=
  match s.fetchUnit r va with
  | (s, .error c) => (s, .error (c, va))
  | (s, .ok hs) =>
    if 2 ≤ hs.length ∨ (hs.headD 0).extractLsb' 0 1 = 0#1 then (s, .ok (hs.take 2))
    else
      match s.fetchUnit r (va + 2) with
      | (s, .error c) => (s, .error (c, va + 2))
      | (s, .ok ks) => (s, .ok ((hs ++ ks).take 2))

/-- Bits of an instruction for TRAPVAL (R72): a compressed one is its halfword. -/
def bitsOf (h : List (BitVec 16)) : BitVec 32 :=
  match h with
  | [] => 0
  | lo :: rest => if lo.extractLsb' 0 1 = 0#1 then lo.setWidth 32 else rest.headD 0 ++ lo

/-- The words of a frame's body from an address on, up to the first that cannot be fetched (R150, log entry 22). -/
def State.loadBody (s : State) (r : BankRef) : Nat → Va → State × List (BitVec 32)
  | 0, _ => (s, [])
  | n + 1, va =>
    match s.frameWord r va with
    | (s, .error _) => (s, [])
    | (s, .ok h) => let q := s.loadBody r n (va + 4); (q.1, bitsOf h :: q.2)

/-! ### Reads and writes of a target -/

/-- A read of `n` bytes of a target by a tile's thread or engine. -/
def State.readTarget (s : State) (t : Target) (n : Nat) : Nat :=
  match t with
  | .mem loc => s.load loc n
  | .win tile off => s.winRead tile off n
/-- A write of `n` bytes of a target. -/
def State.writeTarget (s : State) (t : Target) (n v : Nat) : State :=
  match t with
  | .mem loc => s.store loc n v
  | .win tile off => s.winWrite tile off n v

end Sys2Proof.Machine
end

