-- ==== Sys2Proof/Machine/Memory.lean ====
section
/-! DEFINITION. Performing accesses: relaxed accesses, full/empty tags and wait lists, activations that a fill begins, and the seeding
of a bank (R56, R251 to R260, R360). -/

namespace Sys2Proof.Machine

/-! ### Seeding -/

/-- TRAPVEC of a launch: header plus trap vector offset, or 0 (R383). -/
def Launch.trapVec (l : Launch) : Va := if l.trapOff = 0 then 0 else l.hdr + BitVec.ofNat 48 l.trapOff

/-- QUANTUM.LEFT at seeding: LEN, or no quantum (R146, R402). -/
def quantSeed (len : BitVec 32) : BitVec 32 := if len = 0 then 0xFFFFFFFF else len

/-- A bank seeded for a launch's work (R56, R127, R145, R383): lane or slot, task index, FBASE, task number, kind, PC and g registers. -/
def seedBank (l : Launch) (quant : BitVec 32) (lane index fbase task kind : Nat) (pc : Va) (g : Tbl Dword) : Bank :=
  { g := g, pc := pc, numctl := l.numctl, od := l.od,
    trap := ⟨0, 0, 0, 0, l.trapVec, false, false, false⟩,
    kind := kind, pack := l.mode == 1, det := l.mode == 2, prio := l.prio, lane := lane, tenant := l.tenant, taskIndex := index,
    fbase := fbase, lid := l.lid, quota := l.quota, task := task, ceiling := l.ceiling, seeded := true,
    quantLeft := quantSeed quant, quantLen := quant }

/-- A new thread takes a bank: it gets a name of its own (log entry 1). -/
def State.seat (s : State) (r : BankRef) (b : Bank) : State := { s.setBank r { b with thread := s.fresh } with fresh := s.fresh + 1 }

/-! ### Sources of a result -/

/-- Extension of a loaded value by F3 (R255). -/
def loadExt (f v : Nat) : Dword :=
  match f with
  | 0 => sext v 8
  | 1 => zext v 8
  | 2 => sext v 16
  | 3 => zext v 16
  | 4 => sext v 32
  | 5 => zext v 32
  | _ => BitVec.ofNat 64 v

/-- A 32-bit lane of a vector replaced. -/
def setLane32 (x : Vec) (i v : Nat) : Vec := setVecBytes x (4 * i) 4 v
def lane32 (x : Vec) (i : Nat) : Nat := x.toNat / 2 ^ (32 * i) % 2 ^ 32

/-- The location number of a target: a window part lies at 2 ^ 46 and above. -/
def Target.loc : Target → Nat
  | .mem l => l
  | .win t o => 2 ^ 46 + t * 2 ^ 22 + o
/-- The target of a location number. -/
def locTarget (l : Nat) : Target := if l < 2 ^ 46 then .mem l else .win ((l - 2 ^ 46) / 2 ^ 22) (l % 2 ^ 22)

/-! ### Deferred results -/

/-- The error of an access whose line or word cannot be read: 0x087 at the window's close (R65), record 0x342 or 0x344 of the port (R423, R425), and
at once the record of the deferred cause (R396; its flags by log entry 107). -/
def State.poisonErr (s : State) (r : BankRef) (va : Dword) (parts : List (Nat × Nat)) : State × Option TrapInfo :=
  let s := s.meetAll parts
  match parts.find? (fun p => s.poisoned p.1 p.2) with
  | some p =>
    let s := s.record ((s.threadRec r 0 2 0 (some va.toNat) 0).unreadable p.1)
    (s.record { s.threadRec r 0x087 2 (engineId 0 (r.tile % 512) 0) (some va.toNat) 0 with dfr := true }, some ⟨0x087, va, 0⟩)
  | none => (s, none)

/-- A window's result has arrived (R64): a thread that waited for it goes on when no other window holds it, and one that waits for something
else gets its register now when the window has closed. -/
def State.resultReady (s : State) (r : BankRef) (id : Nat) (x : Vec) (err : Option TrapInfo) (fl : BitVec 7) : State :=
  let b := s.bank r
  let ws := b.wins.map (fun w => if w.id = id then { w with result := some x, err := err, flags := fl } else w)
  let s := s.setBank r { b with wins := ws }
  match b.wait with
  | some .window => (s.unpark r).closeDue r
  | some (.trap i pc) => (s.unpark r).takeTrap r i pc
  | _ => s.writeBack r

/-- A parked access ends with an error that only its completion shows: the deferred error of an instruction whose window closes (R65). -/
def State.wakeErr (s : State) (r : BankRef) (e : TrapInfo) : State :=
  let b := s.bank r
  ((s.setBank r { b with wins := b.wins ++ [⟨0, .none, some 0, some e, 0, b.nextWin, false, []⟩], nextWin := b.nextWin + 1 }).unpark r).settle r

/-! ### Performing accesses -/

/-- An access of a thread recorded by the trace ring (R341). -/
def State.traceThread (s : State) (r : BankRef) (loc n kind : Nat) : State :=
  s.traceAt loc n kind (r.tile % 512) r.slot r.bank (if locTile loc = r.tile % 512 then 1 else 2) (locTile loc != r.tile % 512)

/-- The parts of a store written, each part one single-copy atomic write in order (R255, R256). -/
def writeParts (r : BankRef) : List Part → State → State
  | [], s => s
  | p :: ps, s =>
    writeParts r ps ((s.writeTarget (locTarget p.loc) p.size p.data.toNat).traceThread r p.loc p.size 1)
/-- The parts of a store written; lanes that together cover a line are a full write of it (R423). -/
def storeParts (r : BankRef) (ps : List Part) (s : State) : State := (writeParts r ps s).wrote (ps.map (fun p => (p.loc, p.size)))

/-- The parts of a vector load read into their lanes. -/
def loadLanes (s : State) : List Part → Vec → Vec
  | [], x => x
  | p :: ps, x => loadLanes s ps (setLane32 x p.data.toNat (s.readTarget (locTarget p.loc) p.size))

/-- One word in the lanes of a mask. -/
def spread (m : Dword) (w : Nat) (x : Vec) : Vec := (List.range 32).foldl (fun x i => if m.getLsbD i then setLane32 x i w else x) x

/-- The value that a load's parts give: of a vector load the lanes of its parts (7), or one word in the lanes of a mask (8). -/
def loadParts (s : State) (ext : Nat) (base : Vec) (ps : List Part) : Vec :=
  if ext = 7 then loadLanes s ps base
  else if ext = 8 then
    match ps with
    | p :: _ => spread p.data (s.readTarget (locTarget p.loc) p.size) base
    | [] => base
  else
    match ps with
    | p :: _ => (loadExt ext (s.readTarget (locTarget p.loc) p.size)).setWidth 1024
    | [] => base

/-- Loads recorded by the trace ring. -/
def traceLoads (r : BankRef) : List Part → State → State
  | [], s => s
  | p :: ps, s => traceLoads r ps (s.traceThread r p.loc p.size 0)

/-- The locations and sizes of parts. -/
def spans (ps : List Part) : List (Nat × Nat) := ps.map (fun p => (p.loc, p.size))

/-- A relaxed access performed (R252). -/
def State.performAccess (s : State) (r : BankRef) (a : Access) : State :=
  let b := s.bank r
  let s := s.setBank r { b with rlx := b.rlx.filter (fun x => x.id != a.id) }
  if a.write then storeParts r a.parts s
  else
    let x := loadParts s a.ext a.base a.parts
    let s := traceLoads r a.parts s
    let (s, e) := s.poisonErr r a.va (spans a.parts)
    s.resultReady r a.win x e 0

/-- The matrix unit that an access has to wait for, with the number from which commands came after it (R215). -/
def State.accessBusy (s : State) (a : Access) : Option Nat :=
  let upto := a.pass.getD s.fresh
  if a.parts.any (fun p => match locTarget p.loc with
    | .win tile off => s.unitBusy tile off upto
    | .mem _ => false) then some upto else none

/-- A thread's relaxed accesses that find their unit busy have arrived there (R215). -/
def Bank.arrived (b : Bank) (s : State) : Bank := { b with rlx := b.rlx.map (fun a => { a with pass := a.pass.or (s.accessBusy a) }) }

/-- An instruction that waits for the thread's relaxed accesses waits while one of them waits at a matrix unit (R215). -/
def rlxGate (s : State) (f : State → Out) : Out :=
  if s.me.rlx.any (fun a => (s.accessBusy a).isSome) then .next ((s.setMe (s.me.arrived s)).hold .rlx) else f s

/-- Accesses performed in the order listed. -/
def performList (r : BankRef) : List Access → State → State
  | [], s => s
  | a :: as, s => performList r as (s.performAccess r a)

/-- Every outstanding relaxed access of a bank performed (R261, R336); a release or fence at .th waits for nothing (R333). -/
def State.drain (s : State) (r : BankRef) (scope : Nat) : State :=
  if scope = 0 then s else performList r (s.bank r).rlx s

/-- Two runs of bytes overlap. -/
def overlap (a n b m : Nat) : Bool := decide (a < b + m) && decide (b < a + n)

/-- Earlier relaxed accesses of the bank to overlapping bytes are performed first (R252). -/
def State.drainOverlap (s : State) (r : BankRef) (ps : List Part) : State :=
  let hit := fun (a : Access) => a.parts.any (fun p => ps.any (fun q => overlap p.loc p.size q.loc q.size))
  performList r ((s.bank r).rlx.filter hit) s

/-- The oldest of four outstanding relaxed accesses performed, so that a fifth may issue (R252). -/
def State.drainFull (s : State) (r : BankRef) : State :=
  match (s.bank r).rlx with
  | a :: _ => if (s.bank r).rlx.length < 4 then s else s.performAccess r a
  | [] => s

/-! ### Engine commands of a thread -/

/-- A bank's engine commands: copies, BREADs, reductions, matrix commands and posted publications that have not ended (R261). -/
def State.engineBusy (s : State) (r : BankRef) : Bool :=
  let t := s.tile r.tile
  let me := (s.bank r).thread
  t.bte.any (fun c => c.owner == r && c.thread == me) || t.breads.any (fun c => c.owner == r && c.thread == me) ||
    t.reds.any (fun c => c.owner == r && c.thread == me) ||
    s.tiles.any (fun y => (y.2.mx.tq ++ y.2.mx.lq).any (fun c => c.owner == r && c.thread == me)) ||
    s.mailboxes.any (fun m => m.2.pubs.any (fun p => p.owner == r && p.thread == me))

/-- An engine command with ACQ that has not completed, or an LDT whose reads are parked, holds the thread's later accesses (R221, R236, R286,
R346). -/
def State.acqHeld (s : State) (r : BankRef) : Bool :=
  let t := s.tile r.tile
  let me := (s.bank r).thread
  t.bte.any (fun c => c.owner == r && c.thread == me && c.acq) || t.breads.any (fun c => c.owner == r && c.thread == me && c.acq) ||
    t.reds.any (fun c => c.owner == r && c.thread == me && c.acq) ||
    s.tiles.any (fun y => (y.2.mx.tq ++ y.2.mx.lq).any (fun c =>
      c.owner == r && c.thread == me && ((bitOf c.ctl.toNat 18 && c.minor != 4 && c.minor != 16) || c.todo != [])))

/-- A thread's LDT whose reads are parked on a page (R236). -/
def State.ldtHeld (s : State) (r : BankRef) : Bool :=
  let m := (s.tile r.tile).mx
  (m.tq ++ m.lq).any (fun c => c.owner == r && c.thread == (s.bank r).thread && c.todo != [])

/-- An instruction that accesses memory waits behind the thread's engine commands with ACQ. -/
def gate (s : State) (f : State → Out) : Out := if s.acqHeld s.curRef then .next (s.hold .acq) else f s

/-- A fence, and an instruction before which earlier accesses are performed, waits behind the thread's LDT whose reads are parked, and
behind its relaxed accesses that wait at a matrix unit (R215, R236, R261). -/
def fenceGate (s : State) (f : State → Out) : Out := if s.ldtHeld s.curRef then .next (s.hold .acq) else rlxGate s f

/-- A request of the running thread that meets a not-present page: the instruction has issued, and its request parks (R266). -/
def parkPage (va : Nat) (kind : Nat) (s : State) : Out :=
  let r := s.curRef
  let b := s.me.count
  let s := s.setMe { b with counted := true, wait := some (.page va kind), waitPc := b.pc, waitSince := s.boot.dtb }
  .next ((s.unscoped.parkRequest b.tenant (.thread r) va kind b.lid).writeBack r)

/-- CheckAccess of one address for the running thread: it continues with the target, traps, waits for the matrix unit (R215), or meets a
not-present page. -/
def accessElse (absent : Nat → State → Out) (va : Dword) (n kind : Nat) (s : State) (f : Target → State → Out) : Out :=
  match s.check s.req va.toNat n kind with
  | (s, .ok t) =>
    match t with
    | .win tile off =>
      if s.unitBusy tile off (s.me.unitPass.getD s.fresh) then .next (s.hold (.unit tile off (s.me.unitPass.getD s.fresh))) else f t s
    | .mem _ => f t s
  | (s, .trap c) => trapAt c va 0 s
  | (s, .absent) => absent va.toNat s

/-- CheckAccess of one address for the running thread: it continues with the target, traps, or parks. -/
def access (va : Dword) (n kind : Nat) (s : State) (f : Target → State → Out) : Out :=
  accessElse (fun a s => parkPage a kind s) va n kind s f

/-! ### Activations (R360) -/

/-- The bank 1 that an activation starts from: its presets, the trigger value and the time of the fill. -/
def activationBank (l : Launch) (p : Preset) (slot index fbase : Nat) (x time : Dword) : Bank :=
  { seedBank l 0 slot index fbase p.task 3 p.pc
      [(1, BitVec.ofNat 64 index), (2, BitVec.ofNat 64 slot), (3, l.arg), (4, l.lid.setWidth 64), (5, p.g5), (6, p.g6), (7, p.g7),
       (8, x), (9, time)] with
    od := p.od, numctl := p.numctl }

/-- The trigger word of an armed, idle slot has become full: the core takes the word and begins the switch to bank 1. -/
def State.beginActivation (s : State) (tile slot : Nat) (p : Preset) (late : Bool) : State :=
  match s.task? p.task with
  | none => s
  | some t =>
    match s.launch? t.launch with
    | none => s
    | some l =>
      let loc := lsLoc tile p.trigger
      let x := BitVec.ofNat 64 (s.load loc 8)
      let s := (s.setTag loc false).seat ⟨tile, slot, 1⟩ (activationBank l p slot t.index t.base x s.dtb)
      let c := s.ctx tile slot
      s.setCtx tile slot { c with
        switch := some (1, s.cycle + 10)
        reflex := { c.reflex with active := true, late := late, act := (c.reflex.act + 1) % 65536, began := s.dtb } }

/-- The slot of a tile that is armed on a trigger word. -/
def State.armedOn (s : State) (tile off : Nat) : Option (Nat × Preset) :=
  (List.range 8).findSome? (fun k =>
    let x := (s.ctx tile k).reflex
    match x.preset with
    | some p => if x.armed && p.trigger == off then some (k, p) else none
    | none => none)

/-! ### Wait lists (R259) -/

/-- A waiter's FE instruction, when it still waits for this word. -/
def feWait (s : State) (w : WaitEnt) : Option (Nat × Nat × Dword) :=
  match (s.bank w.who).wait with
  | some (.fe loc m reg v true) => if loc = w.loc then some (m, reg, v) else none
  | _ => none

/-- A list without the first entry of a requester. -/
def dropWaiter (who : BankRef) : List WaitEnt → List WaitEnt
  | [] => []
  | w :: ws => if w.who = who then ws else w :: dropWaiter who ws

/-- The first waiter of a minor on a word. -/
def firstWaiter (s : State) (loc minor : Nat) : Option (BankRef × Nat × Dword) :=
  (s.tile (locTile loc)).waits.findSome? (fun w =>
    match feWait s w with
    | some (m, reg, v) => if w.loc = loc ∧ m = minor then some (w.who, reg, v) else none
    | none => none)

/-- A waiter leaves the list of a tile and its instruction completes with a value for its register, or with a deferred error. -/
def State.release (s : State) (tile : Nat) (who : BankRef) (reg : Nat) (x : Dword) (e : Option TrapInfo) : State :=
  let t := s.tile tile
  let s := s.setTile tile { t with waits := dropWaiter who t.waits }
  match e with
  | some e => s.wakeErr who e
  | none => s.wake who (.g reg) (x.setWidth 1024)

/-- The bank serves the list of a word as one action (R259), at most `fuel` waiters. -/
def serveList (loc : Nat) : Nat → State → State
  | 0, s => s
  | n + 1, s =>
    let tile := locTile loc
    let word := BitVec.ofNat 64 (s.load loc 8)
    if s.tag loc then
      let give := fun (s : State) (who : BankRef) (reg : Nat) =>
        let q := (s.traceThread who loc 8 2).poisonErr who (BitVec.ofNat 64 (locOff loc)) [(loc, 8)]
        q.1.release tile who reg word q.2
      match firstWaiter s loc 1 with
      | some (who, reg, _) => serveList loc n (give s who reg)
      | none =>
        match firstWaiter s loc 0 with
        | some (who, reg, _) => serveList loc n (give (s.setTag loc false) who reg)
        | none => s
    else
      match firstWaiter s loc 2 with
      | some (who, _, v) =>
        let s := ((s.store loc 8 v.toNat).setTag loc true).traceThread who loc 8 2
        serveList loc n (s.release tile who 0 0 none)
      | none => s

/-- A tag changes (R257): an armed, idle slot takes a filled trigger word first (R360), then the bank serves the wait list. -/
def State.changeTag (s : State) (loc : Nat) (full : Bool) : State :=
  let s := s.setTag loc full
  let tile := locTile loc
  let s :=
    if full then
      match s.armedOn tile (locOff loc) with
      | some (k, p) => if (s.ctx tile k).reflex.active then s else s.beginActivation tile k p false
      | none => s
    else s
  serveList loc ((s.tile tile).waits.length + 1) s

/-- The `n` words of a run from a location become full or empty, lowest first, and each serves its list (R257, R259). -/
def tagWords (full : Bool) : Nat → Nat → State → State
  | 0, _, s => s
  | n + 1, loc, s => tagWords full n (loc + 8) (s.changeTag loc full)

/-- An activation that begins on a trigger word already full; the word's list is served after it (R259, R360). -/
def State.lateActivation (s : State) (tile slot : Nat) (p : Preset) (late : Bool) : State :=
  let s := s.beginActivation tile slot p late
  serveList (lsLoc tile p.trigger) ((s.tile tile).waits.length + 1) s

/-- A write by an engine or the host to an armed trigger word that is already full counts in OVR (R363). -/
def State.countOverrun (s : State) (loc : Nat) : State :=
  match s.armedOn (locTile loc) (locOff loc) with
  | some (k, _) =>
    if s.tag loc then
      let c := s.ctx (locTile loc) k
      s.setCtx (locTile loc) k { c with reflex := { c.reflex with ovr := satInc c.reflex.ovr 65535 } }
    else s
  | none => s

/-- The words of a local store that a run of bytes touches become full, lowest first (R249, R257). -/
def fillWords : Nat → Nat → State → State
  | 0, _, s => s
  | n + 1, loc, s => fillWords n (loc + 8) ((s.countOverrun loc).changeTag loc true)

/-- A write by an engine or by the host: the bytes, then the tags of a local store's words (R249, R257). -/
def State.engineWrite (s : State) (t : Target) (n v kind src : Nat) : State :=
  match t with
  | .mem loc =>
    let s := (s.store loc n v).traceAt loc n kind src 0 0 (if kind = 5 then 4 else 5) true
    if isLsLoc loc then fillWords ((loc % 8 + n + 7) / 8) (loc / 8 * 8) s else s
  | .win tile off => s.winWrite tile off n v

/-- Done of CWAIT (R288): the tag is full, or every chunk of a mask is marked; MASK 0 waits for the tag (log entry 10). -/
def copyDone (full : Bool) (word mask : Nat) : Bool := full || (decide (mask ≠ 0) && decide (word &&& mask = mask))

/-- A CWAIT whose record word has become true completes (R288): the word is read, with its trace, or it is the deferred error 0x087. -/
def State.copyWake (s : State) (r : BankRef) : State :=
  match (s.bank r).wait with
  | some (.copy loc mask reg) =>
    let word := s.load loc 8
    if copyDone (s.tag loc) word mask.toNat then
      match (s.traceThread r loc 8 0).poisonErr r (BitVec.ofNat 64 (locOff loc)) [(loc, 8)] with
      | (s, some e) => s.wakeErr r e
      | (s, none) => s.wake r (.g reg) (BitVec.ofNat 1024 word)
    else s
  | _ => s

/-- A bank's CWAIT names a record word. -/
def Bank.waitsCopy (b : Bank) (loc : Nat) : Bool :=
  match b.wait with
  | some (.copy l _ _) => l == loc
  | _ => false

/-- CWAITs on a record word that an update of the BTE has made true complete (R288); those of tasks put away by a save wait for their task. -/
def wakeCopies (loc : Nat) : List (Nat × Ctx) → State → State
  | [], s => s
  | (k, c) :: cs, s =>
    let go := fun (s : State) (bk : Nat) (b : Bank) => if b.waitsCopy loc ∧ k < 4096 then s.copyWake ⟨k / 8, k % 8, bk⟩ else s
    wakeCopies loc cs (go (go s 0 c.b0) 1 c.b1)

end Sys2Proof.Machine
end

