-- ==== Sys2Proof/Machine/Pages.lean ====
section
/-! DEFINITION. Sequence pools: configuration fields, the buddy allocator, page words and pins (R300 to R305). -/

namespace Sys2Proof.Machine

/-! ### Configuration (R300) -/

def Pool.en (p : Pool) : Bool := p.cfg.getLsbD 0
def Pool.tenant (p : Pool) : Nat := dfld p.cfg 7 2
/-- Record bytes. -/
def Pool.rbytes (p : Pool) : Nat := 64 * (dfld p.cfg 17 8 + 1)
def Pool.iord (p : Pool) : Nat := dfld p.cfg 21 18
def Pool.aord (p : Pool) : Nat := dfld p.cfg 26 22
def Pool.rdim (p : Pool) : Nat := dfld p.cfg 37 28
def Pool.sbase (p : Pool) : Nat := dfld p.sids 15 0
def Pool.snum (p : Pool) : Nat := dfld p.sids 32 16
/-- VA of page k of the arena, and of record t of a page. -/
def Pool.pageVa (p : Pool) (k : Nat) : Nat := p.arena.toNat + k * (16 * p.rbytes)
/-- VA of a page word (R303). -/
def Pool.wordVa (p : Pool) (k : Nat) : Nat := p.md.toNat + 8 * k
/-- VA of a sequence's descriptor (R306). -/
def Pool.descVa (p : Pool) (sid : Nat) : Nat := p.md.toNat + 8 * 2 ^ p.aord + 128 * (sid - p.sbase)

/-- A sequence unit's translation of an address in the arena or the metadata: any fault, not present included, is `none` (R302). -/
def State.poolTr (s : State) (p va kind : Nat) : State × Option Nat :=
  if isTrans va then
    match s.translate ⟨512, (s.pool p).tenant, .other⟩ va kind with
    | (s, .pa a) => (s, some a)
    | (s, _) => (s, none)
  else (s, none)

/-- A sequence unit's read at such an address; data that cannot be read fail it as a translation fault does (log entry 107). -/
def State.poolData (s : State) (p va n kind : Nat) : State × Option Nat :=
  match s.poolTr p va kind with
  | (s, some a) => let s := s.meet a n; (s, if s.poisoned a n then none else some a)
  | x => x

/-! ### The buddy allocator (R304): free runs as (first page, order), in ascending page order -/

/-- A run inserted in ascending order. -/
def runAdd : List (Nat × Nat) → Nat × Nat → List (Nat × Nat)
  | [], r => [r]
  | a :: t, r => if r.1 < a.1 then r :: a :: t else a :: runAdd t r

/-- A run freed: it is joined with its buddy whenever that is wholly free, up to the arena's order. -/
def freeRun : Nat → List (Nat × Nat) → Nat → Nat → List (Nat × Nat)
  | 0, free, a, k => runAdd free (a, k)
  | f + 1, free, a, k =>
    let buddy := if a / 2 ^ k % 2 = 0 then a + 2 ^ k else a - 2 ^ k
    if free.contains (buddy, k) then freeRun f (free.filter (· != (buddy, k))) (min a buddy) (k + 1) else runAdd free (a, k)

/-- A free run split down to an order, the lower half kept each time. -/
def splitRun : Nat → List (Nat × Nat) → Nat → Nat → List (Nat × Nat)
  | 0, free, _, _ => free
  | n + 1, free, a, k => splitRun n (runAdd free (a + 2 ^ (k - 1), k - 1)) a (k - 1)

/-- AllocRun(k): the lowest free run of order k, else a part of the lowest free run of the smallest larger order. -/
def allocRun (free : List (Nat × Nat)) (k : Nat) : Option (Nat × List (Nat × Nat)) :=
  (List.range (21 - k)).findSome? (fun d =>
    match free.find? (fun r => r.2 == k + d) with
    | some (a, o) => some (a, splitRun d (free.filter (· != (a, o))) a o)
    | none => none)

/-- Every page of an arena free. -/
def allFree (aord : Nat) : List (Nat × Nat) := [(0, aord)]

/-! ### Page words and pins (R303, R305) -/

/-- A page word's COUNT, MASK, DONE and PINS. -/
def pwCount (w : Nat) : Nat := fld w 15 0
def pwMask (w : Nat) : Nat := fld w 31 16
def pwDone (w : Nat) : Nat := fld w 47 32
def pwPins (w : Nat) : Nat := fld w 63 48
def pageWord (count mask done pins : Nat) : Nat := count + mask * 2 ^ 16 + done * 2 ^ 32 + pins * 2 ^ 48

/-- A page returned to the allocator. -/
def State.freePage (s : State) (p k : Nat) : State :=
  let x := s.pool p
  s.setPool p { x with free := freeRun (x.aord) x.free k 0 }

/-- A pin or unpin that cannot reach its page word: a record, and the page is skipped (R302). -/
def State.pinFault (s : State) (p k : Nat) : State :=
  s.record { cause := 0x20B, sev := 2, engine := engineId 3 (0x1E0 + p) 3, tenant := some (s.pool p).tenant,
             va := some ((s.pool p).wordVa k), detail := p }

/-- One page pinned, unless it is free. -/
def State.pinPage (s : State) (p k : Nat) : State :=
  match s.poolData p ((s.pool p).wordVa k) 8 1 with
  | (s, none) => s.pinFault p k
  | (s, some a) =>
    let w := s.load a 8
    if pwCount w = 0 ∧ pwPins w = 0 then s
    else s.store a 8 (pageWord (pwCount w) (pwMask w) (pwDone w) (pwPins w + 1))

/-- One page unpinned: a page at COUNT 0 whose last pin falls returns to the allocator, with its word 0. -/
def State.unpinPage (s : State) (p k : Nat) : State :=
  match s.poolData p ((s.pool p).wordVa k) 8 1 with
  | (s, none) => s.pinFault p k
  | (s, some a) =>
    let w := s.load a 8
    let pins := pwPins w - 1
    if pins = 0 ∧ pwCount w = 0 then (s.store a 8 0).freePage p k
    else s.store a 8 (pageWord (pwCount w) (pwMask w) (pwDone w) pins)

def State.pin (s : State) (p : Nat) (pages : List Nat) : State := pages.foldl (fun s k => s.pinPage p k) s
def State.unpin (s : State) (p : Nat) (pages : List Nat) : State := pages.foldl (fun s k => s.unpinPage p k) s

/-- The pages that a BREAD pins (R305): of every enabled pool of its tenant, the live or draining pages that hold a byte of the range. -/
def State.pinRange (s : State) (t lo hi : Nat) : State × List (Nat × Nat) :=
  (List.range 16).foldl (fun acc p =>
    let s := acc.1
    let x := s.pool p
    let size := 16 * x.rbytes
    let top := x.arena.toNat + 2 ^ x.aord * size
    if x.en ∧ x.tenant = t ∧ lo < top ∧ x.arena.toNat ≤ hi then
      let first := (lo - x.arena.toNat) / size
      let last := (min hi (top - 1) - x.arena.toNat) / size
      let ks := ((List.range (last + 1 - first)).map (· + first)).filter (fun k =>
        match s.poolData p (x.wordVa k) 8 1 with
        | (_, some a) => decide (pwCount (s.load a 8) ≠ 0) || decide (pwPins (s.load a 8) ≠ 0)
        | _ => true)
      (s.pin p ks, acc.2 ++ (ks.filter (fun k => (s.poolData p (x.wordVa k) 8 1).2.isSome)).map (fun k => (p, k)))
    else acc) (s, [])

end Sys2Proof.Machine
end

