-- ==== Sys2Proof/Machine/Operands.lean ====
section
/-! DEFINITION. Operand forms: effective addresses, vector sources and destinations with their channel ports (R255, R256, R329). -/

namespace Sys2Proof.Machine

/-! ### Addresses -/

/-- g[A] + SignExtend(disp8, 8) · size (format M, R60). -/
def State.eaM (s : State) (a : BitVec 5) (i : BitVec 8) (n : Nat) : Dword := s.rg a + i.signExtend 64 * BitVec.ofNat 64 n
/-- g[A] + g[B] · 2 ^ SC (format MX, R60). -/
def State.eaX (s : State) (a b : BitVec 5) (c : BitVec 3) : Dword := s.rg a + (s.rg b <<< c.toNat)

/-! ### Channel ports as operands (R329) -/

/-- The port that a vector register is while bound. -/
def Bank.portOf (b : Bank) (r : BitVec 5) : Option (Nat × Port) :=
  if 28 ≤ r.toNat then (b.port (r.toNat - 28)).map (fun p => (r.toNat - 28, p)) else none

/-- The RECV and STRM ports among the sources, each once. -/
def Bank.srcPorts (b : Bank) (srcs : List (BitVec 5)) : List Nat :=
  (srcs.filterMap (fun r => match b.portOf r with
    | some (k, p) => if p.mode = 1 then none else some k
    | none => none)).eraseDups

/-- A port whose entries are all taken, or which holds none. -/
def Bank.portEmpty (b : Bank) (k : Nat) : Bool :=
  match b.port k with
  | some p => decide (p.fifo.length ≤ p.taken)
  | none => false

/-- A vector source: the head entry of a RECV or STRM port, else the register. -/
def State.rv (s : State) (r : BitVec 5) : Vec :=
  match s.me.portOf r with
  | some (_, p) => if p.mode = 1 then s.me.rv r.toNat else (p.fifo.drop p.taken).headD 0
  | none => s.me.rv r.toNat

/-- The gate of an instruction with vector operands: it parks on an empty source port or without credit for its destination, and
traps with 0x111 when the destination is a RECV or STRM port. -/
def vecGate (srcs : List (BitVec 5)) (dst : Option (BitVec 5)) (s : State) (f : State → Out) : Out :=
  let b := s.me
  match (b.srcPorts srcs).find? b.portEmpty with
  | some k => .next (s.hold (.chanRead k))
  | none =>
    match dst.bind b.portOf with
    | some (k, p) =>
      if p.mode ≠ 1 then trap 0x111 s
      else if p.credit = 0 then .next (s.hold (.credit k))
      else f s
    | none => f s

/-- Entries of the source ports taken. -/
def Bank.takePorts (b : Bank) (ks : List Nat) : Bank :=
  ks.foldl (fun b k => match b.port k with
    | some p => { b with ports := tset b.ports k { p with taken := p.taken + 1 } }
    | none => b) b

/-- Taken entries leave their ports: a RECV port returns a credit to its sender, and a stream whose last entry leaves ends (R320, R329). -/
def State.freePort (s : State) (r : BankRef) (k : Nat) : State :=
  let b := s.bank r
  match b.port k with
  | none => s
  | some p =>
    let fifo := p.fifo.drop 1
    let ended := match p.stream with
      | some t => fifo.isEmpty && t.left == 0
      | none => false
    let s := s.setBank r { b with ports := tset b.ports k { p with
      fifo := fifo, taken := p.taken - 1, stream := if ended then none else p.stream } }
    let s := if p.mode = 0 then s.send (.credit ⟨r.tile, r.slot, k⟩ p.peer 1 b.task) else s
    match p.stream with
    | some t => if ended then s.unpin t.pool t.pins else s
    | none => s

def State.freePorts (s : State) (r : BankRef) (ks : List Nat) : State := ks.foldl (fun s k => s.freePort r k) s

/-- A port unbound (R327): its FIFO is discarded and its stream ends; a taken entry no longer frees it. -/
def State.unbind (s : State) (r : BankRef) (k : Nat) : State :=
  let b := s.bank r
  match b.port k with
  | none => s
  | some p =>
    let s := s.setBank r { b with
      ports := tdel b.ports k, pend := b.pend.map (fun q => { q with frees := q.frees.filter (· != k) }),
      wins := b.wins.map (fun w => { w with frees := w.frees.filter (·.1 != k) }) }
    match p.stream with
    | some t => s.unpin t.pool t.pins
    | none => s

/-- Source entries that an instruction has taken go back to the heads of their FIFOs (R329). -/
def Bank.giveBack (b : Bank) (ks : List Nat) : Bank :=
  ks.foldl (fun b k => match b.port k with
    | some p => { b with ports := tset b.ports k { p with taken := p.taken - 1 } }
    | none => b) b

/-- What the landing of a pending result does beside writing its register: a SEND port sends, and taken entries leave (R329). -/
def State.landPend (s : State) (r : BankRef) (p : Pending) : State :=
  let b := s.bank r
  let s := match p.dest with
    | .v n => s.land r (.v n) (b.rv n)
    | _ => s
  s.freePorts r p.frees

/-- Pending results for a destination land before it is written again. -/
def State.flushDest (s : State) (r : BankRef) (d : Dest) : State :=
  let b := s.bank r
  (b.pend.filter (fun p => p.dest == d)).foldl (fun s p => s.landPend r p) (s.setBank r { b with pend := dropPend b.pend d })

/-- The end of a vector instruction of fixed latency (R135): its sources' entries are taken, its credit used, its register written,
and its flags raised; the landing sends and frees. -/
def vdone (srcs : List (BitVec 5)) (d : BitVec 5) (lat : Nat) (x : Vec) (fl : BitVec 7) (s : State) : Out :=
  let r := s.curRef
  let ks := s.me.srcPorts srcs
  let s := s.flushDest r (.v d.toNat)
  let b := s.me
  let old := b.rv d.toNat
  let b := (b.takePorts ks).wv d.toNat (s.clip x)
  let b := match b.portOf d with
    | some (k, p) => { b with ports := tset b.ports k { p with credit := p.credit - 1 } }
    | none => b
  .next (s.setMe ((b.await s.cycle (.v d.toNat) lat old ks).raise fl)).retire

/-- The end of an instruction with vector sources and a scalar result of fixed latency. -/
def vsdone (srcs : List (BitVec 5)) (d : BitVec 5) (lat : Nat) (x : Dword) (fl : BitVec 7) (s : State) : Out :=
  let ks := s.me.srcPorts srcs
  let s := s.wgLat d.toNat lat x
  let b := s.me.takePorts ks
  let b := if ks.isEmpty then b else b.await s.cycle .none lat 0 ks
  .next (s.setMe (b.raise fl)).retire

/-- Source entries taken for a result that a lookahead window holds, with what they were (R329). -/
def State.takeEntries (s : State) (srcs : List (BitVec 5)) : State × List (Nat × Vec) :=
  let ks := s.me.srcPorts srcs
  (s.setMe (s.me.takePorts ks), ks.map (fun k => (k, s.rv (BitVec.ofNat 5 (28 + k)))))

/-- Source entries of an instruction without a register result leave at once. -/
def State.usePorts (s : State) (srcs : List (BitVec 5)) : State :=
  let ks := s.me.srcPorts srcs
  (s.setMe (s.me.takePorts ks)).freePorts s.curRef ks

/-- A long-latency instruction takes its destination's credit at issue (R329). -/
def State.useCredit (s : State) (d : BitVec 5) : State :=
  match s.me.portOf d with
  | some (k, p) => if p.mode = 1 then s.setMe { s.me with ports := tset s.me.ports k { p with credit := p.credit - 1 } } else s
  | none => s

/-- An own turn of a bank has come: results that have had their turns have landed. -/
def State.ageResults (s : State) (r : BankRef) : State :=
  let b := s.bank r
  let wait := (b.pend.filter (fun p => decide (1 < p.turns))).map (fun p => { p with turns := p.turns - 1 })
  (b.pend.filter (fun p => decide (p.turns ≤ 1))).foldl (fun s p => s.landPend r p) (s.setBank r { b with pend := wait })

/-- Every pending result of a bank landed. -/
def State.landAll (s : State) (r : BankRef) : State :=
  let b := s.bank r
  b.pend.foldl (fun s p => s.landPend r p) (s.setBank r { b with pend := [] })

/-- The end of a thread's ports (R330): results already written are sent, then every bound port is unbound. -/
def State.unbindAll (s : State) (r : BankRef) : State :=
  (List.range 4).foldl (fun s k => s.unbind r k) (s.landAll r)

end Sys2Proof.Machine
end

