-- ==== Sys2Proof/Machine/Mem.lean ====
section
/-! DEFINITION. Loads and stores, vector memory instructions, full/empty instructions and fences: MO 20 to 26 (R255 to R261). -/

namespace Sys2Proof.Machine

/-! ### Shared operations -/

/-- The parts of a relaxed access join the bank's outstanding accesses; those outside the own local store and registers,
DRAM and host memory travel over the determinate network (R248, R249, R252). -/
def State.pushAccess (s : State) (scope : Nat) (write : Bool) (va : Dword) (ps : List Part) (win ext : Nat) (base : Vec) : State :=
  let b := s.me
  let far := ps.any (fun p => decide (xaLoc ≤ p.loc) && !(isLsLoc p.loc && homeTile p.loc == s.cur.1))
  { s.setMe { b with rlx := b.rlx ++ [⟨s.fresh, scope, write, far, va, ps, win, ext, base, none⟩] } with fresh := s.fresh + 1 }

/-- A load of the parts listed: plain and done at issue, or relaxed and done while its window is open (R251, R252, R63). -/
def loadDone (k : BitVec 4) (dest : Dest) (ext : Nat) (base : Vec) (va : Dword) (ps : List Part) (s : State) (fr : List (Nat × Vec) := []) :
    Out :=
  let r := s.curRef
  let s := s.drainOverlap r ps
  match s.rlxScope with
  | some sc =>
    if k = 0 then
      let x := loadParts s ext base ps
      let (s, e) := (traceLoads r ps s).poisonErr r va (spans ps)
      .next (s.finishLong k.toNat dest (some x) e 0 fr)
    else .next ((s.pushAccess sc false va ps s.me.nextWin ext base).finishLong k.toNat dest none none 0 fr)
  | none =>
    let x := loadParts s ext base ps
    let (s, e) := (traceLoads r ps s).poisonErr r va (spans ps)
    .next (s.finishLong k.toNat dest (some x) e 0 fr)

/-- A store of the parts listed: plain and performed at issue, or relaxed and outstanding (R251, R252). -/
def storeDone (k : BitVec 4) (va : Dword) (ps : List Part) (s : State) : Out :=
  let r := s.curRef
  let s := s.drainOverlap r ps
  match s.rlxScope with
  | some sc => .next ((s.pushAccess sc true va ps 0 0 0).finishLong k.toNat .none (some 0) none 0)
  | none => .next ((storeParts r ps s).finishLong k.toNat .none (some 0) none 0)

/-- A relaxed access that finds four outstanding waits for one of them (R252), and waits on where the oldest waits at a matrix unit (R215). -/
def roomGate (s : State) (f : State → Out) : Out :=
  if s.rlxScope.isSome ∧ 4 ≤ s.me.rlx.length ∧ (s.me.rlx.head?).any (fun a => (s.accessBusy a).isSome) then
    .next ((s.setMe (s.me.arrived s)).hold .rlx)
  else f s

/-- A relaxed access that finds four outstanding waits for one of them (R252). -/
def State.makeRoom (s : State) : State := if s.rlxScope.isSome then s.drainFull s.curRef else s

/-- A scalar load (R255): extension F3 and size. -/
def loadAt (ext n : Nat) (d : BitVec 5) (k : BitVec 4) (va : Dword) (s : State) : Out :=
  gate s fun s => roomGate s fun s => access va n 0 s.makeRoom fun t s => loadDone k (.g d.toNat) ext 0 va [⟨t.loc, n, 0⟩] s

/-- A scalar store of the low bytes of g[D] (R255). -/
def storeAt (n : Nat) (d : BitVec 5) (k : BitVec 4) (va : Dword) (s : State) : Out :=
  gate s fun s => roomGate s fun s => access va n 1 s.makeRoom fun t s => storeDone k va [⟨t.loc, n, s.rg d⟩] s

/-! ### LD, ST, LDX, STX (R255) -/

def execLdS8 (d a : BitVec 5) (k : BitVec 4) (i : BitVec 8) (s : State) : Out := loadAt 0 1 d k (s.eaM a i 1) s
def execLdZ8 (d a : BitVec 5) (k : BitVec 4) (i : BitVec 8) (s : State) : Out := loadAt 1 1 d k (s.eaM a i 1) s
def execLdS16 (d a : BitVec 5) (k : BitVec 4) (i : BitVec 8) (s : State) : Out := loadAt 2 2 d k (s.eaM a i 2) s
def execLdZ16 (d a : BitVec 5) (k : BitVec 4) (i : BitVec 8) (s : State) : Out := loadAt 3 2 d k (s.eaM a i 2) s
def execLdS32 (d a : BitVec 5) (k : BitVec 4) (i : BitVec 8) (s : State) : Out := loadAt 4 4 d k (s.eaM a i 4) s
def execLdZ32 (d a : BitVec 5) (k : BitVec 4) (i : BitVec 8) (s : State) : Out := loadAt 5 4 d k (s.eaM a i 4) s
def execLd64 (d a : BitVec 5) (k : BitVec 4) (i : BitVec 8) (s : State) : Out := loadAt 6 8 d k (s.eaM a i 8) s

def execSt8 (d a : BitVec 5) (k : BitVec 4) (i : BitVec 8) (s : State) : Out := storeAt 1 d k (s.eaM a i 1) s
def execSt16 (d a : BitVec 5) (k : BitVec 4) (i : BitVec 8) (s : State) : Out := storeAt 2 d k (s.eaM a i 2) s
def execSt32 (d a : BitVec 5) (k : BitVec 4) (i : BitVec 8) (s : State) : Out := storeAt 4 d k (s.eaM a i 4) s
def execSt64 (d a : BitVec 5) (k : BitVec 4) (i : BitVec 8) (s : State) : Out := storeAt 8 d k (s.eaM a i 8) s

def execLdxS8 (d a b : BitVec 5) (k : BitVec 4) (c : BitVec 3) (s : State) : Out := loadAt 0 1 d k (s.eaX a b c) s
def execLdxZ8 (d a b : BitVec 5) (k : BitVec 4) (c : BitVec 3) (s : State) : Out := loadAt 1 1 d k (s.eaX a b c) s
def execLdxS16 (d a b : BitVec 5) (k : BitVec 4) (c : BitVec 3) (s : State) : Out := loadAt 2 2 d k (s.eaX a b c) s
def execLdxZ16 (d a b : BitVec 5) (k : BitVec 4) (c : BitVec 3) (s : State) : Out := loadAt 3 2 d k (s.eaX a b c) s
def execLdxS32 (d a b : BitVec 5) (k : BitVec 4) (c : BitVec 3) (s : State) : Out := loadAt 4 4 d k (s.eaX a b c) s
def execLdxZ32 (d a b : BitVec 5) (k : BitVec 4) (c : BitVec 3) (s : State) : Out := loadAt 5 4 d k (s.eaX a b c) s
def execLdx64 (d a b : BitVec 5) (k : BitVec 4) (c : BitVec 3) (s : State) : Out := loadAt 6 8 d k (s.eaX a b c) s

def execStx8 (d a b : BitVec 5) (k : BitVec 4) (c : BitVec 3) (s : State) : Out := storeAt 1 d k (s.eaX a b c) s
def execStx16 (d a b : BitVec 5) (k : BitVec 4) (c : BitVec 3) (s : State) : Out := storeAt 2 d k (s.eaX a b c) s
def execStx32 (d a b : BitVec 5) (k : BitVec 4) (c : BitVec 3) (s : State) : Out := storeAt 4 d k (s.eaX a b c) s
def execStx64 (d a b : BitVec 5) (k : BitVec 4) (c : BitVec 3) (s : State) : Out := storeAt 8 d k (s.eaX a b c) s

/-- C.LD64 is LD.64 with displacement 0 (R70). -/
def execCLd64 (r f : BitVec 5) (s : State) : Out := loadAt 6 8 r 0 (s.eaM f 0 8) s
/-- C.ST64 is ST.64 with displacement 0 (R70). -/
def execCSt64 (r f : BitVec 5) (s : State) : Out := storeAt 8 r 0 (s.eaM f 0 8) s

/-! ### Vector memory instructions (R256) -/

/-- 32-bit lanes of the running core. -/
def State.lanes32 (s : State) : Nat := s.vl / 32

/-- Every active lane is checked before any is performed (R256): lane number and address to parts. -/
def accessLanes (kind : Nat) (data : Nat → Dword) : List (Nat × Dword) → List Part → State → (List Part → State → Out) → Out
  | [], ps, s, f => f ps s
  | (i, va) :: rest, ps, s, f =>
    access va 4 kind s fun t s => accessLanes kind data rest (ps ++ [⟨t.loc, 4, data i⟩]) s f

/-- Lanes whose mask bit is set; B = 0 makes every lane active. -/
def maskLanes (n : Nat) (b : BitVec 5) (m : Dword) : List Nat := (List.range n).filter (fun i => b == 0 || m.getLsbD i)

/-- A vector load of the lanes listed (R256), with the ports that it reads, whose entries leave when its window writes the result (R329); one of no
lane is ordered as an access too. -/
def vloadAt (srcs : List (BitVec 5)) (d : BitVec 5) (k : BitVec 4) (lanes : List (Nat × Dword)) (s : State) : Out :=
  gate s fun s => roomGate s fun s => accessLanes 0 (fun i => BitVec.ofNat 64 i) lanes [] s.makeRoom fun ps s =>
    let q := s.takeEntries srcs
    match lanes with
    | [] => .next ((q.1.useCredit d).finishLong k.toNat (.v d.toNat) (some (s.me.rv d.toNat)) none 0 q.2)
    | (_, va) :: _ => loadDone k (.v d.toNat) 7 (s.me.rv d.toNat) va ps (q.1.useCredit d) q.2

/-- A vector store of the lanes listed (R256). -/
def vstoreAt (srcs : List (BitVec 5)) (d : BitVec 5) (k : BitVec 4) (lanes : List (Nat × Dword)) (s : State) : Out :=
  let x := s.rv d
  gate s fun s => roomGate s fun s => accessLanes 1 (fun i => BitVec.ofNat 64 (lane32 x i)) lanes [] s.makeRoom fun ps s =>
    match lanes with
    | [] => .next ((s.usePorts srcs).finishLong k.toNat .none (some 0) none 0)
    | (_, va) :: _ => storeDone k va ps (s.usePorts srcs)

/-- Consecutive lanes from g[A] under a mask. -/
def unitLanes (a b : BitVec 5) (s : State) : List (Nat × Dword) :=
  (maskLanes s.lanes32 b (s.rg b)).map (fun i => (i, s.rg a + BitVec.ofNat 64 (4 * i)))
/-- Strided lanes: stride g[B][31:0], count g[B][47:32]. -/
def strideLanes (a b : BitVec 5) (s : State) : List (Nat × Dword) :=
  ((List.range s.lanes32).filter (fun i => decide (i < dfld (s.rg b) 47 32))).map
    (fun i => (i, s.rg a + BitVec.ofNat 64 i * sext (dfld (s.rg b) 31 0) 32))
/-- Indexed lanes: offsets in vB, 0xFFFF_FFFF inactive. -/
def indexLanes (a b : BitVec 5) (s : State) : List (Nat × Dword) :=
  ((List.range s.lanes32).filter (fun i => lane32 (s.rv b) i != 0xFFFFFFFF)).map
    (fun i => (i, s.rg a + BitVec.ofNat 64 (lane32 (s.rv b) i)))

def execVld (d a b : BitVec 5) (k : BitVec 4) (s : State) : Out :=
  vecGate [] (some d) s fun s => vloadAt [] d k (unitLanes a b s) s
def execVst (d a b : BitVec 5) (k : BitVec 4) (s : State) : Out :=
  vecGate [d] none s fun s => vstoreAt [d] d k (unitLanes a b s) s
def execVlds (d a b : BitVec 5) (k : BitVec 4) (s : State) : Out :=
  vecGate [] (some d) s fun s =>
    if dfld (s.rg b) 63 48 ≠ 0 then trap 0x086 s else vloadAt [] d k (strideLanes a b s) s
def execVsts (d a b : BitVec 5) (k : BitVec 4) (s : State) : Out :=
  vecGate [d] none s fun s =>
    if dfld (s.rg b) 63 48 ≠ 0 then trap 0x086 s else vstoreAt [d] d k (strideLanes a b s) s
def execVldx (d a b : BitVec 5) (k : BitVec 4) (s : State) : Out :=
  vecGate [b] (some d) s fun s => vloadAt [b] d k (indexLanes a b s) s
def execVstx (d a b : BitVec 5) (k : BitVec 4) (s : State) : Out :=
  vecGate [d, b] none s fun s => vstoreAt [d, b] d k (indexLanes a b s) s
/-- VLDB reads its word once into every active lane; without one it reads nothing. -/
def execVldb (d a b : BitVec 5) (k : BitVec 4) (s : State) : Out :=
  vecGate [] (some d) s fun s =>
    match maskLanes s.lanes32 b (s.rg b) with
    | [] => vloadAt [] d k [] s
    | i :: is =>
      let m := (i :: is).foldl (fun m i => m ||| (1#64 <<< i)) 0
      gate s fun s => roomGate s fun s => access (s.rg a) 4 0 s.makeRoom fun t s =>
        loadDone k (.v d.toNat) 8 (s.me.rv d.toNat) (s.rg a) [⟨t.loc, 4, m⟩] (s.useCredit d)

/-! ### Full/empty instructions (R258) -/

/-- The action of an FE minor at the bank, when it need not wait: the register's value and the state after it. -/
def feAction (minor loc : Nat) (v : Dword) (s : State) : Option (Dword × State) :=
  let word := BitVec.ofNat 64 (s.load loc 8)
  match minor with
  | 0 => if s.tag loc then some (word, s.changeTag loc false) else none
  | 1 => if s.tag loc then some (word, s) else none
  | 2 => if s.tag loc then none else some (0, (s.store loc 8 v.toNat).changeTag loc true)
  | 3 => some (0, (s.store loc 8 v.toNat).changeTag loc true)
  | 4 => some (BitVec.ofNat 64 (b2n (s.tag loc)), s)
  | _ => some (0, s.changeTag loc false)

/-- The deferred error of an FE load of a word that cannot be read (R425): LDFE and LDFW return its data. -/
def State.feErr (s : State) (r : BankRef) (minor loc : Nat) (va : Dword) : State × Option TrapInfo :=
  if minor ≤ 1 then s.poisonErr r va [(loc, 8)] else (s, none)

/-- A release at a scope above .th waits while a relaxed access of the thread waits at a matrix unit (R215, R333). -/
def releaseGate (rel : Bool) (sc : BitVec 3) (s : State) (f : State → Out) : Out := if rel && sc != 0 then rlxGate s f else f s

/-- An FE instruction (R258, R259): a release drains first, and earlier relaxed accesses to the word are performed (R252); an action that must wait
enters the wait list, or is refused by a full one. It is traced when it is performed, before the waiters that it lets go (R341). LDFW and FETAG are
reads for CheckAccess, and the others writes, because they change the tag or the word (log entry 116). -/
def feAt (minor : Nat) (reg a : BitVec 5) (i : BitVec 8) (sc : BitVec 3) (v : Dword) (s : State) : Out :=
  let va := s.eaM a i 8
  gate s fun s => access va 8 (if minor = 1 ∨ minor = 4 then 0 else 1) s fun t s =>
    match t with
    | .win _ _ => trapAt 0x101 va 0 s
    | .mem loc =>
      if ¬ isLsLoc loc then trapAt 0x101 va 0 s
      else
        releaseGate (minor == 2 || minor == 3 || minor == 5) sc s fun s =>
        let r := s.curRef
        let s := (if minor = 2 ∨ minor = 3 ∨ minor = 5 then s.drain r sc.toNat else s).drainOverlap r [⟨loc, 8, 0⟩]
        match feAction minor loc v (s.traceThread r loc 8 2) with
        | some (x, next) =>
          let q := next.feErr r minor loc va
          .next (q.1.finishLong 0 (.g reg.toNat) (some (x.setWidth 1024)) q.2 0)
        | none =>
          let tile := locTile loc
          let n := (s.tile tile).waits.length
          let s := s.park (.fe loc minor reg.toNat v (decide (n < 64)))
          if n < 64 then .next (s.setTile tile { s.tile tile with waits := (s.tile tile).waits ++ [⟨r, loc⟩] }) else .next s

def execLdfe (d a : BitVec 5) (i : BitVec 8) (s : BitVec 3) (st : State) : Out := feAt 0 d a i s 0 st
def execLdfw (d a : BitVec 5) (i : BitVec 8) (s : BitVec 3) (st : State) : Out := feAt 1 d a i s 0 st
def execStfw (d a : BitVec 5) (i : BitVec 8) (s : BitVec 3) (st : State) : Out := feAt 2 0 a i s (st.rg d) st
def execStfs (d a : BitVec 5) (i : BitVec 8) (s : BitVec 3) (st : State) : Out := feAt 3 0 a i s (st.rg d) st
def execFetag (d a : BitVec 5) (i : BitVec 8) (s : BitVec 3) (st : State) : Out := feAt 4 d a i s 0 st
def execFeclr (a : BitVec 5) (i : BitVec 8) (s : BitVec 3) (st : State) : Out := feAt 5 0 a i s 0 st

/-! ### Fences (R261) -/

/-- A fence at .th waits for nothing (R333). -/
def scopeGate (sc : BitVec 3) (s : State) (f : State → Out) : Out := if sc = 0 then f s else fenceGate s f

/-- FENCE: every earlier access is performed at the scope. -/
def execFence (sc : BitVec 3) (s : State) : Out := scopeGate sc s fun s => .next (s.drain s.curRef sc.toNat).retire
/-- IFENCE: as FENCE, and the fetch buffer is discarded. -/
def execIfence (sc : BitVec 3) (s : State) : Out := scopeGate sc s fun s =>
  let s := (s.drain s.curRef sc.toNat)
  .next (s.setMe { s.me with fbuf := [] }).retire
/-- EFENCE: as FENCE, and the thread waits for its engine commands. -/
def execEfence (sc : BitVec 3) (s : State) : Out :=
  let go := fun (s : State) =>
    let r := s.curRef
    let s := s.drain r sc.toNat
    if s.engineBusy r then Host.Outcome.next (s.park (.efence sc.toNat false)) else .next s.retire
  if sc = 0 then go s else rlxGate s go

end Sys2Proof.Machine
end

