-- ==== Sys2Proof/Machine/Launch.lean ====
section
/-! DEFINITION. Describing work: reading and checking a packet and its header, accepting a launch, level instances, completion
counters, placement, seeding and cancellation (R41 to R56, R113 to R130, R391, R403, R406, R407). -/

namespace Sys2Proof.Machine

/-! ### The Front End's reads -/

/-- The Front End reading for a tenant: it has no near window and no tile TLB. -/
def feReq (t : Nat) : Req := ⟨512, t, .other⟩

/-- The byte locations of a run, cut at 64-byte granules: each granule is checked and translated on its own; the first refusal stops. -/
def State.runLocs (s : State) (q : Req) (kind : Nat) : Nat → Nat → Nat → List (Nat × Nat) → State × Except (Option Nat × Nat) (List (Nat × Nat))
  | 0, _, _, acc => (s, .ok acc)
  | f + 1, va, n, acc =>
    if n = 0 then (s, .ok acc)
    else
      let k := min n (64 - va % 64)
      match s.check q va 1 kind with
      | (s, .ok (.mem loc)) => s.runLocs q kind f (va + k) (n - k) (acc ++ [(loc, k)])
      | (s, .ok (.win _ _)) => (s, .error (some 0x082, va))
      | (s, .trap c) => (s, .error (some c, va))
      | (s, .absent) => (s, .error (none, va))

/-- The bytes at listed locations. -/
def State.gather (s : State) (l : List (Nat × Nat)) : List Byte := l.flatMap (fun p => s.bytes p.1 p.2)

/-- What a record of a Front End's read names: the tenant, the address and the launch, where there is one. -/
def feRecord (t va : Nat) (l : Option Launch) : RecIn := { cause := 0, sev := 2, engine := 0, tenant := some t, va := some va, launch := l }

/-- A run of bytes read as 64-byte granules, as a number; `none` is any fault, a page not present included (log entry 9), or a
line that cannot be read (log entry 107). -/
def State.feRead (s : State) (t va n : Nat) : State × Option Nat :=
  match s.runLocs (feReq t) 0 (n / 64 + 2) va n [] with
  | (s, .ok l) =>
    let s := s.meetAll l
    if l.any (fun p => s.poisoned p.1 p.2) then (s.recordPoison (feRecord t va none) l, none) else (s, some (bytesNat (s.gather l)))
  | (s, .error _) => (s, none)

/-! ### The packet and the header (R45 to R53) -/

/-- Bytes [off, off + n) of a structure read as a number. -/
def fldB (x off n : Nat) : Nat := x / 256 ^ off % 256 ^ n

/-- What the Front End reads for a launch: packet, header, role table entries, and the region table's head and entries. -/
structure WorkIn where
  pktVa : Nat
  p : Nat
  h : Nat
  roles : List Nat
  head : Nat
  regions : List Nat

/-- Pieces of a table of `size`-byte entries. -/
def entriesOf (x size : Nat) (n : Nat) : List Nat := (List.range n).map (fun i => fldB x (size * i) size)

/-- The packet, the header, and the tables that the header names, each read once (R54); `none` is a fault (0x2DE). -/
def State.readWork (s : State) (t va : Nat) : State × Option WorkIn :=
  match s.feRead t va 128 with
  | (s, none) => (s, none)
  | (s, some p) =>
    let hva := fldB p 0x08 8
    match s.feRead t hva 64 with
    | (s, none) => (s, none)
    | (s, some h) =>
      let n := fldB h 0x23 1
      match s.feRead t (hva + fldB h 0x20 3) (8 * n) with
      | (s, none) => (s, none)
      | (s, some r) =>
        let out := fldB h 0x28 4
        if out = 0 then (s, some ⟨va, p, h, entriesOf r 8 n, 1, []⟩)
        else
          match s.feRead t (hva + out) 8 with
          | (s, none) => (s, none)
          | (s, some hd) =>
            let k := min (fldB hd 0 4) 64
            match s.feRead t (hva + out + 8) (16 * k) with
            | (s, none) => (s, none)
            | (s, some g) => (s, some ⟨va, p, h, entriesOf r 8 n, hd, entriesOf g 16 k⟩)

/-- A version field against a negotiated version: equal major, minor no higher (R45, R50). -/
def verOk (have_ : Dword) (v : Nat) : Bool := v / 256 == dfld have_ 15 8 && decide (v % 256 ≤ dfld have_ 7 0)

/-- A descriptor with a reserved bit or format (R53). -/
def odBad (d : Nat) : Bool := bitOf d 5 || decide (fld d 63 56 ≠ 0) || decide (11 ≤ fld d 3 0)
/-- An output region entry with a reserved bit or a bad length (R49). -/
def regionBad (x : Nat) : Bool :=
  decide (fld x 63 48 ≠ 0) || decide (2 ≤ fldB x 14 1) || decide (fldB x 15 1 ≠ 0) || decide (fldB x 8 6 = 0) || decide (2 ^ 40 < fldB x 8 6)
/-- A role entry with a reserved kind or byte (R48). -/
def roleBad (x : Nat) : Bool := decide (fldB x 4 1 = 0) || decide (3 < fldB x 4 1) || decide (fldB x 5 3 ≠ 0)

/-- Effective quota (R50). -/
def WorkIn.quota (w : WorkIn) : Nat := if fldB w.p 0x10 1 = 0 then fldB w.h 0x0B 1 else fldB w.p 0x10 1
def WorkIn.rect (w : WorkIn) : BitVec 18 := BitVec.ofNat 18 (fldB w.p 0x1C 4)
/-- Launch mode: 0 plain, 1 pack, 2 deterministic (R51). -/
def WorkIn.mode (w : WorkIn) : Nat :=
  if bitOf (fldB w.p 2 2) 0 then 2 else if bitOf (fldB w.p 2 2) 2 && bitOf (fldB w.h 0x0C 4) 2 then 1 else 0

/-- The first cause of R114 that applies, or none; a size, count or length out of range without a cause of its own counts as a reserved
value (log entry 99). -/
def State.workCause (s : State) (t : Nat) (w : WorkIn) : Option Nat :=
  let p := w.p
  let h := w.h
  let neg := fun i => tget 0 s.boot.negotiated i
  let pf := fldB p 2 2
  let hf := fldB h 0x0C 4
  let out := fldB h 0x28 4
  let foot := fldB h 0x10 4
  let scratch := fldB h 0x14 4
  let q := w.quota
  let o := fldB p 0x1C 4 % 512
  let reflex := bitOf hf 5
  let ceiling := fldB h 0x2C 4
  if fldB p 0x08 8 % 64 ≠ 0 ∨ w.pktVa % 64 ≠ 0 then some 0x2D1
  else if fldB h 0 4 ≠ 0x484B5A47 ∨ ¬ verOk (neg 2) (fldB h 4 2) ∨ fldB h 6 2 ≠ 1 then some 0x2D2
  else if ¬ verOk (neg 1) (fldB p 0 2) then some 0x2D3
  else if 8 ≤ pf ∨ 16 ≤ fldB p 0x11 1 ∨ fldB p 0x13 1 ≠ 0 ∨ fldB p 0x1A 2 ≠ 0 ∨ 2 ^ 18 ≤ fldB p 0x1C 4 ∨ 64 ≤ hf ∨
      256 ≤ fldB h 0x1C 2 ∨ 128 ≤ fldB h 0x1E 2 ∨ foot % 64 ≠ 0 ∨ scratch % 64 ≠ 0 ∨ w.roles.any roleBad ∨
      fldB w.head 0 4 = 0 ∨ 64 < fldB w.head 0 4 ∨ fldB w.head 4 4 ≠ 0 ∨ w.regions.any regionBad ∨
      (entriesOf (fldB p 0x40 64) 8 8).any odBad then some 0x2D4
  else if fldB p 4 4 = 0 ∨ 65536 < fldB p 4 4 then some 0x2D5
  else if q = 0 ∨ 8 < q ∨ fldB h 8 1 = 0 ∨ 32 < fldB h 8 1 ∨ 32 < fldB h 9 1 ∨ 8 < fldB h 0xA 1 then some 0x2D6
  else if fldB h 0x24 4 % 2 ≠ 0 ∨ fldB h 0x18 4 % 2 ≠ 0 ∨ fldB h 0x24 4 < 0x40 ∨ w.roles.any (fun r => r % 2 == 1) then some 0x2D7
  else if 6 ≤ fldB h 0x1E 2 % 8 then some 0x2D8
  else if (bitOf pf 0 && (bitOf pf 2 || !bitOf hf 0)) ∨ (bitOf pf 1 && (!bitOf hf 1 || out == 0)) then some 0x2D9
  else if (reflex && isLa o) ∨ (!reflex && isXa o) ∨ (reflex && ceiling == 0) ∨ (!reflex && ceiling != 0) then some 0x2DA
  else if taskSpace o < foot + q * scratch then some 0x2DB
  else if ¬ rectOk w.rect then some 0x2DC
  else if ¬ (rectTiles w.rect).all (fun x => s.usable t x) then some 0x2DD
  else none

/-- A launch's initial NUMCTL (R56, R45, R51). -/
def WorkIn.numctl (w : WorkIn) : Dword :=
  let det := if w.mode = 2 then 0x50 else 0
  BitVec.ofNat 64 ((fldB w.h 0x1E 2 % 64 ||| det) + fldB w.h 0x1C 2 % 128 * 256 + fldB w.p 0x12 1 * 2 ^ 24)

/-- The launch that a packet and header describe. -/
def WorkIn.launch (w : WorkIn) (key tenant : Nat) (lid : BitVec 32) (queue : Option Nat) (root cap : Nat) (memb : BitVec 512) : Launch :=
  let p := w.p
  let h := w.h
  { key := key, tenant := tenant, lid := lid, queue := queue, root := root, prio := min (fldB p 0x11 1) cap, mode := w.mode,
    digest := bitOf (fldB p 2 2) 1, taskCount := fldB p 4 4, hdr := BitVec.ofNat 48 (fldB p 8 8), quota := w.quota,
    job := fldB p 0x14 2, phase := fldB p 0x16 2, graph := fldB p 0x18 2, rect := w.rect,
    arg := BitVec.ofNat 64 (fldB p 0x20 8), s5 := BitVec.ofNat 64 (fldB p 0x28 8), s6 := BitVec.ofNat 64 (fldB p 0x30 8),
    s7 := BitVec.ofNat 64 (fldB p 0x38 8),
    od := (List.range 8).map (fun i => (i, BitVec.ofNat 64 (fldB p (0x40 + 8 * i) 8))),
    foot := fldB h 0x10 4, scratch := fldB h 0x14 4, entry := fldB h 0x24 4, trapOff := fldB h 0x18 4,
    gCount := fldB h 8 1, vCount := fldB h 9 1, odCount := fldB h 0xA 1, numctl := w.numctl,
    roles := w.roles.map (fun r => (fldB r 0 4, fldB r 4 1)),
    regions := w.regions.map (fun r => (BitVec.ofNat 64 (fldB r 0 8), fldB r 8 6, bitOf (fldB r 14 1) 0)),
    ceiling := fldB h 0x2C 4, hash := BitVec.ofNat 128 (fldB h 0x30 16), memb := memb, next := 0, closed := false, lastTile := none,
    again := [], reserved := false, dropped := false, reset := false, cancelled := false, failed := false, faulted := false,
    nrec := 0, digestParked := false, digestAt := (0, 0), digestRead := [], dig := none, stuckSince := none, stallSince := none, stallLogged := false }

/-! ### Level instances (R42, R406, R407) -/

/-- The live instance of a level: 2 graph, 3 phase, 4 job. -/
def State.inst? (s : State) (t kind id : Nat) : Option Inst :=
  s.insts.find? (fun i => i.tenant == t && i.kind == kind && i.id == id)
def State.setInst (s : State) (x : Inst) : State :=
  { s with insts := s.insts.map (fun i => if i.tenant = x.tenant ∧ i.kind = x.kind ∧ i.id = x.id then x else i) }
/-- An instance opened by the first work that arrives for it; work that names it under another parent later does not move it (log entry 99). -/
def State.openInst (s : State) (t kind id parent : Nat) : State :=
  match s.inst? t kind id with
  | some _ => s
  | none => { s with insts := s.insts ++ [⟨t, kind, id, parent, false, false, 0, false, false, false, 0, []⟩] }
/-- The kept status of a completed instance. -/
def State.done? (s : State) (t kind id : Nat) : Option Done :=
  s.dones.find? (fun i => i.tenant == t && i.kind == kind && i.id == id)

/-- Live launches of a tenant: those neither completed nor cancelled (R115). -/
def State.liveOf (s : State) (t : Nat) : Bool := s.launches.any (fun l => l.tenant == t && !l.cancelled)

/-- The packet names a level instance that has already completed (R42); the cause and its place in the order are the model's (log entry 99). -/
def State.gone (s : State) (t p : Nat) : Bool :=
  let f := fun k id => (s.inst? t k id).isNone && s.ended.contains (t, k, id)
  f 4 (fldB p 0x14 2) || f 3 (fldB p 0x16 2) || f 2 (fldB p 0x18 2)

/-- FrontEndAccept (R54, R114, R115, R126): a launch, or the cause of its rejection. -/
def State.accept (s : State) (va t : Nat) (queue : Option Nat) (root cap : Nat) : State × Except Nat Launch :=
  if (s.feRead t va 128).2.any (s.gone t) then ((s.feRead t va 128).1, .error 0x2D0)
  else
    match s.readWork t va with
    | (s, none) => (s, .error 0x2DE)
    | (s, some w) =>
      match s.workCause t w with
      | some c => (s, .error c)
      | none =>
        let tn := s.tenant t
        let l := w.launch s.fresh t (tn.lastLid + 1) queue root cap tn.memb
        if 4096 ≤ (s.launches.filter (fun x => !x.cancelled)).length then (s, .error 0x2E0)
        else
          let s := (((s.setTenant t { tn with lastLid := l.lid }).openInst t 4 l.job 0).openInst t 3 l.phase l.job).openInst t 2 l.graph l.phase
          ({ s with fresh := s.fresh + 1, launches := s.launches ++ [l] }, .ok l)

/-! ### Cancellation (R391, R403, R87) -/

/-- One record for each resident task that a cancellation kills (R391). -/
def State.recordKills (s : State) (l : Launch) (cause : Nat) : State :=
  (s.tasks.filter (fun t => t.launch == l.key && !t.killing)).foldl (fun s t =>
    s.record { cause := cause, sev := 3, engine := engineId 5 0x1D8 0, tenant := some l.tenant, ctx := t.slots.headD 0,
               launch := s.launch? l.key, task := t.index }) s

/-- A live launch cancelled: its unplaced tasks discarded and its resident ones killed. -/
def State.cancelLaunch (s : State) (l : Launch) (cause : Nat) : State := (s.recordKills l cause).killLaunch l.key 0

/-- Whether a launch lies in an instance. -/
def Launch.under (l : Launch) (kind id : Nat) : Bool :=
  (kind == 2 && l.graph == id) || (kind == 3 && l.phase == id) || (kind == 4 && l.job == id)

/-- The instances beneath and including one: they are closed and cancelled. -/
def State.cancelInsts (s : State) (t kind id : Nat) : State :=
  let hit := fun (i : Inst) => i.tenant == t && ((i.kind == kind && i.id == id) || (i.kind + 1 == kind && i.parent == id) ||
    (i.kind + 2 == kind && (match s.inst? t 3 i.parent with
      | some p => p.parent == id
      | none => false)))
  { s with insts := s.insts.map (fun i => if hit i then { i with closed := true, cancelled := true } else i) }

/-- CANCEL and QCANCEL of a kind and ID in a tenant: `none` when no live instance has that ID; one that has been cancelled is no longer live
(R115, log entry 106). -/
def State.cancel (s : State) (t kind id cause : Nat) : Option State :=
  if kind = 1 then
    (s.launches.find? (fun l => l.tenant == t && l.lid.toNat == id && !l.cancelled)).map (fun l => s.cancelLaunch l cause)
  else
    ((s.inst? t kind id).filter (fun i => !i.cancelled)).map (fun _ =>
      (s.launches.filter (fun l => l.tenant == t && l.under kind id)).foldl (fun s l => s.cancelLaunch l cause) (s.cancelInsts t kind id))

/-! ### Placement (R116 to R123) -/

/-- Bytes of a task's run (R117). -/
def Launch.per (l : Launch) : Nat := l.foot + l.quota * l.scratch

/-- A task holds a slot of a tile. -/
def State.slotTaken (s : State) (tile slot : Nat) : Bool := s.tasks.any (fun t => t.tile == tile && t.slots.contains slot)
/-- Runs of a tile's local store that are held: those of resident tasks, and those pinned by a quantum switch (R402). -/
def State.runs (s : State) (tile : Nat) : List (Nat × Nat) :=
  let size := fun (t : Task) => match s.launch? t.launch with
    | some l => l.per
    | none => 0
  (s.tasks.filter (fun t => t.tile == tile)).map (fun t => (t.base, size t)) ++
    (s.saved.filter (fun v => v.task.tile == tile && v.quantum)).map (fun v => (v.task.base, size v.task))
/-- A run is free of every held run. -/
def runFree (runs : List (Nat × Nat)) (a n : Nat) : Bool := runs.all (fun r => !overlap a n r.1 r.2)
/-- The lowest free run of n bytes: it starts at 0 or where a held run ends, rounded up to 64. -/
def lowestRun (runs : List (Nat × Nat)) (n space : Nat) : Option Nat :=
  let starts := 0 :: runs.map (fun r => (r.1 + r.2 + 63) / 64 * 64)
  (starts.filter (fun a => decide (a + n ≤ space) && runFree runs a n)).foldl
    (fun m a => match m with
      | some b => some (min a b)
      | none => some a) none

/-- The launch that holds a tile's deterministic reservation (R122). -/
def State.reservedBy (s : State) (tile : Nat) : Option Nat :=
  (s.launches.find? (fun l => l.mode == 2 && l.reserved && inRect l.rect tile)).map (·.key)

/-- The index of a launch's next task: a reset task first, then the counter (R116, R399). -/
def Launch.nextTask (l : Launch) : Option Nat :=
  match l.again with
  | i :: _ => some i
  | [] => if l.next < l.taskCount ∧ ¬ l.closed then some l.next else none

/-- Rung 1 holds a launch's tasks out of the contested set (R399), but not those of the launch that the ladder runs for (R125). -/
def State.drained (s : State) (l : Launch) (tile : Nat) : Bool :=
  match (s.queue l.root).ladder with
  | some d =>
    match d.launch with
    | none => true
    | some k => k != l.key && (match s.launch? k with
      | some c => inRect c.rect tile
      | none => false)
  | none => false

/-- A tile's eligibility for a plain or pack launch, with its slots and run (R117). -/
def State.eligible (s : State) (l : Launch) (tile : Nat) : Option (List Nat × Nat) :=
  let free := (List.range 8).filter (fun k => !s.slotTaken tile k)
  if s.seized tile ∨ (s.reservedBy tile).isSome ∨ free.length < l.quota ∨ s.drained l tile then none
  else (lowestRun (s.runs tile) l.per (taskSpace tile)).map (fun a => (free.take l.quota, a))

/-- The placement set in scan order: from the tile after the last one used (R117). -/
def Launch.scan (l : Launch) : List Nat :=
  let ts := rectTiles l.rect
  match l.lastTile with
  | none => ts
  | some x => ts.dropWhile (· != x) |>.drop 1 |>.append (ts.takeWhile (· != x) ++ [x])

/-- The groups of contexts on a tile of a deterministic launch: P of R123. -/
def detGroups (l : Launch) : Nat :=
  if l.per = 0 then 8 / l.quota else min (8 / l.quota) (taskSpace ((rectTiles l.rect).headD 0) / l.per)

/-- Where task i of a deterministic launch goes (R123); in R444's row on more tasks than tiles the second group's slots are not those of the
kernel's BREADs (log entry 119). -/
def detSpot (l : Launch) (i : Nat) : Nat × List Nat × Nat :=
  let ts := rectTiles l.rect
  let g := i / ts.length % detGroups l
  (ts.getD (i % ts.length) 0, (List.range l.quota).map (fun k => g * l.quota + k), g * l.per)

/-- Tile, slots and run for a launch's next task, when it can be placed now. -/
def State.spot (s : State) (l : Launch) : Option (Nat × List Nat × Nat) :=
  match l.nextTask with
  | none => none
  | some i =>
    if l.mode = 2 then
      let (tile, slots, base) := detSpot l i
      let other : Task → Bool := fun t => inRect l.rect t.tile && t.launch != l.key
      let others := s.tasks.any other || s.saved.any (fun v => v.quantum && other v.task)
      let saved := s.saved.any (fun v => v.task.launch == l.key && v.task.tile == tile && v.task.slots.any slots.contains)
      if ¬ l.reserved ∨ (i = 0 ∧ others) ∨ slots.any (fun k => s.slotTaken tile k) ∨ saved ∨
          ¬ runFree (s.runs tile) base l.per ∨ s.seized tile ∨ s.drained l tile then none
      else some (tile, slots, base)
    else l.scan.findSome? (fun x => (s.eligible l x).map (fun p => (x, p.1, p.2)))

/-- The launch whose task is placed next: the highest priority, then the oldest, whose next task fits (R116). -/
def State.placeNext (s : State) : Option Launch :=
  s.launches.foldl (fun best l =>
    match s.spot l, best with
    | none, b => b
    | some _, none => some l
    | some _, some b => if b.prio < l.prio then some l else some b) none

/-- QUANTUM.LEN for a launch's contexts (R402). -/
def State.quantOf (s : State) (l : Launch) : BitVec 32 := (s.queue l.root).quant

/-- Seeds of R56 for a lane. -/
def taskSeeds (l : Launch) (index lane : Nat) (g5 : Dword) : Tbl Dword :=
  [(1, BitVec.ofNat 64 index), (2, BitVec.ofNat 64 lane), (3, l.arg), (4, l.lid.setWidth 64), (5, g5), (6, l.s6), (7, l.s7)]

/-- A lane of a task seeded into bank 0 of its slot; the notices of its launch that the slot's ports hold stay (R326). -/
def State.seedLane (s : State) (l : Launch) (t : Task) (lane slot : Nat) (pc : Va) (g5 : Dword) : State :=
  let r : BankRef := ⟨t.tile, slot, 0⟩
  s.seat r { seedBank l (s.quantOf l) lane t.index t.base t.id 0 pc (taskSeeds l t.index lane g5) with
    notices := (s.bank r).notices.filter (fun n => n.2.2 == l.key) }

/-- The entry of a launch's kernel. -/
def Launch.entryPc (l : Launch) : Va := l.hdr + BitVec.ofNat 48 l.entry

/-- Every lane of a task seeded, lanes in the order of its slots (R118). -/
def seedLanes (l : Launch) (t : Task) : Nat → List Nat → State → State
  | _, [], s => s
  | lane, k :: ks, s => seedLanes l t (lane + 1) ks (s.seedLane l t lane k l.entryPc l.s5)

/-! ### Completion counters (R42, R129) -/

/-- A lane of a task is live: seeded in bank 0 and not exited. -/
def State.laneLive (s : State) (t : Task) (slot : Nat) : Bool :=
  let b := s.bank ⟨t.tile, slot, 0⟩
  b.seeded && b.task == t.id && b.kind == 0
/-- An armed or active reflex slot of a task. -/
def State.reflexHeld (s : State) (t : Task) (slot : Nat) : Bool :=
  let x := (s.ctx t.tile slot).reflex
  (x.armed || x.active) && (match x.preset with
    | some p => p.task == t.id
    | none => false)
/-- A burst handler of a task runs in a slot. -/
def State.handlerLive (s : State) (t : Task) (slot : Nat) : Bool :=
  let b := s.bank ⟨t.tile, slot, 0⟩
  b.seeded && b.task == t.id && b.kind == 1

/-- Engine commands in a tile that count against a task: those of its own threads, and those of the leash code that it seized the tile
for (R42, R379). -/
def Tile.owed (x : Tile) (id : Nat) : Nat :=
  (x.bte.filter (fun c => c.task == id)).length + (x.breads.filter (fun c => c.task == id)).length +
    (x.reds.filter (fun c => c.task == id)).length + ((x.mx.tq ++ x.mx.lq).filter (fun c => c.task == id)).length

/-- Entries of the BTE's 16-entry queue that are occupied (R270). -/
def Tile.bteUsed (t : Tile) : Nat := t.bte.length + t.breads.length

/-- Read requests of a BTE that are outstanding (R270): chunks whose read waits for a page, and bursts whose data have not returned. -/
def Tile.reading (t : Tile) : Nat :=
  t.bte.foldl (fun n c => n + c.parked.length) 0 + t.breads.foldl (fun n c => n + (c.bursts.filter (·.data.isNone)).length) 0

/-- The completion counter of a task (R42). -/
def State.obligations (s : State) (t : Task) : Nat :=
  (t.slots.filter (fun k => s.laneLive t k || s.handlerLive t k)).length + (t.slots.filter (s.reflexHeld t)).length +
    (s.tiles.foldl (fun n y => n + y.2.owed t.id) 0) +
    (s.mailboxes.foldl (fun n m => n + (m.2.pubs.filter (fun p => p.task == t.id)).length) 0) +
    (s.tiles.filter (fun y => y.2.seize.st != 0 && y.2.seize.task == t.id)).length +
    (s.net.filter (fun m => match m with
      | .seize _ z => z.task == t.id
      | _ => false)).length

end Sys2Proof.Machine
end

