-- ==== Sys2Proof/Machine/Sys.lean ====
section
/-! DEFINITION. CSR instructions, TIME, RPT and the SYS instructions (R144 to R153, R386 to R391). -/

namespace Sys2Proof.Machine

/-! ### Shared operations -/

/-- A scalar result that is there at once, and the end of the instruction. -/
def ret (d : BitVec 5) (x : Dword) (s : State) : Out := .next (s.setMe (s.me.wg d.toNat x)).retire

/-- A precise trap of a parked instruction that its unit refuses: the PC returns to it, and it does not count. -/
def State.refuse (s : State) (r : BankRef) (i : TrapInfo) : State :=
  let b := s.bank r
  let b := { b with wait := none, pc := b.waitPc, fbuf := [], counted := true }
  (s.setBank r b).takeTrap r i b.waitPc

/-! ### CSRs (R144 to R146, R153, R161, R383, R381, R354) -/

/-- TSTAT (R145). -/
def tstat (r : BankRef) (b : Bank) : Nat :=
  r.bank + 2 * b2n (isXa r.tile) + 4 * b.kind + 16 * b2n b.pack + 32 * b2n b.det + 64 * b.prio + 1024 * b2n b.rpt.frozen

/-- RPTSTAT (R153). -/
def rptstat (f : RptFrame) : Nat :=
  f.left.toNat + f.idx * 2 ^ 32 + f.nm1 * 2 ^ 36 + 2 ^ 40 * b2n f.act + 2 ^ 41 * b2n f.frozen + f.sd * 2 ^ 42 + f.sa * 2 ^ 45 +
    f.sb * 2 ^ 48 + f.jmod * 2 ^ 51

/-- TRAPSAVE (R383). -/
def trapsave (t : TrapCsrs) : Nat := b2n t.inh + 2 * b2n t.dfr + 4 * b2n t.win

/-- DETMODE (R145). -/
def detmode (s : State) (r : BankRef) (b : Bank) : Nat :=
  match s.reservedBy r.tile with
  | none => 0
  | some k => 1 + 2 * b2n (match s.launchOf b with
    | some l => l.key == k
    | none => false)

/-- A CSR as a thread's bank shows it; `none` is an unassigned number (R144). -/
def State.csr (s : State) (r : BankRef) (n : Nat) : Option Dword :=
  let b := s.bank r
  let w := fun (x : Nat) => some (BitVec.ofNat 64 x)
  match n with
  | 0x000 => some b.numctl
  | 0x001 => w (tstat r b)
  | 0x002 => w b.lane
  | 0x003 => w (r.slot + b.tenant * 2 ^ 16)
  | 0x004 => w r.tile
  | 0x005 => w (b.taskIndex + b.fbase * 2 ^ 32)
  | 0x006 => some (b.lid.setWidth 64)
  | 0x007 => w b.quota
  | 0x008 => w (vlBits r.tile)
  | 0x009 => w (rptstat b.rpt)
  | 0x010 => some (b.trap.pc.setWidth 64)
  | 0x011 => some (b.trap.cause.setWidth 64)
  | 0x012 => some b.trap.addr
  | 0x013 => some b.trap.val
  | 0x014 => some (b.trap.vec.setWidth 64)
  | 0x015 => w (trapsave b.trap)
  | 0x020 => some b.tree
  | 0x021 => w (b.seizeCount + b.seizeCyc * 2 ^ 16)
  | 0x030 => some b.icount
  | 0x031 => w (b.quantLeft.toNat + b.quantLen.toNat * 2 ^ 32)
  | 0x040 => w (detmode s r b)
  | _ =>
    if 0x080 ≤ n ∧ n < 0x088 then some (tget 0 s.boot.negotiated (n - 0x080))
    else if 0x100 ≤ n ∧ n < 0x108 then some (b.rod (n - 0x100))
    else none

/-- The CSRs that a thread may write: NUMCTL, TRAPPC and TRAPVEC (R144, R383). -/
def csrWritable (n : Nat) : Bool := n == 0x000 || n == 0x010 || n == 0x014

/-- A writable CSR with a new value; read-only and reserved bits keep theirs (R147, R161, R383). -/
def Bank.setCsr (b : Bank) (n : Nat) (x : Dword) : Bank :=
  match n with
  | 0x000 => { b with numctl := numctlWrite b.numctl x }
  | 0x010 => { b with trap := { b.trap with pc := x.setWidth 48 &&& ~~~1 } }
  | 0x014 => { b with trap := { b.trap with vec := x.setWidth 48 &&& ~~~1 } }
  | _ => b

/-- The effect of R147: the old value to g[D], and a new value when the instruction writes. -/
def csrOp (d : BitVec 5) (c : BitVec 12) (writes : Bool) (f : Dword → Dword) (s : State) : Out :=
  match s.csr s.curRef c.toNat with
  | none => insTrap 0x00A s
  | some old =>
    if ¬ writes then done d.toNat 2 old s
    else if ¬ csrWritable c.toNat then insTrap 0x00A s
    else if c.toNat = 0 ∧ 6 ≤ dfld (f old) 2 0 then insTrap 0x006 s
    else done d.toNat 2 old (s.setMe (s.me.setCsr c.toNat (f old)))

def execCsrrd (d : BitVec 5) (c : BitVec 12) (s : State) : Out := csrOp d c false id s
def execCsrwr (d a : BitVec 5) (c : BitVec 12) (s : State) : Out := csrOp d c true (fun _ => s.rg a) s
def execCsrset (d a : BitVec 5) (c : BitVec 12) (s : State) : Out := csrOp d c (a != 0) (fun o => o ||| s.rg a) s
def execCsrclr (d a : BitVec 5) (c : BitVec 12) (s : State) : Out := csrOp d c (a != 0) (fun o => o &&& ~~~(s.rg a)) s

/-- TIME reads the DTB (R148). -/
def execTime (d : BitVec 5) (s : State) : Out := done d.toNat 2 s.dtb s

/-! ### RPT (R149 to R153) -/

/-- RPT: a frame of n instructions for g[A][31:0] passes; no pass skips the body, and a frozen frame refuses a second one. A
skipped body closes windows as a taken transfer does, and a frame that begins does not (R64, log entry 18). -/
def execRpt (a n : BitVec 5) (x y z : BitVec 3) (s : State) : Out :=
  let c := (s.rg a).setWidth 32
  let pc := s.me.pc
  if s.me.rpt.frozen then insTrap 0x009 s
  else if c = (0 : BitVec 32) then .next (s.jump (pc + 4 + BitVec.ofNat 48 (4 * (n.toNat + 1))))
  else
    let s := s.issued
    let q := s.loadBody s.curRef (n.toNat + 1) (pc + 4)
    .next ((q.1.setMe { q.1.me with
      fbuf := [], rpt := ⟨true, false, pc, c, 0, n.toNat, x.toNat, y.toNat, z.toNat, 0, q.2⟩ }).settle s.curRef)

/-! ### SYS (R386 to R391) -/

/-- TRAP raises 0x3C0 + n with PC + 4 (R388). -/
def execTrap (n : BitVec 6) (s : State) : Out :=
  .next (s.unscoped.takeTrap s.curRef ⟨0x3C0 + n.toNat, 0, 0⟩ (s.me.pc + 4))

/-- EBRK raises 0x3F0 with n in TRAPVAL and PC + 4, or halts under debug (R388, R392). -/
def execEbrk (n : BitVec 6) (s : State) : Out :=
  .next (s.unscoped.takeTrap s.curRef ⟨ebrkCause, 0, n.setWidth 64⟩ (s.me.pc + 4))

/-- ERET (R389): it resumes at TRAPPC, and a frozen frame goes on when that is its next replay (R152). -/
def execEret (s : State) : Out :=
  let b := s.me
  if ¬ b.trap.inh then insTrap 0x00A s
  else
    let t := b.trap.pc
    let back := b.rpt.frozen && b.rpt.act && t == b.rpt.base + 4 + BitVec.ofNat 48 (4 * b.rpt.idx)
    .next ((s.setMe { b with
      trap := { b.trap with inh := false },
      rpt := { b.rpt with frozen := b.rpt.frozen && !back } }).jump t)

/-- The byte locations of ATTEST's buffer: 4 KiB of translated DRAM, 64-byte aligned and writable (R390). -/
def State.attestBuffer (s : State) (r : BankRef) (va : Nat) : State × Except (Option Nat × Nat) (List (Nat × Nat)) :=
  if va % 64 ≠ 0 ∨ ¬ isTrans va then (s, .error (some 0x3F3, va))
  else
    match s.runLocs ((s.bank r).req r.tile) 1 65 va 4096 [] with
    | (s, .ok l) => if l.all (fun p => isDramLoc p.1) then (s, .ok l) else (s, .error (some 0x3F3, va))
    | x => x

/-- HFCALL (R390): the checks at issue, the release at .dv, and the wait for the reply. -/
def execHfcall (d a : BitVec 5) (n : BitVec 6) (s : State) : Out :=
  let b := s.me
  let x := s.rg a
  let call := fun (s : State) => fenceGate s fun s => .next ((s.drain s.curRef 4).park (.hfcall n.toNat d.toNat x))
  if 2 ≤ b.kind then insTrap 0x00A s
  else if 3 ≤ n.toNat ∧ ¬ Config.serviceDefined (tget 0 s.boot.negotiated 3).toNat n.toNat then trap 0x3F1 s
  else if Config.serviceRefused b.tenant n.toNat then trap 0x3F2 s
  else
    match n.toNat with
    | 0 => if x ≠ 0 then trap 0x3F3 s else call s
    | 2 =>
      match s.attestBuffer s.curRef x.toNat with
      | (s, .ok _) => call s
      | (s, .error (some _, _)) => trapAt 0x3F3 x 0 s
      | (s, .error (none, va)) => parkPage va 1 s
    | _ => call s

/-- CANCEL (R391): the request is accepted at once, and a task that lies in the instance does not issue again. -/
def execCancel (d a : BitVec 5) (n : BitVec 6) (s : State) : Out :=
  let b := s.me
  let x := s.rg a
  let k := n.toNat
  if 2 ≤ b.kind then insTrap 0x00A s
  else if (if k = 1 then 2 ^ 32 else 2 ^ 16) ≤ x.toNat then trap 0x309 s
  else fenceGate s fun s =>
    let s := s.drain s.curRef 4
    match s.cancel b.tenant k x.toNat 0x307 with
    | some s => ret d 0 s
    | none => ret d 1 s

end Sys2Proof.Machine
end

