-- ==== Sys2Proof/Machine/Atomic.lean ====
section
/-! DEFINITION. Atomic operations and reservations at the owning bank, and the retry of a refused wait (R259, R342 to R344, R356). -/

namespace Sys2Proof.Machine

/-! ### Tables and queues of a word -/

/-- The location of an ATOM's word: local-store words and XA shared SRAM doublewords only (R343). -/
def atomLoc (q : Req) (va : Nat) : Option Nat :=
  match region va with
  | .mbm _ => none
  | .trans _ => none
  | r => regionLoc q r

/-- The reservations of the table that owns a word. -/
def State.resvTable (s : State) (loc : Nat) : List Resv := if isLsLoc loc then (s.tile (locTile loc)).resv else s.xaResv
def State.setResv (s : State) (loc : Nat) (x : List Resv) : State :=
  if isLsLoc loc then s.setTile (locTile loc) { s.tile (locTile loc) with resv := x } else { s with xaResv := x }
/-- The wait list that serves a word. -/
def State.waitTable (s : State) (loc : Nat) : List WaitEnt := if isLsLoc loc then (s.tile (locTile loc)).waits else s.xaWaits
def State.setWaits (s : State) (loc : Nat) (x : List WaitEnt) : State :=
  if isLsLoc loc then s.setTile (locTile loc) { s.tile (locTile loc) with waits := x } else { s with xaWaits := x }

/-- Who has a word reserved. -/
def State.holder (s : State) (loc : Nat) : Option BankRef := ((s.resvTable loc).find? (fun x => x.loc == loc)).map (·.who)
/-- Every reservation that a bank holds. -/
def State.resvOf (s : State) (r : BankRef) : List Resv :=
  (s.tiles.flatMap (fun t => t.2.resv.filter (fun x => x.who == r))) ++ s.xaResv.filter (fun x => x.who == r)

/-- The word that CAS, SWAP or FADD leaves. -/
def atomWord (minor : Nat) (old exp v : Dword) : Dword :=
  match minor with
  | 3 => if old = exp then v else old
  | 4 => v
  | _ => old + v

/-- The error of a reservation's word that cannot be read (R343, R425). -/
def State.wordErr (s : State) (r : BankRef) (loc : Nat) : State × Option TrapInfo := s.poisonErr r (BitVec.ofNat 64 (locOff loc)) [(loc, 8)]

/-- CAS, SWAP or FADD performed at the bank: the state, the old value, and the error of a word that cannot be read, which stays as it is (R343). -/
def State.atomAct (s : State) (r : BankRef) (minor loc : Nat) (exp v : Dword) : State × Dword × Option TrapInfo :=
  let old := BitVec.ofNat 64 (s.load loc 8)
  let s := s.traceThread r loc 8 3
  match s.wordErr r loc with
  | (s, some e) => (s, 0, some e)
  | (s, none) => (s.store loc 8 (atomWord minor old exp v).toNat, old, none)

/-- A waiter on a reservation queue: minor, register, operands, window. -/
def resvWait (s : State) (w : WaitEnt) : Option (Nat × Nat × Dword × Dword × Nat) :=
  match (s.bank w.who).wait with
  | some (.resv loc minor reg exp val win true) => if loc = w.loc then some (minor, reg, exp, val, win) else none
  | _ => none

/-- The head of a word's reservation queue. -/
def firstResv (s : State) (loc : Nat) : Option (BankRef × Nat × Nat × Dword × Dword × Nat) :=
  (s.waitTable loc).findSome? (fun w => if w.loc = loc then (resvWait s w).map (fun x => (w.who, x)) else none)

/-- A parked CAS, SWAP or FADD is performed and its thread goes on (R344). -/
def State.atomWake (s : State) (r : BankRef) (minor loc : Nat) (exp v : Dword) (win : Nat) : State :=
  let q := s.atomAct r minor loc exp v
  (q.1.resultReady r win (q.2.1.setWidth 1024) q.2.2 0).wake r .none 0

/-- A bank is granted a word's reservation, and the word is read for it. -/
def State.grant (s : State) (r : BankRef) (loc : Nat) : State := (s.setResv loc (s.resvTable loc ++ [⟨loc, r⟩])).traceThread r loc 8 3

/-- A parked ARSV is granted its reservation and goes on with the word's value. -/
def State.grantWake (s : State) (r : BankRef) (loc reg : Nat) : State :=
  match (s.grant r loc).wordErr r loc with
  | (s, some e) => s.wakeErr r e
  | (s, none) => s.wake r (.g reg) (BitVec.ofNat 1024 (s.load loc 8))

/-- Pass (R344): the queue of an unreserved word is served from its head, at most `fuel` waiters. -/
def passWord (loc : Nat) : Nat → State → State
  | 0, s => s
  | n + 1, s =>
    match firstResv s loc with
    | none => s
    | some (who, minor, reg, exp, val, win) =>
      let s := s.setWaits loc (dropWaiter who (s.waitTable loc))
      if minor = 0 then s.grantWake who loc reg
      else passWord loc n (s.atomWake who minor loc exp val win)

/-- A reservation given up, and the word's queue served. -/
def State.passOn (s : State) (r : BankRef) (loc : Nat) : State :=
  let s := s.setResv loc ((s.resvTable loc).filter (fun x => !(x.loc == loc && x.who == r)))
  passWord loc ((s.waitTable loc).length + 1) s

/-- A bank's reservation cancelled as by ARCN, with its record (R356). -/
def State.cancelResv (s : State) (r : BankRef) : State :=
  (s.resvOf r).foldl (fun s x => (s.record (s.threadRec r 0x285 2 (engineId 0 r.tile 0) none 0)).passOn r x.loc) s

/-- Every wait-list entry of a bank withdrawn (R260, R356). -/
def State.withdraw (s : State) (r : BankRef) : State :=
  { s with
    tiles := s.tiles.map (fun t => (t.1, { t.2 with waits := t.2.waits.filter (fun w => w.who != r) }))
    xaWaits := s.xaWaits.filter (fun w => w.who != r) }

/-! ### ATOM (R342 to R344) -/

/-- The address checks of R343 and the word's location. -/
def atomAt (va : Dword) (s : State) (f : Nat → State → Out) : Out :=
  gate s fun s =>
    match s.checkMap s.req va.toNat 8 1 with
    | some c => trapAt c va 0 s
    | none =>
      match atomLoc s.req va.toNat with
      | none => trapAt 0x281 va 0 s
      | some loc => f loc (s.drainOverlap s.curRef [⟨loc, 8, 0⟩])

/-- A thread parked in a reservation queue, or refused by a full list (R259, R344). -/
def State.queueResv (s : State) (loc minor reg : Nat) (exp val : Dword) (win : Nat) (room : Bool) : State :=
  let r := s.curRef
  let s := s.park (.resv loc minor reg exp val win room)
  if room then s.setWaits loc (s.waitTable loc ++ [⟨r, loc⟩]) else s

/-- The wait list of a word has a free entry. -/
def State.waitRoom (s : State) (loc : Nat) : Bool := decide ((s.waitTable loc).length < 64)

/-- ARSV: the reservation and the word, or a place in the queue; a full table retries. -/
def execArsv (d a : BitVec 5) (s : State) : Out :=
  atomAt (s.rg a) s fun loc s =>
    let r := s.curRef
    if ¬ (s.resvOf r).isEmpty then trapAt 0x282 (s.rg a) 0 s
    else if (s.holder loc).isSome then .next (s.queueResv loc 0 d.toNat 0 0 0 (s.waitRoom loc))
    else if 16 ≤ (s.resvTable loc).length then .next (s.queueResv loc 0 d.toNat 0 0 0 false)
    else
      let q := (s.grant r loc).wordErr r loc
      .next (q.1.finishLong 0 (.g d.toNat) (some (BitVec.ofNat 1024 (s.load loc 8))) q.2 0)

/-- ARLS and ARCN: the release, the write of ARLS, and Pass. -/
def atomRelease (a : BitVec 5) (v : Option Dword) (s : State) : Out :=
  atomAt (s.rg a) s fun loc s =>
    let r := s.curRef
    if s.holder loc ≠ some r then trapAt 0x282 (s.rg a) 0 s
    else rlxGate s fun s =>
      let s := s.drain r 4
      let s := match v with
        | some x => (s.store loc 8 x.toNat).traceThread r loc 8 3
        | none => s
      .next (s.retire.passOn r loc)

def execArls (a b : BitVec 5) (s : State) : Out := atomRelease a (some (s.rg b)) s
def execArcn (a : BitVec 5) (s : State) : Out := atomRelease a none s

/-- CAS, SWAP and FADD: performed at once, or in the queue of a word that another context has reserved. -/
def atomOp (minor : Nat) (d a b : BitVec 5) (k : BitVec 4) (s : State) : Out :=
  let exp := s.rg d
  let v := s.rg b
  atomAt (s.rg a) s fun loc s =>
    let r := s.curRef
    let other : Bool := match s.holder loc with
      | some w => w != r
      | none => false
    if other then
      let win := s.me.nextWin
      .next ((s.openWindow k.toNat (.g d.toNat) none none).queueResv loc minor 0 exp v win (s.waitRoom loc))
    else
      let q := s.atomAct r minor loc exp v
      .next (q.1.finishLong k.toNat (.g d.toNat) (some (q.2.1.setWidth 1024)) q.2.2 0)

def execCas (d a b : BitVec 5) (k : BitVec 4) (s : State) : Out := atomOp 3 d a b k s
def execSwap (d a b : BitVec 5) (k : BitVec 4) (s : State) : Out := atomOp 4 d a b k s
def execFadd (d a b : BitVec 5) (k : BitVec 4) (s : State) : Out := atomOp 5 d a b k s

/-! ### Retries (R259, R344) -/

/-- A refused wait's bank marked as admitted to its list. -/
def State.allowWait (s : State) (r : BankRef) (loc : Nat) (w : Wait) : State :=
  (s.setBank r { s.bank r with wait := some w }).setWaits loc (s.waitTable loc ++ [⟨r, loc⟩])

/-- WAIT_LIST_RETRY: a refused wait is sent again: it acts at once, is admitted, or is refused again. -/
def execWaitListRetry (tile slot bank : Nat) (s : State) : Out :=
  let r : BankRef := ⟨tile, slot, bank⟩
  match (s.bank r).wait with
  | some (.fe loc minor reg v false) =>
    match feAction minor loc v (s.traceThread r loc 8 2) with
    | some (x, next) =>
      match next.feErr r minor loc (BitVec.ofNat 64 (locOff loc)) with
      | (s, some e) => .next (s.wakeErr r e)
      | (s, none) => .next (s.wake r (.g reg) (x.setWidth 1024))
    | none => if s.waitRoom loc then .next (s.allowWait r loc (.fe loc minor reg v true)) else .next s
  | some (.resv loc minor reg exp val win false) =>
    if (s.holder loc).isSome then
      if s.waitRoom loc then .next (s.allowWait r loc (.resv loc minor reg exp val win true)) else .next s
    else if minor ≠ 0 then .next (s.atomWake r minor loc exp val win)
    else if 16 ≤ (s.resvTable loc).length then .next s
    else .next (s.grantWake r loc reg)
  | _ => .next s

end Sys2Proof.Machine
end

