-- ==== Sys2Proof/Machine/Thread.lean ====
section
/-! DEFINITION. SPAWN, EXIT, HEND, BQRY and DLAUNCH (R126 to R128, R295 to R297, R361). -/

namespace Sys2Proof.Machine

/-! ### SPAWN (R127) -/

/-- A slot of a tile is promised to a burst (R293). -/
def State.promised (s : State) (tile slot : Nat) : Bool :=
  (s.tile tile).breads.any (fun c => c.bursts.any (fun u => u.promised == some slot && u.born.isNone))

/-- A slot of a task is free for a birth (R292): its bank 0 is active, no lane is live and no handler runs in it. -/
def State.slotFree (s : State) (t : Task) (slot : Nat) : Bool :=
  s.resident t.id && t.slots.contains slot && (s.ctx t.tile slot).active == 0 && (s.ctx t.tile slot).switch.isNone && !t.killing &&
    !s.laneLive t slot && !s.handlerLive t slot

/-- A free slot of a task that is promised to no burst. -/
def State.opens (s : State) (t : Task) (slot : Nat) : Bool := s.slotFree t slot && !s.promised t.tile slot

/-- A queued burst put among others in the order of their return. -/
def insertQueued (x : Nat × BreadCmd) : List (Nat × BreadCmd) → List (Nat × BreadCmd)
  | [] => [x]
  | y :: ys => if x.1 < y.1 then x :: y :: ys else y :: insertQueued x ys

/-- The returned bursts in a tile's burst queue, oldest first, each by its BREAD. -/
def State.queuedBursts (s : State) (tile : Nat) : List (Nat × BreadCmd) :=
  ((s.tile tile).breads.flatMap (fun c =>
    (c.bursts.filter (fun u => u.queued.isSome && u.data.isSome && u.born.isNone)).map (fun u => (u.queued.getD 0, c)))).foldl
      (fun l x => insertQueued x l) []

/-- The slots of a tile that queued bursts take: the oldest first, each the lowest free slot of its POOL that no older one takes (R292, R293). -/
def State.taken (s : State) (tile : Nat) : List Nat :=
  (s.queuedBursts tile).foldl (fun used x =>
    match (s.task? x.2.task).bind (fun t => (List.range 8).find? (fun k => bitOf x.2.pool k && s.opens t k && !used.contains k)) with
    | some k => k :: used
    | none => used) []

/-- A returned burst in the burst queue takes a slot of a tile (R293). -/
def State.awaited (s : State) (tile slot : Nat) : Bool := (s.taken tile).contains slot

/-- The entry offset of a role of a kind. -/
def Launch.role (l : Launch) (r kind : Nat) : Option Nat :=
  match l.roles[r]? with
  | some (off, k) => if k = kind then some off else none
  | none => none

/-- A bank of a task's slot seeded for another thread of the task: the notices that its ports hold stay (R326). -/
def State.reseed (s : State) (r : BankRef) (b : Bank) : State := s.seat r { b with notices := (s.bank r).notices }

/-- SPAWN: the checks, the release, and lane l started in its own slot when it is free. A slot that a queued burst takes serves that burst from
the moment it became free (R293), so it answers 3 as it does from the birth on. -/
def execSpawn (d a b : BitVec 5) (s : State) : Out :=
  let x := s.rg a
  let me := s.me
  if isXa s.cur.1 ∨ me.kind ≠ 0 then insTrap 0x00A s
  else if 2 ^ 16 ≤ x.toNat then trap 0x2E1 s
  else
    match s.task? me.task, s.launchOf me with
    | some t, some l =>
      match l.role (dfld x 7 0) 1 with
      | none => trap 0x2E1 s
      | some off => fenceGate s fun s =>
        let g5 := s.rg b
        let lane := dfld x 15 8
        let s := s.drain s.curRef 1
        match t.slots[lane]? with
        | none => ret d 2 s
        | some slot =>
          if s.laneLive t slot then ret d 1 s
          else if s.handlerLive t slot ∨ s.promised t.tile slot ∨ s.awaited t.tile slot then ret d 3 s
          else
            let r : BankRef := ⟨t.tile, slot, 0⟩
            let k := seedBank l (s.quantOf l) lane t.index t.base t.id 0 (l.hdr + BitVec.ofNat 48 off) (taskSeeds l t.index lane g5)
            ret d 0 (s.reseed r k)
    | _, _ => trap 0x2E1 s

/-! ### EXIT (R128, R361) -/

/-- Steps 1 and 2 of R128: open windows are discarded and the outstanding relaxed accesses performed; the ports are unbound (R330). -/
def State.leave (s : State) (r : BankRef) : State :=
  let b := s.bank r
  (performList r b.rlx (s.setBank r { b with wins := [], wait := none })).unbindAll r

/-- EXIT: a lane stops being live; an activation ends; a handler and leash code trap; a reservation is cancelled (R356). -/
def exitThread (s : State) : Out :=
  let r := s.curRef
  let k := s.me.kind
  if k = 1 ∨ k = 2 then insTrap 0x00A s
  else rlxGate s fun s =>
    let s := (s.issued.leave r).cancelResv r
    if k = 3 then .next (s.endActivation r.tile r.slot)
    else .next (s.setBank r { s.bank r with seeded := false })

def execExit (s : State) : Out := exitThread s
/-- C.EXIT is EXIT (R70). -/
def execCExit (s : State) : Out := exitThread s

/-! ### HEND (R296) -/

/-- The end of a burst handler: its sticky flags join the BREAD's, its burst is ENDED, and its slot is free. -/
def State.endHandler (s : State) (r : BankRef) : State :=
  let b := s.bank r
  let s := (s.setBank r { b with seeded := false, wait := none, burst := none }).cancelResv r
  match b.burst with
  | none => s
  | some (id, ix) =>
    let t := s.tile r.tile
    s.setTile r.tile { t with breads := t.breads.map (fun c =>
      if c.id = id then { c with
        flags := c.flags ||| b.numctl.extractLsb' 16 7, counted := c.counted + 1, bursts := c.bursts.filter (fun u => u.ix != ix) }
      else c) }

/-- The scope of the BREAD that a handler serves. -/
def State.handlerScope (s : State) (r : BankRef) : Nat :=
  match (s.bank r).burst with
  | none => 1
  | some (id, _) => match (s.tile r.tile).breads.find? (fun c => c.id == id) with
    | some c => c.scope
    | none => 1

/-- HEND: windows are discarded, the EFENCE waits for the thread's accesses and engine commands, and the handler ends. -/
def endThread (s : State) : Out :=
  let r := s.curRef
  if s.me.kind ≠ 1 then insTrap 0x00A s
  else rlxGate s fun s =>
    let sc := s.handlerScope r
    let b := s.me
    let s := (s.setMe { b with wins := [] })
    let s := (performList r b.rlx s)
    if s.engineBusy r then .next (s.park (.efence sc true)) else .next (s.issued.endHandler r)

def execHend (s : State) : Out := endThread s
/-- C.HEND is HEND (R70). -/
def execCHend (s : State) : Out := endThread s

/-! ### BQRY (R297) -/

/-- A mask of slots. -/
def slotMask (p : Nat → Bool) : Nat := ((List.range 8).filter p).foldl (fun m k => m + 2 ^ k) 0

/-- Entries of a tile's burst queue that hold a returned burst (R293). -/
def State.burstQueue (s : State) (tile : Nat) : Nat :=
  (s.tile tile).breads.foldl (fun n c => n + c.queuedBursts) 0

/-- BQRY. -/
def execBqry (d : BitVec 5) (s : State) : Out :=
  let tile := s.cur.1
  match s.task? s.me.task with
  | none => ret d 0 s
  | some t =>
    let mine := ((s.tile tile).breads.filter (fun c => c.task == t.id)).length
    let x := s.burstQueue tile + slotMask (fun k => t.tile == tile && s.handlerLive t k) * 2 ^ 8 +
      slotMask (fun k => t.tile == tile && s.slotFree t k && !s.promised tile k) * 2 ^ 16 + min mine 255 * 2 ^ 24 +
      (s.tile tile).bteUsed * 2 ^ 32
    ret d (BitVec.ofNat 64 x) s

/-! ### DLAUNCH (R126) -/

/-- DLAUNCH: the packet at g[A] is accepted with the thread's tenant and at most its launch's priority, or rejected by cause. -/
def execDlaunch (d a : BitVec 5) (s : State) : Out :=
  let b := s.me
  if isXa s.cur.1 ∨ b.kind ≠ 0 then insTrap 0x00A s
  else fenceGate s fun s =>
    let va := (s.rg a).toNat
    let s := s.drain s.curRef 4
    let root := match s.launchOf b with
      | some l => l.root
      | none => 0
    match s.accept va b.tenant none root b.prio with
    | (s, .ok l) => ret d (l.lid.setWidth 64) s
    | (s, .error c) => ret d (BitVec.ofNat 64 (2 ^ 63 + c)) s

end Sys2Proof.Machine
end

