-- ==== Sys2Proof/Machine/Copy.lean ====
section
/-! DEFINITION. The bulk transfer engine: copy descriptors, TCOPY, TSLIDE, LPREF, their chunks and records, and CWT (R270 to R288). -/

namespace Sys2Proof.Machine

/-! ### Descriptors (R272 to R275) -/

/-- A copy descriptor. -/
structure CopyDesc where
  base : Nat
  nd : Nat
  es : Nat
  swz : Nat
  fill : Nat
  size : List Nat
  box : List Nat
  stride : List Int

def parseDesc (x : Nat) : CopyDesc :=
  let nd := fldB x 8 1
  { base := fldB x 0 8, nd := nd, es := fldB x 9 1, swz := fldB x 0xA 1, fill := fldB x 0xC 4,
    size := (List.range nd).map (fun i => fldB x (0x10 + 4 * i) 4),
    box := (List.range nd).map (fun i => fldB x (0x34 + 2 * i) 2),
    stride := (List.range nd).map (fun i =>
      if i = 0 then (2 ^ fldB x 9 1 : Int) else (BitVec.ofNat 48 (fldB x (0x48 + 6 * (i - 1)) 6)).toInt) }

/-- Element size in bytes. -/
def CopyDesc.esz (d : CopyDesc) : Nat := 2 ^ d.es
/-- Box bytes. -/
def CopyDesc.bytes (d : CopyDesc) : Nat := d.box.foldl (· * ·) 1 * d.esz

/-- R275 but for its last point. -/
def descBad (x : Nat) : Bool :=
  let d := parseDesc x
  let rest := (List.range 9).any (fun i => decide (d.nd ≤ i) &&
    (fldB x (0x10 + 4 * i) 4 != 0 || fldB x (0x34 + 2 * i) 2 != 0 || (i != 0 && fldB x (0x48 + 6 * (i - 1)) 6 != 0)))
  fldB x 6 2 != 0 || fldB x 0xB 1 != 0 || fldB x 0x46 2 != 0 || fldB x 0x78 8 != 0 || d.nd == 0 || decide (9 < d.nd) || decide (3 < d.es) ||
    d.size.any (fun n => n == 0 || decide (2 ^ 31 ≤ n)) || d.box.any (fun n => n == 0 || decide (1024 < n)) || rest ||
    d.base % d.esz != 0 || d.stride.any (fun n => n % (d.esz : Int) != 0) || decide (7 < d.swz) || (d.swz != 0 && d.bytes % 1024 != 0)

/-- Slot of a plane column under a swizzle (R217). -/
def slotOf (s n : Nat) : Nat := n ^^^ (s * (n / 8) % 8)
/-- Near placement of a linear offset (R274). -/
def swzOf (s b : Nat) : Nat := b / 1024 * 1024 + 32 * slotOf s (b % 1024 / 32) + b % 32

/-- Box coordinates of a linear element number. -/
def boxCoords : List Nat → Nat → List Nat
  | [], _ => []
  | n :: t, k => k % n :: boxCoords t (k / n)

/-- Tensor coordinates of the element at a linear near offset: its box coordinates from the start; for a slide, the element of the leading slab
that the ring position holds, if any (R273, R282). -/
def CopyCmd.elemAt (c : CopyCmd) (d : CopyDesc) (o : Nat) : Option (List Int) :=
  let e := boxCoords d.box (o / d.esz)
  let x := (e.zip c.start).map (fun (p : Nat × Int) => (p.1 : Int) + p.2)
  if c.minor ≠ 1 then some x
  else
    let a := c.axis
    let n : Int := d.box.getD a 1
    let first := c.start.getD a 0 + n - c.step
    let k := ((e.getD a 0 : Int) - first) % n
    if k < c.step then some (listSet x a (first + k)) else none

/-- Every coordinate lies in the tensor (R273). -/
def inBounds (d : CopyDesc) (x : List Int) : Bool := (x.zip d.size).all (fun (p : Int × Nat) => decide (0 ≤ p.1) && decide (p.1 < (p.2 : Int)))
/-- FarAddr (R273). -/
def farAddr (d : CopyDesc) (x : List Int) : Nat :=
  (((d.base : Int) + ((x.zip d.stride).map (fun (p : Int × Int) => p.1 * p.2)).foldl (· + ·) 0) % 2 ^ 64).toNat

/-- Chunks of a command: 512 linear bytes each; a slide has the chunks that it writes into (R273, R282). -/
def CopyCmd.chunkList (c : CopyCmd) (d : CopyDesc) : List Nat :=
  (List.range ((d.bytes + 511) / 512)).filter (fun k => c.minor != 1 ||
    (List.range (min 512 (d.bytes - 512 * k) / d.esz)).any (fun i => (c.elemAt d (512 * k + i * d.esz)).isSome))

/-- Bytes that COPYBYTES counts: the box, or the slab of a slide (R278). -/
def CopyCmd.moved (c : CopyCmd) (d : CopyDesc) : Nat :=
  if c.minor = 1 then d.bytes / d.box.getD c.axis 1 * c.step else d.bytes

/-! ### Access by an engine -/

/-- The requester that an engine is for a bank's command: the address map of the issuing thread (R243, R281). -/
def State.engineReq (s : State) (r : BankRef) (task : Nat) : Req :=
  let t := (((s.task? task).bind (fun t => s.launch? t.launch)).map (·.tenant)).getD 0
  ⟨r.tile % 512, t, if isXa (r.tile % 512) then .xa else if r.bank = 1 then .leash else .task⟩

/-- The launch ID that an engine's request names. -/
def State.engineLid (s : State) (task : Nat) : BitVec 32 :=
  (((s.task? task).bind (fun t => s.launch? t.launch)).map (·.lid)).getD 0

/-- Why an engine's far access fails: a page not present, a refusal with its cause, or uncorrectable data. -/
inductive FarFail where
  | absent (va : Nat)
  | fault (va cause : Nat)
  | poison (va loc : Nat)
  deriving DecidableEq, Repr

/-- Far elements checked for writing, in order; out of bounds and gaps give none. -/
def farTargets (q : Req) (d : CopyDesc) : List (Option (List Int)) → State → State × Except FarFail (List (Option Target))
  | [], s => (s, .ok [])
  | x :: xs, s =>
    let more := fun (s : State) (t : Option Target) => match farTargets q d xs s with
      | (s, .ok ts) => (s, .ok (t :: ts))
      | r => r
    match x.filter (inBounds d) with
    | none => more s none
    | some x =>
      match s.check q (farAddr d x) d.esz 1 with
      | (s, .ok t) => more s (some t)
      | (s, .trap c) => (s, .error (.fault (farAddr d x) c))
      | (s, .absent) => (s, .error (.absent (farAddr d x)))

/-- The first of some far elements, with every other one in its 64-byte granule: they are read in one snapshot (R285). -/
def nextGranule (d : CopyDesc) (l : List (Nat × List Int)) : List (Nat × List Int) :=
  match l with
  | [] => []
  | (_, x) :: _ => l.filter (fun e => farAddr d e.2 / 64 == farAddr d x / 64)

/-- The elements of one granule read, each with its number. -/
def readGranule (q : Req) (d : CopyDesc) : List (Nat × List Int) → State → State × Except FarFail (List (Nat × Target × Nat))
  | [], s => (s, .ok [])
  | (i, x) :: l, s =>
    let va := farAddr d x
    match s.check q va d.esz 0 with
    | (s, .ok t) =>
      let s := s.meet t.loc d.esz
      if s.poisoned t.loc d.esz then (s, .error (.poison va t.loc))
      else
        match readGranule q d l s with
        | (s, .ok r) => (s, .ok ((i, t, s.readTarget t d.esz) :: r))
        | r => r
    | (s, .trap c) => (s, .error (.fault va c))
    | (s, .absent) => (s, .error (.absent va))

/-- An engine's read of a granule of a local store recorded by the trace ring (R340). -/
def State.traceGranule (s : State) (src : Nat) (t : Option Target) : State :=
  match t with
  | some (.mem loc) => s.traceAt (loc / 64 * 64) 64 0 src 0 0 4 true
  | _ => s

/-- The target of a near address that CheckNear has admitted. -/
def nearTarget (tile va : Nat) : Target :=
  match region va with
  | .near off => .mem (lsLoc tile off)
  | .win t off => if windowPart t off = .store then .mem (lsLoc t off) else .win t off
  | _ => .mem 0

/-- Bytes of one near word: an element's data, FILL out of bounds, the old bytes where a slide has no element. -/
def nearWord (d : CopyDesc) (old : Nat) : Nat → List (Option (Option Nat)) → Nat
  | _, [] => 0
  | sh, x :: r =>
    let v := match x with
      | none => old / 2 ^ sh % 2 ^ (8 * d.esz)
      | some (some v) => v
      | some none => d.fill % 2 ^ (8 * min d.esz 4)
    v * 2 ^ sh + nearWord d old (sh + 8 * d.esz) r

/-- The near words of a chunk written, lowest first. -/
def writeNear (c : CopyCmd) (d : CopyDesc) (per : Nat) : Nat → Nat → List (Option (Option Nat)) → State → State
  | 0, _, _, s => s
  | f + 1, o, l, s =>
    let ws := l.take per
    if ws.isEmpty then s
    else
      let t := nearTarget (c.owner.tile % 512) (c.near + swzOf d.swz o)
      let n := ws.length * d.esz
      let s := if ws.all Option.isNone then s else s.engineWrite t n (nearWord d (s.readTarget t n) 0 ws) 5 (c.owner.tile % 512)
      writeNear c d per f (o + n) (l.drop per) s

/-- The in-bounds elements of a chunk written to the far side, each single-copy atomic. -/
def writeElems (c : CopyCmd) (d : CopyDesc) : Nat → List (Option Target) → State → State
  | _, [], s => s
  | o, t :: ts, s =>
    let s := match t with
      | some t => s.engineWrite t d.esz (s.readTarget (nearTarget (c.owner.tile % 512) (c.near + swzOf d.swz o)) d.esz) 5 (c.owner.tile % 512)
      | none => s
    writeElems c d (o + d.esz) ts s

/-- Near address and location of every in-bounds element of a chunk that is copied out. -/
def CopyCmd.nearReads (c : CopyCmd) (d : CopyDesc) (o : Nat) (ts : List (Option Target)) : List (Nat × Nat) :=
  ts.zipIdx.filterMap (fun (p : Option Target × Nat) => p.1.map (fun _ =>
    let va := c.near + swzOf d.swz (o + p.2 * d.esz)
    (va, (nearTarget (c.owner.tile % 512) va).loc)))

/-- A chunk copied out: its near elements are read, with the trace of each 64-byte granule (R340), and written to the far side, where elements that
together cover a line are a full write of it (R423); a near word that cannot be read fails the chunk (R299, R425). -/
def writeFar (c : CopyCmd) (d : CopyDesc) (o : Nat) (ts : List (Option Target)) (s : State) : State × Option FarFail :=
  let l := c.nearReads d o ts
  let s := s.meetAll (l.map (fun p => (p.2, d.esz)))
  match l.find? (fun p => s.poisoned p.2 d.esz) with
  | some p => (s, some (.poison p.1 p.2))
  | none =>
    let s := ((l.map (fun p => p.2 / 64 * 64)).eraseDups).foldl (fun s g => s.traceAt g 64 0 (c.owner.tile % 512) 0 0 4 true) s
    ((writeElems c d o ts s).wrote ((ts.filterMap id).map (fun t => (t.loc, d.esz))), none)

/-! ### Records (R276 to R278) -/

/-- The record word ORed with bits, its tag left or set full, and the copy waits on it woken (R277, R288). -/
def State.recordOr (s : State) (recAt : Option Nat) (tile bits : Nat) (full : Bool) : State :=
  match recAt with
  | none => s
  | some loc =>
    let w := s.load loc 8 ||| bits
    let s := if full then s.engineWrite (.mem loc) 8 w 5 tile else (s.store loc 8 w).traceAt loc 8 5 tile 0 0 4 true
    wakeCopies loc s.ctxs s

/-- A record's SWZID and STATUS take a command's values (R276, R277). -/
def State.recordStatus (s : State) (recAt : Option Nat) (tile chunks swz status : Nat) : State :=
  match recAt with
  | none => s
  | some loc =>
    let w := (s.load loc 8 % 2 ^ 48 ||| chunks) + swz * 2 ^ 48 + status * 2 ^ 56
    let s := s.engineWrite (.mem loc) 8 w 5 tile
    wakeCopies loc s.ctxs s

/-- The copy command at a place of a tile's queue, replaced. -/
def State.setCopy (s : State) (tile : Nat) (c : CopyCmd) : State :=
  let t := s.tile tile
  s.setTile tile { t with bte := t.bte.map (fun x => if x.id = c.id then c else x) }

/-- A command may read: its release has been performed and its task runs on, or, for a chunk already begun, is being killed (R286, R298). -/
def State.mayRead (s : State) (rel : Bool) (id : Nat) (r : BankRef) (task scope : Nat) (begun : Bool) : Bool :=
  !(rel && scope != 0 && (s.bank r).rlx.any (fun a => decide (a.id < id))) && (begun || !((s.task? task).map (·.killing)).getD false)

/-- LPREF's lines: whether some in-bounds element lies on a line that is skipped (R283). -/
def skipsLine (q : Req) (d : CopyDesc) (l : List (Option (List Int))) (s : State) : Bool :=
  l.any (fun x => match x with
    | some x => inBounds d x && (match s.check q (farAddr d x) d.esz 0 with
      | (_, .ok (.mem loc)) => !isDramLoc loc || !isTrans (farAddr d x)
      | _ => true)
    | none => false)

/-! ### Events -/

/-- What a chunk writes at its near elements once they are read: their data, FILL out of bounds, nothing where a slide has no element. -/
def CopyCmd.nearData (c : CopyCmd) (d : CopyDesc) (chunk : Nat) (xs : List (Option (List Int))) : List (Option (Option Nat)) :=
  xs.zipIdx.map (fun (p : Option (List Int) × Nat) =>
    p.1.map (fun x => if inBounds d x then (c.got.find? (fun g => g.1 == chunk && g.2.1 == p.2)).map (·.2.2) else none))

/-- The in-bounds elements of a chunk that are still to be read, with their numbers. -/
def CopyCmd.unread (c : CopyCmd) (d : CopyDesc) (chunk : Nat) (xs : List (Option (List Int))) : List (Nat × List Int) :=
  xs.zipIdx.filterMap (fun (p : Option (List Int) × Nat) =>
    (p.1.filter (fun x => inBounds d x && !c.got.any (fun g => g.1 == chunk && g.2.1 == p.2))).map (fun x => (p.2, x)))

/-- The course of a failure at the far side of a chunk (R285): an absent page parks its reads, a refusal ends the command's reads but for the
chunks under way, and uncorrectable data leaves the chunk unmarked. -/
def State.chunkFails (s : State) (tile chunk : Nat) (c : CopyCmd) (tenant : Nat) (f : FarFail) : State :=
  let eng := engineId 1 tile 0
  match f with
  | .absent va =>
    (s.setCopy tile { c with parked := c.parked ++ [chunk] }).parkRequest tenant (.copy tile c.id chunk) va (b2n c.out) (s.engineLid c.task)
  | .fault va cause =>
    (s.record (s.taskRec c.owner c.task 0x184 2 eng (some va) cause)).setCopy tile
      { c with todo := c.todo.filter (fun k => k != chunk && c.got.any (fun g => g.1 == k)), status := 0x10 }
  | .poison va loc =>
    ((s.record ((s.taskRec c.owner c.task 0 2 0 (some va) 0).unreadable loc)).record
      { s.taskRec c.owner c.task 0x185 2 eng (some va) 0 with pa := if isDramLoc loc then some loc else none }).setCopy tile
      { c with todo := c.todo.filter (· != chunk), status := if c.status = 0 then 0x11 else c.status }

/-- A chunk is done: its bit joins the record (R277). -/
def State.chunkDone (s : State) (tile chunk : Nat) (c : CopyCmd) : State :=
  (s.setCopy tile { c with
    todo := c.todo.filter (· != chunk), got := c.got.filter (fun g => g.1 != chunk), pass := none
    chunks := c.chunks ||| (1#48 <<< chunk) }).recordOr c.recAt tile (2 ^ chunk) false

/-- BTE_CHUNK_COMPLETE (R277, R284, R285): the next granule of a chunk is read, when the BTE may have another request outstanding (R270); with the
last one its writes are performed and its bit joins the record. -/
def execBteChunkComplete (tile ix chunk : Nat) (s : State) : Out :=
  match (s.tile tile).bte[ix]? with
  | none => .next s
  | some c =>
    let begun := c.got.any (fun g => g.1 == chunk)
    if ¬ c.todo.contains chunk ∨ c.parked.contains chunk ∨ ¬ s.mayRead c.rel c.id c.owner c.task c.scope begun ∨ 32 ≤ (s.tile tile).reading then
      .next s
    else
      let d := parseDesc (bytesNat c.desc)
      let q := s.engineReq c.owner c.task
      let o := 512 * chunk
      let xs := (List.range (min 512 (d.bytes - o) / d.esz)).map (fun i => c.elemAt d (o + i * d.esz))
      let c := { c with inb := c.inb || xs.any (·.any (inBounds d)), oob := c.oob || xs.any (·.any (fun x => !inBounds d x)) }
      if c.minor = 2 then .next (s.chunkDone tile chunk { c with skipped := c.skipped || skipsLine q d xs s })
      else if c.out then
        match farTargets q d xs s with
        | (s, .error f) => .next (s.chunkFails tile chunk c q.tenant f)
        | (s, .ok ts) =>
          match s.waitsUnit c.pass (ts.filterMap id) with
          | some p => .next (s.setCopy tile { c with pass := some p })
          | none =>
            match writeFar c d o ts s with
            | (s, some f) => .next (s.chunkFails tile chunk c q.tenant f)
            | (s, none) => .next (s.chunkDone tile chunk c)
      else
        let l := c.unread d chunk xs
        match readGranule q d (nextGranule d l) s with
        | (s, .error f) => .next (s.chunkFails tile chunk c q.tenant f)
        | (s, .ok r) =>
          match s.waitsUnit c.pass (r.map (·.2.1)) with
          | some p => .next (s.setCopy tile { c with pass := some p })
          | none =>
            let s := s.traceGranule tile ((r.head?).map (·.2.1))
            let c := { c with pass := none, got := c.got ++ r.map (fun x => (chunk, x.1, x.2.2)) }
            if l.length = r.length then .next ((writeNear c d (max 1 (8 / d.esz)) 64 o (c.nearData d chunk xs) s).chunkDone tile chunk c)
            else .next (s.setCopy tile c)

/-- The final STATUS of a copy (R276, R284). -/
def CopyCmd.final (c : CopyCmd) : Nat :=
  if c.status ≠ 0 then c.status
  else if c.minor = 2 ∧ c.skipped then 4
  else if ¬ c.oob then 1
  else if c.inb then 2
  else 3

/-- BTE_COMMAND_COMPLETE for a copy: record, COPYBYTES, and its queue entry freed (R277, R278). -/
def State.completeCopy (s : State) (tile : Nat) (c : CopyCmd) : State :=
  let d := parseDesc (bytesNat c.desc)
  let st := c.final
  let t := s.tile tile
  let s := s.setTile tile { t with bte := t.bte.filter (fun x => x.id != c.id) }
  let s :=
    if c.minor ≠ 2 ∧ st < 4 then
      let b := s.bank c.owner
      s.setBank c.owner { b with copyBytes := b.copyBytes + BitVec.ofNat 64 (c.moved d) }
    else s
  s.recordStatus c.recAt tile c.chunks.toNat d.swz st

/-! ### Issue (R279 to R283) -/

/-- CheckNear (R281): the bytes from a near address lie in one local-store part or one vector register window that the thread may reach. -/
def State.checkNear (s : State) (q : Req) (va n kind : Nat) : Bool :=
  let ok := fun (a : Nat) => !outsideMap q kind (region a) && s.tenantOk q (region a) && s.leashOk q kind (region a)
  let all := (List.range ((n + 63) / 64)).all (fun i => ok (va + 64 * i)) && ok (va + n - 1)
  match region va, region (va + n - 1) with
  | .near _, .near _ => all
  | .win t o, .win u p =>
    all && t == u && windowPart t o == windowPart u p && (windowPart t o == .store || windowPart t o == .vector)
  | _, _ => false

/-- The halves of a descriptor that a bank's thread reads as one plain access, behind its overlapping relaxed ones (R252), with their trace (R340);
bad data are an error. -/
def State.descData (s : State) (r : BankRef) (va : Dword) (t u : Target) : State × Except TrapInfo Nat :=
  let s := s.drainOverlap r [⟨t.loc, 64, 0⟩, ⟨u.loc, 64, 0⟩]
  match ((s.traceThread r t.loc 64 0).traceThread r u.loc 64 0).poisonErr r va [(t.loc, 64), (u.loc, 64)] with
  | (s, some e) => (s, .error e)
  | (s, none) => (s, .ok (s.readTarget t 64 + s.readTarget u 64 * 2 ^ 512))

/-- The two halves of a descriptor read by the running thread; bad data trap. -/
def readDesc (absent : Nat → State → Out) (va : Dword) (s : State) (f : Nat → State → Out) : Out :=
  accessElse absent va 64 0 s fun t s => accessElse absent (va + 64) 64 0 s fun u s =>
    match s.descData s.curRef va t u with
    | (s, .error e) => trapAt e.cause va 0 s
    | (s, .ok x) => f x s

/-- The halves of a descriptor read again for a bank whose request replay-all sends (R267, R281): the descriptor, its trap, or a page that is
still absent. -/
def State.readDescAgain (s : State) (r : BankRef) (va : Dword) : State × Except (TrapInfo ⊕ Nat) Nat :=
  let q := (s.bank r).req (r.tile % 512)
  match s.check q va.toNat 64 0 with
  | (s, .trap c) => (s, .error (.inl ⟨c, va, 0⟩))
  | (s, .absent) => (s, .error (.inr va.toNat))
  | (s, .ok t) =>
    match s.check q (va + 64).toNat 64 0 with
    | (s, .trap c) => (s, .error (.inl ⟨c, va + 64, 0⟩))
    | (s, .absent) => (s, .error (.inr (va + 64).toNat))
    | (s, .ok u) =>
      match s.descData r va t u with
      | (s, .error e) => (s, .error (.inl e))
      | (s, .ok x) => (s, .ok x)

/-- FBASE that a record offset counts from (R280), and the end of the record space (R281). -/
def Bank.recBase (b : Bank) : Nat := if b.kind = 2 then 0xF0000 else b.fbase
def recEnd (tile : Nat) (b : Bank) : Nat := if b.kind = 2 then 0x100000 else taskSpace tile

/-- Extension words that R280, R282 and R283 do not permit. -/
def extBad (minor : Nat) (d : CopyDesc) (x0 x1 : Nat) : Bool :=
  let axis := fld x0 27 24
  let step := fld x1 9 0
  fld x0 31 28 != 0 || (minor != 1 && axis != 0) || (minor != 0 && bitOf x0 18) ||
    (minor == 1 && (fld x1 31 10 != 0 || d.swz != 0 || decide (d.nd ≤ axis) || step == 0 || decide (d.box.getD axis 0 < step)))

/-- What a trap of an instruction-class cause reports (R72). -/
def insInfo (cause : Nat) (pc : Va) (bits : BitVec 32) : TrapInfo := ⟨cause, pc.setWidth 64, bits.setWidth 64⟩

/-- The trap of a copy command on its descriptor, by the checks of R281 in order. -/
def State.copyCause (s : State) (r : BankRef) (minor : Nat) (near : Dword) (x0 x1 : BitVec 32) (x : Nat) (ins : TrapInfo) : Option TrapInfo :=
  let b := s.bank r
  let d := parseDesc x
  let e := x0.toNat
  let recAt := b.recBase + 8 * fld e 16 0
  if descBad x ∨ 24576 < d.bytes then some ⟨0x181, 0, 0⟩
  else if extBad minor d e x1.toNat then some ⟨0x183, 0, 0⟩
  else if 6 ≤ fld e 23 21 then some ins
  else if minor ≠ 2 ∧ (2 ^ 48 ≤ near.toNat ∨ near.toNat % 64 ≠ 0 ∨
      ¬ s.checkNear (b.req (r.tile % 512)) near.toNat d.bytes (if bitOf e 18 then 0 else 1)) then some ⟨0x182, near, 0⟩
  else if ¬ bitOf e 17 ∧ recEnd (r.tile % 512) b < recAt + 8 then some ⟨0x182, BitVec.ofNat 64 recAt, 0⟩
  else none

/-- The command that a copy instruction of a bank sends. -/
def State.copyCmd (s : State) (r : BankRef) (minor : Nat) (near : Dword) (v : Vec) (x0 x1 : BitVec 32) (pc : Va) (x : Nat) : CopyCmd :=
  let b := s.bank r
  let d := parseDesc x
  let e := x0.toNat
  let c : CopyCmd := {
    id := s.fresh, owner := r, thread := b.thread, task := b.task, minor := minor, pc := pc, desc := natBytes 128 x,
    start := (List.range d.nd).map (fun i => (BitVec.ofNat 32 (lane32 v i)).toInt), near := near.toNat,
    recAt := if bitOf e 17 then none else some (lsLoc (r.tile % 512) (b.recBase + 8 * fld e 16 0)), out := bitOf e 18, rel := bitOf e 19,
    acq := bitOf e 20, scope := fld e 23 21, axis := fld e 27 24, step := fld x1.toNat 9 0, parked := [], todo := [], got := [], pass := none,
    chunks := 0, oob := false, inb := false, skipped := false, status := 0 }
  { c with todo := c.chunkList d }

/-- A copy command enters its tile's queue, or its thread waits for an entry (R270). -/
def enterCopy (c : CopyCmd) (s : State) : Out :=
  let t := s.tile s.cur.1
  if t.bteUsed < 16 then .next (s.setTile s.cur.1 { t with bte := t.bte ++ [c] }).retire else .next (s.park (.bteFull c))

/-- A copy command or BREAD whose descriptor lies on a not-present page has issued, and its request parks (R266, R281). -/
def parkDesc (minor : Nat) (va near : Dword) (b : BitVec 5) (x0 x1 : BitVec 32) (absent : Nat) (s : State) : Out :=
  let me := s.me
  let ks := me.srcPorts [b]
  let v := s.rv b
  .next (((s.setMe (me.takePorts ks)).park (.desc minor va near v x0 x1 ks)).parkRequest me.tenant (.thread s.curRef) absent 0 me.lid)

/-- TCOPY (0), TSLIDE (1) and LPREF (2): the checks of R281 in order, and the command. -/
def copyIssue (minor : Nat) (near : Dword) (a b : BitVec 5) (x0 x1 : BitVec 32) (s : State) : Out :=
  let me := s.me
  if minor = 2 ∧ (isXa s.cur.1 ∨ me.kind = 2 ∨ me.kind = 3) then insTrap 0x00A s
  else vecGate [b] none s fun s => gate s fun s => readDesc (parkDesc minor (s.rg a) near b x0 x1) (s.rg a) s fun x s =>
    match s.copyCause s.curRef minor near x0 x1 x (insInfo 0x006 s.iaddr s.ibits) with
    | some i => trapAt i.cause i.addr i.val s
    | none => enterCopy (s.copyCmd s.curRef minor near (s.rv b) x0 x1 s.me.pc x) { s.usePorts [b] with fresh := s.fresh + 1 }

def execTcopy (d a b : BitVec 5) (x0 : BitVec 32) (s : State) : Out := copyIssue 0 (s.rg d) a b x0 0 s
def execTslide (d a b : BitVec 5) (x0 x1 : BitVec 32) (s : State) : Out := copyIssue 1 (s.rg d) a b x0 x1 s
def execLpref (a b : BitVec 5) (x0 : BitVec 32) (s : State) : Out := copyIssue 2 0 a b x0 0 s

/-! ### CWT (R288) -/

/-- The record word that a CWT instruction names: a word of the near window. -/
def cwtAt (a : BitVec 5) (kind : Nat) (s : State) (f : Nat → State → Out) : Out :=
  let va := s.rg a
  gate s fun s => access va 8 kind s fun t s =>
    if ¬ isNear va.toNat then trapAt 0x186 va 0 s else f t.loc (s.drainOverlap s.curRef [⟨t.loc, 8, 0⟩])

/-- The mask operand of CWAIT and CTEST; a wrong one fails the command on its record. -/
def cwtMask (a b : BitVec 5) (s : State) (f : Nat → Out) : Out :=
  let w := s.rg b
  if dfld w 63 51 ≠ 0 then trapAt 0x186 (s.rg a) 0 s else if 6 ≤ dfld w 50 48 then insTrap 0x006 s else f (dfld w 47 0)

/-- The record word read for CWAIT or CTEST, with its trace (R340); one that cannot be read is the deferred error 0x087 (R425). -/
def cwtRead (d : BitVec 5) (va : Dword) (loc : Nat) (s : State) : Out :=
  let x := s.load loc 8
  let q := (s.traceThread s.curRef loc 8 0).poisonErr s.curRef va [(loc, 8)]
  .next (q.1.finishLong 0 (.g d.toNat) (some (BitVec.ofNat 1024 x)) q.2 0)

def execCwait (d a b : BitVec 5) (s : State) : Out :=
  cwtAt a 0 s fun loc s => cwtMask a b s fun m =>
    if copyDone (s.tag loc) (s.load loc 8) m then cwtRead d (s.rg a) loc s else .next (s.park (.copy loc (BitVec.ofNat 48 m) d.toNat))

def execCtest (d a b : BitVec 5) (s : State) : Out :=
  cwtAt a 0 s fun loc s => cwtMask a b s fun _ => cwtRead d (s.rg a) loc s

def execCclr (a : BitVec 5) (s : State) : Out :=
  cwtAt a 1 s fun loc s => .next (((s.traceThread s.curRef loc 8 1).store loc 8 0).changeTag loc false).retire

end Sys2Proof.Machine
end

