-- ==== Sys2Proof/Machine/Float.lean ====
section
/-! DEFINITION. Number formats and rounding: decoding to exact numbers, RoundTo, NaN and infinity results, conversions, Q4 codes and
EA40 sums (R154 to R172). A finite number is an exact sign, magnitude and power of two. -/

namespace Sys2Proof.Machine

/-- A floating-point format (R155): bits, mantissa bits, bias, E4M3, and whether FTZ acts on it (R168). -/
structure Fmt where
  bits : Nat
  mb : Nat
  bias : Nat
  e4m3 : Bool
  ftz : Bool
  deriving DecidableEq, Repr

def fp32 : Fmt := ⟨32, 23, 127, false, true⟩
def fp16 : Fmt := ⟨16, 10, 15, false, true⟩
def bf16 : Fmt := ⟨16, 7, 127, false, true⟩
def e5m2 : Fmt := ⟨8, 2, 15, false, false⟩
def e4m3 : Fmt := ⟨8, 3, 7, true, false⟩
def ea40 : Fmt := ⟨40, 31, 127, false, false⟩

/-- The sign bit's weight. -/
def Fmt.sign (f : Fmt) (s : Bool) : Nat := if s then 2 ^ (f.bits - 1) else 0
/-- Magnitude code with every exponent bit 1 and mantissa 0. -/
def Fmt.infCode (f : Fmt) : Nat := 2 ^ (f.bits - 1) - 2 ^ f.mb
/-- Magnitude code of the largest finite value (R155). -/
def Fmt.maxCode (f : Fmt) : Nat := if f.e4m3 then 0x7E else f.infCode - 1
/-- The canonical NaN (R156). -/
def Fmt.canon (f : Fmt) : Nat := if f.e4m3 then 0x7F else f.infCode + 2 ^ (f.mb - 1)
/-- Exponent of the smallest normal value. -/
def Fmt.emin (f : Fmt) : Int := 1 - (f.bias : Int)
/-- Exponent of the largest finite value's binade. -/
def Fmt.emax (f : Fmt) : Int := if f.e4m3 then 8 else f.bias

/-- An exact number: a NaN with its sign, its payload in 31 bits with the top bits first and whether it is signalling; an infinity;
or (-1)^s · m · 2^e. -/
inductive Num where
  | nan (s : Bool) (pay : Nat) (sig : Bool)
  | inf (s : Bool)
  | fin (s : Bool) (m : Nat) (e : Int)
  deriving DecidableEq, Repr

/-- What the rounding of a thread depends on (R161): RM, SAT, CNAN, FTZ, SEED. -/
structure Ctl where
  rm : Nat
  sat : Bool
  cnan : Bool
  ftz : Bool
  seed : Nat
  deriving DecidableEq, Repr

/-- The exception flags, NV, DZ, OF, UF, NX, SA, NB from bit 0 (R162). -/
abbrev Flags := BitVec 7
def flNV : Flags := 1
def flDZ : Flags := 2
def flOF : Flags := 4
def flUF : Flags := 8
def flNX : Flags := 16
def flSA : Flags := 32
def flNB : Flags := 64

/-- Bits of a result and the flags it raises. -/
abbrev Res := Nat × Flags

/-- Bits read as an exact number; under FTZ a subnormal operand reads as zero of its sign (R155, R156, R168). -/
def Fmt.read (f : Fmt) (ftz : Bool) (x : Nat) : Num :=
  let s := bitOf x (f.bits - 1)
  let c := x % 2 ^ (f.bits - 1)
  let m := c % 2 ^ f.mb
  let e := c / 2 ^ f.mb
  if f.e4m3 ∧ c = 0x7F then .nan s (2 ^ 31 - 2 ^ 28) true
  else if ¬ f.e4m3 ∧ c = f.infCode then .inf s
  else if ¬ f.e4m3 ∧ f.infCode < c then .nan s (m * 2 ^ (31 - f.mb)) (!bitOf m (f.mb - 1))
  else if e = 0 then .fin s (if ftz && f.ftz then 0 else m) (f.emin - f.mb)
  else .fin s (2 ^ f.mb + m) ((e : Int) - f.bias - f.mb)

/-- RsdHash (R164). -/
def rsdHash (seed lane idx v : Nat) : Nat :=
  let k := seed % 256 * 2 ^ 56 + lane % 64 * 2 ^ 50 + idx % 2 ^ 18 * 2 ^ 32 + v % 2 ^ 32
  let z := k * 0x9E3779B97F4A7C15 % 2 ^ 64
  let z := z ^^^ (z / 2 ^ 30)
  let z := z * 0xBF58476D1CE4E5B9 % 2 ^ 64
  let z := z ^^^ (z / 2 ^ 31)
  z % 65536

/-- Choose (R164): whether the upper candidate is taken, for a remainder r of the spacing d above the lower candidate; `odd` says
that the lower candidate's lowest significand bit is 1, and enc is its encoding. -/
def chooseUp (c : Ctl) (s odd : Bool) (r d lane idx enc : Nat) : Bool :=
  match c.rm with
  | 0 => decide (d < 2 * r) || (decide (2 * r = d) && odd)
  | 1 => false
  | 2 => s
  | 3 => !s
  | 4 => decide (d ≤ 2 * r)
  | _ => decide (rsdHash c.seed lane idx enc < 2 ^ 16 * r / d)

/-- Overflow(fmt, s, y, ctl) (R166); `up` says that Choose gave b. -/
def overflowTo (f : Fmt) (c : Ctl) (s up : Bool) : Res :=
  let inf := match c.rm with
    | 1 => false
    | 2 => s
    | 3 => !s
    | 0 | 4 => true
    | _ => up
  (f.sign s + (if inf && !c.sat then (if f.e4m3 then 0x7F else f.infCode) else f.maxCode), flOF)

/-- InfResult(fmt, s, ctl) (R166). -/
def infResult (f : Fmt) (c : Ctl) (s : Bool) : Res :=
  if f.e4m3 then (if c.sat then (f.sign s + f.maxCode, flOF) else (f.sign s + 0x7F, flNV)) else (f.sign s + f.infCode, 0)

/-- The first NaN of a list of operands. -/
def firstNan : List Num → Option (Bool × Nat)
  | [] => none
  | .nan s p _ :: _ => some (s, p)
  | _ :: t => firstNan t
/-- A signalling operand is present. -/
def anySig (l : List Num) : Bool := l.any (fun x => match x with
  | .nan _ _ g => g
  | _ => false)
def anyNan (l : List Num) : Bool := (firstNan l).isSome

/-- NaNResult(fmt, operands, ctl) (R167), with NV for a signalling operand. -/
def nanResult (f : Fmt) (c : Ctl) (ops : List Num) : Res :=
  let bits :=
    if c.cnan then f.canon
    else
      match firstNan ops with
      | some (s, p) =>
        if f.e4m3 then f.sign s + 0x7F
        else f.sign s + f.infCode + (p / 2 ^ (31 - f.mb)) % 2 ^ (f.mb - 1) + 2 ^ (f.mb - 1)
      | none => f.canon
  (bits, if anySig ops then flNV else 0)

/-- RoundTo of a finite number (R164, R165, R166, R168). Magnitude codes count the grid points of a format in order. -/
def roundFin (f : Fmt) (c : Ctl) (lane idx : Nat) (s : Bool) (m : Nat) (e : Int) : Res :=
  if m = 0 then (f.sign s, 0)
  else
    let top := (ilog2 m : Int) + e
    let ex := if top < f.emin then f.emin else if f.emax < top then f.emax else top
    let u := ex - f.mb
    let base := (ex - f.emin).toNat * 2 ^ f.mb
    -- q grid units and a remainder r of d
    let q := if u ≤ e then (if f.emax < top then 2 ^ (f.mb + 2) else m * 2 ^ (e - u).toNat)
             else if top < u - 40 then 0 else m / 2 ^ (u - e).toNat
    let d := if u ≤ e then 1 else if top < u - 40 then 2 ^ 40 else 2 ^ (u - e).toNat
    let r := if u ≤ e then 0 else if top < u - 40 then 1 else m % d
    let enc := f.sign s + min (base + q) f.maxCode
    let up := r != 0 && chooseUp c s (q % 2 == 1) r d lane idx enc
    let code := base + q + b2n up
    if f.maxCode < code then overflowTo f c s up
    else
      let tiny := decide (code < 2 ^ f.mb)
      let fl := (if r ≠ 0 then flNX else 0) ||| (if r ≠ 0 ∧ tiny then flUF else 0)
      if c.ftz ∧ f.ftz ∧ tiny ∧ 0 < code then (f.sign s, flUF ||| flNX) else (f.sign s + code, fl)

/-- RoundTo of an exact number, with the operands from which a NaN result is taken (R164). -/
def roundTo (f : Fmt) (c : Ctl) (lane idx : Nat) (ops : List Num) (x : Num) : Res :=
  match x with
  | .nan _ _ _ => nanResult f c ops
  | .inf s => infResult f c s
  | .fin s m e => roundFin f c lane idx s m e

/-! ### Exact arithmetic -/

def Num.neg : Num → Num
  | .nan s p g => .nan s p g
  | .inf s => .inf (!s)
  | .fin s m e => .fin (!s) m e

/-- A signed integer times a power of two, as a number; `z` is the sign of zero. -/
def ofInt (v : Int) (e : Int) (z : Bool) : Num := if v = 0 then .fin z 0 0 else .fin (decide (v < 0)) v.natAbs e
def signedOf (s : Bool) (m : Nat) : Int := if s then -(m : Int) else m

/-- Exact sum; `none` is the invalid ∞ - ∞. Zero takes its sign by R169. NaN operands give a NaN. -/
def addNum (rdn : Bool) : Num → Num → Option Num
  | .fin s m e, .fin t n k =>
    let lo := if m = 0 then k else if n = 0 then e else min e k
    let v := signedOf s (m * 2 ^ (e - lo).toNat) + signedOf t (n * 2 ^ (k - lo).toNat)
    some (ofInt v lo (if s = t then s else rdn))
  | .inf s, .inf t => if s = t then some (.inf s) else none
  | .inf s, .fin _ _ _ => some (.inf s)
  | .fin _ _ _, .inf t => some (.inf t)
  | .nan s p g, _ => some (.nan s p g)
  | _, .nan s p g => some (.nan s p g)

/-- Exact product; `none` is the invalid 0 · ∞. -/
def mulNum : Num → Num → Option Num
  | .fin s m e, .fin t n k => some (.fin (s != t) (m * n) (e + k))
  | .inf s, .inf t => some (.inf (s != t))
  | .inf s, .fin t n _ => if n = 0 then none else some (.inf (s != t))
  | .fin s m _, .inf t => if m = 0 then none else some (.inf (s != t))
  | .nan s p g, _ => some (.nan s p g)
  | _, .nan s p g => some (.nan s p g)

/-- An operation's result: invalid gives NaN with NV beside the operands' own. -/
def finish (f : Fmt) (c : Ctl) (lane idx : Nat) (ops : List Num) : Option Num → Res
  | some x => if anyNan ops then nanResult f c ops else roundTo f c lane idx ops x
  | none => let r := nanResult f c ops; (r.1, r.2 ||| flNV)

/-- a + b, a - b, a · b (R201). -/
def fAdd (f : Fmt) (c : Ctl) (lane idx a b : Nat) : Res :=
  let x := f.read c.ftz a
  let y := f.read c.ftz b
  finish f c lane idx [x, y] (addNum (c.rm == 2) x y)
def fSub (f : Fmt) (c : Ctl) (lane idx a b : Nat) : Res :=
  let x := f.read c.ftz a
  let y := f.read c.ftz b
  finish f c lane idx [x, y] (addNum (c.rm == 2) x y.neg)
def fMul (f : Fmt) (c : Ctl) (lane idx a b : Nat) : Res :=
  let x := f.read c.ftz a
  let y := f.read c.ftz b
  finish f c lane idx [x, y] (mulNum x y)

/-- ± a · b ± d with a single rounding (R201). -/
def fFma (f : Fmt) (c : Ctl) (lane idx : Nat) (np nd : Bool) (a b d : Nat) : Res :=
  let x := f.read c.ftz a
  let y := f.read c.ftz b
  let z := f.read c.ftz d
  let p := mulNum x y
  finish f c lane idx [x, y, z]
    (p.bind (fun p => addNum (c.rm == 2) (if np then p.neg else p) (if nd then z.neg else z)))

/-- Order of two numbers that are not NaN: -1, 0 or 1; zeros are equal. -/
def cmpNum : Num → Num → Int
  | .inf s, .inf t => if s = t then 0 else if s then -1 else 1
  | .inf s, _ => if s then -1 else 1
  | _, .inf t => if t then 1 else -1
  | .fin s m e, .fin t n k =>
    let lo := min e k
    let v := signedOf s (m * 2 ^ (e - lo).toNat) - signedOf t (n * 2 ^ (k - lo).toNat)
    if v < 0 then -1 else if v = 0 then 0 else 1
  | _, _ => 0

/-- The bits an operand contributes to VMIN and VMAX: flushed under FTZ. -/
def Fmt.flush (f : Fmt) (ftz : Bool) (x : Nat) : Nat :=
  match f.read ftz x with
  | .fin s 0 _ => f.sign s
  | _ => x

/-- VMIN (`mx` false) and VMAX: -0 lies below +0 (R201). -/
def fMinMax (f : Fmt) (c : Ctl) (mx : Bool) (a b : Nat) : Res :=
  let x := f.read c.ftz a
  let y := f.read c.ftz b
  if anyNan [x, y] then nanResult f c [x, y]
  else
    let a := f.flush c.ftz a
    let b := f.flush c.ftz b
    let lt := match cmpNum x y with
      | .negSucc _ => true
      | 0 => bitOf a (f.bits - 1) && !bitOf b (f.bits - 1)
      | _ => false
    (if lt != mx then a else b, 0)

/-- VSCALE: a · 2^n (R201). -/
def fScale (f : Fmt) (c : Ctl) (lane a : Nat) (n : Int) : Res :=
  let x := f.read c.ftz a
  match x with
  | .nan _ _ _ => nanResult f c [x]
  | .inf s => (f.sign s + f.infCode, 0)
  | .fin s m e => roundFin f c lane 0 s m (e + n)

/-- A float comparison: 0 EQ, 1 NE, 2 LT, 3 LE (R205). -/
def fCmp (f : Fmt) (c : Ctl) (cond a b : Nat) : Bool × Flags :=
  let x := f.read c.ftz a
  let y := f.read c.ftz b
  if anyNan [x, y] then (cond == 1, if 2 ≤ cond ∨ anySig [x, y] then flNV else 0)
  else
    let v := cmpNum x y
    (match cond with
      | 0 => v == 0
      | 1 => v != 0
      | 2 => decide (v < 0)
      | _ => decide (v ≤ 0), 0)

/-! ### Conversions (R171) -/

/-- A conversion between float formats. -/
def fCvt (src dst : Fmt) (c : Ctl) (lane idx a : Nat) : Res :=
  let x := src.read c.ftz a
  roundTo dst c lane idx [x] x

/-- Rounding of a finite number to an integer: the signed value and whether it was inexact (R164, integer destination). -/
def roundInt (c : Ctl) (lane idx : Nat) (s : Bool) (m : Nat) (e : Int) : Int × Bool :=
  if m = 0 then (0, false)
  else if 0 ≤ e then (signedOf s (m * 2 ^ (min e.toNat 2048)), false)
  else
    let top := (ilog2 m : Int) + e
    let q := if top < -40 then 0 else m / 2 ^ (-e).toNat
    let d := if top < -40 then 2 ^ 40 else 2 ^ (-e).toNat
    let r := if top < -40 then 1 else m % d
    let enc := ((signedOf s q) % 2 ^ 32).toNat
    let up := r != 0 && chooseUp c s (q % 2 == 1) r d lane idx enc
    (signedOf s (q + b2n up), r != 0)

/-- Float to a signed integer of n bits, as n-bit two's complement (R171). -/
def fToInt (n : Nat) (c : Ctl) (lane idx : Nat) (x : Num) : Res :=
  let clamp (neg : Bool) : Nat := if neg then 2 ^ (n - 1) else 2 ^ (n - 1) - 1
  match x with
  | .nan _ _ _ => (0, flNV)
  | .inf s => (clamp s, flNV)
  | .fin s m e =>
    let (v, inexact) := roundInt c lane idx s m e
    if v < -(2 ^ (n - 1) : Int) then (clamp true, flNV)
    else if (2 ^ (n - 1) : Int) ≤ v then (clamp false, flNV)
    else ((v % 2 ^ n).toNat, if inexact then flNX else 0)

/-- A signed integer to a float format (R171). -/
def intToF (f : Fmt) (c : Ctl) (lane idx : Nat) (v : Int) : Res := roundTo f c lane idx [] (ofInt v 0 false)

/-! ### Q4 (R159, R160, R208) -/

/-- Magnitude of a code value in eighths. -/
def q4Mag (type m : Nat) : Nat :=
  match type with
  | 1 => (([0, 4, 8, 12, 16, 24, 32, 48] : List Nat)[m]?).getD 0
  | 2 => (([0, 1, 2, 4, 8, 16, 32, 64] : List Nat)[m]?).getD 0
  | 3 => (([0, 8, 16, 24, 32, 64, 128, 256] : List Nat)[m]?).getD 0
  | _ => 8 * m
/-- CodeValue in eighths, signed (R160). -/
def q4Code (type code : Nat) : Int :=
  if type = 0 then (if 8 ≤ code then 8 * ((code : Int) - 16) else 8 * code)
  else signedOf (decide (8 ≤ code)) (q4Mag type (code % 8))
def q4Type (s : Nat) : Nat := fld s 15 14
def q4Exp (s : Nat) : Nat := fld s 13 6
/-- Scale of a word: 64 + SMAN times 2^(SEXP - 133) (R159). -/
def q4Man (s : Nat) : Nat := 64 + fld s 5 0
/-- Element of a block as an exact number; `none` is an element of a NaN block (R159, R160). -/
def q4Elem (s code : Nat) : Option Num :=
  if q4Exp s = 255 then none
  else if q4Exp s = 0 then some (.fin false 0 0)
  else some (ofInt (q4Code (q4Type s) code * q4Man s) ((q4Exp s : Int) - 136) false)

/-- One lane of VDQ4. -/
def q4Dequant (c : Ctl) (lane s code : Nat) : Res :=
  match q4Elem s code with
  | none => (fp32.canon, flNB)
  | some x => roundTo fp32 c lane 0 [] x

/-- The codes of a type for a sign, by rising magnitude: magnitude in eighths and code, zero first (R160). -/
def q4Codes (type : Nat) (neg : Bool) : List (Nat × Nat) :=
  (0, 0) ::
    (if type = 0 then (if neg then (List.range 8).map (fun k => (8 * (k + 1), 15 - k)) else (List.range 7).map (fun k => (8 * (k + 1), k + 1)))
     else (List.range 7).map (fun k => (q4Mag type (k + 1), (if neg then 8 else 0) + k + 1)))

/-- The neighbours of num / den among the codes: the last at or below it, and the next. -/
def q4Around (num den : Nat) : List (Nat × Nat) → (Nat × Nat) → (Nat × Nat) × Option (Nat × Nat)
  | [], lo => (lo, none)
  | (g, k) :: t, lo => if g * den ≤ num then q4Around num den t (g, k) else (lo, some (g, k))

/-- One lane of VQ4 (R208). -/
def q4Quant (c : Ctl) (lane idx s : Nat) (x : Num) : Res :=
  match x with
  | .nan _ _ _ => (0, flNV)
  | .inf neg =>
    if q4Exp s = 255 then (0, flNV)
    else if q4Exp s = 0 then (0, 0)
    else (((q4Codes (q4Type s) neg).getLastD (0, 0)).2, flOF)
  | .fin neg m e =>
    if q4Exp s = 255 then (0, flNV)
    else if q4Exp s = 0 ∨ m = 0 then (0, 0)
    else
      -- |q| in eighths is num / den
      let k := e + 136 - (q4Exp s : Int)
      let num := if 0 ≤ k then m * 2 ^ k.toNat else m
      let den := if 0 ≤ k then q4Man s else q4Man s * 2 ^ (-k).toNat
      match q4Around num den (q4Codes (q4Type s) neg) (0, 0) with
      | ((g, code), none) => if g * den = num then (code, 0) else (code, flOF)
      | ((g, code), some (h, up)) =>
        if g * den = num then (code, 0)
        else (if chooseUp c neg (code % 2 == 1) (num - g * den) ((h - g) * den) lane idx code then up else code, flNX)

/-! ### EA40 sums (R158) -/

/-- The running total of a step: finite part as an integer times 2^-600, infinities seen, NaN seen, flags, and whether every term is -0. -/
structure Total where
  v : Int := 0
  pinf : Bool := false
  ninf : Bool := false
  nan : Bool := false
  negz : Bool := true
  fl : Flags := 0

/-- A term joins the total. -/
def Total.add (t : Total) (x : Num) : Total :=
  match x with
  | .nan _ _ g => { t with nan := true, negz := false, fl := t.fl ||| (if g then flNV else 0) }
  | .inf s => { t with pinf := t.pinf || !s, ninf := t.ninf || s, negz := false }
  | .fin s m e => { t with v := t.v + signedOf s (m * 2 ^ (e + 600).toNat), negz := t.negz && s && m == 0 }

/-- A product of two operands joins the total; an operand `none` is an element of a NaN block. -/
def Total.mac (t : Total) (a b : Option Num) : Total :=
  let t := if a.isNone || b.isNone then { t with nan := true, fl := t.fl ||| flNB } else t
  let ops := [a.getD (.fin false 0 0), b.getD (.fin false 0 0)]
  let t := if anySig ops then { t with fl := t.fl ||| flNV } else t
  if a.isNone || b.isNone || anyNan ops then { t with nan := true, negz := false }
  else
    match mulNum (a.getD (.fin false 0 0)) (b.getD (.fin false 0 0)) with
    | some x => t.add x
    | none => { t with nan := true, negz := false, fl := t.fl ||| flNV }

/-- The rounded element of a step and its flags (R158). -/
def Total.round (t : Total) : Res :=
  let both := t.pinf && t.ninf
  let fl := t.fl ||| (if both then flNV else 0)
  if t.nan || both then (ea40.canon, fl)
  else if t.pinf then (ea40.infCode, fl)
  else if t.ninf then (ea40.sign true + ea40.infCode, fl)
  else if t.v = 0 then (ea40.sign t.negz, fl)
  else
    let r := roundFin ea40 ⟨0, false, true, false, 0⟩ 0 0 (decide (t.v < 0)) t.v.natAbs (-600)
    (r.1, r.2 ||| fl)

end Sys2Proof.Machine
end

