-- ==== Sys2Proof/Machine/Flags.lean ====
section
/-! DEFINITION. NUMCTL, the sticky flags, and the numeric trap of an instruction over its lanes (R161 to R163). -/

namespace Sys2Proof.Machine

/-- The rounding control in a NUMCTL value (R161). -/
def ctlOf (n : Dword) : Ctl := ⟨dfld n 2 0, n.getLsbD 3, n.getLsbD 4, n.getLsbD 5, dfld n 31 24⟩
/-- The exceptions whose trap is enabled (R161). -/
def enables (n : Dword) : Flags := n.extractLsb' 8 7
/-- The flags of every lane, ORed (R162). -/
def orFlags (l : List (Nat × Flags)) : Flags := l.foldl (fun a p => a ||| p.2) 0
/-- The lowest-numbered exception of a set (R163). -/
def lowestFlag (f : Flags) : Nat := ((List.range 7).find? (fun i => f.getLsbD i)).getD 0
/-- The lowest lane that raised an exception. -/
def lowestLane (l : List (Nat × Flags)) (i : Nat) : Nat :=
  (l.filter (fun p => p.2.getLsbD i)).foldl (fun m p => min m p.1) 63

/-- The numeric trap that a set of lane flags causes under a NUMCTL, if any (R162): cause and TRAPVAL. -/
def numericTrap (n : Dword) (l : List (Nat × Flags)) : Option (Nat × Dword) :=
  let all := orFlags l
  let hit := all &&& enables n
  if hit = 0 then none
  else some (0x041 + lowestFlag hit, BitVec.ofNat 64 (all.toNat + lowestLane l (lowestFlag hit) * 65536))

/-- An instruction with lane exceptions: the trap of R162, or its results with the ORed flags. -/
def withFlags (l : List (Nat × Flags)) (s : State) (f : Flags → State → Out) : Out :=
  match numericTrap s.me.numctl l with
  | some (c, v) => trapAt c 0 v s
  | none => f (orFlags l) s

/-- The running thread's rounding control. -/
def State.ctl (s : State) : Ctl := ctlOf s.me.numctl

end Sys2Proof.Machine
end

