-- ==== Sys2Proof/Machine/Reflex.lean ====
section
/-! DEFINITION. The reflex array: PRIME, UNPRIME, the instruction ceiling and the end of a bank switch (R358 to R365, R140). -/

namespace Sys2Proof.Machine

/-- Bank 1 as a preset set loads it (R140, R358, R361). -/
def presetBank (p : Preset) : Bank := { g := [(5, p.g5), (6, p.g6), (7, p.g7)], od := p.od, numctl := p.numctl, pc := p.pc }

/-- PRIME (R359): the checks, then the slot is armed unless it is armed already or its word is another slot's. -/
def execPrime (d a b : BitVec 5) (s : State) : Out :=
  let me := s.me
  let tile := s.cur.1
  let va := s.rg a
  let w := s.rg b
  let slot := dfld w 2 0
  if ¬ isXa tile ∨ me.kind ≠ 0 then insTrap 0x00A s
  else if dfld w 7 3 ≠ 0 ∨ dfld w 63 32 ≠ 0 then trap 0x241 s
  else
    match s.task? me.task, s.launchOf me with
    | some t, some l =>
      if ¬ t.slots.contains slot then trap 0x241 s
      else
        match l.role (dfld w 15 8) 1 with
        | none => trap 0x241 s
        | some off =>
          match s.checkMap s.req va.toNat 8 0 with
          | some c => trapAt c va 0 s
          | none =>
            if ¬ isNear va.toNat then trap 0x241 s
            else
              let x := (s.ctx tile slot).reflex
              if x.armed || x.active then ret d 1 s
              else if (s.armedOn tile va.toNat).isSome then ret d 2 s
              else
                let p : Preset := ⟨l.hdr + BitVec.ofNat 48 off, me.rg 5, me.rg 6, me.rg 7, me.od, l.numctl, va.toNat, dfld w 31 16, t.id⟩
                let s := s.setCtx tile slot { s.ctx tile slot with b1 := presetBank p, reflex := { armed := true, preset := some p } }
                let s := (s.setMe (s.me.wg d.toNat 0)).retire
                .next (if s.tag (lsLoc tile va.toNat) then s.lateActivation tile slot p false else s)
    | _, _ => trap 0x241 s

/-- UNPRIME (R364). -/
def execUnprime (d a : BitVec 5) (s : State) : Out :=
  let tile := s.cur.1
  let w := s.rg a
  let slot := dfld w 2 0
  if ¬ isXa tile ∨ s.me.kind ≠ 0 then insTrap 0x00A s
  else if dfld w 63 3 ≠ 0 ∨ ¬ ((s.task? s.me.task).map (fun t => t.slots.contains slot)).getD false then trap 0x241 s
  else
    let c := s.ctx tile slot
    if c.reflex.active then ret d 1 (s.setCtx tile slot { c with reflex := { c.reflex with disarm := true } })
    else if c.reflex.armed then
      ret d 0 (s.setCtx tile slot { c with reflex := { c.reflex with armed := false, preset := none } })
    else ret d 2 s

/-- The instruction at the PC of a bank would make ICOUNT exceed its ceiling (R362, R378). -/
def overCeiling (b : Bank) : Bool := decide (b.ceiling ≠ 0) && decide (b.ceiling < b.icount.toNat + 1)

/-- CEILING_TRIP: an activation whose next instruction would exceed the ceiling ends with a record and CEIL raised (R362). -/
def execCeilingTrip (tile slot : Nat) (s : State) : Out :=
  let r : BankRef := ⟨tile, slot, 1⟩
  let b := s.bank r
  if (s.ctx tile slot).active = 1 ∧ b.seeded ∧ b.kind = 3 ∧ b.wait.isNone ∧ overCeiling b then
    .next ((s.leave r).enterTrap r ⟨0x247, 0, 0⟩ b.pc false false)
  else .next s

/-- BANK_SWITCH_COMPLETE (R140, R361): bank 1 runs its activation; or bank 0 is back, bank 1 is loaded from its presets, the activation is
over, and the slot is disarmed, begins at once on a full trigger word, or waits for the next fill. -/
def execBankSwitchComplete (tile slot : Nat) (s : State) : Out :=
  let c := s.ctx tile slot
  match c.switch with
  | none => .next s
  | some (k, due) =>
    if ¬ isXa tile ∨ s.cycle < due then .next s
    else if k = 1 then .next (s.setCtx tile slot { c with active := 1, switch := none })
    else
      let s := (performList ⟨tile, slot, 1⟩ c.b1.rlx s).cancelResv ⟨tile, slot, 1⟩
      let c := s.ctx tile slot
      let x := { c.reflex with active := false, late := false }
      let x := if x.disarm then { x with armed := false, preset := none, disarm := false } else x
      let b1 := match c.reflex.preset with
        | some p => presetBank p
        | none => { c.b1 with seeded := false }
      let s := s.setCtx tile slot { c with active := 0, switch := none, b1 := b1, reflex := x }
      match (if x.armed then x.preset else none) with
      | some p => .next (if s.tag (lsLoc tile p.trigger) then s.lateActivation tile slot p true else s)
      | none => .next s

end Sys2Proof.Machine
end

