-- ==== Sys2Proof/Machine/Seize.lean ====
section
/-! DEFINITION. Seizure: SEIZE, SRLS, SEIZQ, the seizure state machine of a tile and the leash ceiling (R374 to R381). -/

namespace Sys2Proof.Machine

/-! ### The instructions -/

/-- The leash capability in g[B] against LEASHSET, and the target (R374, R375). -/
def State.leashAllowed (s : State) (t : Nat) (cap : Dword) (target : Nat) : Bool :=
  let x := (s.tenant t).leash
  let rect : BitVec 18 := BitVec.ofNat 18 (dfld cap 17 0)
  let cast := match s.boot.cct with
    | some c => c.leashable.getLsbD target
    | none => false
  dfld cap 31 24 == 0 && dfld cap 23 18 == t && x.getLsbD 18 && dfld x 17 0 == dfld cap 17 0 && dfld x 63 32 == dfld cap 63 32 &&
    inRect rect target && isLa target && cast

/-- SEIZE (R375): the checks at issue, then the message leaves and the thread waits for the reply. -/
def execSeize (d a b : BitVec 5) (x0 : BitVec 32) (s : State) : Out :=
  let me := s.me
  let x := s.rg a
  if ¬ isXa s.cur.1 ∨ me.kind = 1 ∨ me.kind = 2 then insTrap 0x00A s
  else if 2 ^ 19 ≤ x0.toNat ∨ fld x0.toNat 5 0 ≠ 0 then trap 0x246 s
  else if 512 ≤ x.toNat ∨ ¬ s.leashAllowed me.tenant (s.rg b) x.toNat then trap 0x244 s
  else
    let z : Seizure := {
      seizer := s.curRef, task := me.task, hdr := fld x0.toNat 15 0, n := fld x0.toNat 18 16 + 1, od := me.od,
      g5 := me.rg 5, g6 := me.rg 6, g7 := me.rg 7, numctl := setFld me.numctl 22 16 0 }
    .next ((s.park (.seize d.toNat)).send (.seize x.toNat z))

/-- SRLS without a register (R379): leash code releases the seizure of its own tile. -/
def execSrls (s : State) : Out :=
  if s.me.kind ≠ 2 then insTrap 0x00A s else .next (s.retire.releaseSeizure s.cur.1)

/-- SRLS with a target (R379): a thread of the seizing task releases the seizure that the task holds. -/
def execSrlsRemote (a : BitVec 5) (s : State) : Out :=
  let x := s.rg a
  let z := (s.tile x.toNat).seize
  if ¬ isXa s.cur.1 ∨ s.me.kind = 2 then insTrap 0x00A s
  else if 512 ≤ x.toNat then trap 0x244 s
  else if z.st = 0 ∨ z.st = 4 ∨ z.task ≠ s.me.task ∨ z.seizer.tile ≠ s.cur.1 then trap 0x245 s
  else .next (s.retire.send (.srls x.toNat s.me.task))

/-- What SEIZQ reads of a tile (R380). -/
def seizqWord (z : Seizure) : Nat :=
  let who := if z.st = 0 then z.lastBy else z.seizer
  z.st + who.tile * 2 ^ 8 + who.slot * 2 ^ 17 + z.count.toNat % 2 ^ 32 * 2 ^ 32

/-- SEIZQ (R380): the checks at issue, and then waiting for the target's reply. -/
def execSeizq (d a : BitVec 5) (s : State) : Out :=
  let x := s.rg a
  let rect : BitVec 18 := BitVec.ofNat 18 (dfld (s.tenant s.me.tenant).leash 17 0)
  if 512 ≤ x.toNat ∨ ¬ (s.member s.me.tenant x.toNat || inRect rect x.toNat) then trap 0x244 s
  else .next (s.park (.seizq x.toNat d.toNat))

/-! ### The state machine of a tile (R376) -/

/-- The header in the leash partition read and checked (R376): the seizure with what the header held. A reserved field that is not 0 fails the
check (R7, log entry 102). -/
def State.readLeashHeader (s : State) (tile : Nat) (z : Seizure) : Seizure :=
  let base := lsLoc tile (0xF0000 + z.hdr)
  let h := s.load base 64
  let off := fldB h 0x20 3
  let n := fldB h 0x23 1
  let clean := decide (fldB h 0x0C 4 < 64) && decide (fldB h 0x1C 2 < 256) && decide (fldB h 0x1E 2 < 128)
  let inside := decide (0xF0000 + z.hdr + off + 8 * n ≤ 0x100000)
  let rs := if inside then entriesOf (s.load (base + off) (8 * n)) 8 n else []
  let leash := rs.filter (fun r => fldB r 4 1 == 3)
  let entry := fldB (leash.headD 0) 0 4
  { z with
    valid := fldB h 0 4 == 0x484B5A47 && bitOf (fldB h 0x0C 4) 3 && clean && inside && !rs.any roleBad && leash.length == 1 &&
      decide (0xF0000 + z.hdr + entry < 0x100000)
    entry := entry, trapOff := fldB h 0x18 4, ceiling := fldB h 0x2C 4 }

/-- SEIZE_ARRIVAL: an idle tile freezes its matrix task queue and reads the header; a busy one replies 1; a killed seizer's message is discarded. -/
def execSeizeArrival (tile : Nat) (s : State) : Out :=
  match findIx (fun m => match m with
    | Msg.seize t _ => t == tile
    | _ => false) s.net 0 with
  | some (i, .seize _ z) =>
    let s := { s with net := listDel s.net i }
    let t := s.tile tile
    match s.task? z.task with
    | none => .next s
    | some k =>
      if k.killing then .next s
      else if t.seize.st ≠ 0 then .next (s.send (.seizeReply z.seizer z.task 1))
      else
        let z := s.readLeashHeader tile z
        .next (s.setTile tile { t with
          mx := { t.mx with frozen := true }
          seize := { z with
            st := 1, arrive := s.cycle, first := false, lastBy := t.seize.lastBy, count := t.seize.count, cyc := t.seize.cyc,
            last := t.seize.last, worst := t.seize.worst } })
  | _ => .next s

/-- SEIZURE_DRAIN_COMPLETE: the steps in the array are done; a valid header begins the switch of all 8 contexts, an invalid one ends with reply 2. -/
def execSeizureDrainComplete (tile : Nat) (s : State) : Out :=
  let t := s.tile tile
  let stepping := t.mx.tq.any (·.inArray)
  if t.seize.st ≠ 1 then .next s
  else if t.seize.valid && stepping then .next s
  else if ¬ t.seize.valid then
    .next ((s.setTile tile { t with mx := { t.mx with frozen := false }, seize := { t.seize with st := 0 } }).send
      (.seizeReply t.seize.seizer t.seize.task 2))
  else
    let s := s.setTile tile { t with seize := { t.seize with st := 2, start := s.cycle } }
    .next ((List.range 8).foldl (fun s k =>
      s.setCtx tile k { s.ctx tile k with switch := some (1, s.cycle + 9), swapStart := s.cycle }) s)

/-- A leash context's bank 1 (R378); an odd entry makes it begin with the trap 0x008 (R59, log entry 102). -/
def leashBank (s : State) (z : Seizure) (l : Nat) : Bank :=
  let task := s.task? z.task
  let launch := task.bind (fun t => s.launch? t.launch)
  let hdr := 0xF0000 + z.hdr
  let pc := BitVec.ofNat 48 ((hdr + z.entry) / 2 * 2)
  let lane := BitVec.ofNat 64 l
  { g := [(1, lane), (2, lane), (3, 0xF0000), (4, BitVec.ofNat 64 (z.seizer.tile + z.seizer.slot * 512)), (5, z.g5), (6, z.g6), (7, z.g7)],
    od := z.od, numctl := z.numctl, pc := pc, kind := 2,
    wait := if z.entry % 2 = 1 then some (.trap ⟨0x008, pc.setWidth 64, 0⟩ pc) else none,
    trap := ⟨0, 0, 0, 0, if z.trapOff = 0 then 0 else BitVec.ofNat 48 ((hdr + z.trapOff) / 2 * 2), false, false, false⟩,
    prio := (launch.map (·.prio)).getD 0, lane := l, tenant := (launch.map (·.tenant)).getD 0,
    taskIndex := (task.map (·.index)).getD 0, lid := (launch.map (·.lid)).getD 0, quota := (launch.map (·.quota)).getD 0,
    task := z.task, seizer := some z.seizer, ceiling := z.ceiling, seeded := true, quantLeft := 0xFFFFFFFF }

/-- SEIZURE_SWAP_COMPLETE: after the 8 cycles of the switch (R140) all contexts run bank 1, and n of them hold leash threads. -/
def execSeizureSwapComplete (tile : Nat) (s : State) : Out :=
  let z := (s.tile tile).seize
  if z.st ≠ 2 ∨ s.cycle < z.start + 9 then .next s
  else
    let s := s.setTile tile { s.tile tile with seize := { z with st := 3 } }
    .next ((List.range 8).foldl (fun s k =>
      let s := s.seat ⟨tile, k, 1⟩ (if k < z.n then leashBank s z k else {})
      s.setCtx tile k { s.ctx tile k with active := 1, switch := none }) s)

/-- LEASH_CEILING: a leash context whose next instruction would exceed its header's ceiling forces the release (R378). -/
def execLeashCeiling (tile slot : Nat) (s : State) : Out :=
  let r : BankRef := ⟨tile, slot, 1⟩
  let b := s.bank r
  if (s.ctx tile slot).active = 1 ∧ b.seeded ∧ b.kind = 2 ∧ b.wait.isNone ∧ (s.tile tile).seize.st = 3 ∧ overCeiling b then
    .next ((s.record (s.threadRec r 0x248 3 (engineId 0 tile 0) none b.pc.toNat)).releaseSeizure tile)
  else .next s

/-- REMOTE_SRLS_ARRIVAL: the release by the seizing task, or its kill, reaches the tile. -/
def execRemoteSrlsArrival (tile : Nat) (s : State) : Out :=
  match findIx (fun m => match m with
    | Msg.srls t _ => t == tile
    | _ => false) s.net 0 with
  | some (i, .srls _ task) =>
    let s := { s with net := listDel s.net i }
    let t := s.tile tile
    let z := t.seize
    if z.task ≠ task ∨ z.st = 0 ∨ z.st = 4 then .next s
    else if z.st = 1 then
      .next ((s.setTile tile { t with mx := { t.mx with frozen := false }, seize := { z with st := 0 } }).send
        (.seizeReply z.seizer z.task 3))
    else .next (s.releaseSeizure tile)
  | _ => .next s

/-- SEIZE_REPLY_ARRIVAL: the reply to a bank's SEIZE, discarded when its thread is being killed (R375). -/
def execSeizeReplyArrival (tile slot bank : Nat) (s : State) : Out :=
  let r : BankRef := ⟨tile, slot, bank⟩
  match findIx (fun m => match m with
    | Msg.seizeReply d _ _ => d == r
    | _ => false) s.net 0 with
  | some (i, .seizeReply _ task val) =>
    let s := { s with net := listDel s.net i }
    match (s.bank r).wait with
    | some (.seize reg) =>
      if (s.bank r).task ≠ task ∨ ((s.task? task).map (·.killing)).getD true then .next s
      else .next (s.wake r (.g reg) (val.setWidth 1024))
    | _ => .next s
  | _ => .next s

/-- One context back in bank 0 (R379, R381): leash stores already sent are performed, leash loads and mailbox reads discarded,
bank 1 is FREE. -/
def State.swapBack (s : State) (tile slot : Nat) : State :=
  let r : BankRef := ⟨tile, slot, 1⟩
  let s := (performList r (((s.ctx tile slot).b1.rlx).filter (·.write)) s).cancelResv r |>.withdraw r
  let s := { s with mailboxes := s.mailboxes.map (fun (m : Nat × Mailbox) => (m.1, { m.2 with reads := m.2.reads.filter (fun x => x.1 != r) })) }
  let c := s.ctx tile slot
  s.setCtx tile slot { c with
    active := 0, switch := none, b1 := {},
    b0 := { c.b0 with
      seizeCount := satInc c.b0.seizeCount 0xFFFF, seizeCyc := (c.b0.seizeCyc + (s.cycle - c.swapStart)) % 2 ^ 48 } }

/-- SEIZURE_RELEASE_COMPLETE: the switch back ends and the counters are updated; the matrix task queue resumes. -/
def execSeizureReleaseComplete (tile : Nat) (s : State) : Out :=
  let z := (s.tile tile).seize
  if z.st ≠ 4 ∨ s.cycle < z.start + 10 then .next s
  else
    let began := (s.ctx tile 0).swapStart
    let s := (List.range 8).foldl (fun s k => s.swapBack tile k) s
    let t := s.tile tile
    .next (s.setTile tile { t with
      mx := { t.mx with frozen := false }
      seize := { t.seize with
        st := 0, lastBy := z.seizer, count := z.count + 1, cyc := z.cyc + BitVec.ofNat 64 (s.cycle - began) } })

end Sys2Proof.Machine
end

