-- ==== Sys2Proof/Machine/Matrix.lean ====
section
/-! DEFINITION. The matrix unit: the MX instructions, LDT and MCMD, the start and completion of commands, and clearing (R212 to R241). -/

namespace Sys2Proof.Machine

/-! ### Formats (R216, R217) -/

/-- Class of a descriptor format: 0 the 8-bit class, 1 Q4, 2 the 16-bit class. -/
def mxClass (fmt : Nat) : Option Nat :=
  if fmt = 0 ∨ fmt = 1 ∨ fmt = 7 ∨ fmt = 8 then some 0 else if fmt = 9 then some 1 else if fmt = 4 ∨ fmt = 5 then some 2 else none

/-- K of a format. -/
def mxK (fmt : Nat) : Nat :=
  match mxClass fmt with
  | some 0 => 32
  | some 1 => 64
  | _ => 16

/-- The exact value of an element's bits. -/
def elemNum (fmt x : Nat) : Num :=
  match fmt with
  | 0 => ofInt (BitVec.ofNat 8 x).toInt 0 false
  | 1 => .fin false (x % 256) 0
  | 7 => e4m3.read false x
  | 8 => e5m2.read false x
  | 4 => fp16.read false x
  | _ => bf16.read false x

/-- The K elements of 32 bytes, with the two scale words of Q4; `none` is an element of a NaN block. -/
def elems (fmt : Nat) (bs : List Byte) (s0 s1 : Nat) : List (Option Num) :=
  let byte := fun k => ((bs[k]?).getD (0 : Byte)).toNat
  match mxClass fmt with
  | some 0 => (List.range 32).map (fun k => some (elemNum fmt (byte k)))
  | some 1 => (List.range 64).map (fun k => q4Elem (if k < 32 then s0 else s1) (byte (k / 2) / 16 ^ (k % 2) % 16))
  | _ => (List.range 16).map (fun k => some (elemNum fmt (byte (2 * k) + 256 * byte (2 * k + 1))))

/-! ### The control word (R219, R220) -/

/-- Number with bits [hi:lo] set. -/
def bitsMask (hi lo : Nat) : Nat := 2 ^ (hi + 1) - 2 ^ lo

/-- Control-word fields that a minor uses (R225). -/
def mxUsed (minor : Nat) : Nat :=
  let row0 := bitsMask 5 0
  let nm1 := bitsMask 11 6
  let bank := bitsMask 13 12
  let odf := bitsMask 16 14
  let sync := bitsMask 21 17
  let recoff := bitsMask 49 33
  let sblk := bitsMask 63 50
  match minor with
  | 0 => odf + sync + recoff + sblk
  | 2 => row0 + nm1 + bank + odf + sync + bitsMask 29 22 + recoff + sblk
  | 3 => row0 + nm1 + bank + bitsMask 21 18
  | 7 => row0 + nm1 + bank + odf + sync + recoff
  | _ => row0 + bank + bitsMask 31 30 + bitsMask 32 32

def MxCmd.f (c : MxCmd) (hi lo : Nat) : Nat := dfld c.ctl hi lo
def MxCmd.row0 (c : MxCmd) : Nat := c.f 5 0
/-- Row count. -/
def MxCmd.n (c : MxCmd) : Nat := c.f 11 6 + 1
def MxCmd.bank (c : MxCmd) : Nat := c.f 13 12
def MxCmd.scope (c : MxCmd) : Nat := c.f 21 19
/-- Row stride in bytes. -/
def MxCmd.step (c : MxCmd) : Nat := 32 * max 1 (c.f 29 22)
def MxCmd.recoff (c : MxCmd) : Nat := 8 * c.f 49 33
def MxCmd.fmt (c : MxCmd) : Nat := dfld c.od 3 0
def MxCmd.norec (c : MxCmd) : Bool := c.od.getLsbD 4
def MxCmd.swz (c : MxCmd) : Nat := dfld c.od 55 48
/-- Near-window offset of the first scale word (R218). -/
def MxCmd.scaleAt (c : MxCmd) : Nat := 64 * dfld c.od 47 6 + (if c.minor = 16 then 0 else 2 * c.f 63 50)
/-- MWLD and LDT are loads. -/
def MxCmd.isLoad (c : MxCmd) : Bool := c.minor == 0 || c.minor == 16
/-- Minors whose control word names a bank. -/
def MxCmd.usesBank (c : MxCmd) : Bool := c.isStep || c.minor == 3 || c.minor == 4 || c.minor == 5

/-- The permitted range of R220. -/
def mxRange (leash xa : Bool) (a n : Nat) : Bool :=
  let lo := if leash then 0xF0000 else 0
  let hi := if leash then 0x100000 else if xa then 0x80000 else 0xF0000
  decide (lo ≤ a) && decide (a + n ≤ hi)

/-- Format, swizzle and read-out format (0x141). -/
def MxCmd.formatBad (c : MxCmd) : Bool :=
  if c.minor = 4 ∨ c.minor = 5 then c.f 31 30 == 3
  else if c.minor = 0 then (mxClass c.fmt).isNone || decide (7 < c.swz)
  else if c.isStep then (mxClass c.fmt).isNone || (c.minor == 7 && c.fmt == 9) || c.swz != 0
  else if c.minor = 16 then (mxClass c.fmt).isNone
  else false

/-- Addresses (0x142): plane or rows, MGATH's pointers, the record, and Q4 scale words. -/
def MxCmd.addressBad (c : MxCmd) (leash xa : Bool) : Bool :=
  let ok := mxRange leash xa
  let a := c.ga.toNat
  let scales := fun (n : Nat) => c.fmt == 9 && (dfld c.od 47 6 == 0 || !ok c.scaleAt (4 * n))
  let rec_ := !c.norec && !ok c.recoff 8
  match c.minor with
  | 0 => a % 32 != 0 || !ok a 1024 || rec_ || scales 32
  | 2 => a % 32 != 0 || !ok a (c.step * (c.n - 1) + 32) || rec_ || scales c.n
  | 7 => a % 8 != 0 || !ok a (2 * (c.n + 1)) || rec_
  | 16 => scales 32
  | _ => false

/-- The first of the issue checks of R220 after 0x144 that fails. -/
def MxCmd.cause (c : MxCmd) (leash xa : Bool) : Option Nat :=
  let m := c.minor
  if (m = 1 ∨ m = 8) ∧ leash then some 0x146
  else if c.usesBank ∧ (c.bank = 3 ∨ (c.bank = 2) ≠ leash) then some 0x146
  else if m ≠ 1 ∧ m ≠ 8 ∧ m ≠ 16 ∧ c.ctl.toNat &&& (2 ^ 64 - 1 - mxUsed m) ≠ 0 then some 0x143
  else if m = 16 ∧ c.f 63 27 ≠ 0 then some 0x143
  else if (c.isStep ∨ m = 3) ∧ 64 < c.row0 + c.n then some 0x143
  else if (m = 4 ∨ m = 5) ∧ c.f 32 32 = 1 ∧ ¬ xa then some 0x143
  else if (m = 0 ∨ c.isStep ∨ m = 3) ∧ 6 ≤ c.scope then some 0x006
  else if c.formatBad then some 0x141
  else if c.addressBad leash xa then some 0x142
  else none

/-! ### Issue (R213, R222, R225) -/

/-- The running thread is leash code. -/
def State.leashCode (s : State) : Bool := s.me.kind == 2

/-- The ownership check of R213. -/
def ownGate (s : State) (f : State → Out) : Out :=
  let m := (s.tile s.cur.1).mx
  let foreign : Bool := match m.owner with
    | some t => t != s.me.task
    | none => false
  if ¬ s.leashCode ∧ (m.clearing ∨ foreign) then trap 0x144 s else f s

/-- A unit without an owner is claimed by the thread's task. -/
def State.claim (s : State) : State :=
  let t := s.tile s.cur.1
  if s.leashCode ∨ t.mx.owner.isSome then s
  else s.setTile s.cur.1 { t with mx := { t.mx with owner := some s.me.task, steps := 0 } }

/-- A pending deferred error of the thread is delivered (R235), else the instruction goes on. -/
def deliverGate (s : State) (f : State → Out) : Out :=
  match s.me.mxErr with
  | some (cause, pc, addr) => trapAt cause addr (pc.setWidth 64) (s.setMe { s.me with mxErr := none })
  | none => f s

/-- Commands of a queue that have not started: the entries that it holds (R222). -/
def waiting (q : List MxCmd) : Nat := (q.filter (fun c => c.started.isNone)).length
/-- Room for one more command. -/
def Matrix.room (m : Matrix) (leash : Bool) : Bool := if leash then decide (waiting m.lq < 4) else decide (waiting m.tq < 8)
/-- A command appended to its queue. -/
def Matrix.push (m : Matrix) (leash : Bool) (c : MxCmd) : Matrix :=
  if leash then { m with lq := m.lq ++ [c] } else { m with tq := m.tq ++ [c] }

/-- The commands of a tile's banks that wait for an entry of a queue. -/
def State.mxWaiters (s : State) (tile : Nat) (leash : Bool) : List (BankRef × MxCmd) :=
  (List.range 16).filterMap (fun ix =>
    let r : BankRef := ⟨tile, ix / 2, ix % 2⟩
    match (s.bank r).wait with
    | some (.mxFull c) => if ((s.bank r).kind == 2) == leash then some (r, c) else none
    | _ => none)

/-- A new command finds an entry: one that frees goes to the commands that wait first (R222). -/
def State.mxRoom (s : State) (tile : Nat) (leash : Bool) : Bool := (s.tile tile).mx.room leash && (s.mxWaiters tile leash).isEmpty

/-- A command enters its queue, or its thread waits for an entry (R222). -/
def enterMx (c : MxCmd) (s : State) : Out :=
  let leash := s.leashCode
  let s := { s.claim with fresh := s.fresh + 1 }
  let t := s.tile s.cur.1
  if s.mxRoom s.cur.1 leash then .next (s.setTile s.cur.1 { t with mx := t.mx.push leash c }).retire else .next (s.park (.mxFull c))

/-- The command of the running thread. -/
def State.mxCmd (s : State) (minor : Nat) (ga ctl od : Dword) : MxCmd :=
  { id := s.fresh, minor := minor, ga := ga, ctl := ctl, od := od, vdata := 0, data := [], todo := [], scl := [], gath := [], owner := s.curRef,
    thread := s.me.thread, sender := s.me.task, task := s.me.task, pc := s.me.pc, remote := false, notify := none, win := s.me.nextWin,
    rows := [], drained := 0, started := none }

/-- The issue of a command that only enters the queue, with the ports that it reads. -/
def mxIssue (minor : Nat) (ga ctl : Dword) (vdata : Vec) (srcs : List (BitVec 5)) (s : State) : Out :=
  ownGate s fun s =>
    let c := { s.mxCmd minor ga ctl (s.me.rod (dfld ctl 16 14)) with vdata := vdata }
    match c.cause s.leashCode (isXa s.cur.1) with
    | some k => if k < 64 then insTrap k s else trap k s
    | none => enterMx c (s.usePorts srcs)

def execMwld (a b : BitVec 5) (s : State) : Out := gate s fun s => mxIssue 0 (s.rg a) (s.rg b) 0 [] s
def execMwswap (s : State) : Out := mxIssue 1 0 0 0 [] s
def execMstrm (a b : BitVec 5) (s : State) : Out := gate s fun s => mxIssue 2 (s.rg a) (s.rg b) 0 [] s
def execMzero (b : BitVec 5) (s : State) : Out := mxIssue 3 0 (s.rg b) 0 [] s
def execMgath (a b : BitVec 5) (s : State) : Out := gate s fun s => mxIssue 7 (s.rg a) (s.rg b) 0 [] s
def execMxswap (s : State) : Out := mxIssue 8 0 0 0 [] s
/-- MWRA takes its lanes at issue. -/
def execMwra (a b : BitVec 5) (s : State) : Out :=
  vecGate [a] none s fun s => mxIssue 5 0 (s.rg b) (s.rv a) [a] s

/-- MRDA (R231): checks, a pending error, and the read-out command with the thread's NUMCTL. -/
def execMrda (d b : BitVec 5) (k : BitVec 4) (s : State) : Out :=
  vecGate [] (some d) s fun s => ownGate s fun s =>
    let c := s.mxCmd 4 s.me.numctl (s.rg b) 0
    match c.cause s.leashCode (isXa s.cur.1) with
    | some k => trap k s
    | none => deliverGate s fun s => enterMx c ((s.useCredit d).openWindow k.toNat (.v d.toNat) none none)

/-- A thread's own commands that have not completed (R233). -/
def State.mxBusy (s : State) (r : BankRef) : Bool :=
  let m := (s.tile r.tile).mx
  (m.tq ++ m.lq).any (fun c => c.owner == r && c.thread == (s.bank r).thread && !c.remote)

/-- MWAIT (R233). -/
def execMwait (s : State) : Out :=
  ownGate s fun s =>
    let s := s.claim
    if s.mxBusy s.curRef then .next (s.park .mwait) else deliverGate s fun s => .next s.retire

/-- The status word of R234 for a thread without a pending error. -/
def mstatWord (m : Matrix) : Nat :=
  waiting m.tq + waiting m.lq * 2 ^ 4 + b2n ((m.tq ++ m.lq).any (·.inArray)) * 2 ^ 7 + b2n m.frozen * 2 ^ 8 +
    b2n m.clearing * 2 ^ 9 + m.active.fmt * 2 ^ 10 + m.shadow.fmt * 2 ^ 14 + b2n m.owner.isSome * 2 ^ 18 + m.rflags.toNat * 2 ^ 32 +
    m.steps % 2 ^ 24 * 2 ^ 40

def execMstat (d : BitVec 5) (s : State) : Out :=
  deliverGate s fun s => done d.toNat 2 (BitVec.ofNat 64 (mstatWord (s.tile s.cur.1).mx)) s

/-! ### LDT (R236) -/

/-- Pieces of a run cut at 64-byte granules. -/
def granules : Nat → Nat → Nat → List (Nat × Nat)
  | 0, _, _ => []
  | f + 1, va, n => if n = 0 then [] else let k := min n (64 - va % 64); (va, k) :: granules f (va + k) (n - k)

/-- The bytes of a target. -/
def State.bytesAt (s : State) (t : Target) (n : Nat) : List Byte :=
  match t with
  | .mem loc => s.bytes loc n
  | .win tile off => natBytes n (s.winRead tile off n)

/-- Every piece of a source checked for the running thread, in order: a trap, or the targets, `none` where a page is not present. -/
def checkPieces : List (Nat × Nat) → List (Option Target) → State → (List (Option Target) → State → Out) → Out
  | [], ts, s, f => f ts s
  | (va, _) :: ps, ts, s, f =>
    accessElse (fun _ s => checkPieces ps (ts ++ [none]) s f) (BitVec.ofNat 64 va) 1 0 s fun t s => checkPieces ps (ts ++ [some t]) s f

/-- Columns of a plane from row-major rows of a class. -/
def transposed (fmt : Nat) (src : List Byte) : List Byte :=
  let byte := fun k => ((src[k]?).getD (0 : Byte)).toNat
  let nib := fun k n => byte (16 * k + n / 2) / 16 ^ (n % 2) % 16
  (List.range 1024).map (fun i =>
    let n := i / 32
    let j := i % 32
    BitVec.ofNat 8 (match mxClass fmt with
      | some 0 => byte (32 * j + n)
      | some 1 => nib (2 * j) n + 16 * nib (2 * j + 1) n
      | _ => byte (64 * (j / 2) + 2 * n + j % 2)))

/-- The pieces of an LDT's source: its rows cut at granules (R236). -/
def MxCmd.source (c : MxCmd) : List (Nat × Nat) :=
  let rowBytes := match mxClass c.fmt with
    | some 0 => 32
    | some 1 => 16
    | _ => 64
  (List.range (mxK c.fmt)).flatMap (fun k => granules 3 ((c.ga.toNat + k * c.f 23 0) % 2 ^ 64) rowBytes)

/-- LDT: the checks, the reads as one plain access behind the thread's overlapping relaxed ones (R252), and the load command; uncorrectable data
ends it with 0x087. A page that is not present parks the request: the command is in its queue, and the thread goes on in the window (R65). -/
def execLdt (a b : BitVec 5) (k : BitVec 4) (s : State) : Out :=
  gate s fun s => ownGate s fun s =>
    let ctl := s.rg b
    let c := s.mxCmd 16 (s.rg a) ctl (s.me.rod (dfld ctl 26 24))
    match c.cause s.leashCode (isXa s.cur.1) with
    | some k => trap k s
    | none => checkPieces c.source [] s fun ts s =>
      let src := c.source
      if ts.all Option.isSome then
        let ts := ts.filterMap id
        let spans := (ts.zip src).map (fun p => (p.1.loc, p.2.2))
        let s := s.drainOverlap s.curRef (spans.map (fun p => ⟨p.1, p.2, 0⟩))
        let s := traceLoads s.curRef (spans.map (fun p => ⟨p.1, p.2, 0⟩)) s
        match s.poisonErr s.curRef (s.rg a) spans with
        | (s, some e) => .next (s.claim.finishLong k.toNat .none (some 0) (some e) 0)
        | (s, none) =>
          let bs := (ts.zip src).flatMap (fun p => s.bytesAt p.1 p.2.2)
          enterMx { c with data := transposed c.fmt bs } (s.openWindow k.toNat .none (some 0) none)
      else
        let absent := (((ts.zip src).find? (fun p => p.1.isNone)).map (·.2.1)).getD 0
        let s := s.claim.parkRequest s.me.tenant (.thread s.curRef) absent 0 s.me.lid
        enterMx { c with todo := src } (s.openWindow k.toNat .none none none)

/-! ### Accesses of the host and of notify words (R215, R239, R456) -/

/-- All ones over a number of bytes. -/
def ones (n : Nat) : BitVec 512 := BitVec.ofNat 512 (2 ^ (8 * n) - 1)

/-- The parts of a host read traced and put together. -/
def hostRead (base : Nat) : List (Nat × Nat × Nat) → State → State × Nat
  | [], s => (s, 0)
  | (o, n, l) :: ps, s =>
    let x := s.readTarget (locTarget l) n
    let s := match locTarget l with
      | .mem l => s.traceAt l n 0 0x1DA 0 0 5 true
      | _ => s
    let r := hostRead base ps s
    (r.1, r.2 + x * 2 ^ (8 * (o - base)))

/-- The parts of a host's write, or of a notify word, performed. -/
def hostStore (base val kind src : Nat) : List (Nat × Nat × Nat) → State → State
  | [], s => s
  | (o, n, l) :: ps, s =>
    hostStore base val kind src ps (s.engineWrite (locTarget l) n (val / 2 ^ (8 * (o - base)) % 2 ^ (8 * n)) kind src)

/-- A host read performed; the bytes that it returns for a line that cannot be read are free (log entry 2). -/
def State.hostAnswer (s : State) (fn base : Nat) (parts : List (Nat × Nat × Nat)) : State :=
  let s := s.meetAll (parts.map (fun p => (p.2.2, p.2.1)))
  match parts.find? (fun p => s.poisoned p.2.2 p.2.1) with
  | some p =>
    let n := (parts.map (·.2.1)).foldl (· + ·) 0
    (s.record { RecIn.unreadable { cause := 0, sev := 2, engine := 0 } p.2.2 with engine := engineId 8 0x1DA 0 }).drawn.answer fn base
      (BitVec.ofNat 512 (s.free % 2 ^ (8 * n)))
  | none =>
    let r := hostRead base parts s
    r.1.answer fn base (BitVec.ofNat 512 r.2)

/-- A part of such an access has to wait for matrix commands accepted before it. -/
def State.unitWaits (s : State) (a : UnitAccess) : Bool :=
  a.parts.any (fun p => match locTarget p.2.2 with
    | .win tile off => s.unitBusy tile off a.upto
    | .mem _ => false)

/-- Such an access performed, or kept until its unit is free (R215). -/
def State.unitAccess (s : State) (a : UnitAccess) : State :=
  if s.unitWaits a then { s with atUnit := s.atUnit ++ [a] }
  else if a.read then s.hostAnswer (a.fn.getD 0) a.base a.parts
  else hostStore a.base a.val a.kind a.src a.parts s

/-- Everything that waits at a matrix unit looked at again. -/
def State.serveAtUnit (s : State) : State :=
  if s.atUnit = [] then s else s.atUnit.foldl (fun s a => s.unitAccess a) { s with atUnit := [] }

/-! ### The end of a command -/

/-- A queue with one command replaced, or removed. -/
def mxSet (q : List MxCmd) (c : MxCmd) : List MxCmd := q.map (fun x => if x.id = c.id then c else x)
def mxDel (q : List MxCmd) (c : MxCmd) : List MxCmd := q.filter (fun x => x.id != c.id)
def Matrix.setCmd (m : Matrix) (c : MxCmd) : Matrix := { m with tq := mxSet m.tq c, lq := mxSet m.lq c }
def Matrix.delCmd (m : Matrix) (c : MxCmd) : Matrix := { m with tq := mxDel m.tq c, lq := mxDel m.lq c }
def Matrix.queue (m : Matrix) (leash : Bool) : List MxCmd := if leash then m.lq else m.tq

/-- A thread in MWAIT whose commands have all completed goes on, or takes its deferred error (R233, R235). -/
def State.mwaitDone (s : State) (r : BankRef) : State :=
  if (s.bank r).wait = some .mwait ∧ ¬ s.mxBusy r then
    match (s.bank r).mxErr with
    | some (cause, pc, addr) => (s.setBank r { s.bank r with mxErr := none }).refuse r ⟨cause, addr, pc.setWidth 64⟩
    | none => s.wake r .none 0
  else s

/-- A command leaves the unit: a remote one sets its notify word to 0 or to the cause (R239), which waits where the word is a busy unit's (R215);
what waited for the command is performed, and its thread may go on. -/
def State.finishMx (s : State) (tile : Nat) (c : MxCmd) (value : Nat) : State :=
  let t := s.tile tile
  let s := s.setTile tile { t with mx := t.mx.delCmd c }
  let s := match c.notify with
    | some va =>
      let q : Req := ⟨512, (s.engineReq c.owner c.sender).tenant, .other⟩
      match s.check q va 8 1 with
      | (s, .ok x) => s.unitAccess ⟨none, false, 0, [(0, 8, x.loc)], value, 6, tile, s.fresh⟩
      | (s, _) => s
    | none => s
  s.serveAtUnit.mwaitDone c.owner

/-- DeferredError (R235): the command is dropped, a record is written, and the error is pending for the issuing thread's bank, or, for a remote
command, in its notify word (R238). -/
def State.deferMx (s : State) (tile : Nat) (leash : Bool) (c : MxCmd) (cause addr : Nat) : State :=
  let r := s.taskRec c.owner c.sender cause 2 (engineId 2 tile (b2n leash)) (some addr) c.pc.toNat
  let s := s.record r
  let b := s.bank c.owner
  let s :=
    if ¬ c.remote ∧ b.seeded ∧ b.thread = c.thread ∧ b.mxErr.isNone then s.setBank c.owner { b with mxErr := some (cause, c.pc, BitVec.ofNat 64 addr) }
    else s
  s.finishMx tile c cause

/-- The LDT of a bank's thread whose reads are parked on a page: in its queue, or in the thread's wait for an entry (R222). -/
def State.ldtOf (s : State) (r : BankRef) : Option MxCmd :=
  let b := s.bank r
  let m := (s.tile (r.tile % 512)).mx
  match b.wait with
  | some (.mxFull c) => if c.todo = [] then none else some c
  | _ => (m.tq ++ m.lq).find? (fun c => c.minor == 16 && c.owner == r && c.thread == b.thread && c.todo != [])

/-- That LDT replaced. -/
def State.setLdt (s : State) (r : BankRef) (c : MxCmd) : State :=
  let b := s.bank r
  match b.wait with
  | some (.mxFull _) => s.setBank r { b with wait := some (.mxFull c) }
  | _ => s.setTile (r.tile % 512) { s.tile (r.tile % 512) with mx := (s.tile (r.tile % 512)).mx.setCmd c }

/-- That LDT ends with an error: its command leaves the unit, and a thread that waits for it or for its entry goes on to the trap (R233, R236). -/
def State.stopLdt (s : State) (r : BankRef) (c : MxCmd) (e : TrapInfo) : State :=
  match (s.bank r).wait with
  | some (.mxFull _) => (s.resultReady r c.win 0 (some e) 0).wake r .none 0
  | _ =>
    let k := r.tile % 512
    ((s.setTile k { s.tile k with mx := (s.tile k).mx.delCmd c }).resultReady r c.win 0 (some e) 0).serveAtUnit.mwaitDone r

/-- The LDT of a bank's thread that is parked on a page goes on when replay-all sends its request (R236, R267): pieces are read in order up to the
next page that is not present, each with its trace, behind the thread's relaxed accesses to its bytes (R252). -/
def State.resumeLdt (s : State) (r : BankRef) : Nat → State
  | 0 => s
  | f + 1 =>
    let b := s.bank r
    match s.ldtOf r with
    | none => s
    | some c =>
      match c.todo with
      | [] => s
      | (va, n) :: rest =>
        match s.check (b.req (r.tile % 512)) va 1 0 with
        | (s, .absent) => s.parkRequest b.tenant (.thread r) va 0 b.lid
        | (s, .trap k) => s.stopLdt r c ⟨k, BitVec.ofNat 64 va, 0⟩
        | (s, .ok t) =>
          let s := (s.drainOverlap r [⟨t.loc, n, 0⟩]).traceThread r t.loc n 0
          match s.poisonErr r (BitVec.ofNat 64 va) [(t.loc, n)] with
          | (s, some e) => s.stopLdt r c e
          | (s, none) =>
            let data := c.data ++ s.bytesAt t n
            if rest.isEmpty then (s.setLdt r { c with todo := [], data := transposed c.fmt data }).resultReady r c.win 0 none 0
            else (s.setLdt r { c with todo := rest, data := data }).resumeLdt r f

/-! ### Start (R223, R224) -/

/-- Some access waits at the unit of a tile for the commands numbered below `upto`, and this one came later (R215). -/
def State.heldBack (s : State) (tile : Nat) (c : MxCmd) : Bool :=
  let later := fun (p : Option (Nat × Nat)) => p.any (fun p => p.1 == tile && decide (p.2 ≤ c.id))
  let held := fun (b : Bank) => match b.wait with
    | some (.unit t _ u) => later (some (t, u))
    | _ => later (b.unitPass.map (fun u => (tile, u)))
  s.ctxs.any (fun x => held x.2.b0 || held x.2.b1) || s.queues.any (fun q => later q.2.pass) ||
    s.tiles.any (fun t => t.2.bte.any (fun x => later x.pass) || t.2.breads.any (fun x => x.bursts.any (fun u => later u.pass)) ||
      t.2.reds.any (fun x => later (x.pass.map (fun u => (tile, u))))) ||
    s.ctxs.any (fun x => (x.2.b0.rlx ++ x.2.b1.rlx).any (fun a => later (a.pass.map (fun u => (tile, u))))) ||
    s.atUnit.any (fun a => later (some (tile, a.upto)))

/-- The next cycle in which the array can take a row after a step whose rows have all entered (R223). -/
def MxCmd.after (c : MxCmd) (tile : Nat) : Nat := ((c.rows.getLast?).map (·.1)).getD 0 + (if isXa tile then 4 else 1)

/-- The unit has made the reads that a step needs before it starts: its record word and its Q4 scale words (R223). -/
def MxCmd.readDone (c : MxCmd) : Bool := !c.isStep || ((c.norec || c.recw.isSome) && (c.minor != 2 || c.fmt != 9 || decide (2 * c.n ≤ c.scl.length)))

/-- The start conditions against the commands before it, all of which have started: a leash step sees the plane that an earlier load of its set
leaves (R222). -/
def startsAfter (cycle tile : Nat) (leash : Bool) (before : List MxCmd) (c : MxCmd) : Bool :=
  let bankBusy := before.any (fun x => x.usesBank && x.bank == c.bank)
  let pending := fun m => before.any (fun x => x.minor == m)
  let entering := before.any (fun x => x.isStep && (x.rows.length != x.n || decide (cycle < x.after tile)))
  match c.minor with
  | 0 | 16 => !pending 1 && c.todo.isEmpty
  | 1 => !before.any (·.isLoad)
  | 8 => !before.any (fun x => x.usesBank || x.minor == 8)
  | 2 | 7 => c.readDone && !pending 1 && !pending 8 && !entering && !(leash && before.any (·.isLoad)) && !before.any (fun x => x.usesBank && !x.isStep && x.bank == c.bank)
  | _ => !bankBusy && !pending 8

/-- Row pointers and entries of an MGATH block (R229). -/
def gathPtr (s : State) (tile a i : Nat) : Nat := s.load (lsLoc tile (a + 2 * i)) 2
def gathEntry (s : State) (tile a size i : Nat) : Nat := s.load (lsLoc tile (a + 136 + size * i)) size
def gathSize (fmt : Nat) : Nat := if mxClass fmt = some 0 then 2 else 4

/-- The rows of an MGATH block as the unit reads them before the first row enters: columns and numbers of entries. -/
def gathRead (s : State) (tile : Nat) (c : MxCmd) : List (List (Nat × Nat)) :=
  let a := c.ga.toNat
  let size := gathSize c.fmt
  (List.range c.n).map (fun r =>
    let lo := gathPtr s tile a r
    (List.range (gathPtr s tile a (r + 1) - lo)).map (fun i => (gathEntry s tile a size (lo + i) % 256, lo + i)))

/-- The block is malformed (0x149). -/
def gathBad (s : State) (tile : Nat) (leash : Bool) (c : MxCmd) : Bool :=
  let a := c.ga.toNat
  let p := gathPtr s tile a
  let total := p c.n
  p 0 != 0 || (List.range c.n).any (fun i => decide (p (i + 1) < p i)) ||
    (decide (0 < total) && !mxRange leash (isXa tile) (a + 136) (gathSize c.fmt * total)) ||
    (gathRead s tile c).any (fun row => row.any (fun e => decide (mxK c.fmt ≤ e.1)))

/-- The runs of its tile's store that a command reads: record word, columns or rows, an MGATH's pointers, and scale words. -/
def MxCmd.reads (c : MxCmd) : List (Nat × Nat) :=
  let a := c.ga.toNat
  let rec_ := if (c.minor == 0 || c.isStep) && !c.norec then [(c.recoff, 8)] else []
  let scales := fun (n : Nat) => if c.fmt = 9 then [(c.scaleAt, 4 * n)] else []
  rec_ ++ (match c.minor with
    | 0 => (a, 1024) :: scales 32
    | 2 => (List.range c.n).map (fun r => (a + c.step * r, 32)) ++ scales c.n
    | 7 => [(a, 2 * (c.n + 1))]
    | 16 => scales 32
    | _ => [])

/-- The same as locations of a tile. -/
def MxCmd.spans (c : MxCmd) (tile : Nat) : List (Nat × Nat) := c.reads.map (fun p => (lsLoc tile p.1, p.2))

/-- The deferred error that the command meets at its start: cause and address; words that cannot be read are one (R425, log entry 107). -/
def startError (s : State) (tile : Nat) (leash : Bool) (c : MxCmd) : Option (Nat × Nat) :=
  let m := (s.tile tile).mx
  let reads := c.minor == 0 || c.isStep
  let plane := if leash then m.leash else m.active
  if (c.spans tile).any (fun p => s.poisoned p.1 p.2) then some (0x087, c.ga.toNat)
  else if reads ∧ ¬ c.norec ∧ fld (c.recw.getD (s.load (lsLoc tile c.recoff) 8)) 55 48 ≠ c.swz then some (0x145, c.recoff)
  else if c.isStep ∧ mxClass c.fmt ≠ mxClass plane.fmt then some (0x141, c.ga.toNat)
  else if c.minor = 7 ∧ gathBad s tile leash c then some (0x149, c.ga.toNat)
  else none

/-- Halfwords of a local store. -/
def State.scaleWords (s : State) (tile at_ n : Nat) : List (BitVec 16) := (List.range n).map (fun i => BitVec.ofNat 16 (s.load (lsLoc tile (at_ + 2 * i)) 2))

/-- A command as it starts: an MGATH has its pointers and columns (R229). -/
def State.startCmd (s : State) (tile : Nat) (c : MxCmd) : MxCmd :=
  { c with
    started := some s.cycle
    gath := if c.minor = 7 then gathRead s tile c else [] }

/-- No further step of a set begins: its leash code has left, or the task queue stands still (R213, R240). -/
def State.mxHalts (s : State) (tile : Nat) (leash : Bool) : Bool :=
  let t := s.tile tile
  let m := t.mx
  if leash then t.seize.st != 3 || ((s.task? t.seize.task).map (·.killing)).getD true
  else
    let away := match m.owner with
      | some k => !s.resident k || ((s.task? k).map (fun t => t.killing || t.saving)).getD true
      | none => false
    m.frozen || away || m.clearing || m.lq.any (·.inArray)

/-- MATRIX_COMMAND_START: the command at the head starts, or is dropped with a deferred error; none of a killed sender starts (R403). -/
def execMatrixCommandStart (tile : Nat) (leash : Bool) (s : State) : Out :=
  let m := (s.tile tile).mx
  let q := m.queue leash
  match findIx (fun (c : MxCmd) => c.started.isNone) q 0 with
  | none => .next s
  | some (i, c) =>
    let b := s.bank c.owner
    let rel := (c.minor == 0 || c.isStep) && c.f 17 17 == 1 && c.scope != 0 && b.thread == c.thread && b.rlx.any (fun a => decide (a.id < c.id))
    if s.mxHalts tile leash ∨ (s.task? c.sender).any (·.killing) ∨ (leash ∧ m.tq.any (·.inArray)) ∨ rel ∨ ¬ startsAfter s.cycle tile leash (q.take i) c ∨ s.heldBack tile c then .next s
    else
      let s := s.meetAll (c.spans tile)
      match startError s tile leash c with
      | some (cause, addr) => .next ((s.recordPoison (s.taskRec c.owner c.sender 0 2 0 (some addr) 0) (c.spans tile)).deferMx tile leash c cause addr)
      | none =>
        let t := s.tile tile
        .next (s.setTile tile { t with mx := m.setCmd (s.startCmd tile c) })

/-- MATRIX_COMMAND_ENTRY (R222): the oldest command that waits for an entry of a queue with room enters. -/
def execMatrixCommandEntry (tile : Nat) (s : State) : Out :=
  let m := (s.tile tile).mx
  let cands := (if m.room false then s.mxWaiters tile false else []) ++ (if m.room true then s.mxWaiters tile true else [])
  match cands.foldl (fun (best : Option (BankRef × MxCmd)) x => match best with
      | some y => if x.2.id < y.2.id then some x else best
      | none => some x) none with
  | some (r, c) =>
    let t := s.tile tile
    .next (({ s with fresh := s.fresh + 1 }.setTile tile
      { t with mx := t.mx.push ((s.bank r).kind == 2) { c with id := s.fresh } }).wake r .none 0)
  | none => .next s

/-! ### Steps (R228, R229, R158) -/

/-- The elements of a plane column. -/
def Plane.column (p : Plane) (n : Nat) : List (Option Num) :=
  elems p.fmt ((List.range 32).map (fun i => tget 0 p.bytes (32 * n + i))) (tget 0 p.scales (2 * n)).toNat (tget 0 p.scales (2 * n + 1)).toNat

/-- The elements of activation row r of a step: of an MGATH, the entries read at the start, the later of two in one column. -/
def stepRow (s : State) (tile : Nat) (c : MxCmd) (r : Nat) : List (Option Num) :=
  let a := c.ga.toNat
  if c.minor = 7 then
    let size := gathSize c.fmt
    (c.gath.getD r []).foldl
      (fun row e =>
        let x := gathEntry s tile a size e.2
        listSet row e.1 (some (elemNum c.fmt (if size = 2 then x / 256 else x / 2 ^ 16))))
      (List.replicate (mxK c.fmt) (some (.fin false 0 0)))
  else elems c.fmt (s.bytes (lsLoc tile (a + c.step * r)) 32) (c.scl.getD (2 * r) 0).toNat (c.scl.getD (2 * r + 1) 0).toNat

/-- EA40Step (R158): the exact sum of the products and the old element, rounded once. -/
def ea40Step (old : BitVec 40) (x w : List (Option Num)) : Res :=
  let t : Total := ((x.zip w).foldl (fun (t : Total) p => t.mac p.1 p.2) (Total.add {} (ea40.read false old.toNat)))
  t.round

/-- One row entered: its 32 elements and their flags. -/
def enterRow (s : State) (tile : Nat) (leash : Bool) (c : MxCmd) (m : Matrix) (r : Nat) : Matrix × Flags :=
  let x := stepRow s tile c r
  let plane := if leash then m.leash else m.active
  (List.range 32).foldl (fun (acc : Matrix × Flags) col =>
    let k := 32 * (c.row0 + r) + col
    let old := tget 0 (acc.1.acc c.bank) k
    let z := ea40Step old x (plane.column col)
    (acc.1.setAcc c.bank (tset (acc.1.acc c.bank) k (BitVec.ofNat 40 z.1)), acc.2 ||| z.2)) (m, 0)

/-- Row times that a row takes: the expander of MGATH delivers 8 entries in one (R223, R229). -/
def MxCmd.width (c : MxCmd) (r : Nat) : Nat := if c.minor = 7 then max 1 (((c.gath.getD r []).length + 7) / 8) else 1

/-- The first rows of the steps into which a command is cut, and its row count: no step holds more than 64 row times (R229). -/
def MxCmd.cuts (c : MxCmd) : List Nat :=
  ((List.range c.n).foldl (fun (acc : List Nat × Nat) r =>
    if acc.1 ≠ [] ∧ acc.2 + c.width r ≤ 64 then (acc.1, acc.2 + c.width r) else (acc.1 ++ [r], c.width r)) ([], 0)).1 ++ [c.n]

/-- The row after the step that is under way. -/
def MxCmd.stepEnd (c : MxCmd) : Nat := (c.cuts.find? (fun r => decide (c.drained < r))).getD c.n

/-- The cycle in which the next row of a step may enter (R223, R229). -/
def MxCmd.nextRow (c : MxCmd) (tile : Nat) : Nat :=
  let time := if isXa tile then 4 else 1
  match c.rows.getLast? with
  | some x => x.1 + time * c.width c.rows.length
  | none => c.started.getD 0 + time * (c.width 0 - 1)

/-- The rows of a step that are due by this cycle enter, at most `fuel`; no further step of it begins while its set stands still (R240). -/
def State.enterDue (s : State) (tile : Nat) (leash : Bool) (c : MxCmd) : Nat → State
  | 0 => s
  | f + 1 =>
    let r := c.rows.length
    if c.n ≤ r ∨ s.cycle < c.nextRow tile ∨ (r ≠ 0 ∧ c.cuts.contains r ∧ s.mxHalts tile leash) then s
    else
      let t := s.tile tile
      let z := enterRow s tile leash c t.mx r
      let c := { c with rows := c.rows ++ [(s.cycle, z.2)] }
      (s.setTile tile { t with mx := z.1.setCmd c }).enterDue tile leash c f

/-- MATRIX_STEP_COMPLETE: the oldest step in the array drains 24 cycles after its last row; its flags join the issuing bank's NUMCTL, or RFLAGS
for a remote command (R223, R228). The command ends with its last step, or when no further step of it may begin after SRLS (R240). -/
def execMatrixStepComplete (tile : Nat) (leash : Bool) (s : State) : Out :=
  match ((s.tile tile).mx.queue leash).find? (fun c => c.isStep && c.started.isSome) with
  | none => .next s
  | some c =>
    let last := c.stepEnd
    let time := if isXa tile then 4 else 1
    if c.rows.length < last ∨ s.cycle < ((c.rows[last - 1]?).map (·.1)).getD 0 + time + 24 then .next s
    else
      let fl := ((c.rows.take last).drop c.drained).foldl (fun (f : BitVec 7) x => f ||| x.2) 0
      let t := s.tile tile
      let s := s.setTile tile { t with mx := { t.mx.setCmd { c with drained := last } with
        steps := if leash then t.mx.steps else t.mx.steps + 1
        rflags := if c.remote then t.mx.rflags ||| fl else t.mx.rflags } }
      let b := s.bank c.owner
      let s := if ¬ c.remote ∧ b.task = c.sender then s.setBank c.owner (b.raise fl) else s
      .next (if last = c.n ∨ (leash ∧ s.mxHalts tile true) then s.finishMx tile c 0 else s)

/-! ### The other commands (R226, R227, R230 to R232) -/

/-- The plane that a load has read. -/
def MxCmd.plane (c : MxCmd) : Plane :=
  { bytes := (List.range 1024).zip c.data, fmt := c.fmt, scales := (List.range c.scl.length).zip c.scl }

/-- Cycles from the start of a load to its column 0 (R226). -/
def MxCmd.recordTime (c : MxCmd) : Nat := if c.minor = 0 ∧ ¬ c.norec then 1 else 0

/-- A load's reads of one cycle: a column of MWLD, or, after the columns, 16 of the scale words (R226). -/
def State.loadDue (s : State) (tile : Nat) (c : MxCmd) : MxCmd :=
  let k := s.cycle - c.started.getD s.cycle
  let n := k - c.recordTime
  if k < c.recordTime then c
  else if n < 32 then
    if c.minor = 16 then c else { c with data := c.data ++ s.bytes (lsLoc tile (c.ga.toNat + 32 * slotOf c.swz n)) 32 }
  else if n < 36 ∧ c.fmt = 9 then { c with scl := c.scl ++ s.scaleWords tile (c.scaleAt + 32 * (n - 32)) 16 }
  else c

/-- The unit's read of one cycle for the step at the head of a queue: its record word first, then 32 of its activation scale words (R223). -/
def State.readHead (s : State) (tile : Nat) (c : MxCmd) : MxCmd :=
  if ¬ c.norec ∧ c.recw.isNone then { c with recw := some (s.load (lsLoc tile c.recoff) 8) }
  else
    let k := c.scl.length
    { c with scl := c.scl ++ s.scaleWords tile (c.scaleAt + 2 * k) (min 32 (2 * c.n - k)) }

/-- The step at the head of a queue that runs is read for (R223, R240). -/
def State.headReads (s : State) (tile : Nat) (leash : Bool) : State :=
  match ((s.tile tile).mx.queue leash).find? (·.started.isNone) with
  | some c =>
    if c.readDone ∨ s.mxHalts tile leash then s
    else
      let t := s.tile tile
      s.setTile tile { t with mx := t.mx.setCmd (s.readHead tile c) }
  | none => s

/-- The matrix unit of a tile in one cycle: the rows that enter, and the reads of its loads and of the steps at the heads (R223, R226). -/
def State.mxCycle (s : State) (tile : Nat) : State :=
  let act := fun (leash : Bool) (s : State) => ((s.tile tile).mx.queue leash).foldl (fun s c =>
    if c.started.isNone then s
    else if c.isStep then s.enterDue tile leash c 64
    else if c.isLoad then
      let t := s.tile tile
      s.setTile tile { t with mx := t.mx.setCmd (s.loadDue tile c) }
    else s) (s.headReads tile leash)
  act true (act false s)

/-- The matrix units in one cycle. -/
def State.mxTick (s : State) : State :=
  ((s.tiles.filter (fun x => (x.2.mx.tq ++ x.2.mx.lq) != [])).map (·.1)).foldl (fun s t => s.mxCycle t) s

/-- Cycles from the start of a command other than a step to its completion (R224). -/
def MxCmd.duration (c : MxCmd) : Nat :=
  match c.minor with
  | 0 | 16 => 32 + (if c.fmt = 9 then 4 else 0) + c.recordTime
  | 4 => 6
  | 3 => c.n
  | _ => 1

/-- The columns of MRDA and MWRA: lane i is column first + i. -/
def MxCmd.cols (c : MxCmd) (tile : Nat) : Nat × Nat := if isXa tile then (16 * c.f 32 32, 16) else (0, 32)

/-- One lane read out (R231); RFMT 2 rounds under RSD with the column and ROW0 too (R164, log entry 31). -/
def readLane (c : Ctl) (rfmt row col : Nat) (v : BitVec 40) : Res :=
  let x := ea40.read false v.toNat
  match rfmt with
  | 0 => roundTo fp32 c col row [x] x
  | 1 => roundTo bf16 c col row [x] x
  | _ => fToInt 32 c col row x

/-- A NaN or number of FP32 or BF16 as EA40 bits, exactly; an integer likewise (R232). -/
def writeLane (rfmt x : Nat) : BitVec 40 :=
  let wide := fun (y : Nat) => BitVec.ofNat 40 (y % 2 ^ 32 * 2 ^ 8)
  match rfmt with
  | 0 => wide x
  | 1 => wide (x % 2 ^ 16 * 2 ^ 16)
  | _ => BitVec.ofNat 40 (intToF ea40 ⟨0, false, true, false, 0⟩ 0 0 (BitVec.ofNat 32 x).toInt).1

/-- MRDA's data: the vector, its flags, and the numeric trap that waits for the window to close. -/
def readOut (m : Matrix) (tile : Nat) (c : MxCmd) : Vec × Option TrapInfo × Flags :=
  let (first, n) := c.cols tile
  let r := (List.range n).map (fun i => readLane (ctlOf c.ga) (c.f 31 30) c.row0 (first + i) (tget 0 (m.acc c.bank) (32 * c.row0 + first + i)))
  let fl := (List.range n).zip (r.map (·.2))
  (BitVec.ofNat 1024 ((r.map (·.1)).foldr (fun x acc => x % 2 ^ 32 + acc * 2 ^ 32) 0),
   (numericTrap c.ga fl).map (fun p => ⟨p.1, 0, p.2⟩), orFlags fl)

/-- The effect of a command other than a step at its completion. -/
def State.mxEffect (s : State) (tile : Nat) (leash : Bool) (c : MxCmd) : State :=
  match c.minor with
  | 1 =>
    let t := s.tile tile
    s.setTile tile { t with mx := { t.mx with active := t.mx.shadow, shadow := t.mx.active } }
  | 8 =>
    let t := s.tile tile
    s.setTile tile { t with mx := { t.mx with acc0 := t.mx.acc1, acc1 := t.mx.acc0 } }
  | 3 =>
    let t := s.tile tile
    let keep : Nat × BitVec 40 → Bool := fun e => decide (e.1 < 32 * c.row0) || decide (32 * (c.row0 + c.n) ≤ e.1)
    s.setTile tile { t with mx := t.mx.setAcc c.bank ((t.mx.acc c.bank).filter keep) }
  | 5 =>
    let t := s.tile tile
    let (first, n) := c.cols tile
    let acc := (List.range n).foldl (fun acc i => tset acc (32 * c.row0 + first + i) (writeLane (c.f 31 30) (lane32 c.vdata i))) (t.mx.acc c.bank)
    s.setTile tile { t with mx := t.mx.setAcc c.bank acc }
  | 4 =>
    let (x, e, fl) := readOut (s.tile tile).mx tile c
    s.resultReady c.owner c.win x e fl
  | _ =>
    let t := s.tile tile
    s.setTile tile { t with mx := t.mx.setPlane (if leash then 2 else 1) c.plane }

/-- MATRIX_COMMAND_COMPLETE: a started command other than a step completes once its cycles are over; loads complete in order. -/
def execMatrixCommandComplete (tile : Nat) (leash : Bool) (ix : Nat) (s : State) : Out :=
  let q := (s.tile tile).mx.queue leash
  match q[ix]? with
  | none => .next s
  | some c =>
    let before := q.take ix
    if c.started.isNone ∨ c.isStep ∨ (c.isLoad ∧ before.any (·.isLoad)) ∨ s.cycle < c.started.getD 0 + c.duration then .next s
    else .next ((s.mxEffect tile leash c).finishMx tile c 0)

/-- MATRIX_CLEAR_COMPLETE (R213): planes, task banks, FMT, RFLAGS and ownership are cleared. -/
def execMatrixClearComplete (tile : Nat) (s : State) : Out :=
  let t := s.tile tile
  if ¬ t.mx.clearing then .next s
  else .next (s.setTile tile { t with mx := { t.mx with
    active := {}, shadow := {}, acc0 := [], acc1 := [], owner := none, clearing := false, rflags := 0 } })

/-! ### MCMD (R237 to R239) -/

/-- The notify word's VA lies in the on-chip map and is aligned, or is 0. -/
def notifyOk (va : Nat) : Bool :=
  va == 0 || (va % 8 == 0 && (match region va with
    | .mbm _ => true
    | .xa _ => true
    | .win _ _ => true
    | _ => false))

/-- MCMD: the sender's checks, and the command sent to its target. -/
def execMcmd (d a b : BitVec 5) (cmd : BitVec 32) (notify : BitVec 64) (s : State) : Out :=
  let me := s.me
  let minor := fld cmd.toNat 5 0
  let x := (s.rg a).toNat
  if 2 ≤ me.kind then insTrap 0x00A s
  else gate s fun s =>
    if fld cmd.toNat 31 16 ≠ 0 ∨ ¬ ([0, 1, 2, 3, 7, 8].contains minor) then trap 0x147 s
    else if 512 ≤ x ∨ ¬ s.usable me.tenant x then trap 0x148 s
    else if ¬ notifyOk notify.toNat then trap 0x142 s
    else
      let two := minor == 1 || minor == 8
      let ga := if two || minor == 3 then 0 else s.me.rg (fld cmd.toNat 10 6)
      let ctl := if two then 0 else s.me.rg (fld cmd.toNat 15 11)
      let c := s.mxCmd minor ga ctl (s.me.rod (dfld ctl 16 14))
      match c.cause false (isXa x) with
      | some k => if k < 64 then insTrap k s else trap k s
      | none =>
        let c := { c with remote := true, notify := if notify = 0 then none else some notify.toNat }
        .next (({ s with fresh := s.fresh + 1 }.park (.mcmd d.toNat)).send (.mcmd x (s.rg b) me.tenant c))

/-- MCMD_ARRIVAL (R238): the command is accepted when the capability and tenants agree and the task queue has an entry. -/
def execMcmdArrival (tile : Nat) (s : State) : Out :=
  match findIx (fun m => match m with
    | Msg.mcmd t _ _ _ => t == tile
    | _ => false) s.net 0 with
  | some (i, .mcmd _ cap tenant c) =>
    let s := { s with net := listDel s.net i }
    let reply := fun (v : Nat) (s : State) => Host.Outcome.next (s.send (.mcmdReply c.owner c.sender v))
    let t := s.tile tile
    match t.mx.owner with
    | none => reply 3 s
    | some k =>
      if t.mx.clearing then reply 3 s
      else
        match (s.task? k).bind (fun t => s.launch? t.launch) with
        | none => reply 3 s
        | some l =>
          if l.tenant ≠ tenant ∨ dfld cap 5 0 ≠ tenant ∨ dfld cap 63 32 ≠ l.lid.toNat then
            reply 1 (s.record (s.taskRec c.owner c.sender 0x14A 2 (engineId 2 tile 0) none 0))
          else if ¬ s.mxRoom tile false then reply 2 s
          else reply 0 ({ s with fresh := s.fresh + 1 }.setTile tile { t with mx := t.mx.push false { c with task := k, id := s.fresh } })
  | _ => .next s

/-- REMOTE_REPLY_ARRIVAL (R239, R380, R410): the reply to a bank's MCMD, or to its SEIZQ with what the target answers; one for a thread that is
being killed is discarded. -/
def execRemoteReplyArrival (tile slot bank : Nat) (s : State) : Out :=
  let r : BankRef := ⟨tile, slot, bank⟩
  match (s.bank r).wait with
  | some (.seizq target reg) =>
    if s.dying r then .next s else .next (s.wake r (.g reg) (BitVec.ofNat 1024 (seizqWord (s.tile target).seize)))
  | w =>
    match findIx (fun m => match m with
      | Msg.mcmdReply d _ _ => d == r
      | _ => false) s.net 0 with
    | some (i, .mcmdReply _ task val) =>
      let s := { s with net := listDel s.net i }
      match w with
      | some (.mcmd reg) =>
        if (s.bank r).task ≠ task ∨ ((s.task? task).map (·.killing)).getD true then .next s
        else .next (s.wake r (.g reg) (BitVec.ofNat 1024 val))
      | _ => .next s
    | _ => .next s

end Sys2Proof.Machine
end

