-- ==== Sys2Proof/WellFormed.lean ====
section
/-! DEFINITION. Which instruction terms the encoding admits: the operand values that R68, R72, R96 and R386 call reserved are refused here. -/

namespace Sys2Proof

/-- A scope operand: 6 and 7 are reserved (R333). -/
def scopeOk (s : BitVec 3) : Bool := decide (s.toNat < 6)
/-- TRAP takes 1 to 47 (R386). -/
def trapOk (n : BitVec 6) : Bool := decide (1 ≤ n.toNat ∧ n.toNat ≤ 47)
/-- CANCEL takes a kind from 1 to 4 (R386). -/
def cancelOk (n : BitVec 6) : Bool := decide (1 ≤ n.toNat ∧ n.toNat ≤ 4)
/-- A VA pair of a queue-class instruction has bits [63:48] zero (R96). -/
def vaOk (va : BitVec 64) : Bool := decide (va.extractLsb' 48 16 = 0#16)
/-- QPRED and QWAIT conditions are 0 to 5 (R97). -/
def condOk (c : BitVec 5) : Bool := decide (c.toNat < 6)
/-- QDEP kinds are 0 to 4; ext0 is 0 for .queue and a 16-bit ID for graph, phase and job (R106). -/
def depOk (kind : BitVec 5) (id : BitVec 32) : Bool :=
  decide (kind.toNat < 5) && decide (kind = 0#5 → id = 0#32) &&
    decide (2 ≤ kind.toNat → id.extractLsb' 16 16 = 0#16)

/-- The instruction terms that have an encoding with no reserved value in it. Device steps have no encoding and are always admitted. -/
def Instr.wellFormed : Instr → Bool
  | .powerOnReset => true
  | .powerGood => true
  | .cctSelect => true
  | .firmwareImageLoad => true
  | .memoryTraining _ _ => true
  | .memoryClear _ => true
  | .pcieLinkTraining => true
  | .configurationRequest _ _ => true
  | .ivtctlWrite _ _ => true
  | .ptmExchange _ => true
  | .ptmRepeat _ => true
  | .dtbOffsetCheck _ _ => true
  | .thermalThrottle _ => true
  | .registerWrite _ _ _ => true
  | .qtailDoorbell _ _ _ => true
  | .qctlEnable _ _ _ => true
  | .qctlDisable _ _ _ => true
  | .qctlResume _ _ _ => true
  | .qcancelWrite _ _ _ => true
  | .tlbinvWrite _ _ _ => true
  | .tlbInvalidationComplete _ => true
  | .fbctlGo _ => true
  | .pcfgEnable _ _ _ => true
  | .pcfgDisable _ _ _ => true
  | .mbcfgEnable _ _ _ => true
  | .trctlEnable _ _ => true
  | .fepreemptStart _ _ => true
  | .fepreemptEnd _ _ => true
  | .tdbgrelWrite _ _ _ => true
  | .lvqWrite _ _ _ => true
  | .levelQueryComplete _ => true
  | .peerctlEnable _ _ => true
  | .fwctlGo _ => true
  | .firmwareVerifyComplete => true
  | .firmwareSwitchoverComplete => true
  | .rmapSetValid _ _ _ _ => true
  | .rowRemapComplete _ _ => true
  | .rmapClearValid _ _ _ _ => true
  | .rmapPprStart _ _ _ _ => true
  | .pprComplete _ _ => true
  | .logTailWrite _ _ _ => true
  | .hostBar2Read _ _ _ => true
  | .hostBar2Write _ _ _ _ => true
  | .hostMbmWindowAccess _ _ _ _ _ => true
  | .queueSelect _ => true
  | .fetchBlockRead _ => true
  | .qwaitPoll _ => true
  | .qwaitTimeout _ => true
  | .signalWrite _ => true
  | .launchAccept _ => true
  | .deterministicReservation _ => true
  | .taskPlace _ => true
  | .footprintStagingComplete _ => true
  | .taskRetire _ => true
  | .instanceComplete _ _ _ => true
  | .resultDigest _ => true
  | .starvationWatchdog _ => true
  | .ladderStart _ => true
  | .rung2Save _ => true
  | .rung3Reset _ => true
  | .taskSaveComplete _ => true
  | .taskRestore _ => true
  | .quantumExpiry _ _ => true
  | .killQuiet _ => true
  | .parkWatchdog _ _ _ => true
  | .launchStallWatchdog _ => true
  | .resultWriteback _ _ _ => true
  | .accessPerformed _ _ _ _ => true
  | .remoteAccessArrival _ _ _ _ => true
  | .remoteReplyArrival _ _ _ => true
  | .fetchUnitRead _ _ => true
  | .bankSwitchComplete _ _ => true
  | .waitListRetry _ _ _ => true
  | .pageWalkComplete _ _ _ => true
  | .replayAllSend _ => true
  | .scrubRead _ _ => true
  | .laneFailure _ _ => true
  | .laneDegradedComplete _ => true
  | .bteCommandEntry _ _ => true
  | .bteChunkComplete _ _ _ => true
  | .bteCommandComplete _ _ => true
  | .burstDataReturn _ _ _ => true
  | .burstBirth _ _ => true
  | .matrixCommandEntry _ => true
  | .matrixCommandStart _ _ => true
  | .matrixStepComplete _ _ => true
  | .matrixCommandComplete _ _ _ => true
  | .matrixClearComplete _ => true
  | .mcmdArrival _ => true
  | .seqCommandExecute _ => true
  | .streamDelivery _ _ _ => true
  | .bindNoticeArrival _ => true
  | .creditArrival _ => true
  | .channelMessageArrival _ => true
  | .treeDeliverArrival _ => true
  | .treeDeliverRetry _ _ _ => true
  | .barrierArrival _ => true
  | .barrierRelease _ => true
  | .reductionPerform _ => true
  | .mailboxPublicationArrival _ => true
  | .mailboxFlip _ => true
  | .mbpubcCopyComplete _ => true
  | .mailboxReadTransaction _ _ _ => true
  | .ceilingTrip _ _ => true
  | .leashCeiling _ _ => true
  | .seizeArrival _ => true
  | .seizureDrainComplete _ => true
  | .seizureSwapComplete _ => true
  | .seizeReplyArrival _ _ _ => true
  | .remoteSrlsArrival _ => true
  | .seizureReleaseComplete _ => true
  | .hfcallReply _ _ _ => true
  | .porsolJoin _ => true
  | .porsolJoinack _ => true
  | .porsolHeart _ => true
  | .porsolPdig _ => true
  | .porsolTakeover _ => true
  | .heartbeatSend => true
  | .joinTimeout => true
  | .peerLost => true
  | .illegal _ _ => true
  | .add _ _ _ => true
  | .sub _ _ _ => true
  | .and _ _ _ => true
  | .or _ _ _ => true
  | .xor _ _ _ => true
  | .andn _ _ _ => true
  | .shl _ _ _ => true
  | .shr _ _ _ => true
  | .sha _ _ _ => true
  | .rotr _ _ _ => true
  | .min _ _ _ => true
  | .max _ _ _ => true
  | .minu _ _ _ => true
  | .maxu _ _ _ => true
  | .cmpeq _ _ _ => true
  | .cmpne _ _ _ => true
  | .cmplt _ _ _ => true
  | .cmpltu _ _ _ => true
  | .cmpge _ _ _ => true
  | .cmpgeu _ _ _ => true
  | .sel _ _ _ => true
  | .addw _ _ _ => true
  | .subw _ _ _ => true
  | .addi _ _ _ => true
  | .andi _ _ _ => true
  | .ori _ _ _ => true
  | .xori _ _ _ => true
  | .shli _ _ _ => true
  | .shri _ _ _ => true
  | .shai _ _ _ => true
  | .rotri _ _ _ => true
  | .cmpeqi _ _ _ => true
  | .cmpnei _ _ _ => true
  | .cmplti _ _ _ => true
  | .cmpltui _ _ _ => true
  | .cmpgei _ _ _ => true
  | .cmpgeui _ _ _ => true
  | .lih _ _ => true
  | .addpc _ _ => true
  | .li64 _ _ => true
  | .mul _ _ _ => true
  | .mulh _ _ _ => true
  | .mulhu _ _ _ => true
  | .mulhsu _ _ _ => true
  | .div _ _ _ => true
  | .divu _ _ _ => true
  | .rem _ _ _ => true
  | .remu _ _ _ => true
  | .mulw _ _ _ => true
  | .madd _ _ _ => true
  | .bfx _ _ _ => true
  | .bfxu _ _ _ => true
  | .bfi _ _ _ => true
  | .popc _ _ => true
  | .clz _ _ => true
  | .ctz _ _ => true
  | .brev _ _ => true
  | .bswap _ _ => true
  | .sextb _ _ => true
  | .sexth _ _ => true
  | .sextw _ _ => true
  | .zextb _ _ => true
  | .zexth _ _ => true
  | .zextw _ _ => true
  | .lea _ _ _ _ _ => true
  | .beq _ _ _ => true
  | .bne _ _ _ => true
  | .blt _ _ _ => true
  | .bge _ _ _ => true
  | .bltu _ _ _ => true
  | .bgeu _ _ _ => true
  | .bbs _ _ _ => true
  | .bbc _ _ _ => true
  | .beqz _ _ => true
  | .bnez _ _ => true
  | .bltz _ _ => true
  | .bgez _ _ => true
  | .bgtz _ _ => true
  | .blez _ _ => true
  | .dbnz _ _ => true
  | .j _ => true
  | .jl _ => true
  | .jr _ => true
  | .jlr _ _ => true
  | .rpt _ n _ _ _ => decide (n.toNat < 16)
  | .ldS8 _ _ _ _ => true
  | .ldZ8 _ _ _ _ => true
  | .ldS16 _ _ _ _ => true
  | .ldZ16 _ _ _ _ => true
  | .ldS32 _ _ _ _ => true
  | .ldZ32 _ _ _ _ => true
  | .ld64 _ _ _ _ => true
  | .st8 _ _ _ _ => true
  | .st16 _ _ _ _ => true
  | .st32 _ _ _ _ => true
  | .st64 _ _ _ _ => true
  | .ldxS8 _ _ _ _ _ => true
  | .ldxZ8 _ _ _ _ _ => true
  | .ldxS16 _ _ _ _ _ => true
  | .ldxZ16 _ _ _ _ _ => true
  | .ldxS32 _ _ _ _ _ => true
  | .ldxZ32 _ _ _ _ _ => true
  | .ldx64 _ _ _ _ _ => true
  | .stx8 _ _ _ _ _ => true
  | .stx16 _ _ _ _ _ => true
  | .stx32 _ _ _ _ _ => true
  | .stx64 _ _ _ _ _ => true
  | .ldfe _ _ _ s => scopeOk s
  | .ldfw _ _ _ s => scopeOk s
  | .stfw _ _ _ s => scopeOk s
  | .stfs _ _ _ s => scopeOk s
  | .fetag _ _ _ s => scopeOk s
  | .feclr _ _ s => scopeOk s
  | .fence s => scopeOk s
  | .ifence s => scopeOk s
  | .efence s => scopeOk s
  | .vld _ _ _ _ => true
  | .vst _ _ _ _ => true
  | .vlds _ _ _ _ => true
  | .vsts _ _ _ _ => true
  | .vldx _ _ _ _ => true
  | .vstx _ _ _ _ => true
  | .vldb _ _ _ _ => true
  | .ldt _ _ _ => true
  | .vaddI16 _ _ _ _ => true
  | .vsubI16 _ _ _ _ => true
  | .vmulI16 _ _ _ _ => true
  | .vmulhI16 _ _ _ _ => true
  | .vminI16 _ _ _ _ => true
  | .vmaxI16 _ _ _ _ => true
  | .vminuI16 _ _ _ _ => true
  | .vmaxuI16 _ _ _ _ => true
  | .vandI16 _ _ _ _ => true
  | .vorI16 _ _ _ _ => true
  | .vxorI16 _ _ _ _ => true
  | .vshlI16 _ _ _ _ => true
  | .vshrI16 _ _ _ _ => true
  | .vshaI16 _ _ _ _ => true
  | .vabsI16 _ _ _ => true
  | .vnegI16 _ _ _ => true
  | .vaddsI16 _ _ _ _ => true
  | .vsubsI16 _ _ _ _ => true
  | .vmacI16 _ _ _ _ => true
  | .vaddI32 _ _ _ _ => true
  | .vsubI32 _ _ _ _ => true
  | .vmulI32 _ _ _ _ => true
  | .vmulhI32 _ _ _ _ => true
  | .vminI32 _ _ _ _ => true
  | .vmaxI32 _ _ _ _ => true
  | .vminuI32 _ _ _ _ => true
  | .vmaxuI32 _ _ _ _ => true
  | .vandI32 _ _ _ _ => true
  | .vorI32 _ _ _ _ => true
  | .vxorI32 _ _ _ _ => true
  | .vshlI32 _ _ _ _ => true
  | .vshrI32 _ _ _ _ => true
  | .vshaI32 _ _ _ _ => true
  | .vabsI32 _ _ _ => true
  | .vnegI32 _ _ _ => true
  | .vaddsI32 _ _ _ _ => true
  | .vsubsI32 _ _ _ _ => true
  | .vmacI32 _ _ _ _ => true
  | .vaddF32 _ _ _ _ => true
  | .vsubF32 _ _ _ _ => true
  | .vmulF32 _ _ _ _ => true
  | .vfmaF32 _ _ _ _ => true
  | .vfmsF32 _ _ _ _ => true
  | .vminF32 _ _ _ _ => true
  | .vmaxF32 _ _ _ _ => true
  | .vabsF32 _ _ _ => true
  | .vnegF32 _ _ _ => true
  | .vscaleF32 _ _ _ _ => true
  | .vfnmaF32 _ _ _ _ => true
  | .vaddBf16 _ _ _ _ => true
  | .vsubBf16 _ _ _ _ => true
  | .vmulBf16 _ _ _ _ => true
  | .vfmaBf16 _ _ _ _ => true
  | .vfmsBf16 _ _ _ _ => true
  | .vminBf16 _ _ _ _ => true
  | .vmaxBf16 _ _ _ _ => true
  | .vabsBf16 _ _ _ => true
  | .vnegBf16 _ _ _ => true
  | .vscaleBf16 _ _ _ _ => true
  | .vfnmaBf16 _ _ _ _ => true
  | .vaddF16 _ _ _ _ => true
  | .vsubF16 _ _ _ _ => true
  | .vmulF16 _ _ _ _ => true
  | .vfmaF16 _ _ _ _ => true
  | .vfmsF16 _ _ _ _ => true
  | .vminF16 _ _ _ _ => true
  | .vmaxF16 _ _ _ _ => true
  | .vabsF16 _ _ _ => true
  | .vnegF16 _ _ _ => true
  | .vscaleF16 _ _ _ _ => true
  | .vfnmaF16 _ _ _ _ => true
  | .vaddE4m3 _ _ _ _ => true
  | .vsubE4m3 _ _ _ _ => true
  | .vmulE4m3 _ _ _ _ => true
  | .vaddE5m2 _ _ _ _ => true
  | .vsubE5m2 _ _ _ _ => true
  | .vmulE5m2 _ _ _ _ => true
  | .vaddI8 _ _ _ _ => true
  | .vsubI8 _ _ _ _ => true
  | .vaddsI8 _ _ _ _ => true
  | .vminI8 _ _ _ _ => true
  | .vmaxI8 _ _ _ _ => true
  | .vmov _ _ _ => true
  | .vmerge _ _ _ _ => true
  | .vbcast16 _ _ _ => true
  | .vbcast32 _ _ _ => true
  | .vbcast64 _ _ _ => true
  | .vext16 _ _ _ => true
  | .vext32 _ _ _ => true
  | .vins16 _ _ _ => true
  | .vins32 _ _ _ => true
  | .vperm16 _ _ _ _ => true
  | .vperm32 _ _ _ _ => true
  | .vslideup _ _ _ _ => true
  | .vslidedn _ _ _ _ => true
  | .vzip16 _ _ _ _ => true
  | .vunzip16 _ _ _ => true
  | .vredsumF32 _ _ _ => true
  | .vredsumBf16 _ _ _ => true
  | .vredmaxF32 _ _ _ => true
  | .vredminF32 _ _ _ => true
  | .vredsumI32 _ _ _ => true
  | .vredmaxBf16 _ _ _ => true
  | .vcvtBf16F32 _ _ _ => true
  | .vcvtF16F32 _ _ _ => true
  | .vcvtF32Bf16 _ _ _ => true
  | .vcvtF32F16 _ _ _ => true
  | .vcvtE4m3F32 _ _ _ => true
  | .vcvtE5m2F32 _ _ _ => true
  | .vcvtF32E4m3 _ _ _ => true
  | .vcvtF32E5m2 _ _ _ => true
  | .vcvtI32F32 _ _ _ => true
  | .vcvtF32I32 _ _ _ => true
  | .vcvtI16F32 _ _ _ => true
  | .vq4 _ _ _ _ => true
  | .vdq4 _ _ _ _ => true
  | .vpack8 _ _ _ _ => true
  | .vunpk8 _ _ _ _ => true
  | .vcvtBf16E4m3 _ _ _ => true
  | .vcvtE4m3Bf16 _ _ _ => true
  | .vrcp _ _ _ _ => true
  | .vrsq _ _ _ _ => true
  | .vsqrt _ _ _ _ => true
  | .vexp2 _ _ _ _ => true
  | .vexp _ _ _ _ => true
  | .vlog2 _ _ _ _ => true
  | .vsin _ _ _ _ => true
  | .vcos _ _ _ _ => true
  | .vtanh _ _ _ _ => true
  | .vsigm _ _ _ _ => true
  | .verf _ _ _ _ => true
  | .vcmp _ _ _ _ _ t => decide (t ≠ 7#3)
  | .vwhile16 _ _ _ => true
  | .vwhile32 _ _ _ => true
  | .vwhile64 _ _ _ => true
  | .vlq _ => true
  | .vlanes _ _ => true
  | .mfirst _ _ => true
  | .mwld _ _ => true
  | .mwswap => true
  | .mstrm _ _ => true
  | .mzero _ => true
  | .mrda _ _ _ => true
  | .mwra _ _ => true
  | .mwait => true
  | .mgath _ _ => true
  | .mxswap => true
  | .mstat _ => true
  | .mcmd _ _ _ _ _ => true
  | .tcopy _ _ _ _ => true
  | .tslide _ _ _ _ _ => true
  | .lpref _ _ _ => true
  | .cwait _ _ _ => true
  | .ctest _ _ _ => true
  | .cclr _ => true
  | .bread _ _ _ _ => true
  | .arsv _ _ => true
  | .arls _ _ => true
  | .arcn _ => true
  | .cas _ _ _ _ => true
  | .swap _ _ _ _ => true
  | .fadd _ _ _ _ => true
  | .redAdd64 _ _ _ s _ => scopeOk s
  | .redAdd32 _ _ _ s _ => scopeOk s
  | .redMin64 _ _ _ s _ => scopeOk s
  | .redMax64 _ _ _ s _ => scopeOk s
  | .redMinu64 _ _ _ s _ => scopeOk s
  | .redMaxu64 _ _ _ s _ => scopeOk s
  | .redAnd64 _ _ _ s _ => scopeOk s
  | .redOr64 _ _ _ s _ => scopeOk s
  | .redXor64 _ _ _ s _ => scopeOk s
  | .redfAddF32 _ _ _ s _ => scopeOk s
  | .redfAddBf16 _ _ _ s _ => scopeOk s
  | .wacrd _ _ _ => true
  | .wacclr _ => true
  | .breg _ _ _ => true
  | .barv _ _ => true
  | .bwait _ _ => true
  | .barvw _ _ => true
  | .btest _ _ => true
  | .chbind _ _ => true
  | .chunb _ => true
  | .chstat _ _ => true
  | .send _ => true
  | .rsrv _ _ => true
  | .treeset _ => true
  | .sqres _ _ _ => true
  | .sqst _ _ _ => true
  | .sqstr _ _ _ => true
  | .sqcmt _ _ _ => true
  | .sqaband _ _ _ => true
  | .sqlen _ _ _ => true
  | .sqfork _ _ _ => true
  | .sqrel _ => true
  | .sqtrim _ _ _ => true
  | .sqrd _ _ _ => true
  | .sqcow _ _ _ => true
  | .squnpin _ => true
  | .mbwr _ _ => true
  | .mbpub _ _ => true
  | .mbpubc _ _ => true
  | .mbrd _ _ _ => true
  | .seize _ _ _ _ => true
  | .srls => true
  | .srlsRemote _ => true
  | .seizq _ _ => true
  | .spawn _ _ _ => true
  | .exit => true
  | .time _ => true
  | .hend => true
  | .bqry _ => true
  | .prime _ _ _ => true
  | .unprime _ _ => true
  | .csrrd _ _ => true
  | .csrwr _ _ _ => true
  | .csrset _ _ _ => true
  | .csrclr _ _ _ => true
  | .trap n => trapOk n
  | .eret => true
  | .ebrk _ => true
  | .hfcall _ _ _ => true
  | .cancel _ _ n => cancelOk n
  | .dlaunch _ _ => true
  | .cIll _ => true
  | .cNop => true
  | .cMov _ _ => true
  | .cAdd _ _ => true
  | .cSub _ _ => true
  | .cAddi _ _ => true
  | .cLi _ _ => true
  | .cShli _ _ => true
  | .cShri _ _ => true
  | .cAnd _ _ => true
  | .cOr _ _ => true
  | .cXor _ _ => true
  | .cLd64 _ _ => true
  | .cSt64 _ _ => true
  | .cBeqz _ _ => true
  | .cBnez _ _ => true
  | .cJ _ => true
  | .cRlx s => scopeOk s
  | .cExit => true
  | .cHend => true
  | .cJr _ => true
  | .qlaunch va => vaOk va
  | .qib va _ => vaOk va
  | .qret => true
  | .qpred cond va _ => condOk cond && vaOk va
  | .qendp => true
  | .qloop count => decide (count ≠ 0#32)
  | .qendl => true
  | .qsig _ _ va _ => vaOk va
  | .qwait cond va _ _ => condOk cond && vaOk va
  | .qff => true
  | .qwr va _ => vaOk va
  | .qdep kind id => depOk kind id
  | .qnop _ => true
  | .qmark kind _ => decide (kind.toNat < 4)
  | .qreplay _ => true
  | .qprio _ => true
  | .throttleExit => true

end Sys2Proof
end

