-- ==== Sys2Proof/Decode.lean ====
section
/-! DEFINITION. The decoder of core and queue-class words and, after it, the encoder, both from the field tables of R57 to R70 and R96. -/

namespace Sys2Proof

/-- What the decoder answers: an instruction with its length in bytes, or the cause that refuses the bits (R72, R94). -/
inductive Decoded where
  | ok (i : Instr) (len : Nat)
  | bad (cause : BitVec 10)
  deriving DecidableEq, Repr

/-- A 32-bit word from its five slots [31:22], [21:17], [16:12], [11:7] and [6:0] (R60). -/
def mk (f : BitVec 10) (b a d : BitVec 5) (op : BitVec 7) : BitVec 32 := f ++ b ++ a ++ d ++ op
/-- Bits [31:22]. -/
def slotF (w : BitVec 32) : BitVec 10 := w.extractLsb' 22 10
/-- B, bits [21:17]. -/
def slotB (w : BitVec 32) : BitVec 5 := w.extractLsb' 17 5
/-- A, bits [16:12]. -/
def slotA (w : BitVec 32) : BitVec 5 := w.extractLsb' 12 5
/-- D, bits [11:7]. -/
def slotD (w : BitVec 32) : BitVec 5 := w.extractLsb' 7 5
/-- Bits [6:0]: the length bit and the major. -/
def slotOp (w : BitVec 32) : BitVec 7 := w.extractLsb' 0 7
/-- The major opcode MO, bits [6:1] (R60). -/
def majorOf (w : BitVec 32) : Nat := (w.extractLsb' 1 6).toNat
/-- A compressed word from f2, r1 and CO, with bit [0] clear (R70). -/
def mk16 (f r co : BitVec 5) : BitVec 16 := f ++ r ++ co ++ 0#1
/-- 32-bit words as halfwords, the low halfword first (R57). -/
def words : List (BitVec 32) → List (BitVec 16)
  | [] => []
  | w :: ws => w.extractLsb' 0 16 :: w.extractLsb' 16 16 :: words ws

/-- A reserved field must be 0, or the word is refused with 0x003 (R61). -/
def zero {n : Nat} (x : BitVec n) (r : Decoded) : Decoded := if x = 0#n then r else .bad 0x003#10
/-- Scope values 6 and 7 are refused with 0x006 (R333). -/
def scopeChk (s : BitVec 3) (r : Decoded) : Decoded := if scopeOk s then r else .bad 0x006#10
/-- NX must be the entry's count, or the word is refused with 0x00B (R69). -/
def nxOk (f : BitVec 10) (n : Nat) (r : Decoded) : Decoded :=
  if (f.extractLsb' 5 3).toNat = n then r else .bad 0x00B#10

/-- Major 1 (R67). -/
noncomputable def dec1 (f : BitVec 10) (b a d : BitVec 5) : Decoded :=
  match (f).toNat with
  | 0 => .ok (.add d a b) 4
  | 1 => .ok (.sub d a b) 4
  | 2 => .ok (.and d a b) 4
  | 3 => .ok (.or d a b) 4
  | 4 => .ok (.xor d a b) 4
  | 5 => .ok (.andn d a b) 4
  | 6 => .ok (.shl d a b) 4
  | 7 => .ok (.shr d a b) 4
  | 8 => .ok (.sha d a b) 4
  | 9 => .ok (.rotr d a b) 4
  | 10 => .ok (.min d a b) 4
  | 11 => .ok (.max d a b) 4
  | 12 => .ok (.minu d a b) 4
  | 13 => .ok (.maxu d a b) 4
  | 14 => .ok (.cmpeq d a b) 4
  | 15 => .ok (.cmpne d a b) 4
  | 16 => .ok (.cmplt d a b) 4
  | 17 => .ok (.cmpltu d a b) 4
  | 18 => .ok (.cmpge d a b) 4
  | 19 => .ok (.cmpgeu d a b) 4
  | 20 => .ok (.sel d a b) 4
  | 21 => .ok (.addw d a b) 4
  | 22 => .ok (.subw d a b) 4
  | _ => .bad 0x002#10

/-- Major 2 (R67). -/
noncomputable def dec2 (f : BitVec 10) (b a d : BitVec 5) : Decoded :=
  let i := f ++ b
  .ok (.addi d a i) 4

/-- Major 3 (R67). -/
noncomputable def dec3 (f : BitVec 10) (b a d : BitVec 5) : Decoded :=
  let i := f ++ b
  .ok (.andi d a i) 4

/-- Major 4 (R67). -/
noncomputable def dec4 (f : BitVec 10) (b a d : BitVec 5) : Decoded :=
  let i := f ++ b
  .ok (.ori d a i) 4

/-- Major 5 (R67). -/
noncomputable def dec5 (f : BitVec 10) (b a d : BitVec 5) : Decoded :=
  let i := f ++ b
  .ok (.xori d a i) 4

/-- Major 6 (R67). -/
noncomputable def dec6 (f : BitVec 10) (b a d : BitVec 5) : Decoded :=
  let n := f.extractLsb' 0 1 ++ b
  match (f.extractLsb' 1 9).toNat with
  | 0 => .ok (.shli d a n) 4
  | 1 => .ok (.shri d a n) 4
  | 2 => .ok (.shai d a n) 4
  | 3 => .ok (.rotri d a n) 4
  | _ => .bad 0x002#10

/-- Major 7 (R67). -/
noncomputable def dec7 (f : BitVec 10) (b a d : BitVec 5) : Decoded :=
  let i := f.extractLsb' 0 7 ++ b
  match (f.extractLsb' 7 3).toNat with
  | 0 => .ok (.cmpeqi d a i) 4
  | 1 => .ok (.cmpnei d a i) 4
  | 2 => .ok (.cmplti d a i) 4
  | 3 => .ok (.cmpltui d a i) 4
  | 4 => .ok (.cmpgei d a i) 4
  | 5 => .ok (.cmpgeui d a i) 4
  | _ => .bad 0x002#10

/-- Major 8 (R67). -/
noncomputable def dec8 (f : BitVec 10) (b a d : BitVec 5) : Decoded :=
  let i := f ++ b ++ a
  .ok (.lih d i) 4

/-- Major 9 (R67). -/
noncomputable def dec9 (f : BitVec 10) (b a d : BitVec 5) : Decoded :=
  let i := f ++ b ++ a
  .ok (.addpc d i) 4

/-- Major 11 (R67). -/
noncomputable def dec11 (f : BitVec 10) (b a d : BitVec 5) : Decoded :=
  match (f).toNat with
  | 0 => .ok (.mul d a b) 4
  | 1 => .ok (.mulh d a b) 4
  | 2 => .ok (.mulhu d a b) 4
  | 3 => .ok (.mulhsu d a b) 4
  | 4 => .ok (.div d a b) 4
  | 5 => .ok (.divu d a b) 4
  | 6 => .ok (.rem d a b) 4
  | 7 => .ok (.remu d a b) 4
  | 8 => .ok (.mulw d a b) 4
  | 9 => .ok (.madd d a b) 4
  | _ => .bad 0x002#10

/-- Major 12 (R67). -/
noncomputable def dec12 (f : BitVec 10) (b a d : BitVec 5) : Decoded :=
  match (f).toNat with
  | 0 => .ok (.bfx d a b) 4
  | 1 => .ok (.bfxu d a b) 4
  | 2 => .ok (.bfi d a b) 4
  | 3 => zero b (.ok (.popc d a) 4)
  | 4 => zero b (.ok (.clz d a) 4)
  | 5 => zero b (.ok (.ctz d a) 4)
  | 6 => zero b (.ok (.brev d a) 4)
  | 7 => zero b (.ok (.bswap d a) 4)
  | 8 => zero b (.ok (.sextb d a) 4)
  | 9 => zero b (.ok (.sexth d a) 4)
  | 10 => zero b (.ok (.sextw d a) 4)
  | 11 => zero b (.ok (.zextb d a) 4)
  | 12 => zero b (.ok (.zexth d a) 4)
  | 13 => zero b (.ok (.zextw d a) 4)
  | _ => .bad 0x002#10

/-- Major 13 (R67). -/
noncomputable def dec13 (f : BitVec 10) (b a d : BitVec 5) : Decoded :=
  let c := f.extractLsb' 0 3
  let i := f.extractLsb' 3 7
  .ok (.lea d a b i c) 4

/-- Major 14 (R67). -/
noncomputable def dec14 (f : BitVec 10) (b a d : BitVec 5) : Decoded :=
  let o := f ++ d.extractLsb' 3 2
  match (d.extractLsb' 0 3).toNat with
  | 0 => .ok (.beq a b o) 4
  | 1 => .ok (.bne a b o) 4
  | 2 => .ok (.blt a b o) 4
  | 3 => .ok (.bge a b o) 4
  | 4 => .ok (.bltu a b o) 4
  | 5 => .ok (.bgeu a b o) 4
  | 6 => .ok (.bbs a b o) 4
  | 7 => .ok (.bbc a b o) 4
  | _ => .bad 0x002#10

/-- Major 15 (R67). -/
noncomputable def dec15 (f : BitVec 10) (b a d : BitVec 5) : Decoded :=
  let o := f ++ d.extractLsb' 3 2
  match (d.extractLsb' 0 3).toNat with
  | 0 => zero b (.ok (.beqz a o) 4)
  | 1 => zero b (.ok (.bnez a o) 4)
  | 2 => zero b (.ok (.bltz a o) 4)
  | 3 => zero b (.ok (.bgez a o) 4)
  | 4 => zero b (.ok (.bgtz a o) 4)
  | 5 => zero b (.ok (.blez a o) 4)
  | 6 => zero b (.ok (.dbnz a o) 4)
  | _ => .bad 0x002#10

/-- Major 16 (R67). -/
noncomputable def dec16 (f : BitVec 10) (b a d : BitVec 5) : Decoded :=
  let i := f ++ b ++ a ++ d
  .ok (.j i) 4

/-- Major 17 (R67). -/
noncomputable def dec17 (f : BitVec 10) (b a d : BitVec 5) : Decoded :=
  let i := f ++ b ++ a ++ d
  .ok (.jl i) 4

/-- Major 18 (R67). -/
noncomputable def dec18 (f : BitVec 10) (b a d : BitVec 5) : Decoded :=
  match (f).toNat with
  | 0 => zero b (zero d (.ok (.jr a) 4))
  | 1 => zero b (.ok (.jlr d a) 4)
  | _ => .bad 0x002#10

/-- Major 19 (R67). -/
noncomputable def dec19 (f : BitVec 10) (b a d : BitVec 5) : Decoded :=
  let x := f.extractLsb' 0 3
  let y := f.extractLsb' 3 3
  let z := f.extractLsb' 6 3
  let n := d
  if b = 0#5 ∧ f.extractLsb' 9 1 = 0#1 ∧ n.toNat < 16 then .ok (.rpt a n x y z) 4 else .bad 0x003#10

/-- Major 20 (R67). -/
noncomputable def dec20 (f : BitVec 10) (b a d : BitVec 5) : Decoded :=
  let i := f.extractLsb' 0 3 ++ b
  let k := f.extractLsb' 6 4
  match (f.extractLsb' 3 3).toNat with
  | 0 => .ok (.ldS8 d a k i) 4
  | 1 => .ok (.ldZ8 d a k i) 4
  | 2 => .ok (.ldS16 d a k i) 4
  | 3 => .ok (.ldZ16 d a k i) 4
  | 4 => .ok (.ldS32 d a k i) 4
  | 5 => .ok (.ldZ32 d a k i) 4
  | 6 => .ok (.ld64 d a k i) 4
  | _ => .bad 0x002#10

/-- Major 21 (R67). -/
noncomputable def dec21 (f : BitVec 10) (b a d : BitVec 5) : Decoded :=
  let i := f.extractLsb' 0 3 ++ b
  let k := f.extractLsb' 6 4
  match (f.extractLsb' 3 3).toNat with
  | 0 => .ok (.st8 d a k i) 4
  | 1 => .ok (.st16 d a k i) 4
  | 2 => .ok (.st32 d a k i) 4
  | 3 => .ok (.st64 d a k i) 4
  | _ => .bad 0x002#10

/-- Major 22 (R67). -/
noncomputable def dec22 (f : BitVec 10) (b a d : BitVec 5) : Decoded :=
  let c := f.extractLsb' 0 3
  let k := f.extractLsb' 6 4
  match (f.extractLsb' 3 3).toNat with
  | 0 => .ok (.ldxS8 d a b k c) 4
  | 1 => .ok (.ldxZ8 d a b k c) 4
  | 2 => .ok (.ldxS16 d a b k c) 4
  | 3 => .ok (.ldxZ16 d a b k c) 4
  | 4 => .ok (.ldxS32 d a b k c) 4
  | 5 => .ok (.ldxZ32 d a b k c) 4
  | 6 => .ok (.ldx64 d a b k c) 4
  | _ => .bad 0x002#10

/-- Major 23 (R67). -/
noncomputable def dec23 (f : BitVec 10) (b a d : BitVec 5) : Decoded :=
  let c := f.extractLsb' 0 3
  let k := f.extractLsb' 6 4
  match (f.extractLsb' 3 3).toNat with
  | 0 => .ok (.stx8 d a b k c) 4
  | 1 => .ok (.stx16 d a b k c) 4
  | 2 => .ok (.stx32 d a b k c) 4
  | 3 => .ok (.stx64 d a b k c) 4
  | _ => .bad 0x002#10

/-- Major 24 (R67). -/
noncomputable def dec24 (f : BitVec 10) (b a d : BitVec 5) : Decoded :=
  let i := f.extractLsb' 0 3 ++ b
  let s := f.extractLsb' 6 3
  match (f.extractLsb' 3 3).toNat with
  | 0 => zero (f.extractLsb' 9 1) (scopeChk s (.ok (.ldfe d a i s) 4))
  | 1 => zero (f.extractLsb' 9 1) (scopeChk s (.ok (.ldfw d a i s) 4))
  | 2 => zero (f.extractLsb' 9 1) (scopeChk s (.ok (.stfw d a i s) 4))
  | 3 => zero (f.extractLsb' 9 1) (scopeChk s (.ok (.stfs d a i s) 4))
  | 4 => zero (f.extractLsb' 9 1) (scopeChk s (.ok (.fetag d a i s) 4))
  | 5 => zero (f.extractLsb' 9 1) (zero d (scopeChk s (.ok (.feclr a i s) 4)))
  | _ => .bad 0x002#10

/-- Major 25 (R67). -/
noncomputable def dec25 (f : BitVec 10) (b a d : BitVec 5) : Decoded :=
  let s := b.extractLsb' 0 3
  match (f).toNat with
  | 0 => zero d (zero a (zero (b.extractLsb' 3 2) (scopeChk s (.ok (.fence s) 4))))
  | 1 => zero d (zero a (zero (b.extractLsb' 3 2) (scopeChk s (.ok (.ifence s) 4))))
  | 2 => zero d (zero a (zero (b.extractLsb' 3 2) (scopeChk s (.ok (.efence s) 4))))
  | _ => .bad 0x002#10

/-- Major 26 (R67). -/
noncomputable def dec26 (f : BitVec 10) (b a d : BitVec 5) : Decoded :=
  let k := f.extractLsb' 6 4
  match (f.extractLsb' 0 6).toNat with
  | 0 => .ok (.vld d a b k) 4
  | 1 => .ok (.vst d a b k) 4
  | 2 => .ok (.vlds d a b k) 4
  | 3 => .ok (.vsts d a b k) 4
  | 4 => .ok (.vldx d a b k) 4
  | 5 => .ok (.vstx d a b k) 4
  | 6 => .ok (.vldb d a b k) 4
  | 7 => zero d (.ok (.ldt a b k) 4)
  | _ => .bad 0x002#10

/-- Major 27 (R67). -/
noncomputable def dec27 (f : BitVec 10) (b a d : BitVec 5) : Decoded :=
  let m := f.extractLsb' 0 5
  match (f.extractLsb' 5 5).toNat with
  | 0 => .ok (.vaddI16 d a b m) 4
  | 1 => .ok (.vsubI16 d a b m) 4
  | 2 => .ok (.vmulI16 d a b m) 4
  | 3 => .ok (.vmulhI16 d a b m) 4
  | 4 => .ok (.vminI16 d a b m) 4
  | 5 => .ok (.vmaxI16 d a b m) 4
  | 6 => .ok (.vminuI16 d a b m) 4
  | 7 => .ok (.vmaxuI16 d a b m) 4
  | 8 => .ok (.vandI16 d a b m) 4
  | 9 => .ok (.vorI16 d a b m) 4
  | 10 => .ok (.vxorI16 d a b m) 4
  | 11 => .ok (.vshlI16 d a b m) 4
  | 12 => .ok (.vshrI16 d a b m) 4
  | 13 => .ok (.vshaI16 d a b m) 4
  | 14 => zero b (.ok (.vabsI16 d a m) 4)
  | 15 => zero b (.ok (.vnegI16 d a m) 4)
  | 16 => .ok (.vaddsI16 d a b m) 4
  | 17 => .ok (.vsubsI16 d a b m) 4
  | 18 => .ok (.vmacI16 d a b m) 4
  | _ => .bad 0x002#10

/-- Major 28 (R67). -/
noncomputable def dec28 (f : BitVec 10) (b a d : BitVec 5) : Decoded :=
  let m := f.extractLsb' 0 5
  match (f.extractLsb' 5 5).toNat with
  | 0 => .ok (.vaddI32 d a b m) 4
  | 1 => .ok (.vsubI32 d a b m) 4
  | 2 => .ok (.vmulI32 d a b m) 4
  | 3 => .ok (.vmulhI32 d a b m) 4
  | 4 => .ok (.vminI32 d a b m) 4
  | 5 => .ok (.vmaxI32 d a b m) 4
  | 6 => .ok (.vminuI32 d a b m) 4
  | 7 => .ok (.vmaxuI32 d a b m) 4
  | 8 => .ok (.vandI32 d a b m) 4
  | 9 => .ok (.vorI32 d a b m) 4
  | 10 => .ok (.vxorI32 d a b m) 4
  | 11 => .ok (.vshlI32 d a b m) 4
  | 12 => .ok (.vshrI32 d a b m) 4
  | 13 => .ok (.vshaI32 d a b m) 4
  | 14 => zero b (.ok (.vabsI32 d a m) 4)
  | 15 => zero b (.ok (.vnegI32 d a m) 4)
  | 16 => .ok (.vaddsI32 d a b m) 4
  | 17 => .ok (.vsubsI32 d a b m) 4
  | 18 => .ok (.vmacI32 d a b m) 4
  | _ => .bad 0x002#10

/-- Major 29 (R67). -/
noncomputable def dec29 (f : BitVec 10) (b a d : BitVec 5) : Decoded :=
  let m := f.extractLsb' 0 5
  match (f.extractLsb' 5 5).toNat with
  | 0 => .ok (.vaddF32 d a b m) 4
  | 1 => .ok (.vsubF32 d a b m) 4
  | 2 => .ok (.vmulF32 d a b m) 4
  | 3 => .ok (.vfmaF32 d a b m) 4
  | 4 => .ok (.vfmsF32 d a b m) 4
  | 5 => .ok (.vminF32 d a b m) 4
  | 6 => .ok (.vmaxF32 d a b m) 4
  | 7 => zero b (.ok (.vabsF32 d a m) 4)
  | 8 => zero b (.ok (.vnegF32 d a m) 4)
  | 9 => .ok (.vscaleF32 d a b m) 4
  | 10 => .ok (.vfnmaF32 d a b m) 4
  | _ => .bad 0x002#10

/-- Major 30 (R67). -/
noncomputable def dec30 (f : BitVec 10) (b a d : BitVec 5) : Decoded :=
  let m := f.extractLsb' 0 5
  match (f.extractLsb' 5 5).toNat with
  | 0 => .ok (.vaddBf16 d a b m) 4
  | 1 => .ok (.vsubBf16 d a b m) 4
  | 2 => .ok (.vmulBf16 d a b m) 4
  | 3 => .ok (.vfmaBf16 d a b m) 4
  | 4 => .ok (.vfmsBf16 d a b m) 4
  | 5 => .ok (.vminBf16 d a b m) 4
  | 6 => .ok (.vmaxBf16 d a b m) 4
  | 7 => zero b (.ok (.vabsBf16 d a m) 4)
  | 8 => zero b (.ok (.vnegBf16 d a m) 4)
  | 9 => .ok (.vscaleBf16 d a b m) 4
  | 10 => .ok (.vfnmaBf16 d a b m) 4
  | _ => .bad 0x002#10

/-- Major 31 (R67). -/
noncomputable def dec31 (f : BitVec 10) (b a d : BitVec 5) : Decoded :=
  let m := f.extractLsb' 0 5
  match (f.extractLsb' 5 5).toNat with
  | 0 => .ok (.vaddF16 d a b m) 4
  | 1 => .ok (.vsubF16 d a b m) 4
  | 2 => .ok (.vmulF16 d a b m) 4
  | 3 => .ok (.vfmaF16 d a b m) 4
  | 4 => .ok (.vfmsF16 d a b m) 4
  | 5 => .ok (.vminF16 d a b m) 4
  | 6 => .ok (.vmaxF16 d a b m) 4
  | 7 => zero b (.ok (.vabsF16 d a m) 4)
  | 8 => zero b (.ok (.vnegF16 d a m) 4)
  | 9 => .ok (.vscaleF16 d a b m) 4
  | 10 => .ok (.vfnmaF16 d a b m) 4
  | _ => .bad 0x002#10

/-- Major 32 (R67). -/
noncomputable def dec32 (f : BitVec 10) (b a d : BitVec 5) : Decoded :=
  let m := f.extractLsb' 0 5
  match (f.extractLsb' 5 5).toNat with
  | 0 => .ok (.vaddE4m3 d a b m) 4
  | 1 => .ok (.vsubE4m3 d a b m) 4
  | 2 => .ok (.vmulE4m3 d a b m) 4
  | 3 => .ok (.vaddE5m2 d a b m) 4
  | 4 => .ok (.vsubE5m2 d a b m) 4
  | 5 => .ok (.vmulE5m2 d a b m) 4
  | 6 => .ok (.vaddI8 d a b m) 4
  | 7 => .ok (.vsubI8 d a b m) 4
  | 8 => .ok (.vaddsI8 d a b m) 4
  | 9 => .ok (.vminI8 d a b m) 4
  | 10 => .ok (.vmaxI8 d a b m) 4
  | _ => .bad 0x002#10

/-- Major 33 (R67). -/
noncomputable def dec33 (f : BitVec 10) (b a d : BitVec 5) : Decoded :=
  let m := f.extractLsb' 0 5
  match (f.extractLsb' 5 5).toNat with
  | 0 => zero b (.ok (.vmov d a m) 4)
  | 1 => .ok (.vmerge d a b m) 4
  | 2 => zero b (.ok (.vbcast16 d a m) 4)
  | 3 => zero b (.ok (.vbcast32 d a m) 4)
  | 4 => zero b (.ok (.vbcast64 d a m) 4)
  | 5 => zero (f.extractLsb' 0 5) (.ok (.vext16 d a b) 4)
  | 6 => zero (f.extractLsb' 0 5) (.ok (.vext32 d a b) 4)
  | 7 => zero (f.extractLsb' 0 5) (.ok (.vins16 d a b) 4)
  | 8 => zero (f.extractLsb' 0 5) (.ok (.vins32 d a b) 4)
  | 9 => .ok (.vperm16 d a b m) 4
  | 10 => .ok (.vperm32 d a b m) 4
  | 11 => .ok (.vslideup d a b m) 4
  | 12 => .ok (.vslidedn d a b m) 4
  | 13 => .ok (.vzip16 d a b m) 4
  | 14 => zero b (.ok (.vunzip16 d a m) 4)
  | 15 => zero b (.ok (.vredsumF32 d a m) 4)
  | 16 => zero b (.ok (.vredsumBf16 d a m) 4)
  | 17 => zero b (.ok (.vredmaxF32 d a m) 4)
  | 18 => zero b (.ok (.vredminF32 d a m) 4)
  | 19 => zero b (.ok (.vredsumI32 d a m) 4)
  | 20 => zero b (.ok (.vredmaxBf16 d a m) 4)
  | _ => .bad 0x002#10

/-- Major 34 (R67). -/
noncomputable def dec34 (f : BitVec 10) (b a d : BitVec 5) : Decoded :=
  let m := f.extractLsb' 0 5
  match (f.extractLsb' 5 5).toNat with
  | 0 => zero b (.ok (.vcvtBf16F32 d a m) 4)
  | 1 => zero b (.ok (.vcvtF16F32 d a m) 4)
  | 2 => zero b (.ok (.vcvtF32Bf16 d a m) 4)
  | 3 => zero b (.ok (.vcvtF32F16 d a m) 4)
  | 4 => zero b (.ok (.vcvtE4m3F32 d a m) 4)
  | 5 => zero b (.ok (.vcvtE5m2F32 d a m) 4)
  | 6 => zero b (.ok (.vcvtF32E4m3 d a m) 4)
  | 7 => zero b (.ok (.vcvtF32E5m2 d a m) 4)
  | 8 => zero b (.ok (.vcvtI32F32 d a m) 4)
  | 9 => zero b (.ok (.vcvtF32I32 d a m) 4)
  | 10 => zero b (.ok (.vcvtI16F32 d a m) 4)
  | 11 => .ok (.vq4 d a b m) 4
  | 12 => .ok (.vdq4 d a b m) 4
  | 13 => .ok (.vpack8 d a b m) 4
  | 14 => .ok (.vunpk8 d a b m) 4
  | 15 => zero b (.ok (.vcvtBf16E4m3 d a m) 4)
  | 16 => zero b (.ok (.vcvtE4m3Bf16 d a m) 4)
  | _ => .bad 0x002#10

/-- Major 35 (R67). -/
noncomputable def dec35 (f : BitVec 10) (b a d : BitVec 5) : Decoded :=
  let m := f.extractLsb' 0 5
  let t := f.extractLsb' 9 1
  match (f.extractLsb' 5 4).toNat with
  | 0 => zero b (.ok (.vrcp d a m t) 4)
  | 1 => zero b (.ok (.vrsq d a m t) 4)
  | 2 => zero b (.ok (.vsqrt d a m t) 4)
  | 3 => zero b (.ok (.vexp2 d a m t) 4)
  | 4 => zero b (.ok (.vexp d a m t) 4)
  | 5 => zero b (.ok (.vlog2 d a m t) 4)
  | 6 => zero b (.ok (.vsin d a m t) 4)
  | 7 => zero b (.ok (.vcos d a m t) 4)
  | 8 => zero b (.ok (.vtanh d a m t) 4)
  | 9 => zero b (.ok (.vsigm d a m t) 4)
  | 10 => zero b (.ok (.verf d a m t) 4)
  | _ => .bad 0x002#10

/-- Major 36 (R67). -/
noncomputable def dec36 (f : BitVec 10) (b a d : BitVec 5) : Decoded :=
  let m := f.extractLsb' 0 5
  let c := f.extractLsb' 5 2
  let t := f.extractLsb' 7 3
  if t = 7#3 then .bad 0x002#10 else .ok (.vcmp d a b m c t) 4

/-- Major 37 (R67). -/
noncomputable def dec37 (f : BitVec 10) (b a d : BitVec 5) : Decoded :=
  match (f).toNat with
  | 0 => .ok (.vwhile16 d a b) 4
  | 1 => .ok (.vwhile32 d a b) 4
  | 2 => .ok (.vwhile64 d a b) 4
  | 3 => zero b (zero a (.ok (.vlq d) 4))
  | 4 => zero b (.ok (.vlanes d a) 4)
  | 5 => zero b (.ok (.mfirst d a) 4)
  | _ => .bad 0x002#10

/-- Major 38 (R67). -/
noncomputable def dec38 (f : BitVec 10) (b a d : BitVec 5) : Decoded :=
  let k := f.extractLsb' 6 4
  match (f.extractLsb' 0 6).toNat with
  | 0 => zero (f.extractLsb' 6 4) (zero d (.ok (.mwld a b) 4))
  | 1 => zero (f.extractLsb' 6 4) (zero b (zero a (zero d (.ok (.mwswap) 4))))
  | 2 => zero (f.extractLsb' 6 4) (zero d (.ok (.mstrm a b) 4))
  | 3 => zero (f.extractLsb' 6 4) (zero a (zero d (.ok (.mzero b) 4)))
  | 4 => zero a (.ok (.mrda d b k) 4)
  | 5 => zero (f.extractLsb' 6 4) (zero d (.ok (.mwra a b) 4))
  | 6 => zero (f.extractLsb' 6 4) (zero b (zero a (zero d (.ok (.mwait) 4))))
  | 7 => zero (f.extractLsb' 6 4) (zero d (.ok (.mgath a b) 4))
  | 8 => zero (f.extractLsb' 6 4) (zero b (zero a (zero d (.ok (.mxswap) 4))))
  | 9 => zero (f.extractLsb' 6 4) (zero b (zero a (.ok (.mstat d) 4)))
  | _ => .bad 0x002#10

/-- Major 41 (R67). -/
noncomputable def dec41 (f : BitVec 10) (b a d : BitVec 5) : Decoded :=
  match (f.extractLsb' 0 6).toNat with
  | 0 => zero (f.extractLsb' 6 4) (.ok (.cwait d a b) 4)
  | 1 => zero (f.extractLsb' 6 4) (.ok (.ctest d a b) 4)
  | 2 => zero (f.extractLsb' 6 4) (zero b (zero d (.ok (.cclr a) 4)))
  | _ => .bad 0x002#10

/-- Major 43 (R67). -/
noncomputable def dec43 (f : BitVec 10) (b a d : BitVec 5) : Decoded :=
  let k := f.extractLsb' 6 4
  match (f.extractLsb' 0 6).toNat with
  | 0 => zero (f.extractLsb' 6 4) (zero b (.ok (.arsv d a) 4))
  | 1 => zero (f.extractLsb' 6 4) (zero d (.ok (.arls a b) 4))
  | 2 => zero (f.extractLsb' 6 4) (zero b (zero d (.ok (.arcn a) 4)))
  | 3 => .ok (.cas d a b k) 4
  | 4 => .ok (.swap d a b k) 4
  | 5 => .ok (.fadd d a b k) 4
  | _ => .bad 0x002#10

/-- Major 44 (R67). -/
noncomputable def dec44 (f : BitVec 10) (b a d : BitVec 5) : Decoded :=
  let k := f.extractLsb' 6 4
  let s := d.extractLsb' 2 3
  let q := d.extractLsb' 1 1
  let r := d.extractLsb' 0 1
  match (f.extractLsb' 0 6).toNat with
  | 0 => zero (f.extractLsb' 6 4) (scopeChk s (.ok (.redAdd64 r a b s q) 4))
  | 1 => zero (f.extractLsb' 6 4) (scopeChk s (.ok (.redAdd32 r a b s q) 4))
  | 2 => zero (f.extractLsb' 6 4) (scopeChk s (.ok (.redMin64 r a b s q) 4))
  | 3 => zero (f.extractLsb' 6 4) (scopeChk s (.ok (.redMax64 r a b s q) 4))
  | 4 => zero (f.extractLsb' 6 4) (scopeChk s (.ok (.redMinu64 r a b s q) 4))
  | 5 => zero (f.extractLsb' 6 4) (scopeChk s (.ok (.redMaxu64 r a b s q) 4))
  | 6 => zero (f.extractLsb' 6 4) (scopeChk s (.ok (.redAnd64 r a b s q) 4))
  | 7 => zero (f.extractLsb' 6 4) (scopeChk s (.ok (.redOr64 r a b s q) 4))
  | 8 => zero (f.extractLsb' 6 4) (scopeChk s (.ok (.redXor64 r a b s q) 4))
  | 9 => zero (f.extractLsb' 6 4) (scopeChk s (.ok (.redfAddF32 r a b s q) 4))
  | 10 => zero (f.extractLsb' 6 4) (scopeChk s (.ok (.redfAddBf16 r a b s q) 4))
  | 11 => zero b (.ok (.wacrd d a k) 4)
  | 12 => zero (f.extractLsb' 6 4) (zero b (zero d (.ok (.wacclr a) 4)))
  | _ => .bad 0x002#10

/-- Major 45 (R67). -/
noncomputable def dec45 (f : BitVec 10) (b a d : BitVec 5) : Decoded :=
  match (f).toNat with
  | 0 => .ok (.breg d a b) 4
  | 1 => zero b (.ok (.barv d a) 4)
  | 2 => zero d (.ok (.bwait a b) 4)
  | 3 => zero b (.ok (.barvw d a) 4)
  | 4 => zero b (.ok (.btest d a) 4)
  | _ => .bad 0x002#10

/-- Major 46 (R67). -/
noncomputable def dec46 (f : BitVec 10) (b a d : BitVec 5) : Decoded :=
  match (f).toNat with
  | 0 => zero b (.ok (.chbind d a) 4)
  | 1 => zero b (zero d (.ok (.chunb a) 4))
  | 2 => zero b (.ok (.chstat d a) 4)
  | 3 => zero b (zero d (.ok (.send a) 4))
  | 4 => zero b (.ok (.rsrv d a) 4)
  | 5 => zero b (zero d (.ok (.treeset a) 4))
  | _ => .bad 0x002#10

/-- Major 47 (R67). -/
noncomputable def dec47 (f : BitVec 10) (b a d : BitVec 5) : Decoded :=
  match (f.extractLsb' 0 6).toNat with
  | 0 => zero (f.extractLsb' 6 4) (.ok (.sqres d a b) 4)
  | 1 => zero (f.extractLsb' 6 4) (.ok (.sqst d a b) 4)
  | 2 => zero (f.extractLsb' 6 4) (.ok (.sqstr d a b) 4)
  | 3 => zero (f.extractLsb' 6 4) (.ok (.sqcmt d a b) 4)
  | 4 => zero (f.extractLsb' 6 4) (.ok (.sqaband d a b) 4)
  | 5 => zero (f.extractLsb' 6 4) (.ok (.sqlen d a b) 4)
  | 6 => zero (f.extractLsb' 6 4) (.ok (.sqfork d a b) 4)
  | 7 => zero (f.extractLsb' 6 4) (zero b (zero d (.ok (.sqrel a) 4)))
  | 8 => zero (f.extractLsb' 6 4) (.ok (.sqtrim d a b) 4)
  | 9 => zero (f.extractLsb' 6 4) (.ok (.sqrd d a b) 4)
  | 10 => zero (f.extractLsb' 6 4) (.ok (.sqcow d a b) 4)
  | 11 => zero (f.extractLsb' 6 4) (zero b (zero d (.ok (.squnpin a) 4)))
  | _ => .bad 0x002#10

/-- Major 48 (R67). -/
noncomputable def dec48 (f : BitVec 10) (b a d : BitVec 5) : Decoded :=
  match (f.extractLsb' 0 6).toNat with
  | 0 => zero (f.extractLsb' 6 4) (zero b (.ok (.mbwr d a) 4))
  | 1 => zero (f.extractLsb' 6 4) (zero d (.ok (.mbpub a b) 4))
  | 2 => zero (f.extractLsb' 6 4) (zero d (.ok (.mbpubc a b) 4))
  | 3 => zero (f.extractLsb' 6 4) (.ok (.mbrd d a b) 4)
  | _ => .bad 0x002#10

/-- Major 49 (R67). -/
noncomputable def dec49 (f : BitVec 10) (b a d : BitVec 5) : Decoded :=
  match (f.extractLsb' 0 5).toNat with
  | 1 => nxOk f 0 (zero (f.extractLsb' 8 2) (zero b (zero d (if a = 0#5 then .ok .srls 4 else .ok (.srlsRemote a) 4))))
  | 2 => nxOk f 0 (zero (f.extractLsb' 8 2) (zero b (.ok (.seizq d a) 4)))
  | _ => .bad 0x002#10

/-- Major 50 (R67). -/
noncomputable def dec50 (f : BitVec 10) (b a d : BitVec 5) : Decoded :=
  match (f).toNat with
  | 0 => .ok (.spawn d a b) 4
  | 1 => zero b (zero a (zero d (.ok (.exit) 4)))
  | 2 => zero b (zero a (.ok (.time d) 4))
  | 3 => zero b (zero a (zero d (.ok (.hend) 4)))
  | 4 => zero b (zero a (.ok (.bqry d) 4))
  | 5 => .ok (.prime d a b) 4
  | 6 => zero b (.ok (.unprime d a) 4)
  | _ => .bad 0x002#10

/-- The CSR numbers that R144 assigns. -/
def csrAssigned (c : Nat) : Bool :=
  decide (c ≤ 0x009) || (decide (0x010 ≤ c) && decide (c ≤ 0x015)) || [0x020, 0x021, 0x030, 0x031, 0x040].contains c ||
    (decide (0x080 ≤ c) && decide (c < 0x088)) || (decide (0x100 ≤ c) && decide (c < 0x108))

/-- Major 51 (R67). A CSRRD with a nonzero A field takes 0x00A before 0x003, in the order of R147 (log entry 110). -/
noncomputable def dec51 (f : BitVec 10) (b a d : BitVec 5) : Decoded :=
  let c := f ++ b.extractLsb' 3 2
  match (b.extractLsb' 0 3).toNat with
  | 0 => if a = 0#5 then .ok (.csrrd d c) 4 else .bad (if csrAssigned c.toNat then 0x003#10 else 0x00A#10)
  | 1 => .ok (.csrwr d a c) 4
  | 2 => .ok (.csrset d a c) 4
  | 3 => .ok (.csrclr d a c) 4
  | _ => .bad 0x002#10

/-- Major 52 (R67). -/
noncomputable def dec52 (f : BitVec 10) (b a d : BitVec 5) : Decoded :=
  let n := f.extractLsb' 0 6
  match (f.extractLsb' 6 4).toNat with
  | 0 => if trapOk n then zero b (zero a (zero d (.ok (.trap n) 4))) else .bad 0x003#10
  | 1 => zero n (zero b (zero a (zero d (.ok (.eret) 4))))
  | 2 => zero b (zero a (zero d (.ok (.ebrk n) 4)))
  | 3 => zero b (.ok (.hfcall d a n) 4)
  | 4 => if cancelOk n then zero b (.ok (.cancel d a n) 4) else .bad 0x003#10
  | _ => .bad 0x002#10

/-- Major 53 (R67). -/
noncomputable def dec53 (f : BitVec 10) (b a d : BitVec 5) : Decoded :=
  if f.extractLsb' 0 5 ≠ 0#5 then .bad 0x002#10 else nxOk f 0 (zero (f.extractLsb' 8 2) (zero b (.ok (.dlaunch d a) 4)))

/-- Majors with extension words that a core executes: LI64, MCMD, COPY, BURST and SEIZE (R69, R183, R237, R279, R289, R375). -/
noncomputable def decExt (mo : Nat) (f : BitVec 10) (b a d : BitVec 5) (x : List (BitVec 32)) : Decoded :=
  let e := fun n => x.getD n 0#32
  let m := (f.extractLsb' 0 5).toNat
  let h := f.extractLsb' 8 2
  match mo, m with
  | 10, 0 => nxOk f 2 (zero h (zero b (zero a (.ok (.li64 d (e 1 ++ e 0)) 12))))
  | 39, 0 => nxOk f 3 (zero h (.ok (.mcmd d a b (e 0) (e 2 ++ e 1)) 16))
  | 40, 0 => nxOk f 1 (zero h (.ok (.tcopy d a b (e 0)) 8))
  | 40, 1 => nxOk f 2 (zero h (.ok (.tslide d a b (e 0) (e 1)) 12))
  | 40, 2 => nxOk f 1 (zero h (zero d (.ok (.lpref a b (e 0)) 8)))
  | 42, 0 => nxOk f 2 (zero h (zero d (.ok (.bread a b (e 0) (e 1)) 12)))
  | 49, 0 => nxOk f 1 (zero h (.ok (.seize d a b (e 0)) 8))
  | _, _ => .bad 0x002#10

/-- A 32-bit instruction of a core with its extension words, by the major map of R67. -/
noncomputable def decode32 (w : BitVec 32) (x : List (BitVec 32)) : Decoded :=
  let f := slotF w
  let b := slotB w
  let a := slotA w
  let d := slotD w
  match majorOf w with
  | 1 => dec1 f b a d
  | 2 => dec2 f b a d
  | 3 => dec3 f b a d
  | 4 => dec4 f b a d
  | 5 => dec5 f b a d
  | 6 => dec6 f b a d
  | 7 => dec7 f b a d
  | 8 => dec8 f b a d
  | 9 => dec9 f b a d
  | 11 => dec11 f b a d
  | 12 => dec12 f b a d
  | 13 => dec13 f b a d
  | 14 => dec14 f b a d
  | 15 => dec15 f b a d
  | 16 => dec16 f b a d
  | 17 => dec17 f b a d
  | 18 => dec18 f b a d
  | 19 => dec19 f b a d
  | 20 => dec20 f b a d
  | 21 => dec21 f b a d
  | 22 => dec22 f b a d
  | 23 => dec23 f b a d
  | 24 => dec24 f b a d
  | 25 => dec25 f b a d
  | 26 => dec26 f b a d
  | 27 => dec27 f b a d
  | 28 => dec28 f b a d
  | 29 => dec29 f b a d
  | 30 => dec30 f b a d
  | 31 => dec31 f b a d
  | 32 => dec32 f b a d
  | 33 => dec33 f b a d
  | 34 => dec34 f b a d
  | 35 => dec35 f b a d
  | 36 => dec36 f b a d
  | 37 => dec37 f b a d
  | 38 => dec38 f b a d
  | 41 => dec41 f b a d
  | 43 => dec43 f b a d
  | 44 => dec44 f b a d
  | 45 => dec45 f b a d
  | 46 => dec46 f b a d
  | 47 => dec47 f b a d
  | 48 => dec48 f b a d
  | 49 => if f.extractLsb' 0 5 = 0#5 then decExt 49 f b a d x else dec49 f b a d
  | 50 => dec50 f b a d
  | 51 => dec51 f b a d
  | 52 => dec52 f b a d
  | 53 => dec53 f b a d
  | 10 => decExt 10 f b a d x
  | 39 => decExt 39 f b a d x
  | 40 => decExt 40 f b a d x
  | 42 => decExt 42 f b a d x
  | 60 => .bad 0x004#10
  | _ => .bad 0x001#10

/-- A compressed instruction (R70, R71): the fields f2, r1 and the form number. -/
noncomputable def decode16 (h : BitVec 16) : Decoded :=
  let f := h.extractLsb' 11 5
  let r := h.extractLsb' 6 5
  match (h.extractLsb' 1 5).toNat with
  | 0 => .ok (.cIll (f ++ r)) 2
  | 1 => zero r (zero f (.ok .cNop 2))
  | 2 => .ok (.cMov r f) 2
  | 3 => .ok (.cAdd r f) 2
  | 4 => .ok (.cSub r f) 2
  | 5 => .ok (.cAddi r f) 2
  | 6 => .ok (.cLi r f) 2
  | 7 => .ok (.cShli r f) 2
  | 8 => .ok (.cShri r f) 2
  | 9 => .ok (.cAnd r f) 2
  | 10 => .ok (.cOr r f) 2
  | 11 => .ok (.cXor r f) 2
  | 12 => .ok (.cLd64 r f) 2
  | 13 => .ok (.cSt64 r f) 2
  | 14 => .ok (.cBeqz r f) 2
  | 15 => .ok (.cBnez r f) 2
  | 16 => .ok (.cJ (f ++ r)) 2
  | 17 => zero (r.extractLsb' 3 2) (zero f (scopeChk (r.extractLsb' 0 3) (.ok (.cRlx (r.extractLsb' 0 3)) 2)))
  | 18 => zero r (zero f (.ok .cExit 2))
  | 19 => zero r (zero f (.ok .cHend 2))
  | 20 => zero f (.ok (.cJr r) 2)
  | _ => .bad 0x005#10

/-- A queue-class word with its extension words (R95, R96): 0x2C1 and 0x2C2 are the refusals. -/
noncomputable def decodeQ (w : BitVec 32) (x : List (BitVec 32)) : Decoded :=
  let f := slotF w
  let b := slotB w
  let a := slotA w
  let d := slotD w
  let e := fun n => x.getD n 0#32
  let va := e 1 ++ e 0
  let v := e 3 ++ e 2
  let q2 := fun (c : Bool) (r : Decoded) => if c then r else Decoded.bad 0x2C2#10
  let nx := fun n => decide ((f.extractLsb' 5 3).toNat = n)
  let z := decide (b = 0#5)
  let za := decide (a = 0#5)
  let zd := decide (d = 0#5)
  if slotOp w ≠ 0x79#7 then .bad 0x2C1#10
  else if f.extractLsb' 8 2 ≠ 0#2 then .bad 0x2C2#10
  else match (f.extractLsb' 0 5).toNat with
  | 0 => q2 (nx 2 && z && za && zd && vaOk va) (.ok (.qlaunch va) 12)
  | 1 => q2 (nx 3 && z && za && zd && vaOk va) (.ok (.qib va (e 2)) 16)
  | 2 => q2 (nx 0 && z && za && zd) (.ok .qret 4)
  | 3 => q2 (nx 4 && z && za && condOk d && vaOk va) (.ok (.qpred d va v) 20)
  | 4 => q2 (nx 0 && z && za && zd) (.ok .qendp 4)
  | 5 => q2 (nx 1 && z && za && zd && decide (e 0 ≠ 0#32)) (.ok (.qloop (e 0)) 8)
  | 6 => q2 (nx 0 && z && za && zd) (.ok .qendl 4)
  | 7 => q2 (nx 4 && z && decide (d.extractLsb' 1 4 = 0#4) && vaOk va) (.ok (.qsig (d.extractLsb' 0 1) a va v) 20)
  | 8 => q2 (nx 5 && z && za && condOk d && vaOk va) (.ok (.qwait d va v (e 4)) 24)
  | 9 => q2 (nx 0 && z && za && zd) (.ok .qff 4)
  | 10 => q2 (nx 4 && z && za && zd && vaOk va) (.ok (.qwr va v) 20)
  | 11 => q2 (nx 1 && z && za && depOk d (e 0)) (.ok (.qdep d (e 0)) 8)
  | 12 => q2 (z && za && zd) (.ok (.qnop (f.extractLsb' 5 3)) (4 + 4 * (f.extractLsb' 5 3).toNat))
  | 13 => q2 (nx 1 && z && za && decide (d.toNat < 4)) (.ok (.qmark d (e 0)) 8)
  | 14 => q2 (nx 0 && z && za && decide (d.extractLsb' 1 4 = 0#4)) (.ok (.qreplay (d.extractLsb' 0 1)) 4)
  | 15 => q2 (nx 0 && z && za && decide (d.extractLsb' 4 1 = 0#1)) (.ok (.qprio (d.extractLsb' 0 4)) 4)
  | _ => .bad 0x2C2#10

/-- The halfwords of an instruction, lowest address first (R57, R58, R60, R70). A device step has none. -/
def encode : Instr → List (BitVec 16)
  | .add d a b => words [mk 0#10 b a d 3#7]
  | .sub d a b => words [mk 1#10 b a d 3#7]
  | .and d a b => words [mk 2#10 b a d 3#7]
  | .or d a b => words [mk 3#10 b a d 3#7]
  | .xor d a b => words [mk 4#10 b a d 3#7]
  | .andn d a b => words [mk 5#10 b a d 3#7]
  | .shl d a b => words [mk 6#10 b a d 3#7]
  | .shr d a b => words [mk 7#10 b a d 3#7]
  | .sha d a b => words [mk 8#10 b a d 3#7]
  | .rotr d a b => words [mk 9#10 b a d 3#7]
  | .min d a b => words [mk 10#10 b a d 3#7]
  | .max d a b => words [mk 11#10 b a d 3#7]
  | .minu d a b => words [mk 12#10 b a d 3#7]
  | .maxu d a b => words [mk 13#10 b a d 3#7]
  | .cmpeq d a b => words [mk 14#10 b a d 3#7]
  | .cmpne d a b => words [mk 15#10 b a d 3#7]
  | .cmplt d a b => words [mk 16#10 b a d 3#7]
  | .cmpltu d a b => words [mk 17#10 b a d 3#7]
  | .cmpge d a b => words [mk 18#10 b a d 3#7]
  | .cmpgeu d a b => words [mk 19#10 b a d 3#7]
  | .sel d a b => words [mk 20#10 b a d 3#7]
  | .addw d a b => words [mk 21#10 b a d 3#7]
  | .subw d a b => words [mk 22#10 b a d 3#7]
  | .addi d a i => words [mk (i.extractLsb' 5 10) (i.extractLsb' 0 5) a d 5#7]
  | .andi d a i => words [mk (i.extractLsb' 5 10) (i.extractLsb' 0 5) a d 7#7]
  | .ori d a i => words [mk (i.extractLsb' 5 10) (i.extractLsb' 0 5) a d 9#7]
  | .xori d a i => words [mk (i.extractLsb' 5 10) (i.extractLsb' 0 5) a d 11#7]
  | .shli d a n => words [mk (0#9 ++ n.extractLsb' 5 1) (n.extractLsb' 0 5) a d 13#7]
  | .shri d a n => words [mk (1#9 ++ n.extractLsb' 5 1) (n.extractLsb' 0 5) a d 13#7]
  | .shai d a n => words [mk (2#9 ++ n.extractLsb' 5 1) (n.extractLsb' 0 5) a d 13#7]
  | .rotri d a n => words [mk (3#9 ++ n.extractLsb' 5 1) (n.extractLsb' 0 5) a d 13#7]
  | .cmpeqi d a i => words [mk (0#3 ++ i.extractLsb' 5 7) (i.extractLsb' 0 5) a d 15#7]
  | .cmpnei d a i => words [mk (1#3 ++ i.extractLsb' 5 7) (i.extractLsb' 0 5) a d 15#7]
  | .cmplti d a i => words [mk (2#3 ++ i.extractLsb' 5 7) (i.extractLsb' 0 5) a d 15#7]
  | .cmpltui d a i => words [mk (3#3 ++ i.extractLsb' 5 7) (i.extractLsb' 0 5) a d 15#7]
  | .cmpgei d a i => words [mk (4#3 ++ i.extractLsb' 5 7) (i.extractLsb' 0 5) a d 15#7]
  | .cmpgeui d a i => words [mk (5#3 ++ i.extractLsb' 5 7) (i.extractLsb' 0 5) a d 15#7]
  | .lih d i => words [mk (i.extractLsb' 10 10) (i.extractLsb' 5 5) (i.extractLsb' 0 5) d 17#7]
  | .addpc d i => words [mk (i.extractLsb' 10 10) (i.extractLsb' 5 5) (i.extractLsb' 0 5) d 19#7]
  | .li64 d imm => words (mk (0#2 ++ 2#3 ++ 0#5) 0#5 0#5 (d) 21#7 :: [imm.extractLsb' 0 32, imm.extractLsb' 32 32])
  | .mul d a b => words [mk 0#10 b a d 23#7]
  | .mulh d a b => words [mk 1#10 b a d 23#7]
  | .mulhu d a b => words [mk 2#10 b a d 23#7]
  | .mulhsu d a b => words [mk 3#10 b a d 23#7]
  | .div d a b => words [mk 4#10 b a d 23#7]
  | .divu d a b => words [mk 5#10 b a d 23#7]
  | .rem d a b => words [mk 6#10 b a d 23#7]
  | .remu d a b => words [mk 7#10 b a d 23#7]
  | .mulw d a b => words [mk 8#10 b a d 23#7]
  | .madd d a b => words [mk 9#10 b a d 23#7]
  | .bfx d a b => words [mk 0#10 b a d 25#7]
  | .bfxu d a b => words [mk 1#10 b a d 25#7]
  | .bfi d a b => words [mk 2#10 b a d 25#7]
  | .popc d a => words [mk 3#10 0#5 a d 25#7]
  | .clz d a => words [mk 4#10 0#5 a d 25#7]
  | .ctz d a => words [mk 5#10 0#5 a d 25#7]
  | .brev d a => words [mk 6#10 0#5 a d 25#7]
  | .bswap d a => words [mk 7#10 0#5 a d 25#7]
  | .sextb d a => words [mk 8#10 0#5 a d 25#7]
  | .sexth d a => words [mk 9#10 0#5 a d 25#7]
  | .sextw d a => words [mk 10#10 0#5 a d 25#7]
  | .zextb d a => words [mk 11#10 0#5 a d 25#7]
  | .zexth d a => words [mk 12#10 0#5 a d 25#7]
  | .zextw d a => words [mk 13#10 0#5 a d 25#7]
  | .lea d a b i c => words [mk (i ++ c) b a d 27#7]
  | .beq a b o => words [mk (o.extractLsb' 2 10) b a (o.extractLsb' 0 2 ++ 0#3) 29#7]
  | .bne a b o => words [mk (o.extractLsb' 2 10) b a (o.extractLsb' 0 2 ++ 1#3) 29#7]
  | .blt a b o => words [mk (o.extractLsb' 2 10) b a (o.extractLsb' 0 2 ++ 2#3) 29#7]
  | .bge a b o => words [mk (o.extractLsb' 2 10) b a (o.extractLsb' 0 2 ++ 3#3) 29#7]
  | .bltu a b o => words [mk (o.extractLsb' 2 10) b a (o.extractLsb' 0 2 ++ 4#3) 29#7]
  | .bgeu a b o => words [mk (o.extractLsb' 2 10) b a (o.extractLsb' 0 2 ++ 5#3) 29#7]
  | .bbs a b o => words [mk (o.extractLsb' 2 10) b a (o.extractLsb' 0 2 ++ 6#3) 29#7]
  | .bbc a b o => words [mk (o.extractLsb' 2 10) b a (o.extractLsb' 0 2 ++ 7#3) 29#7]
  | .beqz a o => words [mk (o.extractLsb' 2 10) 0#5 a (o.extractLsb' 0 2 ++ 0#3) 31#7]
  | .bnez a o => words [mk (o.extractLsb' 2 10) 0#5 a (o.extractLsb' 0 2 ++ 1#3) 31#7]
  | .bltz a o => words [mk (o.extractLsb' 2 10) 0#5 a (o.extractLsb' 0 2 ++ 2#3) 31#7]
  | .bgez a o => words [mk (o.extractLsb' 2 10) 0#5 a (o.extractLsb' 0 2 ++ 3#3) 31#7]
  | .bgtz a o => words [mk (o.extractLsb' 2 10) 0#5 a (o.extractLsb' 0 2 ++ 4#3) 31#7]
  | .blez a o => words [mk (o.extractLsb' 2 10) 0#5 a (o.extractLsb' 0 2 ++ 5#3) 31#7]
  | .dbnz a o => words [mk (o.extractLsb' 2 10) 0#5 a (o.extractLsb' 0 2 ++ 6#3) 31#7]
  | .j i => words [mk (i.extractLsb' 15 10) (i.extractLsb' 10 5) (i.extractLsb' 5 5) (i.extractLsb' 0 5) 33#7]
  | .jl i => words [mk (i.extractLsb' 15 10) (i.extractLsb' 10 5) (i.extractLsb' 5 5) (i.extractLsb' 0 5) 35#7]
  | .jr a => words [mk 0#10 0#5 a 0#5 37#7]
  | .jlr d a => words [mk 1#10 0#5 a d 37#7]
  | .rpt a n x y z => words [mk (0#1 ++ z ++ y ++ x) 0#5 a n 39#7]
  | .ldS8 d a k i => words [mk (k ++ 0#3 ++ i.extractLsb' 5 3) (i.extractLsb' 0 5) a d 41#7]
  | .ldZ8 d a k i => words [mk (k ++ 1#3 ++ i.extractLsb' 5 3) (i.extractLsb' 0 5) a d 41#7]
  | .ldS16 d a k i => words [mk (k ++ 2#3 ++ i.extractLsb' 5 3) (i.extractLsb' 0 5) a d 41#7]
  | .ldZ16 d a k i => words [mk (k ++ 3#3 ++ i.extractLsb' 5 3) (i.extractLsb' 0 5) a d 41#7]
  | .ldS32 d a k i => words [mk (k ++ 4#3 ++ i.extractLsb' 5 3) (i.extractLsb' 0 5) a d 41#7]
  | .ldZ32 d a k i => words [mk (k ++ 5#3 ++ i.extractLsb' 5 3) (i.extractLsb' 0 5) a d 41#7]
  | .ld64 d a k i => words [mk (k ++ 6#3 ++ i.extractLsb' 5 3) (i.extractLsb' 0 5) a d 41#7]
  | .st8 d a k i => words [mk (k ++ 0#3 ++ i.extractLsb' 5 3) (i.extractLsb' 0 5) a d 43#7]
  | .st16 d a k i => words [mk (k ++ 1#3 ++ i.extractLsb' 5 3) (i.extractLsb' 0 5) a d 43#7]
  | .st32 d a k i => words [mk (k ++ 2#3 ++ i.extractLsb' 5 3) (i.extractLsb' 0 5) a d 43#7]
  | .st64 d a k i => words [mk (k ++ 3#3 ++ i.extractLsb' 5 3) (i.extractLsb' 0 5) a d 43#7]
  | .ldxS8 d a b k c => words [mk (k ++ 0#3 ++ c) b a d 45#7]
  | .ldxZ8 d a b k c => words [mk (k ++ 1#3 ++ c) b a d 45#7]
  | .ldxS16 d a b k c => words [mk (k ++ 2#3 ++ c) b a d 45#7]
  | .ldxZ16 d a b k c => words [mk (k ++ 3#3 ++ c) b a d 45#7]
  | .ldxS32 d a b k c => words [mk (k ++ 4#3 ++ c) b a d 45#7]
  | .ldxZ32 d a b k c => words [mk (k ++ 5#3 ++ c) b a d 45#7]
  | .ldx64 d a b k c => words [mk (k ++ 6#3 ++ c) b a d 45#7]
  | .stx8 d a b k c => words [mk (k ++ 0#3 ++ c) b a d 47#7]
  | .stx16 d a b k c => words [mk (k ++ 1#3 ++ c) b a d 47#7]
  | .stx32 d a b k c => words [mk (k ++ 2#3 ++ c) b a d 47#7]
  | .stx64 d a b k c => words [mk (k ++ 3#3 ++ c) b a d 47#7]
  | .ldfe d a i s => words [mk (0#1 ++ s ++ 0#3 ++ i.extractLsb' 5 3) (i.extractLsb' 0 5) a d 49#7]
  | .ldfw d a i s => words [mk (0#1 ++ s ++ 1#3 ++ i.extractLsb' 5 3) (i.extractLsb' 0 5) a d 49#7]
  | .stfw d a i s => words [mk (0#1 ++ s ++ 2#3 ++ i.extractLsb' 5 3) (i.extractLsb' 0 5) a d 49#7]
  | .stfs d a i s => words [mk (0#1 ++ s ++ 3#3 ++ i.extractLsb' 5 3) (i.extractLsb' 0 5) a d 49#7]
  | .fetag d a i s => words [mk (0#1 ++ s ++ 4#3 ++ i.extractLsb' 5 3) (i.extractLsb' 0 5) a d 49#7]
  | .feclr a i s => words [mk (0#1 ++ s ++ 5#3 ++ i.extractLsb' 5 3) (i.extractLsb' 0 5) a 0#5 49#7]
  | .fence s => words [mk 0#10 (0#2 ++ s) 0#5 0#5 51#7]
  | .ifence s => words [mk 1#10 (0#2 ++ s) 0#5 0#5 51#7]
  | .efence s => words [mk 2#10 (0#2 ++ s) 0#5 0#5 51#7]
  | .vld d a b k => words [mk (k ++ 0#6) b a d 53#7]
  | .vst d a b k => words [mk (k ++ 1#6) b a d 53#7]
  | .vlds d a b k => words [mk (k ++ 2#6) b a d 53#7]
  | .vsts d a b k => words [mk (k ++ 3#6) b a d 53#7]
  | .vldx d a b k => words [mk (k ++ 4#6) b a d 53#7]
  | .vstx d a b k => words [mk (k ++ 5#6) b a d 53#7]
  | .vldb d a b k => words [mk (k ++ 6#6) b a d 53#7]
  | .ldt a b k => words [mk (k ++ 7#6) b a 0#5 53#7]
  | .vaddI16 d a b m => words [mk (0#5 ++ m) b a d 55#7]
  | .vsubI16 d a b m => words [mk (1#5 ++ m) b a d 55#7]
  | .vmulI16 d a b m => words [mk (2#5 ++ m) b a d 55#7]
  | .vmulhI16 d a b m => words [mk (3#5 ++ m) b a d 55#7]
  | .vminI16 d a b m => words [mk (4#5 ++ m) b a d 55#7]
  | .vmaxI16 d a b m => words [mk (5#5 ++ m) b a d 55#7]
  | .vminuI16 d a b m => words [mk (6#5 ++ m) b a d 55#7]
  | .vmaxuI16 d a b m => words [mk (7#5 ++ m) b a d 55#7]
  | .vandI16 d a b m => words [mk (8#5 ++ m) b a d 55#7]
  | .vorI16 d a b m => words [mk (9#5 ++ m) b a d 55#7]
  | .vxorI16 d a b m => words [mk (10#5 ++ m) b a d 55#7]
  | .vshlI16 d a b m => words [mk (11#5 ++ m) b a d 55#7]
  | .vshrI16 d a b m => words [mk (12#5 ++ m) b a d 55#7]
  | .vshaI16 d a b m => words [mk (13#5 ++ m) b a d 55#7]
  | .vabsI16 d a m => words [mk (14#5 ++ m) 0#5 a d 55#7]
  | .vnegI16 d a m => words [mk (15#5 ++ m) 0#5 a d 55#7]
  | .vaddsI16 d a b m => words [mk (16#5 ++ m) b a d 55#7]
  | .vsubsI16 d a b m => words [mk (17#5 ++ m) b a d 55#7]
  | .vmacI16 d a b m => words [mk (18#5 ++ m) b a d 55#7]
  | .vaddI32 d a b m => words [mk (0#5 ++ m) b a d 57#7]
  | .vsubI32 d a b m => words [mk (1#5 ++ m) b a d 57#7]
  | .vmulI32 d a b m => words [mk (2#5 ++ m) b a d 57#7]
  | .vmulhI32 d a b m => words [mk (3#5 ++ m) b a d 57#7]
  | .vminI32 d a b m => words [mk (4#5 ++ m) b a d 57#7]
  | .vmaxI32 d a b m => words [mk (5#5 ++ m) b a d 57#7]
  | .vminuI32 d a b m => words [mk (6#5 ++ m) b a d 57#7]
  | .vmaxuI32 d a b m => words [mk (7#5 ++ m) b a d 57#7]
  | .vandI32 d a b m => words [mk (8#5 ++ m) b a d 57#7]
  | .vorI32 d a b m => words [mk (9#5 ++ m) b a d 57#7]
  | .vxorI32 d a b m => words [mk (10#5 ++ m) b a d 57#7]
  | .vshlI32 d a b m => words [mk (11#5 ++ m) b a d 57#7]
  | .vshrI32 d a b m => words [mk (12#5 ++ m) b a d 57#7]
  | .vshaI32 d a b m => words [mk (13#5 ++ m) b a d 57#7]
  | .vabsI32 d a m => words [mk (14#5 ++ m) 0#5 a d 57#7]
  | .vnegI32 d a m => words [mk (15#5 ++ m) 0#5 a d 57#7]
  | .vaddsI32 d a b m => words [mk (16#5 ++ m) b a d 57#7]
  | .vsubsI32 d a b m => words [mk (17#5 ++ m) b a d 57#7]
  | .vmacI32 d a b m => words [mk (18#5 ++ m) b a d 57#7]
  | .vaddF32 d a b m => words [mk (0#5 ++ m) b a d 59#7]
  | .vsubF32 d a b m => words [mk (1#5 ++ m) b a d 59#7]
  | .vmulF32 d a b m => words [mk (2#5 ++ m) b a d 59#7]
  | .vfmaF32 d a b m => words [mk (3#5 ++ m) b a d 59#7]
  | .vfmsF32 d a b m => words [mk (4#5 ++ m) b a d 59#7]
  | .vminF32 d a b m => words [mk (5#5 ++ m) b a d 59#7]
  | .vmaxF32 d a b m => words [mk (6#5 ++ m) b a d 59#7]
  | .vabsF32 d a m => words [mk (7#5 ++ m) 0#5 a d 59#7]
  | .vnegF32 d a m => words [mk (8#5 ++ m) 0#5 a d 59#7]
  | .vscaleF32 d a b m => words [mk (9#5 ++ m) b a d 59#7]
  | .vfnmaF32 d a b m => words [mk (10#5 ++ m) b a d 59#7]
  | .vaddBf16 d a b m => words [mk (0#5 ++ m) b a d 61#7]
  | .vsubBf16 d a b m => words [mk (1#5 ++ m) b a d 61#7]
  | .vmulBf16 d a b m => words [mk (2#5 ++ m) b a d 61#7]
  | .vfmaBf16 d a b m => words [mk (3#5 ++ m) b a d 61#7]
  | .vfmsBf16 d a b m => words [mk (4#5 ++ m) b a d 61#7]
  | .vminBf16 d a b m => words [mk (5#5 ++ m) b a d 61#7]
  | .vmaxBf16 d a b m => words [mk (6#5 ++ m) b a d 61#7]
  | .vabsBf16 d a m => words [mk (7#5 ++ m) 0#5 a d 61#7]
  | .vnegBf16 d a m => words [mk (8#5 ++ m) 0#5 a d 61#7]
  | .vscaleBf16 d a b m => words [mk (9#5 ++ m) b a d 61#7]
  | .vfnmaBf16 d a b m => words [mk (10#5 ++ m) b a d 61#7]
  | .vaddF16 d a b m => words [mk (0#5 ++ m) b a d 63#7]
  | .vsubF16 d a b m => words [mk (1#5 ++ m) b a d 63#7]
  | .vmulF16 d a b m => words [mk (2#5 ++ m) b a d 63#7]
  | .vfmaF16 d a b m => words [mk (3#5 ++ m) b a d 63#7]
  | .vfmsF16 d a b m => words [mk (4#5 ++ m) b a d 63#7]
  | .vminF16 d a b m => words [mk (5#5 ++ m) b a d 63#7]
  | .vmaxF16 d a b m => words [mk (6#5 ++ m) b a d 63#7]
  | .vabsF16 d a m => words [mk (7#5 ++ m) 0#5 a d 63#7]
  | .vnegF16 d a m => words [mk (8#5 ++ m) 0#5 a d 63#7]
  | .vscaleF16 d a b m => words [mk (9#5 ++ m) b a d 63#7]
  | .vfnmaF16 d a b m => words [mk (10#5 ++ m) b a d 63#7]
  | .vaddE4m3 d a b m => words [mk (0#5 ++ m) b a d 65#7]
  | .vsubE4m3 d a b m => words [mk (1#5 ++ m) b a d 65#7]
  | .vmulE4m3 d a b m => words [mk (2#5 ++ m) b a d 65#7]
  | .vaddE5m2 d a b m => words [mk (3#5 ++ m) b a d 65#7]
  | .vsubE5m2 d a b m => words [mk (4#5 ++ m) b a d 65#7]
  | .vmulE5m2 d a b m => words [mk (5#5 ++ m) b a d 65#7]
  | .vaddI8 d a b m => words [mk (6#5 ++ m) b a d 65#7]
  | .vsubI8 d a b m => words [mk (7#5 ++ m) b a d 65#7]
  | .vaddsI8 d a b m => words [mk (8#5 ++ m) b a d 65#7]
  | .vminI8 d a b m => words [mk (9#5 ++ m) b a d 65#7]
  | .vmaxI8 d a b m => words [mk (10#5 ++ m) b a d 65#7]
  | .vmov d a m => words [mk (0#5 ++ m) 0#5 a d 67#7]
  | .vmerge d a b m => words [mk (1#5 ++ m) b a d 67#7]
  | .vbcast16 d a m => words [mk (2#5 ++ m) 0#5 a d 67#7]
  | .vbcast32 d a m => words [mk (3#5 ++ m) 0#5 a d 67#7]
  | .vbcast64 d a m => words [mk (4#5 ++ m) 0#5 a d 67#7]
  | .vext16 d a b => words [mk (5#5 ++ 0#5) b a d 67#7]
  | .vext32 d a b => words [mk (6#5 ++ 0#5) b a d 67#7]
  | .vins16 d a b => words [mk (7#5 ++ 0#5) b a d 67#7]
  | .vins32 d a b => words [mk (8#5 ++ 0#5) b a d 67#7]
  | .vperm16 d a b m => words [mk (9#5 ++ m) b a d 67#7]
  | .vperm32 d a b m => words [mk (10#5 ++ m) b a d 67#7]
  | .vslideup d a b m => words [mk (11#5 ++ m) b a d 67#7]
  | .vslidedn d a b m => words [mk (12#5 ++ m) b a d 67#7]
  | .vzip16 d a b m => words [mk (13#5 ++ m) b a d 67#7]
  | .vunzip16 d a m => words [mk (14#5 ++ m) 0#5 a d 67#7]
  | .vredsumF32 d a m => words [mk (15#5 ++ m) 0#5 a d 67#7]
  | .vredsumBf16 d a m => words [mk (16#5 ++ m) 0#5 a d 67#7]
  | .vredmaxF32 d a m => words [mk (17#5 ++ m) 0#5 a d 67#7]
  | .vredminF32 d a m => words [mk (18#5 ++ m) 0#5 a d 67#7]
  | .vredsumI32 d a m => words [mk (19#5 ++ m) 0#5 a d 67#7]
  | .vredmaxBf16 d a m => words [mk (20#5 ++ m) 0#5 a d 67#7]
  | .vcvtBf16F32 d a m => words [mk (0#5 ++ m) 0#5 a d 69#7]
  | .vcvtF16F32 d a m => words [mk (1#5 ++ m) 0#5 a d 69#7]
  | .vcvtF32Bf16 d a m => words [mk (2#5 ++ m) 0#5 a d 69#7]
  | .vcvtF32F16 d a m => words [mk (3#5 ++ m) 0#5 a d 69#7]
  | .vcvtE4m3F32 d a m => words [mk (4#5 ++ m) 0#5 a d 69#7]
  | .vcvtE5m2F32 d a m => words [mk (5#5 ++ m) 0#5 a d 69#7]
  | .vcvtF32E4m3 d a m => words [mk (6#5 ++ m) 0#5 a d 69#7]
  | .vcvtF32E5m2 d a m => words [mk (7#5 ++ m) 0#5 a d 69#7]
  | .vcvtI32F32 d a m => words [mk (8#5 ++ m) 0#5 a d 69#7]
  | .vcvtF32I32 d a m => words [mk (9#5 ++ m) 0#5 a d 69#7]
  | .vcvtI16F32 d a m => words [mk (10#5 ++ m) 0#5 a d 69#7]
  | .vq4 d a b m => words [mk (11#5 ++ m) b a d 69#7]
  | .vdq4 d a b m => words [mk (12#5 ++ m) b a d 69#7]
  | .vpack8 d a b m => words [mk (13#5 ++ m) b a d 69#7]
  | .vunpk8 d a b m => words [mk (14#5 ++ m) b a d 69#7]
  | .vcvtBf16E4m3 d a m => words [mk (15#5 ++ m) 0#5 a d 69#7]
  | .vcvtE4m3Bf16 d a m => words [mk (16#5 ++ m) 0#5 a d 69#7]
  | .vrcp d a m t => words [mk (t ++ 0#4 ++ m) 0#5 a d 71#7]
  | .vrsq d a m t => words [mk (t ++ 1#4 ++ m) 0#5 a d 71#7]
  | .vsqrt d a m t => words [mk (t ++ 2#4 ++ m) 0#5 a d 71#7]
  | .vexp2 d a m t => words [mk (t ++ 3#4 ++ m) 0#5 a d 71#7]
  | .vexp d a m t => words [mk (t ++ 4#4 ++ m) 0#5 a d 71#7]
  | .vlog2 d a m t => words [mk (t ++ 5#4 ++ m) 0#5 a d 71#7]
  | .vsin d a m t => words [mk (t ++ 6#4 ++ m) 0#5 a d 71#7]
  | .vcos d a m t => words [mk (t ++ 7#4 ++ m) 0#5 a d 71#7]
  | .vtanh d a m t => words [mk (t ++ 8#4 ++ m) 0#5 a d 71#7]
  | .vsigm d a m t => words [mk (t ++ 9#4 ++ m) 0#5 a d 71#7]
  | .verf d a m t => words [mk (t ++ 10#4 ++ m) 0#5 a d 71#7]
  | .vcmp d a b m c t => words [mk (t ++ c ++ m) b a d 73#7]
  | .vwhile16 d a b => words [mk 0#10 b a d 75#7]
  | .vwhile32 d a b => words [mk 1#10 b a d 75#7]
  | .vwhile64 d a b => words [mk 2#10 b a d 75#7]
  | .vlq d => words [mk 3#10 0#5 0#5 d 75#7]
  | .vlanes d a => words [mk 4#10 0#5 a d 75#7]
  | .mfirst d a => words [mk 5#10 0#5 a d 75#7]
  | .mwld a b => words [mk (0#4 ++ 0#6) b a 0#5 77#7]
  | .mwswap => words [mk (0#4 ++ 1#6) 0#5 0#5 0#5 77#7]
  | .mstrm a b => words [mk (0#4 ++ 2#6) b a 0#5 77#7]
  | .mzero b => words [mk (0#4 ++ 3#6) b 0#5 0#5 77#7]
  | .mrda d b k => words [mk (k ++ 4#6) b 0#5 d 77#7]
  | .mwra a b => words [mk (0#4 ++ 5#6) b a 0#5 77#7]
  | .mwait => words [mk (0#4 ++ 6#6) 0#5 0#5 0#5 77#7]
  | .mgath a b => words [mk (0#4 ++ 7#6) b a 0#5 77#7]
  | .mxswap => words [mk (0#4 ++ 8#6) 0#5 0#5 0#5 77#7]
  | .mstat d => words [mk (0#4 ++ 9#6) 0#5 0#5 d 77#7]
  | .mcmd d a b cmd notify => words (mk (0#2 ++ 3#3 ++ 0#5) b a (d) 79#7 :: [cmd, notify.extractLsb' 0 32, notify.extractLsb' 32 32])
  | .tcopy d a b x0 => words (mk (0#2 ++ 1#3 ++ 0#5) b a (d) 81#7 :: [x0])
  | .tslide d a b x0 x1 => words (mk (0#2 ++ 2#3 ++ 1#5) b a (d) 81#7 :: [x0, x1])
  | .lpref a b x0 => words (mk (0#2 ++ 1#3 ++ 2#5) b a (0#5) 81#7 :: [x0])
  | .cwait d a b => words [mk (0#4 ++ 0#6) b a d 83#7]
  | .ctest d a b => words [mk (0#4 ++ 1#6) b a d 83#7]
  | .cclr a => words [mk (0#4 ++ 2#6) 0#5 a 0#5 83#7]
  | .bread a b x0 x1 => words (mk (0#2 ++ 2#3 ++ 0#5) b a (0#5) 85#7 :: [x0, x1])
  | .arsv d a => words [mk (0#4 ++ 0#6) 0#5 a d 87#7]
  | .arls a b => words [mk (0#4 ++ 1#6) b a 0#5 87#7]
  | .arcn a => words [mk (0#4 ++ 2#6) 0#5 a 0#5 87#7]
  | .cas d a b k => words [mk (k ++ 3#6) b a d 87#7]
  | .swap d a b k => words [mk (k ++ 4#6) b a d 87#7]
  | .fadd d a b k => words [mk (k ++ 5#6) b a d 87#7]
  | .redAdd64 r a b s q => words [mk (0#4 ++ 0#6) b a (s ++ q ++ r) 89#7]
  | .redAdd32 r a b s q => words [mk (0#4 ++ 1#6) b a (s ++ q ++ r) 89#7]
  | .redMin64 r a b s q => words [mk (0#4 ++ 2#6) b a (s ++ q ++ r) 89#7]
  | .redMax64 r a b s q => words [mk (0#4 ++ 3#6) b a (s ++ q ++ r) 89#7]
  | .redMinu64 r a b s q => words [mk (0#4 ++ 4#6) b a (s ++ q ++ r) 89#7]
  | .redMaxu64 r a b s q => words [mk (0#4 ++ 5#6) b a (s ++ q ++ r) 89#7]
  | .redAnd64 r a b s q => words [mk (0#4 ++ 6#6) b a (s ++ q ++ r) 89#7]
  | .redOr64 r a b s q => words [mk (0#4 ++ 7#6) b a (s ++ q ++ r) 89#7]
  | .redXor64 r a b s q => words [mk (0#4 ++ 8#6) b a (s ++ q ++ r) 89#7]
  | .redfAddF32 r a b s q => words [mk (0#4 ++ 9#6) b a (s ++ q ++ r) 89#7]
  | .redfAddBf16 r a b s q => words [mk (0#4 ++ 10#6) b a (s ++ q ++ r) 89#7]
  | .wacrd d a k => words [mk (k ++ 11#6) 0#5 a d 89#7]
  | .wacclr a => words [mk (0#4 ++ 12#6) 0#5 a 0#5 89#7]
  | .breg d a b => words [mk 0#10 b a d 91#7]
  | .barv d a => words [mk 1#10 0#5 a d 91#7]
  | .bwait a b => words [mk 2#10 b a 0#5 91#7]
  | .barvw d a => words [mk 3#10 0#5 a d 91#7]
  | .btest d a => words [mk 4#10 0#5 a d 91#7]
  | .chbind d a => words [mk 0#10 0#5 a d 93#7]
  | .chunb a => words [mk 1#10 0#5 a 0#5 93#7]
  | .chstat d a => words [mk 2#10 0#5 a d 93#7]
  | .send a => words [mk 3#10 0#5 a 0#5 93#7]
  | .rsrv d a => words [mk 4#10 0#5 a d 93#7]
  | .treeset a => words [mk 5#10 0#5 a 0#5 93#7]
  | .sqres d a b => words [mk (0#4 ++ 0#6) b a d 95#7]
  | .sqst d a b => words [mk (0#4 ++ 1#6) b a d 95#7]
  | .sqstr d a b => words [mk (0#4 ++ 2#6) b a d 95#7]
  | .sqcmt d a b => words [mk (0#4 ++ 3#6) b a d 95#7]
  | .sqaband d a b => words [mk (0#4 ++ 4#6) b a d 95#7]
  | .sqlen d a b => words [mk (0#4 ++ 5#6) b a d 95#7]
  | .sqfork d a b => words [mk (0#4 ++ 6#6) b a d 95#7]
  | .sqrel a => words [mk (0#4 ++ 7#6) 0#5 a 0#5 95#7]
  | .sqtrim d a b => words [mk (0#4 ++ 8#6) b a d 95#7]
  | .sqrd d a b => words [mk (0#4 ++ 9#6) b a d 95#7]
  | .sqcow d a b => words [mk (0#4 ++ 10#6) b a d 95#7]
  | .squnpin a => words [mk (0#4 ++ 11#6) 0#5 a 0#5 95#7]
  | .mbwr d a => words [mk (0#4 ++ 0#6) 0#5 a d 97#7]
  | .mbpub a b => words [mk (0#4 ++ 1#6) b a 0#5 97#7]
  | .mbpubc a b => words [mk (0#4 ++ 2#6) b a 0#5 97#7]
  | .mbrd d a b => words [mk (0#4 ++ 3#6) b a d 97#7]
  | .seize d a b x0 => words (mk (0#2 ++ 1#3 ++ 0#5) b a (d) 99#7 :: [x0])
  | .srls => words [mk (0#2 ++ 0#3 ++ 1#5) 0#5 0#5 0#5 99#7]
  | .srlsRemote a => words [mk (0#2 ++ 0#3 ++ 1#5) 0#5 a 0#5 99#7]
  | .seizq d a => words [mk (0#2 ++ 0#3 ++ 2#5) 0#5 a d 99#7]
  | .spawn d a b => words [mk 0#10 b a d 101#7]
  | .exit => words [mk 1#10 0#5 0#5 0#5 101#7]
  | .time d => words [mk 2#10 0#5 0#5 d 101#7]
  | .hend => words [mk 3#10 0#5 0#5 0#5 101#7]
  | .bqry d => words [mk 4#10 0#5 0#5 d 101#7]
  | .prime d a b => words [mk 5#10 b a d 101#7]
  | .unprime d a => words [mk 6#10 0#5 a d 101#7]
  | .csrrd d c => words [mk (c.extractLsb' 2 10) (c.extractLsb' 0 2 ++ 0#3) 0#5 d 103#7]
  | .csrwr d a c => words [mk (c.extractLsb' 2 10) (c.extractLsb' 0 2 ++ 1#3) a d 103#7]
  | .csrset d a c => words [mk (c.extractLsb' 2 10) (c.extractLsb' 0 2 ++ 2#3) a d 103#7]
  | .csrclr d a c => words [mk (c.extractLsb' 2 10) (c.extractLsb' 0 2 ++ 3#3) a d 103#7]
  | .trap n => words [mk (0#4 ++ n) 0#5 0#5 0#5 105#7]
  | .eret => words [mk (1#4 ++ 0#6) 0#5 0#5 0#5 105#7]
  | .ebrk n => words [mk (2#4 ++ n) 0#5 0#5 0#5 105#7]
  | .hfcall d a n => words [mk (3#4 ++ n) 0#5 a d 105#7]
  | .cancel d a n => words [mk (4#4 ++ n) 0#5 a d 105#7]
  | .dlaunch d a => words [mk (0#2 ++ 0#3 ++ 0#5) 0#5 a d 107#7]
  | .cIll i => [mk16 (i.extractLsb' 5 5) (i.extractLsb' 0 5) 0#5]
  | .cNop => [mk16 0#5 0#5 1#5]
  | .cMov r f => [mk16 f r 2#5]
  | .cAdd r f => [mk16 f r 3#5]
  | .cSub r f => [mk16 f r 4#5]
  | .cAddi r i => [mk16 i r 5#5]
  | .cLi r i => [mk16 i r 6#5]
  | .cShli r n => [mk16 n r 7#5]
  | .cShri r n => [mk16 n r 8#5]
  | .cAnd r f => [mk16 f r 9#5]
  | .cOr r f => [mk16 f r 10#5]
  | .cXor r f => [mk16 f r 11#5]
  | .cLd64 r f => [mk16 f r 12#5]
  | .cSt64 r f => [mk16 f r 13#5]
  | .cBeqz r o => [mk16 o r 14#5]
  | .cBnez r o => [mk16 o r 15#5]
  | .cJ o => [mk16 (o.extractLsb' 5 5) (o.extractLsb' 0 5) 16#5]
  | .cRlx s => [mk16 0#5 (0#2 ++ s) 17#5]
  | .cExit => [mk16 0#5 0#5 18#5]
  | .cHend => [mk16 0#5 0#5 19#5]
  | .cJr r => [mk16 0#5 r 20#5]
  | .qlaunch va => words (mk (0#2 ++ 2#3 ++ 0#5) 0#5 0#5 (0#5) 121#7 :: [va.extractLsb' 0 32, va.extractLsb' 32 32])
  | .qib va len => words (mk (0#2 ++ 3#3 ++ 1#5) 0#5 0#5 (0#5) 121#7 :: [va.extractLsb' 0 32, va.extractLsb' 32 32, len])
  | .qret => words [mk (0#2 ++ 0#3 ++ 2#5) 0#5 0#5 0#5 121#7]
  | .qpred cond va x => words (mk (0#2 ++ 4#3 ++ 3#5) 0#5 0#5 (cond) 121#7 :: [va.extractLsb' 0 32, va.extractLsb' 32 32, x.extractLsb' 0 32, x.extractLsb' 32 32])
  | .qendp => words [mk (0#2 ++ 0#3 ++ 4#5) 0#5 0#5 0#5 121#7]
  | .qloop count => words (mk (0#2 ++ 1#3 ++ 5#5) 0#5 0#5 (0#5) 121#7 :: [count])
  | .qendl => words [mk (0#2 ++ 0#3 ++ 6#5) 0#5 0#5 0#5 121#7]
  | .qsig irq vec va x => words (mk (0#2 ++ 4#3 ++ 7#5) 0#5 vec (0#4 ++ irq) 121#7 :: [va.extractLsb' 0 32, va.extractLsb' 32 32, x.extractLsb' 0 32, x.extractLsb' 32 32])
  | .qwait cond va x timeout => words (mk (0#2 ++ 5#3 ++ 8#5) 0#5 0#5 (cond) 121#7 :: [va.extractLsb' 0 32, va.extractLsb' 32 32, x.extractLsb' 0 32, x.extractLsb' 32 32, timeout])
  | .qff => words [mk (0#2 ++ 0#3 ++ 9#5) 0#5 0#5 0#5 121#7]
  | .qwr va x => words (mk (0#2 ++ 4#3 ++ 10#5) 0#5 0#5 (0#5) 121#7 :: [va.extractLsb' 0 32, va.extractLsb' 32 32, x.extractLsb' 0 32, x.extractLsb' 32 32])
  | .qdep kind id => words (mk (0#2 ++ 1#3 ++ 11#5) 0#5 0#5 (kind) 121#7 :: [id])
  | .qnop nx => words (mk (0#2 ++ nx ++ 12#5) 0#5 0#5 (0#5) 121#7 :: List.replicate nx.toNat 0)
  | .qmark kind id => words (mk (0#2 ++ 1#3 ++ 13#5) 0#5 0#5 (kind) 121#7 :: [id])
  | .qreplay w => words [mk (0#2 ++ 0#3 ++ 14#5) 0#5 0#5 (0#4 ++ w) 121#7]
  | .qprio p => words [mk (0#2 ++ 0#3 ++ 15#5) 0#5 0#5 (0#1 ++ p) 121#7]
  | _ => []
/-- The 32-bit words of a run of halfwords. -/
def joinWords : List (BitVec 16) → List (BitVec 32)
  | lo :: hi :: rest => (hi ++ lo) :: joinWords rest
  | _ => []

/-- Bytes of the instruction whose first halfwords are `h`: 2 when compressed, 4 and 4 per extension word in format Q, else 4 (R57, R58). -/
def lengthOf (h : List (BitVec 16)) : Nat :=
  match h with
  | [] => 2
  | lo :: rest =>
    if lo.extractLsb' 0 1 = 0#1 then 2
    else
      let w : BitVec 32 := rest.headD 0#16 ++ lo
      if majorOf w ∈ [10, 39, 40, 42, 49, 53, 60] then 4 + 4 * ((slotF w).extractLsb' 5 3).toNat else 4

/-- The core's decoder: the instruction at the head of a run of halfwords. -/
noncomputable def decode (h : List (BitVec 16)) : Decoded :=
  match h with
  | [] => .bad 0x001#10
  | lo :: rest =>
    if lo.extractLsb' 0 1 = 0#1 then decode16 lo
    else decode32 (rest.headD 0#16 ++ lo) (joinWords (rest.drop 1))

/-- The queue engine's decoder. -/
noncomputable def decodeQueue (h : List (BitVec 16)) : Decoded :=
  match joinWords h with
  | [] => .bad 0x2C1#10
  | w :: ws => decodeQ w ws

/-- The halfwords that hold bits 16·k upward of a number, `n` of them. -/
def halfwordsOf : Nat → Nat → List (BitVec 16)
  | 0, _ => []
  | n + 1, w => BitVec.ofNat 16 w :: halfwordsOf n (w / 65536)

/-- The words of a table row: its bits from bit 0 up, then zeros up to the longest instruction (32 bytes). -/
def tableHalfwords (nbits w : Nat) : List (BitVec 16) := halfwordsOf 16 (w % 2 ^ nbits)

/-- True of a word that belongs to the queue engines: MO 60 (R69, R95). -/
def isQueueWord (w : Nat) : Bool := decide (w % 128 = 0x79)

/-- The instruction that the decoder reads from a row's bits, by the queue decoder for MO 60 and the core decoder for every other word. -/
noncomputable def decodeTableWord (nbits w : Nat) : Option Instr :=
  let h := tableHalfwords nbits w
  match (if isQueueWord w then decodeQueue h else decode h) with
  | .ok i _ => some i
  | .bad _ => none

end Sys2Proof
end

