-- ==== Sys2Proof/Machine/Queue.lean ====
section
/-! DEFINITION. Queues: their registers' views, fetch and fetch-ahead, the choice among queues, the queue-class instructions, and the
events of waiting queues (R81 to R112). -/

namespace Sys2Proof.Machine

/-! ### Positions (R82, R91, R100) -/

/-- Buffer level: 0 the ring. -/
def Queue.level (q : Queue) : Nat := q.ibs.length
/-- Ring bytes (R84). -/
def Queue.ring (q : Queue) : Nat := 2 ^ (12 + min q.size 12)
/-- VA of offset 0 at the current level. -/
def Queue.base0 (q : Queue) : Nat :=
  match q.ibs with
  | [] => q.base.toNat * 4096 / q.ring * q.ring
  | b :: _ => b.base.toNat
/-- VA of an offset at the current level; the ring wraps. -/
def Queue.vaOf (q : Queue) (o : Nat) : Nat := q.base0 + (if q.level = 0 then o % q.ring else o)
/-- An offset moved forward. -/
def Queue.after (q : Queue) (n : Nat) : Nat := if q.level = 0 then (q.ip + n) % q.ring else q.ip + n
/-- Bytes from the next instruction to the tail, or to the buffer's end. -/
def Queue.left (q : Queue) : Nat :=
  match q.ibs with
  | [] => (q.tail + q.ring - q.ip) % q.ring
  | b :: _ => b.len - q.ip
/-- The first offset that a block read does not reach: the tail or the ring's end, or the buffer's end (R91). -/
def Queue.limit (q : Queue) : Nat :=
  match q.ibs with
  | [] => if q.ip ≤ q.tail then q.tail else q.ring
  | b :: _ => b.len

/-! ### A queue's accesses (R94, R103) -/

/-- The requester that a queue engine is for a queue. -/
def Queue.req (q : Queue) : Req := ⟨512, q.tenant, .other⟩

/-- The queue cause of a refused access. -/
def queueCause : Chk → Nat
  | .ok _ => 0
  | .absent => 0x2C6
  | .trap c => if 0x0C0 ≤ c ∧ c ≠ 0x0C2 then 0x2C6 else 0x2C8

/-- The checks of a queue's data access, with translation before alignment: 0x2C6 comes before 0x2C8 (R95). -/
def State.qcheck (s : State) (q : Queue) (va kind : Nat) : State × Chk :=
  if va % 8 ≠ 0 ∧ isTrans va then
    match s.translate q.req va kind with
    | (s, .absent) => (s, .absent)
    | (s, .trap c) => (s, .trap c)
    | (s, .pa _) => (s, .trap 0x081)
  else s.check q.req va 8 kind

/-- A queue's data access waits for the matrix unit of its target (R215). -/
def State.queueUnit (s : State) (k va kind : Nat) : Option (Nat × Nat) :=
  match (s.qcheck (s.queue k) va kind).2 with
  | .ok t => s.waitsUnit (s.queue k).pass [t]
  | _ => none

/-- A queue's data access goes on, or its queue stays where it is until the matrix unit is done (R215). -/
def unitGate (k va kind : Nat) (s : State) (f : State → State) : State :=
  match s.queueUnit k va kind with
  | some p => s.setQueue k { s.queue k with pass := some p }
  | none => f s

/-- The running queue's access, likewise. -/
def qunitGate (va kind : Nat) (s : State) (f : State → Out) : Out :=
  match s.queueUnit s.curq va kind with
  | some p => .next (s.setQueue s.curq { s.queue s.curq with pass := some p })
  | none => f s

/-- A queue's read of `n` bytes, of which a line or word that cannot be read gives no data: the unspecified queue fault 0x2C0, with the record of
the read (R423, R425, log entry 107). -/
def State.queueData (s : State) (q : Queue) (va n : Nat) (t : Target) : State × Except Nat Nat :=
  match t with
  | .mem loc =>
    let s := s.meet loc n
    if s.poisoned loc n then
      (s.record (({ cause := 0, sev := 2, engine := 0, tenant := some q.tenant, va := some va : RecIn }).unreadable loc), .error 0x2C0)
    else (s, .ok (s.readTarget t n))
  | _ => (s, .ok (s.readTarget t n))

/-- A doubleword read by a queue, or the cause of its refusal. -/
def State.qread (s : State) (q : Queue) (va : Nat) : State × Except Nat Dword :=
  match s.qcheck q va 0 with
  | (s, .ok t) =>
    match s.queueData q va 8 t with
    | (s, .ok x) => (s, .ok (BitVec.ofNat 64 x))
    | (s, .error c) => (s, .error c)
  | (s, c) => (s, .error (queueCause c))

/-- A doubleword written by a queue (R103). -/
def State.qwrite (s : State) (q : Queue) (va : Nat) (x : Dword) : State × Except Nat Unit :=
  match s.qcheck q va 1 with
  | (s, .ok t) => (s.writeTarget t 8 x.toNat, .ok ())
  | (s, c) => (s, .error (queueCause c))

/-! ### Fetch-ahead (R91, R92) -/

/-- One word of the stream read from memory. -/
def State.readWord (s : State) (q : Queue) (o : Nat) : State × Except Nat (BitVec 32) :=
  match s.check q.req (q.vaOf o) 4 0 with
  | (s, .ok t) =>
    match s.queueData q (q.vaOf o) 4 t with
    | (s, .ok x) => (s, .ok (BitVec.ofNat 32 x))
    | (s, .error c) => (s, .error c)
  | (s, c) => (s, .error (queueCause c))

/-- The words of a block within the limits, from an offset upward; a word that cannot be read is left out. -/
def readBlock (q : Queue) : List Nat → State → State × List (Nat × BitVec 32)
  | [], s => (s, [])
  | o :: os, s =>
    match s.readWord q o with
    | (s, .ok w) => let r := readBlock q os s; (r.1, (o, w) :: r.2)
    | (s, .error _) => readBlock q os s

/-- Offsets of the words of a block, by VA block number, at or above an offset and below the limit. -/
def Queue.blockWords (q : Queue) (block lo : Nat) : List Nat :=
  (List.range 128).filterMap (fun k =>
    let va := block * 512 + 4 * k
    let o := va - q.base0
    if q.base0 ≤ va ∧ lo ≤ o ∧ o < q.limit then some o else none)
/-- The VA block number of an offset. -/
def Queue.blockOf (q : Queue) (o : Nat) : Nat := q.vaOf o / 512

/-- An entry: the rest of the current block and the next block are read (R91). -/
def State.enterBlock (s : State) (k : Nat) : State :=
  let q := s.queue k
  let b := q.blockOf q.ip
  let r := readBlock q (q.blockWords b q.ip ++ q.blockWords (b + 1) 0) s
  r.1.setQueue k { r.1.queue k with ahead := r.2, block := some b }

/-- The buffer discarded: the next instruction is an entry. -/
def Queue.discard (q : Queue) : Queue := { q with ahead := [], block := none }

/-- The instruction pointer has moved forward: within the block, into the next one (whose successor is read), or past the ring's end. -/
def State.passBlock (s : State) (k : Nat) : State :=
  let q := s.queue k
  match q.block with
  | none => s
  | some b =>
    let n := q.blockOf q.ip
    if n = b then s
    else if n = b + 1 then
      let keep := q.ahead.filter (fun (w : Nat × BitVec 32) => decide (n ≤ q.blockOf w.1))
      let r := readBlock q (q.blockWords (n + 1) 0) s
      r.1.setQueue k { r.1.queue k with ahead := keep ++ r.2, block := some n }
    else s.setQueue k q.discard

/-- One word of the stream as the engine holds it, or read now. -/
def State.streamWord (s : State) (k o : Nat) : State × Except Nat (BitVec 32) :=
  let q := s.queue k
  match q.ahead.find? (fun w => w.1 == (if q.level = 0 then o % q.ring else o)) with
  | some w => (s, .ok w.2)
  | none => s.readWord q o

/-- Words of an instruction from its first word's NX (R95, R96). -/
def frameWords (w : BitVec 32) : Nat := if isQueueWord w.toNat then 1 + (w.extractLsb' 27 3).toNat else 1

/-- A run of words of the stream. -/
def State.streamWords (s : State) (k : Nat) : Nat → Nat → State × Except Nat (List (BitVec 32))
  | 0, _ => (s, .ok [])
  | n + 1, o =>
    match s.streamWord k o with
    | (s, .error c) => (s, .error c)
    | (s, .ok w) =>
      match s.streamWords k n (o + 4) with
      | (s, .ok ws) => (s, .ok (w :: ws))
      | r => r

/-- The next instruction is wholly below the tail, or in an indirect buffer (R88, R89). -/
def State.queueReady (s : State) (k : Nat) : Bool :=
  let q := s.queue k
  if q.level ≠ 0 then true
  else if q.left < 4 then false
  else
    match (s.streamWord k q.ip).2 with
    | .ok w => decide (4 * frameWords w ≤ q.left)
    | .error _ => true

/-! ### Choice among queues (R89) -/

/-- A ladder stops the queue, unless the starvation watchdog started it (R125, R399). -/
def Queue.stopped (q : Queue) : Bool := q.ladder.any (fun d => !d.starve)

/-- A runnable queue: enabled, in RUN or IDLE, with a whole instruction below the tail (R82, R88); a ladder stops it (R399). -/
def State.runnable (s : State) (k : Nat) : Bool :=
  let q := s.queue k
  q.en && !q.stopped && q.hold.isNone && (q.st == 2 || q.st == 1) && s.queueReady k

/-- The runnable queue that an engine chooses. -/
def State.chooseQueue (s : State) (e : Nat) : Option Nat :=
  let last := tget 7 s.lastServed e
  let order := (List.range 8).map (fun i => 8 * e + (last + 1 + i) % 8)
  (order.filter s.runnable).foldl (fun best k =>
    match best with
    | none => some k
    | some b => if (s.queue b).prio < (s.queue k).prio then some k else some b) none

/-- QUEUE_SELECT: an engine that serves no queue takes the one it chooses, which goes to RUN; it counts as served once it executes. -/
def State.selectQueue (s : State) (e : Nat) : State :=
  if tget 0 s.serving e ≠ 0 ∧ s.runnable (tget 0 s.serving e - 1) then s
  else
    match s.chooseQueue e with
    | none => { s with serving := tset s.serving e 0 }
    | some k =>
      { s.setQueue k { s.queue k with st := 2 } with serving := tset s.serving e (k + 1) }

def execQueueSelect (e : Nat) (s : State) : Out := .next (if e < 8 then s.selectQueue e else s)

/-- FETCH_BLOCK_READ: the entry reads of a queue that is about to execute. -/
def execFetchBlockRead (k : Nat) (s : State) : Out :=
  let q := s.queue k
  .next (if q.en ∧ q.block = none ∧ q.hold = none ∧ (q.st = 1 ∨ q.st = 2) ∧ q.left ≠ 0 then s.enterBlock k else s)

/-! ### The end of an instruction -/

/-- QHEAD follows the pointer at the ring, and stays at the QIB inside an indirect buffer (R83, R100). -/
def Queue.heads (q : Queue) : Queue := { q with head := if q.level = 0 then q.ip else q.head }


/-- The engine that serves a queue is free to choose again; its choice of another queue stands. -/
def State.unserve (s : State) (k : Nat) : State :=
  if tget 0 s.serving (k / 8) = k + 1 then { s with serving := tset s.serving (k / 8) 0 } else s

/-- A queue settles: IDLE when no instruction is ready at the ring, else RUN. -/
def State.settleQueue (s : State) (k : Nat) : State :=
  s.setQueue k { s.queue k with st := if s.queueReady k then 2 else 1 }

/-- An instruction has completed: it counts, and the queue moves past it or to a place of its own. -/
def State.completeQ (s : State) (k : Nat) (f : Queue → Queue) : State :=
  let q := s.queue k
  let q := (f { q with exec := q.exec + 1, hold := none, pass := none }).heads
  (((s.setQueue k q).passBlock k).settleQueue k).unserve k

/-- The pointer moved past the instruction. -/
def Queue.next (len : Nat) (q : Queue) : Queue := { q with ip := q.after len }

/-- The end of the running queue instruction, with a change of the queue. -/
def qdoneWith (f : Queue → Queue) (s : State) : Out := .next (s.completeQ s.curq f)
def qdone (s : State) : Out := qdoneWith (Queue.next s.len) s

/-- A queue fault (R93), at a VA and level. -/
def State.queueFault (s : State) (k cause pc lvl : Nat) : State :=
  let q := s.queue k
  let s := s.setQueue k { q with
    st := if q.en then 5 else q.st, cause := cause, faultPc := BitVec.ofNat 48 pc, faultLvl := lvl, hold := none, pass := none }
  let s := s.record { cause := cause, sev := 3, engine := engineId 4 (0x1D0 + k / 8) (k % 8), tenant := some q.tenant, va := some pc }
  let s := if q.eien then s.msi (s.functionOf q.tenant) q.evec else s
  s.unserve k

/-- A fault of the running queue instruction. -/
def qfault (cause : Nat) (s : State) : Out :=
  let q := s.queue s.curq
  .next (s.queueFault s.curq cause (q.vaOf q.ip) q.level)

/-- The running queue instruction waits: DEP, or WAIT for QWAIT. -/
def qhold (st : Nat) (h : QHold) (s : State) : Out :=
  let q := s.queue s.curq
  .next ((s.setQueue s.curq { q with st := st, hold := some (h, s.len) }).unserve s.curq)

/-! ### Instructions without a wait -/

/-- QNOP. -/
def execQnop (_nx : BitVec 3) (s : State) : Out := qdone s
/-- QFF (R108). -/
def execQff (s : State) : Out := qdoneWith (fun q => (q.next s.len).discard) s
/-- QPRIO (R110). -/
def execQprio (p : BitVec 4) (s : State) : Out := qdoneWith (fun q => { q.next s.len with prio := min p.toNat q.prioMax }) s

/-- QIB (R100): one level deeper. -/
def execQib (va : BitVec 64) (len : BitVec 32) (s : State) : Out :=
  let q := s.queue s.curq
  if 2 ≤ q.level ∨ va.toNat % 4 ≠ 0 ∨ len.toNat % 4 ≠ 0 ∨ len.toNat < 4 ∨ 2 ^ 24 < len.toNat then qfault 0x2C4 s
  else
    qdoneWith (fun q => { q with ibs := ⟨va.setWidth 48, len.toNat, q.after s.len⟩ :: q.ibs, ip := 0 }.discard) s

/-- The return from an indirect buffer; `none` is a nesting error (R100). -/
def Queue.ret (q : Queue) : Option Queue :=
  match q.ibs with
  | [] => none
  | b :: rest =>
    if q.loops.any (fun l => l.level == q.level) || q.preds.any (fun l => l == q.level) then none
    else some { q with ibs := rest, ip := b.ret }.discard

def execQret (s : State) : Out :=
  match (s.queue s.curq).ret with
  | none => qfault 0x2C5 s
  | some _ => qdoneWith (fun q => q.ret.getD q) s

/-- QENDP (R101). -/
def execQendp (s : State) : Out :=
  let q := s.queue s.curq
  match q.preds with
  | l :: rest => if l = q.level then qdoneWith (fun q => { q.next s.len with preds := rest }) s else qfault 0x2C5 s
  | [] => qfault 0x2C5 s

/-- QLOOP (R102). -/
def execQloop (count : BitVec 32) (s : State) : Out :=
  let q := s.queue s.curq
  if 2 ≤ q.loops.length then qfault 0x2C5 s
  else qdoneWith (fun q => { q.next s.len with loops := ⟨count, q.after s.len, q.level⟩ :: q.loops }) s

/-- QENDL (R102). -/
def execQendl (s : State) : Out :=
  let q := s.queue s.curq
  match q.loops with
  | [] => qfault 0x2C5 s
  | l :: rest =>
    if l.level ≠ q.level then qfault 0x2C5 s
    else if l.count = 1 then qdoneWith (fun q => { q.next s.len with loops := rest }) s
    else qdoneWith (fun q => { q with loops := { l with count := l.count - 1 } :: rest, ip := l.start }.discard) s

/-- QMARK (R107). -/
def execQmark (kind : BitVec 5) (id : BitVec 32) (s : State) : Out :=
  let q := s.queue s.curq
  if kind = 3 then qdoneWith (fun q => { q.next s.len with markv := id }) s
  else
    match s.inst? q.tenant (kind.toNat + 2) (id.toNat % 2 ^ 16) with
    | some i => qdone (s.setInst { i with closed := true })
    | none => qdone s

/-! ### Words and conditions (R97, R101, R103) -/

/-- A condition of R97. -/
def condHolds (c : Nat) (w x : Dword) : Bool :=
  match c with
  | 0 => w == x
  | 1 => w != x
  | 2 => decide (w < x)
  | 3 => decide (x ≤ w)
  | 4 => (w &&& x) == x
  | _ => (w &&& x) != 0

/-- QPRED (R101): a predicate opens, or execution skips to the matching QENDP. -/
def execQpred (cond : BitVec 5) (va x : BitVec 64) (s : State) : Out := qunitGate va.toNat 0 s fun s =>
  let q := s.queue s.curq
  match s.qread q va.toNat with
  | (s, .error c) => qfault c s
  | (s, .ok w) =>
    if condHolds cond.toNat w x then
      if 15 ≤ q.preds.length then qfault 0x2C5 s else qdoneWith (fun q => { q.next s.len with preds := q.level :: q.preds }) s
    else qdoneWith (fun q => { q.next s.len with skip := some (0, 0) }) s

/-- One instruction of a skipped region framed (R101): the state after it. A word in it that faults leaves the skip as it stands, so that RESUME
goes on with the skip at that word (log entry 43). -/
def State.skipOne (s : State) (k : Nat) : State :=
  let q := s.queue k
  let fault := fun (s : State) => s.queueFault k 0x2C5 (q.vaOf q.ip) q.level
  match q.skip with
  | none => s
  | some (preds, loops) =>
    if q.level ≠ 0 ∧ q.left = 0 then fault s
    else
      match s.streamWord k q.ip with
      | (s, .error c) => s.queueFault k c (q.vaOf q.ip) q.level
      | (s, .ok w) =>
        let n := 4 * frameWords w
        let minor := (w.extractLsb' 22 5).toNat
        if ¬ isQueueWord w.toNat ∨ (q.level ≠ 0 ∧ q.left < n) then fault s
        else if minor = 6 ∧ loops = 0 then fault s
        else
          let move := fun (f : Queue → Queue) => ((s.setQueue k (f (q.next n)).heads).passBlock k).settleQueue k
          match minor with
          | 3 => move (fun q => { q with skip := some (preds + 1, loops) })
          | 4 => if preds = 0 then move (fun q => { q with skip := none }.discard) else move (fun q => { q with skip := some (preds - 1, loops) })
          | 5 => move (fun q => { q with skip := some (preds, loops + 1) })
          | 6 => move (fun q => { q with skip := some (preds, loops - 1) })
          | _ => move id

/-! ### Waits (R104 to R106, R109) -/

/-- A signal is due: none of its launches is live. -/
def State.signalDue (s : State) (g : Signal) : Bool := g.launches.all (fun k => (s.launch? k).isNone)

/-- A waiting queue reads its word again: it goes on when the condition holds, or faults (R105). -/
def State.pollQueue (s : State) (k : Nat) : State :=
  let q := s.queue k
  match q.hold with
  | some (.wait cond va x timeout since, len) =>
    if timeout ≠ 0 ∧ since + timeout * 1000 < s.boot.dtb then s
    else unitGate k va.toNat 0 s fun s =>
      match s.qread q va.toNat with
      | (s, .error c) => s.queueFault k c (q.vaOf q.ip) q.level
      | (s, .ok w) => if condHolds cond w x then s.completeQ k (Queue.next len) else s
  | _ => s

/-- The waiting queues of an engine read their words again after a write by one of its queues (R105). -/
def State.pollEngine (s : State) (e : Nat) : State := (List.range 8).foldl (fun s i => s.pollQueue (8 * e + i)) s

/-- QWR (R103). -/
def execQwr (va x : BitVec 64) (s : State) : Out := qunitGate va.toNat 1 s fun s =>
  match s.qwrite (s.queue s.curq) va.toNat x with
  | (s, .error c) => qfault c s
  | (s, .ok ()) => .next ((s.completeQ s.curq (Queue.next s.len)).pollEngine (s.curq / 8))

/-- QWAIT (R105). -/
def execQwait (cond : BitVec 5) (va x : BitVec 64) (timeout : BitVec 32) (s : State) : Out := qunitGate va.toNat 0 s fun s =>
  match s.qread (s.queue s.curq) va.toNat with
  | (s, .error c) => qfault c s
  | (s, .ok w) =>
    if condHolds cond.toNat w x then qdone s
    else qhold 3 (.wait cond.toNat (va.setWidth 48) x timeout.toNat s.boot.dtb) s

def execQwaitPoll (k : Nat) (s : State) : Out := .next (s.pollQueue k)

/-- The read of a waiting queue's word at the end of its time: it goes on, or faults (R105), also when a matrix unit still holds up the read (R215). -/
def State.lastPoll (s : State) (k cond : Nat) (va : Va) (x : Dword) (len : Nat) : State :=
  let q := s.queue k
  if (s.queueUnit k va.toNat 0).isSome then s.queueFault k 0x2C7 (q.vaOf q.ip) q.level
  else
    match s.qread q va.toNat with
    | (s, .error c) => s.queueFault k c (q.vaOf q.ip) q.level
    | (s, .ok w) => if condHolds cond w x then s.completeQ k (Queue.next len) else s.queueFault k 0x2C7 (q.vaOf q.ip) q.level

/-- The read that a waiting queue owes when a microsecond since its first read has ended after a DTB time (R105): the one at the end of its time is
the last. -/
def State.microPoll (s : State) (old k : Nat) : State :=
  match (s.queue k).hold with
  | some (.wait cond va x timeout since, len) =>
    if (s.boot.dtb - since) / 1000 ≤ (old - since) / 1000 then s
    else if timeout ≠ 0 ∧ since + timeout * 1000 ≤ s.boot.dtb then s.lastPoll k cond va x len
    else s.pollQueue k
  | _ => s

/-- Every queue in WAIT reads its word again once in a microsecond (R105). -/
def State.pollAll (s : State) (old : Nat) : State := s.queues.foldl (fun s q => s.microPoll old q.1) s

/-- QWAIT_TIMEOUT: the time is over; the read at its end lets the queue go on when the condition holds, and later it faults. -/
def execQwaitTimeout (k : Nat) (s : State) : Out :=
  let q := s.queue k
  match q.hold with
  | some (.wait cond va x timeout since, len) =>
    if timeout = 0 ∨ s.boot.dtb < since + timeout * 1000 then .next s
    else if since + timeout * 1000 < s.boot.dtb then .next (s.queueFault k 0x2C7 (q.vaOf q.ip) q.level)
    else .next (s.lastPoll k cond va x len)
  | _ => .next s

/-- A signal posted behind the queue's live launches (R104). -/
def State.postSignal (s : State) (k : Nat) (g : Signal) : State :=
  s.setQueue k { s.queue k with signals := (s.queue k).signals ++ [g] }

/-- The oldest signal of a queue, when due, is written as a release at .sy and may interrupt; an address fault faults the queue (R104). -/
def State.writeSignal (s : State) (k : Nat) : State :=
  let q := s.queue k
  match q.signals with
  | [] => s
  | g :: rest =>
    if ¬ s.signalDue g then s
    else unitGate k g.va.toNat 1 s fun s =>
      let s := s.setQueue k { q with signals := rest }
      match s.qwrite q g.va.toNat g.val with
      | (s, .error c) => s.queueFault k c g.pc.toNat g.level
      | (s, .ok ()) => (if g.irq then s.msi (s.functionOf q.tenant) g.vec else s).pollEngine (k / 8)

/-- QSIG (R104): posted at once, or once an earlier signal has been written; one that is due then is written in the same step (R435). -/
def execQsig (irq : BitVec 1) (vec : BitVec 5) (va x : BitVec 64) (s : State) : Out :=
  let k := s.curq
  let q := s.queue k
  let mine := (s.launches.filter (fun l => l.queue == some k)).map (·.key)
  let g : Signal := ⟨va.setWidth 48, x, irq = 1, vec.toNat, BitVec.ofNat 48 (q.vaOf q.ip), q.level, mine⟩
  if 8 ≤ q.signals.length then qhold 4 (.signal g) s
  else .next (((s.postSignal k g).completeQ k (Queue.next s.len)).writeSignal k)

/-- SIGNAL_WRITE (R104): the oldest signal, when due, is written. -/
def execSignalWrite (k : Nat) (s : State) : Out := .next (s.writeSignal k)

/-- QLAUNCH (R99): the queue waits in DEP for acceptance. -/
def execQlaunch (va : BitVec 64) (s : State) : Out := qhold 4 (.launch (va.setWidth 48)) s

/-- LAUNCH_ACCEPT (R54, R99): the due signals have been written; the packet is accepted, or its cause faults the queue; a full table keeps the
queue in DEP (R115). -/
def execLaunchAccept (k : Nat) (s : State) : Out :=
  let q := s.queue k
  match q.hold with
  | some (.launch va, len) =>
    if q.signals.any s.signalDue then .next s
    else
      match s.accept va.toNat q.tenant (some k) k q.prioMax with
      | (s, .ok l) => .next ((s.setQueue k { s.queue k with lastLid := l.lid }).completeQ k (Queue.next len))
      | (s, .error 0x2E0) => .next s
      | (s, .error c) => .next (s.queueFault k c (q.vaOf q.ip) q.level)
  | _ => .next s

/-- QDEP's condition (R106). -/
def State.depHolds (s : State) (k kind id : Nat) : Bool :=
  let q := s.queue k
  match kind with
  | 0 => q.signals.isEmpty && !s.launches.any (fun l => l.queue == some k)
  | 1 => !s.launches.any (fun l => l.tenant == q.tenant && l.lid.toNat == id && !l.cancelled)
  | _ => (s.inst? q.tenant kind id).isNone

/-- QDEP: a launch ID not yet assigned faults. -/
def execQdep (kind : BitVec 5) (id : BitVec 32) (s : State) : Out :=
  let k := s.curq
  let ahead := (id - (s.tenant (s.queue k).tenant).lastLid).toNat
  if kind = 1 ∧ 0 < ahead ∧ ahead < 2 ^ 31 then qfault 0x2CB s
  else if s.depHolds k kind.toNat id.toNat then qdone s
  else qhold 4 (.dep kind.toNat id.toNat) s

/-- Insertion of a parked request by engine identifier, behind those of equal identifier. -/
def insertParked (p : Parked) : List Parked → List Parked
  | [] => [p]
  | x :: xs => if requesterEngine p.va p.who < requesterEngine x.va x.who then p :: x :: xs else x :: insertParked p xs

/-- Replay-all starts (R267): the buffer is cleared, and every parked request is to be sent again, in order. -/
def State.startReplay (s : State) (t : Nat) : State :=
  let x := s.tenant t
  let all := (x.resend ++ x.parked).foldl (fun l p => insertParked p l) []
  { s.setTenant t { x with fb := [], fbDrop := false, replay := !all.isEmpty, resend := all, parked := [] } with
    walks := s.walks.filter (·.1 != t) }

/-- QREPLAY (R109). -/
def execQreplay (w : BitVec 1) (s : State) : Out :=
  let s := s.startReplay (s.queue s.curq).tenant
  if w = 1 ∧ (s.tenant (s.queue s.curq).tenant).replay then qhold 4 .replay s else qdone s

/-- A queue in DEP whose condition holds goes on. -/
def State.releaseQueue (s : State) (k : Nat) : State :=
  let q := s.queue k
  match q.hold with
  | some (.dep kind id, len) => if s.depHolds k kind id then s.completeQ k (Queue.next len) else s
  | some (.signal g, len) => if q.signals.length < 8 then ((s.postSignal k g).completeQ k (Queue.next len)).writeSignal k else s
  | some (.replay, len) => if (s.tenant q.tenant).replay then s else s.completeQ k (Queue.next len)
  | _ => s

end Sys2Proof.Machine
end

