-- ==== Sys2Proof/Machine/Shake.lean ====
section
/-! DEFINITION. SHAKE256, which R31, R34, R411 and R416 name: the sponge of FIPS 202 at a rate of 136 bytes, and its first 256 output bits. -/

namespace Sys2Proof.Machine

/-- The 25 lanes of the sponge: lane (x, y) at place x + 5 · y. -/
abbrev Lanes := List (BitVec 64)

/-- A lane at coordinates modulo 5. -/
def laneXY (a : Lanes) (x y : Nat) : BitVec 64 := a.getD (x % 5 + 5 * (y % 5)) 0
/-- Lanes made from a function of their coordinates. -/
def lanesOf (f : Nat → Nat → BitVec 64) : Lanes := (List.range 25).map (fun i => f (i % 5) (i / 5))

/-- Rotation distances of the lanes, in the order of their places. -/
def rhoTable : List Nat := [0, 1, 62, 28, 27, 36, 44, 6, 55, 20, 3, 10, 43, 25, 39, 41, 45, 15, 21, 8, 18, 2, 61, 56, 14]

/-- The constants of the 24 rounds. -/
def roundConstants : List (BitVec 64) := [
  0x0000000000000001, 0x0000000000008082, 0x800000000000808A, 0x8000000080008000, 0x000000000000808B, 0x0000000080000001,
  0x8000000080008081, 0x8000000000008009, 0x000000000000008A, 0x0000000000000088, 0x0000000080008009, 0x000000008000000A,
  0x000000008000808B, 0x800000000000008B, 0x8000000000008089, 0x8000000000008003, 0x8000000000008002, 0x8000000000000080,
  0x000000000000800A, 0x800000008000000A, 0x8000000080008081, 0x8000000000008080, 0x0000000080000001, 0x8000000080008008]

/-- Every lane takes the parities of two columns. -/
def stepTheta (a : Lanes) : Lanes :=
  let c := (List.range 5).map (fun x => laneXY a x 0 ^^^ laneXY a x 1 ^^^ laneXY a x 2 ^^^ laneXY a x 3 ^^^ laneXY a x 4)
  let d := (List.range 5).map (fun x => c.getD ((x + 4) % 5) 0 ^^^ (c.getD ((x + 1) % 5) 0).rotateLeft 1)
  lanesOf (fun x y => laneXY a x y ^^^ d.getD x 0)
/-- Every lane is rotated and moved: lane (x, y) goes to (y, 2x + 3y). -/
def stepRhoPi (a : Lanes) : Lanes :=
  lanesOf (fun x y => let p := (x + 3 * y) % 5; (laneXY a p x).rotateLeft (rhoTable.getD (p + 5 * x) 0))
/-- Every lane combined with the two beside it in its row. -/
def stepChi (a : Lanes) : Lanes := lanesOf (fun x y => laneXY a x y ^^^ (~~~(laneXY a (x + 1) y) &&& laneXY a (x + 2) y))
/-- Lane (0, 0) takes the round's constant. -/
def stepIota (rc : BitVec 64) (a : Lanes) : Lanes := (a.headD 0 ^^^ rc) :: a.drop 1

/-- The permutation of 24 rounds. -/
def keccak (a : Lanes) : Lanes := roundConstants.foldl (fun a rc => stepIota rc (stepChi (stepRhoPi (stepTheta a)))) a

/-- A block of 136 bytes joined to the first 17 lanes. -/
def absorbBlock (a : Lanes) (bs : List Byte) : Lanes :=
  keccak (lanesOf (fun x y =>
    let i := x + 5 * y
    laneXY a x y ^^^ (if i < 17 then BitVec.ofNat 64 (bytesNat ((bs.drop (8 * i)).take 8)) else 0)))

/-- Blocks absorbed in order, `n` of them. -/
def absorb : Nat → List Byte → Lanes → Lanes
  | 0, _, a => a
  | n + 1, bs, a => absorb n (bs.drop 136) (absorbBlock a (bs.take 136))

/-- A string with the suffix 1111 of SHAKE and its padding to whole blocks. -/
def shakePad (bs : List Byte) : List Byte :=
  let k := 136 - bs.length % 136
  bs ++ (if k = 1 then [0x9F] else 0x1F :: List.replicate (k - 2) 0 ++ [0x80])

/-- The first 256 output bits of SHAKE256, first byte lowest. -/
def shake256 (bs : List Byte) : BitVec 256 :=
  let a := absorb (bs.length / 136 + 1) (shakePad bs) (List.replicate 25 0)
  BitVec.ofNat 256 (((a.take 4).map (·.toNat)).foldr (fun x acc => x + acc * 2 ^ 64) 0)

end Sys2Proof.Machine
end

