-- ==== Sys2Proof/Machine/Place.lean ====
section
/-! DEFINITION. Placement, staging and retirement of tasks, reservations, digests, and the completion of level instances (R116 to R123,
R129, R406 to R411). -/

namespace Sys2Proof.Machine

/-! ### Reservation (R122) -/

/-- Two rectangles share a tile. -/
def rectsMeet (a b : BitVec 18) : Bool := (rectTiles a).any (inRect b)

/-- DETERMINISTIC_RESERVATION: the oldest deterministic launch without a reservation takes its set once no other one holds any of its tiles. -/
def execDeterministicReservation (n : Nat) (s : State) : Out :=
  match s.launches[n]? with
  | none => .next s
  | some l =>
    let first := (s.launches.find? (fun x => x.mode == 2 && !x.reserved && !x.cancelled)).map (·.key)
    let held := s.launches.any (fun x => x.mode == 2 && x.reserved && rectsMeet x.rect l.rect)
    if l.mode = 2 ∧ ¬ l.reserved ∧ first = some l.key ∧ ¬ held then .next (s.setLaunch { l with reserved := true }) else .next s

/-! ### Placement (R118) -/

/-- Step 1 of R118: contexts and run marked as the next task's own. -/
def State.placeTask (s : State) (l : Launch) (index tile : Nat) (slots : List Nat) (base : Nat) : State :=
  let t := s.tile tile
  let task : Task := {
    id := s.fresh, launch := l.key, index := index, tile := tile, slots := slots, gen := t.gen + 1, base := base, copied := 0, staged := false,
    parked := none, killing := false, why := 0, saving := false, quantum := false }
  let again := l.again.drop 1
  let next := if l.again.isEmpty then l.next + 1 else l.next
  let s := s.setTile tile { t with gen := t.gen + 1 }
  let s := s.setLaunch { l with
    next := next, again := again, lastTile := some tile, closed := l.closed || (next == l.taskCount), stuckSince := none }
  let s := { s with fresh := s.fresh + 1, tasks := s.tasks ++ [task] }
  if again.isEmpty ∧ next = l.taskCount then s.endLadders l.key else s

/-- The matrix unit of a tile can take back a saved task set. -/
def Matrix.free (m : Matrix) : Bool := m.owner.isNone && !m.clearing

/-- A saved task can be restored now: no ladder on its queue, its contexts and run and the queue entries of its BREADs free, its tile not seized,
and, unless it was only switched out there and so runs on, not reserved by another launch (R122, R270, R399, R401). -/
def State.restorable (s : State) (v : Saved) : Bool :=
  match s.launch? v.task.launch with
  | none => false
  | some l =>
    !v.task.killing && (s.queue l.root).ladder.isNone && !v.task.slots.any (s.slotTaken v.task.tile) && !s.seized v.task.tile &&
      (v.quantum || (s.reservedBy v.task.tile).all (· == l.key)) &&
      (v.quantum || runFree (s.runs v.task.tile) v.task.base l.per) && (v.mx.isNone || (s.tile v.task.tile).mx.free) &&
      decide ((s.tile v.task.tile).bteUsed + v.breads.length ≤ 16)

/-- Saved tasks are offered ahead of the unplaced tasks of launches of equal priority (R401). -/
def State.savedFirst (s : State) (prio : Nat) : Bool :=
  s.saved.any (fun v => s.restorable v && (match s.launch? v.task.launch with
    | some l => decide (prio ≤ l.prio)
    | none => false))

/-- TASK_PLACE: the launch whose turn it is places its next task. -/
def execTaskPlace (n : Nat) (s : State) : Out :=
  match s.launches[n]? with
  | none => .next s
  | some l =>
    if (s.placeNext.map (·.key)) ≠ some l.key ∨ s.savedFirst l.prio then .next s
    else
      match l.nextTask, s.spot l with
      | some i, some (tile, slots, base) => .next (s.placeTask l i tile slots base)
      | _, _ => .next s

/-! ### Staging (R118, R120, R121) -/

/-- Staging's bulk write of a run of bytes recorded by the trace ring (R340, R341): granules of 64 bytes from a slice, or from the placement logic. -/
def State.traceBulk (s : State) (loc n src : Nat) : State :=
  (List.range ((n + 63) / 64)).foldl (fun s i => s.traceAt (loc + 64 * i) 64 6 src 0 0 5 true) s

/-- Bytes of the footprint image copied behind those already copied, from a slice, with the tags of their words set full (R118). -/
def State.stageBytes (s : State) (t : Task) (bs : List Byte) (src : Nat) : State :=
  let loc := lsLoc t.tile (t.base + t.copied)
  (tagWords true (bs.length / 8) loc ((s.storeBytes loc bs).traceBulk loc bs.length src)).setTask { t with copied := t.copied + bs.length, parked := none }

/-- Steps 3 to 5 of R118: scratch and seeds, which wait for the release of a seizure (R121). -/
def State.stageSeeds (s : State) (l : Launch) (t : Task) : State :=
  if (s.tile t.tile).seize.st ≠ 0 then s
  else
    let loc := lsLoc t.tile (t.base + l.foot)
    let scratch := l.quota * l.scratch
    let s := tagWords false (scratch / 8) loc ((s.storeBytes loc (List.replicate scratch 0)).traceBulk loc scratch 0x1D8)
    (seedLanes l t 0 t.slots s).setTask { t with staged := true }

/-- A task given up in staging: its contexts and run are free, and its launch's unplaced tasks are discarded (R120). -/
def State.failStaging (s : State) (l : Launch) (t : Task) (va : Nat) : State :=
  let s := s.record {
    cause := 0x2E2, sev := 3, engine := engineId 5 0x1D8 0, tenant := some l.tenant, ctx := t.slots.headD 0, va := some va,
    launch := some l, task := t.index }
  let l := (s.launch? l.key).getD l
  { s.setLaunch { l with closed := true, next := l.taskCount, again := [], failed := true } with
    tasks := s.tasks.filter (fun x => x.id != t.id) }.endLadders l.key

/-- A line or word of listed locations cannot be read. -/
def State.anyPoison (s : State) (l : List (Nat × Nat)) : Bool := l.any (fun p => s.poisoned p.1 p.2)

/-- Granules of the image read and copied, at most `n` of them and up to a page that is not present, which parks the staging (R55, R120). -/
def State.stageGranules (l : Launch) (id : Nat) : Nat → State → State
  | 0, s => s
  | n + 1, s =>
    match s.tasks.find? (fun t => t.id == id) with
    | none => s
    | some t =>
      if l.foot ≤ t.copied then s
      else
        let va := l.hdr.toNat - l.foot + t.copied
        let k := min (l.foot - t.copied) (64 - va % 64)
        match s.runLocs (feReq l.tenant) 0 1 va k [] with
        | (s, .ok locs) =>
          let s := s.meetAll locs
          if s.anyPoison locs then (s.recordPoison (feRecord l.tenant va (some l)) locs).failStaging l t va 
          else (s.stageBytes t (s.gather locs) (0x1E0 + (((locs.head?).map (fun p => fld p.1 10 6 ^^^ fld p.1 15 11)).getD 0))).stageGranules l id n
        | (s, .error (none, va)) => (s.setTask { t with parked := some va }).parkRequest l.tenant (.staging t.id) va 0 l.lid
        | (s, .error (some _, va)) => s.failStaging l t va

/-- A task that staging still works for, with its launch. -/
def State.stagingOf (s : State) (id : Nat) : Option (Task × Launch) :=
  (s.tasks.find? (fun t => t.id == id && !t.staged && !t.killing && t.parked.isNone)).bind (fun t =>
    (s.launch? t.launch).map (fun l => (t, l)))

/-- The next granule of a task's image is read (R55): the placement logic works on, also while the tile is seized (R121). -/
def State.stageOne (s : State) (id : Nat) : State :=
  match s.stagingOf id with
  | none => s
  | some (_, l) => State.stageGranules l id 1 s

/-- FOOTPRINT_STAGING_COMPLETE: the rest of the image is read and the task's contexts become eligible; a page not present parks it. -/
def execFootprintStagingComplete (id : Nat) (s : State) : Out :=
  match s.stagingOf id with
  | none => .next s
  | some (_, l) =>
    let s := State.stageGranules l id (l.foot / 64 + 1) s
    .next (match s.stagingOf id with
      | none => s
      | some (t, l) => if l.foot ≤ t.copied then s.stageSeeds l t else s)

/-! ### Retirement (R129, R213) -/

/-- The matrix unit that a task owns begins to clear (R213). -/
def State.clearMatrix (s : State) (t : Task) : State :=
  let x := s.tile t.tile
  if x.mx.owner = some t.id then s.setTile t.tile { x with mx := { x.mx with clearing := true } } else s

/-- TASK_RETIRE: no lane is live and the counter is zero; a save that has not completed is over (R129). -/
def execTaskRetire (id : Nat) (s : State) : Out :=
  match s.task? id with
  | none => .next s
  | some t =>
    if ¬ s.resident id ∨ ¬ t.staged ∨ t.killing ∨ s.obligations t ≠ 0 then .next s
    else
      let s := s.clearMatrix t
      .next { s with tasks := s.tasks.filter (fun x => x.id != t.id) }

/-! ### Digests (R411) -/

/-- Every task of a launch has been placed and has ended. -/
def State.launchDrained (s : State) (l : Launch) : Bool :=
  l.closed && l.again.isEmpty && !s.tasks.any (fun t => t.launch == l.key) && !s.saved.any (fun v => v.task.launch == l.key)

/-- Status of a launch from its own fate (R407). -/
def Launch.status (l : Launch) : Nat :=
  if l.faulted then 5 else if l.failed then 4 else if l.cancelled then 3 else if l.dropped then 2 else 1

/-- An ancestor of a launch has been cancelled, before the launch was accepted or after (R407). -/
def State.doomed (s : State) (l : Launch) : Bool := s.insts.any (fun i => i.tenant == l.tenant && i.cancelled && l.under i.kind i.id)

/-- Status of a launch (R407). -/
def State.statusOf (s : State) (l : Launch) : Nat := max l.status (if s.doomed l then 3 else 1)

/-- The digest is computed for statuses 1 and 2. -/
def State.wantsDigest (s : State) (l : Launch) : Bool := l.digest && l.dig.isNone && decide (s.statusOf l ≤ 2)

/-- Head of the digest's byte string. -/
def digestHead (l : Launch) : List Byte :=
  natBytes 4 0x47445A47 ++ natBytes 2 1 ++ natBytes 2 l.regions.length ++ natBytes 16 l.hash.toNat

/-- What the string holds before a region's bytes. -/
def regionHead (base : Dword) (len : Nat) (rel : Bool) : List Byte := natBytes 8 base.toNat ++ natBytes 1 (b2n rel) ++ natBytes 7 len

/-- Snapshots that a digest takes at most, and one more that closes it. -/
def Launch.snapshots (l : Launch) : Nat := l.regions.foldl (fun n r => n + r.2.1 / 64 + 2) 1

/-- The digest stops: a region could not be read (R411). -/
def State.digestFails (s : State) (l : Launch) (va : Nat) : State :=
  let s := s.record { cause := 0x381, sev := 2, engine := engineId 5 0x1D8 1, tenant := some l.tenant, va := some va, launch := some l }
  s.setLaunch { (s.launch? l.key).getD l with dig := some none }

/-- Snapshots of 64 bytes read in table order, at most `n` of them, each one action; after the last region the digest is made. A page not present
parks the read, and any other fault ends it (R411). -/
def State.digestSnaps (key : Nat) : Nat → State → State
  | 0, s => s
  | n + 1, s =>
    match s.launch? key with
    | none => s
    | some l =>
      match l.regions[l.digestAt.1]? with
      | none => s.setLaunch { l with dig := some (some (shake256 (digestHead l ++ l.digestRead))) }
      | some (base, len, rel) =>
        let off := l.digestAt.2
        let va := (if rel then base + l.arg else base).toNat + off
        let k := min (len - off) (64 - va % 64)
        match s.runLocs (feReq l.tenant) 0 1 va k [] with
        | (s, .ok locs) =>
          let s := s.meetAll locs
          if s.anyPoison locs then (s.recordPoison (feRecord l.tenant va (some l)) locs).digestFails l va
          else
            let bs := (if off = 0 then regionHead base len rel else []) ++ s.gather locs
            State.digestSnaps key n (s.setLaunch { (s.launch? key).getD l with
              digestAt := if off + k = len then (l.digestAt.1 + 1, 0) else (l.digestAt.1, off + k), digestRead := l.digestRead ++ bs })
        | (s, .error (none, va)) => (s.setLaunch { l with digestParked := true }).parkRequest l.tenant (.digest l.key) va 0 l.lid
        | (s, .error (some _, va)) => s.digestFails l va

/-- A launch whose digest is being computed. -/
def State.digesting (s : State) (l : Launch) : Bool := s.launchDrained l && s.wantsDigest l && !l.digestParked

/-- The next snapshot of a launch's digest. -/
def State.digestOne (s : State) (n : Nat) : State :=
  match s.launches[n]? with
  | none => s
  | some l => if s.digesting l then State.digestSnaps l.key 1 s else s

/-- RESULT_DIGEST: the rest of the regions is read and the digest made; a page not present parks it, and a fault stops it. -/
def execResultDigest (n : Nat) (s : State) : Out :=
  match s.launches[n]? with
  | none => .next s
  | some l => .next (if s.digesting l then State.digestSnaps l.key l.snapshots s else s)

/-! ### Completion of an instance (R406 to R408) -/

/-- Kept statuses: the last 1,024 of a level of a tenant. -/
def keepDone (l : List Done) (d : Done) : List Done :=
  let same : Done → Bool := fun x => x.tenant == d.tenant && x.kind == d.kind
  let rest := l.filter (fun x => !(same x && x.id == d.id))
  let rest := if 1024 ≤ (rest.filter same).length then
      match rest.find? same with
      | some o => rest.filter (fun x => !(x.tenant == o.tenant && x.kind == o.kind && x.id == o.id))
      | none => rest
    else rest
  rest ++ [d]

/-- A completed child joins its parent's status and flags; the launch digests of a phase are kept for its period (R407, R416). -/
def Inst.merge (i : Inst) (d : Done) : Inst :=
  { i with status := max i.status d.status, reset := i.reset || d.reset, digv := i.digv || d.digv, digerr := i.digerr || d.digerr }

/-- Queues that wait for an instance look again (R406). -/
def State.releaseQueues (s : State) : State := (List.range 64).foldl (fun s k => s.releaseQueue k) s

/-- The barrier slots of a tile without those of a launch; arrivals held for it stay for a later BREG to find (R352). -/
def dropSlots (key : Nat) (t : Tile) : Tile := { t with bars := t.bars.filter (fun (b : Nat × BarSlot) => b.2.launch != key) }

/-- A launch's completion: its status is kept, its digest and status reach its graph and phase, and its barrier slots are freed. -/
def State.completeLaunch (s : State) (l : Launch) : State :=
  let dig := (l.dig.getD none)
  let d : Done := {
    tenant := l.tenant, kind := 1, id := l.lid.toNat, status := s.statusOf l, reset := l.reset,
    digv := dig.isSome && decide (s.statusOf l ≤ 2), digerr := l.dig == some none, digest := dig.getD 0, nrec := l.nrec }
  let s := { s with
    dones := keepDone s.dones d
    launches := s.launches.filter (fun x => x.key != l.key)
    tiles := s.tiles.map (fun (t : Nat × Tile) => (t.1, dropSlots l.key t.2)) }
  let s := match s.inst? l.tenant 2 l.graph with
    | some i => s.setInst (i.merge d)
    | none => s
  let s := match s.inst? l.tenant 3 l.phase, d.digv with
    | some i, true => s.setInst { i with digests := i.digests ++ [(l.key, d.digest)] }
    | _, _ => s
  s.releaseQueues

/-- An instance beneath a graph, phase or job is live. -/
def State.childLive (s : State) (t kind id : Nat) : Bool :=
  if kind = 2 then s.launches.any (fun l => l.tenant == t && l.graph == id)
  else s.insts.any (fun i => i.tenant == t && i.kind + 1 == kind && i.parent == id)

/-- Launch digests of a phase in the order of acceptance (R416): launch keys rise with acceptance. -/
def sortDigests : List (Nat × BitVec 256) → List (Nat × BitVec 256)
  | [] => []
  | x :: xs =>
    let rec ins (y : Nat × BitVec 256) : List (Nat × BitVec 256) → List (Nat × BitVec 256)
      | [] => [y]
      | z :: zs => if y.1 ≤ z.1 then y :: z :: zs else z :: ins y zs
    ins x (sortDigests xs)

/-- A peer event's interrupt (R413). -/
def State.peerMsi (s : State) : State := if s.peer.ien then s.msi 0 s.peer.vec else s

/-- A peer record (R413 to R417), with the interrupt that the events named in R413 send. -/
def State.peerRecord (s : State) (cause sev : Nat) : State :=
  let s := s.record { cause := cause, sev := sev, engine := engineId 8 0x1DA 1 }
  if cause = 0x382 ∨ cause = 0x383 ∨ cause = 0x384 ∨ cause = 0x386 then s.peerMsi else s

/-- A Porsol message (R414). -/
def porsolBits (ver type seq phase pidx body : Nat) : BitVec 512 :=
  BitVec.ofNat 512 (0x53505A47 + ver % 2 ^ 16 * 2 ^ 32 + type * 2 ^ 48 + seq % 2 ^ 64 * 2 ^ 64 + phase % 2 ^ 16 * 2 ^ 128 +
    pidx % 2 ^ 64 * 2 ^ 192 + body % 2 ^ 256 * 2 ^ 256)

/-- A message sent to the peer, with the next number. -/
def State.peerSend (s : State) (ver type phase pidx body : Nat) : State :=
  let p := s.peer
  { s with peer := { p with sent := p.sent ++ [porsolBits ver type p.seq phase pidx body], seq := p.seq + 1 } }

/-- The version that messages after JOIN carry. -/
def State.peerVer (s : State) : Nat := (tget 0 s.boot.negotiated 5).toNat % 2 ^ 16

/-- A list of uncompared periods kept to 16: the oldest is dropped with record 0x387 (R416). -/
def capPeriods {α : Type} (l : List α) : List α × Bool := if 16 < l.length then (l.drop 1, true) else (l, false)

/-- The periods that both sides hold are compared (R416). -/
def State.comparePeriods (s : State) : State :=
  let p := s.peer
  match p.mine.find? (fun x => p.other.any (fun y => y.1 == x.1)) with
  | none => s
  | some (k, phase, dig) =>
    let theirs := ((p.other.find? (fun y => y.1 == k)).map (·.2)).getD 0
    let same := theirs == dig
    let s := { s with peer := { p with
      mine := p.mine.filter (fun x => x.1 != k), other := p.other.filter (fun y => y.1 != k), cmp := p.cmp + 1,
      mism := if same then p.mism else satInc p.mism 0xFFFF, lastPh := if same then p.lastPh else phase } }
    if same then s else s.peerRecord 0x382 3

/-- The module has joined a peer, which it may have lost since: periods count from the join on (R416, log entry 105). -/
def Peer.joined (p : Peer) : Bool := p.st == 2 || p.st == 3

/-- The module's own period joins those not yet compared; PDIG is sent (R416). -/
def State.closePeriod (s : State) (phase : Nat) (digests : List (Nat × BitVec 256)) : State :=
  if digests = [] ∨ ¬ s.peer.joined then s
  else
    let bytes := natBytes 4 0x44505A47 ++ natBytes 2 phase ++ (sortDigests digests).flatMap (fun d => natBytes 32 d.2.toNat)
    let dig := shake256 bytes
    let p := s.peer
    let s := { s with peer := { p with mine := p.mine ++ [(p.pidx, phase, dig)], pidx := p.pidx + 1 } }
    let s := (s.peerSend s.peerVer 4 phase p.pidx dig.toNat).comparePeriods
    let c := capPeriods s.peer.mine
    let s := { s with peer := { s.peer with mine := c.1 } }
    if c.2 then s.peerRecord 0x387 2 else s

/-- A graph, phase or job, or an ancestor of it, has been cancelled (R407). -/
def State.instDoomed (s : State) (i : Inst) : Bool :=
  i.cancelled || s.insts.any (fun p => p.tenant == i.tenant && p.cancelled && ((p.kind == i.kind + 1 && p.id == i.parent) ||
    (p.kind == i.kind + 2 && (s.inst? i.tenant 3 i.parent).any (fun x => x.parent == p.id))))

/-- A graph's, phase's or job's completion. -/
def State.completeInst (s : State) (i : Inst) : State :=
  let own := if s.instDoomed i then 3 else 1
  let d : Done := {
    tenant := i.tenant, kind := i.kind, id := i.id, status := max own i.status, reset := i.reset, digv := i.digv, digerr := i.digerr,
    digest := 0, nrec := i.nrec }
  let s := { s with
    dones := keepDone s.dones d, ended := s.ended ++ [(i.tenant, i.kind, i.id)]
    insts := s.insts.filter (fun x => !(x.tenant == i.tenant && x.kind == i.kind && x.id == i.id)) }
  let s := match (if i.kind < 4 then s.inst? i.tenant (i.kind + 1) i.parent else none) with
    | some p => s.setInst (p.merge d)
    | none => s
  let s := if i.kind = 4 then { s with wacc := s.wacc.filter (fun w => !(w.tenant == i.tenant && w.job == i.id)) } else s
  let s := if i.kind = 3 then s.closePeriod i.id i.digests else s
  s.releaseQueues

/-- INSTANCE_COMPLETE: a closed instance with a zero counter completes (kind 1 launch, by launch ID; 2 graph, 3 phase, 4 job). -/
def execInstanceComplete (t kind id : Nat) (s : State) : Out :=
  if kind = 1 then
    match s.launches.find? (fun l => l.tenant == t && l.lid.toNat == id) with
    | some l => .next (if s.launchDrained l ∧ ¬ s.wantsDigest l then s.completeLaunch l else s)
    | none => .next s
  else
    match s.inst? t kind id with
    | some i => .next (if i.closed ∧ ¬ s.childLive t kind id then s.completeInst i else s)
    | none => .next s

/-! ### Queries (R408) -/

/-- A kept status with no completion: the flags and the records of a live instance (R407, R408). -/
def liveDone (t kind id : Nat) (reset digv digerr : Bool) (dig : BitVec 256) (nrec : Nat) : Done :=
  { tenant := t, kind := kind, id := id, status := 0, reset := reset, digv := digv, digerr := digerr, digest := dig, nrec := nrec }

/-- What a query of an instance finds: its flags while it lives, and its kept status after it has completed (R408). -/
def State.answerOf (s : State) (t kind id : Nat) : Option Done :=
  if kind = 0 ∨ 4 < kind then none
  else if kind = 1 then
    match s.launches.find? (fun l => l.tenant == t && l.lid.toNat == id) with
    | some l =>
      let dig := l.dig.getD none
      some (liveDone t kind id l.reset (dig.isSome && decide (s.statusOf l ≤ 2)) (l.dig == some none) (dig.getD 0) l.nrec)
    | none => s.done? t kind id
  else
    match s.inst? t kind id with
    | some i => some (liveDone t kind id i.reset i.digv i.digerr 0 i.nrec)
    | none => s.done? t kind id

/-- LEVEL_QUERY_COMPLETE: LVRES and LVDIG take the instance's status and flags, and BUSY clears. -/
def execLevelQueryComplete (t : Nat) (s : State) : Out :=
  let x := s.tenant t
  if ¬ x.lvres.getLsbD 6 then .next s
  else
    let kind := dfld x.lvq 2 0
    let id := if kind = 1 then dfld x.lvq 63 32 else dfld x.lvq 47 32
    let d := (s.answerOf t kind id).getD { liveDone t kind id false false false 0 0 with status := 6 }
    .next (s.setTenant t { x with
      lvres := BitVec.ofNat 64 (d.status + 8 * b2n d.reset + 16 * b2n d.digv + 32 * b2n d.digerr + d.nrec * 2 ^ 32), lvdig := d.digest })

end Sys2Proof.Machine
end

