-- ==== Sys2Proof/Machine/Sync.lean ====
section
/-! DEFINITION. Memory-side reductions, wide accumulators, barriers and reduction trees (R345 to R356, R173, R174). -/

namespace Sys2Proof.Machine

/-! ### Reductions (R345, R346) -/

/-- Bytes that a RED minor acts on. -/
def redSize (minor : Nat) : Nat := if minor = 1 ∨ minor = 9 then 4 else if minor = 10 then 2 else 8

/-- Earlier relaxed accesses of the thread to the bytes of a reduction's target are performed first (R252). -/
def State.redOverlap (s : State) (x : Reduction) : State :=
  match (s.check (s.bank x.owner |>.req (x.owner.tile % 512)) x.va.toNat (redSize x.minor) 1).2 with
  | .ok t => s.drainOverlap x.owner [⟨t.loc, redSize x.minor, 0⟩]
  | _ => s

/-- RED minors 0 to 10: the checks of R346, and the reduction passed to the core's path; a 65th waits at issue. -/
def redIssue (minor : Nat) (rel acq : BitVec 1) (scope : BitVec 3) (a b : BitVec 5) (s : State) : Out :=
  let va := s.rg a
  let v := s.rg b
  let mbm : Bool := match region va.toNat with
    | .mbm _ => true
    | _ => false
  if mbm then trapAt 0x281 va 0 s
  else gate s fun s =>
    match s.checkMap s.req va.toNat (redSize minor) 1 with
    | some c => trapAt c va 0 s
    | none =>
      let det := s.me.numctl.getLsbD 6
      if 9 ≤ minor ∧ det ∧ ¬ isTrans va.toNat then trapAt 0x281 va 0 s
      else if 64 ≤ (s.tile s.cur.1).reds.length then .next (s.hold .redFull)
      else releaseGate (rel == 1) scope s fun s =>
        let s := if rel = 1 then s.drain s.curRef scope.toNat else s
        let x : Reduction := {
          id := s.fresh, va := va, val := v, minor := minor, det := det, acq := acq = 1, scope := scope.toNat, owner := s.curRef,
          thread := s.me.thread, task := s.me.task, pc := s.me.pc, parked := false }
        let s := s.redOverlap x
        let t := s.tile s.cur.1
        .next ({ s.setTile s.cur.1 { t with reds := t.reds ++ [x] } with fresh := s.fresh + 1 }).retire

def execRedAdd64 (r : BitVec 1) (a b : BitVec 5) (s : BitVec 3) (q : BitVec 1) (st : State) : Out := redIssue 0 r q s a b st
def execRedAdd32 (r : BitVec 1) (a b : BitVec 5) (s : BitVec 3) (q : BitVec 1) (st : State) : Out := redIssue 1 r q s a b st
def execRedMin64 (r : BitVec 1) (a b : BitVec 5) (s : BitVec 3) (q : BitVec 1) (st : State) : Out := redIssue 2 r q s a b st
def execRedMax64 (r : BitVec 1) (a b : BitVec 5) (s : BitVec 3) (q : BitVec 1) (st : State) : Out := redIssue 3 r q s a b st
def execRedMinu64 (r : BitVec 1) (a b : BitVec 5) (s : BitVec 3) (q : BitVec 1) (st : State) : Out := redIssue 4 r q s a b st
def execRedMaxu64 (r : BitVec 1) (a b : BitVec 5) (s : BitVec 3) (q : BitVec 1) (st : State) : Out := redIssue 5 r q s a b st
def execRedAnd64 (r : BitVec 1) (a b : BitVec 5) (s : BitVec 3) (q : BitVec 1) (st : State) : Out := redIssue 6 r q s a b st
def execRedOr64 (r : BitVec 1) (a b : BitVec 5) (s : BitVec 3) (q : BitVec 1) (st : State) : Out := redIssue 7 r q s a b st
def execRedXor64 (r : BitVec 1) (a b : BitVec 5) (s : BitVec 3) (q : BitVec 1) (st : State) : Out := redIssue 8 r q s a b st
def execRedfAddF32 (r : BitVec 1) (a b : BitVec 5) (s : BitVec 3) (q : BitVec 1) (st : State) : Out := redIssue 9 r q s a b st
def execRedfAddBf16 (r : BitVec 1) (a b : BitVec 5) (s : BitVec 3) (q : BitVec 1) (st : State) : Out := redIssue 10 r q s a b st

/-- An integer operation of R345 and R355 on 64-bit values: 0 ADD, 1 MIN, 2 MAX, 3 MINU, 4 MAXU, 5 AND, 6 OR, 7 XOR. -/
def intOp (op : Nat) (m v : Dword) : Dword :=
  match op with
  | 0 => m + v
  | 1 => if m.toInt ≤ v.toInt then m else v
  | 2 => if m.toInt ≤ v.toInt then v else m
  | 3 => if m ≤ v then m else v
  | 4 => if m ≤ v then v else m
  | 5 => m &&& v
  | 6 => m ||| v
  | _ => m ^^^ v

/-- The rounding of R347. -/
def redCtl : Ctl := ⟨0, false, true, false, 0⟩

/-- The new content of a reduction's target (R345, R347). -/
def redWord (minor m : Nat) (v : Dword) : Nat :=
  let x := BitVec.ofNat 64 m
  match minor with
  | 0 => (intOp 0 x v).toNat
  | 1 => (m + v.toNat) % 2 ^ 32
  | 9 => (fAdd fp32 redCtl 0 0 m (v.toNat % 2 ^ 32)).1
  | 10 => (fAdd bf16 redCtl 0 0 m (v.toNat % 2 ^ 16)).1
  | n => (intOp (n - 1) x v).toNat

/-! ### Wide accumulators (R173, R174, R349) -/

/-- The slice of a physical address (R15). -/
def sliceOf (pa : Nat) : Nat := fld pa 10 6 ^^^ fld pa 15 11

/-- An addend joins an accumulator exactly. -/
def WideAcc.add (w : WideAcc) (x : Num) : WideAcc :=
  match x with
  | .nan _ _ _ => { w with nan := true }
  | .inf s => { w with pinf := w.pinf || !s, ninf := w.ninf || s }
  | .fin s m e => { w with n := w.n + BitVec.ofInt 640 (signedOf s (m * 2 ^ (e + 160).toNat)) }

/-- The accumulator read out with one rounding. -/
def WideAcc.read (w : WideAcc) (c : Ctl) : Res :=
  let f := if w.bf then bf16 else fp32
  if w.nan || (w.pinf && w.ninf) then (f.canon, flNV)
  else if w.pinf then infResult f c false
  else if w.ninf then infResult f c true
  else roundTo f { c with rm := 0 } 0 0 [] (ofInt w.n.toInt (-160) false)

/-- The accumulator bound to a key. -/
def State.wacc? (s : State) (t pa : Nat) : Option WideAcc := s.wacc.find? (fun w => w.tenant == t && w.pa == pa)
def State.setWacc (s : State) (x : WideAcc) : State :=
  { s with wacc := s.wacc.map (fun w => if w.tenant = x.tenant ∧ w.pa = x.pa then x else w) }

/-! ### Performing a reduction (R346 to R349) -/

/-- Every reduction on its way, with its tile. -/
def State.allReds (s : State) : List (Nat × Reduction) := s.tiles.flatMap (fun y => y.2.reds.map (fun x => (y.1, x)))

/-- The access that a reduction makes. -/
def State.redCheck (s : State) (x : Reduction) : State × Chk := s.check (s.engineReq x.owner x.task) x.va.toNat (redSize x.minor) 1

/-- The slice that a reduction of a translated address goes to. -/
def State.redSlice (s : State) (x : Reduction) : Option Nat :=
  if isTrans x.va.toNat then
    match (s.redCheck x).2 with
    | .ok (.mem loc) => some (sliceOf loc)
    | _ => none
  else none

/-- WACRD or WACCLR waits behind the thread's reductions to that slice (R350); one whose address is not known yet counts. -/
def State.wacHeld (s : State) (r : BankRef) (pa : Nat) : Bool :=
  (s.tile r.tile).reds.any (fun x => x.owner == r && x.thread == (s.bank r).thread && isTrans x.va.toNat &&
    (match s.redSlice x with
      | some k => k == sliceOf pa
      | none => true))

/-- WACRD or WACCLR performed: its value, flags and numeric trap. -/
def State.wacAct (s : State) (r : BankRef) (minor pa : Nat) : State × Dword × Option TrapInfo × Flags :=
  let b := s.bank r
  if minor = 12 then ({ s with wacc := s.wacc.filter (fun w => !(w.tenant == b.tenant && w.pa == pa)) }, 0, none, 0)
  else
    match s.wacc? b.tenant pa with
    | none => (s, 0, none, 0)
    | some w =>
      let x := w.read (ctlOf b.numctl)
      (s, BitVec.ofNat 64 x.1, (numericTrap b.numctl [(0, x.2)]).map (fun p => ⟨p.1, 0, p.2⟩), x.2)

/-- A parked WACRD or WACCLR goes on once its reductions are performed. -/
def State.wacDone (s : State) (r : BankRef) : State :=
  match (s.bank r).wait with
  | some (.wac minor _ pa win) =>
    if s.wacHeld r pa then s
    else
      let q := s.wacAct r minor pa
      (q.1.resultReady r win (q.2.1.setWidth 1024) q.2.2.1 q.2.2.2).wake r .none 0
  | _ => s

/-- A reduction leaves the path. -/
def State.endRed (s : State) (tile : Nat) (x : Reduction) : State :=
  let t := s.tile tile
  (s.setTile tile { t with reds := t.reds.filter (fun y => y.id != x.id) }).wacDone x.owner

/-- A reduction dropped with its record (R348, R349): the slice of a translated address, or the tile, of a window the one that holds it. -/
def State.dropRed (s : State) (tile : Nat) (x : Reduction) (cause : Nat) : State :=
  let va := x.va.toNat
  let slice := ((s.redSlice x).getD (l2Tlb va - 512))
  let eng := if isTrans va then engineId 3 (0x1E0 + slice) (if cause = 0x286 then 2 else 1) else match region va with
    | .win t _ => engineId 0 t 0
    | _ => engineId 0 tile 0
  (s.record (s.taskRec x.owner x.task cause 2 eng (some va) 0)).endRed tile x

/-- A deterministic float addition to the accumulator of a physical address (R349). -/
def State.addWide (s : State) (tile : Nat) (x : Reduction) (pa : Nat) : State :=
  let t := (s.engineReq x.owner x.task).tenant
  let v := if x.minor = 9 then fp32.read false (x.val.toNat % 2 ^ 32) else bf16.read false (x.val.toNat % 2 ^ 16)
  match s.wacc? t pa with
  | some w => (s.setWacc (w.add v)).endRed tile x
  | none =>
    if 1024 ≤ (s.wacc.filter (fun w => sliceOf w.pa == sliceOf pa)).length then s.dropRed tile x 0x286
    else
      let job := (((s.task? x.task).bind (fun t => s.launch? t.launch)).map (·.job)).getD 0
      let w : WideAcc := ⟨t, pa, decide (x.minor = 10), 0, false, false, false, job⟩
      { s with wacc := s.wacc ++ [w.add v] }.endRed tile x

/-- An earlier reduction of the same thread to the same place has not been performed (R346). -/
def State.redBehind (s : State) (tile : Nat) (x : Reduction) : Bool :=
  let place := fun (y : Reduction) => match (s.redCheck y).2 with
    | .ok t => some t.loc
    | _ => none
  (s.tile tile).reds.any (fun y => decide (y.id < x.id) && y.owner == x.owner && y.thread == x.thread &&
    (match place y, place x with
      | some p, some q => overlap p (redSize y.minor) q (redSize x.minor)
      | _, _ => overlap y.va.toNat (redSize y.minor) x.va.toNat (redSize x.minor)))

/-- REDUCTION_PERFORM: a reduction is translated by the path and performed in one action at its owning port, is parked on a page not present,
or is dropped on any other fault; a killed task's reduction is discarded. -/
def execReductionPerform (ix : Nat) (s : State) : Out :=
  match s.allReds[ix]? with
  | none => .next s
  | some (tile, x) =>
    if ((s.task? x.task).map (·.killing)).getD true then .next (s.endRed tile x)
    else if x.parked ∨ s.redBehind tile x then .next s
    else
      match s.redCheck x with
      | (s, .absent) =>
        let t := s.tile tile
        let s := s.setTile tile { t with reds := t.reds.map (fun y => if y.id = x.id then { y with parked := true } else y) }
        .next (s.parkRequest (s.engineReq x.owner x.task).tenant (.reduction tile x.id) x.va.toNat 1 (s.engineLid x.task))
      | (s, .trap _) => .next (s.dropRed tile x 0x287)
      | (s, .ok t) =>
        let n := redSize x.minor
        let host : Bool := isTrans x.va.toNat && !isDramLoc t.loc
        if host then .next (s.dropRed tile x 0x287)
        else if 9 ≤ x.minor ∧ x.det then .next (s.addWide tile x t.loc)
        else
          let s := s.meet t.loc n
          let busy := match t with
            | .win k off => s.unitBusy k off (x.pass.getD s.fresh)
            | .mem _ => false
          if busy then
            let k := s.tile tile
            .next (s.setTile tile { k with reds := k.reds.map (fun y => if y.id = x.id then { y with pass := some (x.pass.getD s.fresh) } else y) })
          else if s.poisoned t.loc n then
            .next ((s.recordPoison (s.taskRec x.owner x.task 0 2 0 (some x.va.toNat) 0) [(t.loc, n)]).dropRed tile x 0x287)
          else
            let s := s.writeTarget t n (redWord x.minor (s.readTarget t n) x.val)
            let s := s.traceAt t.loc n 4 tile x.owner.slot x.owner.bank (if homeTile t.loc = tile then 1 else 2) (homeTile t.loc != tile)
            .next (s.endRed tile x)

/-- WACRD and WACCLR (R350): the checks, and the wait behind the thread's reductions. -/
def wacAt (minor : Nat) (d a : BitVec 5) (k : BitVec 4) (s : State) : Out :=
  let va := s.rg a
  gate s fun s => access va 2 (if minor = 12 then 1 else 0) s fun t s =>
    if ¬ (isTrans va.toNat && isDramLoc t.loc) then trapAt 0x281 va 0 s
    else
      let r := s.curRef
      let dest := if minor = 12 then Dest.none else .g d.toNat
      if s.wacHeld r t.loc then
        let win := s.me.nextWin
        .next ((s.openWindow k.toNat dest none none).park (.wac minor d.toNat t.loc win))
      else
        let q := s.wacAct r minor t.loc
        .next (q.1.finishLong k.toNat dest (some (q.2.1.setWidth 1024)) q.2.2.1 q.2.2.2)

def execWacrd (d a : BitVec 5) (k : BitVec 4) (s : State) : Out := wacAt 11 d a k s
def execWacclr (a : BitVec 5) (s : State) : Out := wacAt 12 0 a 0 s

/-! ### Barriers (R351 to R353) -/

def State.bar (s : State) (tile slot : Nat) : Option BarSlot := tfind (s.tile tile).bars slot
def State.setBar (s : State) (tile slot : Nat) (x : BarSlot) : State :=
  s.setTile tile { s.tile tile with bars := tset (s.tile tile).bars slot x }

/-- The launch of a bank's work, by its key; 0 for none. -/
def State.launchKey (s : State) (r : BankRef) : Nat := ((s.launchOf (s.bank r)).map (·.key)).getD 0

/-- An arrival discarded at a home slot of another launch (R352, R353). -/
def State.discardArrival (s : State) (tile launch : Nat) : State :=
  let l := s.launch? launch
  s.record { cause := 0x288, sev := 2, engine := engineId 0 tile 0, tenant := l.map (·.tenant), launch := l, asyn := true }

/-- BREG (R352). -/
def execBreg (d a b : BitVec 5) (s : State) : Out :=
  let x := s.rg a
  let y := s.rg b
  let slot := dfld x 2 0
  let rect : BitVec 18 := BitVec.ofNat 18 (dfld y 17 0)
  let tile := s.cur.1
  let bad := dfld x 7 3 != 0 || dfld x 63 16 != 0 || dfld y 63 18 != 0 || dfld x 15 8 == 0 || !rectOk rect ||
    !(rectTiles rect).all (fun t => s.usable s.me.tenant t) || !inRect rect tile
  if bad then trap 0x284 s
  else
    let k := s.launchKey s.curRef
    let loc := dfld x 15 8
    match s.bar tile slot with
    | some q => ret d (if q.launch = k ∧ q.loc = loc ∧ q.rect = rect then 1 else 2) s
    | none =>
      let t := s.tile tile
      let mine := t.held.filter (fun h => h.1 == slot && h.2 == k)
      let others := t.held.filter (fun h => h.1 == slot && h.2 != k)
      let s := s.setTile tile { t with held := t.held.filter (fun h => h.1 != slot) }
      let s := others.foldl (fun s h => s.discardArrival tile h.2) s
      ret d 0 (s.setBar tile slot ⟨k, loc, rect, 0, 0, false, min mine.length 255⟩)

/-- The slot operand of BARV, BWAIT, BARVW and BTEST: reserved bits trap with 0x284, a slot of another launch with 0x283. -/
def barGate (a : BitVec 5) (s : State) (f : Nat → BarSlot → State → Out) : Out :=
  let x := s.rg a
  if dfld x 63 3 ≠ 0 then trap 0x284 s
  else
    match s.bar s.cur.1 (dfld x 2 0) with
    | some q => if q.launch = s.launchKey s.curRef then f (dfld x 2 0) q s else trap 0x283 s
    | none => trap 0x283 s

/-- A core's arrival sent to the barrier's home (R353). -/
def State.sendArrival (s : State) (tile slot task : Nat) (q : BarSlot) : State :=
  (s.setBar tile slot { q with arrived := 0, pend := true }).send (.arrival (fld q.rect.toNat 8 0) slot q.launch task)

/-- BWAIT's condition still holds: the generation has not passed the value (R353). -/
def barPending (gen v : BitVec 32) : Bool := gen == v || decide (2 ^ 31 ≤ (gen - v).toNat)

/-- A thread waits for a generation, or completes with it (R353); a bank that a quantum switch has put away keeps its tile's slot (R356). -/
def State.barWait (s : State) (r : BankRef) (slot : Nat) (v : BitVec 32) (reg : Option Nat) : State :=
  match s.bar (r.tile % 512) slot with
  | some q =>
    if barPending q.gen v then s.setBank r { s.bank r with wait := some (.barrier slot v reg) }
    else s.wake r (match reg with
      | some n => .g n
      | none => .none) (q.gen.setWidth 1024)
  | none => s

/-- An arrival of a thread that has done its release: it counts, or waits for a full batch to leave (R353). -/
def State.arrive (s : State) (r : BankRef) (minor slot reg : Nat) : State :=
  let tile := r.tile % 512
  match s.bar tile slot with
  | none => s
  | some q =>
    if q.arrived = q.loc then s.setBank r { s.bank r with wait := some (.batch minor slot reg) }
    else
      let v := q.gen + (if q.pend then 1 else 0)
      let q := { q with arrived := q.arrived + 1 }
      let s := if q.arrived = q.loc ∧ ¬ q.pend then s.sendArrival tile slot (s.bank r).task q else s.setBar tile slot q
      if minor = 1 then s.wake r (.g reg) (v.setWidth 1024) else s.barWait r slot v (some reg)

/-- BARV (1) and BARVW (3): the release at .dv, then the arrival. -/
def barArrive (minor : Nat) (d a : BitVec 5) (s : State) : Out :=
  barGate a s fun slot _ s => rlxGate s fun s =>
    let r := s.curRef
    let s := s.drain r 4
    let busy := s.engineBusy r
    let s := s.park (.arrive minor slot d.toNat)
    .next (if busy then s else s.arrive r minor slot d.toNat)

def execBarv (d a : BitVec 5) (s : State) : Out := barArrive 1 d a s
def execBarvw (d a : BitVec 5) (s : State) : Out := barArrive 3 d a s
def execBwait (a b : BitVec 5) (s : State) : Out :=
  let v := (s.rg b).setWidth 32
  barGate a s fun slot _ s => .next ((s.park (.barrier slot v none)).barWait s.curRef slot v none)

/-- BTEST. -/
def execBtest (d a : BitVec 5) (s : State) : Out :=
  barGate a s fun _ q s =>
    ret d (BitVec.ofNat 64 (q.gen.toNat + q.arrived * 2 ^ 32 + q.loc * 2 ^ 40 + b2n q.pend * 2 ^ 48 + 2 ^ 63)) s

/-- BARRIER_ARRIVAL: an arrival reaches the home: it counts, is held for a free slot, or is discarded; the last one sends the releases. -/
def execBarrierArrival (ix : Nat) (s : State) : Out :=
  match s.net[ix]? with
  | some (.arrival home slot launch _) =>
    let s := { s with net := listDel s.net ix }
    match s.bar home slot with
    | none => .next (s.setTile home { s.tile home with held := (s.tile home).held ++ [(slot, launch)] })
    | some q =>
      if q.launch ≠ launch then .next (s.discardArrival home launch)
      else if q.home + 1 < (rectTiles q.rect).length then .next (s.setBar home slot { q with home := q.home + 1 })
      else
        .next ((rectTiles q.rect).foldl (fun s t => s.send (.release t slot launch)) (s.setBar home slot { q with home := 0 }))
  | _ => .next s

/-- The banks of a tile, and after them those that quantum switches have put away from it (R356). -/
def State.tileBanks (s : State) (tile : Nat) : List BankRef :=
  let away := (s.saved.filter (fun v => v.quantum && v.task.tile == tile)).map (fun v => awayTile tile v.task.id)
  (tile :: away).flatMap (fun t => (List.range 16).map (fun k => ⟨t, k / 2, k % 2⟩))

/-- BARRIER_RELEASE: GEN advances, a full batch is sent, and the slot's waiters of its launch go on. -/
def execBarrierRelease (ix : Nat) (s : State) : Out :=
  match s.net[ix]? with
  | some (.release tile slot launch) =>
    let s := { s with net := listDel s.net ix }
    match s.bar tile slot with
    | none => .next s
    | some q =>
      if q.launch ≠ launch then .next s
      else
        let q := { q with gen := q.gen + 1, pend := false }
        let s := if q.arrived = q.loc then s.sendArrival tile slot 0 q else s.setBar tile slot q
        .next ((s.tileBanks tile).foldl (fun s r =>
          match (s.bank r).wait with
          | some (.batch minor k reg) => if k = slot then s.arrive r minor slot reg else s
          | some (.barrier k v reg) => if k = slot then s.barWait r slot v reg else s
          | _ => s) s)
  | _ => .next s

/-! ### Reduction trees (R354, R355) -/

/-- TREE's fields. -/
def treeNode (x : Dword) : Nat × Nat × Nat := (dfld x 8 0, dfld x 11 9, dfld x 14 12)
def treeKids (x : Dword) : Nat := dfld x 18 15
def treeRoot (x : Dword) : Bool := x.getLsbD 23
def treeValid (x : Dword) : Bool := x.getLsbD 24

/-- TREESET. -/
def execTreeset (a : BitVec 5) (s : State) : Out :=
  let x := s.rg a
  let p := dfld x 8 0
  let bad := dfld x 63 24 != 0 || decide (10 ≤ dfld x 22 19) || decide (8 < treeKids x) || (treeRoot x && dfld x 14 0 != 0) ||
    (!treeRoot x && !(s.usable s.me.tenant p && isXa p == isXa s.cur.1)) || !s.me.inbox.isEmpty
  if bad then trap 0x28B s else .next (s.setMe { s.me with tree := x ||| 0x1000000 }).retire

/-- One step of the combination in inbox order (R355): the operation on the value and inbox word i. -/
def treeOp (c : Ctl) (op i : Nat) (v x : Dword) : Dword × Flags :=
  let lo := fun (y : Dword) => y.toNat % 2 ^ 32
  match op with
  | 8 => let r := fAdd fp32 c 0 i (lo v) (lo x); (BitVec.ofNat 64 r.1, r.2)
  | 9 => let r := fMinMax fp32 c true (lo v) (lo x); (BitVec.ofNat 64 r.1, r.2)
  | _ => (intOp op v x, 0)

/-- The value of an RSRV and the flags of its operations, with inbox index as the lane of each. -/
def Bank.combine (b : Bank) (v : Dword) : Dword × Flags :=
  (List.range (treeKids b.tree)).foldl (fun acc i =>
    let r := treeOp (ctlOf b.numctl) (dfld b.tree 22 19) i acc.1 (tget 0 b.inbox i)
    (r.1, acc.2 ||| r.2)) (v, 0)

/-- A value sent to the parent's inbox. -/
def State.sendUp (s : State) (r : BankRef) (x : Dword) : State :=
  let (t, k, i) := treeNode (s.bank r).tree
  s.send (.deliver r t k i x (s.launchKey r) (s.bank r).task)

/-- Every inbox that an RSRV serves is full. -/
def Bank.kidsReady (b : Bank) : Bool := (List.range (treeKids b.tree)).all (fun i => (tfind b.inbox i).isSome)

/-- An RSRV completes: its inboxes are emptied, its flags raised and its register written. -/
def State.finishRsrv (s : State) (r : BankRef) (reg : Nat) (own : Dword) : State :=
  let b := s.bank r
  let x := b.combine own
  let b := { b with inbox := b.inbox.filter (fun e => decide (treeKids b.tree ≤ e.1)) }
  (s.setBank r (b.raise x.2)).wake r (.g reg) (x.1.setWidth 1024)

/-- A parked RSRV whose inboxes are all full reads its own value: the numeric trap, the end at the root, or the delivery to the parent. -/
def State.serveTree (s : State) (r : BankRef) (reg a : Nat) : State :=
  let b := s.bank r
  if ¬ b.kidsReady then s
  else
    let own := b.rg a
    let x := b.combine own
    match numericTrap b.numctl [(0, x.2)] with
    | some (c, v) => s.refuse r ⟨c, 0, v⟩
    | none =>
      if treeRoot b.tree then s.finishRsrv r reg own
      else (s.setBank r { b with wait := some (.deliver (some reg) own false) }).sendUp r x.1

/-- SEND. -/
def execSend (a : BitVec 5) (s : State) : Out :=
  let x := s.rg a
  let t := s.me.tree
  let r := s.curRef
  if ¬ treeValid t ∨ treeRoot t then trap 0x289 s else .next ((s.park (.deliver none x false)).sendUp r x)

/-- RSRV. -/
def execRsrv (d a : BitVec 5) (s : State) : Out :=
  let r := s.curRef
  if ¬ treeValid s.me.tree then trap 0x289 s else .next ((s.park (.rsrv d.toNat a.toNat)).serveTree r d.toNat a.toNat)

/-- The bank of a slot that holds work of a launch: bank 0 before bank 1, then one that a quantum switch has put away (R356). -/
def State.parentBank (s : State) (tile slot launch : Nat) : Option BankRef :=
  let away := (s.saved.filter (fun v => v.quantum && v.task.tile == tile && v.task.slots.contains slot)).map
    (fun v => BankRef.mk (awayTile tile v.task.id) slot 0)
  (BankRef.mk tile slot 0 :: BankRef.mk tile slot 1 :: away).find? (fun r => (s.bank r).seeded && s.launchKey r == launch)

/-- TREE_DELIVER_ARRIVAL: a value enters the parent's empty inbox and completes its sender; a full inbox refuses it; without a bank of the
launch the sender traps with 0x28A. -/
def execTreeDeliverArrival (ix : Nat) (s : State) : Out :=
  match s.net[ix]? with
  | some (.deliver src tile slot idx val launch _) =>
    match (s.bank src).wait with
    | some (.deliver reg own _) =>
      if s.saved.any (fun v => !v.quantum && v.task.launch == launch && v.task.tile == tile && v.task.slots.contains slot) then .next s
      else
        let s := { s with net := listDel s.net ix }
        match s.parentBank tile slot launch with
        | none => .next (s.refuse src ⟨0x28A, 0, 0⟩)
        | some p =>
          let b := s.bank p
          if (tfind b.inbox idx).isSome then .next (s.setBank src { s.bank src with wait := some (.deliver reg own true) })
          else
            let s := s.setBank p { b with inbox := tset b.inbox idx val }
            let s := match reg with
              | some n => s.finishRsrv src n own
              | none => s.wake src .none 0
            match (s.bank p).wait with
            | some (.rsrv n x) => .next (s.serveTree p n x)
            | _ => .next s
    | _ => .next { s with net := listDel s.net ix }
  | _ => .next s

/-- TREE_DELIVER_RETRY: a refused send repeats. -/
def execTreeDeliverRetry (tile slot bank : Nat) (s : State) : Out :=
  let r : BankRef := ⟨tile, slot, bank⟩
  match (s.bank r).wait with
  | some (.deliver reg own true) =>
    let s := s.setBank r { s.bank r with wait := some (.deliver reg own false) }
    .next (s.sendUp r (match reg with
      | some _ => ((s.bank r).combine own).1
      | none => own))
  | _ => .next s

end Sys2Proof.Machine
end

