-- ==== Sys2Proof/Machine/Preempt.lean ====
section
/-! DEFINITION. The pre-emption ladder, saving and restoring, quanta, kill-quiet and the watchdogs (R125, R240, R260, R298, R356,
R398 to R404). -/

namespace Sys2Proof.Machine

/-! ### The ladder (R398, R399) -/

/-- The queue whose launches a task belongs to. -/
def State.rootOf (s : State) (t : Task) : Option Nat := (s.launch? t.launch).map (·.root)

/-- The contested set of a ladder holds a tile. -/
def State.contested (s : State) (d : Ladder) (tile : Nat) : Bool :=
  match d.launch with
  | none => true
  | some k => match s.launch? k with
    | some l => inRect l.rect tile
    | none => false

/-- A rung recorded in the victim's QSTAT, with its record (R399). -/
def State.markRung (s : State) (k rung cause : Nat) : State :=
  let q := s.queue k
  (s.setQueue k { q with prung := max q.prung rung, cause := cause }).record
    { cause := cause, sev := 0, engine := engineId 5 0x1D8 0, tenant := some q.tenant }

/-- Rung 1: the ladder of a queue starts. -/
def State.startLadder (s : State) (k deepest : Nat) (launch : Option Nat) : State :=
  (s.setQueue k { s.queue k with ladder := some ⟨1, deepest, s.boot.dtb, launch, false⟩ }).markRung k 1 0x301

/-- The lowest PRIO among queues, and among equals the highest number. -/
def State.lowestQueue (s : State) (ks : List Nat) : Option Nat :=
  ks.foldl (fun best k =>
    match best with
    | none => some k
    | some b => if (s.queue k).prio ≤ (s.queue b).prio then some k else some b) none

/-- A launch's next task cannot be placed now. -/
def State.stuck (s : State) (l : Launch) : Bool := l.nextTask.isSome && (s.spot l).isNone

/-- LADDER_START: rung 1 on the lowest queue that holds contexts of the launch's set at a lower PRIO; XA launches go no further. -/
def execLadderStart (n : Nat) (s : State) : Out :=
  match s.launches[n]? with
  | none => .next s
  | some l =>
    let holds := fun k => s.tasks.any (fun t => s.rootOf t == some k && inRect l.rect t.tile)
    match s.lowestQueue ((List.range 64).filter (fun k => decide ((s.queue k).prio < l.prio) && holds k)) with
    | none => .next s
    | some k =>
      if ¬ s.stuck l ∨ (s.queue k).ladder.isSome then .next s
      else .next (s.startLadder k (if isXa (fld l.rect.toNat 8 0) then 1 else 3) (some l.key))

/-- The victim's resident tasks that a rung reaches: placed in the contested set, on the LA. -/
def State.reaches (s : State) (k : Nat) (d : Ladder) (t : Task) : Bool :=
  s.rootOf t == some k && s.contested d t.tile && isLa t.tile && !t.killing

/-- A queue that rung 2 or 3 puts into SAVED, with its fetch-ahead buffer discarded (R112); one that is off or in FAULT stays so (R86, R93),
and one that the starvation watchdog chose keeps running (R125). -/
def Queue.toSaved (q : Queue) (d : Ladder) : Queue :=
  if d.starve ∨ ¬ q.en ∨ q.st = 5 then { q with ladder := some d }
  else { q with st := 6, ladder := some d, ahead := [], block := none, hold := none }

/-- Rung 2 applied: the tasks stop issuing to be saved, and the queue is SAVED (R399). -/
def State.applyRung2 (s : State) (k : Nat) (d : Ladder) : State :=
  let s := s.setQueue k ((s.queue k).toSaved { d with rung := max 2 d.rung })
  let s := { s with tasks := s.tasks.map (fun t => if s.reaches k d t then { t with saving := true, quantum := false } else t) }
  (s.markRung k 2 0x302).unserve k

/-- The need for a ladder persists: the host asked for it, or its launch's next task still cannot be placed (R399). -/
def State.needed (s : State) (d : Ladder) : Bool :=
  match d.launch with
  | none => true
  | some key => (s.launch? key).any s.stuck

/-- RUNG_2_SAVE: T1 has passed and the need persists. -/
def execRung2Save (k : Nat) (s : State) : Out :=
  match (s.queue k).ladder with
  | some d =>
    if d.rung = 1 ∧ 2 ≤ d.deepest ∧ d.since + max 1 (s.queue k).t1 * 10000 ≤ s.boot.dtb ∧ s.needed d then .next (s.applyRung2 k d) else .next s
  | none => .next s

/-- A task killed to be placed again from its entry (R399). -/
def State.resetTask (s : State) (t : Task) : State :=
  (((s.setTask { t with killing := true, why := 1, saving := false }).dropWaits [t.id]).disarm [t.id]).killSeizures [t.id]

/-- The tasks that rung 3 resets: those whose save has not completed; when rung 2 has not been applied, every task reached, as long as the need
persists (R399). -/
def State.unsaved (s : State) (k : Nat) (d : Ladder) : List Task :=
  if d.rung = 2 then s.tasks.filter (fun t => s.reaches k d t && t.saving) else if s.needed d then s.tasks.filter (s.reaches k d) else []

/-- RUNG_3_RESET: T2 has passed; every task whose save has not completed is killed and returned to its launch; without one nothing is done. -/
def execRung3Reset (k : Nat) (s : State) : Out :=
  match (s.queue k).ladder with
  | some d =>
    if d.rung < 3 ∧ 3 ≤ d.deepest ∧ d.since + max 1 (s.queue k).t2 * 10000 ≤ s.boot.dtb then
      let ts := s.unsaved k d
      if ts = [] then .next s
      else
        let s := s.setQueue k ((s.queue k).toSaved { d with rung := 3 })
        .next ((ts.foldl (fun s t => s.resetTask t) (s.markRung k 3 0x303)).unserve k)
    else .next s
  | none => .next s

/-! ### Contexts put away and taken back (R400, R401) -/

/-- A reference to bank 0 of a context that moves to another tile number (log entry 1); bank 1 runs no work while it moves. -/
def moveRef (a b : Nat) (slots : List Nat) (r : BankRef) : BankRef :=
  if r.tile = a ∧ slots.contains r.slot ∧ r.bank = 0 then { r with tile := b } else r

def moveMsg (f : BankRef → BankRef) : Msg → Msg
  | .deliver src tile slot idx val launch task => .deliver (f src) tile slot idx val launch task
  | m => m
def moveWho (f : BankRef → BankRef) : Requester → Requester
  | .thread b => .thread (f b)
  | .fetch b => .fetch (f b)
  | w => w
def moveParked (f : BankRef → BankRef) (p : Parked) : Parked := { p with who := moveWho f p.who }
def moveWait (f : BankRef → BankRef) (w : WaitEnt) : WaitEnt := { w with who := f w.who }
def moveResv (f : BankRef → BankRef) (w : Resv) : Resv := { w with who := f w.who }
def moveMx (f : BankRef → BankRef) (id : Nat) (c : MxCmd) : MxCmd := if c.sender = id then { c with owner := f c.owner } else c

/-- The references of a tile's units. -/
def moveTile (f : BankRef → BankRef) (id : Nat) (t : Tile) : Tile :=
  { t with
    waits := t.waits.map (moveWait f)
    resv := t.resv.map (moveResv f)
    bte := t.bte.map (fun c => if c.task = id then { c with owner := f c.owner } else c)
    breads := t.breads.map (fun c => if c.task = id then { c with owner := f c.owner } else c)
    reds := t.reds.map (fun c => if c.task = id then { c with owner := f c.owner } else c)
    mx := { t.mx with tq := t.mx.tq.map (moveMx f id), lq := t.mx.lq.map (moveMx f id) } }

/-- Every reference to a task's banks moved. -/
def State.moveRefs (s : State) (f : BankRef → BankRef) (id : Nat) : State :=
  { s with
    net := s.net.map (moveMsg f)
    tiles := s.tiles.map (fun (t : Nat × Tile) => (t.1, moveTile f id t.2))
    xaResv := s.xaResv.map (moveResv f)
    xaWaits := s.xaWaits.map (moveWait f)
    mailboxes := s.mailboxes.map (fun (m : Nat × Mailbox) =>
      (m.1, { m.2 with pubs := m.2.pubs.map (fun p => if p.task = id then { p with owner := f p.owner } else p) }))
    tenants := s.tenants.map (fun (t : Nat × Tenant) =>
      (t.1, { t.2 with parked := t.2.parked.map (moveParked f), resend := t.2.resend.map (moveParked f) })) }

/-- A task's contexts put away: bank 0 of every slot, and bank 1 too at rung 2; an armed slot stays armed (R363, R365). -/
def State.putAway (s : State) (t : Task) : State :=
  let b := awayTile t.tile t.id
  let s := t.slots.foldl (fun s k =>
    let c := s.ctx t.tile k
    if t.quantum then (s.setCtx b k { b0 := c.b0 }).setCtx t.tile k { c with b0 := {} }
    else (s.setCtx b k { b0 := c.b0, b1 := c.b1 }).setCtx t.tile k { c with b0 := {}, b1 := {} }) s
  s.moveRefs (moveRef t.tile b t.slots) t.id

/-- A task's contexts taken back. -/
def State.takeBack (s : State) (t : Task) (quantum : Bool) : State :=
  let b := awayTile t.tile t.id
  let s := t.slots.foldl (fun s k =>
    let c := s.ctx t.tile k
    let s1 := s.setCtx t.tile k { c with b0 := (s.ctx b k).b0, b1 := if quantum then c.b1 else (s.ctx b k).b1 }
    { s1 with ctxs := tdel s1.ctxs (b * 8 + k) }) s
  s.moveRefs (moveRef b t.tile t.slots) t.id

/-! ### Saving (R400) -/

/-- A wait that does not hold up a save: it is withdrawn, or kept and looked at again after the restore. A wait for windows is kept when they are
owed something later. -/
def Wait.savable (owed : Bool) : Wait → Bool
  | .chunb .. | .window => owed
  | .bteFull .. | .bteFullB .. | .mcmd .. | .seize .. | .seizq .. | .hfcall .. | .seq .. | .mbrd .. | .wac .. => false
  | _ => true

/-- The windows of a bank that a matrix command will answer which has not begun: one in the task queue, or one that waits for an entry. They stay
open across a save (R240, R260). -/
def State.owedWins (s : State) (r : BankRef) : List Nat :=
  let b := s.bank r
  let m := (s.tile (r.tile % 512)).mx
  let queued := ((m.tq ++ m.lq).filter (fun c => c.owner == r && c.thread == b.thread && c.started.isNone)).map (·.win)
  match b.wait with
  | some (.mxFull c) => c.win :: queued
  | _ => queued

/-- A bank whose results, loads and stores have all been written, but for those that stay open (R177, R240, R260). -/
def State.bankQuiet (s : State) (r : BankRef) : Bool :=
  let b := s.bank r
  let open_ := b.wins.filter (fun w => w.result.isNone)
  b.pend.isEmpty && b.rlx.isEmpty && open_.all (fun w => (s.owedWins r).contains w.id) && (match b.wait with
    | none => true
    | some w => w.savable (open_ != []))

/-- A context of a tile with bank 0 running and quiet. -/
def State.ctxQuiet (s : State) (tile slot : Nat) : Bool :=
  (s.ctx tile slot).active == 0 && (s.ctx tile slot).switch.isNone && s.bankQuiet ⟨tile, slot, 0⟩

/-- A matrix command of a task is under way: a step in the array, or another command that has started and not completed. -/
def State.mxStarted (s : State) (id : Nat) : Bool :=
  s.tiles.any (fun y => (y.2.mx.tq ++ y.2.mx.lq).any (fun c =>
    (c.task == id || c.sender == id) && (if c.isStep then c.inArray else c.started.isSome)))

/-- The BTE commands of a task hold up its save: copies run, or requested bursts have not returned (R298). -/
def State.bteHolds (s : State) (t : Task) : Bool :=
  (s.tile t.tile).bte.any (fun c => c.task == t.id) ||
    (s.tile t.tile).breads.any (fun c => c.task == t.id && c.bursts.any (fun u => u.data.isNone && !c.parked.contains u.ix))

/-- Step 2 of R400 is met: for a quantum switch the copies go on (R402). -/
def State.saveReady (s : State) (t : Task) : Bool :=
  t.staged && !s.seized t.tile && t.slots.all (s.ctxQuiet t.tile) && !s.mxStarted t.id && (t.quantum || !s.bteHolds t)

/-- A wait-list entry or parked request withdrawn at a rung-2 save: the instruction issues again after the restore, from the fetch buffer as it
stood, and is not counted a second time (R138, R260, R356). -/
def Bank.reissue (b : Bank) : Bank :=
  let again := { b with wait := none, pc := b.waitPc, fbuf := b.waitBuf ++ b.fbuf, counted := true }
  match b.wait with
  | some (.fe ..) | some (.batch ..) | some (.arrive ..) => again
  | some (.resv _ _ _ _ _ win _) => { again with wins := again.wins.filter (fun w => w.id != win || win == 0) }
  | some (.desc _ _ _ _ _ _ ks) => again.giveBack ks
  | some (.page ..) | some (.fetch ..) => { b with wait := none }
  | some (.deliver reg val _) => { b with wait := some (.deliver reg val true) }
  | _ => b

/-- Registers beyond the header's counts are not saved (R47). -/
def Bank.trim (l : Launch) (b : Bank) : Bank :=
  { b with
    g := b.g.filter (fun x => decide (x.1 < l.gCount))
    v := b.v.filter (fun x => decide (x.1 < l.vCount))
    od := b.od.filter (fun x => decide (x.1 < l.odCount)) }

/-- The contexts of a task without the registers that a save leaves out. -/
def State.trimTask (s : State) (l : Launch) (t : Task) : State :=
  t.slots.foldl (fun s k => s.setCtx t.tile k { s.ctx t.tile k with b0 := (s.ctx t.tile k).b0.trim l }) s

/-- Every request of a bank taken out of its tenant's parked ones, and its tree message out of the network. -/
def State.recall (s : State) (t : Task) : State :=
  let mine := fun (r : BankRef) => r.tile == t.tile && t.slots.contains r.slot
  let out := fun (p : Parked) => match p.who with
    | .thread b => mine b
    | .fetch b => mine b
    | .burst tile id _ => tile == t.tile && (s.tile tile).breads.any (fun c => c.id == id && c.task == t.id)
    | _ => false
  { s with
    net := s.net.filter (fun m => match m with
      | .deliver src _ _ _ _ _ task => !(mine src && task == t.id)
      | _ => true)
    tenants := s.tenants.map (fun (x : Nat × Tenant) =>
      (x.1, { x.2 with parked := x.2.parked.filter (fun p => !out p), resend := x.2.resend.filter (fun p => !out p) })) }

/-- The bursts of a task in the burst queue (R293). -/
def State.taskBursts (s : State) (t : Task) : List Burst :=
  ((s.tile t.tile).breads.filter (fun c => c.task == t.id)).flatMap (fun c =>
    c.bursts.filter (fun u => u.queued.isSome && u.data.isSome && u.born.isNone))

/-- Bytes of a task's frame (R400). -/
def State.frameBytes (s : State) (l : Launch) (t : Task) : Nat :=
  let per := 8 * l.gCount + vlBits t.tile / 8 * l.vCount + 8 * l.odCount + 192
  let mx := if (s.tile t.tile).mx.owner = some t.id then 22784 else 0
  (256 + l.per + t.slots.length * per + mx + 80 * (s.taskBursts t).length + 63) / 64 * 64

/-- The registers of a context as a frame holds them, within the header's counts (R47, R400). -/
def Bank.image (b : Bank) (l : Launch) (vlq : Nat) : List Byte :=
  (List.range l.gCount).flatMap (fun i => natBytes 8 (tget 0 b.g i).toNat) ++
    (List.range l.vCount).flatMap (fun i => natBytes vlq (tget 0 b.v i).toNat) ++
    (List.range l.odCount).flatMap (fun i => natBytes 8 (tget 0 b.od i).toNat)

/-- A task's matrix set as a frame holds it: two planes, their scale words, and two banks at 5 bytes an element (R400). -/
def Matrix.image (m : Matrix) : List Byte :=
  let plane := fun (p : Plane) => (List.range 1024).map (fun i => tget 0 p.bytes i)
  let scales := fun (p : Plane) => (List.range 64).flatMap (fun i => natBytes 2 (tget 0 p.scales i).toNat)
  let bank := fun (a : Tbl (BitVec 40)) => (List.range 2048).flatMap (fun i => natBytes 5 (tget 0 a i).toNat)
  plane m.active ++ plane m.shadow ++ scales m.active ++ scales m.shadow ++ bank m.acc0 ++ bank m.acc1

/-- Known bytes, and behind them bytes whose layout the spec does not give: free values (log entry 2). -/
def State.withFree (s : State) (known : List Byte) (n : Nat) : State × List Byte := (s.drawn, known ++ natBytes n s.free)

/-- The frame of a task in the order of R400: task state, run, contexts, matrix set and bursts, and its padding. -/
def State.frame (s : State) (l : Launch) (t : Task) : State × List Byte :=
  let x := s.tile t.tile
  let add := fun (acc : State × List Byte) (known : List Byte) (n : Nat) => let p := acc.1.withFree known n; (p.1, acc.2 ++ p.2)
  let acc := add (s, []) [] 256
  let acc := t.slots.foldl (fun acc k => add acc ((s.ctx t.tile k).b0.image l (vlBits t.tile / 8)) 192)
    (acc.1, acc.2 ++ s.bytes (lsLoc t.tile t.base) l.per)
  let acc := (acc.1, acc.2 ++ if x.mx.owner = some t.id then x.mx.image else [])
  let acc := (s.taskBursts t).foldl (fun acc u => add acc (natBytes 64 (u.data.getD 0).toNat) 16) acc
  add acc [] (s.frameBytes l t - acc.2.length)

/-- The lowest free place of a frame in the tenant's save area (R400). -/
def State.framePlace (s : State) (tenant n : Nat) : Option Nat :=
  let size := dfld (s.tenant tenant).saveSize 39 12 * 4096
  let held := (s.saved.filter (fun v => (match s.launch? v.task.launch with
    | some l => l.tenant == tenant
    | none => false))).filterMap (·.frame)
  lowestRun held n size

/-- Consecutive bytes written at listed locations. -/
def putBytesAt : List (Nat × Nat) → List Byte → State → State
  | [], _, s => s
  | (loc, n) :: ps, bs, s => putBytesAt ps (bs.drop n) (s.storeBytes loc (bs.take n))

/-- The frame of a task written into its tenant's save area (R400). -/
def State.writeFrame (s : State) (tenant at_ : Nat) (bs : List Byte) : Option State :=
  let va := dfld (s.tenant tenant).save 47 12 * 4096 + at_
  match s.runLocs (feReq tenant) 1 (bs.length / 64 + 2) va bs.length [] with
  | (s, .ok locs) => some (putBytesAt locs bs s)
  | (_, .error _) => none

/-- Step 3 of R400 and the freeing of the contexts and run. -/
def State.saveTask (s : State) (l : Launch) (t : Task) (frame : Nat × Nat) : State :=
  let s := s.recall t
  let s := t.slots.foldl (fun s k =>
    let c := s.ctx t.tile k
    (s.withdraw ⟨t.tile, k, 0⟩).setCtx t.tile k { c with b0 := (c.b0.reissue).trim l, b1 := c.b1.trim l }) s
  let s := s.putAway t
  let x := s.tile t.tile
  let own := x.mx.owner == some t.id
  let loc := lsLoc t.tile t.base
  let v : Saved := {
    task := { t with saving := false }, bytes := s.bytes loc l.per,
    tags := x.tags.filter (fun w => decide (t.base / 8 ≤ w) && decide (w < (t.base + l.per) / 8)),
    mx := if own then some x.mx else none, breads := x.breads.filter (fun c => c.task == t.id), frame := some frame, quantum := false }
  let mx := if own then { leash := x.mx.leash, accL := x.mx.accL, lq := x.mx.lq, frozen := x.mx.frozen } else x.mx
  let s := s.setTile t.tile { x with mx := mx, breads := x.breads.filter (fun c => c.task != t.id) }
  { s with tasks := s.tasks.filter (fun y => y.id != t.id), saved := s.saved ++ [v] }

/-- A task that does not fit in the save area takes rung 3 at once, when the ladder permits it (R399). -/
def State.saveShort (s : State) (t : Task) : State :=
  match s.rootOf t with
  | none => s
  | some k =>
    match (s.queue k).ladder with
    | some d =>
      if 3 ≤ d.deepest then (s.resetTask t).markRung k 3 0x304
      else s.setTask { t with saving := false }
    | none => s.setTask { t with saving := false }

/-! ### Quanta (R402) -/

/-- The task of a deterministic launch that R123 places next on the tile and group of another one: the first unplaced index that lies a multiple of
N · P away. -/
def Launch.detNext (l : Launch) (t : Task) : Option Nat :=
  let np := (rectTiles l.rect).length * detGroups l
  match l.again.find? (fun i => i % np == t.index % np) with
  | some i => some i
  | none =>
    let j := l.next + (t.index % np + np - l.next % np) % np
    if j < l.taskCount ∧ ¬ l.closed then some j else none

/-- The waiting work that could use a task's contexts: launch, task index, slots and run. In a deterministic launch it is the task that R123 places
next there, whether or not its turn has come (R402, R412); where its run would be the pinned one, it cannot be placed (log entry 51). -/
def State.waitingWork (s : State) (l : Launch) (t : Task) : Option (Launch × Nat × List Nat × Nat) :=
  let fits := fun (w : Launch) =>
    match w.nextTask with
    | none => none
    | some i =>
      if w.mode = 2 ∨ ¬ inRect w.rect t.tile ∨ t.slots.length < w.quota ∨ (s.reservedBy t.tile).isSome ∨ s.drained w t.tile then none
      else (lowestRun (s.runs t.tile) w.per (taskSpace t.tile)).map (fun a => (w, i, t.slots.take w.quota, a))
  if l.mode = 2 then (if l.per = 0 then (l.detNext t).map (fun j => (l, j, t.slots, (detSpot l j).2.2)) else none)
  else ((s.launches.filter (fun w => decide (l.prio ≤ w.prio))).foldl (fun (best : Option (Launch × Nat × List Nat × Nat)) w =>
    match fits w, best with
    | none, b => b
    | some x, none => some x
    | some x, some y => if y.1.prio < w.prio then some x else some y) none)

/-- LEFT of every context of a task reloaded from LEN. -/
def State.reloadQuantum (s : State) (t : Task) : State :=
  t.slots.foldl (fun s k =>
    let c := s.ctx t.tile k
    s.setCtx t.tile k { c with b0 := if c.b0.task = t.id then { c.b0 with quantLeft := quantSeed c.b0.quantLen } else c.b0 }) s

/-- QUANTUM_EXPIRY: the task of a context whose LEFT is 0 stops to switch out for waiting work, or runs on. -/
def execQuantumExpiry (tile slot : Nat) (s : State) : Out :=
  let b := (s.ctx tile slot).b0
  match s.tasks.find? (fun t => t.id == b.task) with
  | none => .next s
  | some t =>
    if b.quantLeft ≠ 0 ∨ ¬ b.seeded ∨ t.killing ∨ t.saving ∨ (s.ctx tile slot).active ≠ 0 ∨ s.seized tile then .next s
    else
      match s.launch? t.launch with
      | none => .next s
      | some l =>
        if (s.waitingWork l t).isSome then .next (s.setTask { t with saving := true, quantum := true })
        else .next (s.reloadQuantum t)

/-- The switch: the contexts are put away with the run pinned, and the waiting task is placed on them. In a deterministic launch the stopped task
waits until that task's turn in the ascending order of R116 has come. -/
def State.quantumSwitch (s : State) (l : Launch) (t : Task) : State :=
  match s.waitingWork l t with
  | none => (s.setTask { t with saving := false, quantum := false }).reloadQuantum t
  | some (w, i, slots, base) =>
    if w.mode = 2 ∧ w.nextTask ≠ some i then s
    else
      let s := ((s.reloadQuantum t).trimTask l t).putAway t
      let v : Saved := { task := { t with saving := false }, bytes := [], tags := [], mx := none, breads := [], frame := none, quantum := true }
      let s := { s with tasks := s.tasks.filter (fun y => y.id != t.id), saved := s.saved ++ [v] }
      s.placeTask w i t.tile slots base

/-- TASK_SAVE_COMPLETE: a stopped task is quiet: it is saved, or switched out. -/
def execTaskSaveComplete (id : Nat) (s : State) : Out :=
  match s.tasks.find? (fun t => t.id == id) with
  | none => .next s
  | some t =>
    match s.launch? t.launch with
    | none => .next s
    | some l =>
      if ¬ t.saving ∨ t.killing ∨ ¬ s.saveReady t then .next s
      else if t.quantum then .next (s.quantumSwitch l t)
      else
        let n := s.frameBytes l t
        match s.framePlace l.tenant n with
        | none => .next (s.saveShort t)
        | some a =>
          let q := s.frame l t
          match q.1.writeFrame l.tenant a q.2 with
          | none => .next (s.saveShort t)
          | some s => .next (s.saveTask l t (a, n))

/-! ### Restoring (R401) -/

/-- A restored bank looks again at what it waits for: a barrier's generation or batch, its inboxes, a record word (R288); an LDT whose reads a page
holds up issues them again (R260). -/
def State.lookAgain (s : State) (quantum : Bool) (tile slot : Nat) : State :=
  let r : BankRef := ⟨tile, slot, 0⟩
  match (s.bank r).wait with
  | some (.barrier k v reg) => s.barWait r k v reg
  | some (.batch minor k reg) => s.arrive r minor k reg
  | some (.rsrv reg a) => s.serveTree r reg a
  | some (.copy ..) => s.copyWake r
  | _ => if quantum then s else s.resumeLdt r 256

/-- The run of a saved task written back, with its tags; a word whose tag so changes serves its list (R259). -/
def State.refill (s : State) (v : Saved) : State :=
  let t := v.task
  let s := s.storeBytes (lsLoc t.tile t.base) v.bytes
  let s := (List.range (v.bytes.length / 8)).foldl (fun s i =>
    let loc := lsLoc t.tile (t.base + 8 * i)
    let full := v.tags.contains (t.base / 8 + i)
    if s.tag loc = full then s else s.changeTag loc full) s
  let x := s.tile t.tile
  s.setTile t.tile { x with breads := x.breads ++ v.breads.map (fun c => { c with parked := [] }) }

/-- A task's matrix set put back beside the leash set, with the steps counted since its owner claimed it (R234). -/
def State.refillMx (s : State) (tile : Nat) (m : Option Matrix) : State :=
  match m with
  | none => s
  | some m =>
    let x := s.tile tile
    s.setTile tile { x with mx := { m with leash := x.mx.leash, accL := x.mx.accL, lq := x.mx.lq, frozen := x.mx.frozen } }

/-- TASK_RESTORE: the first saved task that can be restored, ahead of unplaced tasks of no higher priority. -/
def execTaskRestore (id : Nat) (s : State) : Out :=
  match s.saved.find? s.restorable with
  | none => .next s
  | some v =>
    let t := v.task
    let prio := ((s.launch? t.launch).map (·.prio)).getD 0
    let ahead : Bool := match s.placeNext with
      | some l => decide (prio < l.prio)
      | none => false
    if t.id ≠ id ∨ ahead then .next s
    else
      let s := { s with saved := s.saved.filter (fun w => w.task.id != id), tasks := s.tasks ++ [{ t with saving := false, quantum := false }] }
      let s := if v.quantum then s else (s.refill v).refillMx t.tile v.mx
      let s := t.slots.foldl (fun s k => s.lookAgain v.quantum t.tile k) (s.takeBack t v.quantum)
      .next (match s.rootOf t with
        | some k => s.unsave k
        | none => s)

/-! ### Kill-quiet (R403) -/

/-- A message of a killed task. -/
def Msg.isOf (id : Nat) : Msg → Bool
  | .entry _ _ _ task => task == id
  | .notice _ _ _ task => task == id
  | .credit _ _ _ task => task == id
  | .deliver _ _ _ _ _ _ task => task == id
  | .arrival _ _ _ task => task == id
  | .mcmd _ _ _ c => c.sender == id
  | .mcmdReply _ task _ => task == id
  | .seize _ z => z.task == id
  | .seizeReply _ task _ => task == id
  | _ => false

/-- The requests of a task among those parked on pages. -/
def State.parkedOf (s : State) (id : Nat) (p : Parked) : Bool :=
  match p.who with
  | .thread b => (s.bank b).task == id
  | .fetch b => (s.bank b).task == id
  | .copy tile k _ => (s.tile tile).bte.any (fun c => c.id == k && c.task == id)
  | .burst tile k _ => (s.tile tile).breads.any (fun c => c.id == k && c.task == id)
  | .reduction tile k => (s.tile tile).reds.any (fun c => c.id == k && c.task == id)
  | .staging k => k == id
  | .digest _ => false

/-- A tile's work for a killed task discarded. -/
def Tile.discard (t : Tile) (id : Nat) : Tile :=
  let keep := fun (c : MxCmd) => c.task != id && c.sender != id
  { t with
    bte := t.bte.filter (fun c => c.task != id)
    breads := t.breads.filter (fun c => c.task != id)
    reds := t.reds.filter (fun c => c.task != id)
    mx := { t.mx with tq := t.mx.tq.filter keep, lq := t.mx.lq.filter keep } }

/-- A bank of a killed task: ports unbound, reservations cancelled with their record, waits removed, and the bank FREE. -/
def State.killBank (s : State) (id : Nat) (r : BankRef) : State :=
  if (s.bank r).task ≠ id then s
  else
    let s := ((s.setBank r { s.bank r with wins := [], rlx := [], wait := none, pend := [] }).unbindAll r).cancelResv r |>.withdraw r
    s.setBank r {}

/-- A slot of a killed task, whose bank 0 stands at a tile number: its banks, and the slot disarmed; an activation that ran is gone. -/
def State.killSlot (s : State) (id at_ tile slot : Nat) : State :=
  let running := (s.bank ⟨tile, slot, 1⟩).task == id && (s.bank ⟨tile, slot, 1⟩).kind == 3
  let s := (s.killBank id ⟨at_, slot, 0⟩)
  let s := if isXa tile then s.killBank id ⟨tile, slot, 1⟩ else s
  let c := s.ctx tile slot
  let mine := match c.reflex.preset with
    | some p => p.task == id
    | none => false
  s.setCtx tile slot { c with
    active := if running then 0 else c.active, switch := if running || mine then none else c.switch,
    reflex := if mine then { c.reflex with armed := false, active := false, preset := none, disarm := false } else c.reflex }

/-- Everything of a killed task discarded wherever it stands. -/
def State.discardTask (s : State) (t : Task) (away : Bool) (breads : List BreadCmd) : State :=
  let id := t.id
  let at_ := if away then awayTile t.tile id else t.tile
  let waiting := t.slots.filterMap (fun k => match (s.bank ⟨at_, k, 0⟩).wait with
    | some (.bteFullB c) => if c.task = id then some c else none
    | _ => none)
  let pins := (breads ++ waiting ++ s.tiles.flatMap (fun y => y.2.breads.filter (fun c => c.task == id))).flatMap (·.pins)
  let s := { s with
    net := s.net.filter (fun m => !m.isOf id)
    tenants := s.tenants.map (fun (x : Nat × Tenant) =>
      (x.1, { x.2 with parked := x.2.parked.filter (fun p => !s.parkedOf id p), resend := x.2.resend.filter (fun p => !s.parkedOf id p) }))
    mailboxes := s.mailboxes.map (fun (m : Nat × Mailbox) =>
      (m.1, { m.2 with pubs := m.2.pubs.filter (fun p => p.task != id), reads := m.2.reads.filter (fun r => (s.bank r.1).task != id) })) }
  let s := { s with tiles := s.tiles.map (fun (x : Nat × Tile) => (x.1, x.2.discard id)) }
  let s := t.slots.foldl (fun s k => s.killSlot id at_ t.tile k) s
  let s := pins.foldl (fun s p => s.unpinPage p.1 p.2) s
  if away then { s with ctxs := t.slots.foldl (fun c k => tdel c (at_ * 8 + k)) s.ctxs } else s

/-- A killed task can still write: a step of it is in the array, or it holds a seizure (R376, R403). -/
def State.killPending (s : State) (id : Nat) : Bool :=
  s.mxStarted id || s.tiles.any (fun y => y.2.seize.st != 0 && y.2.seize.task == id)

/-- The barrier slots of a launch on a tile, freed when no other task of it is there, or is saved from there (R352, R356). -/
def State.freeBars (s : State) (tile launch : Nat) : State :=
  if s.tasks.any (fun t => t.tile == tile && t.launch == launch) ∨ s.saved.any (fun v => v.task.tile == tile && v.task.launch == launch) then s
  else s.setTile tile (dropSlots launch (s.tile tile))

/-- A task index put among those to be placed again, in ascending order (R116). -/
def insertAsc (i : Nat) : List Nat → List Nat
  | [] => [i]
  | j :: js => if i ≤ j then i :: j :: js else j :: insertAsc i js

/-- The end of a kill: a reset task goes back to the head of its launch's queue (R116, R399). -/
def State.endKill (s : State) (t : Task) : State :=
  let s := (s.clearMatrix t).freeBars t.tile t.launch
  let s := match s.launch? t.launch with
    | some l =>
      if t.why = 1 ∧ ¬ l.cancelled ∧ ¬ l.faulted ∧ ¬ l.failed then s.setLaunch { l with again := insertAsc t.index l.again, reset := true } else s
    | none => s
  match s.rootOf t with
  | some k => s.unsave k
  | none => s

/-- KILL_QUIET: no write of the task can be performed any more; its contexts, run and obligations are gone. -/
def execKillQuiet (id : Nat) (s : State) : Out :=
  match s.task? id with
  | none => .next s
  | some t =>
    if ¬ t.killing ∨ s.killPending id then .next s
    else
      let away := !s.resident id
      let breads := ((s.saved.find? (fun v => v.task.id == id)).map (·.breads)).getD []
      let s := s.discardTask t away breads
      let s := { s with tasks := s.tasks.filter (fun x => x.id != id), saved := s.saved.filter (fun v => v.task.id != id) }
      .next (s.endKill t)

/-! ### Watchdogs (R125, R404) -/

/-- A wait that the starvation watchdog counts as parked (R125). -/
def Wait.parked : Wait → Bool
  | .fe .. | .chanRead .. | .credit .. | .chunb .. | .barrier .. | .batch .. | .arrive .. | .copy .. | .bteFull .. | .bteFullB ..
  | .resv .. => true
  | _ => false
/-- A wait that the park watchdog counts (R404). -/
def Wait.watched (w : Wait) : Bool :=
  w.parked || (match w with
    | .mwait | .mxFull .. | .rsrv .. | .deliver .. => true
    | _ => false)

/-- A context's active bank waits in a way that counts. -/
def Ctx.waits (c : Ctx) (p : Wait → Bool) : Bool :=
  match (c.bank c.active).wait with
  | some w => p w
  | none => false

/-- The queues whose launches hold parked contexts in a launch's set. -/
def State.parkers (s : State) (l : Launch) (k : Nat) : Bool :=
  s.tasks.any (fun t => s.rootOf t == some k && inRect l.rect t.tile && t.slots.any (fun j => (s.ctx t.tile j).waits Wait.parked))

/-- The starvation watchdog's condition (R125). -/
def State.starved (s : State) (l : Launch) : Bool :=
  let ts := (rectTiles l.rect).filter (fun x => (s.reservedBy x).isNone)
  l.mode != 2 && s.stuck l && ts.all (fun x => (List.range 8).all (fun k => s.slotTaken x k)) &&
    ts.any (fun x => (List.range 8).any (fun k => (s.ctx x k).waits Wait.parked))

/-- The victim's ladder as the starvation watchdog starts it, or turns it to the starved launch: at rung 2 at least (R125, R398). -/
def starveLadder (old : Option Ladder) (now key : Nat) : Ladder :=
  match old with
  | none => ⟨2, 3, now, some key, true⟩
  | some d => ⟨max 2 d.rung, max 2 d.deepest, d.since, some key, d.starve || decide (d.rung < 2)⟩

/-- STARVATION_WATCHDOG: rung 2 on a victim, which keeps running and records 0x2C3; without one the timer restarts. -/
def execStarvationWatchdog (n : Nat) (s : State) : Out :=
  match s.launches[n]? with
  | none => .next s
  | some l =>
    match l.stuckSince with
    | none => .next s
    | some t =>
      if s.fe.starveOff ∨ s.boot.dtb < t + max 1 s.fe.tstarve * 10000 ∨ ¬ s.starved l then .next s
      else
        let s := s.setLaunch { l with stuckSince := some s.boot.dtb }
        match s.lowestQueue ((List.range 64).filter (fun k => decide ((s.queue k).prio ≤ l.prio) && s.parkers l k)) with
        | none => .next s
        | some k =>
          let s := s.applyRung2 k (starveLadder (s.queue k).ladder s.boot.dtb l.key)
          .next (s.setQueue k { s.queue k with cause := 0x2C3 })

/-- The address under which a thread of a tile names a location: its near window, a tile window, or the XA shared SRAM (R242). -/
def vaOfLoc (tile loc : Nat) : Nat :=
  if isXaLoc loc then 0xFE8000000000 + (loc - xaLoc)
  else if locTile loc = tile then locOff loc
  else 0xFF0000000000 + locTile loc * 0x400000 + locOff loc

/-- The word that a wait awaits, where one exists. -/
def Wait.word (tile : Nat) : Wait → Option Nat
  | .fe loc .. => some (vaOfLoc tile loc)
  | .resv loc .. => some (vaOfLoc tile loc)
  | .copy loc .. => some (vaOfLoc tile loc)
  | _ => none

/-- PARK_WATCHDOG: one record for a context parked for TWAIT on one wait. -/
def execParkWatchdog (tile slot bank : Nat) (s : State) : Out :=
  let r : BankRef := ⟨tile, slot, bank⟩
  let b := s.bank r
  match b.wait with
  | some w =>
    if 512 ≤ tile ∨ 2 ≤ bank ∨ ¬ w.watched ∨ b.waitLogged ∨ s.fe.twait = 0 ∨ s.boot.dtb < b.waitSince + s.fe.twait * 1000000 then .next s
    else
      let s := s.record (s.threadRec r 0x305 0 (engineId 5 0x1D8 2) (w.word tile) b.waitPc.toNat)
      .next (s.setBank r { s.bank r with waitLogged := true })
  | none => .next s

/-- Engine commands of a launch are in progress. -/
def State.launchEngines (s : State) (l : Launch) : Bool :=
  let mine := fun (id : Nat) => match s.task? id with
    | some t => t.launch == l.key
    | none => false
  s.tiles.any (fun y => y.2.bte.any (fun c => mine c.task) || y.2.breads.any (fun c => mine c.task) || y.2.reds.any (fun c => mine c.task) ||
    (y.2.mx.tq ++ y.2.mx.lq).any (fun c => mine c.task)) ||
  s.mailboxes.any (fun m => m.2.pubs.any (fun p => mine p.task)) || s.net.any (fun m => s.tasks.any (fun t => t.launch == l.key && m.isOf t.id))

/-- A launch stands still (R404): every live context of it is parked on a counted wait, none has a write outstanding, and no engine works for it. -/
def State.stalled (s : State) (l : Launch) : Bool :=
  let ts := s.tasks.filter (fun t => t.launch == l.key)
  let banks := ts.flatMap (fun t => t.slots.flatMap (fun k => (List.range 2).map (fun b => s.bank ⟨t.tile, k, b⟩)))
  let live := banks.filter (fun b => b.seeded && ts.any (fun t => t.id == b.task))
  !live.isEmpty && ts.all (fun t => t.staged) && live.all (fun b => match b.wait with
    | some w => w.watched
    | none => false) && live.all (fun b => b.rlx.all (fun a => !a.write)) && !s.saved.any (fun v => v.task.launch == l.key) &&
    !s.launchEngines l

/-- The timers of the starvation and stall watchdogs, kept with every step of the clock. -/
def State.watch (s : State) : State :=
  { s with launches := s.launches.map (fun l =>
      { l with
        stuckSince := if s.stuck l then some (l.stuckSince.getD s.boot.dtb) else none
        stallSince := if s.stalled l then some (l.stallSince.getD s.boot.dtb) else none
        stallLogged := s.stalled l && l.stallLogged }) }

/-- LAUNCH_STALL_WATCHDOG: one record for a launch stalled for TSTALL, and its kill when KILL = 1. -/
def execLaunchStallWatchdog (n : Nat) (s : State) : Out :=
  match s.launches[n]? with
  | none => .next s
  | some l =>
    match l.stallSince with
    | none => .next s
    | some t =>
      if s.fe.tstall = 0 ∨ l.stallLogged ∨ s.boot.dtb < t + s.fe.tstall * 1000000 ∨ ¬ s.stalled l then .next s
      else
        let s := s.setLaunch { l with stallLogged := true }
        let s := s.record { cause := 0x306, sev := if s.fe.kill then 3 else 0, engine := engineId 5 0x1D8 2, tenant := some l.tenant,
                            launch := s.launch? l.key }
        .next (if s.fe.kill then s.killLaunch l.key 2 else s)

end Sys2Proof.Machine
end

