-- ==== Sys2Proof/Machine/Boot.lean ====
section
/-! DEFINITION. Boot phases, the configuration table, negotiation, the device time base, and thermal steps (R20, R23 to R40, R431). -/

namespace Sys2Proof.Machine

/-! ### Power (R23, R35) -/

/-- POWER_ON_RESET: every register and memory of the device returns to its reset value; host memory, which is not the device's, and what
has left the device stay. -/
def execPowerOnReset (s : State) : Out :=
  .next { State.reset with
    focus := s.focus, tick := s.tick, hostReads := s.hostReads, msix := s.msix
    mem := s.mem.filter (fun (c : Host.Cell) => decide (hostLoc ≤ c.1) && decide (c.1 < xaLoc)) }

/-- POWER_GOOD: the DTB starts from 0 and the collar tile begins. -/
def execPowerGood (s : State) : Out :=
  .next (if s.boot.phase = 0 then { s with boot := { s.boot with phase := 1, dtb := 0 }, cycle := 0 } else s)

/-- Boot stops with an error code (R29). -/
def State.bootFail (s : State) (err : Nat) : State := { s with boot := { s.boot with phase := 15, err := err } }

/-! ### The configuration table (R30 to R32) -/

/-- Bytes of the flash. -/
def flashBytes (at_ n : Nat) : List Byte := (List.range n).map (fun i => Config.flash (at_ + i))

/-- A field of a table's bytes. -/
def cctFld (bs : List Byte) (off n : Nat) : Nat := bytesNat ((bs.drop off).take n)

/-- A copy that R31 accepts. -/
def cctValid (bs : List Byte) (digest : BitVec 256) : Bool :=
  let key := (bs.drop 0x100).take 1952
  cctFld bs 0 4 == 0x54435A47 && cctFld bs 4 2 / 256 == 1 && cctFld bs 6 2 == 0 && cctFld bs 0x12 6 == 0 && cctFld bs 0x24 4 == 0 &&
    cctFld bs 0x8A 118 == 0 && shake256 key == digest &&
    Config.mldsaVerify key (bs.take 0x8A0) ((bs.drop 0x8A0).take 3309) && decide (Config.fuseMinSequence ≤ cctFld bs 8 8)

/-- What boot keeps of a copy. -/
def cctOf (slot : Nat) (bs : List Byte) : Cct :=
  { slot := slot, seqNo := cctFld bs 8 8, hfCol := cctFld bs 0x10 1, hfWidth := cctFld bs 0x11 1, fwOffset := cctFld bs 0x18 8,
    fwLength := cctFld bs 0x20 4, fwHash := BitVec.ofNat 256 (cctFld bs 0x28 32), leashable := BitVec.ofNat 512 (cctFld bs 0x48 64),
    numVf := cctFld bs 0x88 1, bar2Init := cctFld bs 0x89 1, key := (bs.drop 0x100).take 1952 }

/-- A tile of the columns that a table casts. -/
def Cct.casts (c : Cct) (tile : Nat) : Bool := isLa tile && decide (c.hfCol ≤ colOf tile) && decide (colOf tile < c.hfCol + c.hfWidth)

/-- The field checks of R32. -/
def Cct.ok (c : Cct) : Bool :=
  decide (c.hfCol ≤ 24) && (c.hfWidth == 1 || (c.hfWidth == 2 && decide (c.hfCol ≤ 23))) && decide (c.numVf ≤ 8) && decide (c.bar2Init ≤ 8) &&
    (List.range 512).all (fun t => !c.leashable.getLsbD t || (isLa t && !c.casts t))

/-- The copy in use: the valid one, of two the one with the higher sequence, and copy A when they are equal (R31). -/
def pickCct (digest : BitVec 256) (a b : List Byte) : Option Cct :=
  match cctValid a digest, cctValid b digest with
  | true, true => some (if cctFld a 8 8 < cctFld b 8 8 then cctOf 1 b else cctOf 0 a)
  | true, false => some (cctOf 0 a)
  | false, true => some (cctOf 1 b)
  | false, false => none

/-- CCT_SELECT. -/
def execCctSelect (s : State) : Out :=
  if s.boot.phase ≠ 1 then .next s
  else
    match Config.fuseKeyDigest with
    | none => .next (s.bootFail 0x06)
    | some d =>
      match pickCct d (flashBytes 0 5517) (flashBytes 0x10000 5517) with
      | none => .next (s.bootFail 0x01)
      | some c =>
        let s := { s with boot := { s.boot with phase := 2, cct := some c, bar2 := [(0, c.bar2Init)] } }
        .next (if c.ok then s else s.bootFail 0x02)

/-- A firmware image loaded into the local store of every Headframe tile, as much as the store holds (R33, R421, log entry 97). -/
def State.loadImage (s : State) (image : List Byte) : State :=
  ((List.range 0x190).filter s.headframe).foldl
    (fun s t => s.storeBytes (lsLoc t (Config.imageAt t % lsBytes t)) (image.take (lsBytes t - Config.imageAt t % lsBytes t))) s

/-- FIRMWARE_IMAGE_LOAD (R33): the image is hashed and loaded, the network firewall is programmed, and the boot lock is set; the image's
version stands where R419 puts it. -/
def execFirmwareImageLoad (s : State) : Out :=
  match s.boot.cct with
  | none => .next s
  | some c =>
    if s.boot.phase ≠ 2 then .next s
    else
      let image := flashBytes c.fwOffset c.fwLength
      if shake256 image ≠ c.fwHash then .next (s.bootFail 0x03)
      else
        let s := s.loadImage image
        .next { s with boot := { s.boot with
          phase := 3, lock := true, firewall := true, fwHash := c.fwHash, fwVersion := BitVec.ofNat 16 (cctFld image 4 2) } }

/-! ### Memory (R27, R34) -/

/-- MEMORY_TRAINING: channels with one failed lane come up degraded; a channel that fails beyond that stops boot. -/
def execMemoryTraining (oneLane : List (Nat × Nat)) (dead : List Nat) (s : State) : Out :=
  if s.boot.phase ≠ 3 then .next s
  else
    let gone := dead.filter (· < 24)
    let one := oneLane.filter (fun (p : Nat × Nat) => decide (p.1 < 24) && decide (p.2 < 24) && !gone.contains p.1)
    let chok := BitVec.ofNat 24 (((List.range 24).filter (fun c => !gone.contains c)).foldl (fun m c => m + 2 ^ c) 0)
    let s := one.foldl (fun s p => s.setChannel p.1 { s.channel p.1 with degr := true, lane := p.2 }) s
    let s := { s with boot := { s.boot with chok := chok, degr := s.boot.degr || !one.isEmpty } }
    .next (if gone.isEmpty then { s with boot := { s.boot with phase := 4 } } else s.bootFail 0x04)

/-- MEMORY_CLEAR: every memory of the device reads zero, every tag is empty, no mailbox is published, and the version ranges appear. -/
def execMemoryClear (uncorrectable : Bool) (s : State) : Out :=
  if s.boot.phase ≠ 4 then .next s
  else if uncorrectable then .next (s.bootFail 0x05)
  else
    .next { s with
      mem := s.mem.filter (fun (c : Host.Cell) => decide (hostLoc ≤ c.1) && decide (c.1 < xaLoc))
      poison := []
      failing := []
      tiles := s.tiles.map (fun (t : Nat × Tile) => (t.1, { t.2 with tags := [] }))
      mailboxes := s.mailboxes.map (fun (m : Nat × Mailbox) => (m.1, { m.2 with version := 0, time := 0 }))
      boot := { s.boot with phase := 5, devRange := (List.range 7).map (fun i => (i, Config.deviceRange i)) } }

/-! ### The host link (R24) -/

/-- PCIE_LINK_TRAINING. -/
def execPcieLinkTraining (s : State) : Out :=
  .next (if s.boot.phase = 0 then s else { s with boot := { s.boot with linkUp := true } })

/-- Exponent of a function's BAR 2 size over 1 GiB (R250). -/
def State.bar2Exp (s : State) (fn : Nat) : Nat := tget 0 s.boot.bar2 fn

/-- CONFIGURATION_REQUEST: retried before a table is selected; afterwards it shows NumVF and the function's BAR 2 size, which it may change
within the function's range (log entry 3). -/
def execConfigurationRequest (fn : Nat) (resize : Option Nat) (s : State) : Out :=
  if s.boot.phase = 0 ∨ ¬ s.boot.linkUp then .next s
  else
    match s.boot.cct with
    | none => .next (s.answer fn (2 ^ 40) 1)
    | some c =>
      let ok : Nat → Bool := fun e => if fn = 0 then decide (e ≤ 8) else decide (fn ≤ c.numVf) && decide (e ≤ 6)
      let s := match resize with
        | some e => if ok e then { s with boot := { s.boot with bar2 := tset s.boot.bar2 fn e } } else s
        | none => s
      .next (s.answer fn (2 ^ 40) (BitVec.ofNat 512 (2 * c.numVf + s.bar2Exp fn * 2 ^ 8)))

/-! ### Negotiation (R36 to R40) -/

/-- A range word's low and high major and minor (R36). -/
def loMinor (r : BitVec 32) : Nat := fld r.toNat 7 0
def loMajor (r : BitVec 32) : Nat := fld r.toNat 15 8
def hiMinor (r : BitVec 32) : Nat := fld r.toNat 23 16
def hiMajor (r : BitVec 32) : Nat := fld r.toNat 31 24
/-- A major that a range covers, with its lowest and highest minor there. -/
def coversMajor (r : BitVec 32) (m : Nat) : Bool := decide (loMajor r ≤ m) && decide (m ≤ hiMajor r)
def topMinor (r : BitVec 32) (m : Nat) : Nat := if hiMajor r = m then hiMinor r else 255
def botMinor (r : BitVec 32) (m : Nat) : Nat := if loMajor r = m then loMinor r else 0

/-- The negotiated version of two ranges at a major, or at the next smaller common one (R37), counting down. -/
def negotiateAt (a b : BitVec 32) : Nat → Option (Nat × Nat)
  | 0 => none
  | k + 1 =>
    let n := min (topMinor a k) (topMinor b k)
    if coversMajor a k && coversMajor b k && decide (max (botMinor a k) (botMinor b k) ≤ n) then some (k, n) else negotiateAt a b k

/-- Negotiation of two range words (R37). -/
def negotiate (a b : BitVec 32) : Option (Nat × Nat) := negotiateAt a b 256

/-- A result word (R38): minor, major, and the success bit. -/
def resultWord (r : Option (Nat × Nat)) : Dword :=
  match r with
  | some (m, n) => BitVec.ofNat 64 (n + m * 2 ^ 8 + 2 ^ 16)
  | none => 0

/-- The interfaces that the host negotiates (R36, R40). -/
def hostIndices : List Nat := [0, 1, 2, 3, 4, 6]

/-- Every host interface negotiated: its result word goes to its CSR and its register (R38). -/
def State.negotiateAll (s : State) : State :=
  { s with boot := { s.boot with
      negotiated := hostIndices.foldl (fun t i =>
        tset t i (resultWord (negotiate (tget 0 s.boot.devRange i) (tget 0 s.boot.hostRange i)))) s.boot.negotiated } }

/-- Interfaces 0, 1 and 2 have a version. -/
def State.negotiatedOk (s : State) : Bool := [0, 1, 2].all (fun i => (tget 0 s.boot.negotiated i).getLsbD 16)

/-- Some queue is enabled. -/
def State.anyQueueOn (s : State) : Bool := s.queues.any (fun q => q.2.en)

/-- IVTCTL_WRITE (R38, R39): in phase 5 negotiation enters READY or stays; after READY it needs every queue off and sets or clears NEGF.
A value with other bits set is ignored whole (log entry 98). -/
def State.ivtctl (s : State) (val : Dword) : State :=
  if val ≠ 1 then s
  else if s.boot.phase = 5 then
    let s := s.negotiateAll
    if s.negotiatedOk then { s with boot := { s.boot with phase := 6 } } else s
  else if s.boot.phase = 6 ∧ ¬ s.anyQueueOn then
    let s := s.negotiateAll
    { s with boot := { s.boot with negf := !s.negotiatedOk } }
  else s

/-- Only the physical function reaches the registers that no rule gives to a virtual function. -/
def execIvtctlWrite (fn : Nat) (val : BitVec 64) (s : State) : Out := .next (if fn = 0 ∧ s.hostClear fn then s.ivtctl val else s)

/-! ### The time base (R35) -/

/-- PTM_EXCHANGE: the first one sets the DTB; later ones give the offset that slewing corrects. -/
def State.ptm (s : State) (host : Nat) : State :=
  if s.boot.phase = 0 ∨ ¬ s.boot.linkUp then s
  else if s.boot.dtbSync then { s with boot := { s.boot with slew := (host : Int) - (s.boot.dtb : Int) } }
  else { s with boot := { s.boot with dtb := host, dtbSync := true } }

def execPtmExchange (hostTime : Nat) (s : State) : Out := .next (s.ptm hostTime)
/-- PTM_REPEAT: the firmware's timer repeats the exchange. -/
def execPtmRepeat (hostTime : Nat) (s : State) : Out := .next (if s.boot.dtbSync then s.ptm hostTime else s)

/-- DTB_OFFSET_CHECK: an offset above 1 µs that has lasted 1 s is reported (R35, R431). -/
def execDtbOffsetCheck (offsetNs heldNs : Nat) (s : State) : Out :=
  .next (if s.boot.dtbSync ∧ 1000 < offsetNs ∧ 1000000000 ≤ heldNs then
    s.record { cause := 0x34B, sev := 1, engine := engineId 8 0x1DA 0, detail := offsetNs } else s)

/-- Nanoseconds of the DTB after a number of cycles at a clock step: a cycle at full clock is 5 / 13 ns (R5, R20). -/
def cycleNs (step c : Nat) : Nat := c * 80 / (13 * (16 - step))

/-- The common clock moves by one cycle, counted from power-good (R131): the DTB follows it from power-good, slewed by at most 1 ns in 10 µs and never downward (R35),
and the watchdogs' timers are kept. -/
def State.clock (s : State) : State :=
  if s.boot.phase = 0 then s
  else
    let d := cycleNs s.boot.clkStep (s.cycle + 1) - cycleNs s.boot.clkStep s.cycle
    let since := s.boot.slewNs + d
    let turn := decide (10000 ≤ since) && decide (1 ≤ d) && decide (s.boot.slew ≠ 0)
    let up := decide (0 < s.boot.slew)
    let dtb := if turn then (if up then s.boot.dtb + d + 1 else s.boot.dtb + d - 1) else s.boot.dtb + d
    let slew := if turn then (if up then s.boot.slew - 1 else s.boot.slew + 1) else s.boot.slew
    State.watch { s with
      cycle := s.cycle + 1, walks := [], boot := { s.boot with dtb := dtb, slew := slew, slewNs := if turn then 0 else min 10000 since } }

/-! ### Throttling (R20, R431) -/

/-- The junction temperature, in °C, has reached the grade limit: 110 of the extended grade, 100 of the standard one (R18). -/
def atLimit (temp : Nat) : Bool := decide (110 ≤ temp) || (decide (100 ≤ temp) && !Config.extendedGrade)

/-- THERMAL_THROTTLE: the junction's temperature, and at the grade limit one clock step down, with a record. That the record's DETAIL0 is the temperature and that its
ENGINE is the host interface is the model's choice (log entry 88). -/
def execThermalThrottle (temp : Nat) (s : State) : Out :=
  let s := { s with boot := { s.boot with tj := min 255 (temp + 64) } }
  .next (if atLimit temp then
    { s with boot := { s.boot with
      clkStep := min 15 (s.boot.clkStep + 1), thr := satInc s.boot.thr 0xFFFF } }.record
      { cause := 0x34A, sev := 1, engine := engineId 8 0x1DA 0, detail := temp }
    else s)

/-- THROTTLE_EXIT: one clock step back up; the temperature is a free one below the limit (log entry 94). -/
def execThrottleExit (s : State) : Out :=
  .next { s with
    tick := s.tick + 1, boot := { s.boot with clkStep := s.boot.clkStep - 1, tj := s.free % (if Config.extendedGrade then 174 else 164) } }

end Sys2Proof.Machine
end

