-- ==== Sys2Proof/Machine/Burst.lean ====
section
/-! DEFINITION. Burst-handler reads: BREAD, its bursts from request to birth, and the completion of the BTE's commands (R289 to R298). -/

namespace Sys2Proof.Machine

/-! ### BREAD (R289, R290) -/

/-- Bursts of a box (R291). -/
def CopyDesc.bursts (d : CopyDesc) : Nat := d.bytes / 64

/-- Lowest and highest in-bounds far byte of a box: dimension by dimension the in-bounds coordinates are consecutive. -/
def farRange (d : CopyDesc) (start : List Int) : Option (Nat × Nat) :=
  let dims := (List.range d.nd).map (fun i =>
    let c := start.getD i 0
    let lo : Int := max 0 c
    let hi : Int := min ((d.size.getD i 0 : Nat) : Int) (c + ((d.box.getD i 0 : Nat) : Int)) - 1
    let st := d.stride.getD i 0
    (decide (lo ≤ hi), min (st * lo) (st * hi), max (st * lo) (st * hi)))
  if dims.all (·.1) then
    let lo := dims.foldl (fun a p => a + p.2.1) (d.base : Int)
    let hi := dims.foldl (fun a p => a + p.2.2) (d.base : Int) + d.esz - 1
    some ((lo % 2 ^ 64).toNat, (hi % 2 ^ 64).toNat)
  else none

/-- A BREAD enters its tile's queue, or its thread waits for an entry; either way it pins its pages (R305). -/
def enterBread (c : BreadCmd) (s : State) : Out :=
  let t := s.tile s.cur.1
  if t.bteUsed < 16 then .next (s.setTile s.cur.1 { t with breads := t.breads ++ [c] }).retire else .next (s.park (.bteFullB c))

/-- The trap of a BREAD on its descriptor, by the checks of R290 in order. -/
def State.breadCause (s : State) (r : BankRef) (x0 x1 : BitVec 32) (x : Nat) : Option TrapInfo :=
  let me := s.bank r
  let d := parseDesc x
  let e := x0.toNat
  let f := x1.toNat
  let recAt := me.fbase + 8 * fld e 16 0
  let slots := ((s.task? me.task).map (·.slots)).getD []
  if descBad x then some ⟨0x181, 0, 0⟩
  else if 3 < d.nd ∨ d.box.getD 0 0 * d.esz % 64 ≠ 0 ∨ 2 ^ 24 < d.bursts then some ⟨0x1C1, 0, 0⟩
  else if bitOf e 17 ∨ bitOf e 18 ∨ fld e 31 24 ≠ 0 then some ⟨0x1C3, 0, 0⟩
  else if fld f 7 0 = 0 ∨ ¬ (List.range 8).all (fun k => !bitOf (fld f 7 0) k || slots.contains k) then some ⟨0x1C2, 0, 0⟩
  else if ((s.launchOf me).bind (fun l => l.role (fld f 15 8) 2)).isNone then some ⟨0x1C2, 0, 0⟩
  else if recEnd (r.tile % 512) me < recAt + 8 then some ⟨0x182, BitVec.ofNat 64 recAt, 0⟩
  else none

/-- The command that a BREAD of a bank sends, with the pages that it pins (R305). -/
def State.breadCmd (s : State) (r : BankRef) (v : Vec) (x0 x1 : BitVec 32) (pc : Va) (x : Nat) : State × BreadCmd :=
  let me := s.bank r
  let d := parseDesc x
  let e := x0.toNat
  let f := x1.toNat
  let start := (List.range d.nd).map (fun i => (BitVec.ofNat 32 (lane32 v i)).toInt)
  let c : BreadCmd := {
    id := s.fresh, owner := r, thread := me.thread, task := me.task, pc := pc, desc := natBytes 128 x, start := start,
    recAt := lsLoc (r.tile % 512) (me.fbase + 8 * fld e 16 0), rel := bitOf e 19, acq := bitOf e 20, scope := fld e 23 21, pool := fld f 7 0,
    role := fld f 15 8, tag := fld f 31 16, ods := me.od, total := d.bursts, next := 0, counted := 0, flags := 0, oob := false, inb := false,
    status := 0, bursts := [], pins := [], parked := [] }
  match farRange d start with
  | none => (s, c)
  | some (lo, hi) =>
    let q := s.pinRange me.tenant lo hi
    (q.1, { c with pins := q.2 })

/-- BREAD: a reserved scope by R73 (R333), the checks of R290 in order, and the command. -/
def execBread (a b : BitVec 5) (x0 x1 : BitVec 32) (s : State) : Out :=
  if 6 ≤ fld x0.toNat 23 21 then insTrap 0x006 s
  else if s.me.kind ≠ 0 then insTrap 0x00A s
  else vecGate [b] none s fun s => gate s fun s => readDesc (parkDesc 3 (s.rg a) 0 b x0 x1) (s.rg a) s fun x s =>
    match s.breadCause s.curRef x0 x1 x with
    | some i => trapAt i.cause i.addr i.val s
    | none =>
      let q := { s.usePorts [b] with fresh := s.fresh + 1 }.breadCmd s.curRef (s.rv b) x0 x1 s.me.pc x
      enterBread q.2 q.1

/-- The instruction of a bank that waits for its descriptor goes on with what it took at issue (R266, R267, R281): its request parks again, or
its checks trap, or its command enters the queue or waits for an entry. -/
def State.resumeDesc (s : State) (r : BankRef) : State :=
  let b := s.bank r
  let tile := r.tile % 512
  match b.wait with
  | some (.desc minor va near v x0 x1 ks) =>
    let stop := fun (i : TrapInfo) (s : State) => ((s.setBank r ((s.bank r).giveBack ks)).refuse r i)
    match s.readDescAgain r va with
    | (s, .error (.inr absent)) => s.parkRequest b.tenant (.thread r) absent 0 b.lid
    | (s, .error (.inl i)) => stop i s
    | (s, .ok x) =>
      let next := { s.freePorts r ks with fresh := s.fresh + 1 }
      let room := decide ((s.tile tile).bteUsed < 16)
      if minor = 3 then
        match s.breadCause r x0 x1 x with
        | some i => stop i s
        | none =>
          let q := next.breadCmd r v x0 x1 b.waitPc x
          let s := q.1
          let t := s.tile tile
          if room then (s.setTile tile { t with breads := t.breads ++ [q.2] }).wake r .none 0
          else s.setBank r { s.bank r with wait := some (.bteFullB q.2) }
      else
        match s.copyCause r minor near x0 x1 x (insInfo 0x006 b.waitPc (b.waitBuf.getD 1 0 ++ b.waitBuf.getD 0 0)) with
        | some i => stop i s
        | none =>
          let c := next.copyCmd r minor near v x0 x1 b.waitPc x
          let t := next.tile tile
          if room then (next.setTile tile { t with bte := t.bte ++ [c] }).wake r .none 0
          else next.setBank r { next.bank r with wait := some (.bteFull c) }
  | _ => s

/-! ### The queue (R270) -/

/-- BTE_COMMAND_ENTRY: the command of a bank that waited for a queue entry enters (contexts are numbered slot · 2 + bank). -/
def execBteCommandEntry (tile ix : Nat) (s : State) : Out :=
  let r : BankRef := ⟨tile, ix / 2, ix % 2⟩
  let t := s.tile tile
  if 16 ≤ t.bteUsed ∨ s.dying r then .next s
  else
    match (s.bank r).wait with
    | some (.bteFull c) => .next ((s.setTile tile { t with bte := t.bte ++ [c] }).wake r .none 0)
    | some (.bteFullB c) => .next ((s.setTile tile { t with breads := t.breads ++ [c] }).wake r .none 0)
    | _ => .next s

def State.setBread (s : State) (tile : Nat) (c : BreadCmd) : State :=
  let t := s.tile tile
  s.setTile tile { t with breads := t.breads.map (fun x => if x.id = c.id then c else x) }

/-! ### Bursts (R291 to R293) -/

/-- Tensor coordinates of element i of a burst. -/
def BreadCmd.elem (c : BreadCmd) (d : CopyDesc) (ix i : Nat) : List Int :=
  ((boxCoords d.box (64 * ix / d.esz + i)).zip c.start).map (fun (p : Nat × Int) => (p.1 : Int) + p.2)

/-- The bank 0 of a burst handler at birth (R292). -/
def handlerBank (s : State) (l : Launch) (t : Task) (c : BreadCmd) (u : Burst) (slot : Nat) : Bank :=
  let d := parseDesc (bytesNat c.desc)
  let x := c.elem d u.ix 0
  let g := [(1, BitVec.ofInt 64 (x.getD 0 0)), (2, BitVec.ofInt 64 (x.getD 1 0)), (3, BitVec.ofInt 64 (x.getD 2 0)),
    (4, BitVec.ofNat 64 u.ix), (5, BitVec.ofNat 64 c.tag), (6, l.arg)]
  { seedBank l (s.quantOf l) slot t.index t.base t.id 1 (l.hdr + BitVec.ofNat 48 ((l.role c.role 2).getD 0)) g with
    od := c.ods, v := [(0, (u.data.getD 0).setWidth 1024)], burst := some (c.id, u.ix) }

/-- A burst born in a slot. -/
def State.birth (s : State) (tile slot : Nat) (c : BreadCmd) (u : Burst) : State :=
  match s.task? c.task with
  | none => s
  | some t =>
    match s.launch? t.launch with
    | none => s
    | some l =>
      let s := s.setBread tile { c with bursts := c.bursts.map (fun x => if x.ix = u.ix then { x with born := some slot } else x) }
      s.reseed ⟨tile, slot, 0⟩ (handlerBank s l t c u slot)

/-- Entries of a tile's burst queue that bursts hold, requested ones included (R293). -/
def State.placesUsed (s : State) (tile : Nat) : Nat :=
  (s.tile tile).breads.foldl (fun n c => n + (c.bursts.filter (fun u => u.queued.isSome && u.born.isNone)).length) 0

/-- The oldest queued burst of a tile whose pool includes a slot. -/
def State.oldestQueued (s : State) (tile slot : Nat) : Option (BreadCmd × Burst) :=
  ((s.tile tile).breads.flatMap (fun c => (c.bursts.filter (fun u => u.queued.isSome && u.data.isSome && u.born.isNone &&
    bitOf c.pool slot)).map (fun u => (c, u)))).foldl (fun best x =>
      match best with
      | none => some x
      | some y => if x.2.queued.getD 0 < y.2.queued.getD 0 then some x else some y) none

/-- The lowest pool slot that is free and not promised. -/
def State.openSlot (s : State) (t : Task) (pool : Nat) : Option Nat :=
  (List.range 8).find? (fun k => bitOf pool k && s.opens t k)

/-- The next burst of a BREAD: counted when it lies wholly outside, else requested once it has a place: a slot that no queued burst takes, or an
entry (R291, R293). -/
def State.requestBurst (s : State) (tile : Nat) (c : BreadCmd) (t : Task) : State :=
  let d := parseDesc (bytesNat c.desc)
  let xs := (List.range (64 / d.esz)).map (c.elem d c.next)
  let inb := xs.any (inBounds d)
  let c' := { c with next := c.next + 1, inb := c.inb || inb, oob := c.oob || xs.any (fun x => !inBounds d x) }
  if ¬ inb then s.setBread tile { c' with counted := c.counted + 1 }
  else
    match (List.range 8).find? (fun k => bitOf c.pool k && s.opens t k && !s.awaited tile k) with
    | some k => s.setBread tile { c' with bursts := c.bursts ++ [⟨c.next, some k, none, [], none, none, none⟩] }
    | none =>
      if s.placesUsed tile < 16 then s.setBread tile { c' with bursts := c.bursts ++ [⟨c.next, none, some 0, [], none, none, none⟩] } else s

/-- A burst's 64 bytes: the elements read, and FILL for the others. -/
def burstData (d : CopyDesc) (got : List (Nat × Nat)) : Nat :=
  ((List.range (64 / d.esz)).map (fun i =>
    (((got.find? (fun g => g.1 == i)).map (·.2)).getD (d.fill % 2 ^ (8 * min d.esz 4))) * 2 ^ (8 * d.esz * i))).foldl (· + ·) 0

/-- The lowest slot promised to the bursts of a BREAD whose data have not returned. -/
def BreadCmd.lowestPromise (c : BreadCmd) : Option Nat :=
  (List.range 8).find? (fun k => c.bursts.any (fun u => u.data.isNone && u.promised == some k))

/-- The burst whose data return takes the BREAD's lowest promised slot, and the burst that held it takes its place (R293, R294): places are
reserved for reads, and bursts take them in the order in which they return. -/
def BreadCmd.seatFirst (c : BreadCmd) (ix : Nat) : BreadCmd :=
  match c.lowestPromise, c.bursts.find? (fun u => u.ix == ix) with
  | some k, some u => { c with bursts := c.bursts.map (fun x =>
      if x.ix = ix then { x with promised := some k, queued := none }
      else if x.data.isNone ∧ x.promised = some k then { x with promised := u.promised, queued := u.queued }
      else x) }
  | _, _ => c

/-- All data of a burst have returned: it is born in its promised slot, waits for it, or queues (R293). -/
def State.burstBack (s : State) (tile : Nat) (c : BreadCmd) (t : Task) (ix : Nat) (d : CopyDesc) (got : List (Nat × Nat)) : State :=
  let c := c.seatFirst ix
  let c := { c with bursts := c.bursts.map (fun x =>
    if x.ix = ix then
      { x with got := [], pass := none, data := some (BitVec.ofNat 512 (burstData d got)), queued := x.queued.map (fun _ => s.fresh) }
    else x) }
  let s := { s.setBread tile c with fresh := s.fresh + 1 }
  match c.bursts.find? (fun u => u.ix == ix) with
  | some u => (match u.promised with
    | some k => if s.slotFree t k then s.birth tile k c u else s
    | none => s)
  | none => s

/-- A burst's read fails: a page not present parks that read with its place kept; every other failure stops further requests (R295). -/
def State.burstFails (s : State) (tile : Nat) (c : BreadCmd) (ix tenant : Nat) (f : FarFail) : State :=
  let eng := engineId 1 tile 1
  let fail := fun (st : Nat) => { c with status := if c.status = 0 then st else c.status, bursts := c.bursts.filter (fun x => x.ix != ix) }
  match f with
  | .absent va =>
    (s.setBread tile { c with parked := c.parked ++ [ix] }).parkRequest tenant (.burst tile c.id ix) va 0 (s.engineLid c.task)
  | .fault va cause => (s.record (s.taskRec c.owner c.task 0x1C4 2 eng (some va) cause)).setBread tile (fail 0x10)
  | .poison va loc =>
    ((s.record ((s.taskRec c.owner c.task 0 2 0 (some va) 0).unreadable loc)).record
      { s.taskRec c.owner c.task 0x1C5 2 eng (some va) 0 with pa := if isDramLoc loc then some loc else none }).setBread tile (fail 0x11)

/-- The next granule of a requested burst is read, and with the last one its data have returned (R285, R291, R293). -/
def State.returnBurst (s : State) (tile : Nat) (c : BreadCmd) (t : Task) (u : Burst) : State :=
  let d := parseDesc (bytesNat c.desc)
  let q := s.engineReq c.owner c.task
  let l := (List.range (64 / d.esz)).filterMap (fun i =>
    let x := c.elem d u.ix i
    if inBounds d x && !u.got.any (fun g => g.1 == i) then some (i, x) else none)
  let put := fun (u : Burst) => { c with bursts := c.bursts.map (fun x => if x.ix = u.ix then u else x) }
  match readGranule q d (nextGranule d l) s with
  | (s, .error f) => s.burstFails tile c u.ix q.tenant f
  | (s, .ok r) =>
    match s.waitsUnit u.pass (r.map (·.2.1)) with
    | some p => s.setBread tile (put { u with pass := some p })
    | none =>
      let s := s.traceGranule tile ((r.head?).map (·.2.1))
      let got := u.got ++ r.map (fun x => (x.1, x.2.2))
      if l.length = r.length then s.burstBack tile c t u.ix d got else s.setBread tile (put { u with got := got, pass := none })

/-- BURST_DATA_RETURN: the next burst of a BREAD is counted or requested, or a requested burst's data return. -/
def execBurstDataReturn (tile ix burst : Nat) (s : State) : Out :=
  match (s.tile tile).breads[ix]? with
  | none => .next s
  | some c =>
    match s.task? c.task with
    | none => .next s
    | some t =>
      if c.parked.contains burst ∨ ¬ s.mayRead c.rel c.id c.owner c.task c.scope false then .next s
      else
        match c.bursts.find? (fun u => u.ix == burst) with
        | some u => if u.data.isSome then .next s else .next (s.returnBurst tile c t u)
        | none =>
          if burst = c.next ∧ c.next < c.total ∧ c.status = 0 ∧ ¬ t.saving ∧ (s.tile tile).reading < 32 then .next (s.requestBurst tile c t)
          else .next s

/-- BURST_BIRTH: a free slot takes the burst that was promised to it, else the oldest queued burst, whose lowest free pool slot it is (R292,
R293). -/
def execBurstBirth (tile slot : Nat) (s : State) : Out :=
  let free : BreadCmd → Bool := fun c => match s.task? c.task with
    | some t => s.slotFree t slot
    | none => false
  match ((s.tile tile).breads.flatMap (fun c => (c.bursts.filter (fun u => u.promised == some slot && u.born.isNone)).map (fun u => (c, u)))) with
  | (c, u) :: _ => if u.data.isSome ∧ free c then .next (s.birth tile slot c u) else .next s
  | [] =>
    match s.oldestQueued tile slot with
    | some (c, u) =>
      if free c ∧ ((s.task? c.task).bind (fun t => s.openSlot t c.pool)) = some slot then .next (s.birth tile slot c u) else .next s
    | none => .next s

/-! ### Completion (R277, R295) -/

/-- STATUS of a BREAD's record. -/
def BreadCmd.final (c : BreadCmd) : Nat :=
  if c.status ≠ 0 then c.status else if ¬ c.oob then 1 else if c.inb then 2 else 3

/-- A BREAD's record, its pins dropped and its entry freed. -/
def State.completeBread (s : State) (tile : Nat) (c : BreadCmd) : State :=
  let t := s.tile tile
  let s := s.setTile tile { t with breads := t.breads.filter (fun x => x.id != c.id) }
  let s := s.engineWrite (.mem c.recAt) 8 (c.counted % 2 ^ 32 + c.flags.toNat * 2 ^ 32 + c.final * 2 ^ 56) 5 tile
  let s := wakeCopies c.recAt s.ctxs s
  c.pins.foldl (fun s p => s.unpinPage p.1 p.2) s

/-- BTE_COMMAND_COMPLETE: a copy whose chunks are all done or which has failed, or a BREAD (numbered after the copies) whose bursts are all
counted or ended. -/
def execBteCommandComplete (tile ix : Nat) (s : State) : Out :=
  let t := s.tile tile
  match t.bte[ix]? with
  | some c =>
    if c.todo = [] ∧ ¬ ((s.task? c.task).map (·.killing)).getD false ∧ s.mayRead c.rel c.id c.owner c.task c.scope false then
      .next (s.completeCopy tile c)
    else .next s
  | none =>
    match t.breads[ix - t.bte.length]? with
    | some c =>
      if c.bursts = [] ∧ (c.next = c.total ∨ c.status ≠ 0) ∧ s.mayRead c.rel c.id c.owner c.task c.scope false then .next (s.completeBread tile c)
      else .next s
    | none => .next s

end Sys2Proof.Machine
end

