-- ==== Sys2Proof/Machine/Scalar.lean ====
section
/-! DEFINITION. Scalar, address and control instructions: MO 1 to 18 and their compressed forms (R175 to R195, R70). -/

namespace Sys2Proof.Machine

/-! ### Shared operations -/

/-- 1 or 0. -/
def flag (p : Bool) : Dword := if p then 1 else 0
/-- SignExtend of the low 32 bits (R178). -/
def low32s (x : Dword) : Dword := (x.setWidth 32).signExtend 64
/-- g[A] rotated right by s: bit i of the result is a[(i + s) mod 64] (R178). -/
def rotr64 (a : Dword) (s : Nat) : Dword := (a >>> s) ||| (a <<< (64 - s))
def minS (a b : Dword) : Dword := if a.slt b then a else b
def maxS (a b : Dword) : Dword := if b.slt a then a else b
def minU (a b : Dword) : Dword := if a.ult b then a else b
def maxU (a b : Dword) : Dword := if b.ult a then a else b
/-- Bits [127:64] of a product of two integers (R184). -/
def high64 (x : Int) : Dword := BitVec.ofInt 64 (x / 2 ^ 64)
/-- Quot, rounding toward zero, with the cases of R185. -/
def quotS (a b : Dword) : Dword := if b = 0 then -1 else BitVec.ofInt 64 (a.toInt.tdiv b.toInt)
def quotU (a b : Dword) : Dword := if b = 0 then -1 else BitVec.ofNat 64 (a.toNat / b.toNat)
/-- Rem = a - Quot(a, b) · b, and a for b = 0 (R185). -/
def remS (a b : Dword) : Dword := if b = 0 then a else BitVec.ofInt 64 (a.toInt.tmod b.toInt)
def remU (a b : Dword) : Dword := if b = 0 then a else BitVec.ofNat 64 (a.toNat % b.toNat)

/-- Number of 1 bits among the low `n` bits of a number. -/
def popFuel : Nat → Nat → Nat
  | 0, _ => 0
  | n + 1, x => x % 2 + popFuel n (x / 2)
/-- Number of low 0 bits, at most `n`. -/
def ctzFuel : Nat → Nat → Nat
  | 0, _ => 0
  | n + 1, x => if x % 2 = 1 then 0 else 1 + ctzFuel n (x / 2)
/-- Number of significant bits of a number below 2 ^ n. -/
def lenFuel : Nat → Nat → Nat
  | 0, _ => 0
  | n + 1, x => if x = 0 then 0 else 1 + lenFuel n (x / 2)
/-- The low `n` bits reversed. -/
def revFuel : Nat → Nat → Nat → Nat
  | 0, _, acc => acc
  | n + 1, x, acc => revFuel n (x / 2) (2 * acc + x % 2)

/-- The field of BFX, BFXU and BFI (R187): its position, its width cut at bit 63. -/
def fieldPos (b : Dword) : Nat := dfld b 5 0
def fieldWidth (b : Dword) : Nat := min (dfld b 14 8) (64 - fieldPos b)
def fieldOf (a b : Dword) : Nat := a.toNat / 2 ^ fieldPos b % 2 ^ fieldWidth b
def bfxu (a b : Dword) : Dword := if fieldWidth b = 0 then 0 else BitVec.ofNat 64 (fieldOf a b)
def bfx (a b : Dword) : Dword := if fieldWidth b = 0 then 0 else sext (fieldOf a b) (fieldWidth b)
/-- Bits [p + w - 1 : p] of the old value replaced by the low bits of a. -/
def bfi (old a b : Dword) : Dword :=
  if fieldWidth b = 0 then old
  else
    let m : Dword := BitVec.ofNat 64 (2 ^ fieldWidth b - 1)
    (old &&& ~~~(m <<< fieldPos b)) ||| ((a &&& m) <<< fieldPos b)

/-- A two-source instruction with a fixed-latency result (R175). -/
def alu (lat : Nat) (f : Dword → Dword → Dword) (d a b : BitVec 5) (s : State) : Out :=
  done d.toNat lat (f (s.rg a) (s.rg b)) s
/-- A register and an immediate. -/
def aluI (f : Dword → Dword) (d a : BitVec 5) (s : State) : Out := done d.toNat 2 (f (s.rg a)) s

/-- A branch: to the target when its condition holds, else to the next instruction (R189). -/
def branch (c : Bool) (disp : Va) (s : State) : Out := .next (if c then s.jump (s.me.pc + disp) else s.retire)
/-- Twice a signed offset, as a displacement of the PC (R62). -/
def disp2 {n : Nat} (o : BitVec n) : Va := (o.signExtend 48) <<< 1
/-- The link of a jump (R191). -/
def linkOf (s : State) : Dword := (s.me.pc + 4).setWidth 64
/-- A transfer to a register's address; an odd one traps (R59, R192). -/
def jumpReg (t : Dword) (link : Nat) (s : State) : Out :=
  if t.getLsbD 0 then insTrap 0x008 s else .next ((s.wgLat link 2 (linkOf s)).jump (t.setWidth 48))

/-! ### INTR (R178) -/

def execAdd (d a b : BitVec 5) (s : State) : Out := alu 2 (fun x y => x + y) d a b s
def execSub (d a b : BitVec 5) (s : State) : Out := alu 2 (fun x y => x - y) d a b s
def execAnd (d a b : BitVec 5) (s : State) : Out := alu 2 (fun x y => x &&& y) d a b s
def execOr (d a b : BitVec 5) (s : State) : Out := alu 2 (fun x y => x ||| y) d a b s
def execXor (d a b : BitVec 5) (s : State) : Out := alu 2 (fun x y => x ^^^ y) d a b s
def execAndn (d a b : BitVec 5) (s : State) : Out := alu 2 (fun x y => x &&& ~~~y) d a b s
def execShl (d a b : BitVec 5) (s : State) : Out := alu 2 (fun x y => x <<< (y.toNat % 64)) d a b s
def execShr (d a b : BitVec 5) (s : State) : Out := alu 2 (fun x y => x >>> (y.toNat % 64)) d a b s
def execSha (d a b : BitVec 5) (s : State) : Out := alu 2 (fun x y => x.sshiftRight (y.toNat % 64)) d a b s
def execRotr (d a b : BitVec 5) (s : State) : Out := alu 2 (fun x y => rotr64 x (y.toNat % 64)) d a b s
def execMin (d a b : BitVec 5) (s : State) : Out := alu 2 (fun x y => minS x y) d a b s
def execMax (d a b : BitVec 5) (s : State) : Out := alu 2 (fun x y => maxS x y) d a b s
def execMinu (d a b : BitVec 5) (s : State) : Out := alu 2 (fun x y => minU x y) d a b s
def execMaxu (d a b : BitVec 5) (s : State) : Out := alu 2 (fun x y => maxU x y) d a b s
def execCmpeq (d a b : BitVec 5) (s : State) : Out := alu 2 (fun x y => flag (x == y)) d a b s
def execCmpne (d a b : BitVec 5) (s : State) : Out := alu 2 (fun x y => flag (x != y)) d a b s
def execCmplt (d a b : BitVec 5) (s : State) : Out := alu 2 (fun x y => flag (x.slt y)) d a b s
def execCmpltu (d a b : BitVec 5) (s : State) : Out := alu 2 (fun x y => flag (x.ult y)) d a b s
def execCmpge (d a b : BitVec 5) (s : State) : Out := alu 2 (fun x y => flag (y.sle x)) d a b s
def execCmpgeu (d a b : BitVec 5) (s : State) : Out := alu 2 (fun x y => flag (y.ule x)) d a b s
/-- SEL reads the old g[D] (R176). -/
def execSel (d a b : BitVec 5) (s : State) : Out := alu 2 (fun x y => if s.rg d ≠ 0 then x else y) d a b s
def execAddw (d a b : BitVec 5) (s : State) : Out := alu 2 (fun x y => low32s (x + y)) d a b s
def execSubw (d a b : BitVec 5) (s : State) : Out := alu 2 (fun x y => low32s (x - y)) d a b s

/-! ### Immediates and constants (R179 to R183) -/

def execAddi (d a : BitVec 5) (i : BitVec 15) (s : State) : Out := aluI (fun x => x + i.signExtend 64) d a s
def execAndi (d a : BitVec 5) (i : BitVec 15) (s : State) : Out := aluI (fun x => x &&& i.signExtend 64) d a s
def execOri (d a : BitVec 5) (i : BitVec 15) (s : State) : Out := aluI (fun x => x ||| i.signExtend 64) d a s
def execXori (d a : BitVec 5) (i : BitVec 15) (s : State) : Out := aluI (fun x => x ^^^ i.signExtend 64) d a s
def execShli (d a : BitVec 5) (n : BitVec 6) (s : State) : Out := aluI (fun x => x <<< n.toNat) d a s
def execShri (d a : BitVec 5) (n : BitVec 6) (s : State) : Out := aluI (fun x => x >>> n.toNat) d a s
def execShai (d a : BitVec 5) (n : BitVec 6) (s : State) : Out := aluI (fun x => x.sshiftRight n.toNat) d a s
def execRotri (d a : BitVec 5) (n : BitVec 6) (s : State) : Out := aluI (fun x => rotr64 x n.toNat) d a s
def execCmpeqi (d a : BitVec 5) (i : BitVec 12) (s : State) : Out := aluI (fun x => flag (x == i.signExtend 64)) d a s
def execCmpnei (d a : BitVec 5) (i : BitVec 12) (s : State) : Out := aluI (fun x => flag (x != i.signExtend 64)) d a s
def execCmplti (d a : BitVec 5) (i : BitVec 12) (s : State) : Out := aluI (fun x => flag (x.slt (i.signExtend 64))) d a s
def execCmpltui (d a : BitVec 5) (i : BitVec 12) (s : State) : Out := aluI (fun x => flag (x.ult (i.signExtend 64))) d a s
def execCmpgei (d a : BitVec 5) (i : BitVec 12) (s : State) : Out := aluI (fun x => flag ((i.signExtend 64).sle x)) d a s
def execCmpgeui (d a : BitVec 5) (i : BitVec 12) (s : State) : Out := aluI (fun x => flag ((i.signExtend 64).ule x)) d a s
def execLih (d : BitVec 5) (i : BitVec 20) (s : State) : Out := done d.toNat 2 (i.signExtend 64 <<< 12) s
def execAddpc (d : BitVec 5) (i : BitVec 20) (s : State) : Out := done d.toNat 2 ((s.me.pc + (i.signExtend 48 <<< 12)).setWidth 64) s
def execLi64 (d : BitVec 5) (imm : BitVec 64) (s : State) : Out := done d.toNat 2 imm s

/-! ### MULDIV (R184, R185) -/

def execMul (d a b : BitVec 5) (s : State) : Out := alu 4 (fun x y => x * y) d a b s
def execMulh (d a b : BitVec 5) (s : State) : Out := alu 4 (fun x y => high64 (x.toInt * y.toInt)) d a b s
def execMulhu (d a b : BitVec 5) (s : State) : Out := alu 4 (fun x y => BitVec.ofNat 64 (x.toNat * y.toNat / 2 ^ 64)) d a b s
def execMulhsu (d a b : BitVec 5) (s : State) : Out := alu 4 (fun x y => high64 (x.toInt * y.toNat)) d a b s
def execDiv (d a b : BitVec 5) (s : State) : Out := alu 34 (fun x y => quotS x y) d a b s
def execDivu (d a b : BitVec 5) (s : State) : Out := alu 34 (fun x y => quotU x y) d a b s
def execRem (d a b : BitVec 5) (s : State) : Out := alu 34 (fun x y => remS x y) d a b s
def execRemu (d a b : BitVec 5) (s : State) : Out := alu 34 (fun x y => remU x y) d a b s
def execMulw (d a b : BitVec 5) (s : State) : Out := alu 4 (fun x y => low32s (x * y)) d a b s
/-- MADD reads the old g[D] (R176). -/
def execMadd (d a b : BitVec 5) (s : State) : Out := alu 4 (fun x y => s.rg d + x * y) d a b s

/-! ### BITS (R186, R187) -/

def execBfx (d a b : BitVec 5) (s : State) : Out := alu 2 bfx d a b s
def execBfxu (d a b : BitVec 5) (s : State) : Out := alu 2 bfxu d a b s
/-- BFI reads the old g[D] (R176). -/
def execBfi (d a b : BitVec 5) (s : State) : Out := alu 2 (fun x y => bfi (s.rg d) x y) d a b s
def execPopc (d a : BitVec 5) (s : State) : Out := aluI (fun x => BitVec.ofNat 64 (popFuel 64 x.toNat)) d a s
def execClz (d a : BitVec 5) (s : State) : Out := aluI (fun x => BitVec.ofNat 64 (64 - lenFuel 64 x.toNat)) d a s
def execCtz (d a : BitVec 5) (s : State) : Out := aluI (fun x => BitVec.ofNat 64 (ctzFuel 64 x.toNat)) d a s
def execBrev (d a : BitVec 5) (s : State) : Out := aluI (fun x => BitVec.ofNat 64 (revFuel 64 x.toNat 0)) d a s
def execBswap (d a : BitVec 5) (s : State) : Out := aluI (fun x => BitVec.ofNat 64 (bytesNat (natBytes 8 x.toNat).reverse)) d a s
def execSextb (d a : BitVec 5) (s : State) : Out := aluI (fun x => sext x.toNat 8) d a s
def execSexth (d a : BitVec 5) (s : State) : Out := aluI (fun x => sext x.toNat 16) d a s
def execSextw (d a : BitVec 5) (s : State) : Out := aluI (fun x => sext x.toNat 32) d a s
def execZextb (d a : BitVec 5) (s : State) : Out := aluI (fun x => zext x.toNat 8) d a s
def execZexth (d a : BitVec 5) (s : State) : Out := aluI (fun x => zext x.toNat 16) d a s
def execZextw (d a : BitVec 5) (s : State) : Out := aluI (fun x => zext x.toNat 32) d a s

/-! ### LEA (R188) -/

def execLea (d a b : BitVec 5) (i : BitVec 7) (c : BitVec 3) (s : State) : Out := alu 2 (fun x y => x + (y <<< c.toNat) + i.signExtend 64) d a b s

/-! ### Branches and jumps (R189 to R193) -/

def execBeq (a b : BitVec 5) (o : BitVec 12) (s : State) : Out := branch ((s.rg a) == (s.rg b)) (disp2 o) s
def execBne (a b : BitVec 5) (o : BitVec 12) (s : State) : Out := branch ((s.rg a) != (s.rg b)) (disp2 o) s
def execBlt (a b : BitVec 5) (o : BitVec 12) (s : State) : Out := branch ((s.rg a).slt (s.rg b)) (disp2 o) s
def execBge (a b : BitVec 5) (o : BitVec 12) (s : State) : Out := branch ((s.rg b).sle (s.rg a)) (disp2 o) s
def execBltu (a b : BitVec 5) (o : BitVec 12) (s : State) : Out := branch ((s.rg a).ult (s.rg b)) (disp2 o) s
def execBgeu (a b : BitVec 5) (o : BitVec 12) (s : State) : Out := branch ((s.rg b).ule (s.rg a)) (disp2 o) s
def execBbs (a b : BitVec 5) (o : BitVec 12) (s : State) : Out := branch ((s.rg a).getLsbD ((s.rg b).toNat % 64)) (disp2 o) s
def execBbc (a b : BitVec 5) (o : BitVec 12) (s : State) : Out := branch (!(s.rg a).getLsbD ((s.rg b).toNat % 64)) (disp2 o) s
def execBeqz (a : BitVec 5) (o : BitVec 12) (s : State) : Out := branch ((s.rg a) == 0) (disp2 o) s
def execBnez (a : BitVec 5) (o : BitVec 12) (s : State) : Out := branch ((s.rg a) != 0) (disp2 o) s
def execBltz (a : BitVec 5) (o : BitVec 12) (s : State) : Out := branch ((s.rg a).slt 0) (disp2 o) s
def execBgez (a : BitVec 5) (o : BitVec 12) (s : State) : Out := branch ((0 : Dword).sle (s.rg a)) (disp2 o) s
def execBgtz (a : BitVec 5) (o : BitVec 12) (s : State) : Out := branch ((0 : Dword).slt (s.rg a)) (disp2 o) s
def execBlez (a : BitVec 5) (o : BitVec 12) (s : State) : Out := branch ((s.rg a).sle 0) (disp2 o) s
/-- DBNZ writes g[A] - 1 whether or not it branches (R190). -/
def execDbnz (a : BitVec 5) (o : BitVec 12) (s : State) : Out := branch (s.rg a - 1 != 0) (disp2 o) (s.wgLat a.toNat 2 (s.rg a - 1))
def execJ (i : BitVec 25) (s : State) : Out := .next (s.jump (s.me.pc + disp2 i))
def execJl (i : BitVec 25) (s : State) : Out := .next ((s.wgLat 1 2 (linkOf s)).jump (s.me.pc + disp2 i))
def execJr (a : BitVec 5) (s : State) : Out := jumpReg (s.rg a) 0 s
def execJlr (d a : BitVec 5) (s : State) : Out := jumpReg (s.rg a) d.toNat s

/-! ### Compressed forms (R70) -/

/-- C.ILL traps as an illegal instruction. -/
def execCIll (_ : BitVec 10) (s : State) : Out := insTrap 0x001 s
def execCNop (s : State) : Out := .next s.retire
def execCMov (r f : BitVec 5) (s : State) : Out := alu 2 (fun x y => x + y) r 0 f s
def execCAdd (r f : BitVec 5) (s : State) : Out := alu 2 (fun x y => x + y) r r f s
def execCSub (r f : BitVec 5) (s : State) : Out := alu 2 (fun x y => x - y) r r f s
def execCAnd (r f : BitVec 5) (s : State) : Out := alu 2 (fun x y => x &&& y) r r f s
def execCOr (r f : BitVec 5) (s : State) : Out := alu 2 (fun x y => x ||| y) r r f s
def execCXor (r f : BitVec 5) (s : State) : Out := alu 2 (fun x y => x ^^^ y) r r f s
def execCAddi (r i : BitVec 5) (s : State) : Out := aluI (fun x => x + i.signExtend 64) r r s
def execCLi (r i : BitVec 5) (s : State) : Out := aluI (fun x => x + i.signExtend 64) r 0 s
def execCShli (r n : BitVec 5) (s : State) : Out := aluI (fun x => x <<< n.toNat) r r s
def execCShri (r n : BitVec 5) (s : State) : Out := aluI (fun x => x >>> n.toNat) r r s
def execCBeqz (r o : BitVec 5) (s : State) : Out := branch (s.rg r == 0) (disp2 o) s
def execCBnez (r o : BitVec 5) (s : State) : Out := branch (s.rg r != 0) (disp2 o) s
def execCJ (o : BitVec 10) (s : State) : Out := .next (s.jump (s.me.pc + disp2 o))
def execCJr (r : BitVec 5) (s : State) : Out := jumpReg (s.rg r) 0 s

end Sys2Proof.Machine
end

