-- ==== Sys2Proof/Machine/Vector.lean ====
section
/-! DEFINITION. The shared forms of vector instructions: lanes, masks, element-wise results and reductions (R172, R196 to R198). -/

namespace Sys2Proof.Machine

/-- Lane i of width w of a register (R196). -/
def laneOf (x : Vec) (w i : Nat) : Nat := x.toNat / 2 ^ (w * i) % 2 ^ w
/-- The number whose lanes 0 to n - 1 of width w are given. -/
def packLanes (w : Nat) (f : Nat → Nat) : Nat → Nat
  | 0 => 0
  | n + 1 => packLanes w f n + f n % 2 ^ w * 2 ^ (w * n)
/-- A register made of its lanes. -/
def ofLanes (w n : Nat) (f : Nat → Nat) : Vec := BitVec.ofNat 1024 (packLanes w f n)
/-- A w-bit value read as signed. -/
def toS (w x : Nat) : Int := if 2 ^ (w - 1) ≤ x then (x : Int) - 2 ^ w else x
/-- A signed value modulo 2^w. -/
def ofS (w : Nat) (x : Int) : Nat := (x % 2 ^ w).toNat

/-- Lane count of a width on the running core (R196). -/
def State.lanes (s : State) (w : Nat) : Nat := s.vl / w
/-- Whether lane i is active under mask field M (R197). -/
def State.active (s : State) (m : BitVec 5) (i : Nat) : Bool := m == 0 || (s.rg m).getLsbD i

/-- An element-wise instruction: each active lane i takes its result from f; an inactive lane keeps the old value of vD and raises
nothing (R162, R197). -/
def vmapN (w lat : Nat) (srcs : List (BitVec 5)) (d m : BitVec 5) (f : State → Nat → Nat → Res) (s : State) : Out :=
  vecGate srcs (some d) s fun s =>
    let old := s.me.rv d.toNat
    let n := s.lanes w
    let r := (List.range n).map (fun i => if s.active m i then f s i (laneOf old w i) else (laneOf old w i, 0))
    withFlags ((List.range n).map (fun i => (i, (r.getD i (0, 0)).2))) s fun fl s =>
      vdone srcs d lat (ofLanes w n (fun i => (r.getD i (0, 0)).1)) fl s

/-- Two vector sources. -/
def vmap2 (w lat : Nat) (d a b m : BitVec 5) (f : State → Nat → Nat → Nat → Nat → Res) (s : State) : Out :=
  vmapN w lat [a, b] d m (fun s i old => f s i (laneOf (s.rv a) w i) (laneOf (s.rv b) w i) old) s
/-- One vector source. -/
def vmap1 (w lat : Nat) (d a m : BitVec 5) (f : State → Nat → Nat → Res) (s : State) : Out :=
  vmapN w lat [a] d m (fun s i _ => f s i (laneOf (s.rv a) w i)) s

/-- One level of the reduction tree (R172): nodes 2i and 2i + 1 combine; `width` is the number of lanes below a left input. -/
def treeLevel {α : Type} (f : Nat → α → α → α × Flags) (width : Nat) : Nat → List (Option α) → List (Option α) × List (Nat × Flags)
  | i, some x :: some y :: t =>
    let r := f (2 * width * i) x y
    let q := treeLevel f width (i + 1) t
    (some r.1 :: q.1, (2 * width * i, r.2) :: q.2)
  | i, x :: y :: t =>
    let q := treeLevel f width (i + 1) t
    ((match x with
      | some v => some v
      | none => y) :: q.1, q.2)
  | _, l => (l, [])
/-- The tree over a power of two of lanes: the root, and every node's flags with the lane that it names (R172). -/
def tree {α : Type} (f : Nat → Nat → α → α → α × Flags) : Nat → Nat → List (Option α) → Option α × List (Nat × Flags)
  | 0, _, l => ((l.head?).join, [])
  | n + 1, k, l =>
    let q := treeLevel (f k) (2 ^ k) 0 l
    let r := tree f n (k + 1) q.1
    (r.1, q.2 ++ r.2)

/-- A reduction over the active lanes of vA (R204). -/
def vreduce (w : Nat) (d a m : BitVec 5) (empty : Nat) (f : Ctl → Nat → Nat → Nat → Nat → Res) (s : State) : Out :=
  vecGate [a] none s fun s =>
    let n := s.lanes w
    let l := (List.range n).map (fun i => if s.active m i then some (laneOf (s.rv a) w i) else none)
    let r := tree (fun k lane x y => f s.ctl lane k x y) (ilog2 n) 0 l
    withFlags r.2 s fun fl s => vsdone [a] d 10 (BitVec.ofNat 64 (r.1.getD empty)) fl s

/-- A vector result without lane exceptions. -/
def vplain (lat : Nat) (srcs : List (BitVec 5)) (d : BitVec 5) (f : State → Vec) (s : State) : Out :=
  vecGate srcs (some d) s fun s => vdone srcs d lat (f s) 0 s

end Sys2Proof.Machine
end

