-- ==== Sys2Proof/Machine/Sfu.lean ====
section
/-! DEFINITION. Special functions: MO 35 (R209, R210). A result that the spec bounds is a free value within its bound: the model
encloses the exact value and picks, by an unconstrained number, a representable value no further from it than the bound (log entry 8). -/

namespace Sys2Proof.Machine

/-! ### Enclosures in fixed point with 400 fraction bits -/

/-- Fraction bits of the fixed-point numbers of this file. -/
def fxBits : Nat := 400
def fxOne : Nat := 2 ^ fxBits
/-- 2 ÷ π, π ÷ 2, ln 2, log2 e and 2 ÷ √π, cut to 400 fraction bits. -/
def twoOverPi : Nat := 0xA2F9836E4E441529FC2757D1F534DDC0DB6295993C439041FE5163ABDEBBC561B7246E3A424DD2E006492EEA09D1921CFE1D
def piHalf : Nat := 0x1921FB54442D18469898CC51701B839A252049C1114CF98E804177D4C76273644A29410F31C6809BBDF2A33679A7486366056
def lnTwo : Nat := 0xB17217F7D1CF79ABC9E3B39803F2F6AF40F343267298B62D8A0D175B8BAAFA2BE7B876206DEBAC98559552FB4AFA1B10ED2E
def logTwoE : Nat := 0x171547652B82FE1777D0FFDA0D23A7D11D6AEF551BAD2B4B1164A2CD9A342648FBC3887EEAA2ED9AC49B25EEB82D7C167D521
def twoOverSqrtPi : Nat := 0x120DD750429B6D11AE3A914FED7FD8688281341D7587CEA2E7342B06199CC416180EB39F0B24E1E2281806C12D98F35D77A3E

/-- Product of two fixed-point numbers. -/
def fxMul (a b : Nat) : Nat := a * b / fxOne
/-- A magnitude m · 2^e in fixed point. -/
def toFx (m : Nat) (e : Int) : Nat := if 0 ≤ e then m * 2 ^ (e.toNat + fxBits) else m * fxOne / 2 ^ (-e).toNat

/-- Sum of t^k / k! from term `k` on: exp of t below 1. -/
def expTerms (t : Nat) : Nat → Nat → Nat → Nat
  | 0, _, _ => 0
  | n + 1, k, term => term + expTerms t n (k + 1) (fxMul term t / (k + 1))
/-- e^t for t below 1. -/
def fxExp (t : Nat) : Nat := expTerms t 90 0 fxOne
/-- 2^y of a signed fixed-point y: a mantissa in fixed point, and the integer exponent. -/
def fxExp2 (y : Int) : Nat × Int := (fxExp (fxMul (y % (fxOne : Int)).toNat lnTwo), y / (fxOne : Int))

/-- Alternating sum for sin r, r below π ÷ 2. -/
def sinTerms (r2 : Nat) : Nat → Nat → Int → Int
  | 0, _, _ => 0
  | n + 1, k, term => term + sinTerms r2 n (k + 2) (-(term * r2 / (fxOne : Int)) / (((k + 1) * (k + 2) : Nat) : Int))
def fxSin (r : Nat) : Nat := (sinTerms (fxMul r r) 60 1 r).toNat
/-- Alternating sum for erf: terms x^(2n+1) ÷ (n! (2n+1)). -/
def erfTerms (x2 : Nat) : Nat → Nat → Int → Int
  | 0, _, _ => 0
  | n + 1, k, term => term / ((2 * k + 1 : Nat) : Int) + erfTerms x2 n (k + 1) (-(term * x2 / (fxOne : Int)) / ((k + 1 : Nat) : Int))
def fxErf (x : Nat) : Nat := fxMul (erfTerms (fxMul x x) 260 0 x).toNat twoOverSqrtPi

/-- Binary digits of log2 z for z in [1, 2), by squaring. -/
def logBits : Nat → Nat → Nat → Nat
  | 0, _, acc => acc
  | n + 1, z, acc =>
    let q := fxMul z z
    if 2 * fxOne ≤ q then logBits n (q / 2) (2 * acc + 1) else logBits n q (2 * acc)

/-- Integer square root of a number below 4^(n): its largest r with r² ≤ x. -/
def sqrtBits (x : Nat) : Nat → Nat → Nat
  | 0, r => r
  | n + 1, r => if (r + 2 ^ n) * (r + 2 ^ n) ≤ x then sqrtBits x n (r + 2 ^ n) else sqrtBits x n r

/-! ### A value within a bound -/

/-- An enclosed or exact value: sign, magnitude m · 2^e, and whether it is the exact result. -/
structure Approx where
  s : Bool
  m : Nat
  e : Int
  exact : Bool

/-- Exponent of the ulp of a magnitude in a format: that of its binade, of the smallest normal value below it, of the largest above. -/
def ulpExp (f : Fmt) (x : Approx) : Int := max f.emin (min f.emax ((ilog2 x.m : Int) + x.e)) - f.mb
/-- The greatest magnitude code whose value is at most a magnitude, within the format's binades. -/
def floorCode (f : Fmt) (x : Approx) : Nat :=
  let u := ulpExp f x
  let q := if u ≤ x.e then x.m * 2 ^ (x.e - u).toNat else x.m / 2 ^ (u - x.e).toNat
  (u + f.mb - f.emin).toNat * 2 ^ f.mb + min q (2 ^ (f.mb + 1))
/-- The magnitude of a code, m · 2^e; codes past the largest finite one go on in the same way. -/
def codeVal (f : Fmt) (k : Nat) : Nat × Int :=
  if k < 2 ^ f.mb then (k, f.emin - f.mb) else (2 ^ f.mb + k % 2 ^ f.mb, f.emin - f.mb + ((k / 2 ^ f.mb : Nat) : Int) - 1)
/-- The magnitude of a code differs from an exact one by at most `b` units of 2^u. -/
def within (f : Fmt) (x : Approx) (b k : Nat) : Bool :=
  let v := codeVal f k
  let u := ulpExp f x
  let z := min v.2 (min x.e u)
  let p := v.1 * 2 ^ (v.2 - z).toNat
  let q := x.m * 2 ^ (x.e - z).toNat
  let d := b * 2 ^ (u - z).toNat
  decide (p ≤ q + d) && decide (q ≤ p + d)
/-- The codes of R209 for a value: those no further from it than the bound. -/
def boundedCodes (f : Fmt) (bound : Nat) (x : Approx) : List Nat :=
  let k := floorCode f x
  ((List.range (3 * bound + 3)).map (fun i => k + bound + 1 - i)).filter (within f x bound)

/-- An irrational or rounded value of a special function: a code no further than `bound` ulps from it, picked by the free number; flags by
R209. -/
def boundedTo (f : Fmt) (c : Ctl) (bound pick : Nat) (x : Approx) : Res :=
  let ks := boundedCodes f bound x
  let code := ks.getD (pick % ks.length) (f.maxCode + 1)
  if f.maxCode < code then overflowTo f { c with rm := 0 } x.s true
  else
    let tiny := decide (code < 2 ^ f.mb)
    if c.ftz ∧ f.ftz ∧ tiny then (f.sign x.s, flUF ||| flNX)
    else (f.sign x.s + code, flNX ||| (if tiny then flUF else 0))

/-- A value that is less than 1, though its distance from 1 may lie below the last fraction bit. -/
def belowOne (x : Nat) : Nat := min x (fxOne - 1)

/-- The value of a function at a finite, nonzero, valid x = ± m · 2^e. -/
def sfuApprox (minor : Nat) (s : Bool) (m : Nat) (e : Int) : Approx :=
  let lb := ilog2 m
  let top := (lb : Int) + e
  let pow2 := m == 2 ^ lb
  match minor with
  | 0 => if pow2 then ⟨s, 1, -top, true⟩ else ⟨s, 2 * (2 ^ 300 / m) + 1, -301 - e, false⟩
  | 1 =>
    -- x = n · 4^k
    let odd := e % 2 ≠ 0
    let n := if odd then 2 * m else m
    let k := (if odd then e - 1 else e) / 2
    if pow2 ∧ top % 2 = 0 then ⟨false, 1, -(top / 2), true⟩
    else ⟨false, 2 * sqrtBits (4 ^ 200 / n) 201 0 + 1, -201 - k, false⟩
  | 2 =>
    let odd := e % 2 ≠ 0
    let n := (if odd then 2 * m else m) * 4 ^ 100
    let k := (if odd then e - 1 else e) / 2
    let r := sqrtBits n 130 0
    if r * r = n then ⟨false, r, k - 100, true⟩ else ⟨false, 2 * r + 1, k - 101, true⟩
  | 3 =>
    if 12 ≤ top then ⟨false, 1, if s then -4096 else 4096, false⟩
    else
      let y := signedOf s (toFx m e)
      if y % (fxOne : Int) = 0 then ⟨false, 1, y / (fxOne : Int), true⟩
      else let p := fxExp2 y; ⟨false, p.1, p.2 - fxBits, false⟩
  | 4 =>
    if 12 ≤ top then ⟨false, 1, if s then -4096 else 4096, false⟩
    else let p := fxExp2 (signedOf s (fxMul (toFx m e) logTwoE)); ⟨false, p.1, p.2 - fxBits, false⟩
  | 5 =>
    if pow2 then ⟨decide (top < 0), top.natAbs, 0, true⟩
    else
      let v := top * 2 ^ 120 + logBits 120 (m * 2 ^ (fxBits - lb)) 0
      ⟨decide (v < 0), v.natAbs, -120, false⟩
  | 6 | 7 =>
    let t := if 0 ≤ e then m * 2 ^ e.toNat * twoOverPi else m * twoOverPi / 2 ^ (-e).toNat
    let quad := t / fxOne % 4
    let frac := t % fxOne
    -- sin: quadrants 1 and 3 take the cosine of the remainder; cos is a quadrant further
    let quad' := if minor = 6 then quad else (quad + 1) % 4
    let v := fxSin (fxMul (if quad' % 2 = 0 then frac else fxOne - frac) piHalf)
    ⟨(if minor = 6 then s else false) != decide (2 ≤ quad'), v, -fxBits, false⟩
  | 8 =>
    if 8 ≤ top then ⟨s, fxOne - 1, -fxBits, false⟩
    else
      let p := fxExp2 (-(2 * fxMul (toFx m e) logTwoE : Nat))
      let v := p.1 / 2 ^ (-p.2).toNat
      ⟨s, belowOne ((fxOne - v) * fxOne / (fxOne + v)), -fxBits, false⟩
  | 9 =>
    if 10 ≤ top then (if s then ⟨false, 1, -4096, false⟩ else ⟨false, fxOne - 1, -fxBits, false⟩)
    else
      let p := fxExp2 (-(fxMul (toFx m e) logTwoE : Nat))
      let v := p.1 / 2 ^ (-p.2).toNat
      if s then ⟨false, p.1 * fxOne / (fxOne + v), p.2 - fxBits, false⟩ else ⟨false, belowOne (fxOne * fxOne / (fxOne + v)), -fxBits, false⟩
  | _ =>
    if 3 ≤ top ∨ 6 * fxOne < toFx m e then ⟨s, fxOne - 2 ^ 345, -fxBits, false⟩ else ⟨s, fxErf (toFx m e), -fxBits, false⟩

/-- The bound in ulps (R209). -/
def sfuBound (f : Fmt) (minor : Nat) : Nat := if f.bits = 32 ∧ 4 ≤ minor then 2 else 1

/-- A special function of one operand (R209, R210); `pick` is the free number of its input. A result of 2^128, which FP32 does not hold, overflows
(log entry 115). -/
def sfuLane (minor : Nat) (f : Fmt) (c : Ctl) (lane pick a : Nat) : Res :=
  let x := f.read c.ftz a
  let one := f.bias * 2 ^ f.mb
  let invalid : Res := (f.canon, flNV)
  match x with
  | .nan _ _ _ => nanResult f c [x]
  | .inf s =>
    match minor with
    | 0 => (f.sign s, 0)
    | 1 => if s then invalid else (0, 0)
    | 2 | 5 => if s then invalid else (f.infCode, 0)
    | 3 | 4 => if s then (0, 0) else (f.infCode, 0)
    | 6 | 7 => invalid
    | 9 => if s then (0, 0) else (one, 0)
    | _ => (f.sign s + one, 0)
  | .fin s 0 _ =>
    match minor with
    | 0 | 1 => (f.sign s + f.infCode, flDZ)
    | 5 => (f.sign true + f.infCode, flDZ)
    | 3 | 4 | 7 => (one, 0)
    | 9 => (one - 2 ^ f.mb, 0)
    | _ => (f.sign s, 0)
  | .fin s m e =>
    if s ∧ (minor = 1 ∨ minor = 2 ∨ minor = 5) then invalid
    else
      let y := sfuApprox minor s m e
      if minor = 2 then roundFin f c lane 0 y.s y.m y.e
      else if y.exact ∧ (minor = 3 → f.emin - f.mb ≤ y.e) then roundFin f { c with rm := 0 } lane 0 y.s y.m y.e
      else boundedTo f c (sfuBound f minor) pick y

/-- A special-function instruction; type 0 is f32, 1 bf16. -/
def vsfu (minor : Nat) (d a m : BitVec 5) (t : BitVec 1) (s : State) : Out :=
  let f := if t = 0 then fp32 else bf16
  vmap1 f.bits 16 d a m (fun s i x => sfuLane minor f s.ctl i (Config.sfu minor t.toNat x) x) s

def execVrcp (d a m : BitVec 5) (t : BitVec 1) (s : State) : Out := vsfu 0 d a m t s
def execVrsq (d a m : BitVec 5) (t : BitVec 1) (s : State) : Out := vsfu 1 d a m t s
def execVsqrt (d a m : BitVec 5) (t : BitVec 1) (s : State) : Out := vsfu 2 d a m t s
def execVexp2 (d a m : BitVec 5) (t : BitVec 1) (s : State) : Out := vsfu 3 d a m t s
def execVexp (d a m : BitVec 5) (t : BitVec 1) (s : State) : Out := vsfu 4 d a m t s
def execVlog2 (d a m : BitVec 5) (t : BitVec 1) (s : State) : Out := vsfu 5 d a m t s
def execVsin (d a m : BitVec 5) (t : BitVec 1) (s : State) : Out := vsfu 6 d a m t s
def execVcos (d a m : BitVec 5) (t : BitVec 1) (s : State) : Out := vsfu 7 d a m t s
def execVtanh (d a m : BitVec 5) (t : BitVec 1) (s : State) : Out := vsfu 8 d a m t s
def execVsigm (d a m : BitVec 5) (t : BitVec 1) (s : State) : Out := vsfu 9 d a m t s
def execVerf (d a m : BitVec 5) (t : BitVec 1) (s : State) : Out := vsfu 10 d a m t s

end Sys2Proof.Machine
end

