-- ==== Sys2Proof/Machine/Seq.lean ====
section
/-! DEFINITION. Grow-only sequences: the SEQ instructions and the sequence units of the pools (R300 to R324). -/

namespace Sys2Proof.Machine

/-! ### The unit's actions: each one succeeds as a whole or changes nothing (R302) -/

/-- Why a command fails: its cause, and the token that TRAPVAL names when it is not TOK (R309, R310). -/
abbrev SqFail := Nat × Option Nat
/-- An action on the pool: it may fail, and then it has changed nothing. -/
abbrev Sq (α : Type) := StateT State (Except SqFail) α

def sqFail {α : Type} (c : Nat) : Sq α := fun _ => .error (c, none)
/-- A check that fails with a cause. -/
def sqCheck (p : Bool) (c : Nat) : Sq Unit := fun s => if p then .ok ((), s) else .error (c, none)
/-- The location of an address of the arena or the metadata, or 0x20B. -/
def sqAddr (p va kind : Nat) : Sq Nat := fun s =>
  match s.poolTr p va kind with
  | (s, some a) => .ok (a, s)
  | (_, none) => .error (0x20B, none)
def sqLoad (p va n : Nat) : Sq Nat := fun s =>
  match s.poolData p va n 0 with
  | (s, some a) => .ok (s.load a n, s)
  | (_, none) => .error (0x20B, none)
def sqStore (p va n v : Nat) : Sq Unit := fun s =>
  match s.poolTr p va 1 with
  | (s, some a) => .ok ((), s.store a n v)
  | (_, none) => .error (0x20B, none)

/-! ### Descriptors (R306) -/

/-- A sequence descriptor: its extents as (first page, pages). -/
structure SqDesc where
  isOpen : Bool
  lc : Nat
  lr : Nat
  w : Nat
  cap : Nat
  ext : List (Nat × Nat)

/-- Sixteen words of a descriptor, read from the metadata. -/
def descWords (p va : Nat) : Nat → Sq (List Nat)
  | 0 => pure []
  | n + 1 => do
    let x ← sqLoad p va 8
    let xs ← descWords p (va + 8) n
    pure (x :: xs)

/-- Words written to the metadata. -/
def putWords (p : Nat) : Nat → List Nat → Sq Unit
  | _, [] => pure ()
  | va, x :: xs => do
    sqStore p va 8 x
    putWords p (va + 8) xs

/-- A descriptor as 128 bytes. -/
def SqDesc.bits (d : SqDesc) : Nat :=
  b2n d.isOpen + d.ext.length * 2 ^ 8 + d.lc % 2 ^ 32 * 2 ^ 32 + d.lr % 2 ^ 32 * 2 ^ 64 + d.w % 2 ^ 32 * 2 ^ 96 + d.cap % 2 ^ 32 * 2 ^ 128 +
    ((d.ext.map (fun e => e.1 % 2 ^ 20 + (e.2 - 1) % 2 ^ 12 * 2 ^ 20)).foldr (fun x a => x + a * 2 ^ 32) 0) * 2 ^ 512

def descOf (x : Nat) : SqDesc :=
  let n := min (fldB x 1 1) 16
  { isOpen := fldB x 0 1 == 1, lc := fldB x 4 4, lr := fldB x 8 4, w := fldB x 12 4, cap := fldB x 16 4,
    ext := (List.range n).map (fun i => let e := fldB x (64 + 4 * i) 4; (fld e 19 0, fld e 31 20 + 1)) }

def getDesc (p sid : Nat) : Sq SqDesc := do
  let s ← get
  let ws ← descWords p ((s.pool p).descVa sid) 16
  pure (descOf (ws.foldr (fun x a => x + a * 2 ^ 64) 0))

def putDesc (p sid : Nat) (d : SqDesc) : Sq Unit := do
  let s ← get
  let x := if d.isOpen then d.bits else 0
  putWords p ((s.pool p).descVa sid) ((List.range 16).map (fun i => fldB x (8 * i) 8))

/-- The physical page of a logical page. -/
def physPage : List (Nat × Nat) → Nat → Nat
  | [], _ => 0
  | (a, n) :: t, j => if j < n then a + j else physPage t (j - n)

/-- A sequence holds logical pages from W div 16 to CAP - 1. -/
def SqDesc.holds (d : SqDesc) (j : Nat) : Bool := decide (d.w / 16 ≤ j) && decide (j < d.cap)

/-! ### Page words -/

def getPage (p k : Nat) : Sq Nat := do
  let s ← get
  sqLoad p ((s.pool p).wordVa k) 8
def putPage (p k w : Nat) : Sq Unit := do
  let s ← get
  sqStore p ((s.pool p).wordVa k) 8 w

/-- COUNT of a page less 1; at 0 without pins the page is free and its word 0 (R305). -/
def dropPage (p k : Nat) : Sq Unit := do
  let w ← getPage p k
  let c := pwCount w - 1
  if c = 0 ∧ pwPins w = 0 then
    putPage p k 0
    modify (fun s => s.freePage p k)
  else putPage p k (pageWord c (pwMask w) (pwDone w) (pwPins w))

/-- COUNT of a page plus 1. -/
def addPage (p k : Nat) : Sq Unit := do
  let w ← getPage p k
  putPage p k (pageWord (pwCount w + 1) (pwMask w) (pwDone w) (pwPins w))

/-- Something done for each of a list. -/
def sqEach {α : Type} (f : α → Sq Unit) : List α → Sq Unit
  | [] => pure ()
  | x :: xs => do
    f x
    sqEach f xs

/-- Logical pages from a to b - 1. -/
def pagesFrom (a b : Nat) : List Nat := (List.range (b - a)).map (· + a)

/-- The copy-on-write check of R310: the first held page of the tokens [lo, hi) with COUNT above 1. -/
def cowCheck (p : Nat) (d : SqDesc) (lo hi : Nat) : List Nat → Sq Unit
  | [] => pure ()
  | j :: js => do
    if d.holds j then
      let w ← getPage p (physPage d.ext j)
      if 1 < pwCount w then fun _ => .error (0x201, some (max lo (16 * j)))
      else cowCheck p d lo hi js
    else cowCheck p d lo hi js
def cow (p : Nat) (d : SqDesc) (lo hi : Nat) : Sq Unit := cowCheck p d lo hi (pagesFrom (lo / 16) ((hi + 15) / 16))

/-! ### The commands at the unit -/

/-- The failure result of SQRES (R312). -/
def sqFailCode (c : Nat) : Nat := 2 ^ 63 + c

/-- Extents appended until the capacity holds the reservation; `error` is the failure code of R312. -/
def growTo (p iord need : Nat) : Nat → SqDesc → List Nat → State → Except SqFail (Except Nat (SqDesc × List Nat) × State)
  | 0, d, new, s => .ok (.ok (d, new), s)
  | f + 1, d, new, s =>
    if need ≤ 16 * d.cap then .ok (.ok (d, new), s)
    else if d.ext.length = 16 then .ok (.error 2, s)
    else
      let k := if d.cap = 0 then iord else min (ilog2 d.cap) 12
      match allocRun (s.pool p).free k with
      | none => .ok (.error 1, s)
      | some (a, free) =>
        growTo p iord need f { d with ext := d.ext ++ [(a, 2 ^ k)], cap := d.cap + 2 ^ k } (new ++ pagesFrom a (a + 2 ^ k))
          (s.setPool p { s.pool p with free := free })

/-- SQRES (R312): a failure undoes everything, the opening too, so that the SQST of R448's second row meets a closed sequence (log entry 119). -/
def sqRes (p sid n : Nat) (d : SqDesc) : Sq Nat := do
  let d := if d.isOpen then d else ⟨true, 0, 0, 0, 0, []⟩
  cow p d d.lr (d.lr + n)
  let s ← get
  let r ← growTo p (s.pool p).iord (d.lr + n) 17 d []
  match r with
  | .error c => do
    set s
    pure (sqFailCode c)
  | .ok (e, new) => do
    sqEach (fun k => putPage p k (pageWord 1 0 0 0)) new
    putDesc p sid { e with lr := e.lr + n }
    pure d.lr

/-- Pieces of at most 64 bytes of a record written at the arena. -/
def putBytes (p : Nat) : Nat → Nat → Nat → Nat → Sq Unit
  | 0, _, _, _ => pure ()
  | f + 1, va, n, v =>
    if n = 0 then pure ()
    else do
      let k := min n 64
      sqStore p va k v
      putBytes p f (va + k) (n - k) (v / 2 ^ (8 * k))

/-- A phase m · 2^e with its factors of 2 in the exponent: equal phases are one input (R314). -/
def oddPhase : Nat → Nat → Int → Nat × Int
  | 0, m, e => (m, e)
  | n + 1, m, e => if m % 2 = 0 then oddPhase n (m / 2) (e + 1) else (m, e)

/-- The FP32 code nearest a magnitude from below and the other one of the two nearest: the code above, or, just above a power of two, the
code below. -/
def nearestTwo (x : Approx) : Nat × Nat :=
  let k := floorCode fp32 x
  let u := ulpExp fp32 x
  let d := 2 ^ (u - x.e).toNat
  (k, if k % 2 ^ 23 = 0 ∧ 2 ^ 23 < k ∧ 4 * (x.m % d) < d then k - 1 else k + 1)

/-- One of the two FP32 values nearest cos (7) or sin (6) of the exact phase (R314). -/
def rotVal (minor : Nat) (m : Nat) (e : Int) (s : Bool) : Num :=
  if m = 0 then (if minor = 7 then .fin false 1 0 else .fin false 0 0)
  else
    let p := oddPhase 64 m e
    let x := sfuApprox minor s p.1 p.2
    let k := nearestTwo x
    fp32.read false (fp32.sign x.s + (if Config.rotary (minor - 6) s p.1 p.2 % 2 = 0 then k.1 else k.2))

/-- One rotated pair (R314): the two elements and their flags. -/
def rotPair (f : Fmt) (c : Ctl) (tok e freq x0 x1 : Nat) : Res × Res :=
  let lane := e / 2 % 64
  let idx := tok % 2 ^ 18
  match fp32.read false freq with
  | .fin s m k =>
    let co := rotVal 7 (tok * m) k s
    let si := rotVal 6 (tok * m) k s
    let a := f.read c.ftz x0
    let b := f.read c.ftz x1
    let sum := fun (x y : Option Num) (neg : Bool) => x.bind (fun x => y.bind (fun y => addNum (c.rm == 2) x (if neg then y.neg else y)))
    (finish f c lane idx [a, b] (sum (mulNum a co) (mulNum b si) true),
     finish f c lane idx [a, b] (sum (mulNum a si) (mulNum b co) false))
  | _ => ((x0, 0), (x1, 0))

/-- The pairs of a written piece rotated: elements as a number, from element index e upward. -/
def rotPairs (f : Fmt) (c : Ctl) (freqs : List (BitVec 32)) (rdim tok : Nat) : Nat → Nat → Nat → Nat × List (Nat × Flags)
  | 0, _, _ => (0, [])
  | n + 1, e, x =>
    let w := f.bits
    let x0 := x % 2 ^ w
    let x1 := x / 2 ^ w % 2 ^ w
    let q := rotPairs f c freqs rdim tok n (e + 2) (x / 2 ^ (2 * w))
    if e < rdim then
      let y := rotPair f c tok e (freqs.getD (e / 2) 0).toNat x0 x1
      (y.1.1 + y.2.1 * 2 ^ w + q.1 * 2 ^ (2 * w), (e / 2 % 64, y.1.2 ||| y.2.2) :: q.2)
    else (x0 + x1 * 2 ^ w + q.1 * 2 ^ (2 * w), q.2)

/-- SQST and SQSTR (R313, R314): the flags that the rotary path raised. -/
def sqSt (p : Nat) (rot : Bool) (tok n vlq : Nat) (data : Vec) (numctl : Dword) (d : SqDesc) : Sq Flags := do
  let s ← get
  let x := s.pool p
  sqCheck (decide (d.lc ≤ tok) && decide (tok < d.lr)) 0x204
  let pg := physPage d.ext (tok / 16)
  let w ← getPage p pg
  sqCheck (!bitOf (pwDone w) (tok % 16)) 0x204
  sqCheck (decide (64 * n < x.rbytes)) 0x205
  sqCheck (!rot || decide (x.rdim ≠ 0)) 0x206
  cow p d tok (tok + 1)
  let len := min vlq (x.rbytes - 64 * n)
  let raw := data.toNat % 2 ^ (8 * len)
  let f := if x.cfg.getLsbD 27 then bf16 else fp32
  let q := if rot then rotPairs f (ctlOf numctl) x.freq x.rdim tok (len / (f.bits / 4)) (64 * n / (f.bits / 8)) raw else (raw, [])
  match numericTrap numctl q.2 with
  | some (c, v) => fun _ => .error (c, some v.toNat)
  | none => do
    putBytes p 3 (x.pageVa pg + tok % 16 * x.rbytes + 64 * n) len q.1
    pure (orFlags q.2)

/-- The closed tokens of one page set in its word. -/
def closeToks (p : Nat) (d : SqDesc) (commit : Bool) : List Nat → Sq Unit
  | [] => pure ()
  | t :: ts => do
    let k := physPage d.ext (t / 16)
    let w ← getPage p k
    let bit := 2 ^ (t % 16)
    putPage p k (pageWord (pwCount w) (if commit then pwMask w ||| bit else pwMask w) (pwDone w ||| bit) (pwPins w))
    closeToks p d commit ts

/-- Every slot of a list is open for closing: DONE is 0. -/
def openToks (p : Nat) (d : SqDesc) : List Nat → Sq Unit
  | [] => pure ()
  | t :: ts => do
    let w ← getPage p (physPage d.ext (t / 16))
    sqCheck (!bitOf (pwDone w) (t % 16)) 0x204
    openToks p d ts

/-- LC advanced over closed slots. -/
def advanceLc (p : Nat) (d : SqDesc) : Nat → Nat → Sq Nat
  | 0, lc => pure lc
  | f + 1, lc => do
    if lc < d.lr then
      let w ← getPage p (physPage d.ext (lc / 16))
      if bitOf (pwDone w) (lc % 16) then advanceLc p d f (lc + 1) else pure lc
    else pure lc

/-- SQCMT and SQABAND (R315). -/
def sqClose (p sid : Nat) (commit : Bool) (tok n : Nat) (d : SqDesc) : Sq Nat := do
  sqCheck (decide (d.lc ≤ tok) && decide (tok + n ≤ d.lr)) 0x204
  let ts := pagesFrom tok (tok + n)
  openToks p d ts
  cow p d tok (tok + n)
  closeToks p d commit ts
  let lc ← advanceLc p d (d.lr - d.lc + 1) d.lc
  putDesc p sid { d with lc := lc }
  pure lc

/-- SQLEN (R316). -/
def sqLen (p tok sel : Nat) (d : SqDesc) : Sq Nat := do
  let s ← get
  let x := s.pool p
  pure (match sel with
    | 0 => d.lc
    | 1 => d.w
    | 2 => d.lr
    | _ => if tok < d.lr ∧ d.holds (tok / 16) then x.pageVa (physPage d.ext (tok / 16)) + tok % 16 * x.rbytes else 0)

/-- The entries that cover the first n logical pages, the last one cut. -/
def cutExt : List (Nat × Nat) → Nat → List (Nat × Nat)
  | [], _ => []
  | (a, k) :: t, n => if n = 0 then [] else if n ≤ k then [(a, n)] else (a, k) :: cutExt t (n - k)

/-- Whether some page of a list has COUNT 0xFFFF. -/
def anyFull (p : Nat) (d : SqDesc) : List Nat → Sq Bool
  | [] => pure false
  | j :: js => do
    let w ← getPage p (physPage d.ext j)
    if pwCount w = 0xFFFF then pure true else anyFull p d js

/-- SQFORK (R317). -/
def sqFork (p child pre : Nat) (d : SqDesc) : Sq Nat := do
  let s ← get
  let x := s.pool p
  sqCheck (decide (x.sbase ≤ child) && decide (child < x.sbase + x.snum)) 0x203
  sqCheck (decide (d.w ≤ pre) && decide (pre ≤ d.lc)) 0x208
  let c ← getDesc p child
  let cap := (pre + 15) / 16
  let js := pagesFrom (d.w / 16) cap
  if c.isOpen then pure 1
  else do
    let full ← anyFull p d js
    if full then pure 2
    else do
      sqEach (fun j => addPage p (physPage d.ext j)) js
      putDesc p child ⟨true, pre, pre, d.w, cap, cutExt d.ext cap⟩
      pure 0

/-- The entries with logical page j replaced by a page of its own. -/
def replacePage : List (Nat × Nat) → Nat → Nat → List (Nat × Nat)
  | [], _, _ => []
  | (a, n) :: t, j, new =>
    if j < n then (if j = 0 then [] else [(a, j)]) ++ [(new, 1)] ++ (if j + 1 = n then [] else [(a + j + 1, n - j - 1)]) ++ t
    else (a, n) :: replacePage t (j - n) new

/-- Granules of 64 bytes copied within the arena. -/
def copyGranules (p : Nat) : Nat → Nat → Nat → Sq Unit
  | 0, _, _ => pure ()
  | n + 1, src, dst => do
    let v ← sqLoad p src 64
    sqStore p dst 64 v
    copyGranules p n (src + 64) (dst + 64)

/-- SQCOW (R318). -/
def sqCow (p sid tok : Nat) (d : SqDesc) : Sq Nat := do
  let s ← get
  let x := s.pool p
  let j := tok / 16
  sqCheck (d.holds j) 0x207
  let old := physPage d.ext j
  let w ← getPage p old
  let ext := fun new => replacePage d.ext j new
  if pwCount w = 1 then pure 1
  else if 16 < (ext 0).length then pure 3
  else
    match allocRun x.free 0 with
    | none => pure 2
    | some (new, free) => do
      modify (fun s => s.setPool p { s.pool p with free := free })
      copyGranules p (16 * x.rbytes / 64) (x.pageVa old) (x.pageVa new)
      let keep := 2 ^ min (d.lr - 16 * j) 16 - 1
      putPage p new (pageWord 1 (pwMask w &&& keep) (pwDone w &&& keep) 0)
      putPage p old (pageWord (pwCount w - 1) (pwMask w) (pwDone w) (pwPins w))
      putDesc p sid { d with ext := ext new }
      pure 0

/-- SQTRIM (R319). -/
def sqTrim (p sid tok : Nat) (d : SqDesc) : Sq Nat := do
  sqCheck (decide (tok ≤ d.lc)) 0x208
  if tok ≤ d.w then pure d.w
  else do
    sqEach (fun j => dropPage p (physPage d.ext j)) (pagesFrom (d.w / 16) (tok / 16))
    putDesc p sid { d with w := tok }
    pure tok

/-- SQREL (R319). -/
def sqRel (p sid : Nat) (d : SqDesc) : Sq Nat := do
  sqEach (fun j => dropPage p (physPage d.ext j)) (pagesFrom (d.w / 16) d.cap)
  putDesc p sid { d with isOpen := false }
  pure 0

/-- The committed tokens of a range, in ascending order. -/
def listed (p : Nat) (d : SqDesc) : List Nat → Sq (List Nat)
  | [] => pure []
  | t :: ts => do
    let w ← getPage p (physPage d.ext (t / 16))
    let r ← listed p d ts
    pure (if bitOf (pwMask w) (t % 16) then t :: r else r)

/-- SQRD (R320): the tokens are fixed, their pages pinned, and the stream starts. -/
def sqRd (p : Nat) (r : BankRef) (port tok n : Nat) (d : SqDesc) : Sq Nat := do
  let s ← get
  let ok := match (s.bank r).port port with
    | some k => k.mode == 2 && k.stream.isNone
    | none => false
  sqCheck ok 0x209
  let lo := max tok d.w
  let ts ← listed p d (pagesFrom lo (min (tok + n) d.lc))
  let pages := (ts.map (fun t => physPage d.ext (t / 16))).eraseDups
  modify (fun s =>
    let b := s.bank r
    let e := ((s.pool p).rbytes + vlBits r.tile / 8 - 1) / (vlBits r.tile / 8)
    let st : Stream := ⟨p, ts.map (fun t => physPage d.ext (t / 16) * 16 + t % 16), 0, pages, ts.length * e⟩
    match b.port port with
    | some k =>
      if ts.isEmpty then s
      else (s.setBank r { b with ports := tset b.ports port { k with stream := some st } }).pin p pages
    | none => s)
  pure ts.length

/-! ### Executing a command (R302, R309) -/

/-- The command's value for its register, with the flags it raises. -/
def sqRun (p : Nat) (c : SeqCmd) : Sq (Nat × Flags) := do
  let d ← getDesc p c.sid
  let tok := dfld c.ctl 31 0
  let n := dfld c.ctl 47 32
  let plain := fun (x : Sq Nat) => do
    let v ← x
    pure ((v, 0) : Nat × Flags)
  sqCheck (d.isOpen || c.minor == 0 || c.minor == 6) 0x202
  match c.minor with
  | 0 => plain (sqRes p c.sid n d)
  | 1 => do
    let f ← sqSt p false tok n (vlBits c.owner.tile / 8) c.data c.numctl d
    pure (0, f)
  | 2 => do
    let f ← sqSt p true tok n (vlBits c.owner.tile / 8) c.data c.numctl d
    pure (0, f)
  | 3 => plain (sqClose p c.sid true tok n d)
  | 4 => plain (sqClose p c.sid false tok n d)
  | 5 => plain (sqLen p tok n d)
  | 6 => plain (sqFork p n tok d)
  | 7 => plain (sqRel p c.sid d)
  | 8 => plain (sqTrim p c.sid tok d)
  | 9 => plain (sqRd p c.owner (dfld c.ctl 49 48) tok n d)
  | _ => plain (sqCow p c.sid tok d)

/-- SEQ_COMMAND_EXECUTE: the pool's oldest command is carried out as one action; its thread gets the reply, or its trap. -/
def execSeqCommandExecute (p : Nat) (s : State) : Out :=
  match (s.pool p).cmds with
  | [] => .next s
  | c :: cs =>
    let s := s.setPool p { s.pool p with cmds := cs }
    let waits := (s.bank c.owner).wait == some (.seq c)
    match (sqRun p c).run s with
    | .ok ((v, f), s) =>
      if waits then
        let s := (s.setBank c.owner ((s.bank c.owner).raise f)).freePorts c.owner c.ports
        .next (s.wake c.owner (if c.minor = 1 ∨ c.minor = 2 then .none else .g c.dest) (BitVec.ofNat 1024 v))
      else .next s
    | .error (cause, tok) =>
      let val := if 0x041 ≤ cause ∧ cause < 0x048 then tok.getD 0
        else (tok.getD (dfld c.ctl 31 0)) + c.sid * 2 ^ 32
      let s := s.setBank c.owner ((s.bank c.owner).giveBack (if waits then c.ports else []))
      .next (if waits then s.refuse c.owner ⟨cause, 0, BitVec.ofNat 64 val⟩ else s)

/-! ### The instructions (R308 to R311) -/

/-- Bits of the control word that a minor uses, and the range of N. -/
def sqMask : Nat → Dword
  | 0 => 0x0F00FFFF00000000
  | 7 => 0
  | 8 | 10 => 0x0F000000FFFFFFFF
  | 9 => 0x0F03FFFFFFFFFFFF
  | _ => 0x0F00FFFFFFFFFFFF
def sqRange (minor n : Nat) : Bool :=
  match minor with
  | 0 | 3 | 4 => decide (1 ≤ n) && decide (n ≤ 4096)
  | 1 | 2 => decide (n ≤ 1023)
  | 5 => decide (n ≤ 3)
  | 9 => decide (1 ≤ n)
  | _ => true

/-- TOK is used by SQLEN for selector 3 only. -/
def sqTokOk (minor : Nat) (ctl : Dword) : Bool := !(minor == 5 && dfld ctl 47 32 != 3 && dfld ctl 31 0 != 0)

/-- The pool that a sequence ID selects for a tenant. -/
def State.poolOf (s : State) (t sid : Nat) : Option Nat :=
  (List.range 16).find? (fun p =>
    let x := s.pool p
    x.en && x.tenant == t && decide (x.sbase ≤ sid) && decide (sid < x.sbase + x.snum))

/-- A SEQ instruction: the core's checks, the release at .dv or wider, and the command sent to its pool, whose reply the thread awaits; its
port's entry stays taken until then (R329). -/
def seqOp (minor : Nat) (dest : Nat) (data : Vec) (srcs : List (BitVec 5)) (a b : BitVec 5) (s : State) : Out :=
  let h := s.rg a
  let ctl := if minor = 7 then 0 else s.rg b
  let tv := BitVec.ofNat 64 (dfld ctl 31 0 + dfld h 15 0 * 2 ^ 32)
  if isXa s.cur.1 ∨ s.me.kind = 2 ∨ s.me.kind = 3 then insTrap 0x00A s
  else gate s fun s =>
    if dfld h 63 16 ≠ 0 ∨ ctl &&& ~~~(sqMask minor) ≠ 0 ∨ (minor ≠ 7 ∧ ¬ sqRange minor (dfld ctl 47 32)) ∨ ¬ sqTokOk minor ctl then
      trapAt 0x20A 0 tv s
    else if 6 ≤ dfld ctl 59 57 then insTrap 0x006 s
    else
      let release := decide (minor = 3) || decide (minor = 4) || ctl.getLsbD 56
      let go := fun (s : State) =>
        let s := if release then s.drain s.curRef (max 4 (dfld ctl 59 57)) else s
        match s.poolOf s.me.tenant (dfld h 15 0) with
        | none => trapAt 0x202 0 tv s
        | some p =>
          let ks := s.me.srcPorts srcs
          let c : SeqCmd := ⟨s.curRef, minor, dfld h 15 0, ctl, data, dest, s.me.numctl, ks⟩
          let s := (s.setMe (s.me.takePorts ks)).park (.seq c)
          .next (s.setPool p { s.pool p with cmds := (s.pool p).cmds ++ [c] })
      if release then rlxGate s go else go s

def execSqres (d a b : BitVec 5) (s : State) : Out := seqOp 0 d.toNat 0 [] a b s
def execSqst (d a b : BitVec 5) (s : State) : Out := vecGate [d] none s fun s => seqOp 1 0 (s.rv d) [d] a b s
def execSqstr (d a b : BitVec 5) (s : State) : Out := vecGate [d] none s fun s => seqOp 2 0 (s.rv d) [d] a b s
def execSqcmt (d a b : BitVec 5) (s : State) : Out := seqOp 3 d.toNat 0 [] a b s
def execSqaband (d a b : BitVec 5) (s : State) : Out := seqOp 4 d.toNat 0 [] a b s
def execSqlen (d a b : BitVec 5) (s : State) : Out := seqOp 5 d.toNat 0 [] a b s
def execSqfork (d a b : BitVec 5) (s : State) : Out := seqOp 6 d.toNat 0 [] a b s
def execSqrel (a : BitVec 5) (s : State) : Out := seqOp 7 0 0 [] a 0 s
def execSqtrim (d a b : BitVec 5) (s : State) : Out := seqOp 8 d.toNat 0 [] a b s
def execSqrd (d a b : BitVec 5) (s : State) : Out := seqOp 9 d.toNat 0 [] a b s
def execSqcow (d a b : BitVec 5) (s : State) : Out := seqOp 10 d.toNat 0 [] a b s

/-- The stream of a port ended with its FIFO contents discarded (R321). -/
def State.endStream (s : State) (r : BankRef) (k : Nat) : State :=
  let b := s.bank r
  match b.port k with
  | some p =>
    match p.stream with
    | some t =>
      (s.setBank r { b with
        ports := tset b.ports k { p with fifo := [], taken := 0, stream := none }
        pend := b.pend.map (fun q => { q with frees := q.frees.filter (· != k) })
        wins := b.wins.map (fun w => { w with frees := w.frees.filter (·.1 != k) }) }).unpin t.pool t.pins
    | none => s
  | none => s

/-- SQUNPIN (R321). -/
def execSqunpin (a : BitVec 5) (s : State) : Out :=
  let h := s.rg a
  if isXa s.cur.1 ∨ s.me.kind = 2 ∨ s.me.kind = 3 then insTrap 0x00A s
  else if 4 ≤ h.toNat then trapAt 0x20A 0 0 s
  else gate s fun s => .next (s.endStream s.curRef h.toNat).retire

/-! ### Delivery (R320) -/

/-- Bytes of a record read for an entry, in 64-byte granules; `none` is any translation fault. -/
def recordBytes (p : Nat) : Nat → Nat → Nat → State → State × Option Nat
  | 0, _, _, s => (s, some 0)
  | f + 1, va, n, s =>
    if n = 0 then (s, some 0)
    else
      let k := min n 64
      match s.poolData p va k 0 with
      | (s, none) => (s, none)
      | (s, some a) =>
        match recordBytes p f (va + k) (n - k) s with
        | (s, none) => (s, none)
        | (s, some v) => (s, some (s.load a k + v * 2 ^ (8 * k)))

/-- STREAM_DELIVERY: the next entry of a port's stream enters its FIFO; a translation fault ends the stream with a record. -/
def execStreamDelivery (tile slot port : Nat) (s : State) : Out :=
  let r : BankRef := ⟨tile, slot, 0⟩
  let b := s.bank r
  match b.port port with
  | none => .next s
  | some k =>
    match k.stream with
    | none => .next s
    | some t =>
      match t.toks with
      | [] => .next s
      | rec1 :: rest =>
        if 4 ≤ k.fifo.length then .next s
        else
          let x := s.pool t.pool
          let vlq := vlBits tile / 8
          let n := min vlq (x.rbytes - t.pos)
          match recordBytes t.pool 3 (x.arena.toNat + rec1 * x.rbytes + t.pos) n s with
          | (s, none) =>
            let s := s.record { s.threadRec r 0x20B 2 (engineId 3 (0x1E0 + t.pool) 3) none t.pool with asyn := true }
            .next ((s.setBank r { b with ports := tset b.ports port { k with stream := none } }).unpin t.pool t.pins)
          | (s, some v) =>
            let last := decide (x.rbytes ≤ t.pos + vlq)
            let st := { t with toks := if last then rest else t.toks, pos := if last then 0 else t.pos + vlq, left := t.left - 1 }
            .next ((s.setBank r { b with
              ports := tset b.ports port { k with fifo := k.fifo ++ [BitVec.ofNat 1024 v], stream := some st } }).rouse r (.chanRead port))

end Sys2Proof.Machine
end

