-- ==== Sys2Proof/Machine/Chan.lean ====
section
/-! DEFINITION. Channel ports: CHBIND, CHUNB, CHSTAT, and the arrival of notices, credits and entries (R325 to R330). -/

namespace Sys2Proof.Machine

/-- The peer that a CHBIND word names (R325). -/
def chPeer (w : Dword) : PortRef := ⟨dfld w 16 8, dfld w 19 17, dfld w 21 20⟩

/-- A CHBIND word that R326 admits for a tile's thread. -/
def State.chOk (s : State) (t tile : Nat) (w : Dword) : Bool :=
  dfld w 7 4 == 0 && dfld w 63 22 == 0 && dfld w 3 2 != 3 &&
    (if dfld w 3 2 = 2 then dfld w 21 8 == 0
     else isXa tile == isXa (dfld w 16 8) && s.usable t (dfld w 16 8))

/-- CHBIND (R326). -/
def execChbind (d a : BitVec 5) (s : State) : Out :=
  let w := s.rg a
  let b := s.me
  let r := s.curRef
  let k := dfld w 1 0
  if b.kind ≠ 0 then insTrap 0x00A s
  else if ¬ s.chOk b.tenant r.tile w then trap 0x112 s
  else if (b.port k).isSome then ret d 1 s
  else
    let peer := chPeer w
    let here : PortRef := ⟨r.tile, r.slot, k⟩
    let mode := dfld w 3 2
    let known := mode == 0 && (tfind b.notices k).map (·.1) == some peer
    let s := s.setMe { b with
      ports := tset b.ports k ⟨mode, peer, [], 0, 0, none⟩
      notices := if known then tdel b.notices k else b.notices }
    let s := if mode = 1 then s.send (.notice here peer ((s.launchOf b).map (·.key) |>.getD 0) b.task) else s
    let s := if known then s.send (.credit here peer 4 b.task) else s
    ret d 0 s

/-- A result for a SEND port has been written and not yet sent (R327). -/
def Bank.sending (b : Bank) (k : Nat) : Bool := b.pend.any (fun p => p.dest == .v (28 + k))

/-- CHUNB (R327). -/
def execChunb (a : BitVec 5) (s : State) : Out :=
  let k := dfld (s.rg a) 1 0
  if s.me.kind ≠ 0 then insTrap 0x00A s
  else
    match s.me.port k with
    | none => .next s.retire
    | some p => if p.mode = 1 ∧ s.me.sending k then .next (s.park (.chunb k)) else .next (s.unbind s.curRef k).retire

/-- CHSTAT's word (R328). -/
def Port.word (p : Port) : Nat :=
  1 + p.mode * 2 + p.fifo.length * 8 + (if p.mode = 1 then p.credit else 0) * 64 + b2n p.stream.isSome * 512 +
    (match p.stream with
      | some t => t.left
      | none => 0) * 2 ^ 32

/-- CHSTAT (R328). -/
def execChstat (d a : BitVec 5) (s : State) : Out :=
  if s.me.kind ≠ 0 then insTrap 0x00A s
  else
    match s.me.port (dfld (s.rg a) 1 0) with
    | none => ret d 0 s
    | some p => ret d (BitVec.ofNat 64 p.word) s

/-! ### Arrivals -/

/-- The bank whose ports a port reference names: ports are bound by task threads, in bank 0 (R325). -/
def PortRef.bank (p : PortRef) : BankRef := ⟨p.tile, p.slot, 0⟩

/-- The bank that an arrival from a port reaches: that of a saved task which has the port bound to it (R330), else the slot's. -/
def State.portBank (s : State) (dst src : PortRef) : BankRef :=
  let held := fun (v : Saved) => v.task.tile == dst.tile && v.task.slots.contains dst.slot &&
    (match (s.bank ⟨awayTile dst.tile v.task.id, dst.slot, 0⟩).port dst.port with
      | some p => p.peer == src && p.mode != 2
      | none => false)
  match s.saved.find? held with
  | some v => ⟨awayTile dst.tile v.task.id, dst.slot, 0⟩
  | none => dst.bank

/-- The launch whose task holds the context of a port, from its placement on (R118). -/
def State.slotLaunch (s : State) (p : PortRef) : Option Nat :=
  (s.tasks.find? (fun t => t.tile == p.tile && t.slots.contains p.slot)).map (·.launch)

/-- The bank that a notice reaches: that of a saved task of its launch, when no task of that launch holds the slot (R326, R330). -/
def State.noticeBank (s : State) (dst : PortRef) (launch : Nat) : BankRef :=
  if s.slotLaunch dst = some launch then dst.bank
  else
    match s.saved.find? (fun v => v.task.launch == launch && v.task.tile == dst.tile && v.task.slots.contains dst.slot) with
    | some v => ⟨awayTile dst.tile v.task.id, dst.slot, 0⟩
    | none => dst.bank

/-- BIND_NOTICE_ARRIVAL (R326): the receiver grants 4 credits, keeps the notice, also while its context is free or still being staged, or discards
one of another launch. -/
def execBindNoticeArrival (ix : Nat) (s : State) : Out :=
  match s.net[ix]? with
  | some (.notice src dst launch _) =>
    let s := { s with net := listDel s.net ix }
    let r := s.noticeBank dst launch
    let b := s.bank r
    if r = dst.bank ∧ (s.slotLaunch dst).any (· != launch) then
      .next (s.record { s.threadRec r 0x114 2 (engineId 0 dst.tile 0) none 0 with asyn := true })
    else
      match b.port dst.port with
      | some p =>
        if p.mode = 0 ∧ p.peer = src then
          .next (s.send (.credit dst src 4 b.task))
        else .next (s.setBank r { b with notices := tset b.notices dst.port (src, launch) })
      | none => .next (s.setBank r { b with notices := tset b.notices dst.port (src, launch) })
  | _ => .next s

/-- CREDIT_ARRIVAL (R326, R329): a SEND port bound to that peer gains the credits. -/
def execCreditArrival (ix : Nat) (s : State) : Out :=
  match s.net[ix]? with
  | some (.credit src dst n _) =>
    let s := { s with net := listDel s.net ix }
    let r := s.portBank dst src
    let b := s.bank r
    match b.port dst.port with
    | some p =>
      if p.mode = 1 ∧ p.peer = src then
        .next ((s.setBank r { b with ports := tset b.ports dst.port { p with credit := min 4 (p.credit + n) } }).rouse r (.credit dst.port))
      else .next s
    | none => .next s
  | _ => .next s

/-- An earlier message of the same sending port is still on its way (R329). -/
def State.sentBefore (s : State) (ix : Nat) (src : PortRef) : Bool :=
  (s.net.take ix).any (fun m => match m with
    | .entry q _ _ _ => q == src
    | .notice q _ _ _ => q == src
    | _ => false)

/-- CHANNEL_MESSAGE_ARRIVAL (R329): the entry enters the FIFO of the port that is RECV-bound to its sender, or is discarded with a record. -/
def execChannelMessageArrival (ix : Nat) (s : State) : Out :=
  match s.net[ix]? with
  | some (.entry src dst data task) =>
    if s.sentBefore ix src then .next s
    else
      let s := { s with net := listDel s.net ix }
      let r := s.portBank dst src
      let b := s.bank r
      let lost := s.record (s.taskRec r task 0x113 2 (engineId 0 dst.tile 0) none 0)
      match b.port dst.port with
      | some p =>
        if p.mode = 0 ∧ p.peer = src then
          .next ((s.setBank r { b with ports := tset b.ports dst.port { p with fifo := p.fifo ++ [data] } }).rouse r (.chanRead dst.port))
        else .next lost
      | none => .next lost
  | _ => .next s

end Sys2Proof.Machine
end

