-- ==== Sys2Proof/Machine/Mbox.lean ====
section
/-! DEFINITION. Mailboxes: MBOX instructions, and the publication and read transactions at the mailbox memory (R366 to R373). -/

namespace Sys2Proof.Machine

/-! ### Shared operations -/

/-- Payload bytes of a mailbox (R366). -/
def Mailbox.size (m : Mailbox) : Nat := 32 * (dfld m.cfg 3 1 + 1)
def Mailbox.en (m : Mailbox) : Bool := m.cfg.getLsbD 0
def Mailbox.tenant (m : Mailbox) : Nat := dfld m.cfg 9 4
def Mailbox.wtile (m : Mailbox) : Nat := dfld m.cfg 18 10
/-- Location of a mailbox's buffer: the front, or the back. -/
def bufLoc (k : Nat) (m : Mailbox) (back : Bool) : Nat := mbmLoc + k * 0x200 + (if m.front != back then 0x100 else 0)
/-- A thread's publications that have not been applied: at any mailbox before their arrival, at this mailbox before their flip. -/
def State.ownPubs (s : State) (r : BankRef) (k : Nat) : Bool :=
  s.mailboxes.any (fun m => m.2.pubs.any (fun p => p.owner == r && p.thread == (s.bank r).thread && (!p.arrived || m.1 == k)))

/-- The mailbox of a VA in the MBM window, with its offset in the mailbox (R367). -/
def mboxOf (va : Dword) : Option (Nat × Nat) :=
  match region va.toNat with
  | .mbm off => some (off / 512, off % 512)
  | _ => none

/-- The control word's checks (R367): fields that the minor does not use, and the scope. -/
def mboxCtl (mask w : Dword) (s : State) (f : State → Out) : Out :=
  if w &&& mask ≠ 0 then trap 0x246 s else if 6 ≤ dfld w 52 50 then insTrap 0x006 s else f s

/-- Bytes of a vector register of the running core. -/
def State.vlq (s : State) : Nat := s.vl / 8

/-! ### MBWR (R368) -/

def execMbwr (d a : BitVec 5) (s : State) : Out :=
  let va := s.rg a
  vecGate [d] none s fun s => gate s fun s =>
    match mboxOf va with
    | none => trapAt 0x243 va 0 s
    | some (k, off) =>
      let m := s.mbox k
      if off % 64 ≠ 0 ∨ m.size ≤ off then trapAt 0x243 va 0 s
      else if s.ownPubs s.curRef k then .next (s.hold (.mbwr k))
      else if ¬ m.en ∨ m.tenant ≠ s.me.tenant ∨ m.wtile ≠ s.cur.1 then trapAt 0x242 va 0 s
      else
        let n := min s.vlq (m.size - off)
        let s := s.store (bufLoc k m true + off) n (s.rv d).toNat
        .next (s.usePorts [d]).retire

/-! ### MBPUB and MBPUBC (R369) -/

/-- A publication posted to its mailbox. -/
def mbpub (copy : Bool) (a b : BitVec 5) (s : State) : Out :=
  let va := s.rg a
  let w := s.rg b
  gate s fun s => mboxCtl 0xFFE2FFFFFFFFFFFF w s fun s =>
    match mboxOf va with
    | none => trapAt 0x243 va 0 s
    | some (k, off) =>
      if off ≠ 0 then trapAt 0x243 va 0 s
      else
        let r := s.curRef
        let m := s.mbox k
        let rel := w.getLsbD 48 && dfld w 52 50 != 0
        let s := s.setMbox k { m with pubs := m.pubs ++ [Pub.mk s.fresh copy rel r s.me.thread s.me.task false] }
        .next { s with fresh := s.fresh + 1 }.retire

def execMbpub (a b : BitVec 5) (s : State) : Out := mbpub false a b s
def execMbpubc (a b : BitVec 5) (s : State) : Out := mbpub true a b s

/-! ### MBRD (R370) -/

/-- The gate for a run of destination registers. -/
def vecGates : List (BitVec 5) → State → (State → Out) → Out
  | [], s, f => f s
  | d :: ds, s, f => vecGate [] (some d) s fun s => vecGates ds s f

/-- MBRD: checked at issue, and then waiting for its transaction at the mailbox memory. -/
def execMbrd (d a b : BitVec 5) (s : State) : Out :=
  let va := s.rg a
  let w := s.rg b
  gate s fun s => mboxCtl 0xFFE1000000000000 w s fun s =>
    match mboxOf va with
    | none => trapAt 0x243 va 0 s
    | some (k, off) =>
      let n := ((s.mbox k).size + s.vlq - 1) / s.vlq
      if off ≠ 0 ∨ b.toNat = 0 ∨ b.toNat = 31 ∨ 32 < d.toNat + n then trapAt 0x243 va 0 s
      else
        let ds := (List.range n).map (fun i => d + BitVec.ofNat 5 i)
        vecGates ds s fun s =>
          .next ((ds.foldl (fun s x => s.useCredit x) s).park (.mbrd k d.toNat b.toNat w))

/-! ### Events of the mailbox memory (R369, R371) -/

/-- MAILBOX_PUBLICATION_ARRIVAL: the first publication still on its way to a mailbox arrives, after its release and in its thread's
order, or is dropped with 0x249. -/
def execMailboxPublicationArrival (k : Nat) (s : State) : Out :=
  let m := s.mbox k
  match findIx (fun p => !p.arrived) m.pubs 0 with
  | none => .next s
  | some (i, p) =>
    let owed := p.rel && (s.bank p.owner).rlx.any (fun a => decide (a.id < p.id))
    let earlier := s.mailboxes.any (fun x => x.2.pubs.any (fun q => !q.arrived && q.owner == p.owner && decide (q.id < p.id)))
    let tn := ((s.task? p.task).bind (fun t => s.launch? t.launch)).map (·.tenant)
    if owed || earlier then .next s
    else if ¬ m.en ∨ tn ≠ some m.tenant ∨ p.owner.tile % 512 ≠ m.wtile then
      let s := s.record (s.taskRec p.owner p.task 0x249 2 (engineId 6 0x1D9 0) (some (0xFE0000000000 + k * 512)) 0)
      .next (s.setMbox k { s.mbox k with pubs := listDel m.pubs i })
    else .next (s.setMbox k { m with pubs := listSet m.pubs i { p with arrived := true } })

/-- The next version (R369). -/
def nextVersion (v : BitVec 48) : BitVec 48 := if v = BitVec.allOnes 48 then 1 else v + 1

/-- MAILBOX_FLIP: the oldest arrived publication is applied when no read and no copy is in progress. -/
def execMailboxFlip (k : Nat) (s : State) : Out :=
  let m := s.mbox k
  match findIx (fun p => p.arrived) m.pubs 0 with
  | none => .next s
  | some (i, p) =>
    if m.reads ≠ [] ∨ m.copying then .next s
    else
      let m := { m with
        front := !m.front, version := nextVersion m.version, time := s.dtb, pubs := listDel m.pubs i, copying := p.copy }
      let s := s.setMbox k m
      .next (if p.copy then s.storeBytes (bufLoc k m true) (s.bytes (bufLoc k m false) m.size) else s)

/-- MBPUBC_COPY_COMPLETE: the copy to the new back buffer ends. -/
def execMbpubcCopyComplete (k : Nat) (s : State) : Out := .next (s.setMbox k { s.mbox k with copying := false })

/-- Registers vD upward take the payload's bytes. -/
def landBytes (r : BankRef) (vlq payload : Nat) : Nat → Nat → State → State
  | _, 0, s => s
  | d, n + 1, s =>
    landBytes r vlq (payload / 2 ^ (8 * vlq)) (d + 1) n (s.land r (.v d) (BitVec.ofNat 1024 (payload % 2 ^ (8 * vlq))))

/-- MAILBOX_READ_TRANSACTION: a bank's MBRD starts at the mailbox, or is refused; a read in progress ends with its results. -/
def execMailboxReadTransaction (tile slot bank : Nat) (s : State) : Out :=
  let r : BankRef := ⟨tile, slot, bank⟩
  match (s.bank r).wait with
  | some (.mbrd k d b w) =>
    let m := s.mbox k
    match m.reads.find? (fun x => x.1 == r) with
    | none =>
      if s.ownPubs r k || m.pubs.any (·.arrived) then .next s
      else if ¬ m.en ∨ m.tenant ≠ (s.bank r).tenant then
        let n := (m.size + vlBits tile / 8 - 1) / (vlBits tile / 8)
        let s := (List.range n).foldl (fun s j => s.backCredit r (.v (d + j))) s
        .next (s.refuse r ⟨0x242, BitVec.ofNat 64 (0xFE0000000000 + k * 512), 0⟩)
      else .next (s.setMbox k { m with reads := m.reads ++ [(r, s.boot.dtb)] })
    | some (_, t0) =>
      let vlq := vlBits tile / 8
      let n := (m.size + vlq - 1) / vlq
      let never := m.version == 0
      let age := t0 - m.time.toNat
      let stale := decide (dfld w 47 0 ≠ 0) && !never && decide (dfld w 47 0 < age)
      let clamp := m.pubs.any (·.arrived)
      let payload := if never then 0 else s.load (bufLoc k m false) m.size
      let s := s.setMbox k { m with reads := m.reads.filter (fun x => x.1 != r) }
      let q := if never then (s, none) else
        s.poisonErr r (BitVec.ofNat 64 (0xFE0000000000 + k * 512)) [(bufLoc k m false, m.size)]
      let x := m.version.toNat + b2n stale * 2 ^ 48 + b2n never * 2 ^ 49 + b2n clamp * 2 ^ 50
      match q with
      | (s, some e) => .next (((List.range n).foldl (fun s j => s.backCredit r (.v (d + j))) s).wakeErr r e)
      | (s, none) =>
        let s := (landBytes r vlq payload d n s).land r (.g b) (BitVec.ofNat 1024 x)
        .next (s.wake r (.g (b + 1)) (m.time.setWidth 1024))
  | _ => .next s

end Sys2Proof.Machine
end

