-- ==== Sys2Proof/Machine/Peer.lean ====
section
/-! DEFINITION. The hot spare: joining, heartbeats, period digests and takeover over the Porsol peer protocol (R413 to R418). -/

namespace Sys2Proof.Machine

/-! ### Messages (R414) -/

def msgFld (m : BitVec 512) (off n : Nat) : Nat := fldB m.toNat off n

/-- A message that R414 admits. -/
def porsolOk (m : BitVec 512) : Bool :=
  msgFld m 0 4 == 0x53505A47 && decide (1 ≤ msgFld m 6 1) && decide (msgFld m 6 1 ≤ 5) && msgFld m 7 1 == 0 && msgFld m 0x12 6 == 0

/-- The module's own JOIN or JOINACK body: its range word and SPARE. -/
def State.joinBody (s : State) : Nat := (tget 0 s.boot.devRange 5).toNat + b2n s.peer.spare * 2 ^ 32

/-- A received message lands in its slot and renews the peer's liveness. -/
def State.landMsg (s : State) (m : BitVec 512) : State :=
  { s with peer := { s.peer with slots := tset s.peer.slots (msgFld m 8 8 % 64) m, lastMsg := s.boot.dtb } }

/-- A message of a type: malformed ones are discarded with a record, and a module that is not enabled acts on none. -/
def porsol (type : Nat) (m : BitVec 512) (s : State) (f : State → State) : Out :=
  if s.boot.phase ≠ 6 then .next s
  else if ¬ porsolOk m then .next (s.peerRecord 0x385 2)
  else if msgFld m 6 1 ≠ type then .next s
  else
    let s := s.landMsg m
    .next (if s.peer.en then f s else s)

/-! ### Joining (R415) -/

/-- A join fails (R415). -/
def State.joinFail (s : State) : State := ({ s with peer := { s.peer with st := 4 } }).peerRecord 0x384 2

/-- PEERCTL written (R413): EN 0 → 1 starts a join; PEERADDR and SPARE keep their values while EN = 1. -/
def State.peerctl (s : State) (val : Dword) : State :=
  let p := s.peer
  let on := val.getLsbD 0
  let s := { s with peer := { p with
    en := on, auto := val.getLsbD 1, spare := if p.en then p.spare else val.getLsbD 2, hb := dfld val 15 8, miss := dfld val 19 16,
    vec := dfld val 24 20, ien := val.getLsbD 25 } }
  if on ∧ ¬ p.en then
    let s := { s with peer := { s.peer with
      st := 1, seq := 0, pidx := 0, acked := false, joinAt := s.boot.dtb, lastMsg := s.boot.dtb, mine := [], other := [] } }
    s.peerSend 0 1 0 0 s.joinBody
  else if ¬ on then { s with peer := { s.peer with st := 0 } }
  else s

def execPeerctlEnable (fn : Nat) (val : BitVec 64) (s : State) : Out :=
  .next (if fn = 0 ∧ s.hostClear fn ∧ s.boot.phase = 6 ∧ ¬ s.peer.en ∧ val.getLsbD 0 then s.peerctl val else s)

/-- What a JOIN or JOINACK offers: the range word and SPARE. -/
def offer (m : BitVec 512) : BitVec 32 × Bool := (BitVec.ofNat 32 (msgFld m 0x20 4), bitOf (msgFld m 0x24 1) 0)

/-- The version that the module's range and the peer's give, when exactly one of the two asks to be the spare. -/
def State.joinVersion (s : State) (o : BitVec 32 × Bool) : Option (Nat × Nat) :=
  if o.2 = s.peer.spare then none else negotiate (tget 0 s.boot.devRange 5) o.1

/-- A side that is joining holds both ranges: JOINED with its role, or FAIL (R415). -/
def State.join (s : State) (o : BitVec 32 × Bool) : State :=
  if s.peer.st ≠ 1 then s
  else
    match s.joinVersion o with
    | none => s.joinFail
    | some v =>
      { s with
        boot := { s.boot with negotiated := tset s.boot.negotiated 5 (resultWord (some v)), peer := true }
        peer := { s.peer with st := 2, role := s.peer.spare, sentAt := s.boot.dtb } }

/-- The version that a JOINACK carries: the one that both ranges give, and 0 where they give none (R414, log entry 105). -/
def State.ackVersion (s : State) (o : BitVec 32 × Bool) : Nat :=
  ((negotiate (tget 0 s.boot.devRange 5) o.1).map (fun v => v.1 * 256 + v.2)).getD 0

/-- PORSOL_JOIN: it is answered with JOINACK, which carries this side's range; a side that is joining holds both ranges then and negotiates. -/
def execPorsolJoin (msg : BitVec 512) (s : State) : Out :=
  porsol 1 msg s fun s => (s.peerSend (s.ackVersion (offer msg)) 2 0 0 s.joinBody).join (offer msg)

/-- PORSOL_JOINACK: both ranges are held. -/
def execPorsolJoinack (msg : BitVec 512) (s : State) : Out :=
  porsol 2 msg s fun s => { s with peer := { s.peer with acked := true } }.join (offer msg)

/-- JOIN_TIMEOUT: no JOINACK within 10 ms, also where the peer's JOIN has come (log entry 20). -/
def execJoinTimeout (s : State) : Out :=
  .next (if (s.peer.st = 1 ∨ s.peer.st = 2) ∧ ¬ s.peer.acked ∧ s.peer.joinAt + 10000000 ≤ s.boot.dtb then s.joinFail else s)

/-! ### Heartbeats and digests (R415, R416) -/

/-- The heartbeat period in ns. -/
def Peer.period (p : Peer) : Nat := max 1 p.hb * 10000

/-- PORSOL_HEART. -/
def execPorsolHeart (msg : BitVec 512) (s : State) : Out := porsol 3 msg s id

/-- HEARTBEAT_SEND. -/
def execHeartbeatSend (s : State) : Out :=
  .next (if s.peer.st = 2 ∧ s.peer.sentAt + s.peer.period ≤ s.boot.dtb then
    ({ s with peer := { s.peer with sentAt := s.boot.dtb } }).peerSend s.peerVer 3 0 0 0 else s)

/-- PORSOL_PDIG. -/
def execPorsolPdig (msg : BitVec 512) (s : State) : Out :=
  porsol 4 msg s fun s =>
    if ¬ s.peer.joined then s
    else
      let s := { s with peer := { s.peer with
        other := s.peer.other ++ [(msgFld msg 0x18 8, BitVec.ofNat 256 (msgFld msg 0x20 32))] } }
      let s := s.comparePeriods
      let c := capPeriods s.peer.other
      let s := { s with peer := { s.peer with other := c.1 } }
      if c.2 then s.peerRecord 0x387 2 else s

/-! ### Loss and takeover (R417) -/

/-- PEER_LOST: MISS heartbeat periods without a message; a spare with AUTO takes over. -/
def execPeerLost (s : State) : Out :=
  let p := s.peer
  if p.st ≠ 2 ∨ s.boot.dtb < p.lastMsg + max 1 p.miss * p.period then .next s
  else
    let s := ({ s with peer := { p with st := 3 } }).peerRecord 0x383 2
    if p.role ∧ p.auto then
      .next ((({ s with peer := { s.peer with role := false } }).peerSend s.peerVer 5 0 0 0).peerRecord 0x386 0)
    else .next s

/-- PORSOL_TAKEOVER: a primary becomes the spare and keeps running. -/
def execPorsolTakeover (msg : BitVec 512) (s : State) : Out :=
  porsol 5 msg s fun s => { s with peer := { s.peer with role := true } }

end Sys2Proof.Machine
end

