-- ==== Sys2Proof/Machine/Ras.lean ====
section
/-! DEFINITION. Service in the field: scrubbing, lanes, row remaps and repairs, firmware replacement, firmware service calls, logs
(R390, R419 to R433). -/

namespace Sys2Proof.Machine

/-! ### Scrubbing (R423 to R426) -/

/-- The sub-channel of a remap entry (R427). -/
def rmapSub (w : Dword) : Nat := dfld w 12 12

/-- Number of DRAM lines; scrub units from there on are SRAM words. -/
def dramLines : Nat := dramBytes / 64

/-- A scrub read of a DRAM line: what it can correct is corrected, and an uncorrectable line is poisoned and recorded (R423, R425). -/
def State.scrubLine (s : State) (line : Nat) : State :=
  let c := Config.channelOf line % 24
  let errs := tget 0 s.failing line
  let clean := { s with failing := tdel s.failing line }
  if errs = 0 then s
  else if errs ≤ (s.channel c).correctable ∧ ¬ s.poison.contains line then clean.corrected line
  else if s.poison.contains line then clean
  else (clean.mark line).record { cause := 0x34E, sev := 2, engine := engineId 7 c 0, pa := some (line * 64) }

/-- The on-die SRAM words that scrubbing reads after the DRAM lines (log entry 96): 2 ^ 19 words for each tile's local store, then the XA
shared SRAM, the mailbox memory, and the caches of the L2 slices: the unit that reports a word, and its location when it is memory. -/
def sramWord (k : Nat) : Option (Nat × Option Nat) :=
  let at_ : Nat → Option (Nat × Option Nat) := fun loc => some (lineEngine loc, some loc)
  if k < 2 ^ 28 then
    let t := k / 2 ^ 19
    if hasWindow t ∧ k % 2 ^ 19 * 8 < lsBytes t then at_ (lsLoc t (k % 2 ^ 19 * 8)) else none
  else if k < 2 ^ 28 + 2 ^ 22 then at_ (xaLoc + (k - 2 ^ 28) * 8)
  else if k < 2 ^ 28 + 2 ^ 22 + 2 ^ 18 then at_ (mbmLoc + (k - 2 ^ 28 - 2 ^ 22) * 8)
  else if k < 2 ^ 28 + 2 ^ 22 + 2 ^ 18 + 2 ^ 23 then
    some (engineId 3 (0x1E0 + (k - 2 ^ 28 - 2 ^ 22 - 2 ^ 18) / 2 ^ 18) 4, none)
  else none

/-- The failing bits that an SRAM word has: those of a memory are held by its number, and those of a cache word are the ones that have just come. -/
def State.sramErrs (s : State) (loc : Option Nat) (errs : Nat) : Nat :=
  match loc with
  | some l => tget 0 s.failing (markOf l)
  | none => errs

/-- A scrub read of an SRAM word (R425): one failing bit is corrected, two make it unreadable; those of a cache word make the DRAM line unreadable that
it holds (log entry 96). -/
def State.scrubWord (s : State) (k errs : Nat) : State :=
  match sramWord k with
  | none => s
  | some (eng, loc) =>
    let n := s.sramErrs loc errs
    let clean := match loc with
      | some l => { s with failing := tdel s.failing (markOf l) }
      | none => s
    if n = 0 then s
    else if n = 1 then clean.record { cause := 0x343, sev := 1, engine := eng }
    else
      let bad := clean.record { cause := 0x344, sev := 2, engine := eng }
      match loc with
      | some l => if s.poison.contains (markOf l) then clean else bad.mark (markOf l)
      | none => (bad.mark (Config.cachedLine k s.tick % dramLines)).drawn

/-- Failing symbols or bits come to a DRAM line, or to a memory's SRAM word (log entry 5). -/
def State.upset (s : State) (line errs : Nat) : State :=
  if line < dramLines then s.plant line errs
  else match sramWord (line - dramLines) with
    | some (_, some l) => s.plant (markOf l) errs
    | _ => s

/-- The scrubber's position behind a DRAM line, whose last one ends a pass (R426), or behind an SRAM word. -/
def FeRegs.scrubbed (f : FeRegs) (line : Nat) : FeRegs :=
  if dramLines ≤ line then { f with scrubSram := (line + 1 - dramLines) % (2 ^ 28 + 2 ^ 22 + 2 ^ 18 + 2 ^ 23) }
  else if line + 1 = dramLines then { f with scrubPos := 0, passes := satInc f.passes (2 ^ 32 - 1) }
  else { f with scrubPos := line + 1 }

/-- SCRUB_READ: failing symbols or bits come to a line or word, and when it is the next one that scrubbing reads, it is read (R425, R426): a scrubber
that is off reads nothing and goes on later where it stopped. -/
def execScrubRead (line errs : Nat) (s : State) : Out :=
  let u := s.upset line errs
  if s.fe.scrubOff ∨ s.boot.phase ≠ 6 then .next u
  else if line < dramLines then
    if line = s.fe.scrubPos then .next { u.scrubLine line with fe := s.fe.scrubbed line } else .next u
  else if line = dramLines + s.fe.scrubSram then .next { u.scrubWord (line - dramLines) errs with fe := s.fe.scrubbed line }
  else .next u

/-! ### Lanes (R430) -/

/-- LANE_FAILURE: a first failed lane starts the conversion, which a switchover holds as a new channel repair (R421); a second one cannot be carried
and is reported once. -/
def execLaneFailure (c lane : Nat) (s : State) : Out :=
  let x := s.channel c
  if 24 ≤ c ∨ 24 ≤ lane then .next s
  else
    match (if x.degr || x.failing then some x.lane else x.laneHeld) with
    | some k =>
      if x.lost ∨ lane = k then .next s else .next ((s.setChannel c { x with lost := true }).chanRecord c (lane / 12) 0x34F 4 lane)
    | none =>
      if s.boot.fwSwitch then .next (s.setChannel c { x with laneHeld := some lane })
      else .next (s.setChannel c { x with failing := true, lane := lane })

/-- LANE_DEGRADED_COMPLETE. -/
def execLaneDegradedComplete (c : Nat) (s : State) : Out :=
  let x := s.channel c
  if ¬ x.failing then .next s
  else
    let s := s.setChannel c { x with failing := false, degr := true }
    .next (({ s with boot := { s.boot with degr := true } }).chanRecord c (x.lane / 12) 0x345 1 x.lane)

/-! ### Row remaps and repairs (R427 to R429) -/

def rmapV (x : Dword) : Bool := x.getLsbD 0
/-- Valid remap entries of a channel. -/
def Channel.rmapN (x : Channel) : Nat := (x.rmap.filter (fun e => rmapV e.2)).length
/-- The bits of an entry that software writes. -/
def rmapBits (val : Dword) : Dword := val &&& 0xFFFFFF07

/-- The lines of an entry's row (log entry 63). -/
def rmapLines (c : Nat) (w : Dword) : List Nat := (Config.rowLines c (dfld w 31 8)).filter (fun l => decide (l < dramLines))
/-- What the lines of a row hold. -/
def State.rowNow (s : State) (c : Nat) (w : Dword) : List (Nat × List Byte × Bool) :=
  (rmapLines c w).map (fun l => (l, s.bytes (l * 64) 64, s.poison.contains l))
/-- A line shows again what the old row holds. -/
def State.putLine (s : State) (x : Nat × List Byte × Bool) : State :=
  let s := s.storeBytes (x.1 * 64) x.2.1
  if x.2.2 then s.mark x.1 else s
/-- An entry's row is served by its old place again: nothing is copied back (R428). -/
def State.unmapRow (s : State) (c e : Nat) : State :=
  let s := (tget [] (s.channel c).oldRows e).foldl (fun s x => s.putLine x) s
  s.setChannel c { s.channel c with oldRows := tdel (s.channel c).oldRows e }

/-- A PPR request starts, or waits for PPRBUSY to clear or for a switchover to end (R421, R429). -/
def Channel.askPpr (x : Channel) (e : Nat) (held : Bool) : Channel :=
  if x.pprBusy = some e ∨ x.pprWait.contains e then x
  else if x.pprBusy.isNone ∧ ¬ held then { x with pprBusy := some e } else { x with pprWait := x.pprWait ++ [e] }

/-- A remap entry written: V set begins the row's copy, or is held during a switchover (R421), V cleared frees the entry, PPR with V starts a repair. -/
def State.rmapWrite (s : State) (c e : Nat) (val : Dword) : State :=
  let x := s.channel c
  let old := tget 0 x.rmap e
  let val := rmapBits val
  if 24 ≤ c ∨ 64 ≤ e then s
  else if rmapV val ∧ x.rmapN = 64 ∧ ¬ val.getLsbD 1 then s.chanRecord c (rmapSub val) 0x347 1 e
  else if rmapV val ∧ ¬ rmapV old then
    let x := { x with rmap := tset x.rmap e (val &&& ~~~1#64) }
    s.setChannel c (if x.remapping.contains e || x.remapHeld.contains e then x
      else if s.boot.fwSwitch then { x with remapHeld := x.remapHeld ++ [e] }
      else { x with remapping := x.remapping ++ [e] })
  else
    let s := if rmapV old && !rmapV val then s.unmapRow c e else s
    let x := s.channel c
    let x := { x with rmap := tset x.rmap e val, remapping := x.remapping.filter (· != e), remapHeld := x.remapHeld.filter (· != e) }
    s.setChannel c (if rmapV val ∧ val.getLsbD 1 then x.askPpr e s.boot.fwSwitch else x)

def execRmapSetValid (fn c e : Nat) (val : BitVec 64) (s : State) : Out :=
  .next (if fn = 0 ∧ s.hostClear fn ∧ s.boot.phase = 6 ∧ rmapV val ∧ ¬ val.getLsbD 1 then s.rmapWrite c e val else s)
def execRmapClearValid (fn c e : Nat) (val : BitVec 64) (s : State) : Out :=
  .next (if fn = 0 ∧ s.hostClear fn ∧ s.boot.phase = 6 ∧ ¬ rmapV val then s.rmapWrite c e val else s)
def execRmapPprStart (fn c e : Nat) (val : BitVec 64) (s : State) : Out :=
  .next (if fn = 0 ∧ s.hostClear fn ∧ s.boot.phase = 6 ∧ rmapV val ∧ val.getLsbD 1 ∧ rmapV (tget 0 (s.channel c).rmap e) then s.rmapWrite c e val else s)

/-- ROW_REMAP_COMPLETE: the entry becomes valid. A repair asked for with it starts. -/
def execRowRemapComplete (c e : Nat) (s : State) : Out :=
  let x := s.channel c
  if ¬ x.remapping.contains e then .next s
  else
    let w := tget 0 x.rmap e ||| 1
    let x := { x with rmap := tset x.rmap e w, remapping := x.remapping.filter (· != e), oldRows := tset x.oldRows e (s.rowNow c w) }
    let x := if w.getLsbD 1 then x.askPpr e s.boot.fwSwitch else x
    .next ((s.setChannel c x).chanRecord c (rmapSub w) 0x346 1 e)

/-- The next waiting repair of a channel starts. -/
def Channel.nextPpr (x : Channel) : Channel :=
  match x.pprBusy, x.pprWait with
  | none, e :: es => { x with pprBusy := some e, pprWait := es }
  | _, _ => x

/-- PPR_COMPLETE: success frees the entry, failure keeps it. -/
def execPprComplete (c : Nat) (ok : Bool) (s : State) : Out :=
  let x := s.channel c
  match x.pprBusy with
  | none => .next s
  | some e =>
    let w := tget 0 x.rmap e &&& ~~~2#64
    let x := { x with
      pprBusy := none, rmap := tset x.rmap e (if ok then w &&& ~~~1#64 else w)
      oldRows := if ok then tdel x.oldRows e else x.oldRows }
    let s := s.setChannel c (if s.boot.fwSwitch then x else x.nextPpr)
    .next (if ok then s.chanRecord c (rmapSub w) 0x348 0 e else s.chanRecord c (rmapSub w) 0x349 1 e)

/-! ### Firmware replacement (R419 to R421) -/

/-- The tile that the model names for Headframe firmware: the lowest of the Headframe, or the collar tile before a table is selected (log
entry 61). -/
def State.hfTile (s : State) : Nat := s.boot.cct.elim collar (fun c => c.hfCol * 16)

/-- The places of a tile window that R247 lets Headframe firmware write: the leash partition of an LA tile, and bank 1 of a seized tile's
contexts. -/
def State.firmwarePart (s : State) (tile off : Nat) : Bool :=
  match windowPart tile off with
  | .store => isLa tile && decide (0xF0000 ≤ off)
  | .scalar => s.seized tile && decide (0x200 ≤ off % 0x400)
  | .vector => s.seized tile && decide (0x1000 ≤ off % 0x2000)
  | _ => false

/-- A write of `n` bytes by Headframe firmware through a tile window, once firmware runs (R33, R247): the way a leash image comes into a
leash partition. The spec does not give the firmware's program, so that the write may be any that R247 permits (log entry 118). -/
def State.firmwareWrite (s : State) (tile off n v : Nat) : State :=
  let w : Region := .win tile off
  if 3 ≤ s.boot.phase ∧ s.firmwarePart tile off ∧ 64 % n = 0 ∧ off % n = 0 ∧ sizeOk n w ∧ ¬ readOnlyLoc w then
    match windowPart tile off with
    | .store => (s.store (lsLoc tile off) n v).traceAt (lsLoc tile off) n 1 s.hfTile 0 0 2 true
    | _ => s.winWrite tile off n v
  else s

/-- The ENGINE field of a firmware record. -/
def State.fwEngine (s : State) : Nat := engineId 9 s.hfTile 0

/-- Bytes of the update window. -/
def State.window (s : State) (off n : Nat) : List Byte := memRead s.boot.window off n
def State.windowFld (s : State) (off n : Nat) : Nat := bytesNat (s.window off n)

/-- An image refused, with its RESULT and record (R420, R421). -/
def State.fwRefuse (s : State) (r : Nat) : State :=
  ({ s with boot := { s.boot with fwResult := r } }).record { cause := 0x34D, sev := 0, engine := s.fwEngine, detail := r }

/-- FWCTL.GO written: refused while BUSY (R420). -/
def State.fwGo (s : State) : State :=
  if s.boot.fwBusy then s.fwRefuse 5 else { s with boot := { s.boot with fwBusy := true } }

def execFwctlGo (fn : Nat) (s : State) : Out := .next (if fn = 0 ∧ s.hostClear fn ∧ s.boot.phase = 6 then s.fwGo else s)

/-- A range word excludes a negotiated version (R39). -/
def excludes (range : BitVec 32) (neg : Dword) : Bool :=
  neg.getLsbD 16 && (let m := dfld neg 15 8
    let n := dfld neg 7 0
    !coversMajor range m || decide (n < botMinor range m) || decide (topMinor range m < n))

/-- RESULT of verifying the image in the window (R420). The range word of the reserved index 7 is ignored, whatever it holds (R7, R36; log
entry 60). -/
def State.verifyImage (s : State) : Nat :=
  let len := s.windowFld 0x10 4
  if s.windowFld 0 4 ≠ 0x57465A47 ∨ s.windowFld 6 2 ≠ 0 ∨ s.windowFld 0x14 12 ≠ 0 ∨ len < 3373 ∨ 2 ^ 20 < len then 1
  else if ¬ Config.mldsaVerify ((s.boot.cct.map (·.key)).getD []) (s.window 0 (len - 3309)) (s.window (len - 3309) 3309) then 2
  else if s.windowFld 8 8 < Config.fuseMinSequence then 3
  else if (List.range 8).any (fun i => excludes (BitVec.ofNat 32 (s.windowFld (0x20 + 4 * i) 4)) (tget 0 s.boot.negotiated i)) then 4
  else 0

/-- FIRMWARE_VERIFY_COMPLETE: a refusal is recorded; otherwise the switchover begins. -/
def execFirmwareVerifyComplete (s : State) : Out :=
  if ¬ s.boot.fwBusy ∨ s.boot.fwSwitch then .next s
  else
    let r := s.verifyImage
    if r ≠ 0 then .next (({ s with boot := { s.boot with fwBusy := false } }).fwRefuse r)
    else .next { s with boot := { s.boot with fwSwitch := true } }

/-- A channel's requests that a switchover held go on: its row copies, its repairs and a lane's conversion (R421). -/
def Channel.release (x : Channel) : Channel :=
  let y := { x.nextPpr with remapping := x.remapping ++ x.remapHeld, remapHeld := [], laneHeld := none }
  match x.laneHeld with
  | some l => { y with failing := true, lane := l }
  | none => y

/-- FIRMWARE_SWITCHOVER_COMPLETE: every repair already begun is over, a lane's conversion among them; the new image runs and the held requests go to
it. -/
def execFirmwareSwitchoverComplete (s : State) : Out :=
  if ¬ s.boot.fwSwitch ∨ s.channels.any (fun c => c.2.pprBusy.isSome || !c.2.remapping.isEmpty || c.2.failing) then .next s
  else
    let held := s.boot.heldGo
    let image := s.window 0 (s.windowFld 0x10 4)
    let s := s.loadImage image
    let s := { s with
      boot := { s.boot with
        fwSwitch := false, fwBusy := false, fwResult := 0, heldGo := []
        fwVersion := BitVec.ofNat 16 (s.windowFld 4 2), fwHash := shake256 image
        devRange := (List.range 7).map (fun i => (i, BitVec.ofNat 32 (s.windowFld (0x20 + 4 * i) 4))) }
      channels := s.channels.map (fun (c : Nat × Channel) => (c.1, c.2.release)) }
    let s := held.foldl (fun s t => s.startReplay t) s
    .next (s.record { cause := 0x34C, sev := 0, engine := s.fwEngine })

/-- FBCTL_GO: replay-all for a tenant, held during a switchover (R267, R421). -/
def execFbctlGo (t : Nat) (s : State) : Out :=
  .next (if s.boot.fwSwitch then { s with boot := { s.boot with heldGo := s.boot.heldGo ++ [t] } } else s.startReplay t)

/-! ### Firmware service calls (R390, R422) -/

/-- The report of ATTEST before its signature (R422). -/
def State.attestBody (s : State) (r : BankRef) (nonce : List Byte) : List Byte :=
  let b := s.bank r
  let l := s.launchOf b
  let c := s.boot.cct
  natBytes 4 0x54415A47 ++ natBytes 2 1 ++ natBytes 2 0 ++ natBytes 8 Config.serial.toNat ++ nonce ++
    natBytes 8 ((c.map (·.seqNo)).getD 0) ++ natBytes 8 s.boot.dtb ++ natBytes 32 ((c.map (·.fwHash.toNat)).getD 0) ++
    natBytes 32 s.boot.fwHash.toNat ++ natBytes 32 (shake256 Config.identityKey).toNat ++
    natBytes 16 ((l.map (·.hash.toNat)).getD 0) ++
    (List.range 8).flatMap (fun i => natBytes 4 (tget 0 s.boot.negotiated i).toNat) ++ natBytes 1 b.tenant ++ natBytes 47 0

/-- The report: 3,565 bytes. -/
def State.attestReport (s : State) (r : BankRef) (nonce : List Byte) : List Byte :=
  let body := s.attestBody r nonce
  body ++ (Config.identitySign body).take 3309 ++ List.replicate (3309 - ((Config.identitySign body).take 3309).length) 0

/-- Bytes written over listed locations, in order. -/
def scatter : List (Nat × Nat) → List Byte → State → State
  | [], _, s => s
  | (loc, n) :: ls, bs, s => scatter ls (bs.drop n) (if bs.isEmpty then s else s.storeBytes loc (bs.take n))

/-- HFCALL_REPLY: the firmware answers, unless it is being replaced. -/
def execHfcallReply (tile slot bank : Nat) (s : State) : Out :=
  let r : BankRef := ⟨tile, slot, bank⟩
  match (s.bank r).wait with
  | some (.hfcall n reg arg) =>
    if s.boot.fwSwitch ∨ ((s.task? (s.bank r).task).map (·.killing)).getD false then .next s
    else if n = 0 then .next (s.wake r (.g reg) (s.boot.fwVersion.setWidth 1024))
    else if n = 1 then
      let hf := match s.boot.cct with
        | some c => c.hfCol * 16 + s.free % (16 * max 1 c.hfWidth)
        | none => collar
      .next ((s.record (s.threadRec r 0x3C0 0 (engineId 9 hf 0) none arg.toNat)).drawn.wake r (.g reg) 0)
    else if n = 2 then
      match s.attestBuffer r arg.toNat with
      | (s, .ok locs) =>
        let nonce := (s.gather locs).take 32
        .next ((scatter locs (s.attestReport r nonce) s).wake r (.g reg) 3565)
      | (s, .error _) => .next (s.refuse r ⟨0x3F3, arg, 0⟩)
    else
      .next (s.drawn.wake r (.g reg) ((Config.serviceResult (tget 0 s.boot.negotiated 3).toNat n arg s.tick).setWidth 1024))
  | _ => .next s

/-! ### Logs (R432) -/

/-- TAIL of a log written: ignored outside the span from the old TAIL to HEAD. -/
def ErrLog.setTail (g : ErrLog) (size tail : Nat) : ErrLog :=
  if tail < size ∧ (tail + size - g.tail) % size ≤ (g.head + size - g.tail) % size then { g with tail := tail } else g

/-- Virtual functions that the device offers (R24). -/
def State.numVf (s : State) : Nat := (s.boot.cct.map (·.numVf)).getD 0
/-- An access of a PCIe function of the device reaches it: none of the function's earlier accesses waits at a matrix unit (R215, R439). -/
def State.fnOk (s : State) (fn : Nat) : Bool := decide (fn ≤ min 8 s.numVf) && s.hostClear fn
/-- A host write from a function to a register behind READY (R26). -/
def State.hostWrite (s : State) (fn : Nat) (f : State → State) : State := if s.fnOk fn ∧ s.boot.phase = 6 then f s else s

/-- A function sees a tenant's registers (R455). -/
def State.sees (s : State) (fn t : Nat) : Bool := fn == 0 || (decide (fn ≤ 8) && (tget 0 s.fnten fn).toNat == 64 + t)

/-- The control word of the device log (0) or of tenant log - 1 written. -/
def State.logTail (s : State) (fn log : Nat) (val : Dword) : State :=
  if log = 0 then (if fn = 0 then { s with log := s.log.setTail 256 (dfld val 31 16) } else s)
  else if log ≤ 64 ∧ s.sees fn (log - 1) then
    s.setTenant (log - 1) { s.tenant (log - 1) with log := (s.tenant (log - 1)).log.setTail 32 (dfld val 31 16) }
  else s

def execLogTailWrite (fn log : Nat) (val : BitVec 64) (s : State) : Out := .next (s.hostWrite fn (fun s => s.logTail fn log val))

end Sys2Proof.Machine
end

