-- ==== Sys2Proof/Machine/Host.lean ====
section
/-! DEFINITION. What the host does to the device: writes and reads of BAR 0 registers, and accesses through BAR 2 (R26, R81 to R88, R113,
R124, R250, R265, R300, R301, R366, R374, R392, R398, R402, R404, R408, R413, R420, R426, R427, R432, R455). -/

namespace Sys2Proof.Machine

/-! ### Functions (R24, R455) -/

/-- A tenant with an enabled queue. -/
def State.queueOn (s : State) (t : Nat) : Bool := s.queues.any (fun q => q.2.en && q.2.tenant == t)

/-! ### Queue registers (R83 to R87) -/

/-- QBASE (R84). -/
def Queue.writeBase (q : Queue) (val : Dword) : Queue :=
  if q.en then q else { q with size := dfld val 3 0, base := BitVec.ofNat 36 (dfld val 47 12) }

/-- The doorbell (R86). -/
def Queue.writeTail (q : Queue) (val : Dword) : Queue :=
  let v := dfld val 23 0
  if ¬ q.en then q else if v % 4 = 0 ∧ v < q.ring then { q with tail := v } else { q with cause := 0x2CA }

/-- Stacks, depths, waits, pointers and the fetch-ahead buffer cleared. -/
def Queue.cleared (q : Queue) : Queue :=
  { q with head := 0, tail := 0, ip := 0, ibs := [], loops := [], preds := [], ahead := [], block := none, hold := none, pass := none
           skip := none }

/-- The fields of QCTL that a write always reaches (R85, R110). -/
def Queue.writeCtl (q : Queue) (val : Dword) : Queue :=
  { q with prioMax := dfld val 7 4, evec := dfld val 18 14, eien := val.getLsbD 19, prio := min q.prio (dfld val 7 4) }

/-- EN 0 → 1 (R86). -/
def Queue.enable (q : Queue) (val : Dword) : Queue :=
  { (q.writeCtl val).cleared with
    en := true, tenant := dfld val 13 8, t1 := dfld val 39 32, t2 := dfld val 47 40, prio := dfld val 7 4, st := 1, cause := 0, exec := 0
    prung := 0 }

/-- QCTL written (R85, R86): EN set is refused while NEGF = 1 (R39). RESUME after the fault of a signal's write goes on at the instruction that
was next (log entry 44). -/
def State.qctl (s : State) (k : Nat) (val : Dword) : State :=
  let q := s.queue k
  let on := val.getLsbD 0
  if ¬ q.en then
    if on then (if s.boot.negf then s else s.setQueue k (q.enable val))
    else s.setQueue k { q.writeCtl val with tenant := dfld val 13 8, t1 := dfld val 39 32, t2 := dfld val 47 40 }
  else if ¬ on then (s.setQueue k { (q.writeCtl val).cleared with en := false, st := 0 }).unserve k
  else
    let q := q.writeCtl val
    if val.getLsbD 1 ∧ q.st = 5 then (s.setQueue k q.discard).settleQueue k else s.setQueue k q

/-- QCANCEL (R87). -/
def State.qcancel (s : State) (k : Nat) (val : Dword) : State :=
  let kind := dfld val 2 0
  let id := if kind = 1 then dfld val 63 32 else dfld val 47 32
  if kind = 0 ∨ 4 < kind then s else (s.cancel (s.queue k).tenant kind id 0x308).getD s

/-- A register of a queue block written. -/
def State.queueWrite (s : State) (fn k off : Nat) (val : Dword) : State :=
  if 64 ≤ k ∨ ¬ s.sees fn (s.queue k).tenant then s
  else
    match off with
    | 0x00 => s.setQueue k ((s.queue k).writeBase val)
    | 0x08 => s.setQueue k ((s.queue k).writeTail val)
    | 0x18 => s.qctl k val
    | 0x40 => s.qcancel k val
    | _ => s

def execQtailDoorbell (fn q : Nat) (val : BitVec 64) (s : State) : Out := .next (s.hostWrite fn (fun s => s.queueWrite fn q 0x08 val))
/-- QCTL_ENABLE: a write of QCTL that sets EN from 0 to 1. -/
def execQctlEnable (fn q : Nat) (val : BitVec 64) (s : State) : Out :=
  .next (s.hostWrite fn (fun s => if ¬ (s.queue q).en ∧ val.getLsbD 0 then s.queueWrite fn q 0x18 val else s))
/-- QCTL_DISABLE: a write of QCTL that sets EN from 1 to 0. -/
def execQctlDisable (fn q : Nat) (val : BitVec 64) (s : State) : Out :=
  .next (s.hostWrite fn (fun s => if (s.queue q).en ∧ ¬ val.getLsbD 0 then s.queueWrite fn q 0x18 val else s))
/-- QCTL_RESUME: a write of QCTL with EN and RESUME set to an enabled queue. -/
def execQctlResume (fn q : Nat) (val : BitVec 64) (s : State) : Out :=
  .next (s.hostWrite fn (fun s => if (s.queue q).en ∧ val.getLsbD 0 ∧ val.getLsbD 1 then s.queueWrite fn q 0x18 val else s))
def execQcancelWrite (fn q : Nat) (val : BitVec 64) (s : State) : Out := .next (s.hostWrite fn (fun s => s.queueWrite fn q 0x40 val))

/-! ### Front End registers (R124, R398, R402, R404) -/

/-- FEPREEMPT (R398). -/
def State.fepreempt (s : State) (val : Dword) : State :=
  let k := dfld val 5 0
  let rung := dfld val 7 6
  let s := { s with fe := { s.fe with preQueue := k, preRung := rung } }
  if ¬ val.getLsbD 8 then s
  else if rung = 0 then s.endLadder k
  else if (s.queue k).ladder.isSome then s
  else s.startLadder k rung none

def execFepreemptStart (fn : Nat) (val : BitVec 64) (s : State) : Out :=
  .next (s.hostWrite fn (fun s => if fn = 0 ∧ val.getLsbD 8 ∧ dfld val 7 6 ≠ 0 then s.fepreempt val else s))
def execFepreemptEnd (fn : Nat) (val : BitVec 64) (s : State) : Out :=
  .next (s.hostWrite fn (fun s => if fn = 0 ∧ val.getLsbD 8 ∧ dfld val 7 6 = 0 then s.fepreempt val else s))

/-! ### A tenant's translation registers (R265) -/

/-- Granules that an invalidation covers, as a test on a granule number. -/
def inRange (size : Nat) (va g : Nat) : Bool :=
  match size with
  | 0 => g == va
  | 1 => g / 64 == va / 64
  | 2 => g / 4096 == va / 4096
  | _ => true

/-- TLBINV: the tenant's entries in the range leave every TLB, and BUSY is set. -/
def State.tlbinv (s : State) (t : Nat) (val : Dword) : State :=
  let x := s.tenant t
  if x.tlbBusy then s
  else
    let size := dfld val 1 0
    let va := dfld val 47 18
    { s.setTenant t { x with tlbSize := BitVec.ofNat 2 size, tlbVa := BitVec.ofNat 30 va, tlbBusy := true } with
      tlb := s.tlb.filter (fun (e : Nat × Nat × Nat × Nat × Bool × Bool) => !(e.2.1 == t && inRange size va e.2.2.1)) }

def execTlbinvWrite (fn t : Nat) (val : BitVec 64) (s : State) : Out :=
  .next (s.hostWrite fn (fun s => if fn = 0 ∧ t < 64 then s.tlbinv t val else s))

/-- An access of a tenant that is still to be performed after its translation: a relaxed one, or a WACRD or WACCLR that waits. -/
def State.translated (s : State) (t : Nat) : Bool :=
  let has : Bank → Bool := fun b => b.tenant == t && (!b.rlx.isEmpty || (match b.wait with
    | some (.wac ..) => true
    | _ => false))
  s.ctxs.any (fun c => has c.2.b0 || has c.2.b1)

/-- TLB_INVALIDATION_COMPLETE: BUSY clears. -/
def execTlbInvalidationComplete (t : Nat) (s : State) : Out :=
  .next (if (s.tenant t).tlbBusy ∧ ¬ s.translated t then s.setTenant t { s.tenant t with tlbBusy := false } else s)

/-- PTROOT, TLBINV and FBCTL; the host cannot set GO. -/
def State.tenantWrite (s : State) (t off : Nat) (val : Dword) : State :=
  match off with
  | 0x00 =>
    if s.liveOf t then s
    else s.setTenant t { s.tenant t with ptEn := val.getLsbD 0, ptBase := BitVec.ofNat 32 (dfld val 43 12) }
  | 0x08 => s.tlbinv t val
  | 0x18 => s.setTenant t { s.tenant t with fbIen := val.getLsbD 0, fbVec := BitVec.ofNat 5 (dfld val 5 1) }
  | _ => s

/-! ### Sequence pools (R300, R301) -/

/-- Frequencies of a rotary table read as the pool's tenant; one that cannot be read or is not finite refuses. -/
def State.readFreqs (s : State) (p va : Nat) : Nat → State × Option (List (BitVec 32))
  | 0 => (s, some [])
  | n + 1 =>
    match s.poolData p va 4 0 with
    | (s, none) => (s, none)
    | (s, some a) =>
      let w := s.load a 4
      if fld w 30 23 = 255 then (s, none)
      else
        match s.readFreqs p (va + 4) n with
        | (s, some ws) => (s, some (BitVec.ofNat 32 w :: ws))
        | r => r

/-- The runs of memory that a run of virtual addresses covers, by 256 KiB granules. -/
def State.metaRuns (s : State) (p : Nat) : Nat → Nat → Nat → State × Option (List (Nat × Nat))
  | 0, _, _ => (s, some [])
  | f + 1, va, n =>
    if n = 0 then (s, some [])
    else
      let k := min n (2 ^ 18 - va % 2 ^ 18)
      match s.poolTr p va 1 with
      | (s, none) => (s, none)
      | (s, some a) =>
        match s.metaRuns p f (va + k) (n - k) with
        | (s, some rs) => (s, some ((a, k) :: rs))
        | r => r

/-- Runs of memory zeroed; a DRAM line or SRAM word so written is clean (R423, R425). -/
def State.zeroRuns (s : State) (rs : List (Nat × Nat)) : State :=
  let within : Nat → Bool := fun a => rs.any (fun r => decide (r.1 ≤ a) && decide (a < r.1 + r.2))
  { s with
    mem := s.mem.filter (fun (c : Host.Cell) => !within c.1)
    poison := s.poison.filter (fun m => !within (markSpan m).1)
    failing := s.failing.filter (fun m => !within (markSpan m.1).1) }

/-- Bytes of a pool's metadata region. -/
def Pool.metaBytes (p : Pool) : Nat := 8 * 2 ^ p.aord + 128 * p.snum

/-- The conditions of R301 that no memory access decides. -/
def State.poolBad (s : State) (k : Nat) (p : Pool) : Bool :=
  let elems := p.rbytes / (if p.cfg.getLsbD 27 then 2 else 4)
  let meets : Nat × Pool → Bool := fun o => o.1 != k && o.2.en && decide (p.sbase < o.2.sbase + o.2.snum) && decide (o.2.sbase < p.sbase + p.snum)
  decide (12 < p.iord) || decide (20 < p.aord) || decide (p.aord < p.iord) || p.rdim % 2 == 1 || decide (elems < p.rdim) ||
    decide (65536 < p.sbase + p.snum) || s.pools.any meets || s.liveOf p.tenant

/-- The fields of PCFG that software writes. -/
def pcfgMask : Dword := 0x3FFFFFFFFD

/-- PCFG written with EN = 1 to a pool that is off. -/
def State.poolEnable (s : State) (k : Nat) (val : Dword) : State :=
  let off := { s.pool k with cfg := val &&& (pcfgMask &&& ~~~1#64) }
  let refused := s.setPool k { off with cfg := off.cfg ||| 2 }
  let s1 := s.setPool k off
  if s1.poolBad k off then refused
  else
    match s1.readFreqs k (dfld off.rot 47 2 * 4) (off.rdim / 2) with
    | (s2, none) => s2.setPool k { off with cfg := off.cfg ||| 2 }
    | (s2, some fs) =>
      match s2.metaRuns k 128 off.md.toNat off.metaBytes with
      | (s3, none) => s3.setPool k { off with cfg := off.cfg ||| 2 }
      | (s3, some rs) => (s3.zeroRuns rs).setPool k { off with cfg := off.cfg ||| 1, freq := fs, free := allFree off.aord, cmds := [] }

/-- PCFG written with EN = 0 to a pool that is on. -/
def State.poolDisable (s : State) (k : Nat) : State :=
  let p := s.pool k
  if s.liveOf p.tenant then s else s.setPool k { p with cfg := p.cfg &&& ~~~1#64, free := [], freq := [], cmds := [] }

/-- PCFG written (R300, R301). -/
def State.pcfg (s : State) (k : Nat) (val : Dword) : State :=
  let p := s.pool k
  if p.en then (if val.getLsbD 0 then s else s.poolDisable k)
  else if val.getLsbD 0 then s.poolEnable k val
  else s.setPool k { p with cfg := val &&& pcfgMask ||| (p.cfg &&& 2) }

def execPcfgEnable (fn p : Nat) (val : BitVec 64) (s : State) : Out :=
  .next (s.hostWrite fn (fun s => if fn = 0 ∧ p < 16 ∧ ¬ (s.pool p).en ∧ val.getLsbD 0 then s.poolEnable p val else s))
def execPcfgDisable (fn p : Nat) (val : BitVec 64) (s : State) : Out :=
  .next (s.hostWrite fn (fun s => if fn = 0 ∧ p < 16 ∧ (s.pool p).en ∧ ¬ val.getLsbD 0 then s.poolDisable p else s))

/-- A register of a pool's block written. -/
def State.poolWrite (s : State) (k off : Nat) (val : Dword) : State :=
  let p := s.pool k
  let base := val &&& 0xFFFFFFFFF000
  match off with
  | 0x00 => s.pcfg k val
  | 0x08 => if p.en then s else s.setPool k { p with arena := base }
  | 0x10 => if p.en then s else s.setPool k { p with md := base }
  | 0x18 => if p.en then s else s.setPool k { p with sids := val &&& 0x1FFFFFFFF }
  | 0x20 => if p.en then s else s.setPool k { p with rot := val &&& 0xFFFFFFFFFFFC }
  | _ => s

/-! ### Mailboxes (R366) -/

/-- MBCFG written: EN 0 → 1 empties the mailbox; while EN = 1 only a write that clears EN counts. -/
def State.mbcfg (s : State) (k : Nat) (val : Dword) : State :=
  let m := s.mbox k
  let cfg := val &&& 0x7FFFF
  if m.en then (if val.getLsbD 0 then s else s.setMbox k { m with cfg := cfg })
  else if val.getLsbD 0 then (s.zeroRuns [(mbmLoc + k * 0x200, 0x200)]).setMbox k { m with cfg := cfg, version := 0, time := 0, front := false }
  else s.setMbox k { m with cfg := cfg }

def execMbcfgEnable (fn m : Nat) (val : BitVec 64) (s : State) : Out :=
  .next (s.hostWrite fn (fun s => if fn = 0 ∧ m < 4096 ∧ ¬ (s.mbox m).en ∧ val.getLsbD 0 then s.mbcfg m val else s))

/-! ### Seizure, debugging, queries, tracing (R340, R374, R392, R400, R408) -/

/-- Some tile is seized by a tenant, from the start of the swap to the end of the release. -/
def State.tenantSeizes (s : State) (t : Nat) : Bool :=
  s.tiles.any (fun y =>
    let by_ := (s.task? y.2.seize.task).bind (fun k => s.launch? k.launch)
    let b := (s.ctx y.1 0).b1
    decide (2 ≤ y.2.seize.st) && (by_.any (fun l => l.tenant == t) || (b.kind == 2 && b.tenant == t)))

/-- LEASHSET (R374). -/
def State.leashset (s : State) (t : Nat) (val : Dword) : State :=
  if s.tenantSeizes t then s else s.setTenant t { s.tenant t with leash := val &&& 0xFFFFFFFF0007FFFF }

/-- TDBGREL (R392): a halted context goes on. -/
def State.tdbgrel (s : State) (val : Dword) : State :=
  let r : BankRef := ⟨dfld val 8 0, dfld val 11 9, dfld val 12 12⟩
  s.rouse r .debug

def execTdbgrelWrite (fn t : Nat) (val : BitVec 64) (s : State) : Out :=
  .next (s.hostWrite fn (fun s => if fn = 0 ∧ t < 64 then s.tdbgrel val else s))

/-- The debug block of a tenant. -/
def State.debugWrite (s : State) (t off : Nat) (val : Dword) : State :=
  let x := s.tenant t
  match off with
  | 0x00 => s.setTenant t { x with save := val &&& 0xFFFFFFFFF000 }
  | 0x08 => s.setTenant t { x with saveSize := val &&& 0xFFFFFFF000 }
  | 0x10 => s.setTenant t { x with debug := val.getLsbD 0 }
  | 0x18 => s.tdbgrel val
  | _ => s

/-- LVQ written: a query starts (R408). -/
def State.lvqWrite (s : State) (t : Nat) (val : Dword) : State :=
  let x := s.tenant t
  s.setTenant t { x with lvq := val &&& 0xFFFFFFFF00000007, lvres := x.lvres ||| 0x40 }

def execLvqWrite (fn t : Nat) (val : BitVec 64) (s : State) : Out :=
  .next (s.hostWrite fn (fun s => if t < 64 ∧ s.sees fn t then s.lvqWrite t val else s))

/-- TRCTL_ENABLE: a write of TRCTL that sets EN from 0 to 1 (R340). -/
def execTrctlEnable (tile : Nat) (val : BitVec 64) (s : State) : Out :=
  .next (if (isLa tile || isXa tile) && val.getLsbD 0 && !(s.tile tile).trctl.getLsbD 0 then
    s.setTile tile (traceWrite (s.tile tile) val.toNat) else s)

/-! ### Functions and apertures (R250, R455) -/

/-- FNTEN of a virtual function. -/
def State.fntenWrite (s : State) (f : Nat) (val : Dword) : State :=
  let busy : Nat → Bool := fun t => s.liveOf t || s.queueOn t
  if busy ((tget 0 s.fnten f).toNat % 64) || busy (dfld val 5 0) then s else { s with fnten := tset s.fnten f (BitVec.ofNat 7 (dfld val 6 0)) }

/-! ### Every register of BAR 0 -/

/-- The bytes of the firmware update window (R420). -/
def State.windowWrite (s : State) (off : Nat) (val : Dword) : State :=
  if s.boot.fwBusy then s else { s with boot := { s.boot with window := memWrite s.boot.window off (natBytes 8 val.toNat) } }

/-- Registers below 0x1000 that only the physical function writes. -/
def State.lowWrite (s : State) (off : Nat) (val : Dword) : State :=
  if off = 0x300 then { s with fe := { s.fe with tstarve := dfld val 15 0, starveOff := val.getLsbD 16 } }
  else if off = 0x308 then s.fepreempt val
  else if off = 0x310 then { s with fe := { s.fe with twait := dfld val 15 0, tstall := dfld val 31 16, kill := val.getLsbD 32 } }
  else if 0x400 ≤ off ∧ off < 0x600 then
    s.setQueue ((off - 0x400) / 8) { s.queue ((off - 0x400) / 8) with quant := BitVec.ofNat 32 (dfld val 31 0) }
  else if off = 0x600 then (if val.getLsbD 0 then s.fwGo else s)
  else if off = 0x710 then { s with fe := { s.fe with scrubPeriod := dfld val 7 0, scrubOff := val.getLsbD 8 } }
  else if off = 0x800 then s.peerctl val
  else if off = 0x808 then (if s.peer.en then s else { s with peer := { s.peer with addr := val } })
  else if 0x900 ≤ off ∧ off < 0xB40 then { s with b2ap := tset s.b2ap ((off - 0x900) / 8) (val &&& 0xFFFFFFFFF0FF) }
  else if 0xC08 ≤ off ∧ off < 0xC48 then s.fntenWrite ((off - 0xC00) / 8) val
  else s

/-- Register blocks that only the physical function writes. -/
def State.pfWrite (s : State) (off : Nat) (val : Dword) : State :=
  if off < 0x1000 then s.lowWrite off val
  else if 0x20000 ≤ off ∧ off < 0x21000 then
    let t := (off - 0x20000) / 0x40
    let k := off % 0x40 / 8
    let x := s.tenant t
    if s.liveOf t then s
    else s.setTenant t { x with memb := BitVec.ofNat 512 (x.memb.toNat - fld x.memb.toNat (64 * k + 63) (64 * k) * 2 ^ (64 * k) + val.toNat * 2 ^ (64 * k)) }
  else if 0x30000 ≤ off ∧ off < 0x34000 then s.tenantWrite ((off - 0x30000) / 0x100) (off % 0x100) val
  else if 0x40000 ≤ off ∧ off < 0x40400 then s.poolWrite ((off - 0x40000) / 0x40) (off % 0x40) val
  else if 0x50000 ≤ off ∧ off < 0x50200 then s.leashset ((off - 0x50000) / 8) val
  else if 0x60000 ≤ off ∧ off < 0x61000 then s.debugWrite ((off - 0x60000) / 0x40) (off % 0x40) val
  else if 0x80000 ≤ off ∧ off < 0xA0000 then (if off % 0x20 = 0 then s.mbcfg ((off - 0x80000) / 0x20) val else s)
  else if 0xC0000 ≤ off ∧ off < 0xC6000 then
    let o := off % 0x400
    if 0x100 ≤ o ∧ o < 0x300 then s.rmapWrite ((off - 0xC0000) / 0x400) ((o - 0x100) / 8) val else s
  else if 0x100000 ≤ off ∧ off < 0x200000 then s.windowWrite (off - 0x100000) val
  else s

/-- Registers that a virtual function reaches too, when its tenant owns them. -/
def State.sharedWrite (s : State) (fn off : Nat) (val : Dword) : State :=
  if 0x10000 ≤ off ∧ off < 0x12000 then s.queueWrite fn ((off - 0x10000) / 0x80) (off % 0x80) val
  else if 0x70000 ≤ off ∧ off < 0x71000 then
    let t := (off - 0x70000) / 0x40
    if off % 0x40 = 0 ∧ s.sees fn t then s.lvqWrite t val else s
  else if off = 0xD4000 then s.logTail fn 0 val
  else if 0xD5000 ≤ off ∧ off < 0xD5200 then s.logTail fn ((off - 0xD5000) / 8 + 1) val
  else if fn = 0 then s.pfWrite off val
  else s

/-- The host table of versions: kept before READY, and after it while no queue is enabled; index 7 is reserved (R7, R26, R36, R39). -/
def State.rangeWrite (s : State) (i : Nat) (val : Dword) : State :=
  if (s.boot.phase = 6 ∧ s.anyQueueOn) ∨ 7 ≤ i then s
  else { s with boot := { s.boot with hostRange := tset s.boot.hostRange i (val.setWidth 32) } }

/-- A host write to BAR 0 (R24, R26): a range word takes the low 32 bits, and only its own index changes (log entry 90). -/
def State.bar0Write (s : State) (fn off : Nat) (val : Dword) : State :=
  if ¬ s.fnOk fn ∨ s.boot.phase ≤ 1 then s
  else if 0x220 ≤ off ∧ off < 0x240 ∧ off % 4 = 0 then (if fn = 0 then s.rangeWrite ((off - 0x220) / 4) val else s)
  else if off = 0x240 then (if fn = 0 then s.ivtctl val else s)
  else if s.boot.phase ≠ 6 ∨ off % 8 ≠ 0 then s
  else s.sharedWrite fn off val

/-- REGISTER_WRITE. -/
def execRegisterWrite (fn off : Nat) (val : BitVec 64) (s : State) : Out := .next (s.bar0Write fn off val)

/-! ### What the registers read as -/

/-- BOOTSTAT (R28). -/
def State.bootstat (s : State) : Dword :=
  let b := s.boot
  let c := b.cct
  BitVec.ofNat 64 (b.phase % 16 + b2n b.lock * 2 ^ 4 + (c.map (·.slot)).getD 0 % 2 * 2 ^ 5 + ((c.map (·.hfWidth)).getD 1 - 1) % 2 * 2 ^ 6 +
    (c.map (·.hfCol)).getD 0 % 32 * 2 ^ 7 + b2n b.dtbSync * 2 ^ 12 + b2n b.degr * 2 ^ 13 + b2n b.peer * 2 ^ 14 + b2n b.negf * 2 ^ 15 +
    b.err % 256 * 2 ^ 16 + b.chok.toNat * 2 ^ 24)

/-- QSTAT (R88). -/
def Queue.stat (q : Queue) : Dword :=
  BitVec.ofNat 64 (q.st % 16 + q.prung % 4 * 2 ^ 4 + q.prio % 16 * 2 ^ 6 + q.cause % 1024 * 2 ^ 10 + q.level % 4 * 2 ^ 20 +
    q.loops.length % 4 * 2 ^ 22 + q.preds.length % 16 * 2 ^ 24 + q.signals.length % 16 * 2 ^ 28 + q.exec.toNat * 2 ^ 32)

/-- A register of a queue block (R83). -/
def Queue.read (q : Queue) (off : Nat) : Dword :=
  match off with
  | 0x00 => BitVec.ofNat 64 (q.size % 16 + q.base.toNat * 2 ^ 12)
  | 0x08 => BitVec.ofNat 64 q.tail
  | 0x10 => BitVec.ofNat 64 q.head
  | 0x18 => BitVec.ofNat 64 (b2n q.en + q.prioMax % 16 * 2 ^ 4 + q.tenant % 64 * 2 ^ 8 + q.evec % 32 * 2 ^ 14 + b2n q.eien * 2 ^ 19 +
      q.t1 % 256 * 2 ^ 32 + q.t2 % 256 * 2 ^ 40)
  | 0x20 => q.stat
  | 0x28 => q.lastLid.setWidth 64
  | 0x30 => BitVec.ofNat 64 (q.faultPc.toNat + q.faultLvl % 4 * 2 ^ 48)
  | 0x38 => q.markv.setWidth 64
  | _ => 0

/-- A register of a tenant's translation block (R265, R266). -/
def Tenant.read (x : Tenant) (off : Nat) : Dword :=
  if off = 0x00 then BitVec.ofNat 64 (b2n x.ptEn + x.ptBase.toNat * 2 ^ 12)
  else if off = 0x08 then BitVec.ofNat 64 (x.tlbSize.toNat + x.tlbVa.toNat * 2 ^ 18 + b2n x.tlbBusy * 2 ^ 63)
  else if off = 0x10 then BitVec.ofNat 64 (x.fb.length + b2n x.fbDrop * 2 ^ 4 + b2n x.replay * 2 ^ 5)
  else if off = 0x18 then BitVec.ofNat 64 (b2n x.fbIen + x.fbVec.toNat * 2)
  else if 0x20 ≤ off ∧ off < 0xA0 then
    match x.fb[(off - 0x20) / 16]? with
    | some e =>
      if off % 16 = 0 then BitVec.ofNat 64 (1 + b2n e.rd * 2 + b2n e.wr * 4 + b2n e.ex * 8 + e.granule % 2 ^ 30 * 2 ^ 18)
      else BitVec.ofNat 64 (e.joined % 2 ^ 16 + e.engine.toNat * 2 ^ 16 + e.lid.toNat * 2 ^ 32)
    | none => 0
  else 0

/-- The pages of an arena whose words meet a test; a word that cannot be reached counts for none. -/
def State.pagesOf (s : State) (k : Nat) (f : Nat → Bool) : Nat :=
  ((List.range (2 ^ (s.pool k).aord)).filter (fun i =>
    match (s.poolTr k ((s.pool k).wordVa i) 0).2 with
    | some a => f (s.load a 8)
    | none => false)).length

/-- The sequences of a pool that are OPEN. -/
def State.openSeqs (s : State) (k : Nat) : Nat :=
  ((List.range (s.pool k).snum).filter (fun i =>
    match (s.poolTr k ((s.pool k).descVa ((s.pool k).sbase + i)) 0).2 with
    | some a => s.load a 1 == 1
    | none => false)).length

/-- PSTAT (R300). -/
def State.pstat (s : State) (k : Nat) : Dword :=
  if (s.pool k).en then
    BitVec.ofNat 64 (((s.pool k).free.map (fun r => 2 ^ r.2)).foldl (· + ·) 0 +
      s.pagesOf k (fun w => pwCount w == 0 && pwPins w != 0) * 2 ^ 21 + s.openSeqs k * 2 ^ 42)
  else 0

/-- The peer registers (R413). -/
def Peer.read (p : Peer) (off : Nat) : Dword :=
  match off with
  | 0x00 => BitVec.ofNat 64 (b2n p.en + b2n p.auto * 2 + b2n p.spare * 4 + p.hb * 2 ^ 8 + p.miss * 2 ^ 16 + p.vec * 2 ^ 20 + b2n p.ien * 2 ^ 25)
  | 0x08 => p.addr
  | 0x10 => BitVec.ofNat 64 (p.st + b2n p.role * 2 ^ 3 + p.cmp.toNat * 2 ^ 8 + p.mism * 2 ^ 32 + p.lastPh * 2 ^ 48)
  | _ => 0

/-- CHSTAT (R427). -/
def Channel.stat (x : Channel) : Dword :=
  BitVec.ofNat 64 (b2n x.degr + (if x.degr then x.lane else 0) * 2 + x.rmapN * 2 ^ 8 + b2n x.pprBusy.isSome * 2 ^ 16 + x.ce % 2 ^ 32 * 2 ^ 32)

/-- The control word of a log (R432). -/
def ErrLog.ctl (g : ErrLog) : Dword := BitVec.ofNat 64 (g.head + g.tail * 2 ^ 16)
/-- A doubleword of a log. -/
def ErrLog.read (g : ErrLog) (off : Nat) : Dword := (tget 0 g.recs (off / 64)).extractLsb' (8 * (off % 64)) 64

/-- Registers below 0x10000, to the physical function; IVTCTL, of which the spec gives the write only, reads 0 (log entry 90). -/
def State.lowRead (s : State) (off : Nat) : Dword :=
  let b := s.boot
  if 0x200 ≤ off ∧ off < 0x220 then (tget 0 b.devRange ((off - 0x200) / 4)).setWidth 64
  else if 0x220 ≤ off ∧ off < 0x240 then (tget 0 b.hostRange ((off - 0x220) / 4)).setWidth 64
  else if 0x260 ≤ off ∧ off < 0x280 then tget 0 b.negotiated ((off - 0x260) / 4)
  else if off = 0x300 then BitVec.ofNat 64 (s.fe.tstarve + b2n s.fe.starveOff * 2 ^ 16)
  else if off = 0x308 then
    BitVec.ofNat 64 (s.fe.preQueue + s.fe.preRung * 2 ^ 6 + b2n (s.queue s.fe.preQueue).ladder.isSome * 2 ^ 9)
  else if off = 0x310 then BitVec.ofNat 64 (s.fe.twait + s.fe.tstall * 2 ^ 16 + b2n s.fe.kill * 2 ^ 32)
  else if 0x400 ≤ off ∧ off < 0x600 then (s.queue ((off - 0x400) / 8)).quant.setWidth 64
  else if off = 0x600 then BitVec.ofNat 64 (b2n b.fwBusy * 2 + b.fwResult * 2 ^ 4)
  else if off = 0x700 then BitVec.ofNat 64 (b.tj + b.clkStep * 2 ^ 8 + b.thr * 2 ^ 12 + (470 + Config.coreTrim s.cycle % 61) * 2 ^ 28)
  else if off = 0x710 then BitVec.ofNat 64 (s.fe.scrubPeriod + b2n s.fe.scrubOff * 2 ^ 8 + s.fe.passes * 2 ^ 32)
  else if 0x800 ≤ off ∧ off < 0x818 then s.peer.read (off - 0x800)
  else if 0x900 ≤ off ∧ off < 0xB40 then tget 0 s.b2ap ((off - 0x900) / 8)
  else if 0xC08 ≤ off ∧ off < 0xC48 then (tget 0 s.fnten ((off - 0xC00) / 8)).setWidth 64
  else if 0x1000 ≤ off ∧ off < 0x2000 then (tget 0 s.peer.slots ((off - 0x1000) / 64)).extractLsb' (8 * (off % 64)) 64
  else if 0x8000 ≤ off ∧ off < 0x87A0 then BitVec.ofNat 64 (bytesNat ((Config.identityKey.drop (off - 0x8000)).take 8))
  else 0

/-- Register blocks that only the physical function reads. -/
def State.pfRead (s : State) (off : Nat) : Dword :=
  if off < 0x10000 then s.lowRead off
  else if 0x20000 ≤ off ∧ off < 0x21000 then (s.tenant ((off - 0x20000) / 0x40)).memb.extractLsb' (8 * (off % 0x40)) 64
  else if 0x40000 ≤ off ∧ off < 0x40400 then
    let p := s.pool ((off - 0x40000) / 0x40)
    match off % 0x40 with
    | 0x00 => p.cfg
    | 0x08 => p.arena
    | 0x10 => p.md
    | 0x18 => p.sids
    | 0x20 => p.rot
    | 0x28 => s.pstat ((off - 0x40000) / 0x40)
    | _ => 0
  else if 0x50000 ≤ off ∧ off < 0x50200 then (s.tenant ((off - 0x50000) / 8)).leash
  else if 0x60000 ≤ off ∧ off < 0x61000 then
    let x := s.tenant ((off - 0x60000) / 0x40)
    match off % 0x40 with
    | 0x00 => x.save
    | 0x08 => x.saveSize
    | 0x10 => BitVec.ofNat 64 (b2n x.debug)
    | _ => 0
  else if 0xC0000 ≤ off ∧ off < 0xC6000 then
    let c := s.channel ((off - 0xC0000) / 0x400)
    let o := off % 0x400
    if o = 0 then c.stat else if 0x100 ≤ o ∧ o < 0x300 then tget 0 c.rmap ((o - 0x100) / 8) else 0
  else if 0xD0000 ≤ off ∧ off < 0xD4000 then s.log.read (off - 0xD0000)
  else if off = 0xD4000 then s.log.ctl
  else if 0x100000 ≤ off ∧ off < 0x200000 then BitVec.ofNat 64 (bytesNat (memRead s.boot.window (off - 0x100000) 8))
  else 0

/-- The three registers of a mailbox (R366): PEND while a publication has arrived and has not flipped. -/
def Mailbox.read (m : Mailbox) (off : Nat) : Dword :=
  match off with
  | 0x00 => m.cfg
  | 0x08 => BitVec.ofNat 64 (m.version.toNat + b2n m.front * 2 ^ 48 + b2n (m.pubs.any (·.arrived)) * 2 ^ 49)
  | 0x10 => m.time
  | _ => 0

/-- A queue as its registers show it: IDLE when nothing whole is below the tail (R88). -/
def State.seenQueue (s : State) (k : Nat) : Queue :=
  let q := s.queue k
  if q.st = 2 ∧ ¬ s.queueReady k then { q with st := 1 } else q

/-- A host read of BAR 0 (R24, R26, R455): nothing answers before a table is selected, and before READY only BOOTSTAT and the version
tables do; the result words are no version tables (log entry 98), and every function sees BOOTSTAT (log entry 56). -/
def State.bar0Read (s : State) (fn off : Nat) : Dword :=
  if ¬ s.fnOk fn ∨ s.boot.phase ≤ 1 ∨ (s.boot.phase = 15 ∧ s.boot.cct.isNone) then 0
  else if off = 0 then s.bootstat
  else if s.boot.phase ≠ 6 then (if fn = 0 ∧ 0x200 ≤ off ∧ off < 0x240 then s.lowRead off else 0)
  else if 0x10000 ≤ off ∧ off < 0x12000 then
    let q := s.queue ((off - 0x10000) / 0x80)
    if s.sees fn q.tenant then (s.seenQueue ((off - 0x10000) / 0x80)).read (off % 0x80) else 0
  else if 0x30000 ≤ off ∧ off < 0x34000 then
    let t := (off - 0x30000) / 0x100
    if s.sees fn t then (s.tenant t).read (off % 0x100) else 0
  else if 0x70000 ≤ off ∧ off < 0x71000 then
    let t := (off - 0x70000) / 0x40
    let x := s.tenant t
    let o := off % 0x40
    if ¬ s.sees fn t then 0
    else if o = 0 then x.lvq else if o = 8 then x.lvres else if 0x10 ≤ o ∧ o < 0x30 then x.lvdig.extractLsb' (8 * (o - 0x10)) 64 else 0
  else if 0x80000 ≤ off ∧ off < 0xA0000 then
    let m := s.mbox ((off - 0x80000) / 0x20)
    if s.sees fn m.tenant then m.read (off % 0x20) else 0
  else if 0xD5000 ≤ off ∧ off < 0xD5200 then
    let t := (off - 0xD5000) / 8
    if s.sees fn t then (s.tenant t).log.ctl else 0
  else if 0xE0000 ≤ off ∧ off < 0x100000 then
    let t := (off - 0xE0000) / 0x800
    if s.sees fn t then (s.tenant t).log.read (off % 0x800) else 0
  else if fn = 0 then s.pfRead off
  else 0

/-! ### BAR 2 (R250) -/

/-- The parts of an access: naturally aligned, of up to 8 bytes, or one aligned part of 64. -/
def hostParts : Nat → Nat → Nat → List (Nat × Nat)
  | 0, _, _ => []
  | f + 1, o, n =>
    if n = 0 then []
    else
      let k := if 8 ≤ n ∧ o % 8 = 0 then 8 else if 4 ≤ n ∧ o % 4 = 0 then 4 else if 2 ≤ n ∧ o % 2 = 0 then 2 else 1
      (o, k) :: hostParts f (o + k) (n - k)

def bar2Parts (off size : Nat) : List (Nat × Nat) := if size = 64 ∧ off % 64 = 0 then [(off, 64)] else hostParts size off size

/-- An aperture: its number, register, and the address of an offset. -/
structure Aperture where
  ix : Nat
  reg : Dword
  addr : Nat

def State.aperture (s : State) (fn off : Nat) : Aperture :=
  let size := 2 ^ (27 + s.bar2Exp fn)
  let reg := tget 0 s.b2ap (fn * 8 + off / size)
  ⟨off / size, reg, dfld reg 47 12 * 4096 / size * size + off % size⟩

def Aperture.phys (a : Aperture) : Bool := a.reg.getLsbD 1
def Aperture.tenant (a : Aperture) : Nat := dfld a.reg 7 2

/-- Where a part goes, or the cause that refuses it: 0 for an aperture that is disabled. -/
def State.hostTarget (s : State) (fn : Nat) (a : Aperture) (n kind : Nat) : State × Except Nat Target :=
  if ¬ a.reg.getLsbD 0 ∨ (a.phys ∧ fn ≠ 0) then (s, .error 0)
  else if a.phys then (s, if dramBytes < a.addr + n then .error 0x0C5 else .ok (.mem a.addr))
  else
    match region a.addr with
    | .mbm o => (s, if kind = 0 then .ok (.mem (mbmLoc + o)) else .error 0x082)
    | _ =>
      match s.check ⟨512, a.tenant, .other⟩ a.addr n kind with
      | (s, .ok t) => (s, .ok t)
      | (s, .trap c) => (s, .error c)
      | (s, .absent) => (s, .error 0x0C1)

/-- The record of a refused access (R456). -/
def State.refuseHost (s : State) (fn : Nat) (a : Aperture) (kind cause : Nat) : State :=
  s.record { cause := 0x088, sev := 2, engine := engineId 8 0x1DA 0, tenant := if a.phys then none else some a.tenant,
             va := if a.phys then none else some a.addr, pa := if a.phys then some a.addr else none,
             detail := fn % 16 + a.ix % 8 * 2 ^ 4 + kind * 2 ^ 8 + cause % 1024 * 2 ^ 16 }

/-- The targets of every part; the first part that is refused refuses the access, with its record. -/
def State.hostTargets (s : State) (fn kind : Nat) : List (Nat × Nat) → State × Option (List (Nat × Nat × Target))
  | [] => (s, some [])
  | (o, n) :: ps =>
    let a := s.aperture fn o
    match s.hostTarget fn a n kind with
    | (s, .error c) => (s.refuseHost fn a kind c, none)
    | (s, .ok t) =>
      match s.hostTargets fn kind ps with
      | (s, some ts) => (s, some ((o, n, t) :: ts))
      | r => r

/-- A BAR 2 access that the function's window holds. -/
def State.bar2Ok (s : State) (fn off size : Nat) : Bool :=
  s.fnOk fn && decide (1 ≤ size) && decide (size ≤ 64) && decide (off + size ≤ 2 ^ (30 + s.bar2Exp fn))

/-- A host's access through BAR 2 that has found its targets: performed, or held at a busy matrix unit (R215). -/
def State.bar2Access (s : State) (fn off : Nat) (rd : Bool) (val : Nat) (ts : List (Nat × Nat × Target)) : State :=
  s.unitAccess ⟨some fn, rd, off, ts.map (fun p => (p.1, p.2.1, p.2.2.loc)), val, 6, 0x1DA, s.fresh⟩

/-- A host read through BAR 2. -/
def State.bar2Read (s : State) (fn off size : Nat) : State :=
  if ¬ s.bar2Ok fn off size then s
  else if s.boot.phase ≠ 6 then s.answer fn off 0
  else
    match s.hostTargets fn 0 (bar2Parts off size) with
    | (s, none) => s.answer fn off (ones size)
    | (s, some ts) => s.bar2Access fn off true 0 ts

/-- A host write through BAR 2. -/
def State.bar2Write (s : State) (fn off size : Nat) (val : BitVec 512) : State :=
  if ¬ s.bar2Ok fn off size ∨ s.boot.phase ≠ 6 then s
  else
    match s.hostTargets fn 1 (bar2Parts off size) with
    | (s, none) => s
    | (s, some ts) => s.bar2Access fn off false val.toNat ts

def execHostBar2Read (fn off size : Nat) (s : State) : Out := .next (s.bar2Read fn off size)
def execHostBar2Write (fn off size : Nat) (val : BitVec 512) (s : State) : Out := .next (s.bar2Write fn off size val)

/-- HOST_MBM_WINDOW_ACCESS: an access through BAR 2 whose address lies in the MBM window: a read returns the raw bytes, and a write is
discarded (R366). -/
def execHostMbmWindowAccess (fn off size : Nat) (wr : Bool) (val : BitVec 512) (s : State) : Out :=
  match region (s.aperture fn off).addr with
  | .mbm _ => .next (if wr then s.bar2Write fn off size val else s.bar2Read fn off size)
  | _ => .next s

end Sys2Proof.Machine
end

