-- ==== Sys2Proof/Machine/Misc.lean ====
section
/-! DEFINITION. Results and accesses that land later, the fetch buffer, page walks, replay-all, illegal bits, and the relaxed prefix
(R57, R58, R71 to R73, R135 to R138, R251, R252, R264, R267). -/

namespace Sys2Proof.Machine

/-! ### Results and accesses (R135, R251, R252) -/

/-- A CHUNB that waited for results of its port ends (R327). -/
def State.endChunb (s : State) (r : BankRef) : State :=
  match (s.bank r).wait with
  | some (.chunb k) => if (s.bank r).sending k then s else (s.unbind r k).wake r .none 0
  | _ => s

/-- A result that a SEND port of a seized tile's bank 0 has yet to send stays until the release (R330). -/
def State.sendHeld (s : State) (r : BankRef) (d : Dest) : Bool :=
  match d with
  | .v n => r.bank == 0 && s.seized r.tile && decide (28 ≤ n) && ((s.bank r).port (n - 28)).any (·.mode == 1)
  | _ => false

/-- RESULT_WRITEBACK: the oldest result of a bank whose latency is over lands. -/
def execResultWriteback (tile slot bank : Nat) (s : State) : Out :=
  let r : BankRef := ⟨tile, slot, bank⟩
  let b := s.bank r
  match findIx (fun (p : Pending) => decide (p.due ≤ s.cycle) && !s.sendHeld r p.dest) b.pend 0 with
  | some (k, p) => .next (((s.setBank r { b with pend := listDel b.pend k }).landPend r p).endChunb r)
  | none => .next s

/-- An outstanding relaxed access performed, when it is of the kind asked for, with the failing symbols or bits that a read meets. -/
def State.performAt (s : State) (r : BankRef) (ix : Nat) (remote : Bool) (errs : Nat) : State :=
  match (s.bank r).rlx[ix]? with
  | some a =>
    if a.remote == remote ∧ (s.accessBusy a).isSome then
      let b := s.bank r
      s.setBank r { b with rlx := b.rlx.map (fun x => if x.id = a.id then { x with pass := s.accessBusy a } else x) }
    else if a.remote == remote then
      (match a.write, a.parts with
        | false, p :: _ => if isDramLoc p.loc ∨ xaLoc ≤ p.loc then s.plant (markOf p.loc) errs else s
        | _, _ => s).performAccess r a
    else s
  | none => s

/-- ACCESS_PERFORMED: an outstanding access to the bank's own local store, to DRAM or to host memory. Which of the four it is stands in `ix`,
below the number of failing symbols or bits that its read meets (log entry 5). -/
def execAccessPerformed (tile slot bank ix : Nat) (s : State) : Out :=
  .next (s.performAt ⟨tile, slot, bank⟩ (ix % 4) false (ix / 4))
/-- REMOTE_ACCESS_ARRIVAL: an outstanding access to every other place. -/
def execRemoteAccessArrival (tile slot bank ix : Nat) (s : State) : Out := .next (s.performAt ⟨tile, slot, bank⟩ ix true 0)

/-! ### The fetch buffer (R136 to R138) -/

/-- A control-transfer instruction, by its first two halfwords (R136). -/
def isControl (lo hi : BitVec 16) : Bool :=
  let w : BitVec 32 := hi ++ lo
  if lo.extractLsb' 0 1 = 0#1 then [14, 15, 16, 18, 19, 20].contains (lo.extractLsb' 1 5).toNat
  else
    let m := majorOf w
    (decide (14 ≤ m) && decide (m ≤ 19)) || m == 52 || (m == 50 && (slotF w == 1 || slotF w == 3)) ||
      (m == 49 && (slotF w).extractLsb' 0 5 == 1)

/-- The halfwords up to the end of the first control-transfer instruction that is whole, over at most `fuel` instructions. -/
def trimBuf : Nat → List (BitVec 16) → List (BitVec 16)
  | 0, h => h
  | f + 1, h =>
    let n := lengthOf h / 2
    if h.length < n ∨ h = [] then h
    else if isControl (h.headD 0) ((h.drop 1).headD 0) then h.take n
    else h.take n ++ trimBuf f (h.drop n)

/-- The buffer's fetch has stopped behind a control-transfer instruction. -/
def bufStops : Nat → List (BitVec 16) → Bool
  | 0, _ => false
  | f + 1, h =>
    let n := lengthOf h / 2
    if h.length < n ∨ h = [] then false
    else isControl (h.headD 0) ((h.drop 1).headD 0) || bufStops f (h.drop n)

/-- Halfwords of the instruction at the head of a run; a C.RLX pair is one (R71). -/
def headLen (h : List (BitVec 16)) : Nat := if isPrefix (h.headD 0) then 1 + lengthOf (h.drop 1) / 2 else lengthOf h / 2

/-- Halfwords of the instruction at the head of the buffer, when all of it is there. -/
def wholeLen (h : List (BitVec 16)) : Option Nat :=
  if h = [] ∨ (isPrefix (h.headD 0) ∧ h.drop 1 = []) ∨ h.length < headLen h then none else some (headLen h)

/-- What the buffer keeps: eight halfwords, or one longer instruction alone (R136); the rest of a unit is read again later (log entry 87). -/
def keepBuf (h : List (BitVec 16)) : List (BitVec 16) :=
  let h := trimBuf 32 h
  if 8 < headLen h then h.take (headLen h) else h.take 8

/-- The address of the halfword after the buffer. -/
def Bank.fetchVa (b : Bank) : Va := b.pc + BitVec.ofNat 48 (2 * b.fbuf.length)

/-- FETCH_UNIT_READ: the fetcher reads the next unit of a thread's sequential words; a fault shows nothing yet. -/
def execFetchUnitRead (tile slot : Nat) (s : State) : Out :=
  let r : BankRef := ⟨tile, slot, (s.ctx tile slot).active⟩
  let b := s.bank r
  if 512 ≤ tile ∨ ¬ b.seeded ∨ b.staging ∨ (b.rpt.act ∧ ¬ b.rpt.frozen) ∨ max 8 (headLen b.fbuf) ≤ b.fbuf.length ∨ bufStops 32 b.fbuf then .next s
  else
    match s.fetchUnit r b.fetchVa with
    | (s, .ok hs) => .next (s.setBank r { s.bank r with fbuf := keepBuf (b.fbuf ++ hs) })
    | (s, .error _) => .next s

/-! ### Translation (R264, R267) -/

/-- PAGE_WALK_COMPLETE: a walk for a tile's miss ends; a valid leaf enters the TLBs. -/
def execPageWalkComplete (tile t va : Nat) (s : State) : Out :=
  .next (if t < 64 ∧ isTrans va ∧ (hasWindow tile ∨ tile = 512) then
      (if s.walking t va then s.endWalk t va else (s.translate ⟨tile, t, .task⟩ va 0).1.endWalk t va)
    else s)

/-- The tile whose TLBs a parked request goes through. -/
def Requester.tile : Requester → Nat
  | .thread b => b.tile % 512
  | .fetch b => b.tile % 512
  | .copy tile _ _ => tile
  | .burst tile _ _ => tile
  | .reduction tile _ => tile
  | .staging _ => 512
  | .digest _ => 512

/-- A requester whose page is there, or whose fault it will now meet, goes on. -/
def State.unparkWho (s : State) (w : Requester) : State :=
  match w with
  | .thread r =>
    match (s.bank r).wait with
    | some (.page _ _) => s.unpark r
    | _ => s
  | .fetch r =>
    match (s.bank r).wait with
    | some (.fetch _) => s.unpark r
    | _ => s
  | .copy tile id chunk =>
    let t := s.tile tile
    s.setTile tile { t with bte := t.bte.map (fun c => if c.id = id then { c with parked := c.parked.filter (· != chunk) } else c) }
  | .burst tile id ix =>
    let t := s.tile tile
    s.setTile tile { t with breads := t.breads.map (fun c => if c.id = id then { c with parked := c.parked.filter (· != ix) } else c) }
  | .reduction tile id =>
    let t := s.tile tile
    s.setTile tile { t with reds := t.reds.map (fun c => if c.id = id then { c with parked := false } else c) }
  | .staging id => { s with tasks := s.tasks.map (fun t => if t.id = id then { t with parked := none } else t) }
  | .digest key => { s with launches := s.launches.map (fun l => if l.key = key then { l with digestParked := false } else l) }

/-- A parked request goes through translation again (R267): it parks again on a page that is still absent, or its requester goes on. A copy
command's descriptor read and an LDT's reads go on at once with what they took at issue (R236, R281). -/
def State.resendOne (s : State) (t : Nat) (p : Parked) : State :=
  let plain := fun (s : State) =>
    match s.translate ⟨p.who.tile, t, .task⟩ p.va p.kind with
    | (s, .absent) => s.parkRequest t p.who p.va p.kind p.lid
    | (s, _) => s.unparkWho p.who
  match p.who with
  | .thread r =>
    match (s.bank r).wait with
    | some (.page _ _) => plain s
    | some (.desc ..) => s.resumeDesc r
    | _ => s.resumeLdt r 256
  | _ => plain s

/-- REPLAY_ALL_SEND: the next request is sent; the last one clears REPLAY, and queues that waited for it go on (R109, R267). -/
def execReplayAllSend (t : Nat) (s : State) : Out :=
  let x := s.tenant t
  if ¬ x.replay then .next s
  else
    match x.resend with
    | [] => .next (s.setTenant t { x with replay := false }).releaseQueues
    | p :: rest =>
      let s := (s.setTenant t { x with resend := rest, replay := !rest.isEmpty }).resendOne t p
      .next (if rest.isEmpty then s.releaseQueues else s)

/-! ### Bits that are no instruction, and the relaxed prefix (R71 to R73) -/

/-- ILLEGAL: the precise trap of bits that decoding refuses. -/
def execIllegal (cause : BitVec 10) (bits : BitVec 32) (s : State) : Out :=
  trapAt cause.toNat (s.iaddr.setWidth 64) (bits.setWidth 64) s

/-- The memory instruction joined with a C.RLX; `none` when R71 does not permit the instruction. -/
def relaxedMeaning (i : Instr) (s : State) : Option Out :=
  match i with
  | .ldS8 d a k i => some (execLdS8 d a k i s)
  | .ldZ8 d a k i => some (execLdZ8 d a k i s)
  | .ldS16 d a k i => some (execLdS16 d a k i s)
  | .ldZ16 d a k i => some (execLdZ16 d a k i s)
  | .ldS32 d a k i => some (execLdS32 d a k i s)
  | .ldZ32 d a k i => some (execLdZ32 d a k i s)
  | .ld64 d a k i => some (execLd64 d a k i s)
  | .st8 d a k i => some (execSt8 d a k i s)
  | .st16 d a k i => some (execSt16 d a k i s)
  | .st32 d a k i => some (execSt32 d a k i s)
  | .st64 d a k i => some (execSt64 d a k i s)
  | .ldxS8 d a b k c => some (execLdxS8 d a b k c s)
  | .ldxZ8 d a b k c => some (execLdxZ8 d a b k c s)
  | .ldxS16 d a b k c => some (execLdxS16 d a b k c s)
  | .ldxZ16 d a b k c => some (execLdxZ16 d a b k c s)
  | .ldxS32 d a b k c => some (execLdxS32 d a b k c s)
  | .ldxZ32 d a b k c => some (execLdxZ32 d a b k c s)
  | .ldx64 d a b k c => some (execLdx64 d a b k c s)
  | .stx8 d a b k c => some (execStx8 d a b k c s)
  | .stx16 d a b k c => some (execStx16 d a b k c s)
  | .stx32 d a b k c => some (execStx32 d a b k c s)
  | .stx64 d a b k c => some (execStx64 d a b k c s)
  | .cLd64 r f => some (execCLd64 r f s)
  | .cSt64 r f => some (execCSt64 r f s)
  | .vld d a b k => some (execVld d a b k s)
  | .vst d a b k => some (execVst d a b k s)
  | .vlds d a b k => some (execVlds d a b k s)
  | .vsts d a b k => some (execVsts d a b k s)
  | .vldx d a b k => some (execVldx d a b k s)
  | .vstx d a b k => some (execVstx d a b k s)
  | .vldb d a b k => some (execVldb d a b k s)
  | _ => none

/-- C.RLX: the instruction after it, which the step has fetched with it, runs as a relaxed access of the scope. Its own causes come first, with its
own address and bits, and 0x007 last, with the prefix's. -/
def execCRlx (sc : BitVec 3) (s : State) : Out :=
  let f := s.follow
  let pc := s.me.pc
  if f.cause ≠ 0 then trapAt f.cause.toNat ((pc + 2).setWidth 64) (f.bits.setWidth 64) s
  else
    match f.ins.bind (fun i => relaxedMeaning i
      { s with rlxScope := some sc.toNat, len := 2 + f.len, iaddr := pc + 2, ibits := f.bits }) with
    | some o => o
    | none => trapAt 0x007 (pc.setWidth 64) (BitVec.ofNat 64 (0x22 + sc.toNat * 64)) s

end Sys2Proof.Machine
end

