-- ==== Sys2Proof/Machine/VecFp.lean ====
section
/-! DEFINITION. Floating-point vectors: MO 29 to 31 (R201). -/

namespace Sys2Proof.Machine

/-- A float lane operation of a format on a, b and the old d (R201). -/
def vflt (f : Fmt) (g : Ctl → Nat → Nat → Nat → Nat → Res) (d a b m : BitVec 5) (s : State) : Out :=
  vmap2 f.bits 6 d a b m (fun s i x y old => g s.ctl i x y old) s
/-- VABS and VNEG are operations on the sign bit alone. -/
def vsgn (f : Fmt) (g : Nat → Nat) (d a m : BitVec 5) (s : State) : Out := vmap1 f.bits 6 d a m (fun _ _ x => (g x, 0)) s

/-! ### fp32 -/

def execVaddF32 (d a b m : BitVec 5) (s : State) : Out := vflt fp32 (fun c i x y _ => fAdd fp32 c i 0 x y) d a b m s
def execVsubF32 (d a b m : BitVec 5) (s : State) : Out := vflt fp32 (fun c i x y _ => fSub fp32 c i 0 x y) d a b m s
def execVmulF32 (d a b m : BitVec 5) (s : State) : Out := vflt fp32 (fun c i x y _ => fMul fp32 c i 0 x y) d a b m s
def execVfmaF32 (d a b m : BitVec 5) (s : State) : Out := vflt fp32 (fun c i x y z => fFma fp32 c i 0 false false x y z) d a b m s
def execVfmsF32 (d a b m : BitVec 5) (s : State) : Out := vflt fp32 (fun c i x y z => fFma fp32 c i 0 false true x y z) d a b m s
def execVfnmaF32 (d a b m : BitVec 5) (s : State) : Out := vflt fp32 (fun c i x y z => fFma fp32 c i 0 true false x y z) d a b m s
def execVminF32 (d a b m : BitVec 5) (s : State) : Out := vflt fp32 (fun c _ x y _ => fMinMax fp32 c false x y) d a b m s
def execVmaxF32 (d a b m : BitVec 5) (s : State) : Out := vflt fp32 (fun c _ x y _ => fMinMax fp32 c true x y) d a b m s
def execVscaleF32 (d a b m : BitVec 5) (s : State) : Out := vflt fp32 (fun c i x y _ => fScale fp32 c i x (toS fp32.bits y)) d a b m s
def execVabsF32 (d a m : BitVec 5) (s : State) : Out := vsgn fp32 (fun x => x % 2 ^ (fp32.bits - 1)) d a m s
def execVnegF32 (d a m : BitVec 5) (s : State) : Out := vsgn fp32 (fun x => x ^^^ 2 ^ (fp32.bits - 1)) d a m s

/-! ### bf16 -/

def execVaddBf16 (d a b m : BitVec 5) (s : State) : Out := vflt bf16 (fun c i x y _ => fAdd bf16 c i 0 x y) d a b m s
def execVsubBf16 (d a b m : BitVec 5) (s : State) : Out := vflt bf16 (fun c i x y _ => fSub bf16 c i 0 x y) d a b m s
def execVmulBf16 (d a b m : BitVec 5) (s : State) : Out := vflt bf16 (fun c i x y _ => fMul bf16 c i 0 x y) d a b m s
def execVfmaBf16 (d a b m : BitVec 5) (s : State) : Out := vflt bf16 (fun c i x y z => fFma bf16 c i 0 false false x y z) d a b m s
def execVfmsBf16 (d a b m : BitVec 5) (s : State) : Out := vflt bf16 (fun c i x y z => fFma bf16 c i 0 false true x y z) d a b m s
def execVfnmaBf16 (d a b m : BitVec 5) (s : State) : Out := vflt bf16 (fun c i x y z => fFma bf16 c i 0 true false x y z) d a b m s
def execVminBf16 (d a b m : BitVec 5) (s : State) : Out := vflt bf16 (fun c _ x y _ => fMinMax bf16 c false x y) d a b m s
def execVmaxBf16 (d a b m : BitVec 5) (s : State) : Out := vflt bf16 (fun c _ x y _ => fMinMax bf16 c true x y) d a b m s
def execVscaleBf16 (d a b m : BitVec 5) (s : State) : Out := vflt bf16 (fun c i x y _ => fScale bf16 c i x (toS bf16.bits y)) d a b m s
def execVabsBf16 (d a m : BitVec 5) (s : State) : Out := vsgn bf16 (fun x => x % 2 ^ (bf16.bits - 1)) d a m s
def execVnegBf16 (d a m : BitVec 5) (s : State) : Out := vsgn bf16 (fun x => x ^^^ 2 ^ (bf16.bits - 1)) d a m s

/-! ### fp16 -/

def execVaddF16 (d a b m : BitVec 5) (s : State) : Out := vflt fp16 (fun c i x y _ => fAdd fp16 c i 0 x y) d a b m s
def execVsubF16 (d a b m : BitVec 5) (s : State) : Out := vflt fp16 (fun c i x y _ => fSub fp16 c i 0 x y) d a b m s
def execVmulF16 (d a b m : BitVec 5) (s : State) : Out := vflt fp16 (fun c i x y _ => fMul fp16 c i 0 x y) d a b m s
def execVfmaF16 (d a b m : BitVec 5) (s : State) : Out := vflt fp16 (fun c i x y z => fFma fp16 c i 0 false false x y z) d a b m s
def execVfmsF16 (d a b m : BitVec 5) (s : State) : Out := vflt fp16 (fun c i x y z => fFma fp16 c i 0 false true x y z) d a b m s
def execVfnmaF16 (d a b m : BitVec 5) (s : State) : Out := vflt fp16 (fun c i x y z => fFma fp16 c i 0 true false x y z) d a b m s
def execVminF16 (d a b m : BitVec 5) (s : State) : Out := vflt fp16 (fun c _ x y _ => fMinMax fp16 c false x y) d a b m s
def execVmaxF16 (d a b m : BitVec 5) (s : State) : Out := vflt fp16 (fun c _ x y _ => fMinMax fp16 c true x y) d a b m s
def execVscaleF16 (d a b m : BitVec 5) (s : State) : Out := vflt fp16 (fun c i x y _ => fScale fp16 c i x (toS fp16.bits y)) d a b m s
def execVabsF16 (d a m : BitVec 5) (s : State) : Out := vsgn fp16 (fun x => x % 2 ^ (fp16.bits - 1)) d a m s
def execVnegF16 (d a m : BitVec 5) (s : State) : Out := vsgn fp16 (fun x => x ^^^ 2 ^ (fp16.bits - 1)) d a m s

end Sys2Proof.Machine
end

