-- ==== Sys2Proof/Machine/VecInt.lean ====
section
/-! DEFINITION. Integer vectors: MO 27 and 28 (R200), and packed 8-bit vectors: MO 32 (R202). -/

namespace Sys2Proof.Machine

/-- A lane result without an exception. -/
def pureR (x : Nat) : Res := (x, 0)
/-- A signed value clamped to w bits, with SA when it clamps (R154). -/
def clampS (w : Nat) (x : Int) : Res :=
  if x < -(2 ^ (w - 1) : Int) then (2 ^ (w - 1), flSA)
  else if (2 ^ (w - 1) : Int) ≤ x then (2 ^ (w - 1) - 1, flSA)
  else (ofS w x, 0)
/-- An integer lane operation on a, b and the old d (R200). -/
def vint (w : Nat) (f : Nat → Nat → Nat → Res) (d a b m : BitVec 5) (s : State) : Out :=
  vmap2 w 4 d a b m (fun _ _ x y old => f x y old) s
def vint1 (w : Nat) (f : Nat → Nat) (d a m : BitVec 5) (s : State) : Out := vmap1 w 4 d a m (fun _ _ x => pureR (f x)) s

/-! ### i16 -/

def execVaddI16 (d a b m : BitVec 5) (s : State) : Out := vint 16 (fun x y _ => pureR ((x + y) % 2 ^ 16)) d a b m s
def execVsubI16 (d a b m : BitVec 5) (s : State) : Out := vint 16 (fun x y _ => pureR (ofS 16 ((x : Int) - y))) d a b m s
def execVmulI16 (d a b m : BitVec 5) (s : State) : Out := vint 16 (fun x y _ => pureR (x * y % 2 ^ 16)) d a b m s
def execVmulhI16 (d a b m : BitVec 5) (s : State) : Out := vint 16 (fun x y _ => pureR (ofS 16 (toS 16 x * toS 16 y / 2 ^ 16))) d a b m s
def execVminI16 (d a b m : BitVec 5) (s : State) : Out := vint 16 (fun x y _ => pureR (if toS 16 x < toS 16 y then x else y)) d a b m s
def execVmaxI16 (d a b m : BitVec 5) (s : State) : Out := vint 16 (fun x y _ => pureR (if toS 16 y < toS 16 x then x else y)) d a b m s
def execVminuI16 (d a b m : BitVec 5) (s : State) : Out := vint 16 (fun x y _ => pureR (min x y)) d a b m s
def execVmaxuI16 (d a b m : BitVec 5) (s : State) : Out := vint 16 (fun x y _ => pureR (max x y)) d a b m s
def execVandI16 (d a b m : BitVec 5) (s : State) : Out := vint 16 (fun x y _ => pureR (x &&& y)) d a b m s
def execVorI16 (d a b m : BitVec 5) (s : State) : Out := vint 16 (fun x y _ => pureR (x ||| y)) d a b m s
def execVxorI16 (d a b m : BitVec 5) (s : State) : Out := vint 16 (fun x y _ => pureR (x ^^^ y)) d a b m s
def execVshlI16 (d a b m : BitVec 5) (s : State) : Out := vint 16 (fun x y _ => pureR (x * 2 ^ (y % 16) % 2 ^ 16)) d a b m s
def execVshrI16 (d a b m : BitVec 5) (s : State) : Out := vint 16 (fun x y _ => pureR (x / 2 ^ (y % 16))) d a b m s
def execVshaI16 (d a b m : BitVec 5) (s : State) : Out := vint 16 (fun x y _ => pureR (ofS 16 (toS 16 x / 2 ^ (y % 16)))) d a b m s
def execVabsI16 (d a m : BitVec 5) (s : State) : Out := vint1 16 (fun x => (toS 16 x).natAbs % 2 ^ 16) d a m s
def execVnegI16 (d a m : BitVec 5) (s : State) : Out := vint1 16 (fun x => ofS 16 (-(x : Int))) d a m s
def execVaddsI16 (d a b m : BitVec 5) (s : State) : Out := vint 16 (fun x y _ => clampS 16 (toS 16 x + toS 16 y)) d a b m s
def execVsubsI16 (d a b m : BitVec 5) (s : State) : Out := vint 16 (fun x y _ => clampS 16 (toS 16 x - toS 16 y)) d a b m s
def execVmacI16 (d a b m : BitVec 5) (s : State) : Out := vint 16 (fun x y z => pureR ((z + x * y) % 2 ^ 16)) d a b m s

/-! ### i32 -/

def execVaddI32 (d a b m : BitVec 5) (s : State) : Out := vint 32 (fun x y _ => pureR ((x + y) % 2 ^ 32)) d a b m s
def execVsubI32 (d a b m : BitVec 5) (s : State) : Out := vint 32 (fun x y _ => pureR (ofS 32 ((x : Int) - y))) d a b m s
def execVmulI32 (d a b m : BitVec 5) (s : State) : Out := vint 32 (fun x y _ => pureR (x * y % 2 ^ 32)) d a b m s
def execVmulhI32 (d a b m : BitVec 5) (s : State) : Out := vint 32 (fun x y _ => pureR (ofS 32 (toS 32 x * toS 32 y / 2 ^ 32))) d a b m s
def execVminI32 (d a b m : BitVec 5) (s : State) : Out := vint 32 (fun x y _ => pureR (if toS 32 x < toS 32 y then x else y)) d a b m s
def execVmaxI32 (d a b m : BitVec 5) (s : State) : Out := vint 32 (fun x y _ => pureR (if toS 32 y < toS 32 x then x else y)) d a b m s
def execVminuI32 (d a b m : BitVec 5) (s : State) : Out := vint 32 (fun x y _ => pureR (min x y)) d a b m s
def execVmaxuI32 (d a b m : BitVec 5) (s : State) : Out := vint 32 (fun x y _ => pureR (max x y)) d a b m s
def execVandI32 (d a b m : BitVec 5) (s : State) : Out := vint 32 (fun x y _ => pureR (x &&& y)) d a b m s
def execVorI32 (d a b m : BitVec 5) (s : State) : Out := vint 32 (fun x y _ => pureR (x ||| y)) d a b m s
def execVxorI32 (d a b m : BitVec 5) (s : State) : Out := vint 32 (fun x y _ => pureR (x ^^^ y)) d a b m s
def execVshlI32 (d a b m : BitVec 5) (s : State) : Out := vint 32 (fun x y _ => pureR (x * 2 ^ (y % 32) % 2 ^ 32)) d a b m s
def execVshrI32 (d a b m : BitVec 5) (s : State) : Out := vint 32 (fun x y _ => pureR (x / 2 ^ (y % 32))) d a b m s
def execVshaI32 (d a b m : BitVec 5) (s : State) : Out := vint 32 (fun x y _ => pureR (ofS 32 (toS 32 x / 2 ^ (y % 32)))) d a b m s
def execVabsI32 (d a m : BitVec 5) (s : State) : Out := vint1 32 (fun x => (toS 32 x).natAbs % 2 ^ 32) d a m s
def execVnegI32 (d a m : BitVec 5) (s : State) : Out := vint1 32 (fun x => ofS 32 (-(x : Int))) d a m s
def execVaddsI32 (d a b m : BitVec 5) (s : State) : Out := vint 32 (fun x y _ => clampS 32 (toS 32 x + toS 32 y)) d a b m s
def execVsubsI32 (d a b m : BitVec 5) (s : State) : Out := vint 32 (fun x y _ => clampS 32 (toS 32 x - toS 32 y)) d a b m s
def execVmacI32 (d a b m : BitVec 5) (s : State) : Out := vint 32 (fun x y z => pureR ((z + x * y) % 2 ^ 32)) d a b m s

/-! ### V8 (R170, R202) -/

/-- Four sub-elements of a lane, each on its own with RSD index j. -/
def v8 (lat : Nat) (f : Ctl → Nat → Nat → Nat → Nat → Res) (d a b m : BitVec 5) (s : State) : Out :=
  vmap2 32 lat d a b m (fun s i x y _ =>
    let r := fun j => f s.ctl i j (x / 2 ^ (8 * j) % 256) (y / 2 ^ (8 * j) % 256)
    ((r 0).1 + (r 1).1 * 2 ^ 8 + (r 2).1 * 2 ^ 16 + (r 3).1 * 2 ^ 24, (r 0).2 ||| (r 1).2 ||| (r 2).2 ||| (r 3).2)) s

def execVaddE4m3 (d a b m : BitVec 5) (s : State) : Out := v8 6 (fun c i j x y => fAdd e4m3 c i j x y) d a b m s
def execVaddE5m2 (d a b m : BitVec 5) (s : State) : Out := v8 6 (fun c i j x y => fAdd e5m2 c i j x y) d a b m s
def execVsubE4m3 (d a b m : BitVec 5) (s : State) : Out := v8 6 (fun c i j x y => fSub e4m3 c i j x y) d a b m s
def execVsubE5m2 (d a b m : BitVec 5) (s : State) : Out := v8 6 (fun c i j x y => fSub e5m2 c i j x y) d a b m s
def execVmulE4m3 (d a b m : BitVec 5) (s : State) : Out := v8 6 (fun c i j x y => fMul e4m3 c i j x y) d a b m s
def execVmulE5m2 (d a b m : BitVec 5) (s : State) : Out := v8 6 (fun c i j x y => fMul e5m2 c i j x y) d a b m s
def execVaddI8 (d a b m : BitVec 5) (s : State) : Out := v8 4 (fun _ _ _ x y => pureR ((x + y) % 256)) d a b m s
def execVsubI8 (d a b m : BitVec 5) (s : State) : Out := v8 4 (fun _ _ _ x y => pureR (ofS 8 ((x : Int) - y))) d a b m s
def execVaddsI8 (d a b m : BitVec 5) (s : State) : Out := v8 4 (fun _ _ _ x y => clampS 8 (toS 8 x + toS 8 y)) d a b m s
def execVminI8 (d a b m : BitVec 5) (s : State) : Out := v8 4 (fun _ _ _ x y => pureR (if toS 8 x < toS 8 y then x else y)) d a b m s
def execVmaxI8 (d a b m : BitVec 5) (s : State) : Out := v8 4 (fun _ _ _ x y => pureR (if toS 8 y < toS 8 x then x else y)) d a b m s

end Sys2Proof.Machine
end

