-- ==== Sys2Proof/Machine/VecMisc.lean ====
section
/-! DEFINITION. Moving lanes, reductions, conversions, compares and governing predicates: MO 33, 34, 36 and 37 (R199, R203 to R208). -/

namespace Sys2Proof.Machine

/-! ### VMISC (R203) -/

/-- Lane i of width w of vA, by its 64-bit index; 0 when it lies beyond the lanes. -/
def State.laneAt (s : State) (a : BitVec 5) (w k : Nat) : Nat := if k < s.lanes w then laneOf (s.rv a) w k else 0

def execVmov (d a m : BitVec 5) (s : State) : Out := vmap1 32 4 d a m (fun _ _ x => (x, 0)) s
/-- Every lane of VMERGE is written. -/
def execVmerge (d a b m : BitVec 5) (s : State) : Out :=
  vplain 4 [a, b] d (fun s => ofLanes 32 (s.lanes 32) (fun i => if s.active m i then laneOf (s.rv a) 32 i else laneOf (s.rv b) 32 i)) s
/-- A scalar's low bits in every active lane. -/
def vbcast (w : Nat) (d a m : BitVec 5) (s : State) : Out :=
  vmapN w 4 [] d m (fun s _ _ => ((s.rg a).toNat % 2 ^ w, 0)) s
def execVbcast16 (d a m : BitVec 5) (s : State) : Out := vbcast 16 d a m s
def execVbcast32 (d a m : BitVec 5) (s : State) : Out := vbcast 32 d a m s
def execVbcast64 (d a m : BitVec 5) (s : State) : Out := vbcast 64 d a m s
def vext (w : Nat) (d a b : BitVec 5) (s : State) : Out :=
  vecGate [a] none s fun s => vsdone [a] d 4 (BitVec.ofNat 64 (s.laneAt a w (s.rg b).toNat)) 0 s
def execVext16 (d a b : BitVec 5) (s : State) : Out := vext 16 d a b s
def execVext32 (d a b : BitVec 5) (s : State) : Out := vext 32 d a b s
def vins (w : Nat) (d a b : BitVec 5) (s : State) : Out :=
  vmapN w 4 [] d 0 (fun s i old => (if i = (s.rg b).toNat then (s.rg a).toNat % 2 ^ w else old, 0)) s
def execVins16 (d a b : BitVec 5) (s : State) : Out := vins 16 d a b s
def execVins32 (d a b : BitVec 5) (s : State) : Out := vins 32 d a b s
def vperm (w : Nat) (d a b m : BitVec 5) (s : State) : Out :=
  vmapN w 4 [a, b] d m (fun s i _ => (s.laneAt a w (laneOf (s.rv b) w i), 0)) s
def execVperm16 (d a b m : BitVec 5) (s : State) : Out := vperm 16 d a b m s
def execVperm32 (d a b m : BitVec 5) (s : State) : Out := vperm 32 d a b m s
def execVslideup (d a b m : BitVec 5) (s : State) : Out :=
  vmapN 32 4 [a] d m (fun s i _ => (if (s.rg b).toNat ≤ i then s.laneAt a 32 (i - (s.rg b).toNat) else 0, 0)) s
def execVslidedn (d a b m : BitVec 5) (s : State) : Out :=
  vmapN 32 4 [a] d m (fun s i _ => (s.laneAt a 32 (i + (s.rg b).toNat), 0)) s
def execVzip16 (d a b m : BitVec 5) (s : State) : Out :=
  vmapN 16 4 [a, b] d m (fun s i _ => (laneOf (s.rv (if i % 2 = 0 then a else b)) 16 (i / 2), 0)) s
def execVunzip16 (d a m : BitVec 5) (s : State) : Out :=
  vmapN 16 4 [a] d m (fun s i _ =>
    let h := s.lanes 16 / 2
    (laneOf (s.rv a) 16 (if i < h then 2 * i else 2 * (i - h) + 1), 0)) s

/-! ### Reductions (R204) -/

def execVredsumF32 (d a m : BitVec 5) (s : State) : Out := vreduce 32 d a m 0 (fun c l k x y => fAdd fp32 c l k x y) s
def execVredsumBf16 (d a m : BitVec 5) (s : State) : Out := vreduce 16 d a m 0 (fun c l k x y => fAdd bf16 c l k x y) s
def execVredmaxF32 (d a m : BitVec 5) (s : State) : Out := vreduce 32 d a m 0xFF800000 (fun c _ _ x y => fMinMax fp32 c true x y) s
def execVredminF32 (d a m : BitVec 5) (s : State) : Out := vreduce 32 d a m 0x7F800000 (fun c _ _ x y => fMinMax fp32 c false x y) s
def execVredmaxBf16 (d a m : BitVec 5) (s : State) : Out := vreduce 16 d a m 0xFF80 (fun c _ _ x y => fMinMax bf16 c true x y) s
/-- The exact signed sum of the active lanes. -/
def execVredsumI32 (d a m : BitVec 5) (s : State) : Out :=
  vecGate [a] none s fun s =>
    let v := (List.range (s.lanes 32)).foldl (fun v i => if s.active m i then v + toS 32 (laneOf (s.rv a) 32 i) else v) (0 : Int)
    vsdone [a] d 10 (BitVec.ofInt 64 v) 0 s

/-! ### VCVT (R206 to R208) -/

/-- A conversion of the low bits of each active lane. -/
def vcvt (src : Nat) (f : Ctl → Nat → Nat → Res) (d a m : BitVec 5) (s : State) : Out :=
  vmap1 32 6 d a m (fun s i x => f s.ctl i (x % 2 ^ src)) s

def execVcvtBf16F32 (d a m : BitVec 5) (s : State) : Out := vcvt 32 (fun c i x => fCvt fp32 bf16 c i 0 x) d a m s
def execVcvtF16F32 (d a m : BitVec 5) (s : State) : Out := vcvt 32 (fun c i x => fCvt fp32 fp16 c i 0 x) d a m s
def execVcvtF32Bf16 (d a m : BitVec 5) (s : State) : Out := vcvt 16 (fun c i x => fCvt bf16 fp32 c i 0 x) d a m s
def execVcvtF32F16 (d a m : BitVec 5) (s : State) : Out := vcvt 16 (fun c i x => fCvt fp16 fp32 c i 0 x) d a m s
def execVcvtE4m3F32 (d a m : BitVec 5) (s : State) : Out := vcvt 32 (fun c i x => fCvt fp32 e4m3 c i 0 x) d a m s
def execVcvtE5m2F32 (d a m : BitVec 5) (s : State) : Out := vcvt 32 (fun c i x => fCvt fp32 e5m2 c i 0 x) d a m s
def execVcvtF32E4m3 (d a m : BitVec 5) (s : State) : Out := vcvt 8 (fun c i x => fCvt e4m3 fp32 c i 0 x) d a m s
def execVcvtF32E5m2 (d a m : BitVec 5) (s : State) : Out := vcvt 8 (fun c i x => fCvt e5m2 fp32 c i 0 x) d a m s
def execVcvtI32F32 (d a m : BitVec 5) (s : State) : Out := vcvt 32 (fun c i x => fToInt 32 c i 0 (fp32.read c.ftz x)) d a m s
def execVcvtF32I32 (d a m : BitVec 5) (s : State) : Out := vcvt 32 (fun c i x => intToF fp32 c i 0 (toS 32 x)) d a m s
def execVcvtI16F32 (d a m : BitVec 5) (s : State) : Out := vcvt 32 (fun c i x => fToInt 16 c i 0 (fp32.read c.ftz x)) d a m s
def execVcvtBf16E4m3 (d a m : BitVec 5) (s : State) : Out := vcvt 8 (fun c i x => fCvt e4m3 bf16 c i 0 x) d a m s
def execVcvtE4m3Bf16 (d a m : BitVec 5) (s : State) : Out := vcvt 16 (fun c i x => fCvt bf16 e4m3 c i 0 x) d a m s

/-- Code k of a register's packed codes, k taken modulo VLBITS / 4 (R208). -/
def State.code (s : State) (x : Vec) (k : Nat) : Nat := laneOf x 4 (k % s.lanes 4)
/-- Start code index and scale word in g[B]. -/
def q4Start (b : Dword) : Nat := dfld b 23 16
def q4Word (b : Dword) : Nat := dfld b 15 0

def execVdq4 (d a b m : BitVec 5) (s : State) : Out :=
  vmapN 32 6 [a] d m (fun s i _ => q4Dequant s.ctl i (q4Word (s.rg b)) (s.code (s.rv a) (q4Start (s.rg b) + i))) s

/-- VQ4 writes one nibble for each active lane; the others keep their values. -/
def execVq4 (d a b m : BitVec 5) (s : State) : Out :=
  vecGate [a] (some d) s fun s =>
    let n := s.lanes 32
    let c0 := q4Start (s.rg b)
    let r := (List.range n).map (fun i =>
      if s.active m i then q4Quant s.ctl i (c0 + i) (q4Word (s.rg b)) (fp32.read s.ctl.ftz (laneOf (s.rv a) 32 i)) else (0, 0))
    withFlags ((List.range n).map (fun i => (i, (r.getD i (0, 0)).2))) s fun fl s =>
      let old := s.me.rv d.toNat
      let pick := fun k =>
        let i := (k + s.lanes 4 - c0 % s.lanes 4) % s.lanes 4
        if i < n ∧ s.active m i then (r.getD i (0, 0)).1 else laneOf old 4 k
      vdone [a] d 6 (ofLanes 4 (s.lanes 4) pick) fl s

/-- VPACK8: byte p · L + i of vD from lane i (R207). -/
def execVpack8 (d a b m : BitVec 5) (s : State) : Out :=
  vplain 6 [a] d (fun s =>
    let n := s.lanes 32
    let p := dfld (s.rg b) 1 0
    let old := s.me.rv d.toNat
    ofLanes 8 (s.lanes 8) (fun k => if k / n = p ∧ s.active m (k % n) then laneOf (s.rv a) 32 (k % n) % 256 else laneOf old 8 k)) s
/-- VUNPK8: lane i from byte p · L + i of vA (R207). -/
def execVunpk8 (d a b m : BitVec 5) (s : State) : Out :=
  vmapN 32 6 [a] d m (fun s i _ => (laneOf (s.rv a) 8 (dfld (s.rg b) 1 0 * s.lanes 32 + i), 0)) s

/-! ### VCMP (R205) -/

/-- An integer comparison: 0 EQ, 1 NE, 2 LT, 3 LE. -/
def iCmp (cond : Nat) (x y : Int) : Bool :=
  match cond with
  | 0 => x == y
  | 1 => x != y
  | 2 => decide (x < y)
  | _ => decide (x ≤ y)
/-- Lane width of a VCMP type: 0 f32, 1 bf16, 2 f16, 3 i16, 4 i32, 5 i16u, 6 i32u (R67, R196). -/
def cmpWidth (t : Nat) : Nat := if t = 0 ∨ t = 4 ∨ t = 6 then 32 else 16
def laneCmp (c : Ctl) (cond t x y : Nat) : Bool × Flags :=
  match t with
  | 0 => fCmp fp32 c cond x y
  | 1 => fCmp bf16 c cond x y
  | 2 => fCmp fp16 c cond x y
  | 3 => (iCmp cond (toS 16 x) (toS 16 y), 0)
  | 4 => (iCmp cond (toS 32 x) (toS 32 y), 0)
  | _ => (iCmp cond x y, 0)

def execVcmp (d a b m : BitVec 5) (c : BitVec 2) (t : BitVec 3) (s : State) : Out :=
  vecGate [a, b] none s fun s =>
    let w := cmpWidth t.toNat
    let n := s.lanes w
    let r := (List.range n).map (fun i =>
      if s.active m i then laneCmp s.ctl c.toNat t.toNat (laneOf (s.rv a) w i) (laneOf (s.rv b) w i) else (false, 0))
    withFlags ((List.range n).map (fun i => (i, (r.getD i (false, 0)).2))) s fun fl s =>
      vsdone [a, b] d 6 (BitVec.ofNat 64 (packLanes 1 (fun i => b2n (r.getD i (false, 0)).1) n)) fl s

/-! ### VCTL (R199) -/

def vwhile (w : Nat) (d a b : BitVec 5) (s : State) : Out :=
  done d.toNat 4 (BitVec.ofNat 64 (packLanes 1 (fun i => b2n (decide ((s.rg a).toNat + i < (s.rg b).toNat))) (s.lanes w))) s
def execVwhile16 (d a b : BitVec 5) (s : State) : Out := vwhile 16 d a b s
def execVwhile32 (d a b : BitVec 5) (s : State) : Out := vwhile 32 d a b s
def execVwhile64 (d a b : BitVec 5) (s : State) : Out := vwhile 64 d a b s
def execVlq (d : BitVec 5) (s : State) : Out := done d.toNat 4 (BitVec.ofNat 64 (s.lanes 8)) s
def execVlanes (d a : BitVec 5) (s : State) : Out :=
  let w := (s.rg a).toNat
  done d.toNat 4 (BitVec.ofNat 64 (if w = 8 ∨ w = 16 ∨ w = 32 ∨ w = 64 then s.lanes w else 0)) s
def execMfirst (d a : BitVec 5) (s : State) : Out := done d.toNat 4 (s.rg a &&& -(s.rg a)) s

end Sys2Proof.Machine
end

