-- ==== Sys2Proof/Machine/Dispatch.lean ====
section
/-! DEFINITION. The dispatch of every instruction and device step to its meaning: one arm per constructor of Instr. -/

namespace Sys2Proof.Machine

def exec (i : Instr) (s : State) : Host.Outcome State Fault Refusal :=
  match i with
  | .powerOnReset => Sys2Proof.Machine.execPowerOnReset s
  | .powerGood => Sys2Proof.Machine.execPowerGood s
  | .cctSelect => Sys2Proof.Machine.execCctSelect s
  | .firmwareImageLoad => Sys2Proof.Machine.execFirmwareImageLoad s
  | .memoryTraining oneLane dead => Sys2Proof.Machine.execMemoryTraining oneLane dead s
  | .memoryClear uncorrectable => Sys2Proof.Machine.execMemoryClear uncorrectable s
  | .pcieLinkTraining => Sys2Proof.Machine.execPcieLinkTraining s
  | .configurationRequest fn resize => Sys2Proof.Machine.execConfigurationRequest fn resize s
  | .ivtctlWrite fn val => Sys2Proof.Machine.execIvtctlWrite fn val s
  | .ptmExchange hostTime => Sys2Proof.Machine.execPtmExchange hostTime s
  | .ptmRepeat hostTime => Sys2Proof.Machine.execPtmRepeat hostTime s
  | .dtbOffsetCheck offsetNs heldNs => Sys2Proof.Machine.execDtbOffsetCheck offsetNs heldNs s
  | .thermalThrottle temp => Sys2Proof.Machine.execThermalThrottle temp s
  | .registerWrite fn off val => Sys2Proof.Machine.execRegisterWrite fn off val s
  | .qtailDoorbell fn q val => Sys2Proof.Machine.execQtailDoorbell fn q val s
  | .qctlEnable fn q val => Sys2Proof.Machine.execQctlEnable fn q val s
  | .qctlDisable fn q val => Sys2Proof.Machine.execQctlDisable fn q val s
  | .qctlResume fn q val => Sys2Proof.Machine.execQctlResume fn q val s
  | .qcancelWrite fn q val => Sys2Proof.Machine.execQcancelWrite fn q val s
  | .tlbinvWrite fn t val => Sys2Proof.Machine.execTlbinvWrite fn t val s
  | .tlbInvalidationComplete t => Sys2Proof.Machine.execTlbInvalidationComplete t s
  | .fbctlGo t => Sys2Proof.Machine.execFbctlGo t s
  | .pcfgEnable fn p val => Sys2Proof.Machine.execPcfgEnable fn p val s
  | .pcfgDisable fn p val => Sys2Proof.Machine.execPcfgDisable fn p val s
  | .mbcfgEnable fn m val => Sys2Proof.Machine.execMbcfgEnable fn m val s
  | .trctlEnable tile val => Sys2Proof.Machine.execTrctlEnable tile val s
  | .fepreemptStart fn val => Sys2Proof.Machine.execFepreemptStart fn val s
  | .fepreemptEnd fn val => Sys2Proof.Machine.execFepreemptEnd fn val s
  | .tdbgrelWrite fn t val => Sys2Proof.Machine.execTdbgrelWrite fn t val s
  | .lvqWrite fn t val => Sys2Proof.Machine.execLvqWrite fn t val s
  | .levelQueryComplete t => Sys2Proof.Machine.execLevelQueryComplete t s
  | .peerctlEnable fn val => Sys2Proof.Machine.execPeerctlEnable fn val s
  | .fwctlGo fn => Sys2Proof.Machine.execFwctlGo fn s
  | .firmwareVerifyComplete => Sys2Proof.Machine.execFirmwareVerifyComplete s
  | .firmwareSwitchoverComplete => Sys2Proof.Machine.execFirmwareSwitchoverComplete s
  | .rmapSetValid fn c e val => Sys2Proof.Machine.execRmapSetValid fn c e val s
  | .rowRemapComplete c e => Sys2Proof.Machine.execRowRemapComplete c e s
  | .rmapClearValid fn c e val => Sys2Proof.Machine.execRmapClearValid fn c e val s
  | .rmapPprStart fn c e val => Sys2Proof.Machine.execRmapPprStart fn c e val s
  | .pprComplete c ok => Sys2Proof.Machine.execPprComplete c ok s
  | .logTailWrite fn log val => Sys2Proof.Machine.execLogTailWrite fn log val s
  | .hostBar2Read fn off size => Sys2Proof.Machine.execHostBar2Read fn off size s
  | .hostBar2Write fn off size val => Sys2Proof.Machine.execHostBar2Write fn off size val s
  | .hostMbmWindowAccess fn off size wr val => Sys2Proof.Machine.execHostMbmWindowAccess fn off size wr val s
  | .queueSelect e => Sys2Proof.Machine.execQueueSelect e s
  | .fetchBlockRead q => Sys2Proof.Machine.execFetchBlockRead q s
  | .qwaitPoll q => Sys2Proof.Machine.execQwaitPoll q s
  | .qwaitTimeout q => Sys2Proof.Machine.execQwaitTimeout q s
  | .signalWrite q => Sys2Proof.Machine.execSignalWrite q s
  | .launchAccept q => Sys2Proof.Machine.execLaunchAccept q s
  | .deterministicReservation n => Sys2Proof.Machine.execDeterministicReservation n s
  | .taskPlace n => Sys2Proof.Machine.execTaskPlace n s
  | .footprintStagingComplete id => Sys2Proof.Machine.execFootprintStagingComplete id s
  | .taskRetire id => Sys2Proof.Machine.execTaskRetire id s
  | .instanceComplete t kind id => Sys2Proof.Machine.execInstanceComplete t kind id s
  | .resultDigest n => Sys2Proof.Machine.execResultDigest n s
  | .starvationWatchdog n => Sys2Proof.Machine.execStarvationWatchdog n s
  | .ladderStart n => Sys2Proof.Machine.execLadderStart n s
  | .rung2Save q => Sys2Proof.Machine.execRung2Save q s
  | .rung3Reset q => Sys2Proof.Machine.execRung3Reset q s
  | .taskSaveComplete id => Sys2Proof.Machine.execTaskSaveComplete id s
  | .taskRestore id => Sys2Proof.Machine.execTaskRestore id s
  | .quantumExpiry tile slot => Sys2Proof.Machine.execQuantumExpiry tile slot s
  | .killQuiet id => Sys2Proof.Machine.execKillQuiet id s
  | .parkWatchdog tile slot bank => Sys2Proof.Machine.execParkWatchdog tile slot bank s
  | .launchStallWatchdog n => Sys2Proof.Machine.execLaunchStallWatchdog n s
  | .resultWriteback tile slot bank => Sys2Proof.Machine.execResultWriteback tile slot bank s
  | .accessPerformed tile slot bank ix => Sys2Proof.Machine.execAccessPerformed tile slot bank ix s
  | .remoteAccessArrival tile slot bank ix => Sys2Proof.Machine.execRemoteAccessArrival tile slot bank ix s
  | .remoteReplyArrival tile slot bank => Sys2Proof.Machine.execRemoteReplyArrival tile slot bank s
  | .fetchUnitRead tile slot => Sys2Proof.Machine.execFetchUnitRead tile slot s
  | .bankSwitchComplete tile slot => Sys2Proof.Machine.execBankSwitchComplete tile slot s
  | .waitListRetry tile slot bank => Sys2Proof.Machine.execWaitListRetry tile slot bank s
  | .pageWalkComplete tile t va => Sys2Proof.Machine.execPageWalkComplete tile t va s
  | .replayAllSend t => Sys2Proof.Machine.execReplayAllSend t s
  | .scrubRead line errs => Sys2Proof.Machine.execScrubRead line errs s
  | .laneFailure c lane => Sys2Proof.Machine.execLaneFailure c lane s
  | .laneDegradedComplete c => Sys2Proof.Machine.execLaneDegradedComplete c s
  | .bteCommandEntry tile ix => Sys2Proof.Machine.execBteCommandEntry tile ix s
  | .bteChunkComplete tile ix chunk => Sys2Proof.Machine.execBteChunkComplete tile ix chunk s
  | .bteCommandComplete tile ix => Sys2Proof.Machine.execBteCommandComplete tile ix s
  | .burstDataReturn tile ix burst => Sys2Proof.Machine.execBurstDataReturn tile ix burst s
  | .burstBirth tile slot => Sys2Proof.Machine.execBurstBirth tile slot s
  | .matrixCommandEntry tile => Sys2Proof.Machine.execMatrixCommandEntry tile s
  | .matrixCommandStart tile leash => Sys2Proof.Machine.execMatrixCommandStart tile leash s
  | .matrixStepComplete tile leash => Sys2Proof.Machine.execMatrixStepComplete tile leash s
  | .matrixCommandComplete tile leash ix => Sys2Proof.Machine.execMatrixCommandComplete tile leash ix s
  | .matrixClearComplete tile => Sys2Proof.Machine.execMatrixClearComplete tile s
  | .mcmdArrival tile => Sys2Proof.Machine.execMcmdArrival tile s
  | .seqCommandExecute p => Sys2Proof.Machine.execSeqCommandExecute p s
  | .streamDelivery tile slot port => Sys2Proof.Machine.execStreamDelivery tile slot port s
  | .bindNoticeArrival ix => Sys2Proof.Machine.execBindNoticeArrival ix s
  | .creditArrival ix => Sys2Proof.Machine.execCreditArrival ix s
  | .channelMessageArrival ix => Sys2Proof.Machine.execChannelMessageArrival ix s
  | .treeDeliverArrival ix => Sys2Proof.Machine.execTreeDeliverArrival ix s
  | .treeDeliverRetry tile slot bank => Sys2Proof.Machine.execTreeDeliverRetry tile slot bank s
  | .barrierArrival ix => Sys2Proof.Machine.execBarrierArrival ix s
  | .barrierRelease ix => Sys2Proof.Machine.execBarrierRelease ix s
  | .reductionPerform ix => Sys2Proof.Machine.execReductionPerform ix s
  | .mailboxPublicationArrival m => Sys2Proof.Machine.execMailboxPublicationArrival m s
  | .mailboxFlip m => Sys2Proof.Machine.execMailboxFlip m s
  | .mbpubcCopyComplete m => Sys2Proof.Machine.execMbpubcCopyComplete m s
  | .mailboxReadTransaction tile slot bank => Sys2Proof.Machine.execMailboxReadTransaction tile slot bank s
  | .ceilingTrip tile slot => Sys2Proof.Machine.execCeilingTrip tile slot s
  | .leashCeiling tile slot => Sys2Proof.Machine.execLeashCeiling tile slot s
  | .seizeArrival tile => Sys2Proof.Machine.execSeizeArrival tile s
  | .seizureDrainComplete tile => Sys2Proof.Machine.execSeizureDrainComplete tile s
  | .seizureSwapComplete tile => Sys2Proof.Machine.execSeizureSwapComplete tile s
  | .seizeReplyArrival tile slot bank => Sys2Proof.Machine.execSeizeReplyArrival tile slot bank s
  | .remoteSrlsArrival tile => Sys2Proof.Machine.execRemoteSrlsArrival tile s
  | .seizureReleaseComplete tile => Sys2Proof.Machine.execSeizureReleaseComplete tile s
  | .hfcallReply tile slot bank => Sys2Proof.Machine.execHfcallReply tile slot bank s
  | .porsolJoin msg => Sys2Proof.Machine.execPorsolJoin msg s
  | .porsolJoinack msg => Sys2Proof.Machine.execPorsolJoinack msg s
  | .porsolHeart msg => Sys2Proof.Machine.execPorsolHeart msg s
  | .porsolPdig msg => Sys2Proof.Machine.execPorsolPdig msg s
  | .porsolTakeover msg => Sys2Proof.Machine.execPorsolTakeover msg s
  | .heartbeatSend => Sys2Proof.Machine.execHeartbeatSend s
  | .joinTimeout => Sys2Proof.Machine.execJoinTimeout s
  | .peerLost => Sys2Proof.Machine.execPeerLost s
  | .illegal cause bits => Sys2Proof.Machine.execIllegal cause bits s
  | .add d a b => Sys2Proof.Machine.execAdd d a b s
  | .sub d a b => Sys2Proof.Machine.execSub d a b s
  | .and d a b => Sys2Proof.Machine.execAnd d a b s
  | .or d a b => Sys2Proof.Machine.execOr d a b s
  | .xor d a b => Sys2Proof.Machine.execXor d a b s
  | .andn d a b => Sys2Proof.Machine.execAndn d a b s
  | .shl d a b => Sys2Proof.Machine.execShl d a b s
  | .shr d a b => Sys2Proof.Machine.execShr d a b s
  | .sha d a b => Sys2Proof.Machine.execSha d a b s
  | .rotr d a b => Sys2Proof.Machine.execRotr d a b s
  | .min d a b => Sys2Proof.Machine.execMin d a b s
  | .max d a b => Sys2Proof.Machine.execMax d a b s
  | .minu d a b => Sys2Proof.Machine.execMinu d a b s
  | .maxu d a b => Sys2Proof.Machine.execMaxu d a b s
  | .cmpeq d a b => Sys2Proof.Machine.execCmpeq d a b s
  | .cmpne d a b => Sys2Proof.Machine.execCmpne d a b s
  | .cmplt d a b => Sys2Proof.Machine.execCmplt d a b s
  | .cmpltu d a b => Sys2Proof.Machine.execCmpltu d a b s
  | .cmpge d a b => Sys2Proof.Machine.execCmpge d a b s
  | .cmpgeu d a b => Sys2Proof.Machine.execCmpgeu d a b s
  | .sel d a b => Sys2Proof.Machine.execSel d a b s
  | .addw d a b => Sys2Proof.Machine.execAddw d a b s
  | .subw d a b => Sys2Proof.Machine.execSubw d a b s
  | .addi d a imm => Sys2Proof.Machine.execAddi d a imm s
  | .andi d a imm => Sys2Proof.Machine.execAndi d a imm s
  | .ori d a imm => Sys2Proof.Machine.execOri d a imm s
  | .xori d a imm => Sys2Proof.Machine.execXori d a imm s
  | .shli d a n => Sys2Proof.Machine.execShli d a n s
  | .shri d a n => Sys2Proof.Machine.execShri d a n s
  | .shai d a n => Sys2Proof.Machine.execShai d a n s
  | .rotri d a n => Sys2Proof.Machine.execRotri d a n s
  | .cmpeqi d a imm => Sys2Proof.Machine.execCmpeqi d a imm s
  | .cmpnei d a imm => Sys2Proof.Machine.execCmpnei d a imm s
  | .cmplti d a imm => Sys2Proof.Machine.execCmplti d a imm s
  | .cmpltui d a imm => Sys2Proof.Machine.execCmpltui d a imm s
  | .cmpgei d a imm => Sys2Proof.Machine.execCmpgei d a imm s
  | .cmpgeui d a imm => Sys2Proof.Machine.execCmpgeui d a imm s
  | .lih d imm => Sys2Proof.Machine.execLih d imm s
  | .addpc d imm => Sys2Proof.Machine.execAddpc d imm s
  | .li64 d imm => Sys2Proof.Machine.execLi64 d imm s
  | .mul d a b => Sys2Proof.Machine.execMul d a b s
  | .mulh d a b => Sys2Proof.Machine.execMulh d a b s
  | .mulhu d a b => Sys2Proof.Machine.execMulhu d a b s
  | .mulhsu d a b => Sys2Proof.Machine.execMulhsu d a b s
  | .div d a b => Sys2Proof.Machine.execDiv d a b s
  | .divu d a b => Sys2Proof.Machine.execDivu d a b s
  | .rem d a b => Sys2Proof.Machine.execRem d a b s
  | .remu d a b => Sys2Proof.Machine.execRemu d a b s
  | .mulw d a b => Sys2Proof.Machine.execMulw d a b s
  | .madd d a b => Sys2Proof.Machine.execMadd d a b s
  | .bfx d a b => Sys2Proof.Machine.execBfx d a b s
  | .bfxu d a b => Sys2Proof.Machine.execBfxu d a b s
  | .bfi d a b => Sys2Proof.Machine.execBfi d a b s
  | .popc d a => Sys2Proof.Machine.execPopc d a s
  | .clz d a => Sys2Proof.Machine.execClz d a s
  | .ctz d a => Sys2Proof.Machine.execCtz d a s
  | .brev d a => Sys2Proof.Machine.execBrev d a s
  | .bswap d a => Sys2Proof.Machine.execBswap d a s
  | .sextb d a => Sys2Proof.Machine.execSextb d a s
  | .sexth d a => Sys2Proof.Machine.execSexth d a s
  | .sextw d a => Sys2Proof.Machine.execSextw d a s
  | .zextb d a => Sys2Proof.Machine.execZextb d a s
  | .zexth d a => Sys2Proof.Machine.execZexth d a s
  | .zextw d a => Sys2Proof.Machine.execZextw d a s
  | .lea d a b imm c => Sys2Proof.Machine.execLea d a b imm c s
  | .beq a b o => Sys2Proof.Machine.execBeq a b o s
  | .bne a b o => Sys2Proof.Machine.execBne a b o s
  | .blt a b o => Sys2Proof.Machine.execBlt a b o s
  | .bge a b o => Sys2Proof.Machine.execBge a b o s
  | .bltu a b o => Sys2Proof.Machine.execBltu a b o s
  | .bgeu a b o => Sys2Proof.Machine.execBgeu a b o s
  | .bbs a b o => Sys2Proof.Machine.execBbs a b o s
  | .bbc a b o => Sys2Proof.Machine.execBbc a b o s
  | .beqz a o => Sys2Proof.Machine.execBeqz a o s
  | .bnez a o => Sys2Proof.Machine.execBnez a o s
  | .bltz a o => Sys2Proof.Machine.execBltz a o s
  | .bgez a o => Sys2Proof.Machine.execBgez a o s
  | .bgtz a o => Sys2Proof.Machine.execBgtz a o s
  | .blez a o => Sys2Proof.Machine.execBlez a o s
  | .dbnz a o => Sys2Proof.Machine.execDbnz a o s
  | .j imm => Sys2Proof.Machine.execJ imm s
  | .jl imm => Sys2Proof.Machine.execJl imm s
  | .jr a => Sys2Proof.Machine.execJr a s
  | .jlr d a => Sys2Proof.Machine.execJlr d a s
  | .rpt a n x y z => Sys2Proof.Machine.execRpt a n x y z s
  | .ldS8 d a k imm => Sys2Proof.Machine.execLdS8 d a k imm s
  | .ldZ8 d a k imm => Sys2Proof.Machine.execLdZ8 d a k imm s
  | .ldS16 d a k imm => Sys2Proof.Machine.execLdS16 d a k imm s
  | .ldZ16 d a k imm => Sys2Proof.Machine.execLdZ16 d a k imm s
  | .ldS32 d a k imm => Sys2Proof.Machine.execLdS32 d a k imm s
  | .ldZ32 d a k imm => Sys2Proof.Machine.execLdZ32 d a k imm s
  | .ld64 d a k imm => Sys2Proof.Machine.execLd64 d a k imm s
  | .st8 d a k imm => Sys2Proof.Machine.execSt8 d a k imm s
  | .st16 d a k imm => Sys2Proof.Machine.execSt16 d a k imm s
  | .st32 d a k imm => Sys2Proof.Machine.execSt32 d a k imm s
  | .st64 d a k imm => Sys2Proof.Machine.execSt64 d a k imm s
  | .ldxS8 d a b k c => Sys2Proof.Machine.execLdxS8 d a b k c s
  | .ldxZ8 d a b k c => Sys2Proof.Machine.execLdxZ8 d a b k c s
  | .ldxS16 d a b k c => Sys2Proof.Machine.execLdxS16 d a b k c s
  | .ldxZ16 d a b k c => Sys2Proof.Machine.execLdxZ16 d a b k c s
  | .ldxS32 d a b k c => Sys2Proof.Machine.execLdxS32 d a b k c s
  | .ldxZ32 d a b k c => Sys2Proof.Machine.execLdxZ32 d a b k c s
  | .ldx64 d a b k c => Sys2Proof.Machine.execLdx64 d a b k c s
  | .stx8 d a b k c => Sys2Proof.Machine.execStx8 d a b k c s
  | .stx16 d a b k c => Sys2Proof.Machine.execStx16 d a b k c s
  | .stx32 d a b k c => Sys2Proof.Machine.execStx32 d a b k c s
  | .stx64 d a b k c => Sys2Proof.Machine.execStx64 d a b k c s
  | .ldfe d a imm sc => Sys2Proof.Machine.execLdfe d a imm sc s
  | .ldfw d a imm sc => Sys2Proof.Machine.execLdfw d a imm sc s
  | .stfw d a imm sc => Sys2Proof.Machine.execStfw d a imm sc s
  | .stfs d a imm sc => Sys2Proof.Machine.execStfs d a imm sc s
  | .fetag d a imm sc => Sys2Proof.Machine.execFetag d a imm sc s
  | .feclr a imm sc => Sys2Proof.Machine.execFeclr a imm sc s
  | .fence sc => Sys2Proof.Machine.execFence sc s
  | .ifence sc => Sys2Proof.Machine.execIfence sc s
  | .efence sc => Sys2Proof.Machine.execEfence sc s
  | .vld d a b k => Sys2Proof.Machine.execVld d a b k s
  | .vst d a b k => Sys2Proof.Machine.execVst d a b k s
  | .vlds d a b k => Sys2Proof.Machine.execVlds d a b k s
  | .vsts d a b k => Sys2Proof.Machine.execVsts d a b k s
  | .vldx d a b k => Sys2Proof.Machine.execVldx d a b k s
  | .vstx d a b k => Sys2Proof.Machine.execVstx d a b k s
  | .vldb d a b k => Sys2Proof.Machine.execVldb d a b k s
  | .ldt a b k => Sys2Proof.Machine.execLdt a b k s
  | .vaddI16 d a b m => Sys2Proof.Machine.execVaddI16 d a b m s
  | .vsubI16 d a b m => Sys2Proof.Machine.execVsubI16 d a b m s
  | .vmulI16 d a b m => Sys2Proof.Machine.execVmulI16 d a b m s
  | .vmulhI16 d a b m => Sys2Proof.Machine.execVmulhI16 d a b m s
  | .vminI16 d a b m => Sys2Proof.Machine.execVminI16 d a b m s
  | .vmaxI16 d a b m => Sys2Proof.Machine.execVmaxI16 d a b m s
  | .vminuI16 d a b m => Sys2Proof.Machine.execVminuI16 d a b m s
  | .vmaxuI16 d a b m => Sys2Proof.Machine.execVmaxuI16 d a b m s
  | .vandI16 d a b m => Sys2Proof.Machine.execVandI16 d a b m s
  | .vorI16 d a b m => Sys2Proof.Machine.execVorI16 d a b m s
  | .vxorI16 d a b m => Sys2Proof.Machine.execVxorI16 d a b m s
  | .vshlI16 d a b m => Sys2Proof.Machine.execVshlI16 d a b m s
  | .vshrI16 d a b m => Sys2Proof.Machine.execVshrI16 d a b m s
  | .vshaI16 d a b m => Sys2Proof.Machine.execVshaI16 d a b m s
  | .vabsI16 d a m => Sys2Proof.Machine.execVabsI16 d a m s
  | .vnegI16 d a m => Sys2Proof.Machine.execVnegI16 d a m s
  | .vaddsI16 d a b m => Sys2Proof.Machine.execVaddsI16 d a b m s
  | .vsubsI16 d a b m => Sys2Proof.Machine.execVsubsI16 d a b m s
  | .vmacI16 d a b m => Sys2Proof.Machine.execVmacI16 d a b m s
  | .vaddI32 d a b m => Sys2Proof.Machine.execVaddI32 d a b m s
  | .vsubI32 d a b m => Sys2Proof.Machine.execVsubI32 d a b m s
  | .vmulI32 d a b m => Sys2Proof.Machine.execVmulI32 d a b m s
  | .vmulhI32 d a b m => Sys2Proof.Machine.execVmulhI32 d a b m s
  | .vminI32 d a b m => Sys2Proof.Machine.execVminI32 d a b m s
  | .vmaxI32 d a b m => Sys2Proof.Machine.execVmaxI32 d a b m s
  | .vminuI32 d a b m => Sys2Proof.Machine.execVminuI32 d a b m s
  | .vmaxuI32 d a b m => Sys2Proof.Machine.execVmaxuI32 d a b m s
  | .vandI32 d a b m => Sys2Proof.Machine.execVandI32 d a b m s
  | .vorI32 d a b m => Sys2Proof.Machine.execVorI32 d a b m s
  | .vxorI32 d a b m => Sys2Proof.Machine.execVxorI32 d a b m s
  | .vshlI32 d a b m => Sys2Proof.Machine.execVshlI32 d a b m s
  | .vshrI32 d a b m => Sys2Proof.Machine.execVshrI32 d a b m s
  | .vshaI32 d a b m => Sys2Proof.Machine.execVshaI32 d a b m s
  | .vabsI32 d a m => Sys2Proof.Machine.execVabsI32 d a m s
  | .vnegI32 d a m => Sys2Proof.Machine.execVnegI32 d a m s
  | .vaddsI32 d a b m => Sys2Proof.Machine.execVaddsI32 d a b m s
  | .vsubsI32 d a b m => Sys2Proof.Machine.execVsubsI32 d a b m s
  | .vmacI32 d a b m => Sys2Proof.Machine.execVmacI32 d a b m s
  | .vaddF32 d a b m => Sys2Proof.Machine.execVaddF32 d a b m s
  | .vsubF32 d a b m => Sys2Proof.Machine.execVsubF32 d a b m s
  | .vmulF32 d a b m => Sys2Proof.Machine.execVmulF32 d a b m s
  | .vfmaF32 d a b m => Sys2Proof.Machine.execVfmaF32 d a b m s
  | .vfmsF32 d a b m => Sys2Proof.Machine.execVfmsF32 d a b m s
  | .vminF32 d a b m => Sys2Proof.Machine.execVminF32 d a b m s
  | .vmaxF32 d a b m => Sys2Proof.Machine.execVmaxF32 d a b m s
  | .vabsF32 d a m => Sys2Proof.Machine.execVabsF32 d a m s
  | .vnegF32 d a m => Sys2Proof.Machine.execVnegF32 d a m s
  | .vscaleF32 d a b m => Sys2Proof.Machine.execVscaleF32 d a b m s
  | .vfnmaF32 d a b m => Sys2Proof.Machine.execVfnmaF32 d a b m s
  | .vaddBf16 d a b m => Sys2Proof.Machine.execVaddBf16 d a b m s
  | .vsubBf16 d a b m => Sys2Proof.Machine.execVsubBf16 d a b m s
  | .vmulBf16 d a b m => Sys2Proof.Machine.execVmulBf16 d a b m s
  | .vfmaBf16 d a b m => Sys2Proof.Machine.execVfmaBf16 d a b m s
  | .vfmsBf16 d a b m => Sys2Proof.Machine.execVfmsBf16 d a b m s
  | .vminBf16 d a b m => Sys2Proof.Machine.execVminBf16 d a b m s
  | .vmaxBf16 d a b m => Sys2Proof.Machine.execVmaxBf16 d a b m s
  | .vabsBf16 d a m => Sys2Proof.Machine.execVabsBf16 d a m s
  | .vnegBf16 d a m => Sys2Proof.Machine.execVnegBf16 d a m s
  | .vscaleBf16 d a b m => Sys2Proof.Machine.execVscaleBf16 d a b m s
  | .vfnmaBf16 d a b m => Sys2Proof.Machine.execVfnmaBf16 d a b m s
  | .vaddF16 d a b m => Sys2Proof.Machine.execVaddF16 d a b m s
  | .vsubF16 d a b m => Sys2Proof.Machine.execVsubF16 d a b m s
  | .vmulF16 d a b m => Sys2Proof.Machine.execVmulF16 d a b m s
  | .vfmaF16 d a b m => Sys2Proof.Machine.execVfmaF16 d a b m s
  | .vfmsF16 d a b m => Sys2Proof.Machine.execVfmsF16 d a b m s
  | .vminF16 d a b m => Sys2Proof.Machine.execVminF16 d a b m s
  | .vmaxF16 d a b m => Sys2Proof.Machine.execVmaxF16 d a b m s
  | .vabsF16 d a m => Sys2Proof.Machine.execVabsF16 d a m s
  | .vnegF16 d a m => Sys2Proof.Machine.execVnegF16 d a m s
  | .vscaleF16 d a b m => Sys2Proof.Machine.execVscaleF16 d a b m s
  | .vfnmaF16 d a b m => Sys2Proof.Machine.execVfnmaF16 d a b m s
  | .vaddE4m3 d a b m => Sys2Proof.Machine.execVaddE4m3 d a b m s
  | .vsubE4m3 d a b m => Sys2Proof.Machine.execVsubE4m3 d a b m s
  | .vmulE4m3 d a b m => Sys2Proof.Machine.execVmulE4m3 d a b m s
  | .vaddE5m2 d a b m => Sys2Proof.Machine.execVaddE5m2 d a b m s
  | .vsubE5m2 d a b m => Sys2Proof.Machine.execVsubE5m2 d a b m s
  | .vmulE5m2 d a b m => Sys2Proof.Machine.execVmulE5m2 d a b m s
  | .vaddI8 d a b m => Sys2Proof.Machine.execVaddI8 d a b m s
  | .vsubI8 d a b m => Sys2Proof.Machine.execVsubI8 d a b m s
  | .vaddsI8 d a b m => Sys2Proof.Machine.execVaddsI8 d a b m s
  | .vminI8 d a b m => Sys2Proof.Machine.execVminI8 d a b m s
  | .vmaxI8 d a b m => Sys2Proof.Machine.execVmaxI8 d a b m s
  | .vmov d a m => Sys2Proof.Machine.execVmov d a m s
  | .vmerge d a b m => Sys2Proof.Machine.execVmerge d a b m s
  | .vbcast16 d a m => Sys2Proof.Machine.execVbcast16 d a m s
  | .vbcast32 d a m => Sys2Proof.Machine.execVbcast32 d a m s
  | .vbcast64 d a m => Sys2Proof.Machine.execVbcast64 d a m s
  | .vext16 d a b => Sys2Proof.Machine.execVext16 d a b s
  | .vext32 d a b => Sys2Proof.Machine.execVext32 d a b s
  | .vins16 d a b => Sys2Proof.Machine.execVins16 d a b s
  | .vins32 d a b => Sys2Proof.Machine.execVins32 d a b s
  | .vperm16 d a b m => Sys2Proof.Machine.execVperm16 d a b m s
  | .vperm32 d a b m => Sys2Proof.Machine.execVperm32 d a b m s
  | .vslideup d a b m => Sys2Proof.Machine.execVslideup d a b m s
  | .vslidedn d a b m => Sys2Proof.Machine.execVslidedn d a b m s
  | .vzip16 d a b m => Sys2Proof.Machine.execVzip16 d a b m s
  | .vunzip16 d a m => Sys2Proof.Machine.execVunzip16 d a m s
  | .vredsumF32 d a m => Sys2Proof.Machine.execVredsumF32 d a m s
  | .vredsumBf16 d a m => Sys2Proof.Machine.execVredsumBf16 d a m s
  | .vredmaxF32 d a m => Sys2Proof.Machine.execVredmaxF32 d a m s
  | .vredminF32 d a m => Sys2Proof.Machine.execVredminF32 d a m s
  | .vredsumI32 d a m => Sys2Proof.Machine.execVredsumI32 d a m s
  | .vredmaxBf16 d a m => Sys2Proof.Machine.execVredmaxBf16 d a m s
  | .vcvtBf16F32 d a m => Sys2Proof.Machine.execVcvtBf16F32 d a m s
  | .vcvtF16F32 d a m => Sys2Proof.Machine.execVcvtF16F32 d a m s
  | .vcvtF32Bf16 d a m => Sys2Proof.Machine.execVcvtF32Bf16 d a m s
  | .vcvtF32F16 d a m => Sys2Proof.Machine.execVcvtF32F16 d a m s
  | .vcvtE4m3F32 d a m => Sys2Proof.Machine.execVcvtE4m3F32 d a m s
  | .vcvtE5m2F32 d a m => Sys2Proof.Machine.execVcvtE5m2F32 d a m s
  | .vcvtF32E4m3 d a m => Sys2Proof.Machine.execVcvtF32E4m3 d a m s
  | .vcvtF32E5m2 d a m => Sys2Proof.Machine.execVcvtF32E5m2 d a m s
  | .vcvtI32F32 d a m => Sys2Proof.Machine.execVcvtI32F32 d a m s
  | .vcvtF32I32 d a m => Sys2Proof.Machine.execVcvtF32I32 d a m s
  | .vcvtI16F32 d a m => Sys2Proof.Machine.execVcvtI16F32 d a m s
  | .vq4 d a b m => Sys2Proof.Machine.execVq4 d a b m s
  | .vdq4 d a b m => Sys2Proof.Machine.execVdq4 d a b m s
  | .vpack8 d a b m => Sys2Proof.Machine.execVpack8 d a b m s
  | .vunpk8 d a b m => Sys2Proof.Machine.execVunpk8 d a b m s
  | .vcvtBf16E4m3 d a m => Sys2Proof.Machine.execVcvtBf16E4m3 d a m s
  | .vcvtE4m3Bf16 d a m => Sys2Proof.Machine.execVcvtE4m3Bf16 d a m s
  | .vrcp d a m t => Sys2Proof.Machine.execVrcp d a m t s
  | .vrsq d a m t => Sys2Proof.Machine.execVrsq d a m t s
  | .vsqrt d a m t => Sys2Proof.Machine.execVsqrt d a m t s
  | .vexp2 d a m t => Sys2Proof.Machine.execVexp2 d a m t s
  | .vexp d a m t => Sys2Proof.Machine.execVexp d a m t s
  | .vlog2 d a m t => Sys2Proof.Machine.execVlog2 d a m t s
  | .vsin d a m t => Sys2Proof.Machine.execVsin d a m t s
  | .vcos d a m t => Sys2Proof.Machine.execVcos d a m t s
  | .vtanh d a m t => Sys2Proof.Machine.execVtanh d a m t s
  | .vsigm d a m t => Sys2Proof.Machine.execVsigm d a m t s
  | .verf d a m t => Sys2Proof.Machine.execVerf d a m t s
  | .vcmp d a b m c t => Sys2Proof.Machine.execVcmp d a b m c t s
  | .vwhile16 d a b => Sys2Proof.Machine.execVwhile16 d a b s
  | .vwhile32 d a b => Sys2Proof.Machine.execVwhile32 d a b s
  | .vwhile64 d a b => Sys2Proof.Machine.execVwhile64 d a b s
  | .vlq d => Sys2Proof.Machine.execVlq d s
  | .vlanes d a => Sys2Proof.Machine.execVlanes d a s
  | .mfirst d a => Sys2Proof.Machine.execMfirst d a s
  | .mwld a b => Sys2Proof.Machine.execMwld a b s
  | .mwswap => Sys2Proof.Machine.execMwswap s
  | .mstrm a b => Sys2Proof.Machine.execMstrm a b s
  | .mzero b => Sys2Proof.Machine.execMzero b s
  | .mrda d b k => Sys2Proof.Machine.execMrda d b k s
  | .mwra a b => Sys2Proof.Machine.execMwra a b s
  | .mwait => Sys2Proof.Machine.execMwait s
  | .mgath a b => Sys2Proof.Machine.execMgath a b s
  | .mxswap => Sys2Proof.Machine.execMxswap s
  | .mstat d => Sys2Proof.Machine.execMstat d s
  | .mcmd d a b cmd notify => Sys2Proof.Machine.execMcmd d a b cmd notify s
  | .tcopy d a b x0 => Sys2Proof.Machine.execTcopy d a b x0 s
  | .tslide d a b x0 x1 => Sys2Proof.Machine.execTslide d a b x0 x1 s
  | .lpref a b x0 => Sys2Proof.Machine.execLpref a b x0 s
  | .cwait d a b => Sys2Proof.Machine.execCwait d a b s
  | .ctest d a b => Sys2Proof.Machine.execCtest d a b s
  | .cclr a => Sys2Proof.Machine.execCclr a s
  | .bread a b x0 x1 => Sys2Proof.Machine.execBread a b x0 x1 s
  | .arsv d a => Sys2Proof.Machine.execArsv d a s
  | .arls a b => Sys2Proof.Machine.execArls a b s
  | .arcn a => Sys2Proof.Machine.execArcn a s
  | .cas d a b k => Sys2Proof.Machine.execCas d a b k s
  | .swap d a b k => Sys2Proof.Machine.execSwap d a b k s
  | .fadd d a b k => Sys2Proof.Machine.execFadd d a b k s
  | .redAdd64 r a b sc q => Sys2Proof.Machine.execRedAdd64 r a b sc q s
  | .redAdd32 r a b sc q => Sys2Proof.Machine.execRedAdd32 r a b sc q s
  | .redMin64 r a b sc q => Sys2Proof.Machine.execRedMin64 r a b sc q s
  | .redMax64 r a b sc q => Sys2Proof.Machine.execRedMax64 r a b sc q s
  | .redMinu64 r a b sc q => Sys2Proof.Machine.execRedMinu64 r a b sc q s
  | .redMaxu64 r a b sc q => Sys2Proof.Machine.execRedMaxu64 r a b sc q s
  | .redAnd64 r a b sc q => Sys2Proof.Machine.execRedAnd64 r a b sc q s
  | .redOr64 r a b sc q => Sys2Proof.Machine.execRedOr64 r a b sc q s
  | .redXor64 r a b sc q => Sys2Proof.Machine.execRedXor64 r a b sc q s
  | .redfAddF32 r a b sc q => Sys2Proof.Machine.execRedfAddF32 r a b sc q s
  | .redfAddBf16 r a b sc q => Sys2Proof.Machine.execRedfAddBf16 r a b sc q s
  | .wacrd d a k => Sys2Proof.Machine.execWacrd d a k s
  | .wacclr a => Sys2Proof.Machine.execWacclr a s
  | .breg d a b => Sys2Proof.Machine.execBreg d a b s
  | .barv d a => Sys2Proof.Machine.execBarv d a s
  | .bwait a b => Sys2Proof.Machine.execBwait a b s
  | .barvw d a => Sys2Proof.Machine.execBarvw d a s
  | .btest d a => Sys2Proof.Machine.execBtest d a s
  | .chbind d a => Sys2Proof.Machine.execChbind d a s
  | .chunb a => Sys2Proof.Machine.execChunb a s
  | .chstat d a => Sys2Proof.Machine.execChstat d a s
  | .send a => Sys2Proof.Machine.execSend a s
  | .rsrv d a => Sys2Proof.Machine.execRsrv d a s
  | .treeset a => Sys2Proof.Machine.execTreeset a s
  | .sqres d a b => Sys2Proof.Machine.execSqres d a b s
  | .sqst d a b => Sys2Proof.Machine.execSqst d a b s
  | .sqstr d a b => Sys2Proof.Machine.execSqstr d a b s
  | .sqcmt d a b => Sys2Proof.Machine.execSqcmt d a b s
  | .sqaband d a b => Sys2Proof.Machine.execSqaband d a b s
  | .sqlen d a b => Sys2Proof.Machine.execSqlen d a b s
  | .sqfork d a b => Sys2Proof.Machine.execSqfork d a b s
  | .sqrel a => Sys2Proof.Machine.execSqrel a s
  | .sqtrim d a b => Sys2Proof.Machine.execSqtrim d a b s
  | .sqrd d a b => Sys2Proof.Machine.execSqrd d a b s
  | .sqcow d a b => Sys2Proof.Machine.execSqcow d a b s
  | .squnpin a => Sys2Proof.Machine.execSqunpin a s
  | .mbwr d a => Sys2Proof.Machine.execMbwr d a s
  | .mbpub a b => Sys2Proof.Machine.execMbpub a b s
  | .mbpubc a b => Sys2Proof.Machine.execMbpubc a b s
  | .mbrd d a b => Sys2Proof.Machine.execMbrd d a b s
  | .seize d a b x0 => Sys2Proof.Machine.execSeize d a b x0 s
  | .srls => Sys2Proof.Machine.execSrls s
  | .srlsRemote a => Sys2Proof.Machine.execSrlsRemote a s
  | .seizq d a => Sys2Proof.Machine.execSeizq d a s
  | .spawn d a b => Sys2Proof.Machine.execSpawn d a b s
  | .exit => Sys2Proof.Machine.execExit s
  | .time d => Sys2Proof.Machine.execTime d s
  | .hend => Sys2Proof.Machine.execHend s
  | .bqry d => Sys2Proof.Machine.execBqry d s
  | .prime d a b => Sys2Proof.Machine.execPrime d a b s
  | .unprime d a => Sys2Proof.Machine.execUnprime d a s
  | .csrrd d c => Sys2Proof.Machine.execCsrrd d c s
  | .csrwr d a c => Sys2Proof.Machine.execCsrwr d a c s
  | .csrset d a c => Sys2Proof.Machine.execCsrset d a c s
  | .csrclr d a c => Sys2Proof.Machine.execCsrclr d a c s
  | .trap n => Sys2Proof.Machine.execTrap n s
  | .eret => Sys2Proof.Machine.execEret s
  | .ebrk n => Sys2Proof.Machine.execEbrk n s
  | .hfcall d a n => Sys2Proof.Machine.execHfcall d a n s
  | .cancel d a n => Sys2Proof.Machine.execCancel d a n s
  | .dlaunch d a => Sys2Proof.Machine.execDlaunch d a s
  | .cIll imm => Sys2Proof.Machine.execCIll imm s
  | .cNop => Sys2Proof.Machine.execCNop s
  | .cMov r f => Sys2Proof.Machine.execCMov r f s
  | .cAdd r f => Sys2Proof.Machine.execCAdd r f s
  | .cSub r f => Sys2Proof.Machine.execCSub r f s
  | .cAddi r imm => Sys2Proof.Machine.execCAddi r imm s
  | .cLi r imm => Sys2Proof.Machine.execCLi r imm s
  | .cShli r n => Sys2Proof.Machine.execCShli r n s
  | .cShri r n => Sys2Proof.Machine.execCShri r n s
  | .cAnd r f => Sys2Proof.Machine.execCAnd r f s
  | .cOr r f => Sys2Proof.Machine.execCOr r f s
  | .cXor r f => Sys2Proof.Machine.execCXor r f s
  | .cLd64 r f => Sys2Proof.Machine.execCLd64 r f s
  | .cSt64 r f => Sys2Proof.Machine.execCSt64 r f s
  | .cBeqz r o => Sys2Proof.Machine.execCBeqz r o s
  | .cBnez r o => Sys2Proof.Machine.execCBnez r o s
  | .cJ o => Sys2Proof.Machine.execCJ o s
  | .cRlx sc => Sys2Proof.Machine.execCRlx sc s
  | .cExit => Sys2Proof.Machine.execCExit s
  | .cHend => Sys2Proof.Machine.execCHend s
  | .cJr r => Sys2Proof.Machine.execCJr r s
  | .qlaunch va => Sys2Proof.Machine.execQlaunch va s
  | .qib va len => Sys2Proof.Machine.execQib va len s
  | .qret => Sys2Proof.Machine.execQret s
  | .qpred cond va x => Sys2Proof.Machine.execQpred cond va x s
  | .qendp => Sys2Proof.Machine.execQendp s
  | .qloop count => Sys2Proof.Machine.execQloop count s
  | .qendl => Sys2Proof.Machine.execQendl s
  | .qsig irq vec va x => Sys2Proof.Machine.execQsig irq vec va x s
  | .qwait cond va x timeout => Sys2Proof.Machine.execQwait cond va x timeout s
  | .qff => Sys2Proof.Machine.execQff s
  | .qwr va x => Sys2Proof.Machine.execQwr va x s
  | .qdep kind id => Sys2Proof.Machine.execQdep kind id s
  | .qnop nx => Sys2Proof.Machine.execQnop nx s
  | .qmark kind id => Sys2Proof.Machine.execQmark kind id s
  | .qreplay w => Sys2Proof.Machine.execQreplay w s
  | .qprio p => Sys2Proof.Machine.execQprio p s
  | .throttleExit => Sys2Proof.Machine.execThrottleExit s

end Sys2Proof.Machine
end

