-- ==== Sys2Proof/Machine/Reads.lean ====
section
/-! DEFINITION. The registers that an instruction reads, for the results of fixed latency that it awaits (R132, R135). -/

namespace Sys2Proof.Machine

/-- Registers of one file. -/
def rs (k : Nat → Dest) (l : List (BitVec 5)) : List Dest := l.map (fun n => k n.toNat)
/-- The old value of a vector destination, which every instruction that writes a vector register reads (R197). -/
def kept (d : BitVec 5) : List Dest := [.v d.toNat]

/-- The registers that an instruction reads as it issues (R135). -/
def readsOf (i : Instr) : List Dest :=
  match i with
  | .add _ a b | .sub _ a b | .and _ a b | .or _ a b | .xor _ a b | .andn _ a b | .shl _ a b | .shr _ a b | .sha _ a b | .rotr _ a b
  | .min _ a b | .max _ a b | .minu _ a b | .maxu _ a b | .cmpeq _ a b | .cmpne _ a b | .cmplt _ a b | .cmpltu _ a b | .cmpge _ a b
  | .cmpgeu _ a b | .addw _ a b | .subw _ a b | .mul _ a b | .mulh _ a b | .mulhu _ a b | .mulhsu _ a b | .div _ a b | .divu _ a b
  | .rem _ a b | .remu _ a b | .mulw _ a b | .bfx _ a b | .bfxu _ a b | .lea _ a b _ _ | .beq a b _ | .bne a b _ | .blt a b _ | .bge a b _
  | .bltu a b _ | .bgeu a b _ | .bbs a b _ | .bbc a b _ | .ldxS8 _ a b _ _ | .ldxZ8 _ a b _ _ | .ldxS16 _ a b _ _ | .ldxZ16 _ a b _ _
  | .ldxS32 _ a b _ _ | .ldxZ32 _ a b _ _ | .ldx64 _ a b _ _ | .ldt a b _ | .vwhile16 _ a b | .vwhile32 _ a b | .vwhile64 _ a b | .mwld a b
  | .mstrm a b | .mgath a b | .mcmd _ a b _ _ | .cwait _ a b | .ctest _ a b | .arls a b | .swap _ a b _ | .fadd _ a b _
  | .redAdd64 _ a b _ _ | .redAdd32 _ a b _ _ | .redMin64 _ a b _ _ | .redMax64 _ a b _ _ | .redMinu64 _ a b _ _ | .redMaxu64 _ a b _ _
  | .redAnd64 _ a b _ _ | .redOr64 _ a b _ _ | .redXor64 _ a b _ _ | .redfAddF32 _ a b _ _ | .redfAddBf16 _ a b _ _ | .breg _ a b
  | .bwait a b | .sqres _ a b | .sqcmt _ a b | .sqaband _ a b | .sqlen _ a b | .sqfork _ a b | .sqtrim _ a b | .sqrd _ a b | .sqcow _ a b
  | .mbpub a b | .mbpubc a b | .seize _ a b _ | .spawn _ a b | .prime _ a b => rs .g [a, b]
  | .sel d a b | .madd d a b | .bfi d a b | .stx8 d a b _ _ | .stx16 d a b _ _ | .stx32 d a b _ _ | .stx64 d a b _ _ | .cas d a b _
    => rs .g [a, b, d]
  | .addi _ a _ | .andi _ a _ | .ori _ a _ | .xori _ a _ | .shli _ a _ | .shri _ a _ | .shai _ a _ | .rotri _ a _ | .cmpeqi _ a _
  | .cmpnei _ a _ | .cmplti _ a _ | .cmpltui _ a _ | .cmpgei _ a _ | .cmpgeui _ a _ | .popc _ a | .clz _ a | .ctz _ a | .brev _ a
  | .bswap _ a | .sextb _ a | .sexth _ a | .sextw _ a | .zextb _ a | .zexth _ a | .zextw _ a | .beqz a _ | .bnez a _ | .bltz a _ | .bgez a _
  | .bgtz a _ | .blez a _ | .dbnz a _ | .jr a | .jlr _ a | .rpt a _ _ _ _ | .ldS8 _ a _ _ | .ldZ8 _ a _ _ | .ldS16 _ a _ _ | .ldZ16 _ a _ _
  | .ldS32 _ a _ _ | .ldZ32 _ a _ _ | .ld64 _ a _ _ | .ldfe _ a _ _ | .ldfw _ a _ _ | .fetag _ a _ _ | .feclr a _ _ | .vlanes _ a
  | .mfirst _ a | .cclr a | .arsv _ a | .arcn a | .wacrd _ a _ | .wacclr a | .barv _ a | .barvw _ a | .btest _ a | .chbind _ a | .chunb a
  | .chstat _ a | .send a | .rsrv _ a | .treeset a | .sqrel a | .squnpin a | .srlsRemote a | .seizq _ a | .unprime _ a | .csrwr _ a _
  | .csrset _ a _ | .csrclr _ a _ | .hfcall _ a _ | .cancel _ a _ | .dlaunch _ a => rs .g [a]
  | .st8 d a _ _ | .st16 d a _ _ | .st32 d a _ _ | .st64 d a _ _ | .stfw d a _ _ | .stfs d a _ _ | .mbwr d a => rs .g [a, d]
  | .vld d a b _ | .vldb d a b _ => rs .g [a, b] ++ kept d
  | .mbrd d a b => rs .g [a, b] ++ kept d
  | .vst d a b _ | .vlds d a b _ | .vsts d a b _ | .vins16 d a b | .vins32 d a b | .sqst d a b | .sqstr d a b => rs .g [a, b] ++ rs .v [d]
  | .vldx d a b _ | .vstx d a b _ => rs .g [a] ++ rs .v [b, d]
  | .vaddI16 d a b m | .vsubI16 d a b m | .vmulI16 d a b m | .vmulhI16 d a b m | .vminI16 d a b m | .vmaxI16 d a b m | .vminuI16 d a b m
  | .vmaxuI16 d a b m | .vandI16 d a b m | .vorI16 d a b m | .vxorI16 d a b m | .vshlI16 d a b m | .vshrI16 d a b m | .vshaI16 d a b m
  | .vaddsI16 d a b m | .vsubsI16 d a b m | .vaddI32 d a b m | .vsubI32 d a b m | .vmulI32 d a b m | .vmulhI32 d a b m | .vminI32 d a b m
  | .vmaxI32 d a b m | .vminuI32 d a b m | .vmaxuI32 d a b m | .vandI32 d a b m | .vorI32 d a b m | .vxorI32 d a b m | .vshlI32 d a b m
  | .vshrI32 d a b m | .vshaI32 d a b m | .vaddsI32 d a b m | .vsubsI32 d a b m | .vaddF32 d a b m | .vsubF32 d a b m | .vmulF32 d a b m
  | .vminF32 d a b m | .vmaxF32 d a b m | .vscaleF32 d a b m | .vaddBf16 d a b m | .vsubBf16 d a b m | .vmulBf16 d a b m | .vminBf16 d a b m
  | .vmaxBf16 d a b m | .vscaleBf16 d a b m | .vaddF16 d a b m | .vsubF16 d a b m | .vmulF16 d a b m | .vminF16 d a b m | .vmaxF16 d a b m
  | .vscaleF16 d a b m | .vaddE4m3 d a b m | .vsubE4m3 d a b m | .vmulE4m3 d a b m | .vaddE5m2 d a b m | .vsubE5m2 d a b m
  | .vmulE5m2 d a b m | .vaddI8 d a b m | .vsubI8 d a b m | .vaddsI8 d a b m | .vminI8 d a b m | .vmaxI8 d a b m | .vperm16 d a b m
  | .vperm32 d a b m | .vzip16 d a b m => rs .g [m] ++ rs .v [a, b] ++ kept d
  | .vabsI16 d a m | .vnegI16 d a m | .vabsI32 d a m | .vnegI32 d a m | .vabsF32 d a m | .vnegF32 d a m | .vabsBf16 d a m | .vnegBf16 d a m
  | .vabsF16 d a m | .vnegF16 d a m | .vmov d a m | .vunzip16 d a m | .vcvtBf16F32 d a m | .vcvtF16F32 d a m | .vcvtF32Bf16 d a m
  | .vcvtF32F16 d a m | .vcvtE4m3F32 d a m | .vcvtE5m2F32 d a m | .vcvtF32E4m3 d a m | .vcvtF32E5m2 d a m | .vcvtI32F32 d a m
  | .vcvtF32I32 d a m | .vcvtI16F32 d a m | .vcvtBf16E4m3 d a m | .vcvtE4m3Bf16 d a m | .vrcp d a m _ | .vrsq d a m _ | .vsqrt d a m _
  | .vexp2 d a m _ | .vexp d a m _ | .vlog2 d a m _ | .vsin d a m _ | .vcos d a m _ | .vtanh d a m _ | .vsigm d a m _ | .verf d a m _
    => rs .g [m] ++ rs .v [a] ++ kept d
  | .vmacI16 d a b m | .vmacI32 d a b m | .vfmaF32 d a b m | .vfmsF32 d a b m | .vfnmaF32 d a b m | .vfmaBf16 d a b m | .vfmsBf16 d a b m
  | .vfnmaBf16 d a b m | .vfmaF16 d a b m | .vfmsF16 d a b m | .vfnmaF16 d a b m => rs .g [m] ++ rs .v [a, b, d]
  | .vmerge d a b m => rs .g [m] ++ rs .v [a, b] ++ kept d
  | .vcmp _ a b m _ _ => rs .g [m] ++ rs .v [a, b]
  | .vbcast16 d a m | .vbcast32 d a m | .vbcast64 d a m => rs .g [a, m] ++ kept d
  | .vext16 _ a b | .vext32 _ a b | .mwra a b => rs .g [b] ++ rs .v [a]
  | .vslideup d a b m | .vslidedn d a b m | .vdq4 d a b m | .vunpk8 d a b m => rs .g [b, m] ++ rs .v [a] ++ kept d
  | .vredsumF32 _ a m | .vredsumBf16 _ a m | .vredmaxF32 _ a m | .vredminF32 _ a m | .vredsumI32 _ a m | .vredmaxBf16 _ a m
    => rs .g [m] ++ rs .v [a]
  | .vq4 d a b m | .vpack8 d a b m => rs .g [b, m] ++ rs .v [a, d]
  | .mzero b => rs .g [b]
  | .mrda d b _ => rs .g [b] ++ kept d
  | .tcopy d a b _ | .tslide d a b _ _ => rs .g [d, a] ++ rs .v [b]
  | .lpref a b _ | .bread a b _ _ => rs .g [a] ++ rs .v [b]
  | .cMov _ f | .cLd64 _ f => rs .g [f]
  | .cAdd r f | .cSub r f | .cAnd r f | .cOr r f | .cXor r f | .cSt64 r f => rs .g [r, f]
  | .cAddi r _ | .cShli r _ | .cShri r _ | .cBeqz r _ | .cBnez r _ | .cJr r => rs .g [r]
  | _ => []

end Sys2Proof.Machine
end

