-- ==== Sys2Proof/Machine/Units.lean ====
section
/-! DEFINITION. What is due: every step that a unit of the device takes on its own, tried once each, in one fixed order (log entry 1). -/

namespace Sys2Proof.Machine

/-- The state that an outcome gives. -/
def took (o : Out) (s : State) : State :=
  match o with
  | .next t => t
  | _ => s

/-- The arrival of a message of the determinate network, by its place there. -/
def State.arriveMsg (s : State) (ix : Nat) : State :=
  match s.net[ix]? with
  | none => s
  | some m =>
    took (match m with
      | .notice .. => execBindNoticeArrival ix s
      | .credit .. => execCreditArrival ix s
      | .entry .. => execChannelMessageArrival ix s
      | .deliver .. => execTreeDeliverArrival ix s
      | .arrival .. => execBarrierArrival ix s
      | .release .. => execBarrierRelease ix s
      | .mcmd t .. => execMcmdArrival t s
      | .mcmdReply d .. => execRemoteReplyArrival d.tile d.slot d.bank s
      | .seize t _ => execSeizeArrival t s
      | .seizeReply d .. => execSeizeReplyArrival d.tile d.slot d.bank s
      | .srls t _ => execRemoteSrlsArrival t s) s

/-- What is due for one bank of a context. -/
def State.serveBank (s : State) (tile slot b : Nat) : State :=
  let k := s.bank ⟨tile, slot, b⟩
  let s := if k.pend = [] then s else took (execResultWriteback tile slot b s) s
  let s := if k.rlx = [] then s else
    let s := took (execAccessPerformed tile slot b 0 s) s
    took (execRemoteAccessArrival tile slot b 0 s) s
  let s := if k.wait.isNone then s else
    let s := took (execWaitListRetry tile slot b s) s
    let s := took (execTreeDeliverRetry tile slot b s) s
    let s := took (execMailboxReadTransaction tile slot b s) s
    let s := took (execHfcallReply tile slot b s) s
    match (s.bank ⟨tile, slot, b⟩).wait with
    | some (.seizq ..) => took (execRemoteReplyArrival tile slot b s) s
    | _ => s
  k.ports.foldl (fun s p => took (execStreamDelivery tile slot p.1 s) s) s

/-- What is due for a context. -/
def State.serveCtx (s : State) (tile slot : Nat) : State :=
  ((took (execBankSwitchComplete tile slot s) s).serveBank tile slot 0).serveBank tile slot 1

/-- What is due for the copy engine of a tile. -/
def State.serveCopies (s : State) (tile : Nat) : State :=
  let s := (List.range 16).foldl (fun s i =>
    if (s.bank ⟨tile, i / 2, i % 2⟩).wait.isNone then s else took (execBteCommandEntry tile i s) s) s
  let t := s.tile tile
  let s := (List.range t.bte.length).foldl (fun s ix =>
    match (s.tile tile).bte[ix]? with
    | some c => c.todo.foldl (fun s k => took (execBteChunkComplete tile ix k s) s) s
    | none => s) s
  let s := (List.range t.breads.length).foldl (fun s ix =>
    match (s.tile tile).breads[ix]? with
    | some c => c.bursts.foldl (fun s u => took (execBurstDataReturn tile ix u.ix s) s) (took (execBurstDataReturn tile ix c.next s) s)
    | none => s) s
  let s := if t.breads = [] then s else (List.range 8).foldl (fun s k => took (execBurstBirth tile k s) s) s
  (List.range (t.bte.length + t.breads.length)).reverse.foldl (fun s ix => took (execBteCommandComplete tile ix s) s) s

/-- What is due for one lane of a matrix engine. -/
def State.serveLane (s : State) (tile : Nat) (l : Bool) : State :=
  let n := ((s.tile tile).mx.queue l).length
  if n = 0 then s
  else
    let s := took (execMatrixCommandStart tile l s) s
    let s := took (execMatrixStepComplete tile l s) s
    (List.range n).foldl (fun s ix => took (execMatrixCommandComplete tile l ix s) s) s

/-- What is due for a tile. -/
def State.serveTile (s : State) (tile : Nat) : State :=
  let s := s.serveCopies tile
  let s := took (execMatrixCommandEntry tile s) s
  let s := (s.serveLane tile false).serveLane tile true
  let s := took (execMatrixClearComplete tile s) s
  if (s.tile tile).seize.st = 0 then s
  else
    let s := took (execSeizureDrainComplete tile s) s
    let s := took (execSeizureSwapComplete tile s) s
    took (execSeizureReleaseComplete tile s) s

/-- What is due for launches, tasks and instances. -/
def State.serveTasks (s : State) : State :=
  let s := (List.range s.launches.length).foldl (fun s n =>
    let s := took (execDeterministicReservation n s) s
    let s := took (execTaskPlace n s) s
    s.digestOne n) s
  let s := s.tasks.foldl (fun s t =>
    let s := if (s.stagingOf t.id).any (fun p => decide (p.1.copied + 64 < p.2.foot)) then s.stageOne t.id
      else took (execFootprintStagingComplete t.id s) s
    let s := took (execKillQuiet t.id s) s
    took (execTaskRetire t.id s) s) s
  let s := s.saved.foldl (fun s v => took (execTaskRestore v.task.id s) s) s
  let s := s.launches.foldl (fun s l => took (execInstanceComplete l.tenant 1 l.lid.toNat s) s) s
  s.insts.foldl (fun s i => took (execInstanceComplete i.tenant i.kind i.id s) s) s

/-- What is due for tenants, pools and mailboxes. -/
def State.serveShared (s : State) : State :=
  let s := s.tenants.foldl (fun s t =>
    let s := took (execTlbInvalidationComplete t.1 s) s
    let s := took (execLevelQueryComplete t.1 s) s
    took (execReplayAllSend t.1 s) s) s
  let s := s.pools.foldl (fun s p => took (execSeqCommandExecute p.1 s) s) s
  s.mailboxes.foldl (fun s m =>
    let s := took (execMbpubcCopyComplete m.1 s) s
    let s := took (execMailboxPublicationArrival m.1 s) s
    took (execMailboxFlip m.1 s) s) s

/-- A cycle passes: the matrix units do the work of the cycle, the clock moves, and queues in WAIT read their words (R105, R131, R223). -/
def State.pass (s : State) : State := (s.mxTick.serveAtUnit.clock).pollAll s.boot.dtb

/-- Every unit of the device does what is due for it. -/
def State.serveUnits (s : State) : State :=
  let s := s.ctxs.foldl (fun s c => if c.1 < 4096 then s.serveCtx (c.1 / 8) (c.1 % 8) else s) s
  let s := s.tiles.foldl (fun s t => if t.1 < 512 then s.serveTile t.1 else s) s
  let s := (List.range s.allReds.length).reverse.foldl (fun s ix => took (execReductionPerform ix s) s) s
  let s := s.serveTasks.serveShared
  (List.range s.net.length).reverse.foldl (fun s ix => s.arriveMsg ix) s

end Sys2Proof.Machine
end

