-- ==== Sys2Proof/Machine/Fetch.lean ====
section
/-! DEFINITION. How an agent of the device moves: fetching and framing for a core, repeat frames, the pair of a relaxed prefix, turns of a
core, and the queue engines (R71 to R73, R89, R95, R131 to R138, R149 to R152). -/

namespace Sys2Proof.Machine

/-! ### Whole instructions (R57, R58, R71, R136, R137) -/

/-- Units are fetched until the next instruction is whole; a unit that cannot be fetched stops it with its answer. -/
def State.gatherWhole (s : State) (r : BankRef) : Nat → State × Option Chk
  | 0 => (s, some (.trap 0x082))
  | f + 1 =>
    let b := s.bank r
    match wholeLen b.fbuf with
    | some _ => (s, none)
    | none =>
      match s.fetchUnit r b.fetchVa with
      | (s, .ok hs) => (s.setBank r { s.bank r with fbuf := keepBuf (b.fbuf ++ hs) }).gatherWhole r f
      | (s, .error c) => (s, some c)

/-- The record of a fetch that met a line or word that cannot be read (R423, R425). -/
def State.fetchRecord (s : State) (r : BankRef) (va : Va) : State :=
  match s.check ((s.bank r).req (r.tile % 512)) va.toNat 2 2 with
  | (s, .ok (.mem loc)) => s.record ((s.threadRec r 0 2 0 (some va.toNat) 0).unreadable loc)
  | (s, _) => s

/-- A fetch fault of the next instruction, at the first halfword that could not be fetched (R137). -/
def State.fetchStop (s : State) (r : BankRef) (va : Va) (c : Chk) : State :=
  match c with
  | .trap cause => (if cause = 0x087 then s.fetchRecord r va else s).takeTrap r ⟨cause, va.setWidth 64, 0⟩ (s.bank r).pc
  | .absent =>
    let b := s.bank r
    let s := s.setBank r { b with wait := some (.fetch va.toNat), waitPc := b.pc, waitSince := s.boot.dtb }
    s.parkRequest b.tenant (.fetch r) va.toNat 2 b.lid
  | .ok _ => s.takeTrap r ⟨0x082, va.setWidth 64, 0⟩ (s.bank r).pc

/-! ### An instruction's own causes (R73) -/

/-- The instruction-class cause that an instruction which decodes raises by itself for the running thread; 0 for none.
0x007 is a cause of the prefix in front, and not of the instruction behind it. -/
def ownCause (i : Instr) (s : State) : BitVec 10 :=
  if i = .eret ∧ s.me.trap.inh then 0
  else
    let b := s.me
    match exec i (s.setMe { b with wins := [], trap := { b.trap with inh := false, vec := 2, cause := 0 } }) with
    | .next t =>
      let k := (t.bank s.curRef).trap
      if k.inh ∧ k.cause < 0x010 ∧ k.cause ≠ 0x007 then k.cause else 0
    | _ => 0

/-- A JR, JLR or C.JR, by its first two halfwords, whose target is odd (R59, R192). -/
def oddJump (h : List (BitVec 16)) (s : State) : Bool :=
  let lo := h.headD 0
  let w : BitVec 32 := h.getD 1 0 ++ lo
  if lo.extractLsb' 0 1 = 0#1 then lo.extractLsb' 1 5 == 20#5 && (s.rg (lo.extractLsb' 6 5)).getLsbD 0
  else majorOf w == 18 && decide ((slotF w).toNat ≤ 1) && (s.rg (slotA w)).getLsbD 0

/-- The cause of bits that decoding refuses: an odd target comes before a reserved field (R73). -/
def badCause (c : BitVec 10) (h : List (BitVec 16)) (s : State) : BitVec 10 := if c = 0x003 ∧ oddJump h s then 0x008 else c

/-- What follows a C.RLX (R71): an instruction that R71 does not permit carries its own cause. -/
noncomputable def followOf (h : List (BitVec 16)) (s : State) : Follow :=
  match decode h with
  | .bad c => { ins := none, cause := badCause c h s, len := lengthOf h, bits := bitsOf h }
  | .ok i len => { ins := some i, cause := if (relaxedMeaning i s).isSome then 0 else ownCause i s, len := len, bits := bitsOf h }

/-- The instruction at the head of a run of halfwords executed, as the decoder reads it. -/
noncomputable def runWord (h : List (BitVec 16)) (s : State) : Out :=
  let s := { s with iaddr := s.me.pc, ibits := bitsOf h }
  match decode h with
  | .bad c => exec (.illegal (badCause c h s) (bitsOf h)) { s with len := lengthOf h }
  | .ok i len =>
    if isPrefix (h.headD 0) then exec i { s with len := len, follow := followOf (h.drop 1) { s with iaddr := s.me.pc + 2, ibits := bitsOf (h.drop 1) } }
    else exec i { s with len := len }

/-! ### Repeat frames (R149 to R152) -/

/-- An instruction that a body may hold, with its register fields moved; `none` for every other one. -/
noncomputable def shiftRegs (x y z : BitVec 5) (i : Instr) : Option Instr :=
  match i with
  | .add d a b => some (.add (d + x) (a + y) (b + z))
  | .sub d a b => some (.sub (d + x) (a + y) (b + z))
  | .and d a b => some (.and (d + x) (a + y) (b + z))
  | .or d a b => some (.or (d + x) (a + y) (b + z))
  | .xor d a b => some (.xor (d + x) (a + y) (b + z))
  | .andn d a b => some (.andn (d + x) (a + y) (b + z))
  | .shl d a b => some (.shl (d + x) (a + y) (b + z))
  | .shr d a b => some (.shr (d + x) (a + y) (b + z))
  | .sha d a b => some (.sha (d + x) (a + y) (b + z))
  | .rotr d a b => some (.rotr (d + x) (a + y) (b + z))
  | .min d a b => some (.min (d + x) (a + y) (b + z))
  | .max d a b => some (.max (d + x) (a + y) (b + z))
  | .minu d a b => some (.minu (d + x) (a + y) (b + z))
  | .maxu d a b => some (.maxu (d + x) (a + y) (b + z))
  | .cmpeq d a b => some (.cmpeq (d + x) (a + y) (b + z))
  | .cmpne d a b => some (.cmpne (d + x) (a + y) (b + z))
  | .cmplt d a b => some (.cmplt (d + x) (a + y) (b + z))
  | .cmpltu d a b => some (.cmpltu (d + x) (a + y) (b + z))
  | .cmpge d a b => some (.cmpge (d + x) (a + y) (b + z))
  | .cmpgeu d a b => some (.cmpgeu (d + x) (a + y) (b + z))
  | .sel d a b => some (.sel (d + x) (a + y) (b + z))
  | .addw d a b => some (.addw (d + x) (a + y) (b + z))
  | .subw d a b => some (.subw (d + x) (a + y) (b + z))
  | .addi d a i => some (.addi (d + x) (a + y) i)
  | .andi d a i => some (.andi (d + x) (a + y) i)
  | .ori d a i => some (.ori (d + x) (a + y) i)
  | .xori d a i => some (.xori (d + x) (a + y) i)
  | .shli d a n => some (.shli (d + x) (a + y) n)
  | .shri d a n => some (.shri (d + x) (a + y) n)
  | .shai d a n => some (.shai (d + x) (a + y) n)
  | .rotri d a n => some (.rotri (d + x) (a + y) n)
  | .cmpeqi d a i => some (.cmpeqi (d + x) (a + y) i)
  | .cmpnei d a i => some (.cmpnei (d + x) (a + y) i)
  | .cmplti d a i => some (.cmplti (d + x) (a + y) i)
  | .cmpltui d a i => some (.cmpltui (d + x) (a + y) i)
  | .cmpgei d a i => some (.cmpgei (d + x) (a + y) i)
  | .cmpgeui d a i => some (.cmpgeui (d + x) (a + y) i)
  | .mul d a b => some (.mul (d + x) (a + y) (b + z))
  | .mulh d a b => some (.mulh (d + x) (a + y) (b + z))
  | .mulhu d a b => some (.mulhu (d + x) (a + y) (b + z))
  | .mulhsu d a b => some (.mulhsu (d + x) (a + y) (b + z))
  | .div d a b => some (.div (d + x) (a + y) (b + z))
  | .divu d a b => some (.divu (d + x) (a + y) (b + z))
  | .rem d a b => some (.rem (d + x) (a + y) (b + z))
  | .remu d a b => some (.remu (d + x) (a + y) (b + z))
  | .mulw d a b => some (.mulw (d + x) (a + y) (b + z))
  | .madd d a b => some (.madd (d + x) (a + y) (b + z))
  | .bfx d a b => some (.bfx (d + x) (a + y) (b + z))
  | .bfxu d a b => some (.bfxu (d + x) (a + y) (b + z))
  | .bfi d a b => some (.bfi (d + x) (a + y) (b + z))
  | .popc d a => some (.popc (d + x) (a + y))
  | .clz d a => some (.clz (d + x) (a + y))
  | .ctz d a => some (.ctz (d + x) (a + y))
  | .brev d a => some (.brev (d + x) (a + y))
  | .bswap d a => some (.bswap (d + x) (a + y))
  | .sextb d a => some (.sextb (d + x) (a + y))
  | .sexth d a => some (.sexth (d + x) (a + y))
  | .sextw d a => some (.sextw (d + x) (a + y))
  | .zextb d a => some (.zextb (d + x) (a + y))
  | .zexth d a => some (.zexth (d + x) (a + y))
  | .zextw d a => some (.zextw (d + x) (a + y))
  | .lea d a b i c => some (.lea (d + x) (a + y) (b + z) i c)
  | .vaddI16 d a b m => some (.vaddI16 (d + x) (a + y) (b + z) m)
  | .vsubI16 d a b m => some (.vsubI16 (d + x) (a + y) (b + z) m)
  | .vmulI16 d a b m => some (.vmulI16 (d + x) (a + y) (b + z) m)
  | .vmulhI16 d a b m => some (.vmulhI16 (d + x) (a + y) (b + z) m)
  | .vminI16 d a b m => some (.vminI16 (d + x) (a + y) (b + z) m)
  | .vmaxI16 d a b m => some (.vmaxI16 (d + x) (a + y) (b + z) m)
  | .vminuI16 d a b m => some (.vminuI16 (d + x) (a + y) (b + z) m)
  | .vmaxuI16 d a b m => some (.vmaxuI16 (d + x) (a + y) (b + z) m)
  | .vandI16 d a b m => some (.vandI16 (d + x) (a + y) (b + z) m)
  | .vorI16 d a b m => some (.vorI16 (d + x) (a + y) (b + z) m)
  | .vxorI16 d a b m => some (.vxorI16 (d + x) (a + y) (b + z) m)
  | .vshlI16 d a b m => some (.vshlI16 (d + x) (a + y) (b + z) m)
  | .vshrI16 d a b m => some (.vshrI16 (d + x) (a + y) (b + z) m)
  | .vshaI16 d a b m => some (.vshaI16 (d + x) (a + y) (b + z) m)
  | .vabsI16 d a m => some (.vabsI16 (d + x) (a + y) m)
  | .vnegI16 d a m => some (.vnegI16 (d + x) (a + y) m)
  | .vaddsI16 d a b m => some (.vaddsI16 (d + x) (a + y) (b + z) m)
  | .vsubsI16 d a b m => some (.vsubsI16 (d + x) (a + y) (b + z) m)
  | .vmacI16 d a b m => some (.vmacI16 (d + x) (a + y) (b + z) m)
  | .vaddI32 d a b m => some (.vaddI32 (d + x) (a + y) (b + z) m)
  | .vsubI32 d a b m => some (.vsubI32 (d + x) (a + y) (b + z) m)
  | .vmulI32 d a b m => some (.vmulI32 (d + x) (a + y) (b + z) m)
  | .vmulhI32 d a b m => some (.vmulhI32 (d + x) (a + y) (b + z) m)
  | .vminI32 d a b m => some (.vminI32 (d + x) (a + y) (b + z) m)
  | .vmaxI32 d a b m => some (.vmaxI32 (d + x) (a + y) (b + z) m)
  | .vminuI32 d a b m => some (.vminuI32 (d + x) (a + y) (b + z) m)
  | .vmaxuI32 d a b m => some (.vmaxuI32 (d + x) (a + y) (b + z) m)
  | .vandI32 d a b m => some (.vandI32 (d + x) (a + y) (b + z) m)
  | .vorI32 d a b m => some (.vorI32 (d + x) (a + y) (b + z) m)
  | .vxorI32 d a b m => some (.vxorI32 (d + x) (a + y) (b + z) m)
  | .vshlI32 d a b m => some (.vshlI32 (d + x) (a + y) (b + z) m)
  | .vshrI32 d a b m => some (.vshrI32 (d + x) (a + y) (b + z) m)
  | .vshaI32 d a b m => some (.vshaI32 (d + x) (a + y) (b + z) m)
  | .vabsI32 d a m => some (.vabsI32 (d + x) (a + y) m)
  | .vnegI32 d a m => some (.vnegI32 (d + x) (a + y) m)
  | .vaddsI32 d a b m => some (.vaddsI32 (d + x) (a + y) (b + z) m)
  | .vsubsI32 d a b m => some (.vsubsI32 (d + x) (a + y) (b + z) m)
  | .vmacI32 d a b m => some (.vmacI32 (d + x) (a + y) (b + z) m)
  | .vaddF32 d a b m => some (.vaddF32 (d + x) (a + y) (b + z) m)
  | .vsubF32 d a b m => some (.vsubF32 (d + x) (a + y) (b + z) m)
  | .vmulF32 d a b m => some (.vmulF32 (d + x) (a + y) (b + z) m)
  | .vfmaF32 d a b m => some (.vfmaF32 (d + x) (a + y) (b + z) m)
  | .vfmsF32 d a b m => some (.vfmsF32 (d + x) (a + y) (b + z) m)
  | .vminF32 d a b m => some (.vminF32 (d + x) (a + y) (b + z) m)
  | .vmaxF32 d a b m => some (.vmaxF32 (d + x) (a + y) (b + z) m)
  | .vabsF32 d a m => some (.vabsF32 (d + x) (a + y) m)
  | .vnegF32 d a m => some (.vnegF32 (d + x) (a + y) m)
  | .vscaleF32 d a b m => some (.vscaleF32 (d + x) (a + y) (b + z) m)
  | .vfnmaF32 d a b m => some (.vfnmaF32 (d + x) (a + y) (b + z) m)
  | .vaddBf16 d a b m => some (.vaddBf16 (d + x) (a + y) (b + z) m)
  | .vsubBf16 d a b m => some (.vsubBf16 (d + x) (a + y) (b + z) m)
  | .vmulBf16 d a b m => some (.vmulBf16 (d + x) (a + y) (b + z) m)
  | .vfmaBf16 d a b m => some (.vfmaBf16 (d + x) (a + y) (b + z) m)
  | .vfmsBf16 d a b m => some (.vfmsBf16 (d + x) (a + y) (b + z) m)
  | .vminBf16 d a b m => some (.vminBf16 (d + x) (a + y) (b + z) m)
  | .vmaxBf16 d a b m => some (.vmaxBf16 (d + x) (a + y) (b + z) m)
  | .vabsBf16 d a m => some (.vabsBf16 (d + x) (a + y) m)
  | .vnegBf16 d a m => some (.vnegBf16 (d + x) (a + y) m)
  | .vscaleBf16 d a b m => some (.vscaleBf16 (d + x) (a + y) (b + z) m)
  | .vfnmaBf16 d a b m => some (.vfnmaBf16 (d + x) (a + y) (b + z) m)
  | .vaddF16 d a b m => some (.vaddF16 (d + x) (a + y) (b + z) m)
  | .vsubF16 d a b m => some (.vsubF16 (d + x) (a + y) (b + z) m)
  | .vmulF16 d a b m => some (.vmulF16 (d + x) (a + y) (b + z) m)
  | .vfmaF16 d a b m => some (.vfmaF16 (d + x) (a + y) (b + z) m)
  | .vfmsF16 d a b m => some (.vfmsF16 (d + x) (a + y) (b + z) m)
  | .vminF16 d a b m => some (.vminF16 (d + x) (a + y) (b + z) m)
  | .vmaxF16 d a b m => some (.vmaxF16 (d + x) (a + y) (b + z) m)
  | .vabsF16 d a m => some (.vabsF16 (d + x) (a + y) m)
  | .vnegF16 d a m => some (.vnegF16 (d + x) (a + y) m)
  | .vscaleF16 d a b m => some (.vscaleF16 (d + x) (a + y) (b + z) m)
  | .vfnmaF16 d a b m => some (.vfnmaF16 (d + x) (a + y) (b + z) m)
  | .vaddE4m3 d a b m => some (.vaddE4m3 (d + x) (a + y) (b + z) m)
  | .vsubE4m3 d a b m => some (.vsubE4m3 (d + x) (a + y) (b + z) m)
  | .vmulE4m3 d a b m => some (.vmulE4m3 (d + x) (a + y) (b + z) m)
  | .vaddE5m2 d a b m => some (.vaddE5m2 (d + x) (a + y) (b + z) m)
  | .vsubE5m2 d a b m => some (.vsubE5m2 (d + x) (a + y) (b + z) m)
  | .vmulE5m2 d a b m => some (.vmulE5m2 (d + x) (a + y) (b + z) m)
  | .vaddI8 d a b m => some (.vaddI8 (d + x) (a + y) (b + z) m)
  | .vsubI8 d a b m => some (.vsubI8 (d + x) (a + y) (b + z) m)
  | .vaddsI8 d a b m => some (.vaddsI8 (d + x) (a + y) (b + z) m)
  | .vminI8 d a b m => some (.vminI8 (d + x) (a + y) (b + z) m)
  | .vmaxI8 d a b m => some (.vmaxI8 (d + x) (a + y) (b + z) m)
  | .vmov d a m => some (.vmov (d + x) (a + y) m)
  | .vmerge d a b m => some (.vmerge (d + x) (a + y) (b + z) m)
  | .vbcast16 d a m => some (.vbcast16 (d + x) (a + y) m)
  | .vbcast32 d a m => some (.vbcast32 (d + x) (a + y) m)
  | .vbcast64 d a m => some (.vbcast64 (d + x) (a + y) m)
  | .vext16 d a b => some (.vext16 (d + x) (a + y) (b + z))
  | .vext32 d a b => some (.vext32 (d + x) (a + y) (b + z))
  | .vins16 d a b => some (.vins16 (d + x) (a + y) (b + z))
  | .vins32 d a b => some (.vins32 (d + x) (a + y) (b + z))
  | .vperm16 d a b m => some (.vperm16 (d + x) (a + y) (b + z) m)
  | .vperm32 d a b m => some (.vperm32 (d + x) (a + y) (b + z) m)
  | .vslideup d a b m => some (.vslideup (d + x) (a + y) (b + z) m)
  | .vslidedn d a b m => some (.vslidedn (d + x) (a + y) (b + z) m)
  | .vzip16 d a b m => some (.vzip16 (d + x) (a + y) (b + z) m)
  | .vunzip16 d a m => some (.vunzip16 (d + x) (a + y) m)
  | .vredsumF32 d a m => some (.vredsumF32 (d + x) (a + y) m)
  | .vredsumBf16 d a m => some (.vredsumBf16 (d + x) (a + y) m)
  | .vredmaxF32 d a m => some (.vredmaxF32 (d + x) (a + y) m)
  | .vredminF32 d a m => some (.vredminF32 (d + x) (a + y) m)
  | .vredsumI32 d a m => some (.vredsumI32 (d + x) (a + y) m)
  | .vredmaxBf16 d a m => some (.vredmaxBf16 (d + x) (a + y) m)
  | .vcvtBf16F32 d a m => some (.vcvtBf16F32 (d + x) (a + y) m)
  | .vcvtF16F32 d a m => some (.vcvtF16F32 (d + x) (a + y) m)
  | .vcvtF32Bf16 d a m => some (.vcvtF32Bf16 (d + x) (a + y) m)
  | .vcvtF32F16 d a m => some (.vcvtF32F16 (d + x) (a + y) m)
  | .vcvtE4m3F32 d a m => some (.vcvtE4m3F32 (d + x) (a + y) m)
  | .vcvtE5m2F32 d a m => some (.vcvtE5m2F32 (d + x) (a + y) m)
  | .vcvtF32E4m3 d a m => some (.vcvtF32E4m3 (d + x) (a + y) m)
  | .vcvtF32E5m2 d a m => some (.vcvtF32E5m2 (d + x) (a + y) m)
  | .vcvtI32F32 d a m => some (.vcvtI32F32 (d + x) (a + y) m)
  | .vcvtF32I32 d a m => some (.vcvtF32I32 (d + x) (a + y) m)
  | .vcvtI16F32 d a m => some (.vcvtI16F32 (d + x) (a + y) m)
  | .vq4 d a b m => some (.vq4 (d + x) (a + y) (b + z) m)
  | .vdq4 d a b m => some (.vdq4 (d + x) (a + y) (b + z) m)
  | .vpack8 d a b m => some (.vpack8 (d + x) (a + y) (b + z) m)
  | .vunpk8 d a b m => some (.vunpk8 (d + x) (a + y) (b + z) m)
  | .vcvtBf16E4m3 d a m => some (.vcvtBf16E4m3 (d + x) (a + y) m)
  | .vcvtE4m3Bf16 d a m => some (.vcvtE4m3Bf16 (d + x) (a + y) m)
  | .vrcp d a m t => some (.vrcp (d + x) (a + y) m t)
  | .vrsq d a m t => some (.vrsq (d + x) (a + y) m t)
  | .vsqrt d a m t => some (.vsqrt (d + x) (a + y) m t)
  | .vexp2 d a m t => some (.vexp2 (d + x) (a + y) m t)
  | .vexp d a m t => some (.vexp (d + x) (a + y) m t)
  | .vlog2 d a m t => some (.vlog2 (d + x) (a + y) m t)
  | .vsin d a m t => some (.vsin (d + x) (a + y) m t)
  | .vcos d a m t => some (.vcos (d + x) (a + y) m t)
  | .vtanh d a m t => some (.vtanh (d + x) (a + y) m t)
  | .vsigm d a m t => some (.vsigm (d + x) (a + y) m t)
  | .verf d a m t => some (.verf (d + x) (a + y) m t)
  | .vcmp d a b m c t => some (.vcmp (d + x) (a + y) (b + z) m c t)
  | _ => none

/-- One replay: the body's word, with its registers moved by the pass. -/
noncomputable def runFrame (h : List (BitVec 16)) (s : State) : Out :=
  let b := s.me
  let j := BitVec.ofNat 5 b.rpt.jmod
  let s := { s with iaddr := b.pc, ibits := bitsOf h, len := 4 }
  match decode h with
  | .bad c => exec (.illegal (badCause c h s) (bitsOf h)) s
  | .ok i _ =>
    match shiftRegs (j * BitVec.ofNat 5 b.rpt.sd) (j * BitVec.ofNat 5 b.rpt.sa) (j * BitVec.ofNat 5 b.rpt.sb) i with
    | none =>
      let c := ownCause i s
      exec (.illegal (if c = 0 then 0x009 else c) (bitsOf h)) s
    | some i => exec i s

/-- A context whose frame is running: the words that RPT could not fetch are read as they become the next instruction (R137, log entry 22). -/
noncomputable def stepFrame (r : BankRef) (s : State) : Out :=
  let b := s.bank r
  match b.rpt.body[b.rpt.idx]? with
  | some w => runFrame [w.extractLsb' 0 16, w.extractLsb' 16 16] s
  | none =>
    match s.frameWord r b.pc with
    | (s, .error (c, va)) => .next (s.fetchStop r va c)
    | (s, .ok h) =>
      let b := s.bank r
      runFrame h (s.setBank r { b with rpt := { b.rpt with body := b.rpt.body ++ [bitsOf h] } })

/-! ### A context's turn (R131, R132) -/

/-- The next instruction of a context issues. -/
noncomputable def issue (r : BankRef) (s : State) : Out :=
  let b := s.bank r
  if b.rpt.act ∧ ¬ b.rpt.frozen then stepFrame r s
  else
    match s.gatherWhole r 24 with
    | (s, some c) => .next (s.fetchStop r (s.bank r).fetchVa c)
    | (s, none) => runWord (s.bank r).fbuf s

/-- A wait on the thread's own work: it ends when its condition holds, and the instruction issues again or completes. -/
def State.selfWait (s : State) (r : BankRef) (w : Wait) : Option State :=
  let b := s.bank r
  match w with
  | .acq => if s.acqHeld r then none else some (s.rouse r w)
  | .rlx => if b.rlx.any (fun a => (s.accessBusy a).isSome) then none else some (s.rouse r w)
  | .redFull => if 64 ≤ (s.tile r.tile).reds.length then none else some (s.rouse r w)
  | .mbwr m => if s.ownPubs r m then none else some (s.rouse r w)
  | .unit tile off upto => if s.unitBusy tile off upto then none else some ((s.setBank r { b with unitPass := some upto }).rouse r w)
  | .efence _ hend => if s.engineBusy r then none else some (if hend then s.endHandler r else s.wake r .none 0)
  | .arrive minor slot reg => if s.engineBusy r then none else some (s.arrive r minor slot reg)
  | .trap i pc => if b.wins.any (fun w => w.result.isNone) then none else some ((s.unpark r).takeTrap r i pc)
  | _ => none

/-- A context that R132 counts as holding work that may issue. -/
def State.running (s : State) (r : BankRef) : Bool :=
  let b := s.bank r
  let c := s.ctx r.tile r.slot
  let t := s.task? b.task
  b.seeded && !b.staging && c.switch.isNone && !(t.any (·.killing)) && !(t.any (·.saving) && b.kind != 3 && b.kind != 2)

/-- A ready context acts: its quantum is over, a deferred error is waiting, its ceiling is reached, or its next instruction issues. -/
noncomputable def act (r : BankRef) (s : State) : Out :=
  let s := (s.ageResults r).endChunb r
  let b := s.bank r
  if b.quantLeft = 0 ∧ r.bank = 0 then execQuantumExpiry r.tile r.slot s
  else
    match (if b.trap.inh then [] else b.deferred) with
    | e :: es => .next ((s.setBank r { b with deferred := es }).enterTrap r e b.pc true true)
    | [] =>
      if overCeiling b ∧ b.kind = 3 then execCeilingTrip r.tile r.slot s
      else if overCeiling b ∧ b.kind = 2 then execLeashCeiling r.tile r.slot s
      else issue r s

/-- One move of a context; one that may not issue gives up its turn. -/
noncomputable def moveCore (idle : State → State) (tile slot : Nat) (s : State) : Out :=
  let s := { s with cur := (tile, slot), rlxScope := none, follow := {} }
  let r := s.curRef
  if 512 ≤ tile ∨ 8 ≤ slot then .next s
  else if ¬ s.running r then .next (idle s)
  else
    match (s.bank r).wait with
    | none => act r s
    | some w =>
      match s.selfWait r w with
      | some s => .next s
      | none => .next (idle s)

/-- One step of a context with the machine to itself: while it waits, the units of the device work and the cycle passes. -/
noncomputable def stepCore (tile slot : Nat) (s : State) : Out := moveCore (fun s => s.serveUnits.pass) tile slot s

/-- The next instruction that a bank will issue, when it decodes: for a C.RLX the one behind it, and in a frame the shifted body instruction. -/
noncomputable def Bank.upcoming (b : Bank) : Option Instr :=
  let whole := fun (h : List (BitVec 16)) => match decode h with
    | .ok i _ => some i
    | .bad _ => none
  if b.rpt.act ∧ ¬ b.rpt.frozen then
    let j := BitVec.ofNat 5 b.rpt.jmod
    (b.rpt.body[b.rpt.idx]?).bind (fun w => (whole [w.extractLsb' 0 16, w.extractLsb' 16 16]).bind
      (shiftRegs (j * BitVec.ofNat 5 b.rpt.sd) (j * BitVec.ofNat 5 b.rpt.sa) (j * BitVec.ofNat 5 b.rpt.sb)))
  else if isPrefix (b.fbuf.headD 0) then whole (b.fbuf.drop 1)
  else whole b.fbuf

/-- Some operand of a bank's next instruction is awaited (R132, R135). -/
noncomputable def State.awaits (s : State) (b : Bank) : Bool :=
  match b.upcoming with
  | some i => b.pend.any (fun p => decide (s.cycle < p.due) && (readsOf i).contains p.dest)
  | none => false

/-- The next instruction of a bank is whole, in its buffer or its frame; one that cannot be fetched is reported when it would issue (R132,
R137). -/
def State.whole (s : State) (r : BankRef) : Bool :=
  let b := s.bank r
  (b.rpt.act && !b.rpt.frozen) || (wholeLen b.fbuf).isSome || (match (s.fetchUnit r b.fetchVa).2 with
    | .error _ => true
    | .ok _ => false)

/-- Something else than its next instruction takes the turn of a bank: the end of a quantum, a deferred error, or a ceiling. -/
def Bank.urgent (b : Bank) (bank : Nat) : Bool :=
  (decide (b.quantLeft = 0) && bank == 0) || (!b.trap.inh && b.deferred != []) || (overCeiling b && (b.kind == 2 || b.kind == 3))

/-- A context that is ready (R132, R141, R142): its bank runs and waits for nothing, a wake lies in an earlier cycle, and its instruction is whole
with no operand awaited. -/
noncomputable def State.ready (s : State) (tile slot : Nat) : Bool :=
  let r : BankRef := ⟨tile, slot, (s.ctx tile slot).active⟩
  let b := s.bank r
  s.running r && b.wait.isNone && decide (b.readyAt ≤ s.cycle) && (b.urgent r.bank || (s.whole r && !s.awaits b))

/-- The pack-mode context that takes a turn of a slot which is not ready (R133). -/
noncomputable def State.packTaker (s : State) (tile own : Nat) : Option Nat :=
  let rested : Nat → Bool := fun k => match (s.tile tile).lastIssue with
    | some (j, c) => !(j == k && c + 1 == s.cycle)
    | none => true
  ((List.range 7).map (fun d => (own + 1 + d) % 8)).find? (fun k =>
    s.ready tile k && ((s.ctx tile k).bank (s.ctx tile k).active).pack && rested k && k != (s.cycle + 1) % 8)

/-- Who takes the turn of this cycle on a core (R131, R133). -/
noncomputable def State.taker (s : State) (tile : Nat) : Option Nat :=
  let own := s.cycle % 8
  let b := (s.ctx tile own).bank (s.ctx tile own).active
  if s.ready tile own then some own else if b.seeded && b.det then none else s.packTaker tile own

/-- After a control transfer or the entry of a trap, the first instruction is ready no earlier than 5 cycles later (R194). -/
def State.paced (s t : State) (r : BankRef) : State :=
  let b := s.bank r
  let c := t.bank r
  if c.fbuf = [] ∧ (isControl (b.fbuf.headD 0) (b.fbuf.getD 1 0) ∨ (c.trap.inh ∧ ¬ b.trap.inh)) then
    t.setBank r { c with readyAt := max c.readyAt (s.cycle + 5) }
  else t

/-- One issue turn of a core (R131, R133): at most one in a cycle. -/
noncomputable def stepTurn (tile : Nat) (s : State) : Out :=
  if (s.tile tile).lastIssue.any (fun p => p.2 == s.cycle) then .next s
  else
    match s.taker tile with
    | some k =>
      match moveCore id tile k (s.setTile tile { s.tile tile with lastIssue := some (k, s.cycle) }) with
      | .next t => .next (s.paced t ⟨tile, k, (s.ctx tile k).active⟩)
      | o => o
    | none => .next s

/-- Every thread's wait on its own work looked at. -/
def State.rouseAll (s : State) : State :=
  s.ctxs.foldl (fun s c =>
    let r : BankRef := ⟨c.1 / 8, c.1 % 8, (s.ctx (c.1 / 8) (c.1 % 8)).active⟩
    match (s.bank r).wait with
    | some w => if s.running r then (s.selfWait r w).getD s else s
    | none => s) s

/-- One cycle of the device (R131, R134): every core offers the turn of the cycle, unless it has issued in it, and the cycle passes. -/
noncomputable def cycle (s : State) : State :=
  let tiles := ((s.ctxs.map (fun c => c.1 / 8)).filter (fun t => decide (t < 512))).eraseDups
  (tiles.foldl (fun s t => took (stepTurn t s) s) s).rouseAll.pass

/-! ### A queue engine (R89, R91, R95) -/

/-- The cause of an instruction of which only the first words are there: its own causes by decoding come before the one given. -/
noncomputable def partCause (q : Queue) (ws : List (BitVec 32)) (n : Nat) (cause : Nat) : Nat :=
  let skew := (ws.drop 1).headD 0 % 4 ≠ 0
  match decodeQueue (words (ws ++ List.replicate (n - ws.length) 1#32)) with
  | .ok (.qloop _) _ => if 2 ≤ q.loops.length then 0x2C5 else cause
  | .ok (.qib _ _) _ => if 2 ≤ q.level ∨ skew then 0x2C4 else cause
  | .ok _ _ => cause
  | .bad c =>
    match decodeQueue (words (ws ++ List.replicate (n - ws.length) 0#32)) with
    | .ok (.qib _ _) _ => if 2 ≤ q.level ∨ skew then 0x2C4 else cause
    | .ok _ _ => cause
    | .bad _ => c.toNat

/-- The words of a stream from an offset that can be read, up to the first that cannot. -/
def State.someWords (s : State) (k : Nat) : Nat → Nat → State × List (BitVec 32)
  | 0, _ => (s, [])
  | n + 1, o =>
    match s.streamWord k o with
    | (s, .ok w) => let r := s.someWords k n (o + 4); (r.1, w :: r.2)
    | (s, .error _) => (s, [])

/-- The instruction at the pointer of a queue executes. -/
noncomputable def runQueue (k : Nat) (s : State) : Out :=
  let s := if (s.queue k).block.isNone then s.enterBlock k else s
  let q := s.queue k
  let stop : Nat → State → Out := fun c s => .next (s.queueFault k c (q.vaOf q.ip) q.level)
  match s.streamWord k q.ip with
  | (s, .error c) => stop c s
  | (s, .ok w) =>
    let n := frameWords w
    if q.level ≠ 0 ∧ q.left < 4 * n then
      let r := s.someWords k (q.left / 4) q.ip
      stop (partCause q r.2 n 0x2C9) r.1
    else
      match s.streamWords k n q.ip with
      | (s, .error c) =>
        let r := s.someWords k n q.ip
        stop (partCause q r.2 n c) s
      | (s, .ok ws) =>
        match decodeQueue (words ws) with
        | .bad c => stop c.toNat s
        | .ok i _ => exec i { s with curq := k, len := 4 * n, ibits := w }

/-- One step of a queue that its engine serves: it is the queue served last (R89). The implicit return at a buffer's end is no instruction, and
the engine goes on with the queue (R100). -/
noncomputable def serveQueue (k : Nat) (s₀ : State) : Out :=
  let s := { s₀ with lastServed := tset s₀.lastServed (k / 8) (k % 8) }
  let q := s.queue k
  if q.skip.isSome then .next (s.skipOne k)
  else if q.level ≠ 0 ∧ q.left = 0 then
    match q.ret with
    | none => .next (s.queueFault k 0x2C5 (q.vaOf q.ip) q.level)
    | some p => .next ((s₀.setQueue k p.heads).settleQueue k)
  else runQueue k s

/-- One move of a queue: an instruction that waits looks at its condition, and else the engine chooses. -/
noncomputable def moveQueue (k : Nat) (s : State) : Out :=
  let s := { s with curq := k }
  if 64 ≤ k then .next s
  else
    match (s.queue k).hold with
    | some (.launch _, _) => if (s.queue k).signals.any s.signalDue then execSignalWrite k s else execLaunchAccept k s
    | some (.wait _ _ _ timeout since, _) =>
      if timeout ≠ 0 ∧ since + timeout * 1000 < s.boot.dtb then execQwaitTimeout k s else execQwaitPoll k s
    | some _ => .next (s.releaseQueue k)
    | none =>
      let s := s.selectQueue (k / 8)
      if tget 0 s.serving (k / 8) = k + 1 then serveQueue k s else execSignalWrite k s

/-- One step of a queue with the machine to itself: while its instruction waits, the units of the device work and the cycle passes. -/
noncomputable def stepQueue (k : Nat) (s : State) : Out :=
  match (s.queue k).hold with
  | some _ => moveQueue k s.serveUnits.pass
  | none => moveQueue k s

/-! ### Agents -/

/-- A device step, which no core and no queue fetches. -/
def isEvent (i : Instr) : Bool :=
  match i with
  | .illegal _ _ => false
  | _ => (encode i).isEmpty

/-- The fetcher of every context reads its next unit (R136). -/
def State.fetchAll (s : State) : State := s.ctxs.foldl (fun s c => took (execFetchUnitRead (c.1 / 8) (c.1 % 8) s) s) s

/-- The whole device once around a rotation of eight cycles (R131): every enabled queue moves, every unit does what is due, and every core offers
its eight turns. -/
noncomputable def round (s : State) : State :=
  let s := s.queues.foldl (fun s q => if q.2.en then took (moveQueue q.1 (took (execFetchBlockRead q.1 s) s)) s else s) s
  (List.range 8).foldl (fun s _ => cycle s.fetchAll) s.serveUnits

/-- One step of an agent that has the machine to itself. -/
noncomputable def runAgent (a : Agent) (s : State) : Out :=
  match a with
  | .round => .next (round s)
  | .clock => .next (cycle s)
  | .core tile slot => stepCore tile slot s
  | .turn tile => stepTurn tile s
  | .queue k => stepQueue k s
  | .firmware tile off n v => .next (s.firmwareWrite tile off n v)
  | .event i => if isEvent i then exec i s else .next s

/-- One step of an agent among all of them: a context issues in a turn of its core only, and no agent but the clock lets a cycle pass (R131 to
R134). -/
noncomputable def freeAgent (a : Agent) (s : State) : Out :=
  match a with
  | .core tile _ => stepTurn tile s
  | .queue k => moveQueue k s
  | a => runAgent a s

end Sys2Proof.Machine
end

