-- ==== Sys2Proof/Machine/Step.lean ====
section
/-! DEFINITION. One step of the device: the agent with the machine to itself moves, or any one does (log entry 1). -/

namespace Sys2Proof.Machine

/-- One step. -/
noncomputable def step (s : State) : Host.Outcome State Fault Refusal :=
  match s.focus with
  | some a => runAgent a s
  | none => freeAgent (Config.nextAgent s.tick) { s with tick := s.tick + 1 }

/-- A state whose very next step fetches and runs the instruction with these bits: a queue-class word stands in the ring of queue 0, in XA
shared SRAM; every other word stands at address 0 of tile 0, where slot 0 runs (log entry 1). -/
def State.withFetchWord (s : State) (nbits w : Nat) : State :=
  let bytes := natBytes 32 (w % 2 ^ nbits)
  if isQueueWord w then
    let t := s.tenant 0
    { ((s.setTenant 0 { t with memb := t.memb ||| (1 <<< 0x190) }).storeBytes xaLoc bytes).setQueue 0
        { s.queue 0 with
          en := true, tenant := 0, size := 0, base := 0xFE8000000, tail := 32, head := 0, ip := 0, ibs := [], st := 2, ahead := [], block := none,
          hold := none, skip := none, ladder := none } with
      serving := tset s.serving 0 1, focus := some (.queue 0) }
  else
    let c := s.ctx 0 0
    let b := c.b0
    { (s.storeBytes (lsLoc 0 0) bytes).setCtx 0 0 { c with
        active := 0, switch := none
        b0 := { b with
          pc := 0, fbuf := [], wait := none, seeded := true, staging := false, task := 0, deferred := [], kind := 0
          quantLeft := 0xFFFFFFFF, rpt := { b.rpt with act := false } } } with
      focus := some (.core 0 0) }

end Sys2Proof.Machine
end

