-- ==== Sys2Proof/Safety.lean ====
section
/-! DEFINITION. What counts as a safe run of the device, and the terms in which the statements speak of one instruction of a thread. -/

namespace Sys2Proof

open Machine

/-! ### Runs -/

/-- The state after one step, where the step answers one. -/
def Moves (s t : State) : Prop := step s = .next t

/-- A state that a number of steps reach. -/
inductive Reaches (s : State) : State → Prop where
  | start : Reaches s s
  | move {t u : State} (h : Reaches s t) (m : Moves t u) : Reaches s u

/-- A state is safe when no run from it meets a fault or a refusal: the device always has a next state. -/
def Safe (s : State) : Prop := ∀ t, Reaches s t → ∃ u, Moves t u

/-- A set of states that every step keeps (R1). -/
def Kept (p : State → Prop) : Prop := ∀ s t, p s → Moves s t → p t

/-! ### One instruction of the running thread -/

/-- Nothing but the instruction itself is left to settle when it completes: the running thread has no open lookahead window (R63), no
repeat frame that is replaying (R150), has not issued this instruction before (R146), and, where it is leash code, its first
instruction has answered its seizer (R376). -/
structure Quiet (s : State) : Prop where
  wins : s.me.wins = []
  frame : s.me.rpt.act = false ∨ s.me.rpt.frozen = true
  fresh : s.me.counted = false
  reply : s.me.kind = 2 → (s.tile s.cur.1).seize.first = true

/-- QUANTUM.LEFT after one instruction (R146). -/
def quantAfter (q : BitVec 32) : BitVec 32 := if q = 0 ∨ q = 0xFFFFFFFF then q else q - 1

/-- A bank whose instruction of `len` bytes has completed: the PC has passed it, the fetch buffer has lost it, and it has been counted
(R138, R146). -/
def passed (b : Bank) (len : Nat) : Bank :=
  { b with
    pc := b.pc + BitVec.ofNat 48 len, fbuf := b.fbuf.drop (len / 2), icount := b.icount + 1, quantLeft := quantAfter b.quantLeft
    unitPass := none }

/-- The device after the running thread's instruction, when the running bank has become `k` and nothing else has changed. -/
def ended (s : State) (k : Bank) : State := s.unscoped.setMe (passed k s.len)

/-- A bank whose running transfer of control has been taken: the PC is the target and the fetch buffer is empty (R138). -/
def redirected (b : Bank) (target : Va) : Bank :=
  { b with pc := target, fbuf := [], icount := b.icount + 1, quantLeft := quantAfter b.quantLeft }

/-- The device after a transfer of control by the running thread. -/
def jumpedTo (s : State) (k : Bank) (target : Va) : State := s.unscoped.setMe (redirected k target)

/-- A trap of the running thread goes to its handler (R384): no window is open, no handler is running, TRAPVEC names one, and its task is not
being killed (R385). An activation is such a thread too, for every cause but that of its ceiling, which ends it (R362). -/
structure Trappable (s : State) : Prop where
  alive : s.dying s.curRef = false
  wins : s.me.wins = []
  free : s.me.trap.inh = false
  vector : s.me.trap.vec ≠ 0

/-- The bank after a precise trap with this PC to return to (R384): the trap CSRs are saved, and the PC is the vector. The trap counts as one
instruction, and the instruction that traps as none, even one that had been counted before it waited (R146). The handler's first instruction
issues five cycles later at the earliest (R194). -/
def trapped (k : Bank) (now : Nat) (back : Va) (cause : Nat) (addr val : Dword) : Bank :=
  let b := k.uncount
  { b with
    trap := { b.trap with pc := back, cause := BitVec.ofNat 10 cause, addr := addr, val := val, inh := true, dfr := false, win := false }
    pc := b.trap.vec, fbuf := [], wait := none, counted := false, unitPass := none, readyAt := max b.readyAt (now + 5), rpt := { b.rpt with frozen := b.rpt.act }
    icount := b.icount + 1, quantLeft := quantAfter b.quantLeft }

/-- The device after a precise trap of the running thread: nothing but its bank has changed. -/
def trapEntered (s : State) (back : Va) (cause : Nat) (addr val : Dword) : State :=
  s.unscoped.setMe (trapped s.me s.cycle back cause addr val)

/-- Every line and word of memory can be read as it was written: none is marked, none has a failing symbol or bit, and no channel has lost its
lines (R423, R425, R430). -/
def Intact (s : State) : Prop := s.poison = [] ∧ s.failing = [] ∧ ∀ c, (s.channel c).lost = false

/-- Nothing of the running thread is outstanding and nothing watches its accesses: beside being quiet, it has no relaxed access under way and
runs without C.RLX (R71, R252), no engine command with ACQ holds it (R286), no register is a bound port (R329), no trace ring records (R340), and every
location can be read. -/
structure Calm (s : State) : Prop extends Quiet s where
  rlx : s.me.rlx = []
  scope : s.rlxScope = none
  acq : s.acqHeld s.curRef = false
  ports : s.me.ports = []
  rings : ∀ t, (s.tile t).trctl.getLsbD 0 = false
  intact : Intact s

/-- The device after a long-latency instruction with LK = k whose result is there: with k = 0 the register holds it when the instruction ends, and
otherwise its window stays open for k more instructions (R63). -/
def landed (s : State) (k : Nat) (d : Dest) (x : Vec) : State :=
  let b := { s.me with nextWin := s.me.nextWin + 1 }
  if k = 0 then
    ended s (match d with
      | .none => b
      | .g n => b.wg n (x.setWidth 64)
      | .v n => b.wv n x)
  else ended s { b with wins := [⟨k, d, some x, none, 0, s.me.nextWin, false, []⟩] }

/-- The device after an instruction that parks its thread, when the running bank has become `k` and nothing else has changed (R142). -/
def parkedOn (s : State) (k : Bank) (w : Wait) : State :=
  ended s { k with
    wait := some w, waitPc := s.me.pc, waitBuf := s.me.fbuf.take (s.len / 2), waitSince := s.boot.dtb, waitLogged := false }

/-- An instruction that a check turns away with a precise trap of this cause and address: nothing but the trap happens. -/
def refusedBy (s : State) (cause : Nat) (addr : Dword) : State := trapEntered s s.me.pc cause addr 0

end Sys2Proof

open Sys2Proof Sys2Proof.Machine

/-! ### Tables of results, written from the rules that they cite -/

/-- The value of a condition as a register value (R178). -/
def Sys2Proof.oneIf (p : Prop) [Decidable p] : Dword := if p then 1 else 0

/-- A 32-bit result, sign-extended (R178). -/
def Sys2Proof.word32 (x : Int) : Dword := (BitVec.ofInt 32 x).signExtend 64

/-- Destination and result of an INTR instruction (R178). -/
def Sys2Proof.registerResult (s : State) : Instr → Option (BitVec 5 × Dword)
  | .add d a b => some (d, s.rg a + s.rg b)
  | .sub d a b => some (d, s.rg a - s.rg b)
  | .and d a b => some (d, s.rg a &&& s.rg b)
  | .or d a b => some (d, s.rg a ||| s.rg b)
  | .xor d a b => some (d, s.rg a ^^^ s.rg b)
  | .andn d a b => some (d, s.rg a &&& ~~~(s.rg b))
  | .shl d a b => some (d, s.rg a <<< ((s.rg b).toNat % 64))
  | .shr d a b => some (d, s.rg a >>> ((s.rg b).toNat % 64))
  | .sha d a b => some (d, BitVec.ofInt 64 ((s.rg a).toInt / 2 ^ ((s.rg b).toNat % 64)))
  | .rotr d a b => some (d, (s.rg a).rotateRight ((s.rg b).toNat % 64))
  | .min d a b => some (d, BitVec.ofInt 64 (min (s.rg a).toInt (s.rg b).toInt))
  | .max d a b => some (d, BitVec.ofInt 64 (max (s.rg a).toInt (s.rg b).toInt))
  | .minu d a b => some (d, BitVec.ofNat 64 (min (s.rg a).toNat (s.rg b).toNat))
  | .maxu d a b => some (d, BitVec.ofNat 64 (max (s.rg a).toNat (s.rg b).toNat))
  | .cmpeq d a b => some (d, oneIf (s.rg a = s.rg b))
  | .cmpne d a b => some (d, oneIf (s.rg a ≠ s.rg b))
  | .cmplt d a b => some (d, oneIf ((s.rg a).toInt < (s.rg b).toInt))
  | .cmpltu d a b => some (d, oneIf ((s.rg a).toNat < (s.rg b).toNat))
  | .cmpge d a b => some (d, oneIf ((s.rg b).toInt ≤ (s.rg a).toInt))
  | .cmpgeu d a b => some (d, oneIf ((s.rg b).toNat ≤ (s.rg a).toNat))
  | .sel d a b => some (d, if s.rg d = 0 then s.rg b else s.rg a)
  | .addw d a b => some (d, word32 ((s.rg a).toInt + (s.rg b).toInt))
  | .subw d a b => some (d, word32 ((s.rg a).toInt - (s.rg b).toInt))
  | _ => none

/-- Destination and result of an immediate or constant instruction (R179 to R183, R188). -/
def Sys2Proof.immediateResult (s : State) : Instr → Option (BitVec 5 × Dword)
  | .addi d a i => some (d, s.rg a + i.signExtend 64)
  | .andi d a i => some (d, s.rg a &&& i.signExtend 64)
  | .ori d a i => some (d, s.rg a ||| i.signExtend 64)
  | .xori d a i => some (d, s.rg a ^^^ i.signExtend 64)
  | .shli d a n => some (d, s.rg a <<< n.toNat)
  | .shri d a n => some (d, s.rg a >>> n.toNat)
  | .shai d a n => some (d, BitVec.ofInt 64 ((s.rg a).toInt / 2 ^ n.toNat))
  | .rotri d a n => some (d, (s.rg a).rotateRight n.toNat)
  | .cmpeqi d a i => some (d, oneIf (s.rg a = i.signExtend 64))
  | .cmpnei d a i => some (d, oneIf (s.rg a ≠ i.signExtend 64))
  | .cmplti d a i => some (d, oneIf ((s.rg a).toInt < i.toInt))
  | .cmpltui d a i => some (d, oneIf ((s.rg a).toNat < (i.signExtend 64).toNat))
  | .cmpgei d a i => some (d, oneIf (i.toInt ≤ (s.rg a).toInt))
  | .cmpgeui d a i => some (d, oneIf ((i.signExtend 64).toNat ≤ (s.rg a).toNat))
  | .lih d i => some (d, BitVec.ofInt 64 (i.toInt * 2 ^ 12))
  | .addpc d i => some (d, (s.me.pc + BitVec.ofInt 48 (i.toInt * 2 ^ 12)).setWidth 64)
  | .li64 d i => some (d, i)
  | .lea d a b i c => some (d, s.rg a + (s.rg b <<< c.toNat) + i.signExtend 64)
  | _ => none

/-- Destination and result of a MULDIV instruction (R184, R185). -/
def Sys2Proof.mulDivResult (s : State) : Instr → Option (BitVec 5 × Dword)
  | .mul d a b => some (d, BitVec.ofInt 64 ((s.rg a).toInt * (s.rg b).toInt))
  | .mulh d a b => some (d, BitVec.ofInt 64 ((s.rg a).toInt * (s.rg b).toInt / 2 ^ 64))
  | .mulhu d a b => some (d, BitVec.ofNat 64 ((s.rg a).toNat * (s.rg b).toNat / 2 ^ 64))
  | .mulhsu d a b => some (d, BitVec.ofInt 64 ((s.rg a).toInt * ((s.rg b).toNat : Int) / 2 ^ 64))
  | .div d a b => some (d, if s.rg b = 0 then BitVec.allOnes 64 else BitVec.ofInt 64 ((s.rg a).toInt.tdiv (s.rg b).toInt))
  | .divu d a b => some (d, if s.rg b = 0 then BitVec.allOnes 64 else BitVec.ofNat 64 ((s.rg a).toNat / (s.rg b).toNat))
  | .rem d a b => some (d, if s.rg b = 0 then s.rg a else s.rg a - BitVec.ofInt 64 ((s.rg a).toInt.tdiv (s.rg b).toInt) * s.rg b)
  | .remu d a b => some (d, if s.rg b = 0 then s.rg a else BitVec.ofNat 64 ((s.rg a).toNat % (s.rg b).toNat))
  | .mulw d a b => some (d, word32 ((s.rg a).toInt * (s.rg b).toInt))
  | .madd d a b => some (d, s.rg d + s.rg a * s.rg b)
  | _ => none

/-- Destination and bits of the result of an instruction that moves bits (R186, R187): bit k of g[D]. -/
def Sys2Proof.bitsResult (s : State) : Instr → Option (BitVec 5 × (Nat → Bool))
  | .bfxu d a b =>
    let p := (s.rg b).toNat % 64
    let w := min ((s.rg b).toNat / 2 ^ 8 % 128) (64 - p)
    some (d, fun k => decide (k < w) && (s.rg a).getLsbD (p + k))
  | .bfx d a b =>
    let p := (s.rg b).toNat % 64
    let w := min ((s.rg b).toNat / 2 ^ 8 % 128) (64 - p)
    some (d, fun k => decide (0 < w) && (s.rg a).getLsbD (p + min k (w - 1)))
  | .bfi d a b =>
    let p := (s.rg b).toNat % 64
    let w := min ((s.rg b).toNat / 2 ^ 8 % 128) (64 - p)
    some (d, fun k => if p ≤ k ∧ k < p + w then (s.rg a).getLsbD (k - p) else (s.rg d).getLsbD k)
  | .brev d a => some (d, fun k => (s.rg a).getLsbD (63 - k))
  | .bswap d a => some (d, fun k => (s.rg a).getLsbD (8 * (7 - k / 8) + k % 8))
  | .sextb d a => some (d, fun k => (s.rg a).getLsbD (min k 7))
  | .sexth d a => some (d, fun k => (s.rg a).getLsbD (min k 15))
  | .sextw d a => some (d, fun k => (s.rg a).getLsbD (min k 31))
  | .zextb d a => some (d, fun k => decide (k < 8) && (s.rg a).getLsbD k)
  | .zexth d a => some (d, fun k => decide (k < 16) && (s.rg a).getLsbD k)
  | .zextw d a => some (d, fun k => decide (k < 32) && (s.rg a).getLsbD k)
  | _ => none

/-- Destination and result of a compressed register instruction (R70). -/
def Sys2Proof.compressedResult (s : State) : Instr → Option (BitVec 5 × Dword)
  | .cMov r f => some (r, s.rg f)
  | .cAdd r f => some (r, s.rg r + s.rg f)
  | .cSub r f => some (r, s.rg r - s.rg f)
  | .cAnd r f => some (r, s.rg r &&& s.rg f)
  | .cOr r f => some (r, s.rg r ||| s.rg f)
  | .cXor r f => some (r, s.rg r ^^^ s.rg f)
  | .cAddi r i => some (r, s.rg r + i.signExtend 64)
  | .cLi r i => some (r, i.signExtend 64)
  | .cShli r n => some (r, s.rg r <<< n.toNat)
  | .cShri r n => some (r, s.rg r >>> n.toNat)
  | _ => none

/-- Destination and result of a scalar instruction (R175, R178 to R185, R188, R70). -/
def Sys2Proof.scalarResult (s : State) (i : Instr) : Option (BitVec 5 × Dword) :=
  (((registerResult s i).or (immediateResult s i)).or (mulDivResult s i)).or (compressedResult s i)

/-- Whether a branch is taken, and the halfwords from it to its target (R189, R190, R70). -/
def Sys2Proof.branchOf (s : State) : Instr → Option (Bool × Int)
  | .beq a b o => some (s.rg a == s.rg b, o.toInt)
  | .bne a b o => some (s.rg a != s.rg b, o.toInt)
  | .blt a b o => some (decide ((s.rg a).toInt < (s.rg b).toInt), o.toInt)
  | .bge a b o => some (decide ((s.rg b).toInt ≤ (s.rg a).toInt), o.toInt)
  | .bltu a b o => some (decide ((s.rg a).toNat < (s.rg b).toNat), o.toInt)
  | .bgeu a b o => some (decide ((s.rg b).toNat ≤ (s.rg a).toNat), o.toInt)
  | .bbs a b o => some ((s.rg a).getLsbD ((s.rg b).toNat % 64), o.toInt)
  | .bbc a b o => some (!(s.rg a).getLsbD ((s.rg b).toNat % 64), o.toInt)
  | .beqz a o => some (s.rg a == 0, o.toInt)
  | .bnez a o => some (s.rg a != 0, o.toInt)
  | .bltz a o => some (decide ((s.rg a).toInt < 0), o.toInt)
  | .bgez a o => some (decide (0 ≤ (s.rg a).toInt), o.toInt)
  | .bgtz a o => some (decide (0 < (s.rg a).toInt), o.toInt)
  | .blez a o => some (decide ((s.rg a).toInt ≤ 0), o.toInt)
  | .cBeqz r o => some (s.rg r == 0, o.toInt)
  | .cBnez r o => some (s.rg r != 0, o.toInt)
  | _ => none

/-- The thread of a vector instruction that only computes: quiet, and none of its vector registers is a bound channel port (R329). -/
structure Sys2Proof.VectorQuiet (s : State) : Prop extends Quiet s where
  ports : s.me.ports = []

/-- An element-wise instruction: lane width, destination, mask field, and what an active lane becomes from its number and its old value, with
the exceptions that it raises (R196, R197). -/
structure Sys2Proof.LaneForm where
  width : Nat
  dest : BitVec 5
  mask : BitVec 5
  lane : Nat → Nat → Res

/-- The lanes after an element-wise instruction: an inactive lane keeps its value and raises nothing (R162, R197). -/
def Sys2Proof.laneResult (s : State) (f : LaneForm) (i : Nat) : Res :=
  let old := laneOf (s.me.rv f.dest.toNat) f.width i
  if f.mask = 0 ∨ (s.rg f.mask).getLsbD i then f.lane i old else (old, 0)

/-- The exceptions of every lane of the running core's vectors. -/
def Sys2Proof.laneFlags (s : State) (f : LaneForm) : List (Nat × Flags) :=
  (List.range (s.vl / f.width)).map (fun i => (i, (laneResult s f i).2))

/-- Lane i of a source register. -/
def Sys2Proof.src (s : State) (a : BitVec 5) (w i : Nat) : Nat := laneOf (s.me.rv a.toNat) w i

/-- A signed source lane. -/
def Sys2Proof.srcS (s : State) (a : BitVec 5) (w i : Nat) : Int := toS w (src s a w i)

/-- A signed result of w bits, modulo 2^w (R200). -/
def Sys2Proof.wrapTo (w : Nat) (x : Int) : Res := ((x % 2 ^ w).toNat, 0)

/-- A signed result of w bits that saturates, with SA where it does (R154, R200). -/
def Sys2Proof.saturate (w : Nat) (x : Int) : Res :=
  let lo := -(2 ^ (w - 1) : Int)
  let hi := (2 ^ (w - 1) : Int) - 1
  ((max lo (min hi x) % 2 ^ w).toNat, if x < lo ∨ hi < x then flSA else 0)

/-- The lanes of a VI16 instruction (R200). -/
def Sys2Proof.lanesOfI16 (s : State) : Instr → Option LaneForm
  | .vaddI16 d a b m => some ⟨16, d, m, fun i _ => wrapTo 16 (srcS s a 16 i + srcS s b 16 i)⟩
  | .vsubI16 d a b m => some ⟨16, d, m, fun i _ => wrapTo 16 (srcS s a 16 i - srcS s b 16 i)⟩
  | .vmulI16 d a b m => some ⟨16, d, m, fun i _ => wrapTo 16 (srcS s a 16 i * srcS s b 16 i)⟩
  | .vmulhI16 d a b m => some ⟨16, d, m, fun i _ => wrapTo 16 (srcS s a 16 i * srcS s b 16 i / 2 ^ 16)⟩
  | .vminI16 d a b m => some ⟨16, d, m, fun i _ => wrapTo 16 (min (srcS s a 16 i) (srcS s b 16 i))⟩
  | .vmaxI16 d a b m => some ⟨16, d, m, fun i _ => wrapTo 16 (max (srcS s a 16 i) (srcS s b 16 i))⟩
  | .vminuI16 d a b m => some ⟨16, d, m, fun i _ => (min (src s a 16 i) (src s b 16 i), 0)⟩
  | .vmaxuI16 d a b m => some ⟨16, d, m, fun i _ => (max (src s a 16 i) (src s b 16 i), 0)⟩
  | .vandI16 d a b m => some ⟨16, d, m, fun i _ => (src s a 16 i &&& src s b 16 i, 0)⟩
  | .vorI16 d a b m => some ⟨16, d, m, fun i _ => (src s a 16 i ||| src s b 16 i, 0)⟩
  | .vxorI16 d a b m => some ⟨16, d, m, fun i _ => (src s a 16 i ^^^ src s b 16 i, 0)⟩
  | .vshlI16 d a b m => some ⟨16, d, m, fun i _ => wrapTo 16 (srcS s a 16 i * 2 ^ (src s b 16 i % 16))⟩
  | .vshrI16 d a b m => some ⟨16, d, m, fun i _ => (src s a 16 i / 2 ^ (src s b 16 i % 16), 0)⟩
  | .vshaI16 d a b m => some ⟨16, d, m, fun i _ => wrapTo 16 (srcS s a 16 i / 2 ^ (src s b 16 i % 16))⟩
  | .vabsI16 d a m => some ⟨16, d, m, fun i _ => wrapTo 16 |srcS s a 16 i|⟩
  | .vnegI16 d a m => some ⟨16, d, m, fun i _ => wrapTo 16 (-srcS s a 16 i)⟩
  | .vaddsI16 d a b m => some ⟨16, d, m, fun i _ => saturate 16 (srcS s a 16 i + srcS s b 16 i)⟩
  | .vsubsI16 d a b m => some ⟨16, d, m, fun i _ => saturate 16 (srcS s a 16 i - srcS s b 16 i)⟩
  | .vmacI16 d a b m => some ⟨16, d, m, fun i old => wrapTo 16 (toS 16 old + srcS s a 16 i * srcS s b 16 i)⟩
  | _ => none

/-- The lanes of a VI32 instruction (R200). -/
def Sys2Proof.lanesOfI32 (s : State) : Instr → Option LaneForm
  | .vaddI32 d a b m => some ⟨32, d, m, fun i _ => wrapTo 32 (srcS s a 32 i + srcS s b 32 i)⟩
  | .vsubI32 d a b m => some ⟨32, d, m, fun i _ => wrapTo 32 (srcS s a 32 i - srcS s b 32 i)⟩
  | .vmulI32 d a b m => some ⟨32, d, m, fun i _ => wrapTo 32 (srcS s a 32 i * srcS s b 32 i)⟩
  | .vmulhI32 d a b m => some ⟨32, d, m, fun i _ => wrapTo 32 (srcS s a 32 i * srcS s b 32 i / 2 ^ 32)⟩
  | .vminI32 d a b m => some ⟨32, d, m, fun i _ => wrapTo 32 (min (srcS s a 32 i) (srcS s b 32 i))⟩
  | .vmaxI32 d a b m => some ⟨32, d, m, fun i _ => wrapTo 32 (max (srcS s a 32 i) (srcS s b 32 i))⟩
  | .vminuI32 d a b m => some ⟨32, d, m, fun i _ => (min (src s a 32 i) (src s b 32 i), 0)⟩
  | .vmaxuI32 d a b m => some ⟨32, d, m, fun i _ => (max (src s a 32 i) (src s b 32 i), 0)⟩
  | .vandI32 d a b m => some ⟨32, d, m, fun i _ => (src s a 32 i &&& src s b 32 i, 0)⟩
  | .vorI32 d a b m => some ⟨32, d, m, fun i _ => (src s a 32 i ||| src s b 32 i, 0)⟩
  | .vxorI32 d a b m => some ⟨32, d, m, fun i _ => (src s a 32 i ^^^ src s b 32 i, 0)⟩
  | .vshlI32 d a b m => some ⟨32, d, m, fun i _ => wrapTo 32 (srcS s a 32 i * 2 ^ (src s b 32 i % 32))⟩
  | .vshrI32 d a b m => some ⟨32, d, m, fun i _ => (src s a 32 i / 2 ^ (src s b 32 i % 32), 0)⟩
  | .vshaI32 d a b m => some ⟨32, d, m, fun i _ => wrapTo 32 (srcS s a 32 i / 2 ^ (src s b 32 i % 32))⟩
  | .vabsI32 d a m => some ⟨32, d, m, fun i _ => wrapTo 32 |srcS s a 32 i|⟩
  | .vnegI32 d a m => some ⟨32, d, m, fun i _ => wrapTo 32 (-srcS s a 32 i)⟩
  | .vaddsI32 d a b m => some ⟨32, d, m, fun i _ => saturate 32 (srcS s a 32 i + srcS s b 32 i)⟩
  | .vsubsI32 d a b m => some ⟨32, d, m, fun i _ => saturate 32 (srcS s a 32 i - srcS s b 32 i)⟩
  | .vmacI32 d a b m => some ⟨32, d, m, fun i old => wrapTo 32 (toS 32 old + srcS s a 32 i * srcS s b 32 i)⟩
  | _ => none

/-- Four 8-bit elements of a 32-bit lane, each worked on its own by its index j, and their exceptions (R202). -/
def Sys2Proof.eachByte (f : Nat → Nat → Nat → Res) (x y : Nat) : Res :=
  let r := fun j => f j (x / 256 ^ j % 256) (y / 256 ^ j % 256)
  ((r 0).1 + (r 1).1 * 256 + (r 2).1 * 256 ^ 2 + (r 3).1 * 256 ^ 3, (r 0).2 ||| (r 1).2 ||| (r 2).2 ||| (r 3).2)

/-- A lane of an 8-bit instruction with two sources. -/
def Sys2Proof.byteLane (s : State) (d a b m : BitVec 5) (f : Nat → Nat → Nat → Nat → Res) : Option LaneForm :=
  some ⟨32, d, m, fun i _ => eachByte (f i) (src s a 32 i) (src s b 32 i)⟩

/-- The lanes of a V8 instruction (R202): the float minors round each element on its own. -/
def Sys2Proof.lanesOfV8 (s : State) : Instr → Option LaneForm
  | .vaddE4m3 d a b m => byteLane s d a b m (fun i j x y => fAdd e4m3 s.ctl i j x y)
  | .vaddE5m2 d a b m => byteLane s d a b m (fun i j x y => fAdd e5m2 s.ctl i j x y)
  | .vsubE4m3 d a b m => byteLane s d a b m (fun i j x y => fSub e4m3 s.ctl i j x y)
  | .vsubE5m2 d a b m => byteLane s d a b m (fun i j x y => fSub e5m2 s.ctl i j x y)
  | .vmulE4m3 d a b m => byteLane s d a b m (fun i j x y => fMul e4m3 s.ctl i j x y)
  | .vmulE5m2 d a b m => byteLane s d a b m (fun i j x y => fMul e5m2 s.ctl i j x y)
  | .vaddI8 d a b m => byteLane s d a b m (fun _ _ x y => wrapTo 8 (toS 8 x + toS 8 y))
  | .vsubI8 d a b m => byteLane s d a b m (fun _ _ x y => wrapTo 8 (toS 8 x - toS 8 y))
  | .vaddsI8 d a b m => byteLane s d a b m (fun _ _ x y => saturate 8 (toS 8 x + toS 8 y))
  | .vminI8 d a b m => byteLane s d a b m (fun _ _ x y => wrapTo 8 (min (toS 8 x) (toS 8 y)))
  | .vmaxI8 d a b m => byteLane s d a b m (fun _ _ x y => wrapTo 8 (max (toS 8 x) (toS 8 y)))
  | _ => none

/-- The lanes of a floating-point instruction of a format (R201), with one rounding of the exact result each. -/
def Sys2Proof.floatLane (s : State) (f : Fmt) (d a b m : BitVec 5) (g : Nat → Nat → Nat → Nat → Res) : Option LaneForm :=
  some ⟨f.bits, d, m, fun i old => g i (src s a f.bits i) (src s b f.bits i) old⟩

/-- The lanes of a VFP instruction of F32 (R201). -/
def Sys2Proof.lanesOfF32 (s : State) : Instr → Option LaneForm
  | .vaddF32 d a b m => floatLane s fp32 d a b m (fun i x y _ => fAdd fp32 s.ctl i 0 x y)
  | .vsubF32 d a b m => floatLane s fp32 d a b m (fun i x y _ => fSub fp32 s.ctl i 0 x y)
  | .vmulF32 d a b m => floatLane s fp32 d a b m (fun i x y _ => fMul fp32 s.ctl i 0 x y)
  | .vfmaF32 d a b m => floatLane s fp32 d a b m (fun i x y z => fFma fp32 s.ctl i 0 false false x y z)
  | .vfmsF32 d a b m => floatLane s fp32 d a b m (fun i x y z => fFma fp32 s.ctl i 0 false true x y z)
  | .vfnmaF32 d a b m => floatLane s fp32 d a b m (fun i x y z => fFma fp32 s.ctl i 0 true false x y z)
  | .vminF32 d a b m => floatLane s fp32 d a b m (fun _ x y _ => fMinMax fp32 s.ctl false x y)
  | .vmaxF32 d a b m => floatLane s fp32 d a b m (fun _ x y _ => fMinMax fp32 s.ctl true x y)
  | .vscaleF32 d a b m => floatLane s fp32 d a b m (fun i x y _ => fScale fp32 s.ctl i x (toS fp32.bits y))
  | .vabsF32 d a m => floatLane s fp32 d a a m (fun _ x _ _ => (x % 2 ^ (fp32.bits - 1), 0))
  | .vnegF32 d a m => floatLane s fp32 d a a m (fun _ x _ _ => ((x + 2 ^ (fp32.bits - 1)) % 2 ^ fp32.bits, 0))
  | _ => none

/-- The lanes of a VFP instruction of Bf16 (R201). -/
def Sys2Proof.lanesOfBf16 (s : State) : Instr → Option LaneForm
  | .vaddBf16 d a b m => floatLane s bf16 d a b m (fun i x y _ => fAdd bf16 s.ctl i 0 x y)
  | .vsubBf16 d a b m => floatLane s bf16 d a b m (fun i x y _ => fSub bf16 s.ctl i 0 x y)
  | .vmulBf16 d a b m => floatLane s bf16 d a b m (fun i x y _ => fMul bf16 s.ctl i 0 x y)
  | .vfmaBf16 d a b m => floatLane s bf16 d a b m (fun i x y z => fFma bf16 s.ctl i 0 false false x y z)
  | .vfmsBf16 d a b m => floatLane s bf16 d a b m (fun i x y z => fFma bf16 s.ctl i 0 false true x y z)
  | .vfnmaBf16 d a b m => floatLane s bf16 d a b m (fun i x y z => fFma bf16 s.ctl i 0 true false x y z)
  | .vminBf16 d a b m => floatLane s bf16 d a b m (fun _ x y _ => fMinMax bf16 s.ctl false x y)
  | .vmaxBf16 d a b m => floatLane s bf16 d a b m (fun _ x y _ => fMinMax bf16 s.ctl true x y)
  | .vscaleBf16 d a b m => floatLane s bf16 d a b m (fun i x y _ => fScale bf16 s.ctl i x (toS bf16.bits y))
  | .vabsBf16 d a m => floatLane s bf16 d a a m (fun _ x _ _ => (x % 2 ^ (bf16.bits - 1), 0))
  | .vnegBf16 d a m => floatLane s bf16 d a a m (fun _ x _ _ => ((x + 2 ^ (bf16.bits - 1)) % 2 ^ bf16.bits, 0))
  | _ => none

/-- The lanes of a VFP instruction of F16 (R201). -/
def Sys2Proof.lanesOfF16 (s : State) : Instr → Option LaneForm
  | .vaddF16 d a b m => floatLane s fp16 d a b m (fun i x y _ => fAdd fp16 s.ctl i 0 x y)
  | .vsubF16 d a b m => floatLane s fp16 d a b m (fun i x y _ => fSub fp16 s.ctl i 0 x y)
  | .vmulF16 d a b m => floatLane s fp16 d a b m (fun i x y _ => fMul fp16 s.ctl i 0 x y)
  | .vfmaF16 d a b m => floatLane s fp16 d a b m (fun i x y z => fFma fp16 s.ctl i 0 false false x y z)
  | .vfmsF16 d a b m => floatLane s fp16 d a b m (fun i x y z => fFma fp16 s.ctl i 0 false true x y z)
  | .vfnmaF16 d a b m => floatLane s fp16 d a b m (fun i x y z => fFma fp16 s.ctl i 0 true false x y z)
  | .vminF16 d a b m => floatLane s fp16 d a b m (fun _ x y _ => fMinMax fp16 s.ctl false x y)
  | .vmaxF16 d a b m => floatLane s fp16 d a b m (fun _ x y _ => fMinMax fp16 s.ctl true x y)
  | .vscaleF16 d a b m => floatLane s fp16 d a b m (fun i x y _ => fScale fp16 s.ctl i x (toS fp16.bits y))
  | .vabsF16 d a m => floatLane s fp16 d a a m (fun _ x _ _ => (x % 2 ^ (fp16.bits - 1), 0))
  | .vnegF16 d a m => floatLane s fp16 d a a m (fun _ x _ _ => ((x + 2 ^ (fp16.bits - 1)) % 2 ^ fp16.bits, 0))
  | _ => none

/-- Lane k of a source by a 64-bit index: 0 beyond the lanes (R203). -/
def Sys2Proof.srcAt (s : State) (a : BitVec 5) (w : Nat) (k : Int) : Nat := if 0 ≤ k ∧ k < (s.vl / w : Nat) then src s a w k.toNat else 0

/-- The lanes of an element-wise VMISC instruction (R203). -/
def Sys2Proof.lanesOfMoves (s : State) : Instr → Option LaneForm
  | .vmov d a m => some ⟨32, d, m, fun i _ => (src s a 32 i, 0)⟩
  | .vbcast16 d a m => some ⟨16, d, m, fun _ _ => ((s.rg a).toNat % 2 ^ 16, 0)⟩
  | .vbcast32 d a m => some ⟨32, d, m, fun _ _ => ((s.rg a).toNat % 2 ^ 32, 0)⟩
  | .vbcast64 d a m => some ⟨64, d, m, fun _ _ => ((s.rg a).toNat, 0)⟩
  | .vins16 d a b => some ⟨16, d, 0, fun i old => (if i = (s.rg b).toNat then (s.rg a).toNat % 2 ^ 16 else old, 0)⟩
  | .vins32 d a b => some ⟨32, d, 0, fun i old => (if i = (s.rg b).toNat then (s.rg a).toNat % 2 ^ 32 else old, 0)⟩
  | .vperm16 d a b m => some ⟨16, d, m, fun i _ => (srcAt s a 16 (src s b 16 i), 0)⟩
  | .vperm32 d a b m => some ⟨32, d, m, fun i _ => (srcAt s a 32 (src s b 32 i), 0)⟩
  | .vslideup d a b m => some ⟨32, d, m, fun i _ => (srcAt s a 32 ((i : Int) - (s.rg b).toNat), 0)⟩
  | .vslidedn d a b m => some ⟨32, d, m, fun i _ => (srcAt s a 32 ((i : Int) + (s.rg b).toNat), 0)⟩
  | .vzip16 d a b m => some ⟨16, d, m, fun i _ => (if i % 2 = 0 then src s a 16 (i / 2) else src s b 16 (i / 2), 0)⟩
  | .vunzip16 d a m => some ⟨16, d, m, fun i _ =>
      (if i < s.vl / 32 then src s a 16 (2 * i) else src s a 16 (2 * (i - s.vl / 32) + 1), 0)⟩
  | .vunpk8 d a b m => some ⟨32, d, m, fun i _ => (src s a 8 ((s.rg b).toNat % 4 * (s.vl / 32) + i), 0)⟩
  | _ => none

/-- The lanes of an element-wise VCVT instruction (R206, R208). -/
def Sys2Proof.lanesOfConversions (s : State) : Instr → Option LaneForm
  | .vcvtBf16F32 d a m => some ⟨32, d, m, fun i _ => fCvt fp32 bf16 s.ctl i 0 (src s a 32 i)⟩
  | .vcvtF16F32 d a m => some ⟨32, d, m, fun i _ => fCvt fp32 fp16 s.ctl i 0 (src s a 32 i)⟩
  | .vcvtF32Bf16 d a m => some ⟨32, d, m, fun i _ => fCvt bf16 fp32 s.ctl i 0 (src s a 32 i % 2 ^ 16)⟩
  | .vcvtF32F16 d a m => some ⟨32, d, m, fun i _ => fCvt fp16 fp32 s.ctl i 0 (src s a 32 i % 2 ^ 16)⟩
  | .vcvtE4m3F32 d a m => some ⟨32, d, m, fun i _ => fCvt fp32 e4m3 s.ctl i 0 (src s a 32 i)⟩
  | .vcvtE5m2F32 d a m => some ⟨32, d, m, fun i _ => fCvt fp32 e5m2 s.ctl i 0 (src s a 32 i)⟩
  | .vcvtF32E4m3 d a m => some ⟨32, d, m, fun i _ => fCvt e4m3 fp32 s.ctl i 0 (src s a 32 i % 2 ^ 8)⟩
  | .vcvtF32E5m2 d a m => some ⟨32, d, m, fun i _ => fCvt e5m2 fp32 s.ctl i 0 (src s a 32 i % 2 ^ 8)⟩
  | .vcvtBf16E4m3 d a m => some ⟨32, d, m, fun i _ => fCvt e4m3 bf16 s.ctl i 0 (src s a 32 i % 2 ^ 8)⟩
  | .vcvtE4m3Bf16 d a m => some ⟨32, d, m, fun i _ => fCvt bf16 e4m3 s.ctl i 0 (src s a 32 i % 2 ^ 16)⟩
  | .vcvtI32F32 d a m => some ⟨32, d, m, fun i _ => fToInt 32 s.ctl i 0 (fp32.read s.ctl.ftz (src s a 32 i))⟩
  | .vcvtF32I32 d a m => some ⟨32, d, m, fun i _ => intToF fp32 s.ctl i 0 (srcS s a 32 i)⟩
  | .vcvtI16F32 d a m => some ⟨32, d, m, fun i _ => fToInt 16 s.ctl i 0 (fp32.read s.ctl.ftz (src s a 32 i))⟩
  | .vdq4 d a b m => some ⟨32, d, m, fun i _ =>
      q4Dequant s.ctl i ((s.rg b).toNat % 2 ^ 16) (src s a 4 (((s.rg b).toNat / 2 ^ 16 % 2 ^ 8 + i) % (s.vl / 4)))⟩
  | _ => none

/-- A special-function instruction by its minor; type 0 is F32, 1 BF16 (R209). -/
def Sys2Proof.specialLane (s : State) (minor : Nat) (d a m : BitVec 5) (t : BitVec 1) : Option LaneForm :=
  let f := if t = 0 then fp32 else bf16
  some ⟨f.bits, d, m, fun i _ => sfuLane minor f s.ctl i (Config.sfu minor t.toNat (src s a f.bits i)) (src s a f.bits i)⟩

/-- The lanes of a VSFU instruction (R209, R210). -/
def Sys2Proof.lanesOfSpecials (s : State) : Instr → Option LaneForm
  | .vrcp d a m t => specialLane s 0 d a m t
  | .vrsq d a m t => specialLane s 1 d a m t
  | .vsqrt d a m t => specialLane s 2 d a m t
  | .vexp2 d a m t => specialLane s 3 d a m t
  | .vexp d a m t => specialLane s 4 d a m t
  | .vlog2 d a m t => specialLane s 5 d a m t
  | .vsin d a m t => specialLane s 6 d a m t
  | .vcos d a m t => specialLane s 7 d a m t
  | .vtanh d a m t => specialLane s 8 d a m t
  | .vsigm d a m t => specialLane s 9 d a m t
  | .verf d a m t => specialLane s 10 d a m t
  | _ => none

/-- A reduction of the active lanes by the fixed tree of R172, or its value for no active lane (R204): width, mask, source, empty value and
combination. -/
def Sys2Proof.reductionOf (s : State) : Instr → Option (Nat × BitVec 5 × BitVec 5 × BitVec 5 × Nat × (Nat → Nat → Nat → Nat → Res))
  | .vredsumF32 d a m => some (32, d, a, m, 0, fun k l x y => fAdd fp32 s.ctl l k x y)
  | .vredsumBf16 d a m => some (16, d, a, m, 0, fun k l x y => fAdd bf16 s.ctl l k x y)
  | .vredmaxF32 d a m => some (32, d, a, m, 0xFF800000, fun _ _ x y => fMinMax fp32 s.ctl true x y)
  | .vredminF32 d a m => some (32, d, a, m, 0x7F800000, fun _ _ x y => fMinMax fp32 s.ctl false x y)
  | .vredmaxBf16 d a m => some (16, d, a, m, 0xFF80, fun _ _ x y => fMinMax bf16 s.ctl true x y)
  | _ => none

/-- The magnitude of a code of a format (R155). -/
noncomputable def Sys2Proof.codeValue (f : Fmt) (k : Nat) : Rat :=
  if k < 2 ^ f.mb then (k : Rat) * (2 : Rat) ^ (f.emin - f.mb) else ((2 ^ f.mb + k % 2 ^ f.mb : Nat) : Rat) * (2 : Rat) ^ ((k / 2 ^ f.mb : Nat) - f.bias - f.mb : Int)

/-- The values of the running thread's fields fit the widths that the CSR tables give them (R145, R153, R381). -/
structure Sys2Proof.FieldsFit (s : State) : Prop where
  bank : s.curRef.bank < 2
  slot : s.curRef.slot < 8
  kind : s.me.kind < 4
  prio : s.me.prio < 16
  tenant : s.me.tenant < 64
  task : s.me.taskIndex < 2 ^ 32
  base : s.me.fbase < 2 ^ 32
  count : s.me.seizeCount < 2 ^ 16
  frame : s.me.rpt.idx < 16 ∧ s.me.rpt.nm1 < 16 ∧ s.me.rpt.sd < 8 ∧ s.me.rpt.sa < 8 ∧ s.me.rpt.sb < 8 ∧ s.me.rpt.jmod < 32

/-- The numbers of the assigned CSRs (R144). -/
def Sys2Proof.assignedCsr (n : Nat) : Prop :=
  n ≤ 9 ∨ (0x010 ≤ n ∧ n ≤ 0x015) ∨ n = 0x020 ∨ n = 0x021 ∨ n = 0x030 ∨ n = 0x031 ∨ n = 0x040 ∨ (0x080 ≤ n ∧ n ≤ 0x087) ∨
    (0x100 ≤ n ∧ n ≤ 0x107)

/-- Fields of the running thread's CSRs: highest bit, lowest bit and value (R145, R146, R153, R383). -/
def Sys2Proof.csrFields (s : State) (n : Nat) : List (Nat × Nat × Nat) :=
  let b := s.me
  if n = 0x000 then [(63, 0, b.numctl.toNat)]
  else if n = 0x001 then [(0, 0, s.curRef.bank), (1, 1, b2n (isXa s.cur.1)), (3, 2, b.kind), (4, 4, b2n b.pack), (5, 5, b2n b.det),
    (9, 6, b.prio), (10, 10, b2n b.rpt.frozen), (63, 11, 0)]
  else if n = 0x003 then [(2, 0, s.curRef.slot), (15, 3, 0), (21, 16, b.tenant), (63, 22, 0)]
  else if n = 0x005 then [(31, 0, b.taskIndex), (63, 32, b.fbase)]
  else if n = 0x006 then [(31, 0, b.lid.toNat), (63, 32, 0)]
  else if n = 0x009 then [(31, 0, b.rpt.left.toNat), (35, 32, b.rpt.idx), (39, 36, b.rpt.nm1), (40, 40, b2n b.rpt.act),
    (41, 41, b2n b.rpt.frozen), (44, 42, b.rpt.sd), (47, 45, b.rpt.sa), (50, 48, b.rpt.sb), (55, 51, b.rpt.jmod), (63, 56, 0)]
  else if n = 0x010 then [(47, 0, b.trap.pc.toNat), (63, 48, 0)]
  else if n = 0x011 then [(9, 0, b.trap.cause.toNat), (63, 10, 0)]
  else if n = 0x012 then [(63, 0, b.trap.addr.toNat)]
  else if n = 0x013 then [(63, 0, b.trap.val.toNat)]
  else if n = 0x014 then [(47, 0, b.trap.vec.toNat), (63, 48, 0)]
  else if n = 0x015 then [(0, 0, b2n b.trap.inh), (1, 1, b2n b.trap.dfr), (2, 2, b2n b.trap.win), (63, 3, 0)]
  else if n = 0x020 then [(63, 0, b.tree.toNat)]
  else if n = 0x021 then [(15, 0, b.seizeCount)]
  else if n = 0x030 then [(63, 0, b.icount.toNat)]
  else if n = 0x031 then [(31, 0, b.quantLeft.toNat), (63, 32, b.quantLen.toNat)]
  else if n = 0x040 then [(63, 2, 0)]
  else if 0x080 ≤ n ∧ n ≤ 0x087 then [(63, 0, (tget 0 s.boot.negotiated (n - 0x080)).toNat)]
  else if 0x100 ≤ n ∧ n ≤ 0x107 then [(63, 0, (b.rod (n - 0x100)).toNat)]
  else []

/-- The value that an instruction writes into a CSR that held `old`; none when it only reads (R147). -/
def Sys2Proof.csrWrite (s : State) (old : Dword) : Instr → Option (BitVec 5 × BitVec 12 × Option Dword)
  | .csrrd d c => some (d, c, none)
  | .csrwr d a c => some (d, c, some (s.rg a))
  | .csrset d a c => some (d, c, if a = 0 then none else some (old ||| s.rg a))
  | .csrclr d a c => some (d, c, if a = 0 then none else some (old &&& ~~~(s.rg a)))
  | _ => none

/-- Bit k of a CSR after a write of `new` over `old`: NUMCTL keeps DET and its reserved bits, and CNAN while DET is 1; TRAPPC and TRAPVEC keep
bits [63:48] and read bit 0 as 0 (R147, R161, R383). -/
def Sys2Proof.writtenBit (n : Nat) (old new : Dword) (k : Nat) : Bool :=
  if n = 0 then
    if k = 4 then new.getLsbD 4 || old.getLsbD 6
    else if k < 4 ∨ k = 5 ∨ (8 ≤ k ∧ k < 15) ∨ (16 ≤ k ∧ k < 23) ∨ (24 ≤ k ∧ k < 32) then new.getLsbD k
    else decide (k = 6) && old.getLsbD 6
  else decide (1 ≤ k ∧ k < 48) && new.getLsbD k

/-- The thread's instructions that trap by an instruction-class cause, whatever the registers hold: an unassigned CSR, a write to a read-only CSR,
a rounding mode of 6 or 7, an RPT within a frozen frame, ERET outside a handler, and the instructions that a kind of thread may not use (R126,
R127, R128, R147, R152, R296, R387). -/
def Sys2Proof.instructionCause (s : State) : Instr → Option Nat
  | .csrrd _ c => if s.csr s.curRef c.toNat = none then some 0x00A else none
  | .csrwr _ a c => if s.csr s.curRef c.toNat = none ∨ csrWritable c.toNat = false then some 0x00A
      else if c = 0 ∧ 6 ≤ dfld (s.rg a) 2 0 then some 0x006 else none
  | .csrset _ a c => if s.csr s.curRef c.toNat = none ∨ (a ≠ 0 ∧ csrWritable c.toNat = false) then some 0x00A
      else if c = 0 ∧ a ≠ 0 ∧ 6 ≤ dfld (s.me.numctl ||| s.rg a) 2 0 then some 0x006 else none
  | .csrclr _ a c => if s.csr s.curRef c.toNat = none ∨ (a ≠ 0 ∧ csrWritable c.toNat = false) then some 0x00A else none
  | .rpt _ _ _ _ _ => if s.me.rpt.frozen then some 0x009 else none
  | .eret => if s.me.trap.inh then none else some 0x00A
  | .hfcall _ _ _ => if 2 ≤ s.me.kind then some 0x00A else none
  | .cancel _ _ _ => if 2 ≤ s.me.kind then some 0x00A else none
  | .spawn _ _ _ => if isXa s.cur.1 ∨ s.me.kind ≠ 0 then some 0x00A else none
  | .dlaunch _ _ => if isXa s.cur.1 ∨ s.me.kind ≠ 0 then some 0x00A else none
  | .exit => if s.me.kind = 1 ∨ s.me.kind = 2 then some 0x00A else none
  | .cExit => if s.me.kind = 1 ∨ s.me.kind = 2 then some 0x00A else none
  | .hend => if s.me.kind ≠ 1 then some 0x00A else none
  | .cHend => if s.me.kind ≠ 1 then some 0x00A else none
  | _ => none

/-- Whether a live launch lies in the instance that CANCEL names by kind and ID (R391). -/
def Sys2Proof.cancelNames (s : State) (kind id : Nat) (l : Launch) : Prop :=
  l.tenant = s.me.tenant ∧ ((kind = 1 ∧ l.lid.toNat = id) ∨ (kind = 2 ∧ l.graph = id) ∨ (kind = 3 ∧ l.phase = id) ∨ (kind = 4 ∧ l.job = id))

/-- Destination, LK, address, bytes and sign extension of a scalar load (R255, R70). -/
def Sys2Proof.loadOf (s : State) : Instr → Option (BitVec 5 × BitVec 4 × Dword × Nat × Bool)
  | .ldS8 d a k i => some (d, k, s.rg a + BitVec.ofInt 64 (i.toInt * 1), 1, true)
  | .ldZ8 d a k i => some (d, k, s.rg a + BitVec.ofInt 64 (i.toInt * 1), 1, false)
  | .ldS16 d a k i => some (d, k, s.rg a + BitVec.ofInt 64 (i.toInt * 2), 2, true)
  | .ldZ16 d a k i => some (d, k, s.rg a + BitVec.ofInt 64 (i.toInt * 2), 2, false)
  | .ldS32 d a k i => some (d, k, s.rg a + BitVec.ofInt 64 (i.toInt * 4), 4, true)
  | .ldZ32 d a k i => some (d, k, s.rg a + BitVec.ofInt 64 (i.toInt * 4), 4, false)
  | .ld64 d a k i => some (d, k, s.rg a + BitVec.ofInt 64 (i.toInt * 8), 8, false)
  | .ldxS8 d a b k c => some (d, k, s.rg a + s.rg b * 2 ^ c.toNat, 1, true)
  | .ldxZ8 d a b k c => some (d, k, s.rg a + s.rg b * 2 ^ c.toNat, 1, false)
  | .ldxS16 d a b k c => some (d, k, s.rg a + s.rg b * 2 ^ c.toNat, 2, true)
  | .ldxZ16 d a b k c => some (d, k, s.rg a + s.rg b * 2 ^ c.toNat, 2, false)
  | .ldxS32 d a b k c => some (d, k, s.rg a + s.rg b * 2 ^ c.toNat, 4, true)
  | .ldxZ32 d a b k c => some (d, k, s.rg a + s.rg b * 2 ^ c.toNat, 4, false)
  | .ldx64 d a b k c => some (d, k, s.rg a + s.rg b * 2 ^ c.toNat, 8, false)
  | .cLd64 r f => some (r, 0, s.rg f, 8, false)
  | _ => none

/-- Value, LK, address and bytes of a scalar store (R255, R70). -/
def Sys2Proof.storeOf (s : State) : Instr → Option (Dword × BitVec 4 × Dword × Nat)
  | .st8 d a k i => some (s.rg d, k, s.rg a + BitVec.ofInt 64 (i.toInt * 1), 1)
  | .st16 d a k i => some (s.rg d, k, s.rg a + BitVec.ofInt 64 (i.toInt * 2), 2)
  | .st32 d a k i => some (s.rg d, k, s.rg a + BitVec.ofInt 64 (i.toInt * 4), 4)
  | .st64 d a k i => some (s.rg d, k, s.rg a + BitVec.ofInt 64 (i.toInt * 8), 8)
  | .stx8 d a b k c => some (s.rg d, k, s.rg a + s.rg b * 2 ^ c.toNat, 1)
  | .stx16 d a b k c => some (s.rg d, k, s.rg a + s.rg b * 2 ^ c.toNat, 2)
  | .stx32 d a b k c => some (s.rg d, k, s.rg a + s.rg b * 2 ^ c.toNat, 4)
  | .stx64 d a b k c => some (s.rg d, k, s.rg a + s.rg b * 2 ^ c.toNat, 8)
  | .cSt64 r f => some (s.rg r, 0, s.rg f, 8)
  | _ => none

/-- CheckAccess accepts the running thread's access and finds its byte location; `u` is the device after it, whose TLBs may have cached the
translation (R254, R264). -/
def Sys2Proof.Reachable (s : State) (va : Dword) (n kind : Nat) (u : State) (loc : Nat) : Prop :=
  s.check s.req va.toNat n kind = (u, .ok (.mem loc)) ∧ loc < 2 ^ 46

/-- A memory with the low n bytes of a value at a location and every other byte as before (R255). -/
def Sys2Proof.Stored (m m' : List (Nat × Byte)) (loc n : Nat) (x : Dword) : Prop :=
  (∀ j < n, memGet m' (loc + j) = x.extractLsb' (8 * j) 8) ∧ ∀ a, (a < loc ∨ loc + n ≤ a) → memGet m' a = memGet m a

/-- Bit j of the little-endian number at a location, sign- or zero-extended from n bytes (R3, R255). -/
def Sys2Proof.memBit (m : List (Nat × Byte)) (loc n : Nat) (signed : Bool) (j : Nat) : Bool :=
  if j < 8 * n then (memGet m (loc + j / 8)).getLsbD (j % 8) else signed && (memGet m (loc + n - 1)).getLsbD 7

/-- The instructions that C.RLX may precede (R71). -/
def Sys2Proof.mayBeRelaxed : Instr → Bool
  | .ldS8 .. | .ldZ8 .. | .ldS16 .. | .ldZ16 .. | .ldS32 .. | .ldZ32 .. | .ld64 .. => true
  | .ldxS8 .. | .ldxZ8 .. | .ldxS16 .. | .ldxZ16 .. | .ldxS32 .. | .ldxZ32 .. | .ldx64 .. => true
  | .st8 .. | .st16 .. | .st32 .. | .st64 .. | .stx8 .. | .stx16 .. | .stx32 .. | .stx64 .. => true
  | .cLd64 .. | .cSt64 .. | .vld .. | .vst .. | .vlds .. | .vsts .. | .vldx .. | .vstx .. | .vldb .. => true
  | _ => false

/-- The form of a full/empty instruction: register, address, whether it writes, the tag that it needs, the value that it stores, and the tag that
it leaves (R258). -/
structure Sys2Proof.FeForm where
  reg : BitVec 5
  va : Dword
  kind : Nat
  needs : Option Bool
  stores : Option Dword
  leaves : Option Bool

/-- The full/empty instructions (R258). -/
def Sys2Proof.feForm (s : State) : Instr → Option FeForm
  | .ldfe d a i _ => some ⟨d, s.rg a + BitVec.ofInt 64 (i.toInt * 8), 1, some true, none, some false⟩
  | .ldfw d a i _ => some ⟨d, s.rg a + BitVec.ofInt 64 (i.toInt * 8), 0, some true, none, none⟩
  | .stfw d a i _ => some ⟨0, s.rg a + BitVec.ofInt 64 (i.toInt * 8), 1, some false, some (s.rg d), some true⟩
  | .stfs d a i _ => some ⟨0, s.rg a + BitVec.ofInt 64 (i.toInt * 8), 1, none, some (s.rg d), some true⟩
  | .fetag d a i _ => some ⟨d, s.rg a + BitVec.ofInt 64 (i.toInt * 8), 0, none, none, none⟩
  | .feclr a i _ => some ⟨0, s.rg a + BitVec.ofInt 64 (i.toInt * 8), 1, none, none, some false⟩
  | _ => none

/-- The device with a word's tag as an instruction leaves it. -/
def Sys2Proof.tagLeft (u : State) (loc : Nat) : Option Bool → State
  | some full => u.setTag loc full
  | none => u

/-- A vector memory instruction: LK, register, whether it stores, and its active lanes with their addresses in rising lane order (R256). -/
structure Sys2Proof.LaneAccess where
  k : BitVec 4
  reg : BitVec 5
  store : Bool
  lanes : List (Nat × Dword)

/-- Consecutive lanes from g[A] under the mask. -/
def Sys2Proof.consecutive (s : State) (a b : BitVec 5) : List (Nat × Dword) :=
  ((List.range (s.vl / 32)).filter (fun i => b = 0 ∨ (s.rg b).getLsbD i)).map (fun i => (i, s.rg a + BitVec.ofNat 64 (4 * i)))

/-- Strided lanes: stride g[B][31:0], signed, and count g[B][47:32]. -/
def Sys2Proof.strided (s : State) (a b : BitVec 5) : List (Nat × Dword) :=
  ((List.range (s.vl / 32)).filter (fun i => i < (s.rg b).toNat / 2 ^ 32 % 2 ^ 16)).map
    (fun i => (i, s.rg a + BitVec.ofInt 64 (i * ((s.rg b).setWidth 32).toInt)))

/-- Indexed lanes: unsigned offsets in vB, of which 0xFFFF_FFFF makes its lane inactive. -/
def Sys2Proof.indexed (s : State) (a b : BitVec 5) : List (Nat × Dword) :=
  ((List.range (s.vl / 32)).filter (fun i => src s b 32 i ≠ 0xFFFFFFFF)).map (fun i => (i, s.rg a + BitVec.ofNat 64 (src s b 32 i)))

/-- The vector memory instructions (R256). -/
def Sys2Proof.laneAccess (s : State) : Instr → Option LaneAccess
  | .vld d a b k => some ⟨k, d, false, consecutive s a b⟩
  | .vst d a b k => some ⟨k, d, true, consecutive s a b⟩
  | .vlds d a b k => if (s.rg b).toNat / 2 ^ 48 = 0 then some ⟨k, d, false, strided s a b⟩ else none
  | .vsts d a b k => if (s.rg b).toNat / 2 ^ 48 = 0 then some ⟨k, d, true, strided s a b⟩ else none
  | .vldx d a b k => some ⟨k, d, false, indexed s a b⟩
  | .vstx d a b k => some ⟨k, d, true, indexed s a b⟩
  | .vldb d a b k => some ⟨k, d, false, (consecutive s a b).map (fun p => (p.1, s.rg a))⟩
  | _ => none

/-- Memory with the lanes of a register written at their locations in rising lane order. -/
def Sys2Proof.lanesStored (s : State) (f : LaneAccess) (at_ : Dword → Nat) : List (Nat × Byte) :=
  f.lanes.foldl (fun m p => memWrite m (at_ p.2) (natBytes 4 (src s f.reg 32 p.1))) s.mem

/-- A register whose active lanes hold the words at their locations, and which keeps every other lane and the bits beyond the core's vectors. -/
def Sys2Proof.lanesLoaded (s : State) (f : LaneAccess) (at_ : Dword → Nat) (x : Vec) : Prop :=
  (∀ j < s.vl / 32, ∀ b < 32, (laneOf x 32 j).testBit b =
    match f.lanes.find? (fun p => p.1 = j) with
    | some p => memBit s.mem (at_ p.2) 4 false b
    | none => (src s f.reg 32 j).testBit b) ∧
  ∀ b, s.vl ≤ b → x.getLsbD b = (s.me.rv f.reg.toNat).getLsbD b

/-- A word of a local store or of the shared SRAM that the running thread's ATOM instruction may reach, at this location, with no queue on it (R342,
R343). -/
def Sys2Proof.WordReached (s : State) (va : Dword) (loc : Nat) : Prop :=
  s.checkMap s.req va.toNat 8 1 = none ∧ atomLoc s.req va.toNat = some loc ∧ s.waitTable loc = []

/-- The word at a location. -/
def Sys2Proof.wordAt (s : State) (loc : Nat) : Dword := BitVec.ofNat 64 (s.load loc 8)

/-- The word that a waiting CAS (3), SWAP (4) or FADD (5) leaves (R343). -/
def Sys2Proof.atomLeaves (minor : Nat) (old exp v : Dword) : Dword :=
  if minor = 3 then (if old = exp then v else old) else if minor = 4 then v else old + v

/-- CAS, SWAP and FADD: destination, address, LK and the word that they leave over the old one (R343). -/
def Sys2Proof.atomForm (s : State) : Instr → Option (BitVec 5 × Dword × BitVec 4 × (Dword → Dword))
  | .cas d a b k => some (d, s.rg a, k, fun old => if old = s.rg d then s.rg b else old)
  | .swap d a b k => some (d, s.rg a, k, fun _ => s.rg b)
  | .fadd d a b k => some (d, s.rg a, k, fun old => old + s.rg b)
  | _ => none

/-- A reduction: address, value, bytes, whether it releases, whether it holds later accesses, and the new content of its target (R345, R347). -/
structure Sys2Proof.RedForm where
  va : Dword
  val : Dword
  bytes : Nat
  float : Bool
  acq : BitVec 1
  scope : BitVec 3
  f : Dword → Dword → Nat

/-- The reductions (R345, R347): MIN and MAX on signed numbers, and one rounding to nearest with canonical NaNs for the float ones. -/
def Sys2Proof.redForm (s : State) : Instr → Option RedForm
  | .redAdd64 _ a b sc q => some ⟨s.rg a, s.rg b, 8, false, q, sc, fun m v => (m.toNat + v.toNat) % 2 ^ 64⟩
  | .redAdd32 _ a b sc q => some ⟨s.rg a, s.rg b, 4, false, q, sc, fun m v => (m.toNat + v.toNat) % 2 ^ 32⟩
  | .redMin64 _ a b sc q => some ⟨s.rg a, s.rg b, 8, false, q, sc, fun m v => (BitVec.ofInt 64 (min m.toInt v.toInt)).toNat⟩
  | .redMax64 _ a b sc q => some ⟨s.rg a, s.rg b, 8, false, q, sc, fun m v => (BitVec.ofInt 64 (max m.toInt v.toInt)).toNat⟩
  | .redMinu64 _ a b sc q => some ⟨s.rg a, s.rg b, 8, false, q, sc, fun m v => min m.toNat v.toNat⟩
  | .redMaxu64 _ a b sc q => some ⟨s.rg a, s.rg b, 8, false, q, sc, fun m v => max m.toNat v.toNat⟩
  | .redAnd64 _ a b sc q => some ⟨s.rg a, s.rg b, 8, false, q, sc, fun m v => (m &&& v).toNat⟩
  | .redOr64 _ a b sc q => some ⟨s.rg a, s.rg b, 8, false, q, sc, fun m v => (m ||| v).toNat⟩
  | .redXor64 _ a b sc q => some ⟨s.rg a, s.rg b, 8, false, q, sc, fun m v => (m ^^^ v).toNat⟩
  | .redfAddF32 _ a b sc q => some ⟨s.rg a, s.rg b, 4, true, q, sc, fun m v => (fAdd fp32 redCtl 0 0 (m.toNat % 2 ^ 32) (v.toNat % 2 ^ 32)).1⟩
  | .redfAddBf16 _ a b sc q => some ⟨s.rg a, s.rg b, 2, true, q, sc, fun m v => (fAdd bf16 redCtl 0 0 (m.toNat % 2 ^ 16) (v.toNat % 2 ^ 16)).1⟩
  | _ => none

/-- The slot of a tile that holds a barrier of the running thread's launch (R352). -/
def Sys2Proof.OwnBarrier (s : State) (x : Dword) (slot : Nat) (q : BarSlot) : Prop :=
  x.toNat = slot ∧ slot < 8 ∧ s.bar s.cur.1 slot = some q ∧ q.launch = s.launchKey s.curRef

/-- Sources and destination of vector instructions of every family that computes lanes. -/
def Sys2Proof.portOperands : Instr → Option (List (BitVec 5) × BitVec 5)
  | .vmov d a _ => some ([a], d)
  | .vperm32 d a b _ => some ([a, b], d)
  | .vaddI16 d a b _ => some ([a, b], d)
  | .vaddI32 d a b _ => some ([a, b], d)
  | .vaddI8 d a b _ => some ([a, b], d)
  | .vaddF32 d a b _ => some ([a, b], d)
  | .vaddBf16 d a b _ => some ([a, b], d)
  | .vaddF16 d a b _ => some ([a, b], d)
  | .vaddE4m3 d a b _ => some ([a, b], d)
  | .vcvtBf16F32 d a _ => some ([a], d)
  | .vrcp d a _ _ => some ([a], d)
  | _ => none

/-- The port that a vector register of the running thread is bound to. -/
def Sys2Proof.boundTo (s : State) (r : BitVec 5) (k : Nat) (p : Port) : Prop := r.toNat = 28 + k ∧ s.me.port k = some p

/-- A SEQ command: minor, destination, data, handle, control word, and whether the control word's fields are legal for the minor (R308, R311). -/
structure Sys2Proof.SeqForm where
  minor : Nat
  dest : Nat
  data : Vec
  handle : Dword
  ctl : Dword
  legal : Bool

/-- The SEQ instructions that a pool executes (R308, R311): which of TOK, N, SCOPE, REL and PORT each uses, and the range of N. -/
def Sys2Proof.seqForm (s : State) : Instr → Option SeqForm
  | .sqres d a b => some ⟨0, d.toNat, 0, s.rg a, s.rg b, dfld (s.rg b) 31 0 = 0 && dfld (s.rg b) 55 48 = 0 && dfld (s.rg b) 63 60 = 0 &&
      decide (1 ≤ dfld (s.rg b) 47 32) && decide (dfld (s.rg b) 47 32 ≤ 4096)⟩
  | .sqst d a b => some ⟨1, 0, s.me.rv d.toNat, s.rg a, s.rg b, dfld (s.rg b) 55 48 = 0 && dfld (s.rg b) 63 60 = 0 && decide (dfld (s.rg b) 47 32 ≤ 1023)⟩
  | .sqstr d a b => some ⟨2, 0, s.me.rv d.toNat, s.rg a, s.rg b, dfld (s.rg b) 55 48 = 0 && dfld (s.rg b) 63 60 = 0 && decide (dfld (s.rg b) 47 32 ≤ 1023)⟩
  | .sqcmt d a b => some ⟨3, d.toNat, 0, s.rg a, s.rg b, dfld (s.rg b) 55 48 = 0 && dfld (s.rg b) 63 60 = 0 &&
      decide (1 ≤ dfld (s.rg b) 47 32) && decide (dfld (s.rg b) 47 32 ≤ 4096)⟩
  | .sqaband d a b => some ⟨4, d.toNat, 0, s.rg a, s.rg b, dfld (s.rg b) 55 48 = 0 && dfld (s.rg b) 63 60 = 0 &&
      decide (1 ≤ dfld (s.rg b) 47 32) && decide (dfld (s.rg b) 47 32 ≤ 4096)⟩
  | .sqlen d a b => some ⟨5, d.toNat, 0, s.rg a, s.rg b, dfld (s.rg b) 55 48 = 0 && dfld (s.rg b) 63 60 = 0 &&
      decide (dfld (s.rg b) 47 32 ≤ 3) && (dfld (s.rg b) 47 32 = 3 || dfld (s.rg b) 31 0 = 0)⟩
  | .sqfork d a b => some ⟨6, d.toNat, 0, s.rg a, s.rg b, dfld (s.rg b) 55 48 = 0 && dfld (s.rg b) 63 60 = 0⟩
  | .sqrel a => some ⟨7, 0, 0, s.rg a, 0, true⟩
  | .sqtrim d a b => some ⟨8, d.toNat, 0, s.rg a, s.rg b, dfld (s.rg b) 55 32 = 0 && dfld (s.rg b) 63 60 = 0⟩
  | .sqrd d a b => some ⟨9, d.toNat, 0, s.rg a, s.rg b, dfld (s.rg b) 55 50 = 0 && dfld (s.rg b) 63 60 = 0 && decide (1 ≤ dfld (s.rg b) 47 32)⟩
  | .sqcow d a b => some ⟨10, d.toNat, 0, s.rg a, s.rg b, dfld (s.rg b) 55 32 = 0 && dfld (s.rg b) 63 60 = 0⟩
  | _ => none

/-- An address of a pool's arena or metadata (R300, R303, R306). -/
def Sys2Proof.PoolOwns (x : Pool) (va : Nat) : Prop :=
  (x.arena.toNat ≤ va ∧ va < x.arena.toNat + 2 ^ x.aord * (16 * x.rbytes)) ∨
    (x.md.toNat ≤ va ∧ va < x.md.toNat + 8 * 2 ^ x.aord + 128 * x.snum)

/-- A pool whose arena and metadata do not overlap, are aligned, and lie where the L2 TLB says, each address at a location of its own, in memory that
can be read; its free runs lie in the arena (R264, R300, R302, R304). -/
structure Sys2Proof.PoolAt (s : State) (p : Nat) (place : Nat → Nat) : Prop where
  held : ∀ va, PoolOwns (s.pool p) va → isTrans va = true ∧ place va % 2 ^ 18 = va % 2 ^ 18 ∧
    ∃ x, s.tlbFind (l2Tlb va) (s.pool p).tenant va = some (place va / 2 ^ 18, true, x)
  apart : ∀ v w, PoolOwns (s.pool p) v → PoolOwns (s.pool p) w → place v = place w → v = w
  clear : (s.pool p).arena.toNat + 2 ^ (s.pool p).aord * (16 * (s.pool p).rbytes) ≤ (s.pool p).md.toNat ∨
    (s.pool p).md.toNat + 8 * 2 ^ (s.pool p).aord + 128 * (s.pool p).snum ≤ (s.pool p).arena.toNat
  aligned : (s.pool p).arena.toNat % 64 = 0 ∧ (s.pool p).md.toNat % 8 = 0
  runs : ∀ r ∈ (s.pool p).free, r.1 + 2 ^ r.2 ≤ 2 ^ (s.pool p).aord
  intact : Intact s
  form : Memory.wf s.mem = true

/-- The page word of page k (R303). -/
def Sys2Proof.wordOf (s : State) (p : Nat) (place : Nat → Nat) (k : Nat) : Nat := s.load (place ((s.pool p).wordVa k)) 8

/-- The descriptor of sequence `sid` is `d`: its sixteen words read so, and a FREE one reads 0 (R306). -/
def Sys2Proof.SeqIs (s : State) (p : Nat) (place : Nat → Nat) (sid : Nat) (d : SqDesc) : Prop :=
  ∀ j < 16, s.load (place ((s.pool p).descVa sid + 8 * j)) 8 = (if d.isOpen then d.bits else 0) / 2 ^ (64 * j) % 2 ^ 64

/-- The logical pages that a sequence holds (R306). -/
def Sys2Proof.heldPages (d : SqDesc) : List Nat := ((List.range d.cap).drop (d.w / 16)).map (physPage d.ext)

/-- What R306 says of every descriptor: the order of its lengths, its capacity, its entries, and held pages that differ and are not free. -/
structure Sys2Proof.SeqFits (x : Pool) (d : SqDesc) : Prop where
  free : d.isOpen = false → d = ⟨false, 0, 0, 0, 0, []⟩
  order : d.w ≤ d.lc ∧ d.lc ≤ d.lr ∧ d.lr ≤ 16 * d.cap
  cap : d.cap = (d.ext.map (·.2)).sum
  entries : d.ext.length ≤ 16 ∧ ∀ e ∈ d.ext, 1 ≤ e.2 ∧ e.2 ≤ 4096 ∧ e.1 + e.2 ≤ 2 ^ x.aord ∧ e.1 < 2 ^ 20
  distinct : (heldPages d).Nodup
  own : ∀ r ∈ x.free, ∀ k ∈ heldPages d, k < r.1 ∨ r.1 + 2 ^ r.2 ≤ k

/-- What a sequence command leaves: its answer, the descriptor of the one sequence that it changes, the page words, the free runs, and the bytes of the
arena by VA. -/
structure Sys2Proof.SeqEffect where
  answer : Nat
  sid : Nat
  seq : SqDesc
  word : Nat → Nat
  free : List (Nat × Nat)
  byte : Nat → Byte

/-- The lowest token of [lo, hi) that lies in a held page with COUNT above 1 (R310). -/
def Sys2Proof.sharedTok (W : Nat → Nat) (d : SqDesc) (lo hi : Nat) : Option Nat :=
  (((List.range ((hi + 15) / 16)).drop (lo / 16)).find? (fun j =>
    decide (d.w / 16 ≤ j) && decide (j < d.cap) && decide (1 < pwCount (W (physPage d.ext j))))).map (fun j => max lo (16 * j))

/-- Extents appended until the capacity holds `need` tokens: failure 2 at sixteen entries, failure 1 where no run is free (R307, R312). The new pages come
last. -/
def Sys2Proof.grown (iord need : Nat) : Nat → SqDesc → List (Nat × Nat) → List Nat → Except Nat (SqDesc × List (Nat × Nat) × List Nat)
  | 0, d, free, new => .ok (d, free, new)
  | f + 1, d, free, new =>
    if need ≤ 16 * d.cap then .ok (d, free, new)
    else if d.ext.length = 16 then .error 2
    else
      let k := if d.cap = 0 then iord else min (ilog2 d.cap) 12
      match allocRun free k with
      | none => .error 1
      | some (a, rest) =>
        grown iord need f { d with ext := d.ext ++ [(a, 2 ^ k)], cap := d.cap + 2 ^ k } rest (new ++ (List.range (2 ^ k)).map (· + a))

/-- Pages given up by a sequence: COUNT falls by 1, and a page at 0 without pins is free, with a word of 0 (R305, R319). -/
def Sys2Proof.givenUp (x : Pool) (W : Nat → Nat) (ks : List Nat) : (Nat → Nat) × List (Nat × Nat) :=
  let gone := fun k => ks.contains k && decide (pwCount (W k) ≤ 1) && decide (pwPins (W k) = 0)
  (fun k => if gone k then 0 else if k ∈ ks then pageWord (pwCount (W k) - 1) (pwMask (W k)) (pwDone (W k)) (pwPins (W k)) else W k,
    (ks.filter gone).foldl (fun f k => freeRun x.aord f k 0) x.free)

/-- The bits of a page's tokens that a list names (R315). -/
def Sys2Proof.tokBits (d : SqDesc) (ts : List Nat) (k : Nat) : Nat :=
  (ts.filter (fun t => physPage d.ext (t / 16) == k)).foldl (fun a t => a ||| 2 ^ (t % 16)) 0

/-- A piece of a record: SQST's bytes as they are, or SQSTR's with each pair of elements below RDIM rotated (R313, R314); with the lanes and flags that it
raises. -/
def Sys2Proof.pieceOf (x : Pool) (c : SeqCmd) (tok n len : Nat) : Nat × List (Nat × Flags) :=
  let raw := c.data.toNat % 2 ^ (8 * len)
  if c.minor = 1 then (raw, [])
  else
    let f := if x.cfg.getLsbD 27 then bf16 else fp32
    let w := f.bits
    let ps := (List.range (len / (w / 4))).map (fun i =>
      let e := 64 * n / (w / 8) + 2 * i
      let x0 := raw / 2 ^ (2 * w * i) % 2 ^ w
      let x1 := raw / 2 ^ (2 * w * i + w) % 2 ^ w
      if e < x.rdim then
        let y := rotPair f (ctlOf c.numctl) tok e (x.freq.getD (e / 2) 0).toNat x0 x1
        (y.1.1 + y.2.1 * 2 ^ w, [(e / 2 % 64, y.1.2 ||| y.2.2)])
      else (x0 + x1 * 2 ^ w, []))
    (ps.foldr (fun p a => p.1 + a * 2 ^ (2 * w)) 0, ps.flatMap (·.2))

/-- What a sequence command does to a pool with these page words W, arena bytes M and descriptors D, or the cause and TRAPVAL of its trap (R309, R310,
R312 to R320). `strm` says that the port of an SQRD is in STRM mode without a stream. -/
def Sys2Proof.seqEffect (x : Pool) (W : Nat → Nat) (M : Nat → Byte) (D : Nat → SqDesc) (strm : Bool) (c : SeqCmd) : Except (Nat × Nat) SeqEffect :=
  let d := D c.sid
  let tok := dfld c.ctl 31 0
  let n := dfld c.ctl 47 32
  let page := fun t => physPage d.ext (t / 16)
  let trap := fun cause => Except.error (cause, tok + c.sid * 2 ^ 32)
  let same := fun a => (⟨a, c.sid, d, W, x.free, M⟩ : SeqEffect)
  let unshared := fun (lo hi : Nat) (e : SeqEffect) => match sharedTok W d lo hi with
    | some t => Except.error (0x201, t + c.sid * 2 ^ 32)
    | none => Except.ok e
  if d.isOpen = false ∧ c.minor ≠ 0 ∧ c.minor ≠ 6 then trap 0x202
  else
    match c.minor with
    | 0 => unshared d.lr (d.lr + n) (match grown x.iord (d.lr + n) 17 { d with isOpen := true } x.free [] with
        | .error k => same (2 ^ 63 + k)
        | .ok (e, free, new) => ⟨d.lr, c.sid, { e with lr := d.lr + n }, fun k => if k ∈ new then 1 else W k, free, M⟩)
    | 1 | 2 =>
      let len := min (vlBits c.owner.tile / 8) (x.rbytes - 64 * n)
      let q := pieceOf x c tok n len
      let va := x.pageVa (page tok) + tok % 16 * x.rbytes + 64 * n
      if ¬ (d.lc ≤ tok ∧ tok < d.lr) ∨ bitOf (pwDone (W (page tok))) (tok % 16) then trap 0x204
      else if x.rbytes ≤ 64 * n then trap 0x205
      else if c.minor = 2 ∧ x.rdim = 0 then trap 0x206
      else match sharedTok W d tok (tok + 1), numericTrap c.numctl q.2 with
        | some t, _ => .error (0x201, t + c.sid * 2 ^ 32)
        | none, some (e, v) => .error (e, v.toNat)
        | none, none => .ok { same 0 with
            byte := fun a => if va ≤ a ∧ a < va + len then BitVec.ofNat 8 (q.1 / 2 ^ (8 * (a - va))) else M a }
    | 3 | 4 =>
      let ts := (List.range n).map (· + tok)
      let word := fun k => let b := tokBits d ts k
        pageWord (pwCount (W k)) (if c.minor = 3 then pwMask (W k) ||| b else pwMask (W k)) (pwDone (W k) ||| b) (pwPins (W k))
      let lc := d.lc + ((List.range (d.lr - d.lc)).find? (fun i => !bitOf (pwDone (word (page (d.lc + i)))) ((d.lc + i) % 16))).getD (d.lr - d.lc)
      if ¬ (d.lc ≤ tok ∧ tok + n ≤ d.lr) ∨ ts.any (fun t => bitOf (pwDone (W (page t))) (t % 16)) then trap 0x204
      else unshared tok (tok + n) { same lc with seq := { d with lc := lc }, word := word }
    | 5 => .ok (same (match n with
        | 0 => d.lc
        | 1 => d.w
        | 2 => d.lr
        | _ => if tok < d.lr ∧ d.w / 16 ≤ tok / 16 ∧ tok / 16 < d.cap then x.pageVa (page tok) + tok % 16 * x.rbytes else 0))
    | 6 =>
      let ks := ((List.range ((tok + 15) / 16)).drop (d.w / 16)).map (physPage d.ext)
      if ¬ (x.sbase ≤ n ∧ n < x.sbase + x.snum) then trap 0x203
      else if tok < d.w ∨ d.lc < tok then trap 0x208
      else if (D n).isOpen then .ok (same 1)
      else if ks.any (fun k => decide (pwCount (W k) = 0xFFFF)) then .ok (same 2)
      else .ok { same 0 with
        sid := n, seq := ⟨true, tok, tok, d.w, (tok + 15) / 16, cutExt d.ext ((tok + 15) / 16)⟩
        word := fun k => if k ∈ ks then pageWord (pwCount (W k) + 1) (pwMask (W k)) (pwDone (W k)) (pwPins (W k)) else W k }
    | 7 => let g := givenUp x W (heldPages d)
      .ok { same 0 with seq := ⟨false, 0, 0, 0, 0, []⟩, word := g.1, free := g.2 }
    | 8 => let g := givenUp x W (((List.range (tok / 16)).drop (d.w / 16)).map (physPage d.ext))
      if d.lc < tok then trap 0x208
      else if tok ≤ d.w then .ok (same d.w)
      else .ok { same tok with seq := { d with w := tok }, word := g.1, free := g.2 }
    | 9 =>
      let ts := (((List.range (min (tok + n) d.lc)).drop (max tok d.w)).filter (fun t => bitOf (pwMask (W (page t))) (t % 16)))
      if strm = false then trap 0x209
      else .ok { same ts.length with
        word := fun k => if (ts.map page).contains k && !(pwCount (W k) == 0 && pwPins (W k) == 0) then
          pageWord (pwCount (W k)) (pwMask (W k)) (pwDone (W k)) (pwPins (W k) + 1) % 2 ^ 64 else W k }
    | _ =>
      let j := tok / 16
      let old := physPage d.ext j
      if ¬ (d.w / 16 ≤ j ∧ j < d.cap) then trap 0x207
      else if pwCount (W old) = 1 then .ok (same 1)
      else if 16 < (replacePage d.ext j 0).length then .ok (same 3)
      else match allocRun x.free 0 with
        | none => .ok (same 2)
        | some (new, free) =>
          let keep := 2 ^ min (d.lr - 16 * j) 16 - 1
          .ok ⟨0, c.sid, { d with ext := replacePage d.ext j new },
            fun k => if k = old then pageWord (pwCount (W old) - 1) (pwMask (W old)) (pwDone (W old)) (pwPins (W old))
              else if k = new then pageWord 1 (pwMask (W old) &&& keep) (pwDone (W old) &&& keep) 0 else W k,
            free, fun a => if x.pageVa new ≤ a ∧ a < x.pageVa new + 16 * x.rbytes then M (x.pageVa old + (a - x.pageVa new)) else M a⟩

/-- A pool after a command, with exactly this effect: its words, its descriptors, its arena and its free runs; no byte outside the pool changes. -/
structure Sys2Proof.SeqLeft (s t : State) (p : Nat) (place : Nat → Nat) (cs : List SeqCmd) (e : SeqEffect) : Prop where
  pool : t.pool p = { s.pool p with cmds := cs, free := e.free }
  words : ∀ k < 2 ^ (s.pool p).aord, wordOf t p place k = e.word k
  seq : SeqIs t p place e.sid e.seq
  others : ∀ i, (s.pool p).sbase ≤ i → i < (s.pool p).sbase + (s.pool p).snum → i ≠ e.sid → ∀ j < 16,
    t.load (place ((s.pool p).descVa i + 8 * j)) 8 = s.load (place ((s.pool p).descVa i + 8 * j)) 8
  arena : ∀ va, (s.pool p).arena.toNat ≤ va → va < (s.pool p).arena.toNat + 2 ^ (s.pool p).aord * (16 * (s.pool p).rbytes) →
    memGet t.mem (place va) = e.byte va
  rest : ∀ a, (∀ va, PoolOwns (s.pool p) va → place va ≠ a) → memGet t.mem a = memGet s.mem a

/-- The address of a mailbox (R367). -/
def Sys2Proof.mboxVa (k off : Nat) : Dword := BitVec.ofNat 64 (0xFE0000000000 + k * 512 + off)

/-- The descriptor at g[A], read through cached translations (R272, R281). -/
def Sys2Proof.DescriptorAt (s : State) (va : Dword) (x : Nat) : Prop :=
  ∃ p q, Reachable s va 64 0 s p ∧ Reachable s (va + 64) 64 0 s q ∧ x = s.load p 64 + s.load q 64 * 2 ^ 512

/-- TCOPY, TSLIDE and LPREF: minor, near address, descriptor address, start register and extension words (R279 to R283). -/
def Sys2Proof.copyForm (s : State) : Instr → Option (Nat × Dword × Dword × BitVec 5 × BitVec 32 × BitVec 32)
  | .tcopy d a b x => some (0, s.rg d, s.rg a, b, x, 0)
  | .tslide d a b x y => some (1, s.rg d, s.rg a, b, x, y)
  | .lpref a b x => some (2, 0, s.rg a, b, x, 0)
  | _ => none

/-- No trace ring records, and every location can be read (R340, R423). -/
def Sys2Proof.Unwatched (s : State) : Prop := Intact s ∧ ∀ t, (s.tile t).trctl.getLsbD 0 = false

/-- Nobody waits for a tag, and no slot is armed (R259, R360). -/
def Sys2Proof.NoneWatchTags (s : State) : Prop := (∀ k, (s.tile k).waits = []) ∧ ∀ k off, s.armedOn k off = none

/-- The queue of a tile with a copy command replaced (R270). -/
def Sys2Proof.copyNow (s : State) (tile : Nat) (c e : CopyCmd) : List CopyCmd := (s.tile tile).bte.map (fun y => if y.id = c.id then e else y)

/-- No thread but one waits for a record word (R288). -/
def Sys2Proof.OnlyWaiter (s : State) (loc : Nat) (r : Option BankRef) : Prop :=
  ∀ e ∈ s.ctxs, ∀ bank < 2, r ≠ some ⟨e.1 / 8, e.1 % 8, bank⟩ → (if bank = 0 then e.2.b0 else e.2.b1).waitsCopy loc = false

/-- A matrix instruction that only enters its queue: minor, g[A], control word, and the vector that MWRA takes at issue (R225). -/
def Sys2Proof.matrixForm (s : State) : Instr → Option (Nat × Dword × Dword × Vec)
  | .mwld a b => some (0, s.rg a, s.rg b, 0)
  | .mwswap => some (1, 0, 0, 0)
  | .mstrm a b => some (2, s.rg a, s.rg b, 0)
  | .mzero b => some (3, 0, s.rg b, 0)
  | .mwra a b => some (5, 0, s.rg b, s.me.rv a.toNat)
  | .mgath a b => some (7, s.rg a, s.rg b, 0)
  | .mxswap => some (8, 0, 0, 0)
  | _ => none

/-- The tile's unit is free for the running thread: leash code has its own part, and a task needs a unit that is not being cleared and that no
other task owns (R213). -/
def Sys2Proof.MatrixOpen (s : State) : Prop :=
  s.me.kind = 2 ∨ ((s.tile s.cur.1).mx.clearing = false ∧
    ((s.tile s.cur.1).mx.owner = none ∨ (s.tile s.cur.1).mx.owner = some s.me.task))

/-- The tile's unit after a command has entered: a task's first command makes the task its owner, with the steps counted from 0, and the command joins the
task's queue or the leash queue (R213, R222). -/
def Sys2Proof.queued (s : State) (c : MxCmd) : State :=
  let t := s.tile s.cur.1
  let m := if s.me.kind = 2 ∨ t.mx.owner.isSome then t.mx else { t.mx with owner := some s.me.task, steps := 0 }
  { s.setTile s.cur.1 { t with mx := if s.me.kind = 2 then { m with lq := m.lq ++ [c] } else { m with tq := m.tq ++ [c] } } with fresh := s.fresh + 1 }

/-- The queue of the running thread has a free entry, and no thread waits for one (R222). That a started command holds no entry is the model's reading (log entry 32). -/
def Sys2Proof.queueRoom (s : State) : Prop :=
  s.mxWaiters s.cur.1 (s.me.kind == 2) = [] ∧ if s.me.kind = 2 then ((s.tile s.cur.1).mx.lq.filter (fun c => c.started.isNone)).length < 4
  else ((s.tile s.cur.1).mx.tq.filter (fun c => c.started.isNone)).length < 8

/-- A command without a remote sender or a thread that waits in MWAIT for it. -/
def Sys2Proof.Alone (s : State) (c : MxCmd) : Prop :=
  c.remote = false ∧ c.notify = none ∧ (s.bank c.owner).wait ≠ some .mwait

/-- The unit without a command (R223). -/
def Sys2Proof.without (m : Matrix) (c : MxCmd) : Matrix := { m with tq := m.tq.filter (fun x => x.id != c.id), lq := m.lq.filter (fun x => x.id != c.id) }

/-- The only command of a tile's unit (R222). -/
def Sys2Proof.OnlyCommand (m : Matrix) (leash : Bool) (c : MxCmd) : Prop := if leash then m.lq = [c] ∧ m.tq = [] else m.tq = [c] ∧ m.lq = []

/-- When a command may start behind the commands before it of its queue, all of which have started (R222 to R224): a load once no MWSWAP is pending, and an
LDT has read its rows; MWSWAP once every load is complete; MXSWAP once every command on a bank is; a step once its record and scale words are read, no exchange is pending,
the rows of the steps before it have entered, no other command uses its bank, and, for leash code, its plane is loaded; and the others once their bank is free. -/
def Sys2Proof.MayStart (s : State) (tile : Nat) (leash : Bool) (pre : List MxCmd) (c : MxCmd) : Prop :=
  match c.minor with
  | 0 | 16 => (∀ x ∈ pre, x.minor ≠ 1) ∧ c.todo = []
  | 1 => ∀ x ∈ pre, x.isLoad = false
  | 8 => ∀ x ∈ pre, x.usesBank = false ∧ x.minor ≠ 8
  | 2 | 7 => c.readDone = true ∧ ∀ x ∈ pre, x.minor ≠ 1 ∧ x.minor ≠ 8 ∧ (x.isStep = true → x.rows.length = x.n ∧ x.after tile ≤ s.cycle) ∧
      (x.isStep = false → x.usesBank = true → x.bank ≠ c.bank) ∧ (leash = true → x.isLoad = false)
  | _ => ∀ x ∈ pre, x.minor ≠ 8 ∧ (x.usesBank = true → x.bank ≠ c.bank)

/-- One lane that MRDA reads out of an EA40 element: rounded to FP32 or BF16, or converted to INT32, under the thread's NUMCTL (R231; the column and row that RSD takes
for INT32 are the model's, log entry 31). -/
def Sys2Proof.lanesRead (c : MxCmd) (col : Nat) (v : BitVec 40) : Res :=
  let x := ea40.read false v.toNat
  if c.f 31 30 = 0 then roundTo fp32 (ctlOf c.ga) col c.row0 [x] x
  else if c.f 31 30 = 1 then roundTo bf16 (ctlOf c.ga) col c.row0 [x] x
  else fToInt 32 (ctlOf c.ga) col c.row0 x

/-- The queue after an instruction that only moves on, or changes the queue's own stacks, priority or mark; `none` where it is no such instruction or the
stacks refuse it. The pointer wraps in a ring and not in an indirect buffer (R98, R100 to R102, R107, R108, R110). -/
def Sys2Proof.queueAfter (q : Queue) (len : Nat) (i : Instr) : Option Queue :=
  let next := if q.ibs.isEmpty then (q.ip + len) % 2 ^ (12 + min q.size 12) else q.ip + len
  let level := q.ibs.length
  match i with
  | .qnop _ => some { q with ip := next }
  | .qff => some { q with ip := next }
  | .qprio p => some { q with ip := next, prio := min p.toNat q.prioMax }
  | .qib va n =>
    if level < 2 ∧ va.toNat % 4 = 0 ∧ n.toNat % 4 = 0 ∧ 4 ≤ n.toNat ∧ n.toNat ≤ 2 ^ 24 then
      some { q with ibs := ⟨va.setWidth 48, n.toNat, next⟩ :: q.ibs, ip := 0 }
    else none
  | .qret =>
    match q.ibs with
    | b :: rest =>
      if q.loops.all (fun l => l.level != level) && q.preds.all (fun l => l != level) then some { q with ibs := rest, ip := b.ret } else none
    | [] => none
  | .qendp => if q.preds.head? = some level then some { q with ip := next, preds := q.preds.tail } else none
  | .qloop count => if q.loops.length < 2 then some { q with ip := next, loops := ⟨count, next, level⟩ :: q.loops } else none
  | .qendl =>
    match q.loops with
    | l :: rest =>
      if l.level ≠ level then none
      else if l.count = 1 then some { q with ip := next, loops := rest }
      else some { q with ip := l.start, loops := { l with count := l.count - 1 } :: rest }
    | [] => none
  | .qmark kind id => if kind = 3 then some { q with ip := next, markv := id } else none
  | _ => none

/-- A queue fault's cause for the stack errors and the malformed buffers (R100 to R102). -/
def Sys2Proof.stackFault (i : Instr) : Option Nat :=
  match i with
  | .qib _ _ => some 0x2C4
  | .qret => some 0x2C5
  | .qendp => some 0x2C5
  | .qloop _ => some 0x2C5
  | .qendl => some 0x2C5
  | _ => none

/-- Nothing differs but the queues, the TLB and the walks, which a fetch may fill and begin, and the choice of the queue's engine, which is free again when it was this queue
(R89). -/
def Sys2Proof.QueueOnly (s t : State) (k : Nat) : Prop :=
  t = { s with queues := t.queues, tlb := t.tlb, walks := t.walks, serving := if tget 0 s.serving (k / 8) = k + 1 then tset s.serving (k / 8) 0 else s.serving } ∧ ∀ j, j ≠ k → t.queue j = s.queue j

/-- A queue has completed an instruction and is now `p`: the instruction is counted, QHEAD follows at level 0, and the queue runs on, or is idle when the ring
holds nothing more (R88, R89, R100). -/
def Sys2Proof.QueueHas (s t : State) (k : Nat) (p : Queue) : Prop :=
  let r := t.queue k
  r = { p with
    exec := (s.queue k).exec + 1, hold := none, pass := none, head := if p.ibs.isEmpty then p.ip else (s.queue k).head
    st := r.st, ahead := r.ahead, block := r.block } ∧
    (r.st = 1 ∨ r.st = 2) ∧ (p.ibs ≠ [] → r.st = 2) ∧ (p.ibs = [] → p.ip = p.tail → r.st = 1)

/-- A queue has faulted: FAULT, the cause, and the VA and level of the instruction; a record is logged, and nothing else of the machine moves (R93). -/
def Sys2Proof.QueueFaulted (s t : State) (k cause : Nat) (pc : Va) (level : Nat) : Prop :=
  t.queue k = { s.queue k with st := 5, cause := cause, faultPc := pc, faultLvl := level, hold := none, pass := none } ∧
    t.mem = s.mem ∧ t.ctxs = s.ctxs ∧ t.tiles = s.tiles ∧ t.launches = s.launches ∧ ∀ j, j ≠ k → t.queue j = s.queue j

/-- VA of the queue's next instruction (R84, R100). -/
def Sys2Proof.queueVa (q : Queue) : Va :=
  match q.ibs with
  | [] => BitVec.ofNat 48 (q.base.toNat * 4096 / 2 ^ (12 + min q.size 12) * 2 ^ (12 + min q.size 12) + q.ip % 2 ^ (12 + min q.size 12))
  | b :: _ => BitVec.ofNat 48 (b.base.toNat + q.ip)

/-- A queue's access to memory that the checks accept: the state after them, and the location (R94, R103, R254). -/
def Sys2Proof.QueueReaches (s : State) (k va n kind : Nat) (u : State) (loc : Nat) : Prop :=
  s.check ⟨512, (s.queue k).tenant, .other⟩ va n kind = (u, .ok (.mem loc)) ∧ loc < 2 ^ 46 ∧ Intact s

/-- The conditions of R97. -/
def Sys2Proof.conditionHolds (c : Nat) (w x : Dword) : Bool :=
  match c with
  | 0 => decide (w = x)
  | 1 => decide (w ≠ x)
  | 2 => decide (w.toNat < x.toNat)
  | 3 => decide (x.toNat ≤ w.toNat)
  | 4 => (List.range 64).all (fun j => !x.getLsbD j || w.getLsbD j)
  | _ => (List.range 64).any (fun j => x.getLsbD j && w.getLsbD j)

/-- The doubleword at a location (R3). -/
def Sys2Proof.WordAt (m : List (Nat × Byte)) (loc : Nat) (w : Dword) : Prop := ∀ j < 64, w.getLsbD j = memBit m loc 8 false j

/-- No queue of the engine waits in WAIT (R105). -/
def Sys2Proof.NoneWaits (s : State) (k : Nat) : Prop :=
  ∀ j, j / 8 = k / 8 → ∀ c va x o f len, (s.queue j).hold ≠ some (.wait c va x o f, len)

/-- The queue past its running instruction. -/
def Sys2Proof.onward (q : Queue) (len : Nat) : Queue :=
  { q with ip := if q.ibs.isEmpty then (q.ip + len) % 2 ^ (12 + min q.size 12) else q.ip + len }

/-- A function that may write a tenant's registers: the device is READY, the function is the physical one or the tenant's own, and no earlier access of it
waits at a matrix unit (R26, R215, R439, R455). -/
def Sys2Proof.HostMay (s : State) (fn t : Nat) : Prop :=
  s.boot.phase = 6 ∧ fn ≤ min 8 s.numVf ∧ (fn = 0 ∨ (tget 0 s.fnten fn).toNat = 64 + t) ∧ s.hostClear fn = true

/-- A queue with the fields of QCTL that every write reaches (R85, R110). -/
def Sys2Proof.withCtl (q : Queue) (val : Dword) : Queue :=
  { q with prioMax := dfld val 7 4, evec := dfld val 18 14, eien := val.getLsbD 19, prio := min q.prio (dfld val 7 4) }

/-- A queue that has forgotten its stream: pointers, stacks, waits and fetched words are gone (R86, R90). -/
def Sys2Proof.forgotten (q : Queue) : Queue :=
  { q with head := 0, tail := 0, ip := 0, ibs := [], loops := [], preds := [], ahead := [], block := none, hold := none, pass := none
           skip := none }

/-- A bank that waits for no page of a WACRD or WACCLR. -/
def Sys2Proof.NoWac (b : Bank) : Prop := ∀ d i clr sent, b.wait ≠ some (.wac d i clr sent)

/-- An aperture of a function: its register and the address of an offset (R250). -/
def Sys2Proof.apertureOf (s : State) (fn off : Nat) (reg : Dword) (addr : Nat) : Prop :=
  let size := 2 ^ (27 + tget 0 s.boot.bar2 fn)
  reg = tget 0 s.b2ap (8 * fn + off / size) ∧ addr = dfld reg 47 12 * 4096 / size * size + off % size

/-- The device log has taken one record with this cause, severity, engine and detail, or has lost it because it is full (R393, R394, R396, R432). -/
def Sys2Proof.Recorded (s t : State) (cause sev engine : Nat) (detail : Dword) : Prop :=
  if (s.log.head + 1) % 256 = s.log.tail then t.log = { s.log with lost := true }
  else ∃ x : BitVec 512, t.log = { recs := tset s.log.recs s.log.head x, head := (s.log.head + 1) % 256, tail := s.log.tail, lost := false } ∧
    (x.extractLsb' 0 10).toNat = cause ∧ (x.extractLsb' 10 6).toNat = sev ∧ (x.extractLsb' 16 16).toNat = engine ∧ x.extractLsb' 320 64 = detail

/-- Every Headframe tile's local store holds an image from where the firmware places it, as much as fits, and no other byte has changed (R33, R421, log entry
97). -/
def Sys2Proof.ImageLoaded (s t : State) (image : List Byte) : Prop :=
  (∀ k < 400, s.headframe k = true → ∀ j < 0x100000, memGet t.mem (lsLoc k j) =
    if Config.imageAt k % 0x100000 ≤ j then image.getD (j - Config.imageAt k % 0x100000) (memGet s.mem (lsLoc k j)) else memGet s.mem (lsLoc k j)) ∧
  ∀ a, (∀ k < 400, s.headframe k = true → a < lsLoc k 0 ∨ lsLoc k 0x100000 ≤ a) → memGet t.mem a = memGet s.mem a

/-- A version, as major times 256 plus minor, that a range word covers (R36, R37). -/
def Sys2Proof.Covers (r : BitVec 32) (v : Nat) : Prop := (r.extractLsb' 0 16).toNat ≤ v ∧ v ≤ (r.extractLsb' 16 16).toNat

/-- The result word of negotiating two ranges: the greatest version that both cover, with bit 16 set, or 0 when no version is common (R37, R38). -/
def Sys2Proof.Negotiated (a b : BitVec 32) (x : Dword) : Prop :=
  (∃ v, Covers a v ∧ Covers b v ∧ x = BitVec.ofNat 64 (v + 2 ^ 16) ∧ ∀ w, Covers a w → Covers b w → w ≤ v) ∨ (x = 0 ∧ ∀ w, ¬ (Covers a w ∧ Covers b w))

/-- A Porsol message of a type, as R414 lays it out. -/
def Sys2Proof.Message (m : BitVec 512) (type : Nat) : Prop :=
  m.extractLsb' 0 32 = 0x53505A47#32 ∧ (m.extractLsb' 48 8).toNat = type ∧ m.extractLsb' 56 8 = 0#8 ∧ m.extractLsb' 144 48 = 0#48

/-- A message lands in its slot, numbered by its sequence, and renews the peer's liveness (R414, R415). -/
def Sys2Proof.landedAt (p : Peer) (m : BitVec 512) (dtb : Nat) : Peer :=
  { p with slots := tset p.slots ((m.extractLsb' 64 64).toNat % 64) m, lastMsg := dtb }

/-- A peer that has sent a message of a type and with a version, numbered in its turn (R414). -/
def Sys2Proof.Sends (p q : Peer) (type : Nat) (ver : Dword) : Prop :=
  ∃ m, Message m type ∧ m.extractLsb' 32 16 = ver.extractLsb' 0 16 ∧ q = { p with sent := p.sent ++ [m], seq := p.seq + 1 } ∧ (m.extractLsb' 64 64).toNat = p.seq % 2 ^ 64

/-- The launch at a position in the list of live launches, in order of acceptance. -/
def Sys2Proof.LaunchAt (s : State) (n : Nat) (l : Launch) : Prop := s.launches[n]? = some l ∧ ∀ x ∈ s.launches, x.key = l.key → x = l

/-- The queue that a rule picks among some: the lowest priority, and among equals the highest number (R125, R398). -/
def Sys2Proof.Victim (s : State) (may : Nat → Prop) (k : Nat) : Prop :=
  k < 64 ∧ may k ∧ ∀ j < 64, may j → (s.queue k).prio < (s.queue j).prio ∨ ((s.queue k).prio = (s.queue j).prio ∧ j ≤ k)

/-- A queue at a rung: its deepest rung, its cause, and, from rung 2 on, SAVED with nothing fetched and nothing waited for; one that is off or in FAULT stays so,
and one that the starvation watchdog chose keeps running (R86, R93, R112, R125, R399). -/
def Sys2Proof.atRung (q : Queue) (d : Ladder) (cause : Nat) : Queue :=
  if d.rung = 1 ∨ d.starve = true ∨ q.en = false ∨ q.st = 5 then { q with ladder := some d, prung := max q.prung d.rung, cause := cause }
  else { q with ladder := some d, prung := max q.prung d.rung, cause := cause, st := 6, ahead := [], block := none, hold := none }
end

