-- ==== Sys2Proof/Certificates/Slice0/Obligations.lean ====
section
/-! DEFINITION. The statements about this machine, and the tables of results that they name, written from the rules cited. -/

open Sys2Proof Sys2Proof.Machine

/-! ### Scalar instructions -/

/-- Every BITS instruction that moves bits writes them and completes; nothing else changes (R186, R187). -/
def Sys2Proof.BitsMove : Prop :=
  ∀ (s : State) (i : Instr) (d : BitVec 5) (f : Nat → Bool), Quiet s → bitsResult s i = some (d, f) →
    ∃ x p, (∀ k < 64, x.getLsbD k = f k) ∧ exec i s = .next (ended s { s.me.wg d.toNat x with pend := p })

/-- POPC counts the 1 bits, CLZ and CTZ the 0 bits above the highest and below the lowest 1 bit, 64 for 0 (R186). -/
def Sys2Proof.BitsCount : Prop :=
  ∀ (s : State) (d a : BitVec 5), Quiet s →
    (∃ p, exec (.popc d a) s = .next (ended s { s.me.wg d.toNat
      (BitVec.ofNat 64 ((List.range 64).filter (fun k => (s.rg a).getLsbD k)).length) with pend := p })) ∧
    (∃ p, exec (.clz d a) s = .next (ended s { s.me.wg d.toNat
      (BitVec.ofNat 64 ((List.range 64).takeWhile (fun k => !(s.rg a).getLsbD (63 - k))).length) with pend := p })) ∧
    (∃ p, exec (.ctz d a) s = .next (ended s { s.me.wg d.toNat
      (BitVec.ofNat 64 ((List.range 64).takeWhile (fun k => !(s.rg a).getLsbD k)).length) with pend := p }))

/-- Every BITS instruction writes the bits or the count that its entry gives and completes; nothing else changes (R186, R187). -/
def Obligations.BitInstructionsAreExact : Prop := BitsMove ∧ BitsCount

/-- Every scalar instruction writes its result and completes, division by 0 included, and C.NOP only completes; nothing else changes (R175, R178 to R185,
R188, R70). -/
def Obligations.ScalarInstructionsWriteTheirResult : Prop :=
  (∀ (s : State) (i : Instr) (d : BitVec 5) (x : Dword), Quiet s → scalarResult s i = some (d, x) →
    ∃ p, exec i s = .next (ended s { s.me.wg d.toNat x with pend := p })) ∧
  ∀ s : State, Quiet s → exec .cNop s = .next (ended s s.me)

/-! ### Transfers of control -/

/-- The address `n` halfwords from the running instruction (R62). -/
def Sys2Proof.away (s : State) (n : Int) : Va := s.me.pc + BitVec.ofInt 48 (2 * n)

/-- A branch whose condition holds goes to its target and any other one to the next instruction; nothing else changes (R189, R190). -/
def Sys2Proof.BranchesFollow : Prop :=
  ∀ (s : State) (i : Instr) (c : Bool) (n : Int), Quiet s → branchOf s i = some (c, n) →
    exec i s = .next (if c then jumpedTo s s.me (away s n) else ended s s.me)

/-- DBNZ writes g[A] - 1 and branches unless that is 0; on g0 it writes nothing and always branches (R190). -/
def Sys2Proof.DbnzDecrements : Prop :=
  ∀ (s : State) (a : BitVec 5) (o : BitVec 12), Quiet s →
    ∃ p, exec (.dbnz a o) s = .next
      (if s.rg a = 1 then ended s { s.me.wg a.toNat 0 with pend := p }
       else jumpedTo s { s.me.wg a.toNat (s.rg a - 1) with pend := p } (away s o.toInt))

/-- J and C.J go to their target, JL also writes the address of the next instruction into g1, JR, JLR and C.JR go to bits [47:0] of an
even g[A], and JLR also writes that link into g[D]; nothing else changes (R191, R192, R70). -/
def Sys2Proof.JumpsReach : Prop :=
  ∀ (s : State) (i : BitVec 25) (o : BitVec 10) (d a : BitVec 5), Quiet s →
    exec (.j i) s = .next (jumpedTo s s.me (away s i.toInt)) ∧
    exec (.cJ o) s = .next (jumpedTo s s.me (away s o.toInt)) ∧
    (∃ p, exec (.jl i) s = .next (jumpedTo s { s.me.wg 1 ((s.me.pc + 4).setWidth 64) with pend := p } (away s i.toInt))) ∧
    ((s.rg a).getLsbD 0 = false →
      exec (.jr a) s = .next (jumpedTo s s.me ((s.rg a).setWidth 48)) ∧
      exec (.cJr a) s = .next (jumpedTo s s.me ((s.rg a).setWidth 48)) ∧
      ∃ p, exec (.jlr d a) s = .next (jumpedTo s { s.me.wg d.toNat ((s.me.pc + 4).setWidth 64) with pend := p } ((s.rg a).setWidth 48)))

/-- JR, JLR and C.JR through an odd address trap with 0x008 and write no link; C.ILL and refused bits trap with their cause, which is
never that of EBRK or of an activation's ceiling. TRAPADDR is the instruction's address, and TRAPVAL its bits (R59, R72, R388). -/
def Sys2Proof.OddTargetsTrap : Prop :=
  ∀ (s : State) (d a : BitVec 5) (n : BitVec 10), Trappable s →
    let at_ := fun (c : Nat) => Host.Outcome.next (trapEntered s s.me.pc c (s.iaddr.setWidth 64) (s.ibits.setWidth 64))
    ((s.rg a).getLsbD 0 = true → exec (.jr a) s = at_ 0x008 ∧ exec (.jlr d a) s = at_ 0x008 ∧ exec (.cJr a) s = at_ 0x008) ∧
    exec (.cIll n) s = at_ 0x001 ∧
    ∀ (cause : BitVec 10) (bits : BitVec 32), cause ≠ 0x3F0 → cause ≠ 0x247 →
      exec (.illegal cause bits) s = .next (trapEntered s s.me.pc cause.toNat (s.iaddr.setWidth 64) (bits.setWidth 64))

/-- Every branch follows its condition; every jump reaches an even target, and traps with 0x008 on an odd one (R189 to R192, R59, R70).
Forms that complete here, each with its effect: beq, bne, blt, bge, bltu, bgeu, bbs, bbc, beqz, bnez, bltz, bgez, bgtz, blez, cBeqz, cBnez, dbnz, j, cJ, jl,
jr, cJr, jlr, cIll, illegal. -/
def Obligations.ControlTransfersReachTheirTarget : Prop := BranchesFollow ∧ DbnzDecrements ∧ JumpsReach ∧ OddTargetsTrap

/-! ### Vector instructions -/

/-- An element-wise instruction writes its lanes and ORs their exceptions into NUMCTL's sticky flags, unless an exception's trap is enabled:
then it traps, with nothing written. Nothing else changes. -/
def Sys2Proof.LaneByLane (form : State → Instr → Option LaneForm) : Prop :=
  ∀ (s : State) (i : Instr) (f : LaneForm), VectorQuiet s → form s i = some f →
    (numericTrap s.me.numctl (laneFlags s f) = none →
      ∃ x p, (∀ k < s.vl / f.width, laneOf x f.width k = (laneResult s f k).1 % 2 ^ f.width) ∧ x.toNat < 2 ^ s.vl ∧
        exec i s = .next (ended s ({ s.me.wv f.dest.toNat x with pend := p }.raise (orFlags (laneFlags s f))))) ∧
    ∀ c v, numericTrap s.me.numctl (laneFlags s f) = some (c, v) → Trappable s → exec i s = .next (trapEntered s s.me.pc c 0 v)

/-- Every VI16, VI32 and V8 instruction works lane by lane, on integers of 16 and 32 bits and on four elements of each lane (R200, R202). -/
def Obligations.IntegerVectorsWorkLaneByLane : Prop := LaneByLane lanesOfI16 ∧ LaneByLane lanesOfI32 ∧ LaneByLane lanesOfV8

/-- Every VFP instruction works lane by lane in its format (R201). -/
def Obligations.FloatVectorsWorkLaneByLane : Prop := LaneByLane lanesOfF32 ∧ LaneByLane lanesOfBf16 ∧ LaneByLane lanesOfF16

/-- Every element-wise VMISC instruction, and VUNPK8, moves its lanes (R203, R207). -/
def Sys2Proof.LaneMoves : Prop := LaneByLane lanesOfMoves

/-- Every element-wise VCVT instruction, and VDQ4, converts its lanes (R206, R208). -/
def Sys2Proof.ConvertLanes : Prop := LaneByLane lanesOfConversions

/-- Every VSFU instruction works lane by lane, whatever values the implementation's free choices within the bounds take (R209, R210; log
entry 8). -/
def Sys2Proof.SpecialLanes : Prop := LaneByLane lanesOfSpecials

/-- The exact special results of R210: the reciprocal of ∞ and of 0, the square root of a negative number, the exponential of 0, and the sine of
∞, in both formats, whatever the free number. -/
def Sys2Proof.SpecialCorners : Prop :=
  ∀ (f : Fmt) (c : Ctl) (lane pick : Nat) (s : Bool), (f = fp32 ∨ f = bf16) →
    sfuLane 0 f c lane pick (f.sign s + f.infCode) = (f.sign s, 0) ∧
    sfuLane 0 f c lane pick (f.sign s) = (f.sign s + f.infCode, flDZ) ∧
    sfuLane 2 f c lane pick (f.sign true + f.infCode) = (f.canon, flNV) ∧
    sfuLane 3 f c lane pick (f.sign s) = (f.bias * 2 ^ f.mb, 0) ∧
    sfuLane 6 f c lane pick (f.sign s + f.infCode) = (f.canon, flNV)

/-- Every special function works lane by lane, and its special results are exact (R209, R210). -/
def Obligations.SpecialFunctionsWorkLaneByLane : Prop := SpecialLanes ∧ SpecialCorners

/-- VMERGE picks each lane of A or B by the mask and writes every lane, and VPACK8 writes byte p · L + i from the low byte of active lane i;
neither raises anything (R203, R207). -/
def Sys2Proof.MergeAndPack : Prop :=
  ∀ (s : State) (d a b m : BitVec 5), VectorQuiet s →
    (∃ x p, (∀ k < s.vl / 32, laneOf x 32 k = if m = 0 ∨ (s.rg m).getLsbD k then src s a 32 k else src s b 32 k) ∧ x.toNat < 2 ^ s.vl ∧
      exec (.vmerge d a b m) s = .next (ended s { s.me.wv d.toNat x with pend := p })) ∧
    ∃ x p, (∀ k < s.vl / 8, laneOf x 8 k =
        if k / (s.vl / 32) = (s.rg b).toNat % 4 ∧ (m = 0 ∨ (s.rg m).getLsbD (k % (s.vl / 32))) then src s a 32 (k % (s.vl / 32)) % 256
        else src s d 8 k) ∧ x.toNat < 2 ^ s.vl ∧
      exec (.vpack8 d a b m) s = .next (ended s { s.me.wv d.toNat x with pend := p })

/-- Every instruction that moves lanes moves them as its entry says (R203, R207). -/
def Obligations.LaneMovesWorkLaneByLane : Prop := LaneMoves ∧ MergeAndPack

/-- VQ4 writes the code of each active lane i at code index start + i, modulo the register's codes, and leaves every other code, unless an enabled
exception traps (R208). -/
def Sys2Proof.QuantiseCodes : Prop :=
  ∀ (s : State) (d a b m : BitVec 5), VectorQuiet s →
    let start := (s.rg b).toNat / 2 ^ 16 % 2 ^ 8
    let on := fun (i : Nat) => m = 0 ∨ (s.rg m).getLsbD i
    let r := fun (i : Nat) => if on i then q4Quant s.ctl i (start + i) ((s.rg b).toNat % 2 ^ 16) (fp32.read s.ctl.ftz (src s a 32 i)) else (0, 0)
    let fl := (List.range (s.vl / 32)).map (fun i => (i, (r i).2))
    numericTrap s.me.numctl fl = none →
      ∃ x p, (∀ i < s.vl / 32, on i → laneOf x 4 ((start + i) % (s.vl / 4)) = (r i).1 % 16) ∧
        (∀ k < s.vl / 4, (∀ i < s.vl / 32, on i → k ≠ (start + i) % (s.vl / 4)) → laneOf x 4 k = src s d 4 k) ∧
        exec (.vq4 d a b m) s = .next (ended s ({ s.me.wv d.toNat x with pend := p }.raise (orFlags fl)))

/-- Every conversion works lane by lane, the Q4 ones included (R206, R208). -/
def Obligations.ConversionsWorkLaneByLane : Prop := ConvertLanes ∧ QuantiseCodes

/-- VEXT reads one lane into g[D], VWHILE sets bit i while g[A] + i < g[B], VLQ and VLANES count lanes, and MFIRST keeps the lowest 1 bit (R199,
R203). -/
def Sys2Proof.PredicatesExact : Prop :=
  ∀ (s : State) (d a b : BitVec 5), VectorQuiet s →
    (∃ p, exec (.vext16 d a b) s = .next (ended s { s.me.wg d.toNat (BitVec.ofNat 64 (srcAt s a 16 (s.rg b).toNat)) with pend := p })) ∧
    (∃ p, exec (.vext32 d a b) s = .next (ended s { s.me.wg d.toNat (BitVec.ofNat 64 (srcAt s a 32 (s.rg b).toNat)) with pend := p })) ∧
    (∃ x p, (∀ i < 64, x.getLsbD i = (decide (i < s.vl / 16) && decide ((s.rg a).toNat + i < (s.rg b).toNat))) ∧
      exec (.vwhile16 d a b) s = .next (ended s { s.me.wg d.toNat x with pend := p })) ∧
    (∃ x p, (∀ i < 64, x.getLsbD i = (decide (i < s.vl / 32) && decide ((s.rg a).toNat + i < (s.rg b).toNat))) ∧
      exec (.vwhile32 d a b) s = .next (ended s { s.me.wg d.toNat x with pend := p })) ∧
    (∃ x p, (∀ i < 64, x.getLsbD i = (decide (i < s.vl / 64) && decide ((s.rg a).toNat + i < (s.rg b).toNat))) ∧
      exec (.vwhile64 d a b) s = .next (ended s { s.me.wg d.toNat x with pend := p })) ∧
    (∃ p, exec (.vlq d) s = .next (ended s { s.me.wg d.toNat (BitVec.ofNat 64 (s.vl / 8)) with pend := p })) ∧
    (∃ p, exec (.vlanes d a) s = .next (ended s { s.me.wg d.toNat
      (if s.rg a = 8 ∨ s.rg a = 16 ∨ s.rg a = 32 ∨ s.rg a = 64 then BitVec.ofNat 64 (s.vl / (s.rg a).toNat) else 0) with pend := p })) ∧
    ∃ p, exec (.mfirst d a) s = .next (ended s { s.me.wg d.toNat (s.rg a &&& (0 - s.rg a)) with pend := p })

/-- VCMP sets bit i of g[D] when active lane i meets the condition, and clears every other bit, unless an enabled exception traps (R205). -/
def Sys2Proof.CompareBits : Prop :=
  ∀ (s : State) (d a b m : BitVec 5) (c : BitVec 2) (t : BitVec 3), VectorQuiet s →
    let w := if t.toNat = 0 ∨ t.toNat = 4 ∨ t.toNat = 6 then 32 else 16
    let r := fun (i : Nat) => if m = 0 ∨ (s.rg m).getLsbD i then laneCmp s.ctl c.toNat t.toNat (src s a w i) (src s b w i) else (false, 0)
    let fl := (List.range (s.vl / w)).map (fun i => (i, (r i).2))
    numericTrap s.me.numctl fl = none →
      ∃ x p, (∀ i < 64, x.getLsbD i = (decide (i < s.vl / w) && (r i).1)) ∧
        exec (.vcmp d a b m c t) s = .next (ended s ({ s.me.wg d.toNat x with pend := p }.raise (orFlags fl)))

/-- Lane reads, predicates and lane comparisons are exact (R199, R203, R205). -/
def Obligations.PredicatesAndComparesAreExact : Prop := PredicatesExact ∧ CompareBits

/-- VRED writes the root of the fixed tree over the active lanes to g[D], unless an enabled exception traps, and VREDSUM.I32 the exact signed sum
(R172, R204). -/
def Obligations.ReductionsFollowTheFixedTree : Prop :=
  (∀ (s : State) (i : Instr) (w : Nat) (d a m : BitVec 5) (e : Nat) (f : Nat → Nat → Nat → Nat → Res), VectorQuiet s →
    reductionOf s i = some (w, d, a, m, e, f) →
    let l := (List.range (s.vl / w)).map (fun i => if m = 0 ∨ (s.rg m).getLsbD i then some (src s a w i) else none)
    let r := tree f (ilog2 (s.vl / w)) 0 l
    numericTrap s.me.numctl r.2 = none →
      ∃ p, exec i s = .next (ended s ({ s.me.wg d.toNat (BitVec.ofNat 64 (r.1.getD e)) with pend := p }.raise (orFlags r.2)))) ∧
  ∀ (s : State) (d a m : BitVec 5), VectorQuiet s →
    ∃ p, exec (.vredsumI32 d a m) s = .next (ended s { s.me.wg d.toNat (BitVec.ofInt 64
      (((List.range (s.vl / 32)).filter (fun i => m = 0 ∨ (s.rg m).getLsbD i)).map (fun i => srcS s a 32 i)).sum) with pend := p })

/-! ### CSRs, traps and the control of a thread -/

/-- Exactly the CSRs of R144's table are assigned, and each shows its fields where the tables put them (R144, R145, R146, R153, R383). -/
def Sys2Proof.CsrsShow : Prop :=
  ∀ (s : State) (n : Nat), FieldsFit s →
    ((s.csr s.curRef n).isSome ↔ assignedCsr n) ∧
    ∀ x, s.csr s.curRef n = some x → ∀ f ∈ csrFields s n, dfld x f.1 f.2.1 = f.2.2

/-- A CSR instruction writes the old value to g[D] and completes; one that writes also leaves the CSR with its written bits, and no other CSR of the
thread changes (R147). -/
def Sys2Proof.CsrsWrite : Prop :=
  ∀ (s : State) (i : Instr) (d : BitVec 5) (c : BitVec 12) (old : Dword) (w : Option Dword), Quiet s →
    s.csr s.curRef c.toNat = some old → csrWrite s old i = some (d, c, w) →
    (w = none → ∃ p, exec i s = .next (ended s { s.me.wg d.toNat old with pend := p })) ∧
    ∀ new, w = some new → csrWritable c.toNat = true → (c = 0 → dfld new 2 0 < 6) →
      ∃ (b : Bank) (p : List Pending) (t : State), exec i s = .next t ∧ t = ended s { b.wg d.toNat old with pend := p } ∧
        (b = { s.me with numctl := b.numctl, trap := { s.me.trap with pc := b.trap.pc, vec := b.trap.vec } }) ∧
        (c ≠ 0 → b.numctl = s.me.numctl) ∧ (c ≠ 0x010 → b.trap.pc = s.me.trap.pc) ∧ (c ≠ 0x014 → b.trap.vec = s.me.trap.vec) ∧
        ∀ k < 64, (if c = 0 then b.numctl.getLsbD k else if c = 0x010 then b.trap.pc.getLsbD k else b.trap.vec.getLsbD k) =
          writtenBit c.toNat old new k

/-- The CSRs show their fields, and the CSR instructions read and write them (R144 to R147, R153, R161, R383). -/
def Obligations.CsrInstructionsReadThenWrite : Prop := CsrsShow ∧ CsrsWrite

/-- TRAP (1 to 47) and EBRK enter the handler with PC + 4 to return to, and perform nothing else; ERET resumes at TRAPPC with INH cleared and every other trap CSR
unchanged, and outside a handler traps with 0x00A. A frozen repeat frame goes on exactly when TRAPPC is its next word (R388, R389; the frame by R152). -/
def Obligations.SystemTrapsEnterAndEretReturns : Prop :=
  (∀ (s : State) (n : BitVec 6), Trappable s →
    (n.toNat ≤ 47 → exec (.trap n) s = .next (trapEntered s (s.me.pc + 4) (0x3C0 + n.toNat) 0 0)) ∧
    ((s.tenant s.me.tenant).debug = false →
      exec (.ebrk n) s = .next (trapEntered s (s.me.pc + 4) 0x3F0 0 (n.setWidth 64)))) ∧
  (∀ s : State, Trappable s → exec .eret s = .next (trapEntered s s.me.pc 0x00A (s.iaddr.setWidth 64) (s.ibits.setWidth 64))) ∧
  ∀ s : State, Quiet s → s.me.trap.inh = true →
    ∃ z, exec .eret s = .next (jumpedTo s
      { s.me with trap := { s.me.trap with inh := false }, rpt := { s.me.rpt with frozen := z } } s.me.trap.pc) ∧
      (z = true → s.me.rpt.frozen = true) ∧
      (s.me.rpt.frozen = true → s.me.rpt.act = true → (z = true ↔ s.me.trap.pc ≠ s.me.rpt.base + 4 + BitVec.ofNat 48 (4 * s.me.rpt.idx)))

/-- TIME reads the device time base, RPT loads the words of its body and opens a frame of g[A][31:0] passes, or skips the body, and HFCALL parks its
thread for the reply, or traps with 0x3F2 where the firmware refuses the service to the tenant (R148, R149, R150, R390). -/
def Obligations.ControlInstructionsComplete : Prop :=
  ∀ (s : State) (d a n : BitVec 5) (x y z : BitVec 3) (v : BitVec 6), Calm s →
    (∃ p, exec (.time d) s = .next (ended s { s.me.wg d.toNat s.dtb with pend := p })) ∧
    (s.me.rpt.frozen = false →
      exec (.rpt a n x y z) s = .next
        (if (s.rg a).setWidth 32 = 0#32 then jumpedTo s s.me (s.me.pc + BitVec.ofNat 48 (4 + 4 * (n.toNat + 1)))
         else
          let body := (ended s s.me).loadBody s.curRef (n.toNat + 1) (s.me.pc + 4)
          { ended s { s.me with
              fbuf := [], rpt := ⟨true, false, s.me.pc, (s.rg a).setWidth 32, 0, n.toNat, x.toNat, y.toNat, z.toNat, 0, body.2⟩ } with
            tlb := body.1.tlb, walks := body.1.walks })) ∧
    (s.me.kind < 2 → (v.toNat < 3 ∨ Config.serviceDefined (tget 0 s.boot.negotiated 3).toNat v.toNat = true) →
      (Config.serviceRefused s.me.tenant v.toNat = true → Trappable s → exec (.hfcall d a v) s = .next (trapEntered s s.me.pc 0x3F2 0 0)) ∧
      (Config.serviceRefused s.me.tenant v.toNat = false →
      (v ≠ 2 → (v = 0 → s.rg a = 0) → exec (.hfcall d a v) s = .next (parkedOn s s.me (.hfcall v.toNat d.toNat (s.rg a)))) ∧
      ∀ u l, v = 2 → s.attestBuffer s.curRef (s.rg a).toNat = (u, .ok l) →
        exec (.hfcall d a v) s = .next (parkedOn u s.me (.hfcall v.toNat d.toNat (s.rg a)))))

/-- CANCEL of a launch answers 0 and kills it where it is live; of a level instance likewise; and 1, with no other effect, where nothing of that ID is
live, which ends with completion or cancellation. The Front End accepts the request in the issuing step (R391, R115; log entry 23). -/
def Sys2Proof.CancelKillsWhatItNames : Prop :=
  ∀ (s : State) (d a : BitVec 5) (n : BitVec 6), Calm s → s.me.kind < 2 → 1 ≤ n.toNat → n.toNat ≤ 4 →
    (s.rg a).toNat < (if n.toNat = 1 then 2 ^ 32 else 2 ^ 16) →
    let id := (s.rg a).toNat
    let live := if n.toNat = 1 then ∃ l ∈ s.launches, cancelNames s 1 id l ∧ l.cancelled = false
      else ∃ i, s.inst? s.me.tenant n.toNat id = some i ∧ i.cancelled = false
    (¬ live → exec (.cancel d a n) s = .next (ended s (s.me.wg d.toNat 1))) ∧
    (live → ∃ t, exec (.cancel d a n) s = .next t ∧ t.me.rg d.toNat = 0 ∧ t.mem = s.mem ∧
      (n.toNat ≠ 1 → ∀ l ∈ s.launches, cancelNames s n.toNat id l → ∀ x ∈ t.launches, x.key = l.key → x.cancelled = true ∧ x.closed = true) ∧
      (n.toNat = 1 → ∃ l ∈ s.launches, cancelNames s 1 id l ∧ (∀ x ∈ t.launches, x.key = l.key → x.cancelled = true ∧ x.closed = true) ∧
        ∀ x ∈ t.tasks, x.launch = l.key → x.killing = true))

/-- SPAWN answers 2 for a lane beyond the quota, 1 for a live lane, 3 for a lane whose slot serves a burst or is promised to one, and otherwise 0: then the lane's bank
holds R56's seeds with its lane in g2 and g[B] in g5, and its PC is the role's entry (R127). -/
def Sys2Proof.SpawnStarts : Prop :=
  ∀ (s : State) (d a b : BitVec 5) (k : Task) (l : Launch) (off : Nat), Calm s → isXa s.cur.1 = false → s.me.kind = 0 →
    (s.rg a).toNat < 2 ^ 16 → s.task? s.me.task = some k → s.launchOf s.me = some l → l.role (dfld (s.rg a) 7 0) 1 = some off →
    let lane := dfld (s.rg a) 15 8
    (k.slots.length ≤ lane → exec (.spawn d a b) s = .next (ended s (s.me.wg d.toNat 2))) ∧
    ∀ slot, k.slots[lane]? = some slot →
      (s.laneLive k slot = true → exec (.spawn d a b) s = .next (ended s (s.me.wg d.toNat 1))) ∧
      (s.laneLive k slot = false → (s.handlerLive k slot = true ∨ s.promised k.tile slot = true ∨ s.awaited k.tile slot = true) →
        exec (.spawn d a b) s = .next (ended s (s.me.wg d.toNat 3))) ∧
      (s.laneLive k slot = false → s.handlerLive k slot = false → s.promised k.tile slot = false → s.awaited k.tile slot = false →
        (⟨k.tile, slot, 0⟩ : BankRef) ≠ s.curRef →
        ∃ t, exec (.spawn d a b) s = .next t ∧ t.me = passed (s.me.wg d.toNat 0) s.len ∧ t.mem = s.mem ∧
          let n := t.bank ⟨k.tile, slot, 0⟩
          n.seeded = true ∧ n.kind = 0 ∧ n.task = k.id ∧ n.pc = l.hdr + BitVec.ofNat 48 off ∧ n.numctl = l.numctl ∧ n.od = l.od ∧
          (∀ r, n.rg r = if r = 1 then BitVec.ofNat 64 k.index else if r = 2 then BitVec.ofNat 64 lane else if r = 3 then l.arg
            else if r = 4 then l.lid.setWidth 64 else if r = 5 then s.rg b else if r = 6 then l.s6 else if r = 7 then l.s7 else 0) ∧
          ∀ r, n.rv r = 0)

/-- EXIT and C.EXIT end a task's lane, with its ports unbound and its accesses done, and end an activation; HEND and C.HEND of a handler without engine
commands end it, and otherwise wait for them (R70, R128, R296, R330, R361). -/
def Sys2Proof.LanesAndHandlersEnd : Prop :=
  ∀ (s : State) (i : Instr), Calm s →
    ((i = .exit ∨ i = .cExit) → s.me.kind = 0 →
      ∃ t, exec i s = .next t ∧ t.me.seeded = false ∧
        (s.resvOf s.curRef = [] → t.me.ports = [] ∧ t.me.rlx = [] ∧ t.me.wins = [] ∧ t.me.icount = s.me.icount + 1 ∧ t.mem = s.mem)) ∧
    ((i = .exit ∨ i = .cExit) → s.me.kind = 3 → s.curRef.bank = 1 →
      ∃ t, exec i s = .next t ∧ (t.bank s.curRef).seeded = false ∧ (t.ctx s.cur.1 s.cur.2).switch = some (0, t.cycle + 10)) ∧
    ((i = .hend ∨ i = .cHend) → s.me.kind = 1 →
      (s.engineBusy s.curRef = false → s.resvOf s.curRef = [] → ∃ t, exec i s = .next t ∧ t.me.seeded = false ∧ t.me.burst = none ∧ t.mem = s.mem ∧
        ∀ id ix, s.me.burst = some (id, ix) → (t.tile s.cur.1).breads = (s.tile s.cur.1).breads.map (fun c =>
          if c.id = id then { c with
            flags := c.flags ||| s.me.numctl.extractLsb' 16 7, counted := c.counted + 1, bursts := c.bursts.filter (fun u => u.ix != ix) }
          else c)) ∧
      (s.engineBusy s.curRef = true → exec i s = .next (parkedOn s s.me (.efence (s.handlerScope s.curRef) true))))

/-- BQRY reports the tile's burst state: the returned bursts in its queue (log entry 25), the slots that run the task's handlers, those free for a birth,
its BREADs, and the copy engine's entries (R297). -/
def Sys2Proof.BqryReports : Prop :=
  ∀ (s : State) (d : BitVec 5) (k : Task), Calm s → s.task? s.me.task = some k → k.tile = s.cur.1 → s.burstQueue s.cur.1 ≤ 16 →
    (s.tile s.cur.1).bteUsed ≤ 16 →
    ∃ x, exec (.bqry d) s = .next (ended s (s.me.wg d.toNat x)) ∧ dfld x 7 0 = s.burstQueue s.cur.1 ∧
      (∀ j < 8, x.getLsbD (8 + j) = s.handlerLive k j) ∧
      (∀ j < 8, x.getLsbD (16 + j) = (s.slotFree k j && !s.promised k.tile j)) ∧
      dfld x 31 24 = min ((s.tile s.cur.1).breads.filter (fun c => c.task == k.id)).length 255 ∧ dfld x 63 32 = (s.tile s.cur.1).bteUsed

/-- EXIT and HEND end their thread, and BQRY reports the tile's bursts (R70, R128, R296, R297, R361; the bursts that BQOCC counts by log entry 25). -/
def Obligations.ThreadsEndAndReportBursts : Prop := LanesAndHandlersEnd ∧ BqryReports

/-- DLAUNCH answers the launch ID of an accepted packet, the tenant's next one, at no higher priority than the thread's own launch, and with bit 63
set the cause of a rejected one, without a trap (R126). -/
def Sys2Proof.DlaunchSubmits : Prop :=
  ∀ (s : State) (d a : BitVec 5), Calm s → isXa s.cur.1 = false → s.me.kind = 0 →
    (∃ u x, exec (.dlaunch d a) s = .next (ended u (s.me.wg d.toNat x)) ∧ u.mem = s.mem ∧ u.me = s.me ∧
      ((∃ l, x = l.lid.setWidth 64 ∧ u.launches = s.launches ++ [l] ∧ l.tenant = s.me.tenant ∧ l.prio ≤ s.me.prio ∧
          l.lid = (s.tenant s.me.tenant).lastLid + 1 ∧ (u.tenant s.me.tenant).lastLid = l.lid) ∨
        (x.getLsbD 63 = true ∧ u.launches = s.launches ∧ 0x2D0 ≤ dfld x 62 0 ∧ dfld x 62 0 ≤ 0x2E0)))

/-- SPAWN starts a lane, DLAUNCH submits a packet, and CANCEL kills what it names in its issuing step (R126, R127, R391; log entry 23). -/
def Obligations.WorkIsStartedAndCancelled : Prop := SpawnStarts ∧ DlaunchSubmits ∧ CancelKillsWhatItNames

/-! ### Memory -/

/-- A plain scalar load reads its bytes, extended, into g[D], at once with LK = 0 and else when its window closes; nothing else changes (R63, R255). -/
def Sys2Proof.LoadsRead : Prop :=
  ∀ (s : State) (i : Instr) (d : BitVec 5) (k : BitVec 4) (va : Dword) (n : Nat) (sg : Bool) (u : State) (loc : Nat), Calm s →
    loadOf s i = some (d, k, va, n, sg) → Reachable s va n 0 u loc →
    ∃ x : Dword, (∀ j < 64, x.getLsbD j = memBit s.mem loc n sg j) ∧ exec i s = .next (landed u k.toNat (.g d.toNat) (x.setWidth 1024))

/-- A plain scalar store writes the low bytes of g[D] at the location of its address, and no other byte of memory, no register and no tag changes
(R255, R257). -/
def Sys2Proof.StoresWrite : Prop :=
  ∀ (s : State) (i : Instr) (x : Dword) (k : BitVec 4) (va : Dword) (n : Nat) (u : State) (loc : Nat), Calm s → Memory.wf s.mem = true →
    storeOf s i = some (x, k, va, n) → Reachable s va n 1 u loc →
    ∃ m, Stored s.mem m loc n x ∧ exec i s = .next (landed { u with mem := m } k.toNat .none 0)

/-- Every scalar load and store moves the bytes at its address and nothing else (R255, R70). -/
def Obligations.LoadsAndStoresMoveTheirBytes : Prop := LoadsRead ∧ StoresWrite

/-- What the offsets of a tile's window read, by the layout of the register windows, the accumulators, the planes and the control part: a register shows what has been
written to it, and not a result that is still pending (R143, R214, R245, R246, R278, R340, R341, R363, R381). -/
def Sys2Proof.WindowsShowTheirParts : Prop :=
  ∀ (s : State) (tile : Nat), (isLa tile = true ∨ isXa tile = true) →
    let t := s.tile tile
    let banks := if isLa tile = true then 3 else 2
    (∀ slot < 8, ∀ bank < 2, let b := (s.ctx tile slot).bank bank
      let at_ := 0x100000 + slot * 0x400 + bank * 0x200
      s.winRead tile at_ 8 = 0 ∧ s.winRead tile (at_ + 0x100) 8 = b.pc.toNat ∧ s.winRead tile (at_ + 0x108) 8 = b.numctl.toNat ∧
      (∀ i < 8, s.winRead tile (at_ + 0x110 + 8 * i) 8 = (b.rod i).toNat) ∧
      (∀ i, 0 < i → i < 32 → ((∀ p ∈ b.pend, p.dest ≠ .g i) → s.winRead tile (at_ + 8 * i) 8 = (b.rg i).toNat) ∧
        ∀ p, b.pend = [p] → p.dest = .g i → s.winRead tile (at_ + 8 * i) 8 = (p.old.setWidth 64).toNat) ∧
      (∀ i < 32, ∀ o n, o + n ≤ 128 → ∀ j < 8 * n,
        let shown := fun (x : Vec) => decide (isLa tile = true ∨ 8 * o + j < 512) && x.getLsbD (8 * o + j)
        let read := (s.winRead tile (0x180000 + slot * 0x2000 + bank * 0x1000 + 128 * i + o) n).testBit j
        ((∀ p ∈ b.pend, p.dest ≠ .v i) → read = shown (b.rv i)) ∧ ∀ p, b.pend = [p] → p.dest = .v i → read = shown p.old) ∧
      s.winRead tile (0x301000 + slot * 0x10 + bank * 8) 8 = b.copyBytes.toNat) ∧
    (∀ k < banks, ∀ row < 64, ∀ col < 32, s.winRead tile (0x200000 + k * 0x4000 + row * 0x100 + col * 8) 8 =
      (tget 0 (if k = 0 then t.mx.acc0 else if k = 1 then t.mx.acc1 else t.mx.accL) (32 * row + col)).toNat) ∧
    (∀ p < banks, let plane := if p = 0 then t.mx.active else if p = 1 then t.mx.shadow else t.mx.leash
      (∀ o n, o + n ≤ 0x400 → ∀ j < n, s.winRead tile (0x280000 + p * 0x400 + o) n / 2 ^ (8 * j) % 256 = (tget 0 plane.bytes (o + j)).toNat) ∧
      ∀ i < 64, s.winRead tile (0x280C00 + p * 0x80 + 2 * i) 2 = (tget 0 plane.scales i).toNat) ∧
    s.winRead tile 0x300000 8 = t.trctl.toNat ∧
    s.winRead tile 0x300008 8 = t.trnext + (if t.trwrap then 2 ^ 8 else 0) + (if t.trhalt then 2 ^ 9 else 0) ∧
    (∀ e < 256, s.winRead tile (0x302000 + 16 * e) 8 = (tget (0, 0) t.trace e).1.toNat ∧
      s.winRead tile (0x302008 + 16 * e) 8 = (tget (0, 0) t.trace e).2.toNat) ∧
    (∀ slot < 8, let x := (s.ctx tile slot).reflex
      let y := BitVec.ofNat 64 (s.winRead tile (0x303000 + 8 * slot) 8)
      x.miss < 2 ^ 16 → x.ceil < 2 ^ 8 → x.ovr < 2 ^ 16 → y.getLsbD 0 = x.armed ∧ y.getLsbD 1 = x.active ∧ y.getLsbD 2 = x.late ∧ y.getLsbD 3 = x.missLast ∧
        dfld y 7 4 = 0 ∧ dfld y 23 8 = x.act % 2 ^ 16 ∧ dfld y 39 24 = x.miss ∧ dfld y 47 40 = x.ceil ∧ dfld y 63 48 = x.ovr) ∧
    s.winRead tile 0x303100 8 = t.seize.count.toNat ∧ s.winRead tile 0x303108 8 = t.seize.cyc.toNat ∧
    s.winRead tile 0x303110 8 = t.seize.last + t.seize.worst * 2 ^ 16

/-- What a write to an offset of a tile's window leaves: the register, the element, the plane bytes or the scale word there, or TRCTL, and nothing else. A write to g0
and one to the upper half of an XA tile's vector register are discarded, a result that is still pending replaces the write when it lands, the PC stays even, and
NUMCTL keeps DET, CNAN under DET, RM for the values 6 and 7, and its reserved bits (R143, R161, R214, R246, R340). -/
def Sys2Proof.WindowsTakeWrites : Prop :=
  ∀ (s : State) (tile v : Nat), (isLa tile = true ∨ isXa tile = true) →
    let t := s.tile tile
    let banks := if isLa tile = true then 3 else 2
    (∀ slot < 8, ∀ bank < 2, let r : BankRef := ⟨tile, slot, bank⟩
      let b := s.bank r
      let at_ := 0x100000 + slot * 0x400 + bank * 0x200
      (∀ i < 32, ((∀ p ∈ b.pend, p.dest ≠ .g i) → s.winWrite tile (at_ + 8 * i) 8 v = s.setBank r (b.wg i (BitVec.ofNat 64 v))) ∧
        ∀ p, b.pend = [p] → p.dest = .g i → s.winWrite tile (at_ + 8 * i) 8 v = s.setBank r { b with pend := [{ p with old := BitVec.ofNat 1024 v }] }) ∧
      s.winWrite tile (at_ + 0x100) 8 v = s.setBank r { b with pc := BitVec.ofNat 48 v &&& ~~~1#48, fbuf := [] } ∧
      (∃ x, s.winWrite tile (at_ + 0x108) 8 v = s.setBank r { b with numctl := x } ∧ ∀ k < 64, x.getLsbD k =
        if k < 3 then (if 6 ≤ v % 8 then b.numctl.getLsbD k else v.testBit k)
        else if k = 4 then v.testBit 4 || b.numctl.getLsbD 6
        else if k = 6 then b.numctl.getLsbD 6
        else if k = 7 ∨ k = 15 ∨ k = 23 ∨ 32 ≤ k then false
        else v.testBit k) ∧
      ∀ i < 32, ∀ o n, (28 ≤ i → b.port (i - 28) = none) → (∀ p ∈ b.pend, p.dest ≠ .v i) →
        (0 < n → o + n ≤ (if isLa tile = true then 128 else 64) → ∃ x : Vec,
          s.winWrite tile (0x180000 + slot * 0x2000 + bank * 0x1000 + 128 * i + o) n v = s.setBank r (b.wv i x) ∧
          ∀ j < 1024, x.getLsbD j = if 8 * o ≤ j ∧ j < 8 * (o + n) then v.testBit (j - 8 * o) else (b.rv i).getLsbD j) ∧
        (isXa tile = true → 64 ≤ o → o < 128 → s.winWrite tile (0x180000 + slot * 0x2000 + bank * 0x1000 + 128 * i + o) n v = s)) ∧
    (∀ k < banks, ∀ row < 64, ∀ col < 32, let put := fun (a : Tbl (BitVec 40)) => tset a (32 * row + col) (BitVec.ofNat 40 v)
      s.winWrite tile (0x200000 + k * 0x4000 + row * 0x100 + col * 8) 8 v = s.setTile tile { t with
        mx := if k = 0 then { t.mx with acc0 := put t.mx.acc0 } else if k = 1 then { t.mx with acc1 := put t.mx.acc1 }
          else { t.mx with accL := put t.mx.accL } }) ∧
    (∀ p < banks, let of := fun (m : Matrix) (q : Nat) => if q = 0 then m.active else if q = 1 then m.shadow else m.leash
      let frame := fun (m : Matrix) => m = { t.mx with active := m.active, shadow := m.shadow, leash := m.leash } ∧ ∀ q < 3, q ≠ p → of m q = of t.mx q
      (∀ o n, 0 < n → o + n ≤ 0x400 → ∃ m, s.winWrite tile (0x280000 + p * 0x400 + o) n v = s.setTile tile { t with mx := m } ∧ frame m ∧
        (of m p).scales = (of t.mx p).scales ∧ ∀ k, tget 0 (of m p).bytes k =
          if o ≤ k ∧ k < o + n then BitVec.ofNat 8 (v / 2 ^ (8 * (k - o))) else tget 0 (of t.mx p).bytes k) ∧
      ∀ i < 64, ∃ m, s.winWrite tile (0x280C00 + p * 0x80 + 2 * i) 2 v = s.setTile tile { t with mx := m } ∧ frame m ∧
        (of m p).bytes = (of t.mx p).bytes ∧ ∀ k, tget 0 (of m p).scales k = if k = i then BitVec.ofNat 16 v else tget 0 (of t.mx p).scales k) ∧
    let on := v.testBit 0 && !t.trctl.getLsbD 0
    ∃ h, s.winWrite tile 0x300000 8 v = s.setTile tile { t with
      trctl := BitVec.ofNat 64 (v % 16), trnext := if on then 0 else t.trnext, trwrap := if on then false else t.trwrap, trhalt := h }

/-- A load or store of a register, plane or control part of a tile's window goes to that part, once no command accepted before it is in its way
(R214, R215, R246). -/
def Sys2Proof.WindowAccessesReach : Prop :=
  ∀ (s : State) (i : Instr) (va : Dword) (u : State) (tile off : Nat), Calm s → off < 2 ^ 22 →
    u.unitBusy tile off (s.me.unitPass.getD s.fresh) = false →
    (∀ d k n sg, loadOf s i = some (d, k, va, n, sg) → s.check s.req va.toNat n 0 = (u, .ok (.win tile off)) →
      ∃ x : Dword, (∀ j < 64, x.getLsbD j =
          if j < 8 * n then (u.winRead tile off n).testBit j else sg && (u.winRead tile off n).testBit (8 * n - 1)) ∧
        exec i s = .next (landed u k.toNat (.g d.toNat) (x.setWidth 1024))) ∧
    ∀ x k n, storeOf s i = some (x, k, va, n) → s.check s.req va.toNat n 1 = (u, .ok (.win tile off)) →
      exec i s = .next (landed (u.winWrite tile off n x.toNat) k.toNat .none 0)

/-- The parts of a tile's window are read and written as they are laid out (R143, R161, R214, R215, R245, R246, R278, R340, R341, R363, R381). -/
def Obligations.WindowAccessesReachTheirPart : Prop := WindowAccessesReach ∧ WindowsShowTheirParts ∧ WindowsTakeWrites

/-- A load or store behind C.RLX stays outstanding: memory and the registers are as before, and the access stands in the thread's list with its scope.
A load with LK = 0, whose result the thread needs at once, is performed as it issues (R63, R71, R252). -/
def Sys2Proof.RelaxedStay : Prop :=
  ∀ (s : State) (sc : BitVec 3) (i : Instr) (k : BitVec 4) (va : Dword) (n : Nat) (u : State) (loc : Nat), Calm s →
    s.follow.cause = 0 → s.follow.ins = some i →
    (∀ d sg, loadOf s i = some (d, k, va, n, sg) → k = 0 → Reachable s va n 0 u loc →
      ∃ (t : State) (x : Dword), exec (.cRlx sc) s = .next t ∧ t.mem = s.mem ∧ (∀ j < 64, x.getLsbD j = memBit s.mem loc n sg j) ∧
        t.me = passed ({ s.me with nextWin := s.me.nextWin + 1 }.wg d.toNat x) (2 + s.follow.len)) ∧
    (∀ d sg, loadOf s i = some (d, k, va, n, sg) → k ≠ 0 → Reachable s va n 0 u loc →
      ∃ t a, exec (.cRlx sc) s = .next t ∧ t.mem = s.mem ∧ t.me.g = s.me.g ∧ t.me.pc = s.me.pc + 2 + BitVec.ofNat 48 s.follow.len ∧
        t.me.icount = s.me.icount + 1 ∧ t.me.rlx = [a] ∧ a.scope = sc.toNat ∧ a.write = false ∧ a.parts = [⟨loc, n, 0⟩] ∧
        t.me.wins = [⟨k.toNat, .g d.toNat, none, none, 0, s.me.nextWin, false, []⟩]) ∧
    (∀ x, storeOf s i = some (x, k, va, n) → Reachable s va n 1 u loc →
      ∃ t a, exec (.cRlx sc) s = .next t ∧ t.mem = s.mem ∧ t.me.g = s.me.g ∧ t.me.pc = s.me.pc + 2 + BitVec.ofNat 48 s.follow.len ∧
        t.me.icount = s.me.icount + 1 ∧ t.me.rlx = [a] ∧ a.scope = sc.toNat ∧ a.write = true ∧ a.parts = [⟨loc, n, x⟩])

/-- C.RLX in front of any other instruction, a second C.RLX included, traps with 0x007 and its own address and bits, and one in front of an instruction
that has a cause of its own with that cause, and the address and bits of the second; TRAPPC is the C.RLX's address (R71 to R73). -/
def Sys2Proof.PrefixesTrap : Prop :=
  ∀ (s : State) (sc : BitVec 3), Trappable s →
    (∀ i, s.follow.cause = 0 → s.follow.ins = some i → mayBeRelaxed i = false →
      exec (.cRlx sc) s = .next (trapEntered s s.me.pc 0x007 (s.me.pc.setWidth 64) (BitVec.ofNat 64 (0x22 + sc.toNat * 64)))) ∧
    (s.follow.cause ≠ 0 → s.follow.cause.toNat < 0x010 →
      exec (.cRlx sc) s = .next (trapEntered s s.me.pc s.follow.cause.toNat ((s.me.pc + 2).setWidth 64) (s.follow.bits.setWidth 64)))

/-- A fence with nothing outstanding only completes; IFENCE also discards the fetch buffer, and EFENCE waits while the thread has engine commands. A fence at
a scope beyond .th performs an outstanding relaxed store, unless an LDT of the thread is still at its reads (R252, R236, R261, R333). -/
def Obligations.FencesPerformWhatIsOutstanding : Prop :=
  (∀ (s : State) (sc : BitVec 3), Calm s →
    exec (.fence sc) s = .next (ended s s.me) ∧ exec (.ifence sc) s = .next (ended s { s.me with fbuf := [] }) ∧
    exec (.efence sc) s = .next (if s.engineBusy s.curRef = true then parkedOn s s.me (.efence sc.toNat false) else ended s s.me)) ∧
  ∀ (s : State) (sc : BitVec 3) (a : Access) (loc n : Nat) (x : Dword), Quiet s → Memory.wf s.mem = true → sc ≠ 0 →
    s.ldtHeld s.curRef = false → (∀ t, (s.tile t).trctl.getLsbD 0 = false) → s.me.rlx = [a] → a.write = true → a.parts = [⟨loc, n, x⟩] → loc < 2 ^ 46 → n ≤ 8 →
    Intact s →
    ∃ m, Stored s.mem m loc n x ∧ exec (.fence sc) s = .next (ended { s with mem := m } { s.me with rlx := [] })

/-- A full/empty instruction whose word has the tag that it needs acts on the word and the tag and completes; one that must wait parks, with an entry in
the wait list of the word's tile; and a word outside every local store traps with 0x101. No other word, tag or register changes (R258, R259). -/
def Obligations.FullEmptyInstructionsActOnTheTag : Prop :=
  ∀ (s : State) (i : Instr) (f : FeForm) (u : State) (loc : Nat), Calm s → Memory.wf s.mem = true → feForm s i = some f →
    Reachable s f.va 8 f.kind u loc →
    (isLsLoc loc = false → Trappable s → exec i s = .next (refusedBy u 0x101 f.va)) ∧
    (isLsLoc loc = true → u.armedOn (locTile loc) (locOff loc) = none → (s.tile (locTile loc)).waits = [] →
      ((f.needs = none ∨ f.needs = some (s.tag loc)) →
        ∃ (m : List (Nat × Byte)) (x : Dword), (match f.stores with
            | some v => Stored s.mem m loc 8 v
            | none => m = s.mem) ∧
          (f.needs = some true → ∀ j < 64, x.getLsbD j = memBit s.mem loc 8 false j) ∧
          (f.needs ≠ some true → x = if s.tag loc then 1 else 0) ∧
          exec i s = .next (landed { tagLeft u loc f.leaves with mem := m } 0 (.g f.reg.toNat) (x.setWidth 1024))) ∧
      ((∃ full, f.needs = some full ∧ full ≠ s.tag loc) →
        ∃ t w, exec i s = .next t ∧ t.me.wait = some w ∧ (t.tile (locTile loc)).waits = [⟨s.curRef, loc⟩] ∧ t.mem = s.mem ∧
          t.tag loc = s.tag loc ∧ t.me.g = s.me.g ∧ t.me.pc = s.me.pc + BitVec.ofNat 48 s.len))

/-! ### Vector memory -/

/-- A vector memory instruction whose lanes reach byte locations, through cached translations where they are translated, loads each active lane and keeps
every other one, or stores each active lane in rising order; a byte outside the lanes' words keeps its value, and nothing else changes (R256). -/
def Sys2Proof.VectorLanes : Prop :=
  ∀ (s : State) (i : Instr) (f : LaneAccess) (at_ : Dword → Nat), Calm s → Memory.wf s.mem = true → laneAccess s i = some f →
    (∀ p ∈ f.lanes, Reachable s p.2 4 (if f.store then 1 else 0) s (at_ p.2)) →
    (f.store = false → ∃ x, lanesLoaded s f at_ x ∧ exec i s = .next (landed s f.k.toNat (.v f.reg.toNat) x)) ∧
    (f.store = true → exec i s = .next (landed { s with mem := lanesStored s f at_ } f.k.toNat .none 0) ∧
      ∀ a, (∀ p ∈ f.lanes, a < at_ p.2 ∨ at_ p.2 + 4 ≤ a) → memGet (lanesStored s f at_) a = memGet s.mem a)

/-- A vector load or store behind C.RLX with an active lane stays outstanding as one access of its lanes' words, in rising lane order for a store, while
memory and the registers are as before; a vector load with LK = 0 is performed as it issues (R71, R252, R256). -/
def Sys2Proof.RelaxedLanesStay : Prop :=
  ∀ (s : State) (sc : BitVec 3) (i : Instr) (f : LaneAccess) (at_ : Dword → Nat), Calm s → s.follow.cause = 0 → s.follow.ins = some i →
    laneAccess s i = some f → f.lanes ≠ [] → (∀ p ∈ f.lanes, Reachable s p.2 4 (if f.store then 1 else 0) s (at_ p.2)) →
    (f.store = false → f.k = 0 → ∃ (t : State) (x : Vec), exec (.cRlx sc) s = .next t ∧ t.mem = s.mem ∧ lanesLoaded s f at_ x ∧
      t.me = passed ({ s.me with nextWin := s.me.nextWin + 1 }.wv f.reg.toNat x) (2 + s.follow.len)) ∧
    (f.store = true ∨ f.k ≠ 0 → ∃ t a, exec (.cRlx sc) s = .next t ∧ t.mem = s.mem ∧ t.me.g = s.me.g ∧ t.me.v = s.me.v ∧
      t.me.pc = s.me.pc + 2 + BitVec.ofNat 48 s.follow.len ∧ t.me.icount = s.me.icount + 1 ∧ t.me.rlx = [a] ∧ a.scope = sc.toNat ∧
      a.write = f.store ∧ (∀ p ∈ a.parts, p.size = 4) ∧ (∀ loc, (∃ p ∈ a.parts, p.loc = loc) ↔ ∃ p ∈ f.lanes, at_ p.2 = loc) ∧
      (f.store = true → a.parts = f.lanes.map (fun p => ⟨at_ p.2, 4, BitVec.ofNat 64 (src s f.reg 32 p.1)⟩)) ∧
      (f.store = false → t.me.wins = [⟨f.k.toNat, .v f.reg.toNat, none, none, 0, s.me.nextWin, false, []⟩]))

/-- C.RLX makes the scalar or vector access behind it relaxed, and traps in front of every other instruction (R71, R252). -/
def Obligations.RelaxedAccessesStayOutstanding : Prop := RelaxedStay ∧ RelaxedLanesStay ∧ PrefixesTrap

/-- A strided access with g[B][63:48] set traps with 0x086 (R256). -/
def Sys2Proof.StridesChecked : Prop :=
  ∀ (s : State) (d a b : BitVec 5) (k : BitVec 4), Trappable s → s.me.ports = [] → (s.rg b).toNat / 2 ^ 48 ≠ 0 →
    exec (.vlds d a b k) s = .next (refusedBy s 0x086 0) ∧ exec (.vsts d a b k) s = .next (refusedBy s 0x086 0)

/-- Vector memory instructions access their active lanes, and check their stride (R256). -/
def Obligations.VectorMemoryWorksLaneByLane : Prop := VectorLanes ∧ StridesChecked

/-! ### Words that threads share: atomics, reductions, barriers, trees and channels -/

/-- ARSV reserves an unreserved word and reads it; ARLS writes the word and gives it up, and ARCN only gives it up. Nothing else changes (R342, R343,
R344). -/
def Sys2Proof.ReservationsHold : Prop :=
  ∀ (s : State) (d a b : BitVec 5) (loc : Nat), Calm s → Memory.wf s.mem = true → WordReached s (s.rg a) loc →
    (s.resvOf s.curRef = [] → s.holder loc = none → (s.resvTable loc).length < 16 →
      exec (.arsv d a) s = .next (landed (s.setResv loc (s.resvTable loc ++ [⟨loc, s.curRef⟩])) 0 (.g d.toNat) ((wordAt s loc).setWidth 1024))) ∧
    (s.holder loc = some s.curRef →
      let given := s.setResv loc ((s.resvTable loc).filter (fun x => !(x.loc == loc && x.who == s.curRef)))
      exec (.arcn a) s = .next (ended given s.me) ∧
      ∃ m, Stored s.mem m loc 8 (s.rg b) ∧ exec (.arls a b) s = .next (ended { given with mem := m } s.me)) ∧
    (Trappable s →
      (s.resvOf s.curRef ≠ [] → exec (.arsv d a) s = .next (refusedBy s 0x282 (s.rg a))) ∧
      (s.holder loc ≠ some s.curRef → exec (.arls a b) s = .next (refusedBy s 0x282 (s.rg a)) ∧
        exec (.arcn a) s = .next (refusedBy s 0x282 (s.rg a))))

/-- ARSV on a word that another context holds waits at the tail of the word's queue, and with a full table it waits to be sent again: memory, the
registers and the tables of reservations are as before (R344). -/
def Sys2Proof.ReservationsQueue : Prop :=
  ∀ (s : State) (d a : BitVec 5) (loc : Nat), Calm s → WordReached s (s.rg a) loc → s.resvOf s.curRef = [] →
    ((s.holder loc).isSome = true → ∃ t, exec (.arsv d a) s = .next t ∧ t.mem = s.mem ∧ t.me.g = s.me.g ∧
      t.me.pc = s.me.pc + BitVec.ofNat 48 s.len ∧ t.me.wait = some (.resv loc 0 d.toNat 0 0 0 true) ∧
      t.waitTable loc = [⟨s.curRef, loc⟩] ∧ t.resvTable loc = s.resvTable loc) ∧
    (s.holder loc = none → 16 ≤ (s.resvTable loc).length → ∃ t, exec (.arsv d a) s = .next t ∧ t.mem = s.mem ∧ t.me.g = s.me.g ∧
      t.me.pc = s.me.pc + BitVec.ofNat 48 s.len ∧ t.me.wait = some (.resv loc 0 d.toNat 0 0 0 false) ∧ t.waitTable loc = [] ∧
      t.resvTable loc = s.resvTable loc)

/-- Pass: the word that ARLS or ARCN gives up goes to the context that waits for it. An ARSV takes the reservation and reads the word; a CAS, SWAP or
FADD is performed on it and leaves it free (R344). -/
def Sys2Proof.ReservationsPass : Prop :=
  ∀ (s : State) (i : Instr) (a b : BitVec 5) (loc minor reg win : Nat) (w : BankRef) (exp val word : Dword), Calm s → Memory.wf s.mem = true →
    (i = .arls a b ∧ word = s.rg b) ∨ (i = .arcn a ∧ word = wordAt s loc) →
    s.checkMap s.req (s.rg a).toNat 8 1 = none → atomLoc s.req (s.rg a).toNat = some loc → s.holder loc = some s.curRef →
    s.waitTable loc = [⟨w, loc⟩] → (s.bank w).wait = some (.resv loc minor reg exp val win true) →
    w.tile * 8 + w.slot ≠ s.cur.1 * 8 + s.cur.2 →
    let given := (s.resvTable loc).filter (fun x => !(x.loc == loc && x.who == s.curRef))
    (minor = 0 → (s.bank w).wins = [] → ∃ t, exec i s = .next t ∧ Stored s.mem t.mem loc 8 word ∧ t.waitTable loc = [] ∧
      t.resvTable loc = given ++ [⟨loc, w⟩] ∧ (t.bank w).wait = none ∧ (t.bank w).g = ((s.bank w).wg reg word).g) ∧
    (3 ≤ minor → minor ≤ 5 → (∃ k d, (s.bank w).wins = [⟨k, .g d, none, none, 0, win, false, []⟩]) →
      ∃ t, exec i s = .next t ∧ Stored s.mem t.mem loc 8 (atomLeaves minor word exp val) ∧ t.waitTable loc = [] ∧ t.resvTable loc = given ∧
        (t.bank w).wait = none)

/-- CAS, SWAP and FADD replace the word in one action and return the old one; on a word that another context has reserved they queue with their window
open. Nothing else changes (R343, R344). -/
def Sys2Proof.AtomsReplaceTheWord : Prop :=
  ∀ (s : State) (i : Instr) (d : BitVec 5) (va : Dword) (k : BitVec 4) (f : Dword → Dword) (loc : Nat), Calm s → Memory.wf s.mem = true →
    atomForm s i = some (d, va, k, f) → WordReached s va loc →
    ((s.holder loc = none ∨ s.holder loc = some s.curRef) →
      ∃ m, Stored s.mem m loc 8 (f (wordAt s loc)) ∧
        exec i s = .next (landed { s with mem := m } k.toNat (.g d.toNat) ((wordAt s loc).setWidth 1024))) ∧
    ∀ w, s.holder loc = some w → w ≠ s.curRef →
      ∃ t x, exec i s = .next t ∧ t.mem = s.mem ∧ t.me.wait = some x ∧ t.waitTable loc = [⟨s.curRef, loc⟩] ∧
        t.me.pc = s.me.pc + BitVec.ofNat 48 s.len ∧ t.me.wins = [⟨k.toNat, .g d.toNat, none, none, 0, s.me.nextWin, false, []⟩]

/-- Reservations and atomic replacements act on one word, and a word that is given up is passed to its waiter (R342 to R344). -/
def Obligations.AtomicsActOnOneWord : Prop := ReservationsHold ∧ ReservationsQueue ∧ ReservationsPass ∧ AtomsReplaceTheWord

/-- A reduction passes its address checks, joins the core's path and completes; nothing else changes. The 65th waits (R346). -/
def Sys2Proof.ReductionsIssue : Prop :=
  ∀ (s : State) (i : Instr) (f : RedForm), Calm s → redForm s i = some f → s.checkMap s.req f.va.toNat f.bytes 1 = none →
    (∀ off, region f.va.toNat ≠ .mbm off) → (f.float = true → s.me.numctl.getLsbD 6 = true → isTrans f.va.toNat = true) →
    ((s.tile s.cur.1).reds.length < 64 → ∃ x : Reduction, x.id = s.fresh ∧ x.va = f.va ∧ x.val = f.val ∧ x.det = s.me.numctl.getLsbD 6 ∧
      x.acq = decide (f.acq = 1) ∧ x.scope = f.scope.toNat ∧ x.owner = s.curRef ∧ x.task = s.me.task ∧ x.parked = false ∧
      redSize x.minor = f.bytes ∧ (∀ m v : Dword, m.toNat < 2 ^ (8 * f.bytes) → redWord x.minor m.toNat v = f.f m v) ∧
      exec i s = .next (ended { s.setTile s.cur.1 { s.tile s.cur.1 with reds := (s.tile s.cur.1).reds ++ [x] } with fresh := s.fresh + 1 } s.me)) ∧
    (64 ≤ (s.tile s.cur.1).reds.length → ∃ t, exec i s = .next t ∧ t.me.wait = some .redFull ∧ t.me.pc = s.me.pc ∧ t.tiles = s.tiles)

/-- A reduction on its way reads, combines and writes its target in one action at the owning port, and leaves the path; a float one of a deterministic
launch joins the wide accumulator of its address instead (R345, R346, R349). -/
def Sys2Proof.ReductionsPerform : Prop :=
  ∀ (s : State) (ix tile : Nat) (x : Reduction) (k : Task) (u : State) (loc : Nat), Memory.wf s.mem = true → s.allReds[ix]? = some (tile, x) →
    s.task? x.task = some k → k.killing = false → x.parked = false → s.redBehind tile x = false → (s.bank x.owner).wait = none →
    s.redCheck x = (u, .ok (.mem loc)) → Intact s → (isTrans x.va.toNat = true → isDramLoc loc = true) →
    (∀ t, (s.tile t).trctl.getLsbD 0 = false) →
    let gone := u.setTile tile { u.tile tile with reds := (u.tile tile).reds.filter (fun y => y.id != x.id) }
    (¬ (9 ≤ x.minor ∧ x.det = true) →
      ∃ m, Stored s.mem m loc (redSize x.minor) (BitVec.ofNat 64 (redWord x.minor (s.load loc (redSize x.minor)) x.val)) ∧
        exec (.reductionPerform ix) s = .next { gone with mem := m }) ∧
    ∀ w, 9 ≤ x.minor → x.det = true → s.wacc? (s.engineReq x.owner x.task).tenant loc = some w →
      exec (.reductionPerform ix) s = .next (gone.setWacc
        (w.add (if x.minor = 9 then fp32.read false (x.val.toNat % 2 ^ 32) else bf16.read false (x.val.toNat % 2 ^ 16))))

/-- WACRD reads an accumulator with one rounding, 0 where none is bound, and WACCLR unbinds it; nothing else changes (R173, R174, R350). -/
def Sys2Proof.WideAccumulatorsRead : Prop :=
  ∀ (s u : State) (d a : BitVec 5) (k : BitVec 4) (loc : Nat), Calm s → isTrans (s.rg a).toNat = true →
    isDramLoc loc = true → u.wacHeld s.curRef loc = false →
    (Reachable s (s.rg a) 2 0 u loc → s.wacc? s.me.tenant loc = none → exec (.wacrd d a k) s = .next (landed u k.toNat (.g d.toNat) 0)) ∧
    (∀ w, Reachable s (s.rg a) 2 0 u loc → s.wacc? s.me.tenant loc = some w → numericTrap s.me.numctl [(0, (w.read s.ctl).2)] = none →
      exec (.wacrd d a 0) s = .next (ended u
        ({ s.me.wg d.toNat (BitVec.ofNat 64 (w.read s.ctl).1) with nextWin := s.me.nextWin + 1 }.raise (w.read s.ctl).2))) ∧
    (Reachable s (s.rg a) 2 1 u loc →
      exec (.wacclr a) s = .next (landed { u with wacc := s.wacc.filter (fun w => !(w.tenant == s.me.tenant && w.pa == loc)) } 0 .none 0))

/-- Reductions issue, perform at their target in one action, and accumulate exactly (R173, R174, R345 to R350).
Forms that complete here, each with its effect: redAdd64, redAdd32, redMin64, redMax64, redMinu64, redMaxu64, redAnd64, redOr64, redXor64, redfAddF32,
redfAddBf16, reductionPerform, wacrd, wacclr. -/
def Obligations.ReductionsCombineInOneAction : Prop := ReductionsIssue ∧ ReductionsPerform ∧ WideAccumulatorsRead

/-- BREG registers a free slot and answers 0, 1 for the same registration and 2 for another; BARV counts an arrival and answers the generation that it
belongs to, and its last arrival is sent home; BARVW also waits for that generation to pass, as BWAIT does; BTEST shows the slot (R352, R353). -/
def Sys2Proof.BarriersCount : Prop :=
  ∀ (s : State) (d a b : BitVec 5) (slot : Nat) (q : BarSlot), Calm s →
    (let x := s.rg a
     let y := s.rg b
     let rect : BitVec 18 := BitVec.ofNat 18 y.toNat
     let loc := dfld x 15 8
     x.toNat < 2 ^ 16 → dfld x 7 3 = 0 → 1 ≤ loc → y.toNat < 2 ^ 18 → rectOk rect = true →
     (rectTiles rect).all (fun t => s.usable s.me.tenant t) = true → inRect rect s.cur.1 = true →
     (s.bar s.cur.1 (dfld x 2 0) = none → (s.tile s.cur.1).held = [] →
       exec (.breg d a b) s = .next (ended (s.setBar s.cur.1 (dfld x 2 0) ⟨s.launchKey s.curRef, loc, rect, 0, 0, false, 0⟩) (s.me.wg d.toNat 0))) ∧
     ∀ q, s.bar s.cur.1 (dfld x 2 0) = some q → exec (.breg d a b) s = .next (ended s (s.me.wg d.toNat
       (if q.launch = s.launchKey s.curRef ∧ q.loc = loc ∧ q.rect = rect then 1 else 2)))) ∧
    (OwnBarrier s (s.rg a) slot q →
      (∃ x, exec (.btest d a) s = .next (ended s (s.me.wg d.toNat x)) ∧ x.toNat % 2 ^ 32 = q.gen.toNat ∧
        (q.arrived < 256 → q.loc < 256 → dfld x 39 32 = q.arrived ∧ dfld x 47 40 = q.loc ∧ x.getLsbD 48 = q.pend ∧ x.getLsbD 63 = true)) ∧
      (s.cur.1 < 512 → s.engineBusy s.curRef = false → q.arrived < q.loc →
        let last := q.arrived + 1 = q.loc ∧ q.pend = false
        let v := q.gen + (if q.pend then 1 else 0)
        let after := fun (t : State) => t.mem = s.mem ∧ t.me.pc = s.me.pc + BitVec.ofNat 48 s.len ∧
          t.bar s.cur.1 slot = some (if last then { q with arrived := 0, pend := true } else { q with arrived := q.arrived + 1 }) ∧
          t.net = s.net ++ (if last then [.arrival (dfld (q.rect.setWidth 64) 8 0) slot q.launch s.me.task] else [])
        (∃ t, exec (.barv d a) s = .next t ∧ after t ∧ t.me.wait = none ∧ t.me.g = (s.me.wg d.toNat (v.setWidth 64)).g) ∧
        ∃ t, exec (.barvw d a) s = .next t ∧ after t ∧ t.me.wait = some (.barrier slot v (some d.toNat)) ∧ t.me.g = s.me.g) ∧
      (s.cur.1 < 512 → ∃ t, exec (.bwait a b) s = .next t ∧ t.mem = s.mem ∧ t.me.g = s.me.g ∧ t.me.pc = s.me.pc + BitVec.ofNat 48 s.len ∧
        t.me.wait = if barPending q.gen ((s.rg b).setWidth 32) then some (.barrier slot ((s.rg b).setWidth 32) none) else none))

/-- An arrival counts at the home, and the last one releases every tile of the barrier; a release advances the generation, and sends the arrival of a
batch that is full by then (R353). -/
def Sys2Proof.BarriersRelease : Prop :=
  ∀ (s : State) (ix home slot launch task : Nat) (q : BarSlot), q.launch = launch →
    (s.net[ix]? = some (.arrival home slot launch task) → s.bar home slot = some q →
      ∃ t, exec (.barrierArrival ix) s = .next t ∧ t.mem = s.mem ∧
        (q.home + 1 < (rectTiles q.rect).length → t.bar home slot = some { q with home := q.home + 1 } ∧ t.net = listDel s.net ix) ∧
        ((rectTiles q.rect).length ≤ q.home + 1 → t.bar home slot = some { q with home := 0 } ∧
          t.net = listDel s.net ix ++ (rectTiles q.rect).map (fun x => .release x slot launch))) ∧
    (s.net[ix]? = some (.release home slot launch) → s.bar home slot = some q →
      (∀ r ∈ s.tileBanks home, (s.bank r).wait = none) →
      ∃ t, exec (.barrierRelease ix) s = .next t ∧ t.mem = s.mem ∧ t.ctxs = s.ctxs ∧
        (q.arrived ≠ q.loc → t.net = listDel s.net ix ∧ t.bar home slot = some { q with gen := q.gen + 1, pend := false }) ∧
        (q.arrived = q.loc → t.net = listDel s.net ix ++ [.arrival (fld q.rect.toNat 8 0) slot launch 0] ∧
          t.bar home slot = some { q with gen := q.gen + 1, arrived := 0, pend := true }))

/-- A release wakes the thread that waits for its generation: BWAIT and BARVW complete, with GEN in BARVW's register, once the generation has passed,
and wait on otherwise; an arrival that a full batch held back counts for the generation after the one that the batch joins (R353). -/
def Sys2Proof.BarriersWake : Prop :=
  ∀ (s : State) (ix home slot launch : Nat) (q : BarSlot) (w : BankRef), q.launch = launch → home < 512 →
    s.net[ix]? = some (.release home slot launch) → s.bar home slot = some q → w ∈ s.tileBanks home → (s.bank w).wins = [] →
    (∀ r ∈ s.tileBanks home, r ≠ w → (s.bank r).wait = none) →
    (∀ v reg, (s.bank w).wait = some (.barrier slot v reg) → q.arrived ≠ q.loc →
      ∃ t, exec (.barrierRelease ix) s = .next t ∧ t.mem = s.mem ∧ t.net = listDel s.net ix ∧
        t.bar home slot = some { q with gen := q.gen + 1, pend := false } ∧
        (barPending (q.gen + 1) v = true → (t.bank w).wait = some (.barrier slot v reg)) ∧
        (barPending (q.gen + 1) v = false → (t.bank w).wait = none ∧
          (t.bank w).g = match reg with
            | some n => ((s.bank w).wg n ((q.gen + 1).setWidth 64)).g
            | none => (s.bank w).g)) ∧
    ∀ reg, (s.bank w).wait = some (.batch 1 slot reg) → q.arrived = q.loc → 1 < q.loc →
      ∃ t, exec (.barrierRelease ix) s = .next t ∧ t.mem = s.mem ∧ t.net = listDel s.net ix ++ [.arrival (fld q.rect.toNat 8 0) slot launch 0] ∧
        t.bar home slot = some { q with gen := q.gen + 1, arrived := 1, pend := true } ∧ (t.bank w).wait = none ∧
        (t.bank w).g = ((s.bank w).wg reg ((q.gen + 2).setWidth 64)).g

/-- Barriers count arrivals, and a release sends a full batch and lets the threads that waited for it go on (R352, R353).
Forms that complete here, each with its effect: breg, btest, barv, barvw, bwait, barrierArrival, barrierRelease. -/
def Obligations.BarriersCountAndRelease : Prop := BarriersCount ∧ BarriersRelease ∧ BarriersWake

/-- TREESET installs a node; SEND passes its value to the parent and waits for the delivery; RSRV waits for its children, and at a root without children
that are missing completes with the combination in inbox order (R354, R355). -/
def Sys2Proof.TreesReduce : Prop :=
  ∀ (s : State) (d a : BitVec 5), Calm s →
    (let x := s.rg a
     x.toNat < 2 ^ 24 → dfld x 22 19 < 10 → treeKids x ≤ 8 → s.me.inbox = [] →
     (if treeRoot x then dfld x 14 0 = 0 else s.usable s.me.tenant (dfld x 8 0) = true ∧ isXa (dfld x 8 0) = isXa s.cur.1) →
     exec (.treeset a) s = .next (ended s { s.me with tree := x ||| 0x1000000 })) ∧
    (treeValid s.me.tree = true → treeRoot s.me.tree = false →
      exec (.send a) s = .next ((parkedOn s s.me (.deliver none (s.rg a) false)).send
        (.deliver s.curRef (dfld s.me.tree 8 0) (dfld s.me.tree 11 9) (dfld s.me.tree 14 12) (s.rg a) (s.launchKey s.curRef) s.me.task))) ∧
    (treeValid s.me.tree = true → s.me.kidsReady = false → exec (.rsrv d a) s = .next (parkedOn s s.me (.rsrv d.toNat a.toNat))) ∧
    (treeValid s.me.tree = true → treeRoot s.me.tree = false → s.me.kidsReady = true →
      numericTrap s.me.numctl [(0, (s.me.combine (s.rg a)).2)] = none →
      exec (.rsrv d a) s = .next ((parkedOn s s.me (.deliver (some d.toNat) (s.rg a) false)).send
        (.deliver s.curRef (dfld s.me.tree 8 0) (dfld s.me.tree 11 9) (dfld s.me.tree 14 12) (s.me.combine (s.rg a)).1 (s.launchKey s.curRef)
          s.me.task))) ∧
    (treeValid s.me.tree = true → treeRoot s.me.tree = true → s.me.kidsReady = true →
      numericTrap s.me.numctl [(0, (s.me.combine (s.rg a)).2)] = none →
      ∃ t, exec (.rsrv d a) s = .next t ∧ t.mem = s.mem ∧ t.me.wait = none ∧ t.me.g = (s.me.wg d.toNat (s.me.combine (s.rg a)).1).g ∧
        t.me.pc = s.me.pc + BitVec.ofNat 48 s.len)

/-- A value that reaches a parent's empty inbox stays there and completes its sender's SEND; a full inbox refuses it, and the refused value is sent
again (R355). -/
def Sys2Proof.TreesDeliver : Prop :=
  (∀ (s : State) (ix tile slot idx launch task : Nat) (src p : BankRef) (v x : Dword) (z : Bool), s.net[ix]? = some (.deliver src tile slot idx v launch task) →
    (s.bank src).wait = some (.deliver none x z) → (s.bank src).wins = [] → s.saved = [] → s.parentBank tile slot launch = some p → p ≠ src →
    p.bank < 2 → src.bank < 2 → p.slot < 8 → src.slot < 8 → (s.bank p).wait = none →
    ∃ t, exec (.treeDeliverArrival ix) s = .next t ∧ t.mem = s.mem ∧ t.net = listDel s.net ix ∧
      (tfind (s.bank p).inbox idx = none → tfind (t.bank p).inbox idx = some v ∧ (t.bank src).wait = none) ∧
      (tfind (s.bank p).inbox idx ≠ none → t.bank p = s.bank p ∧ (t.bank src).wait = some (.deliver none x true))) ∧
  ∀ (s : State) (tile slot bank : Nat) (x : Dword), (s.bank ⟨tile, slot, bank⟩).wait = some (.deliver none x true) →
    ∃ t m, exec (.treeDeliverRetry tile slot bank) s = .next t ∧ t.mem = s.mem ∧ t.net = s.net ++ [m] ∧
      (t.bank ⟨tile, slot, bank⟩).wait = some (.deliver none x false)

/-- Reduction trees pass values to their parents and combine them in inbox order (R354, R355).
Forms that complete here, each with its effect: treeset, send, rsrv, treeDeliverArrival, treeDeliverRetry. -/
def Obligations.TreesReduceInInboxOrder : Prop := TreesReduce ∧ TreesDeliver

/-- CHBIND binds a free port, with a notice to its peer from a SEND port, and answers 1 for a bound one; CHUNB unbinds a port; CHSTAT shows a port, 0 for
a free one (R325 to R328). -/
def Sys2Proof.ChannelsBind : Prop :=
  ∀ (s : State) (d a : BitVec 5), Quiet s → s.me.kind = 0 → s.me.notices = [] →
    let w := s.rg a
    let k := dfld w 1 0
    let peer : PortRef := ⟨dfld w 16 8, dfld w 19 17, dfld w 21 20⟩
    (s.chOk s.me.tenant s.cur.1 w = true → s.me.port k = none →
      ∃ t, exec (.chbind d a) s = .next t ∧ t.mem = s.mem ∧
        t.me = passed { s.me.wg d.toNat 0 with ports := tset s.me.ports k ⟨dfld w 3 2, peer, [], 0, 0, none⟩ } s.len ∧
        t.net = s.net ++ (if dfld w 3 2 = 1 then
          [.notice ⟨s.cur.1, s.curRef.slot, k⟩ peer (((s.launchOf s.me).map (·.key)).getD 0) s.me.task] else [])) ∧
    (s.chOk s.me.tenant s.cur.1 w = true → s.me.port k ≠ none → exec (.chbind d a) s = .next (ended s (s.me.wg d.toNat 1))) ∧
    (s.me.port k = none → exec (.chunb a) s = .next (ended s s.me) ∧ exec (.chstat d a) s = .next (ended s (s.me.wg d.toNat 0))) ∧
    ∀ p, s.me.port k = some p →
      (p.stream = none → s.me.pend = [] →
        exec (.chunb a) s = .next (ended s { s.me with ports := tdel s.me.ports k })) ∧
      (p.mode < 4 → p.fifo.length < 8 → p.credit < 8 → ∃ x, exec (.chstat d a) s = .next (ended s (s.me.wg d.toNat x)) ∧ x.getLsbD 0 = true ∧
        dfld x 2 1 = p.mode ∧ dfld x 5 3 = p.fifo.length ∧ dfld x 8 6 = if p.mode = 1 then p.credit else 0)

/-- A notice from a SEND port earns its sender 4 credits when the port is RECV-bound to it; credits reach a SEND port, at most 4; an entry joins the FIFO
of the port that is bound to its sender (R326, R329). -/
def Sys2Proof.ChannelMessagesArrive : Prop :=
  ∀ (s : State) (ix launch task n : Nat) (a z : PortRef) (x : Vec) (p : Port), s.saved = [] →
    let r := z.bank
    let b := s.bank r
    b.port z.port = some p → p.peer = a →
    (s.net[ix]? = some (.notice a z launch task) → (∀ k, s.slotLaunch z = some k → k = launch) → p.mode = 0 →
      exec (.bindNoticeArrival ix) s = .next { s with net := listDel s.net ix ++ [.credit z a 4 b.task] }) ∧
    (s.net[ix]? = some (.credit a z n task) → p.mode = 1 → ∃ t, exec (.creditArrival ix) s = .next t ∧ t.mem = s.mem ∧ t.net = listDel s.net ix ∧
      (t.bank r).ports = tset b.ports z.port { p with credit := min 4 (p.credit + n) }) ∧
    (s.net[ix]? = some (.entry a z x task) → p.mode = 0 → s.sentBefore ix a = false →
      ∃ t, exec (.channelMessageArrival ix) s = .next t ∧ t.mem = s.mem ∧ t.net = listDel s.net ix ∧
        (t.bank r).ports = tset b.ports z.port { p with fifo := p.fifo ++ [x] })

/-- A notice that comes before its port is bound stays with the bank, and one whose slot holds work of another launch is discarded with 0x114. An
entry waits while an earlier message of its sender is on its way, and one without a port that is RECV-bound to its sender is discarded with 0x113
(R326, R329). -/
def Sys2Proof.ChannelMessagesWaitOrAreLost : Prop :=
  ∀ (s : State) (ix launch task : Nat) (a z : PortRef) (x : Vec), s.saved = [] →
    let b := s.bank z.bank
    let lost := fun (t : State) (cause : Nat) => t.mem = s.mem ∧ t.net = listDel s.net ix ∧ t.bank z.bank = b ∧
      ((s.log.head + 1) % 256 ≠ s.log.tail → (tget 0 t.log.recs s.log.head).toNat % 1024 = cause)
    (s.net[ix]? = some (.notice a z launch task) →
      (b.port z.port = none → (∀ k, s.slotLaunch z = some k → k = launch) → ∃ t, exec (.bindNoticeArrival ix) s = .next t ∧ t.mem = s.mem ∧
        t.net = listDel s.net ix ∧ t.bank z.bank = { b with notices := tset b.notices z.port (a, launch) }) ∧
      ((∃ k, s.slotLaunch z = some k ∧ k ≠ launch) → ∃ t, exec (.bindNoticeArrival ix) s = .next t ∧ lost t 0x114)) ∧
    (s.net[ix]? = some (.entry a z x task) →
      (s.sentBefore ix a = true → exec (.channelMessageArrival ix) s = .next s) ∧
      (s.sentBefore ix a = false → (∀ p, b.port z.port = some p → p.mode ≠ 0 ∨ p.peer ≠ a) →
        ∃ t, exec (.channelMessageArrival ix) s = .next t ∧ lost t 0x113))

/-- A vector instruction waits, before it issues, for an entry of a RECV or STRM port that it reads, and for a credit of a SEND port that it writes; one
whose destination is a RECV or STRM port traps with 0x111 (R329). -/
def Sys2Proof.PortsHoldInstructions : Prop :=
  ∀ (s : State) (i : Instr) (srcs : List (BitVec 5)) (d : BitVec 5), portOperands i = some (srcs, d) →
    let held := fun (w : Wait) => s.setMe { s.me with wait := some w, waitPc := s.me.pc, waitSince := s.boot.dtb, waitLogged := false }
    ((∃ r ∈ srcs, ∃ k p, boundTo s r k p ∧ p.mode ≠ 1 ∧ p.fifo.length ≤ p.taken) → ∃ k, exec i s = .next (held (.chanRead k))) ∧
    ((∀ r ∈ srcs, ∀ k p, boundTo s r k p → p.mode = 1 ∨ p.taken < p.fifo.length) → ∀ k p, boundTo s d k p →
      (p.mode ≠ 1 → Trappable s → exec i s = .next (refusedBy s 0x111 0)) ∧
      (p.mode = 1 → p.credit = 0 → exec i s = .next (held (.credit k))))

/-- VMOV from a RECV or STRM port takes the head entry, which keeps its slot until the result is written; one to a SEND port takes a credit, and sends
nothing yet (R329). -/
def Sys2Proof.PortsFeedInstructions : Prop :=
  ∀ (s : State) (d a : BitVec 5) (k : Nat) (p : Port), Quiet s → s.me.pend = [] →
    (boundTo s a k p → p.mode ≠ 1 → p.taken < p.fifo.length → d.toNat < 28 →
      ∃ (x : Vec) (q : Pending), (∀ j < s.vl / 32, laneOf x 32 j = laneOf ((p.fifo.drop p.taken).headD 0) 32 j) ∧ q.dest = .v d.toNat ∧ q.frees = [k] ∧
        exec (.vmov d a 0) s = .next (ended s { s.me.wv d.toNat x with ports := tset s.me.ports k { p with taken := p.taken + 1 }, pend := [q] })) ∧
    (boundTo s d k p → p.mode = 1 → 0 < p.credit → a.toNat < 28 →
      ∃ (x : Vec) (q : Pending), (∀ j < s.vl / 32, laneOf x 32 j = src s a 32 j) ∧ q.dest = .v d.toNat ∧
        exec (.vmov d a 0) s = .next (ended s { s.me.wv d.toNat x with ports := tset s.me.ports k { p with credit := p.credit - 1 }, pend := [q] }))

/-- Channels bind, their messages arrive in order or are discarded, and bound ports feed and hold vector instructions (R325 to R329).
Forms that complete here, each with its effect: chbind, chunb, chstat, bindNoticeArrival, creditArrival, channelMessageArrival, vmov, vperm32, vaddI16,
vaddI32, vaddI8, vaddF32, vaddBf16, vaddF16, vaddE4m3, vcvtBf16F32, vrcp. -/
def Obligations.ChannelsBindAndDeliver : Prop :=
  ChannelsBind ∧ ChannelMessagesArrive ∧ ChannelMessagesWaitOrAreLost ∧ PortsHoldInstructions ∧ PortsFeedInstructions

/-! ### Engines that a core commands: sequences, mailboxes, copies and bursts -/

/-- A SEQ instruction with a legal control word, on a sequence of an enabled pool of its tenant, sends its command to the pool and parks for the reply, and once the
pool has carried it out the instruction is complete with its answer in g[D]; one with a wrong word traps with 0x20A, and one outside every pool with 0x202, with TOK and the sequence in TRAPVAL (R308 to R311). -/
def Sys2Proof.SequenceCommandsAreSent : Prop :=
  ∀ (s : State) (i : Instr) (f : SeqForm), Calm s → seqForm s i = some f → isXa s.cur.1 = false → s.me.kind < 2 →
    let val : Dword := BitVec.ofNat 64 (dfld f.ctl 31 0 + dfld f.handle 15 0 * 2 ^ 32)
    (f.handle.toNat < 2 ^ 16 → f.legal = true → dfld f.ctl 59 57 < 6 →
      (∀ p, s.poolOf s.me.tenant f.handle.toNat = some p →
        let c : SeqCmd := ⟨s.curRef, f.minor, f.handle.toNat, f.ctl, f.data, f.dest, s.me.numctl, []⟩
        let t := (parkedOn s s.me (.seq c)).setPool p { s.pool p with cmds := (s.pool p).cmds ++ [c] }
        exec i s = .next t ∧
          ∀ v fl w, (s.pool p).cmds = [] → (sqRun p c).run (t.setPool p { t.pool p with cmds := [] }) = .ok ((v, fl), w) →
            (w.bank s.curRef).ports = [] → (w.bank s.curRef).wins = [] →
            ∃ u, exec (.seqCommandExecute p) t = .next u ∧ u.mem = w.mem ∧ u.pools = w.pools ∧ (u.bank s.curRef).wait = none ∧
              (c.minor ≠ 1 → c.minor ≠ 2 → c.dest ≠ 0 → (u.bank s.curRef).rg c.dest = BitVec.ofNat 64 v)) ∧
      (s.poolOf s.me.tenant f.handle.toNat = none → Trappable s → exec i s = .next (trapEntered s s.me.pc 0x202 0 val))) ∧
    ((2 ^ 16 ≤ f.handle.toNat ∨ f.legal = false) → Trappable s → exec i s = .next (trapEntered s s.me.pc 0x20A 0 val))

/-- A pool carries out its oldest command as a whole: a command that succeeds answers its thread, and one that fails changes no memory and no pool but
for leaving the list (R302, R309). -/
def Sys2Proof.SequenceCommandsExecute : Prop :=
  ∀ (s : State) (p : Nat) (c : SeqCmd) (cs : List SeqCmd), (s.pool p).cmds = c :: cs → (s.bank c.owner).wait = some (.seq c) →
    (s.bank c.owner).wins = [] → c.owner.bank < 2 →
    let began := s.setPool p { s.pool p with cmds := cs }
    (∀ v f u, (sqRun p c).run began = .ok ((v, f), u) → (u.bank c.owner).ports = [] → (u.bank c.owner).wins = [] →
      ∃ t, exec (.seqCommandExecute p) s = .next t ∧ t.mem = u.mem ∧ t.pools = u.pools ∧ (t.bank c.owner).wait = none ∧
        (c.minor ≠ 1 → c.minor ≠ 2 → c.dest ≠ 0 → (t.bank c.owner).rg c.dest = BitVec.ofNat 64 v)) ∧
    ∀ e, (sqRun p c).run began = .error e → e.1 < 0x3F0 → s.dying c.owner = false → (s.bank c.owner).kind ≠ 3 → (s.bank c.owner).trap.inh = false → (s.bank c.owner).trap.vec ≠ 0 →
      ∃ t, exec (.seqCommandExecute p) s = .next t ∧ t.mem = s.mem ∧ t.pools = began.pools ∧ (t.bank c.owner).trap.cause = BitVec.ofNat 10 e.1 ∧
        (t.bank c.owner).trap.pc = (s.bank c.owner).waitPc ∧ (t.bank c.owner).pc = (s.bank c.owner).trap.vec

/-- Each sequence command answers what R312 to R320 say, and leaves the descriptors, page words, records and free runs of its pool as they say; one that
fails by R309 or R310 traps with its cause, and changes nothing. -/
def Sys2Proof.SequenceEffects : Prop :=
  ∀ (s : State) (p : Nat) (place : Nat → Nat) (D : Nat → SqDesc) (c : SeqCmd) (cs : List SeqCmd),
    PoolAt s p place → (s.pool p).cmds = c :: cs → (s.bank c.owner).wait = some (.seq c) → (s.bank c.owner).wins = [] → c.owner.bank < 2 → c.ports = [] →
    c.minor ≤ 10 → (s.pool p).sbase ≤ c.sid → c.sid < (s.pool p).sbase + (s.pool p).snum → SeqFits (s.pool p) (D c.sid) →
    (∀ i, (s.pool p).sbase ≤ i → i < (s.pool p).sbase + (s.pool p).snum → SeqIs s p place i (D i) ∧ ((D i).isOpen = false → D i = ⟨false, 0, 0, 0, 0, []⟩)) →
    let port := (s.bank c.owner).port (dfld c.ctl 49 48)
    let strm := match port with
      | some k => decide (k.mode = 2) && k.stream.isNone
      | none => false
    let r := seqEffect (s.pool p) (wordOf s p place) (fun va => memGet s.mem (place va)) D strm c
    (∀ e, r = .ok e →
      ∃ t, exec (.seqCommandExecute p) s = .next t ∧ SeqLeft s t p place cs e ∧ (t.bank c.owner).wait = none ∧
        (c.minor ≠ 1 → c.minor ≠ 2 → c.dest ≠ 0 → (t.bank c.owner).rg c.dest = BitVec.ofNat 64 e.answer) ∧
        (c.minor = 9 → ∀ k, port = some k →
          let x := s.pool p
          let d := D c.sid
          let ts := (((List.range (min (dfld c.ctl 31 0 + dfld c.ctl 47 32) d.lc)).drop (max (dfld c.ctl 31 0) d.w)).filter
            (fun t => bitOf (pwMask (wordOf s p place (physPage d.ext (t / 16)))) (t % 16)))
          let vq := vlBits c.owner.tile / 8
          ((t.bank c.owner).port (dfld c.ctl 49 48)).map (·.stream) = some (if ts = [] then none else
            some ⟨p, ts.map (fun t => physPage d.ext (t / 16) * 16 + t % 16), 0, (ts.map (fun t => physPage d.ext (t / 16))).eraseDups,
              ts.length * ((x.rbytes + vq - 1) / vq)⟩))) ∧
    ∀ cause val, r = .error (cause, val) → s.dying c.owner = false → (s.bank c.owner).kind ≠ 3 → (s.bank c.owner).trap.inh = false →
      (s.bank c.owner).trap.vec ≠ 0 →
      ∃ t, exec (.seqCommandExecute p) s = .next t ∧ t.mem = s.mem ∧ t.pool p = { s.pool p with cmds := cs } ∧
        (t.bank c.owner).trap.cause = BitVec.ofNat 10 cause ∧ (t.bank c.owner).trap.val = BitVec.ofNat 64 val ∧
        (t.bank c.owner).trap.addr = 0 ∧ (t.bank c.owner).trap.pc = (s.bank c.owner).waitPc ∧ (t.bank c.owner).pc = (s.bank c.owner).trap.vec

/-- SQUNPIN ends the stream of a port and discards its FIFO; where there is none it only completes (R321). -/
def Sys2Proof.SequencesUnpin : Prop :=
  ∀ (s : State) (a : BitVec 5), Quiet s → s.acqHeld s.curRef = false → isXa s.cur.1 = false → s.me.kind < 2 → (s.rg a).toNat < 4 →
    ((∀ p, s.me.port (s.rg a).toNat = some p → p.stream = none) → exec (.squnpin a) s = .next (ended s s.me)) ∧
    ∀ p t, s.me.port (s.rg a).toNat = some p → p.stream = some t →
      ∃ u, exec (.squnpin a) s = .next u ∧ u.me.ports = tset s.me.ports (s.rg a).toNat { p with fifo := [], taken := 0, stream := none } ∧
        u.me.g = s.me.g ∧ u.me.pc = s.me.pc + BitVec.ofNat 48 s.len

/-- The next entry of a stream enters its port's FIFO, and is one of those left (R320). -/
def Sys2Proof.StreamsDeliver : Prop :=
  ∀ (s u : State) (tile slot port v : Nat) (p : Port) (t : Stream) (k : Nat) (ks : List Nat),
    (s.bank ⟨tile, slot, 0⟩).port port = some p → p.stream = some t → t.toks = k :: ks → p.fifo.length < 4 →
    recordBytes t.pool 3 ((s.pool t.pool).arena.toNat + k * (s.pool t.pool).rbytes + t.pos)
      (min (vlBits tile / 8) ((s.pool t.pool).rbytes - t.pos)) s = (u, some v) →
    ∃ w q z, exec (.streamDelivery tile slot port) s = .next w ∧ w.mem = u.mem ∧ (w.bank ⟨tile, slot, 0⟩).port port = some q ∧
      q.fifo = p.fifo ++ [BitVec.ofNat 1024 v] ∧ q.stream = some z ∧ z.left = t.left - 1

/-- Sequence commands are sent, executed as a whole with the effect that each has on its pool, and streamed (R302, R308 to R321).
Forms that complete here, each with its effect: seqCommandExecute, sqres, sqst, sqstr, sqcmt, sqaband, sqlen, sqfork, sqrel, sqtrim, sqrd, sqcow, squnpin,
streamDelivery. -/
def Obligations.SequencesExecuteAsAWhole : Prop := SequenceCommandsAreSent ∧ SequenceCommandsExecute ∧ SequenceEffects ∧ SequencesUnpin ∧ StreamsDeliver

/-- MBWR writes a vector's bytes to the back buffer of a mailbox that its tile may write; MBPUB and MBPUBC post a publication; MBRD parks for its
transaction. Nothing else changes (R367 to R370). -/
def Sys2Proof.MailboxInstructions : Prop :=
  ∀ (s : State) (d a b : BitVec 5) (k off : Nat), Calm s → Memory.wf s.mem = true → k < 4096 → off < 512 → s.rg a = mboxVa k off →
    let m := s.mbox k
    (off % 64 = 0 → off < m.size → s.ownPubs s.curRef k = false → m.en = true → m.tenant = s.me.tenant → m.wtile = s.cur.1 →
      let n := min (s.vl / 8) (m.size - off)
      let loc := mbmLoc + k * 0x200 + (if m.front then 0 else 0x100) + off
      ∃ x, (∀ j < n, memGet x (loc + j) = (s.me.rv d.toNat).extractLsb' (8 * j) 8) ∧ (∀ j, (j < loc ∨ loc + n ≤ j) → memGet x j = memGet s.mem j) ∧
        exec (.mbwr d a) s = .next (ended { s with mem := x } s.me)) ∧
    (off = 0 → s.rg b &&& 0xFFE2FFFFFFFFFFFF = 0 → dfld (s.rg b) 52 50 < 6 →
      let post := fun (copy : Bool) => ended { s.setMbox k { m with pubs := m.pubs ++
        [⟨s.fresh, copy, (s.rg b).getLsbD 48 && decide (dfld (s.rg b) 52 50 ≠ 0), s.curRef, s.me.thread, s.me.task, false⟩] } with fresh := s.fresh + 1 } s.me
      exec (.mbpub a b) s = .next (post false) ∧ exec (.mbpubc a b) s = .next (post true)) ∧
    (off = 0 → s.rg b &&& 0xFFE1000000000000 = 0 → dfld (s.rg b) 52 50 < 6 → b ≠ 0 → b ≠ 31 →
      d.toNat + (m.size + s.vl / 8 - 1) / (s.vl / 8) ≤ 32 →
      exec (.mbrd d a b) s = .next (parkedOn s s.me (.mbrd k d.toNat b.toNat (s.rg b))))

/-- A publication arrives at an enabled mailbox of its tenant, flips the buffers, raises the version from all ones to 1, and takes the time; a copying one
copies the payload behind it. A read starts when no publication is due, and ends with payload, version and time (R369 to R371). -/
def Sys2Proof.MailboxTransactions : Prop :=
  ∀ (s : State) (k : Nat), Memory.wf s.mem = true →
    let m := s.mbox k
    (∀ p ps, m.pubs = p :: ps → p.arrived = false → p.rel = false →
      s.mailboxes.all (fun x => x.2.pubs.all (fun q => !(!q.arrived && q.owner == p.owner && decide (q.id < p.id)))) = true → m.en = true →
      ((s.task? p.task).bind (fun t => s.launch? t.launch)).map (·.tenant) = some m.tenant → p.owner.tile % 512 = m.wtile →
      exec (.mailboxPublicationArrival k) s = .next (s.setMbox k { m with pubs := { p with arrived := true } :: ps })) ∧
    (∀ p ps, m.pubs = p :: ps → p.arrived = true → m.reads = [] → m.copying = false →
      ∃ t, exec (.mailboxFlip k) s = .next t ∧ t.ctxs = s.ctxs ∧
        t.mbox k = { m with
          front := !m.front, version := (if m.version = BitVec.allOnes 48 then 1 else m.version + 1), time := s.dtb, pubs := ps, copying := p.copy } ∧
        (p.copy = false → t.mem = s.mem) ∧
        (p.copy = true → ∀ j < m.size, memGet t.mem (bufLoc k (t.mbox k) true + j) = memGet s.mem (bufLoc k (t.mbox k) false + j))) ∧
    exec (.mbpubcCopyComplete k) s = .next (s.setMbox k { m with copying := false }) ∧
    ∀ tile slot bank d b w, let r : BankRef := ⟨tile, slot, bank⟩
      (s.bank r).wait = some (.mbrd k d b w) →
      (m.reads.find? (fun x => x.1 == r) = none → s.ownPubs r k = false → m.pubs.any (·.arrived) = false → m.en = true →
        m.tenant = (s.bank r).tenant →
        exec (.mailboxReadTransaction tile slot bank) s = .next (s.setMbox k { m with reads := m.reads ++ [(r, s.boot.dtb)] })) ∧
      ∀ t0, m.reads.find? (fun x => x.1 == r) = some (r, t0) → Intact s → (s.bank r).wins = [] → (s.bank r).ports = [] → 0 < b → m.version ≠ 0 →
        (m.size + vlBits tile / 8 - 1) / (vlBits tile / 8) = 1 →
        ∃ t, exec (.mailboxReadTransaction tile slot bank) s = .next t ∧ t.mem = s.mem ∧ (t.bank r).wait = none ∧
          (t.bank r).rv d = BitVec.ofNat 1024 (s.load (bufLoc k m false) m.size) ∧ (t.bank r).rg (b + 1) = m.time ∧
          dfld ((t.bank r).rg b) 47 0 = m.version.toNat ∧ ((t.bank r).rg b).getLsbD 49 = false

/-- Mailboxes are written, published and read as R366 to R371 say.
Forms that complete here, each with its effect: mbwr, mbpub, mbpubc, mbrd, mailboxPublicationArrival, mailboxFlip, mbpubcCopyComplete,
mailboxReadTransaction. -/
def Obligations.MailboxesPublishAndRead : Prop := MailboxInstructions ∧ MailboxTransactions

/-- A copy command that passes R281 enters its tile's queue and completes, or waits for an entry of a full one; a wrong descriptor traps with 0x181 and a
wrong extension with 0x183. The command keeps what it took at issue: its descriptor, its start, its near address and its record (R270, R279 to R283). -/
def Sys2Proof.CopiesIssue : Prop :=
  ∀ (s : State) (i : Instr) (minor : Nat) (near va : Dword) (b : BitVec 5) (x0 x1 : BitVec 32) (x : Nat), Calm s → s.cur.1 < 512 →
    copyForm s i = some (minor, near, va, b, x0, x1) → (minor = 2 → isXa s.cur.1 = false ∧ s.me.kind < 2) → DescriptorAt s va x →
    let d := parseDesc x
    let recAt := s.me.recBase + 8 * fld x0.toNat 16 0
    (Trappable s →
      (descBad x = true ∨ 24576 < d.bytes → exec i s = .next (refusedBy s 0x181 0)) ∧
      (descBad x = false → d.bytes ≤ 24576 → extBad minor d x0.toNat x1.toNat = true → exec i s = .next (refusedBy s 0x183 0))) ∧
    (descBad x = false → d.bytes ≤ 24576 → extBad minor d x0.toNat x1.toNat = false → fld x0.toNat 23 21 < 6 →
      (minor ≠ 2 → near.toNat < 2 ^ 48 ∧ near.toNat % 64 = 0 ∧ s.checkNear s.req near.toNat d.bytes (if bitOf x0.toNat 18 then 0 else 1) = true) →
      (bitOf x0.toNat 17 = false → recAt + 8 ≤ recEnd s.cur.1 s.me) →
      ∃ c : CopyCmd, c.id = s.fresh ∧ c.owner = s.curRef ∧ c.thread = s.me.thread ∧ c.task = s.me.task ∧ c.minor = minor ∧ c.desc = natBytes 128 x ∧
        c.start = (List.range d.nd).map (fun j => toS 32 (src s b 32 j)) ∧ c.near = near.toNat ∧ c.out = bitOf x0.toNat 18 ∧
        c.rel = bitOf x0.toNat 19 ∧ c.acq = bitOf x0.toNat 20 ∧ c.scope = fld x0.toNat 23 21 ∧
        c.recAt = (if bitOf x0.toNat 17 then none else some (lsLoc s.cur.1 recAt)) ∧ c.chunks = 0 ∧ c.status = 0 ∧ c.got = [] ∧ c.parked = [] ∧ c.todo = c.chunkList d ∧
        let t := s.tile s.cur.1
        (t.bteUsed < 16 → exec i s = .next (ended { s.setTile s.cur.1 { t with bte := t.bte ++ [c] } with fresh := s.fresh + 1 } s.me)) ∧
        (16 ≤ t.bteUsed → exec i s = .next (parkedOn { s with fresh := s.fresh + 1 } s.me (.bteFull c))))

/-- A copy command or BREAD whose descriptor lies on a not-present page has issued: the PC has passed it, and it waits for replay-all with what it
took at issue (R266, R281). -/
def Sys2Proof.DescriptorsPark : Prop :=
  ∀ (s u : State) (i : Instr) (minor : Nat) (near va : Dword) (b : BitVec 5) (x0 x1 : BitVec 32), Calm s →
    (copyForm s i = some (minor, near, va, b, x0, x1) ∧ (minor = 2 → isXa s.cur.1 = false ∧ s.me.kind < 2) ∨
      (∃ a, i = .bread a b x0 x1 ∧ minor = 3 ∧ near = 0 ∧ va = s.rg a ∧ fld x0.toNat 23 21 < 6 ∧ s.me.kind = 0)) →
    s.check s.req va.toNat 64 0 = (u, .absent) →
    ∃ t, exec i s = .next t ∧ t.me = (parkedOn s s.me (.desc minor va near (s.me.rv b.toNat) x0 x1 [])).me ∧ t.mem = s.mem ∧ t.tiles = s.tiles

/-- CTEST answers the record's word at once; CWAIT answers it once the tag is full or every chunk of the mask is marked, and parks before; CCLR empties
the record (R288). -/
def Sys2Proof.CopyWaitsAnswer : Prop :=
  ∀ (s u : State) (d a b : BitVec 5) (loc : Nat), Calm s → Memory.wf s.mem = true → isNear (s.rg a).toNat = true →
    (Reachable s (s.rg a) 8 0 u loc → dfld (s.rg b) 63 51 = 0 → dfld (s.rg b) 50 48 < 6 →
      let mask := dfld (s.rg b) 47 0
      exec (.ctest d a b) s = .next (landed u 0 (.g d.toNat) ((wordAt s loc).setWidth 1024)) ∧
      (s.tag loc = true ∨ (mask ≠ 0 ∧ (wordAt s loc).toNat &&& mask = mask) →
        exec (.cwait d a b) s = .next (landed u 0 (.g d.toNat) ((wordAt s loc).setWidth 1024))) ∧
      (¬ (s.tag loc = true ∨ (mask ≠ 0 ∧ (wordAt s loc).toNat &&& mask = mask)) →
        exec (.cwait d a b) s = .next (parkedOn u s.me (.copy loc (BitVec.ofNat 48 mask) d.toNat)))) ∧
    (Reachable s (s.rg a) 8 1 u loc → isLsLoc loc = true → u.armedOn (locTile loc) (locOff loc) = none → (s.tile (locTile loc)).waits = [] →
      ∃ m, Stored s.mem m loc 8 0 ∧ exec (.cclr a) s = .next (ended { u.setTag loc false with mem := m } s.me))

/-- A command that waited enters a queue with room; a chunk of a prefetch is marked done; one of a copy in keeps the elements of each granule that it
reads and is done with the last, when each element's data, or FILL out of bounds, stand in the near memory with full tags; one of a copy out is done once its elements are written, each with its near bytes, and nothing else of memory changes;
one whose far side is refused ends the command's further reads with status 0x10; a finished command without a record leaves the queue, and its bytes are
counted (R270, R277, R278, R284, R285). -/
def Sys2Proof.CopiesComplete : Prop :=
  ∀ (s : State) (tile ix chunk : Nat) (c : CopyCmd),
    ((s.tile tile).bteUsed < 16 → (s.bank ⟨tile, ix / 2, ix % 2⟩).wait = some (.bteFull c) → (s.bank ⟨tile, ix / 2, ix % 2⟩).wins = [] →
      ∃ t, exec (.bteCommandEntry tile ix) s = .next t ∧ t.mem = s.mem ∧ (t.tile tile).bte = (s.tile tile).bte ++ [c] ∧
        (t.bank ⟨tile, ix / 2, ix % 2⟩).wait = none) ∧
    ((s.tile tile).bte[ix]? = some c → chunk ∈ c.todo → chunk ∉ c.parked → (s.tile tile).reading < 32 →
      s.mayRead c.rel c.id c.owner c.task c.scope (c.got.any (fun g => g.1 == chunk)) = true →
      let d := parseDesc (bytesNat c.desc)
      let q := s.engineReq c.owner c.task
      let xs := (List.range (min 512 (d.bytes - 512 * chunk) / d.esz)).map (fun i => c.elemAt d (512 * chunk + i * d.esz))
      (c.minor = 2 → c.recAt = none → ∃ e, exec (.bteChunkComplete tile ix chunk) s = .next (s.setCopy tile e) ∧ e.id = c.id ∧
        e.todo = c.todo.filter (· != chunk) ∧ e.chunks = c.chunks ||| (1#48 <<< chunk)) ∧
      let l := c.unread d chunk xs
      (∀ u va cause, c.minor ≠ 2 → (c.out = true ∧ farTargets q d xs s = (u, .error (.fault va cause)) ∨
          c.out = false ∧ readGranule q d (nextGranule d l) s = (u, .error (.fault va cause))) →
        ∃ t e, exec (.bteChunkComplete tile ix chunk) s = .next t ∧ t.mem = s.mem ∧ (t.tile tile).bte = copyNow s tile c e ∧ e.id = c.id ∧
          e.todo = c.todo.filter (fun k => k != chunk && c.got.any (fun g => g.1 == k)) ∧ e.status = 0x10) ∧
      (∀ u r, c.minor ≠ 2 → c.out = false → c.recAt = none → c.near < 0x100000 → Unwatched s → NoneWatchTags s →
        readGranule q d (nextGranule d l) s = (u, .ok r) → u.waitsUnit c.pass (r.map (·.2.1)) = none →
        ∃ t e, exec (.bteChunkComplete tile ix chunk) s = .next t ∧ t.ctxs = s.ctxs ∧ (t.tile tile).bte = copyNow s tile c e ∧ e.id = c.id ∧
          (r.length ≠ l.length → t.mem = s.mem ∧ e.todo = c.todo ∧ e.chunks = c.chunks ∧
            e.got = c.got ++ r.map (fun x => (chunk, x.1, x.2.2))) ∧
          (r.length = l.length → e.todo = c.todo.filter (· != chunk) ∧ e.chunks = c.chunks ||| (1#48 <<< chunk) ∧
            (descBad (bytesNat c.desc) = false → c.near % 64 = 0 → c.near + (d.bytes + 1023) / 1024 * 1024 ≤ 0x100000 → Memory.wf s.mem = true →
              let place := fun i => lsLoc (c.owner.tile % 512) (c.near + swzOf d.swz (512 * chunk + i * d.esz))
              let got := c.got ++ r.map (fun x => (chunk, x.1, x.2.2))
              (∀ x ∈ got, x.2.2 < 2 ^ (8 * d.esz)) →
              (∀ i x, xs[i]? = some (some x) →
                let v := if inBounds d x then ((got.find? (fun g => g.1 == chunk && g.2.1 == i)).map (·.2.2)).getD 0 else d.fill % 2 ^ (8 * min d.esz 4)
                (∀ n < d.esz, memGet t.mem (place i + n) = BitVec.ofNat 8 (v / 2 ^ (8 * n))) ∧ t.tag (place i) = true) ∧
              ∀ a, (∀ i x, xs[i]? = some (some x) → a < place i ∨ place i + d.esz ≤ a) → memGet t.mem a = memGet s.mem a))) ∧
      ∀ (u : State) (ts : List (Option Target)), Intact s → c.minor ≠ 2 → c.out = true → c.recAt = none → farTargets q d xs s = (u, .ok ts) →
        (∀ y : Target, some y ∈ ts → ∃ loc, y = Target.mem loc ∧ loc + d.esz ≤ 2 ^ 45) → u.waitsUnit c.pass (ts.filterMap id) = none →
        c.near + (d.bytes + 1023) / 1024 * 1024 ≤ 0x100000 → Memory.wf s.mem = true →
        ∃ t e, exec (.bteChunkComplete tile ix chunk) s = .next t ∧ t.ctxs = s.ctxs ∧ (t.tile tile).bte = copyNow s tile c e ∧ e.id = c.id ∧
          e.todo = c.todo.filter (· != chunk) ∧ e.chunks = c.chunks ||| (1#48 <<< chunk) ∧
          (∀ a, (∀ j loc : Nat, ts[j]? = some (some (.mem loc)) → a < loc ∨ loc + d.esz ≤ a) → memGet t.mem a = memGet s.mem a) ∧
          ∀ j loc : Nat, ts[j]? = some (some (.mem loc)) → (∀ k l : Nat, j < k → ts[k]? = some (some (.mem l)) → l + d.esz ≤ loc ∨ loc + d.esz ≤ l) →
            ∀ n < d.esz, memGet t.mem (loc + n) = BitVec.ofNat 8
              (s.readTarget (nearTarget (c.owner.tile % 512) (c.near + swzOf d.swz (512 * chunk + j * d.esz))) d.esz / 2 ^ (8 * n))) ∧
    ((s.tile tile).bte[ix]? = some c → c.todo = [] → s.mayRead c.rel c.id c.owner c.task c.scope false = true → c.recAt = none → c.final < 4 → c.minor ≠ 2 →
      ∃ t, exec (.bteCommandComplete tile ix) s = .next t ∧ t.mem = s.mem ∧ (t.tile tile).bte = (s.tile tile).bte.filter (fun x => x.id != c.id) ∧
        (t.bank c.owner).copyBytes = (s.bank c.owner).copyBytes + BitVec.ofNat 64 (c.moved (parseDesc (bytesNat c.desc))))

/-- A command with a record ORs the bit of each chunk into its word and leaves the tag; at completion it ORs every chunk bit that it has set, writes SWZID
and STATUS, and sets the tag full. A CWAIT on the word whose Done holds then goes on with the word, and one whose Done does not stays (R276, R277, R288). -/
def Sys2Proof.RecordsTell : Prop :=
  (∀ (s : State) (tile ix chunk loc : Nat) (c : CopyCmd), Unwatched s → NoneWatchTags s → Memory.wf s.mem = true → isLsLoc loc = true → loc % 8 = 0 →
    (s.tile tile).bte[ix]? = some c → c.recAt = some loc →
    (c.minor = 2 → chunk ∈ c.todo → chunk ∉ c.parked → chunk < 48 → (s.tile tile).reading < 32 →
      s.mayRead c.rel c.id c.owner c.task c.scope (c.got.any (fun g => g.1 == chunk)) = true →
      let word := wordAt s loc ||| 1#64 <<< chunk
      (OnlyWaiter s loc none → ∃ t, exec (.bteChunkComplete tile ix chunk) s = .next t ∧ Stored s.mem t.mem loc 8 word ∧ t.tag loc = s.tag loc ∧
        t.ctxs = s.ctxs) ∧
      ∀ r mask reg, OnlyWaiter s loc (some r) → r.tile < 512 → r.slot < 8 → r.bank < 2 → (s.bank r).wait = some (.copy loc mask reg) →
        (s.bank r).wins = [] → (s.bank r).ports = [] →
        ∃ t, exec (.bteChunkComplete tile ix chunk) s = .next t ∧ Stored s.mem t.mem loc 8 word ∧
          (if s.tag loc = true ∨ (mask ≠ 0 ∧ word.toNat &&& mask.toNat = mask.toNat) then
            (t.bank r).wait = none ∧ (reg ≠ 0 → (t.bank r).rg reg = word) else t.bank r = s.bank r)) ∧
    (c.todo = [] → s.mayRead c.rel c.id c.owner c.task c.scope false = true → c.status < 256 →
      let d := parseDesc (bytesNat c.desc)
      let word : Dword := (wordAt s loc &&& 0xFFFFFFFFFFFF) ||| c.chunks.setWidth 64 ||| BitVec.ofNat 64 (d.swz * 2 ^ 48 + c.final * 2 ^ 56)
      OnlyWaiter s loc none → ∃ t, exec (.bteCommandComplete tile ix) s = .next t ∧ Stored s.mem t.mem loc 8 word ∧ t.tag loc = true ∧
        (t.tile tile).bte = (s.tile tile).bte.filter (fun x => x.id != c.id) ∧
        (t.bank c.owner).copyBytes = (s.bank c.owner).copyBytes +
          (if c.minor ≠ 2 ∧ c.final < 4 then BitVec.ofNat 64 (c.moved d) else 0))) ∧
  ∀ (s : State) (tile ix : Nat) (c : BreadCmd), Unwatched s → NoneWatchTags s → Memory.wf s.mem = true → isLsLoc c.recAt = true → c.recAt % 8 = 0 →
    (s.tile tile).bte[ix]? = none → (s.tile tile).breads[ix - (s.tile tile).bte.length]? = some c → c.bursts = [] →
    (c.next = c.total ∨ c.status ≠ 0) → s.mayRead c.rel c.id c.owner c.task c.scope false = true → c.pins = [] → c.status < 256 → OnlyWaiter s c.recAt none →
    ∃ t, exec (.bteCommandComplete tile ix) s = .next t ∧ t.tag c.recAt = true ∧
      Stored s.mem t.mem c.recAt 8 (BitVec.ofNat 64 (c.counted % 2 ^ 32 + c.flags.toNat * 2 ^ 32 + c.final * 2 ^ 56)) ∧
      (t.tile tile).breads = (s.tile tile).breads.filter (fun x => x.id != c.id) ∧ t.ctxs = s.ctxs

/-- Copies issue, are waited for, and complete, and the records of commands, those of burst reads too, tell what is done (R270 to R288, R295).
Forms that complete here, each with its effect: tcopy, tslide, lpref, bread, ctest, cwait, cclr, bteCommandEntry, bteChunkComplete, bteCommandComplete. -/
def Obligations.CopiesIssueAndComplete : Prop := CopiesIssue ∧ DescriptorsPark ∧ CopyWaitsAnswer ∧ CopiesComplete ∧ RecordsTell

/-- A BREAD of a task thread that passes R290 enters the queue with its pool, role, tag, record and od registers (R289, R290). -/
def Sys2Proof.BreadsIssue : Prop :=
  ∀ (s : State) (a b : BitVec 5) (x0 x1 : BitVec 32) (x : Nat) (k : Task) (l : Launch), Calm s → s.cur.1 < 512 → s.me.kind = 0 →
    s.task? s.me.task = some k → s.launchOf s.me = some l → DescriptorAt s (s.rg a) x → fld x0.toNat 23 21 < 6 →
    let d := parseDesc x
    let recAt := s.me.fbase + 8 * fld x0.toNat 16 0
    descBad x = false → d.nd ≤ 3 → d.box.getD 0 0 * d.esz % 64 = 0 → d.bytes / 64 ≤ 2 ^ 24 → bitOf x0.toNat 17 = false → bitOf x0.toNat 18 = false →
    fld x0.toNat 31 24 = 0 → fld x1.toNat 7 0 ≠ 0 → (∀ j < 8, bitOf (fld x1.toNat 7 0) j = true → j ∈ k.slots) →
    (l.role (fld x1.toNat 15 8) 2).isSome = true → recAt + 8 ≤ recEnd s.cur.1 s.me → (s.tile s.cur.1).bteUsed < 16 →
    ∃ (u : State) (c : BreadCmd), exec (.bread a b x0 x1) s = .next (ended u s.me) ∧ u.me = s.me ∧
      (u.tile s.cur.1).breads = (s.tile s.cur.1).breads ++ [c] ∧ c.id = s.fresh ∧ c.owner = s.curRef ∧ c.thread = s.me.thread ∧ c.task = s.me.task ∧ c.desc = natBytes 128 x ∧
      c.start = (List.range d.nd).map (fun j => toS 32 (src s b 32 j)) ∧ c.recAt = lsLoc s.cur.1 recAt ∧ c.pool = fld x1.toNat 7 0 ∧
      c.role = fld x1.toNat 15 8 ∧ c.tag = fld x1.toNat 31 16 ∧ c.ods = s.me.od ∧ c.total = d.bytes / 64 ∧ c.next = 0 ∧ c.counted = 0 ∧
      c.status = 0 ∧ c.bursts = []

/-- A burst that lies wholly outside the tensor is counted at once, and any other is promised the lowest free slot of the pool that no queued burst takes,
else a place in the queue; a burst whose read is refused is dropped, and the BREAD fails with status 0x10; a burst whose data are there is born in its free slot, with R292's seeds (R291 to R293, R295). -/
def Sys2Proof.BurstsBorn : Prop :=
  (∀ (s : State) (tile ix : Nat) (c : BreadCmd) (k : Task), (s.tile tile).breads[ix]? = some c → s.task? c.task = some k → k.saving = false →
    c.next ∉ c.parked → s.mayRead c.rel c.id c.owner c.task c.scope false = true → c.bursts.find? (fun u => u.ix == c.next) = none → c.next < c.total →
    c.status = 0 → (s.tile tile).reading < 32 →
    let d := parseDesc (bytesNat c.desc)
    let out := (List.range (64 / d.esz)).all (fun j => !inBounds d (c.elem d c.next j))
    let slot := (List.range 8).find? (fun j => bitOf c.pool j && s.opens k j && !s.awaited tile j)
    ∃ e, exec (.burstDataReturn tile ix c.next) s = .next (if out = true ∨ slot.isSome = true ∨ s.placesUsed tile < 16
        then s.setBread tile e else s) ∧ e.id = c.id ∧ e.next = c.next + 1 ∧
      e.counted = (if out then c.counted + 1 else c.counted) ∧
      e.bursts = (if out then c.bursts else match slot with
        | some j => c.bursts ++ [⟨c.next, some j, none, [], none, none, none⟩]
        | none => c.bursts ++ [⟨c.next, none, some 0, [], none, none, none⟩])) ∧
  (∀ (s v : State) (tile ix : Nat) (c : BreadCmd) (u : Burst) (k : Task) (va cause : Nat), (s.tile tile).breads[ix]? = some c →
    s.task? c.task = some k → u.ix ∉ c.parked → s.mayRead c.rel c.id c.owner c.task c.scope false = true →
    c.bursts.find? (fun x => x.ix == u.ix) = some u → u.data = none →
    let d := parseDesc (bytesNat c.desc)
    let l := (List.range (64 / d.esz)).filterMap (fun i => let x := c.elem d u.ix i
      if inBounds d x && !u.got.any (fun g => g.1 == i) then some (i, x) else none)
    readGranule (s.engineReq c.owner c.task) d (nextGranule d l) s = (v, .error (.fault va cause)) →
    ∃ t e, exec (.burstDataReturn tile ix u.ix) s = .next t ∧ t.mem = s.mem ∧ (t.tile tile).breads = ((s.setBread tile e).tile tile).breads ∧
      e.id = c.id ∧ e.status = (if c.status = 0 then 0x10 else c.status) ∧ e.bursts = c.bursts.filter (fun x => x.ix != u.ix)) ∧
  ∀ (s : State) (tile slot : Nat) (c : BreadCmd) (u : Burst) (k : Task) (l : Launch) (us : List (BreadCmd × Burst)),
    ((s.tile tile).breads.flatMap (fun c => (c.bursts.filter (fun u => u.promised == some slot && u.born.isNone)).map (fun u => (c, u)))) =
      (c, u) :: us → u.data.isSome = true → s.task? c.task = some k → s.launch? k.launch = some l → s.slotFree k slot = true → k.tile = tile →
    ∃ t, exec (.burstBirth tile slot) s = .next t ∧ t.mem = s.mem ∧
      let b := t.bank ⟨tile, slot, 0⟩
      b.seeded = true ∧ b.kind = 1 ∧ b.task = k.id ∧ b.lane = slot ∧ b.burst = some (c.id, u.ix) ∧ b.od = c.ods ∧
        b.pc = l.hdr + BitVec.ofNat 48 ((l.role c.role 2).getD 0) ∧ b.rv 0 = (u.data.getD 0).setWidth 1024 ∧
        b.rg 4 = BitVec.ofNat 64 u.ix ∧ b.rg 5 = BitVec.ofNat 64 c.tag ∧ b.rg 6 = l.arg

/-- Burst reads issue, and their bursts are requested, counted and born (R289 to R293).
Forms that complete here, each with its effect: bread, burstDataReturn, burstBirth. -/
def Obligations.BurstsAreRequestedAndBorn : Prop := BreadsIssue ∧ BurstsBorn

/-! ### The matrix unit -/

/-- A legal matrix command enters its queue and completes; a full queue makes its thread wait; a foreign unit traps with 0x144; and an illegal command traps
with the cause of R220. Nothing else changes (R213, R220, R222, R225; which commands hold an entry is the model's reading, log entry 32). -/
def Sys2Proof.MatrixCommandsIssue : Prop :=
  ∀ (s : State) (i : Instr) (minor : Nat) (ga ctl : Dword) (v : Vec), Calm s → matrixForm s i = some (minor, ga, ctl, v) →
    let c : MxCmd := { s.mxCmd minor ga ctl (s.me.rod (dfld ctl 16 14)) with vdata := v }
    (MatrixOpen s → c.cause (s.me.kind == 2) (isXa s.cur.1) = none →
      (queueRoom s → exec i s = .next (ended (queued s c) s.me)) ∧
      (¬ queueRoom s → ∃ t, exec i s = .next t ∧ t.me = (parkedOn s s.me (.mxFull c)).me ∧ t.mem = s.mem ∧ t.fresh = s.fresh + 1)) ∧
    (Trappable s →
      (¬ MatrixOpen s → exec i s = .next (refusedBy s 0x144 0)) ∧
      ∀ k, MatrixOpen s → c.cause (s.me.kind == 2) (isXa s.cur.1) = some k → 64 ≤ k → exec i s = .next (refusedBy s k 0))

/-- MRDA enters its queue with an open window for its result; MWAIT completes once the thread has no command left and parks before; MSTAT shows the queues,
the formats, the owner and the counters; LDT enters with its rows read and transposed (R231, R233, R234, R236). That MSTAT counts only commands that have not
started (log entry 32), and that MRDA takes NUMCTL as it issues (log entry 31), are the model's readings. -/
def Sys2Proof.MatrixReadsAndWaits : Prop :=
  ∀ (s : State) (d a b : BitVec 5) (k : BitVec 4), Calm s → s.me.mxErr = none →
    (MatrixOpen s → let c := s.mxCmd 4 s.me.numctl (s.rg b) 0
      c.cause (s.me.kind == 2) (isXa s.cur.1) = none → queueRoom s → k ≠ 0 →
      exec (.mrda d b k) s = .next (ended (queued s c) { s.me with
        nextWin := s.me.nextWin + 1, wins := [⟨k.toNat, .v d.toNat, none, none, 0, s.me.nextWin, false, []⟩] })) ∧
    (MatrixOpen s → s.mxBusy s.curRef = false → ∃ t, exec .mwait s = .next t ∧ t.me = passed s.me s.len ∧ t.mem = s.mem) ∧
    (MatrixOpen s → s.mxBusy s.curRef = true → ∃ t, exec .mwait s = .next t ∧ t.me.wait = some .mwait ∧ t.me.waitPc = s.me.pc ∧ t.mem = s.mem) ∧
    (∃ x p, exec (.mstat d) s = .next (ended s { s.me.wg d.toNat x with pend := p }) ∧
      let m := (s.tile s.cur.1).mx
      ((m.tq.filter (fun c => c.started.isNone)).length < 16 → (m.lq.filter (fun c => c.started.isNone)).length < 8 → m.active.fmt < 16 →
        m.shadow.fmt < 16 → dfld x 3 0 = (m.tq.filter (fun c => c.started.isNone)).length ∧
          dfld x 6 4 = (m.lq.filter (fun c => c.started.isNone)).length ∧ x.getLsbD 8 = m.frozen ∧ x.getLsbD 9 = m.clearing ∧
          dfld x 13 10 = m.active.fmt ∧ dfld x 17 14 = m.shadow.fmt ∧ x.getLsbD 18 = m.owner.isSome ∧ dfld x 38 32 = m.rflags.toNat ∧
          dfld x 63 40 = m.steps % 2 ^ 24)) ∧
    (MatrixOpen s → let c := s.mxCmd 16 (s.rg a) (s.rg b) (s.me.rod (dfld (s.rg b) 26 24))
      c.cause (s.me.kind == 2) (isXa s.cur.1) = none → queueRoom s →
      ∀ at_ : Nat → Nat,
        let rowBytes := if mxClass c.fmt = some 0 then 32 else if mxClass c.fmt = some 1 then 16 else 64
        let ps := (List.range (mxK c.fmt)).flatMap (fun j => granules 3 (((s.rg a).toNat + j * dfld (s.rg b) 23 0) % 2 ^ 64) rowBytes)
        (∀ p ∈ ps, Reachable s (BitVec.ofNat 64 p.1) 1 0 s (at_ p.1)) →
        exec (.ldt a b k) s = .next (landed
          (queued s { c with data := transposed c.fmt (ps.flatMap (fun p => s.bytes (at_ p.1) p.2)) }) k.toNat .none 0)) ∧
    ∀ (cmd : BitVec 32) (notify : BitVec 64) (minor : Nat), s.me.kind < 2 → minor ∈ [0, 1, 2, 3, 7, 8] → fld cmd.toNat 5 0 = minor →
      fld cmd.toNat 31 16 = 0 → (s.rg a).toNat < 512 → s.usable s.me.tenant (s.rg a).toNat = true → notifyOk notify.toNat = true →
      let two := minor = 1 ∨ minor = 8
      let ga := if two ∨ minor = 3 then 0 else s.me.rg (fld cmd.toNat 10 6)
      let ctl := if two then 0 else s.me.rg (fld cmd.toNat 15 11)
      let c := s.mxCmd minor ga ctl (s.me.rod (dfld ctl 16 14))
      c.cause false (isXa (s.rg a).toNat) = none →
      exec (.mcmd d a b cmd notify) s = .next ((parkedOn { s with fresh := s.fresh + 1 } s.me (.mcmd d.toNat)).send
        (.mcmd (s.rg a).toNat (s.rg b) s.me.tenant { c with remote := true, notify := if notify = 0 then none else some notify.toNat }))

/-- Matrix instructions issue, are read out and waited for (R213, R220, R222, R225, R231 to R234, R236, R237).
The model's readings in it are those of log entries 31 and 32. -/
def Obligations.MatrixCommandsIssue : Prop := Sys2Proof.MatrixCommandsIssue ∧ MatrixReadsAndWaits

/-- A command that waited enters a queue with room, as the last one; the first command of a queue that has not started starts when those before it let it and
nothing holds it, and holds every command behind it until then; the unit reads the record word and the scale words of a step that heads its queue; in each cycle in which a row of a step may enter, every element of that row becomes EA40's exactly rounded sum; 24 cycles
after its last row the step is complete, and its flags are in its thread's NUMCTL; loads, MWSWAP, MXSWAP, MZERO, MWRA and MRDA, once their cycles are over,
leave their plane, exchange the planes, exchange the banks, clear their rows, write their lanes as EA40, and give their thread the row that they read (R158,
R222 to R224, R226 to R228, R230 to R232). -/
def Sys2Proof.MatrixCommandsRun : Prop :=
  ∀ (s : State) (tile : Nat) (c : MxCmd), let m := (s.tile tile).mx
    (∀ ix < 16, let r : BankRef := ⟨tile, ix / 2, ix % 2⟩
      (s.bank r).wait = some (.mxFull c) → (∀ j < 16, j ≠ ix → ∀ e, (s.bank ⟨tile, j / 2, j % 2⟩).wait ≠ some (.mxFull e)) →
      m.room ((s.bank r).kind == 2) = true → (s.bank r).wins = [] →
      ∃ t, exec (.matrixCommandEntry tile) s = .next t ∧ t.mem = s.mem ∧ (t.bank r).wait = none ∧ (t.tile tile).mx = m.push ((s.bank r).kind == 2) { c with id := s.fresh } ∧ t.fresh = s.fresh + 1) ∧
    (∀ (leash : Bool) (pre post : List MxCmd), m.queue leash = pre ++ c :: post → (∀ x ∈ pre, x.started.isSome = true) → c.started = none →
      (¬ MayStart s tile leash pre c → exec (.matrixCommandStart tile leash) s = .next s) ∧
      (MayStart s tile leash pre c → Intact s → startError s tile leash c = none → s.heldBack tile c = false → (s.bank c.owner).rlx = [] →
        (∀ x, s.task? c.sender = some x → x.killing = false) →
        (if leash then (s.tile tile).seize.st = 3 ∧ (∃ k, s.task? (s.tile tile).seize.task = some k ∧ k.killing = false) ∧ ∀ x ∈ m.tq, x.inArray = false
          else m.frozen = false ∧ m.clearing = false ∧ (∀ x ∈ m.lq, x.inArray = false) ∧
            ∀ k, m.owner = some k → s.resident k = true ∧ ∃ x, s.task? k = some x ∧ x.killing = false ∧ x.saving = false) →
        exec (.matrixCommandStart tile leash) s = .next (s.setTile tile { s.tile tile with
          mx := m.setCmd { c with started := some s.cycle, gath := if c.minor = 7 then gathRead s tile c else [] } }))) ∧
    (∀ leash : Bool, OnlyCommand m leash c → c.started = none → c.readDone = false → s.mxHalts tile leash = false →
      s.mxCycle tile = s.setTile tile { s.tile tile with mx := m.setCmd (
        if c.norec = false ∧ c.recw = none then { c with recw := some (s.load (lsLoc tile c.recoff) 8) }
        else { c with scl := c.scl ++ (List.range (min 32 (2 * c.n - c.scl.length))).map (fun j =>
          BitVec.ofNat 16 (s.load (lsLoc tile (c.scaleAt + 2 * c.scl.length + 2 * j)) 2)) }) }) ∧
    (∀ leash : Bool, OnlyCommand m leash c → c.isStep = true → c.started.isSome = true → c.rows.length < c.n → c.nextRow tile ≤ s.cycle →
      (c.rows = [] ∨ c.rows.length ∉ c.cuts ∨ s.mxHalts tile leash = false) → c.row0 + c.n ≤ 64 → c.bank < 3 →
      let t := s.mxCycle tile
      let row := c.row0 + c.rows.length
      t.mem = s.mem ∧ t.ctxs = s.ctxs ∧ (∃ fl, OnlyCommand (t.tile tile).mx leash { c with rows := c.rows ++ [(s.cycle, fl)] }) ∧
        ∀ k, tget 0 ((t.tile tile).mx.acc c.bank) k =
          if 32 * row ≤ k ∧ k < 32 * (row + 1) then
            BitVec.ofNat 40 (ea40Step (tget 0 (m.acc c.bank) k) (stepRow s tile c c.rows.length) ((if leash then m.leash else m.active).column (k % 32))).1
          else tget 0 (m.acc c.bank) k) ∧
    (∀ leash : Bool, OnlyCommand m leash c → Alone s c → s.atUnit = [] → c.isStep = true → c.started.isSome = true → c.stepEnd = c.n → c.rows.length = c.n →
      ((c.rows[c.n - 1]?).map (·.1)).getD 0 + (if isXa tile then 4 else 1) + 24 ≤ s.cycle → (s.bank c.owner).task = c.sender →
      let fl := (c.rows.drop c.drained).foldl (fun (f : BitVec 7) x => f ||| x.2) 0
      ∃ t, exec (.matrixStepComplete tile leash) s = .next t ∧ t.mem = s.mem ∧ (t.tile tile).mx.tq = [] ∧ (t.tile tile).mx.lq = [] ∧
        (∀ b, (t.tile tile).mx.acc b = m.acc b) ∧ (t.tile tile).mx.steps = (if leash then m.steps else m.steps + 1) ∧
        (t.bank c.owner).numctl = (s.bank c.owner).numctl ||| (fl.setWidth 64 <<< 16)) ∧
    ((m.tq = [c] ∧ m.lq = [] ∧ Alone s c ∧ s.atUnit = [] ∧ c.started.isSome = true ∧ c.started.getD 0 + c.duration ≤ s.cycle) →
      let done_ := fun (x : Matrix) => Host.Outcome.next (s.setTile tile { s.tile tile with mx := without x c })
      (c.minor = 1 → exec (.matrixCommandComplete tile false 0) s = done_ { m with active := m.shadow, shadow := m.active }) ∧
      (c.minor = 8 → exec (.matrixCommandComplete tile false 0) s = done_ { m with acc0 := m.acc1, acc1 := m.acc0 }) ∧
      (c.minor = 3 → c.bank < 2 → ∃ t, exec (.matrixCommandComplete tile false 0) s = .next t ∧ t.mem = s.mem ∧ (t.tile tile).mx.tq = [] ∧
        ∀ k, tget 0 ((t.tile tile).mx.acc c.bank) k =
          if 32 * c.row0 ≤ k ∧ k < 32 * (c.row0 + c.n) then 0 else tget 0 (m.acc c.bank) k) ∧
      (c.minor = 0 ∨ c.minor = 16 → c.data.length = 1024 → ∃ t, exec (.matrixCommandComplete tile false 0) s = .next t ∧ t.mem = s.mem ∧
        (t.tile tile).mx.tq = [] ∧ (t.tile tile).mx.active = m.active ∧ (t.tile tile).mx.shadow.fmt = c.fmt ∧
        (∀ j < 1024, tget 0 (t.tile tile).mx.shadow.bytes j = c.data.getD j 0) ∧
        ∀ j < c.scl.length, tget 0 (t.tile tile).mx.shadow.scales j = c.scl.getD j 0) ∧
      (c.minor = 5 → c.bank < 2 → ∃ t, exec (.matrixCommandComplete tile false 0) s = .next t ∧ t.mem = s.mem ∧ (t.tile tile).mx.tq = [] ∧
        ∀ k, tget 0 ((t.tile tile).mx.acc c.bank) k =
          if 32 * c.row0 + (c.cols tile).1 ≤ k ∧ k < 32 * c.row0 + (c.cols tile).1 + (c.cols tile).2 then
            (let x := BitVec.ofNat 40 (lane32 c.vdata (k - (32 * c.row0 + (c.cols tile).1)))
            if c.f 31 30 = 0 then x <<< 8 else if c.f 31 30 = 1 then x <<< 24
            else BitVec.ofNat 40 (intToF ea40 ⟨0, false, true, false, 0⟩ 0 0 (x.setWidth 32).toInt).1)
          else tget 0 (m.acc c.bank) k) ∧
      (c.minor = 4 → c.bank < 2 → let b := s.bank c.owner
        let n := (c.cols tile).2
        let lane := fun (i : Nat) => lanesRead c ((c.cols tile).1 + i) (tget 0 (m.acc c.bank) (32 * c.row0 + (c.cols tile).1 + i))
        let fl := (List.range n).map (fun i => (i, (lane i).2))
        ∃ x : Vec, (∀ i < n, x.extractLsb' (32 * i) 32 = BitVec.ofNat 32 (lane i).1) ∧ (∀ j, 32 * n ≤ j → x.getLsbD j = false) ∧
          (∀ w, b.wins = [w] → w.id = c.win → w.left ≠ 0 → b.wait = none → ∃ t, exec (.matrixCommandComplete tile false 0) s = .next t ∧
            t.mem = s.mem ∧ (t.tile tile).mx = without m c ∧ t.bank c.owner = { b with
              wins := [{ w with result := some x, err := (numericTrap c.ga fl).map (fun p => ⟨p.1, 0, p.2⟩), flags := orFlags fl }] }) ∧
          ∀ w d, b.wins = [w] → w.id = c.win → w.left = 0 → w.dest = .v d → w.back = false → w.frees = [] → b.wait = some .window → b.ports = [] →
            numericTrap c.ga fl = none → ∃ t, exec (.matrixCommandComplete tile false 0) s = .next t ∧ t.mem = s.mem ∧
              (t.tile tile).mx = without m c ∧ (t.bank c.owner).wait = none ∧ (t.bank c.owner).wins = [] ∧ (t.bank c.owner).rv d = x ∧
              (t.bank c.owner).numctl = b.numctl ||| ((orFlags fl).setWidth 64 <<< 16))) ∧
    (m.clearing = true → exec (.matrixClearComplete tile) s = .next (s.setTile tile { s.tile tile with mx := { m with
      active := {}, shadow := {}, acc0 := [], acc1 := [], owner := none, clearing := false, rflags := 0 } }))

/-- A forwarded command reaches a unit that its sender's tenant owns, with the launch that its capability names, and is accepted with reply 0, or answered 2
when the queue is full and 3 without an owner; the reply completes MCMD (R238, R239). -/
def Sys2Proof.MatrixForwards : Prop :=
  ∀ (s : State) (ms : List Msg) (tile tenant : Nat) (cap : Dword) (c : MxCmd),
    (s.net = .mcmd tile cap tenant c :: ms →
      let reply := fun (x : State) (v : Nat) => Host.Outcome.next { x with net := ms ++ [.mcmdReply c.owner c.sender v] }
      let m := (s.tile tile).mx
      (m.owner = none → exec (.mcmdArrival tile) s = reply s 3) ∧
      ∀ k x l, m.owner = some k → m.clearing = false → s.task? k = some x → s.launch? x.launch = some l → l.tenant = tenant → dfld cap 5 0 = tenant →
        dfld cap 63 32 = l.lid.toNat →
        (m.room false = false ∨ s.mxWaiters tile false ≠ [] → exec (.mcmdArrival tile) s = reply s 2) ∧
        (m.room false = true → s.mxWaiters tile false = [] →
          exec (.mcmdArrival tile) s = reply { s.setTile tile { s.tile tile with
            mx := { m with tq := m.tq ++ [{ c with task := k, id := s.fresh }] } } with fresh := s.fresh + 1 } 0)) ∧
    ∀ slot bank task val reg x, let r : BankRef := ⟨tile, slot, bank⟩
      s.net = .mcmdReply r task val :: ms → (s.bank r).wait = some (.mcmd reg) → (s.bank r).task = task → s.task? task = some x → x.killing = false →
      (s.bank r).wins = [] →
      ∃ t, exec (.remoteReplyArrival tile slot bank) s = .next t ∧ t.mem = s.mem ∧ t.net = ms ∧ (t.bank r).wait = none ∧
        (t.bank r).g = ((s.bank r).wg reg (BitVec.ofNat 64 val)).g

/-- Matrix commands start in queue order, run and are forwarded (R158, R222 to R224, R226 to R228, R230 to R232, R238, R239).
Forms that complete here, each with its effect: matrixCommandEntry, matrixCommandStart, matrixStepComplete, matrixCommandComplete, matrixClearComplete,
mcmdArrival, remoteReplyArrival. -/
def Obligations.MatrixCommandsRun : Prop := Sys2Proof.MatrixCommandsRun ∧ MatrixForwards

/-! ### The reflex array and seizure -/

/-- PRIME arms a free slot on an empty trigger word of the near window with the thread's presets and answers 0, 1 for an armed slot and 2 for a word that
another slot is armed on; UNPRIME disarms a slot that waits and answers 0, one that runs at its end and answers 1, and 2 for one that is not armed
(R358, R359, R364). -/
def Sys2Proof.ReflexInstructions : Prop :=
  ∀ (s : State) (d a b : BitVec 5) (k : Task) (l : Launch) (off : Nat), Calm s → isXa s.cur.1 = true → s.me.kind = 0 →
    s.curRef.bank = 0 → s.task? s.me.task = some k → s.launchOf s.me = some l →
    (let w := s.rg b
     let va := (s.rg a).toNat
     let slot := dfld w 2 0
     dfld w 7 3 = 0 → dfld w 63 32 = 0 → slot ∈ k.slots → l.role (dfld w 15 8) 1 = some off → va < 0x80000 → va % 8 = 0 →
     let x := (s.ctx s.cur.1 slot).reflex
     (x.armed = true ∨ x.active = true → exec (.prime d a b) s = .next (ended s (s.me.wg d.toNat 1))) ∧
     (x.armed = false → x.active = false → s.armedOn s.cur.1 va ≠ none → exec (.prime d a b) s = .next (ended s (s.me.wg d.toNat 2))) ∧
     (x.armed = false → x.active = false → s.armedOn s.cur.1 va = none → s.tag (lsLoc s.cur.1 va) = false → slot < 8 →
       ∃ t p, exec (.prime d a b) s = .next t ∧ t.me = passed (s.me.wg d.toNat 0) s.len ∧ t.mem = s.mem ∧
         (t.ctx s.cur.1 slot).reflex = { armed := true, preset := some p } ∧ p.pc = l.hdr + BitVec.ofNat 48 off ∧ p.g5 = s.me.rg 5 ∧
         p.g6 = s.me.rg 6 ∧ p.g7 = s.me.rg 7 ∧ p.od = s.me.od ∧ p.numctl = l.numctl ∧ p.trigger = va ∧ p.deadline = dfld w 31 16 ∧ p.task = k.id)) ∧
    ((s.rg a).toNat < 8 → (s.rg a).toNat ∈ k.slots →
      let x := (s.ctx s.cur.1 (s.rg a).toNat).reflex
      let leaves_ := fun (y : Reflex) (v : Dword) => ∃ t, exec (.unprime d a) s = .next t ∧ t.me = passed (s.me.wg d.toNat v) s.len ∧ t.mem = s.mem ∧
        (t.ctx s.cur.1 (s.rg a).toNat).reflex = y
      (x.active = true → leaves_ { x with disarm := true } 1) ∧
      (x.active = false → x.armed = true → leaves_ { x with armed := false, preset := none } 0) ∧
      (x.active = false → x.armed = false → exec (.unprime d a) s = .next (ended s (s.me.wg d.toNat 2))))

/-- An activation whose next instruction would exceed its ceiling ends, with the CEIL counter raised; a switch to bank 1 that is due makes it active, and one
back to bank 0 ends the activation and loads bank 1 from its presets (R140, R361, R362). -/
def Sys2Proof.ActivationsSwitch : Prop :=
  ∀ (s : State) (tile slot : Nat), slot < 8 → let c := s.ctx tile slot
    (c.active = 1 → c.b1.seeded = true → c.b1.kind = 3 → c.b1.wait = none → c.b1.ceiling ≠ 0 → c.b1.ceiling ≤ c.b1.icount.toNat →
      c.b1.rlx = [] → c.b1.ports = [] → c.b1.pend = [] → s.dying ⟨tile, slot, 1⟩ = false →
      ∃ t, exec (.ceilingTrip tile slot) s = .next t ∧ t.mem = s.mem ∧ (t.ctx tile slot).b1.seeded = false ∧
        (t.ctx tile slot).switch = some (0, s.cycle + 10) ∧ (t.ctx tile slot).reflex.ceil = satInc c.reflex.ceil 255 ∧
        (t.log.head ≠ s.log.head ∨ t.log.lost = true)) ∧
    (∀ due, isXa tile = true → c.switch = some (1, due) → due ≤ s.cycle →
      exec (.bankSwitchComplete tile slot) s = .next (s.setCtx tile slot { c with active := 1, switch := none })) ∧
    ∀ due, isXa tile = true → c.switch = some (0, due) → due ≤ s.cycle → c.b1.rlx = [] → s.resvOf ⟨tile, slot, 1⟩ = [] →
      (∀ p, c.reflex.preset = some p → s.tag (lsLoc tile p.trigger) = false) →
      ∃ t, exec (.bankSwitchComplete tile slot) s = .next t ∧ t.mem = s.mem ∧ (t.ctx tile slot).active = 0 ∧ (t.ctx tile slot).switch = none ∧
        (t.ctx tile slot).reflex.active = false ∧ (t.ctx tile slot).reflex.armed = (c.reflex.armed && !c.reflex.disarm) ∧
        ∀ p, c.reflex.preset = some p → let b := (t.ctx tile slot).b1
          b.seeded = false ∧ b.pc = p.pc ∧ b.od = p.od ∧ b.numctl = p.numctl ∧ b.rg 5 = p.g5 ∧ b.rg 6 = p.g6 ∧ b.rg 7 = p.g7

/-- Reflex slots are armed, activated and end (R140, R358 to R364).
Forms that complete here, each with its effect: prime, unprime, ceilingTrip, bankSwitchComplete. -/
def Obligations.ReflexSlotsActivate : Prop := ReflexInstructions ∧ ActivationsSwitch

/-- SEIZE sends its seizure and parks for the reply; SRLS releases the running leash code's tile, or sends the release of a tile that the task has seized;
SEIZQ parks for the reply, which shows the tile's seizure as it then is (R374, R375, R379, R380, R410). -/
def Sys2Proof.SeizureInstructions : Prop :=
  ∀ (s : State) (d a b : BitVec 5) (x0 : BitVec 32), Calm s →
    (isXa s.cur.1 = true → s.me.kind ≠ 1 → s.me.kind ≠ 2 → x0.toNat < 2 ^ 19 → fld x0.toNat 5 0 = 0 → (s.rg a).toNat < 512 →
      s.leashAllowed s.me.tenant (s.rg b) (s.rg a).toNat = true →
      ∃ z : Seizure, z.seizer = s.curRef ∧ z.task = s.me.task ∧ z.hdr = fld x0.toNat 15 0 ∧ z.n = fld x0.toNat 18 16 + 1 ∧ z.od = s.me.od ∧
        z.g5 = s.me.rg 5 ∧ z.g6 = s.me.rg 6 ∧ z.g7 = s.me.rg 7 ∧
        exec (.seize d a b x0) s = .next ((parkedOn s s.me (.seize d.toNat)).send (.seize (s.rg a).toNat z))) ∧
    (s.me.kind = 2 → ∃ t, exec .srls s = .next t ∧ t.mem = s.mem ∧ (t.tile s.cur.1).seize.st = 4 ∧ t.net = s.net ∧
      ∀ k < 8, (t.ctx s.cur.1 k).switch = some (0, s.cycle + 10)) ∧
    (let z := (s.tile (s.rg a).toNat).seize
     isXa s.cur.1 = true → s.me.kind ≠ 2 → (s.rg a).toNat < 512 → z.st ≠ 0 → z.st ≠ 4 → z.task = s.me.task → z.seizer.tile = s.cur.1 →
     exec (.srlsRemote a) s = .next ((ended s s.me).send (.srls (s.rg a).toNat s.me.task))) ∧
    ((s.rg a).toNat < 512 →
      (s.member s.me.tenant (s.rg a).toNat = true ∨ inRect (BitVec.ofNat 18 (dfld (s.tenant s.me.tenant).leash 17 0)) (s.rg a).toNat = true) →
      exec (.seizq d a) s = .next (parkedOn s s.me (.seizq (s.rg a).toNat d.toNat))) ∧
    ∀ tile slot bank target reg, let r : BankRef := ⟨tile, slot, bank⟩
      (s.bank r).wait = some (.seizq target reg) → s.dying r = false → (s.bank r).wins = [] → let z := (s.tile target).seize
      ∃ t x, exec (.remoteReplyArrival tile slot bank) s = .next t ∧ t.mem = s.mem ∧ t.tiles = s.tiles ∧ t.net = s.net ∧ (t.bank r).wait = none ∧
        (t.bank r).g = ((s.bank r).wg reg x).g ∧ dfld x 63 32 = z.count.toNat % 2 ^ 32 ∧
        (z.st < 8 → z.seizer.tile < 512 → z.seizer.slot < 8 → z.lastBy.tile < 512 → z.lastBy.slot < 8 → dfld x 7 0 = z.st ∧
          dfld x 16 8 = (if z.st = 0 then z.lastBy else z.seizer).tile ∧ dfld x 19 17 = (if z.st = 0 then z.lastBy else z.seizer).slot)

/-- A tile's seizure goes from idle through draining, swapping and seized to releasing and back: the header that arrives is read, an invalid one is answered
2 and a busy tile 1; the swap gives up the 8 turns after the cycle in which it begins (R140), and gives the first n contexts leash threads; the release returns every context to bank 0 (R376 to R381). -/
def Sys2Proof.SeizuresAdvance : Prop :=
  ∀ (s : State) (tile : Nat) (ms : List Msg) (z : Seizure), let t := s.tile tile
    (∀ k, s.net = .seize tile z :: ms → s.task? z.task = some k → k.killing = false →
      (t.seize.st ≠ 0 → exec (.seizeArrival tile) s = .next { s with net := ms ++ [.seizeReply z.seizer z.task 1] }) ∧
      (t.seize.st = 0 → ∃ u, exec (.seizeArrival tile) s = .next u ∧ u.mem = s.mem ∧ u.net = ms ∧ u.ctxs = s.ctxs ∧ (u.tile tile).mx.frozen = true ∧
        (u.tile tile).seize.st = 1 ∧ (u.tile tile).seize.seizer = z.seizer ∧ (u.tile tile).seize.n = z.n ∧ (u.tile tile).seize.first = false)) ∧
    (t.seize.st = 1 → t.seize.valid = false → ∃ u, exec (.seizureDrainComplete tile) s = .next u ∧ u.mem = s.mem ∧ u.ctxs = s.ctxs ∧
      u.net = s.net ++ [.seizeReply t.seize.seizer t.seize.task 2] ∧ (u.tile tile).seize.st = 0 ∧ (u.tile tile).mx.frozen = false) ∧
    (t.seize.st = 1 → t.seize.valid = true → t.mx.tq = [] → ∃ u, exec (.seizureDrainComplete tile) s = .next u ∧ u.mem = s.mem ∧ u.net = s.net ∧
      (u.tile tile).seize.st = 2 ∧ (u.tile tile).seize.start = s.cycle ∧ ∀ k < 8, (u.ctx tile k).switch = some (1, s.cycle + 9)) ∧
    (t.seize.st = 2 → t.seize.start + 9 ≤ s.cycle → ∃ u, exec (.seizureSwapComplete tile) s = .next u ∧ u.mem = s.mem ∧ u.net = s.net ∧
      (u.tile tile).seize.st = 3 ∧ ∀ k < 8, (u.ctx tile k).active = 1 ∧ (u.ctx tile k).switch = none ∧ (u.ctx tile k).b0 = (s.ctx tile k).b0 ∧
        let b := (u.ctx tile k).b1
        b.seeded = decide (k < t.seize.n) ∧ (k < t.seize.n → b.kind = 2 ∧ b.lane = k ∧ b.task = t.seize.task ∧ b.ceiling = t.seize.ceiling ∧
          b.rg 2 = BitVec.ofNat 64 k ∧ b.rg 3 = 0xF0000 ∧ b.rg 5 = t.seize.g5 ∧ b.od = t.seize.od ∧ b.numctl = t.seize.numctl)) ∧
    (∀ slot < 8, let c := s.ctx tile slot
      c.active = 1 → c.b1.seeded = true → c.b1.kind = 2 → c.b1.wait = none → t.seize.st = 3 → c.b1.ceiling ≠ 0 → c.b1.ceiling ≤ c.b1.icount.toNat →
      ∃ u, exec (.leashCeiling tile slot) s = .next u ∧ u.mem = s.mem ∧ (u.tile tile).seize.st = 4 ∧ ∀ k < 8, (u.ctx tile k).switch = some (0, s.cycle + 10)) ∧
    (∀ task, s.net = .srls tile task :: ms → t.seize.task = task → t.seize.st = 3 → t.seize.first = true →
      ∃ u, exec (.remoteSrlsArrival tile) s = .next u ∧ u.mem = s.mem ∧ u.net = ms ∧ (u.tile tile).seize.st = 4) ∧
    (t.seize.st = 4 → t.seize.start + 10 ≤ s.cycle → (∀ k < 8, (s.ctx tile k).b1.rlx = [] ∧ s.resvOf ⟨tile, k, 1⟩ = []) →
      ∃ u, exec (.seizureReleaseComplete tile) s = .next u ∧ u.mem = s.mem ∧ (u.tile tile).seize.st = 0 ∧ (u.tile tile).seize.count = t.seize.count + 1 ∧
        (u.tile tile).seize.lastBy = t.seize.seizer ∧ (u.tile tile).mx.frozen = false ∧
        ∀ k < 8, (u.ctx tile k).active = 0 ∧ (u.ctx tile k).b1 = {} ∧ (u.ctx tile k).b0.g = (s.ctx tile k).b0.g ∧
          (u.ctx tile k).b0.pc = (s.ctx tile k).b0.pc ∧ (u.ctx tile k).b0.seizeCount = satInc (s.ctx tile k).b0.seizeCount 0xFFFF) ∧
    ∀ slot bank task reg val k, let r : BankRef := ⟨tile, slot, bank⟩
      s.net = .seizeReply r task val :: ms → (s.bank r).wait = some (.seize reg) → (s.bank r).task = task → s.task? task = some k → k.killing = false →
      (s.bank r).wins = [] →
      ∃ u, exec (.seizeReplyArrival tile slot bank) s = .next u ∧ u.mem = s.mem ∧ u.net = ms ∧ (u.bank r).wait = none ∧
        (u.bank r).g = ((s.bank r).wg reg val).g

/-- Seizures are requested, advance through R376's states, and are released (R374 to R381).
Forms that complete here, each with its effect: seize, srls, srlsRemote, seizq, remoteReplyArrival, seizeArrival, seizureDrainComplete, seizureSwapComplete,
leashCeiling, remoteSrlsArrival, seizureReleaseComplete, seizeReplyArrival. -/
def Obligations.SeizuresAdvance : Prop := SeizureInstructions ∧ Sys2Proof.SeizuresAdvance

/-! ### Queues -/

/-- QNOP, QFF, QPRIO, QIB, QRET, QENDP, QLOOP, QENDL and QMARK with kind 3 leave the queue that their rules give; a stack that is full or of another level and
a malformed buffer fault the queue; QMARK closes the instance that it names (R93, R100 to R102, R107, R108, R110). -/
def Sys2Proof.QueueInstructionsMoveOn : Prop :=
  ∀ (s : State) (i : Instr), Intact s → let k := s.curq
    (∀ p, queueAfter (s.queue k) s.len i = some p → ∃ t, exec i s = .next t ∧ QueueOnly s t k ∧ QueueHas s t k p) ∧
    (∀ c, queueAfter (s.queue k) s.len i = none → stackFault i = some c → (s.queue k).en = true →
      ∃ t, exec i s = .next t ∧ QueueFaulted s t k c (queueVa (s.queue k)) (s.queue k).ibs.length) ∧
    ∀ (kind : BitVec 5) (id : BitVec 32), kind.toNat < 3 →
      ∃ t p, exec (.qmark kind id) s = .next t ∧ queueAfter (s.queue k) s.len (.qnop 0) = some p ∧ QueueHas s t k p ∧ t.mem = s.mem ∧ t.ctxs = s.ctxs ∧
        t.launches = s.launches ∧ t.insts.length = s.insts.length ∧
        (s.inst? (s.queue k).tenant (kind.toNat + 2) (id.toNat % 2 ^ 16) = none → t.insts = s.insts) ∧
        ∀ x, s.inst? (s.queue k).tenant (kind.toNat + 2) (id.toNat % 2 ^ 16) = some x → { x with closed := true } ∈ t.insts

/-- Queues execute what holds no wait (R88, R89, R93, R98, R100 to R102, R107, R108, R110). -/
def Obligations.QueueInstructionsMoveOn : Prop := Sys2Proof.QueueInstructionsMoveOn

/-- QWR stores its value; QPRED opens a predicate when its condition holds and skips otherwise; QWAIT goes on or waits, its poll goes on when the condition
holds, and when its time is over it goes on if the condition holds and else faults with 0x2C7; QSIG posts a signal, and a signal that is due, the one just posted too, is stored and interrupts if IRQ is set (R93, R97, R101, R103 to R105). The model
writes every MSI-X that a signal asks for (log entry 84), and checks its address and tenant when it is written (log entry 108). -/
def Sys2Proof.QueueWordsAreReadAndWritten : Prop :=
  ∀ (s u : State) (k loc : Nat) (w : Dword), Memory.wf s.mem = true →
    (∀ (va x : BitVec 64), k = s.curq → NoneWaits s k → QueueReaches s k va.toNat 8 1 u loc →
      ∃ t m, exec (.qwr va x) s = .next t ∧ Stored s.mem m loc 8 x ∧ t = { s with mem := m, queues := t.queues, tlb := t.tlb, walks := t.walks, serving := t.serving } ∧
        QueueHas s t k (onward (s.queue k) s.len)) ∧
    (∀ (c : BitVec 5) (va x : BitVec 64), k = s.curq → c.toNat < 6 → QueueReaches s k va.toNat 8 0 u loc → WordAt s.mem loc w →
      (conditionHolds c.toNat w x = true → (s.queue k).preds.length < 15 → ∃ t, exec (.qpred c va x) s = .next t ∧ QueueOnly s t k ∧
        QueueHas s t k { onward (s.queue k) s.len with preds := (s.queue k).ibs.length :: (s.queue k).preds }) ∧
      (conditionHolds c.toNat w x = true → 15 ≤ (s.queue k).preds.length → (s.queue k).en = true → ∃ t, exec (.qpred c va x) s = .next t ∧
        QueueFaulted s t k 0x2C5 (queueVa (s.queue k)) (s.queue k).ibs.length) ∧
      (conditionHolds c.toNat w x = false → ∃ t, exec (.qpred c va x) s = .next t ∧ QueueOnly s t k ∧
        QueueHas s t k { onward (s.queue k) s.len with skip := some (0, 0) }) ∧
      ∀ timeout : BitVec 32,
        (conditionHolds c.toNat w x = true → ∃ t, exec (.qwait c va x timeout) s = .next t ∧ QueueOnly s t k ∧ QueueHas s t k (onward (s.queue k) s.len)) ∧
        (conditionHolds c.toNat w x = false → ∃ t, exec (.qwait c va x timeout) s = .next t ∧ QueueOnly s t k ∧
          t.queue k = { s.queue k with st := 3, hold := some (.wait c.toNat (va.setWidth 48) x timeout.toNat s.boot.dtb, s.len) })) ∧
    (∀ c (va : Va) x timeout since len, (s.queue k).hold = some (.wait c va x timeout since, len) → c < 6 →
      (timeout ≠ 0 → since + 1000 * timeout < s.boot.dtb → (s.queue k).en = true →
        ∃ t, exec (.qwaitTimeout k) s = .next t ∧ QueueFaulted s t k 0x2C7 (queueVa (s.queue k)) (s.queue k).ibs.length) ∧
      (timeout ≠ 0 → since + 1000 * timeout = s.boot.dtb → (s.queue k).en = true → QueueReaches s k va.toNat 8 0 u loc → WordAt s.mem loc w →
        (conditionHolds c w x = true → ∃ t, exec (.qwaitTimeout k) s = .next t ∧ QueueOnly s t k ∧ QueueHas s t k (onward (s.queue k) len)) ∧
        (conditionHolds c w x = false →
          ∃ t, exec (.qwaitTimeout k) s = .next t ∧ QueueFaulted s t k 0x2C7 (queueVa (s.queue k)) (s.queue k).ibs.length)) ∧
      ((timeout = 0 ∨ s.boot.dtb ≤ since + 1000 * timeout) → QueueReaches s k va.toNat 8 0 u loc → WordAt s.mem loc w →
        (conditionHolds c w x = true → ∃ t, exec (.qwaitPoll k) s = .next t ∧ QueueOnly s t k ∧ QueueHas s t k (onward (s.queue k) len)) ∧
        (conditionHolds c w x = false → exec (.qwaitPoll k) s = .next u))) ∧
    (∀ (irq : BitVec 1) (vec : BitVec 5) (va x : BitVec 64), k = s.curq →
      let g : Signal := ⟨va.setWidth 48, x, irq = 1, vec.toNat, queueVa (s.queue k), (s.queue k).ibs.length,
        (s.launches.filter (fun l => l.queue == some k)).map (·.key)⟩
      ((s.queue k).signals.length < 8 → ∀ h rest, (s.queue k).signals ++ [g] = h :: rest →
        ((∃ key ∈ h.launches, (s.launch? key).isSome = true) → Intact s → ∃ t, exec (.qsig irq vec va x) s = .next t ∧ QueueOnly s t k ∧
          QueueHas s t k { onward (s.queue k) s.len with signals := h :: rest }) ∧
        ((∀ key ∈ h.launches, ∀ l ∈ s.launches, l.key ≠ key) → Intact s → NoneWaits s k →
          QueueReaches ((s.setQueue k { s.queue k with signals := rest }).completeQ k (Queue.next s.len)) k h.va.toNat 8 1 u loc →
          ∃ t m, exec (.qsig irq vec va x) s = .next t ∧ Stored s.mem m loc 8 h.val ∧
            t = { s with mem := m, queues := t.queues, tlb := t.tlb, walks := t.walks, serving := t.serving, msix := t.msix } ∧
            t.msix = s.msix ++ (if h.irq then [(s.functionOf (s.queue k).tenant, h.vec)] else []) ∧
            QueueHas s t k { onward (s.queue k) s.len with signals := rest })) ∧
      (8 ≤ (s.queue k).signals.length → ∃ t, exec (.qsig irq vec va x) s = .next t ∧ QueueOnly s t k ∧
        t.queue k = { s.queue k with st := 4, hold := some (.signal g, s.len) })) ∧
    ∀ g rest, (s.queue k).signals = g :: rest → (∀ key ∈ g.launches, ∀ l ∈ s.launches, l.key ≠ key) →
      NoneWaits s k → QueueReaches { s with queues := tset s.queues k { s.queue k with signals := rest } } k g.va.toNat 8 1 u loc →
      ∃ t m, exec (.signalWrite k) s = .next t ∧ Stored s.mem m loc 8 g.val ∧
        t = { s with mem := m, queues := tset s.queues k { s.queue k with signals := rest }, tlb := t.tlb, msix := t.msix } ∧
        t.msix = s.msix ++ (if g.irq then [(s.functionOf (s.queue k).tenant, g.vec)] else [])

/-- Queue instructions read, write, signal and wait (R93, R97, R101, R103 to R105).
The model's readings in it are those of log entries 84 and 108.
Forms that complete here, each with its effect: qwr, qpred, qwait, qwaitTimeout, qwaitPoll, qsig, signalWrite. -/
def Obligations.QueueWordsAreReadAndWritten : Prop := Sys2Proof.QueueWordsAreReadAndWritten

/-- QLAUNCH waits in DEP; the acceptance of a legal packet gives it the tenant's next launch ID and the priority clamped to PRIOMAX, and a rejected one faults
the queue with its cause; QDEP goes on once what it names is over, waits until then, and faults for an ID that lies ahead; QREPLAY makes every parked request of
the tenant due again (R99, R106, R109, R115). -/
def Sys2Proof.QueueLaunches : Prop :=
  ∀ (s : State) (k : Nat), Intact s → let q := s.queue k
    (∀ va : BitVec 64, k = s.curq → ∃ t, exec (.qlaunch va) s = .next t ∧ QueueOnly s t k ∧
      t.queue k = { q with st := 4, hold := some (.launch (va.setWidth 48), s.len) }) ∧
    (∀ (va : Va) len u w, q.hold = some (.launch va, len) → (∀ g ∈ q.signals, ∃ key ∈ g.launches, (s.launch? key).isSome = true) →
      s.readWork q.tenant va.toNat = (u, some w) → (∀ p, s.gone q.tenant p = false) →
      (∀ c, u.workCause q.tenant w = some c → c ≠ 0x2E0 → q.en = true →
        ∃ t, exec (.launchAccept k) s = .next t ∧ QueueFaulted s t k c (queueVa q) q.ibs.length) ∧
      (u.workCause q.tenant w = none → (s.launches.filter (fun l => !l.cancelled)).length < 4096 →
        ∃ t l, exec (.launchAccept k) s = .next t ∧ t.mem = s.mem ∧ t.ctxs = s.ctxs ∧ t.launches = s.launches ++ [l] ∧
          l.lid = (s.tenant q.tenant).lastLid + 1 ∧ (t.tenant q.tenant).lastLid = l.lid ∧ l.tenant = q.tenant ∧ l.queue = some k ∧
          l.prio ≤ q.prioMax ∧ QueueHas s t k { onward q len with lastLid := l.lid })) ∧
    (∀ (kind : BitVec 5) (id : BitVec 32), k = s.curq → kind.toNat < 5 →
      let over_ : Prop :=
        if kind.toNat = 0 then q.signals = [] ∧ ∀ l ∈ s.launches, l.queue ≠ some k
        else if kind.toNat = 1 then ∀ l ∈ s.launches, l.tenant = q.tenant → l.lid = id → l.cancelled = true
        else ∀ x ∈ s.insts, ¬ (x.tenant = q.tenant ∧ x.kind = kind.toNat ∧ x.id = id.toNat)
      let ahead := (id - (s.tenant q.tenant).lastLid).toNat
      (kind.toNat = 1 → 0 < ahead → ahead < 2 ^ 31 → q.en = true →
        ∃ t, exec (.qdep kind id) s = .next t ∧ QueueFaulted s t k 0x2CB (queueVa q) q.ibs.length) ∧
      (kind.toNat ≠ 1 ∨ ahead = 0 ∨ 2 ^ 31 ≤ ahead →
        (over_ → ∃ t, exec (.qdep kind id) s = .next t ∧ QueueOnly s t k ∧ QueueHas s t k (onward q s.len)) ∧
        (¬ over_ → ∃ t, exec (.qdep kind id) s = .next t ∧ QueueOnly s t k ∧
          t.queue k = { q with st := 4, hold := some (.dep kind.toNat id.toNat, s.len) }))) ∧
    ∀ w : BitVec 1, k = s.curq → ∃ t, exec (.qreplay w) s = .next t ∧ t.mem = s.mem ∧ t.ctxs = s.ctxs ∧ t.launches = s.launches ∧
      let x := t.tenant q.tenant
      let y := s.tenant q.tenant
      x.fb = [] ∧ x.fbDrop = false ∧ x.parked = [] ∧ x.resend.Perm (y.resend ++ y.parked) ∧ (x.replay = true ↔ y.resend ++ y.parked ≠ []) ∧
        ((w = 0 ∨ y.resend ++ y.parked = []) → QueueHas s t k (onward q s.len)) ∧
        (w = 1 → y.resend ++ y.parked ≠ [] → t.queue k = { q with st := 4, hold := some (.replay, s.len) })

/-- An engine that serves no runnable queue takes the runnable queue of the greatest priority, the next one in rotation among equals, and serves none when none
is runnable; an entry reads the words of the block of the next instruction and of the block after it, up to the tail, the ring's end or the buffer's end
(R89, R91). -/
def Sys2Proof.EnginesChooseAndFetch : Prop :=
  ∀ (s : State),
    (∀ e < 8, (tget 0 s.serving e = 0 ∨ s.runnable (tget 0 s.serving e - 1) = false) →
      ∃ t, exec (.queueSelect e) s = .next t ∧ t = { s with queues := t.queues, serving := t.serving } ∧
        ((∀ i < 8, s.runnable (8 * e + i) = false) → t.queues = s.queues ∧ tget 0 t.serving e = 0) ∧
        ∀ j < 8, s.runnable (8 * e + j) = true →
          ∃ i < 8, let k := 8 * e + i
            s.runnable k = true ∧ tget 0 t.serving e = k + 1 ∧ t.queue k = { s.queue k with st := 2 } ∧
            (∀ k', k' ≠ k → t.queue k' = s.queue k') ∧ (s.queue (8 * e + j)).prio ≤ (s.queue k).prio ∧
            ((s.queue (8 * e + j)).prio = (s.queue k).prio → tget 7 s.lastServed e < 8 →
              (i + 7 - tget 7 s.lastServed e) % 8 ≤ (j + 7 - tget 7 s.lastServed e) % 8)) ∧
    ∀ k, let q := s.queue k
      q.en = true → q.block = none → q.hold = none → (q.st = 1 ∨ q.st = 2) → q.left ≠ 0 →
      (q.ibs = [] → q.ip < q.ring ∧ q.tail ≤ q.ring) → Intact s → (∀ va, (s.check ⟨512, q.tenant, .other⟩ va 4 0).1 = s) →
      ∃ p : Queue, exec (.fetchBlockRead k) s = .next { s with queues := tset s.queues k p } ∧
        p = { q with ahead := p.ahead, block := some ((q.base0 + q.ip) / 512) } ∧
        ∀ o w, (o, w) ∈ p.ahead ↔
          q.ip ≤ o ∧ o < q.limit ∧ (q.base0 + o) % 4 = 0 ∧ (q.base0 + o) / 512 ≤ (q.base0 + q.ip) / 512 + 1 ∧
            ∃ x, s.check ⟨512, q.tenant, .other⟩ (q.base0 + o) 4 0 = (s, .ok x) ∧ w = BitVec.ofNat 32 (s.readTarget x 4)

/-- Queues hand launches over, wait for what they name, and are chosen and fetched by their engines (R89, R91, R99, R106, R109, R115).
Forms that complete here, each with its effect: qlaunch, launchAccept, qdep, qreplay, queueSelect, fetchBlockRead. -/
def Obligations.QueuesLaunchAndAreChosen : Prop := QueueLaunches ∧ EnginesChooseAndFetch

/-! ### The host's registers -/

/-- The doorbell moves QTAIL of an enabled queue to a 4-byte-aligned offset in the ring and otherwise reports 0x2CA; EN 0 to 1 starts the queue empty and idle
with its priority at PRIOMAX, unless negotiation has failed; EN 1 to 0 turns it off; RESUME takes it out of FAULT; QCANCEL cancels the launch, graph, phase or
job that it names, with the launches in it, and does nothing where none is live
(R39, R85 to R87, R110). -/
def Sys2Proof.QueueRegistersControl : Prop :=
  ∀ (s : State) (fn k : Nat) (val : BitVec 64), let q := s.queue k
    k < 64 → HostMay s fn q.tenant →
    (q.en = true → dfld val 23 0 % 4 = 0 → dfld val 23 0 < 2 ^ (12 + min q.size 12) →
      exec (.qtailDoorbell fn k val) s = .next (s.setQueue k { q with tail := dfld val 23 0 })) ∧
    (q.en = true → ¬ (dfld val 23 0 % 4 = 0 ∧ dfld val 23 0 < 2 ^ (12 + min q.size 12)) →
      exec (.qtailDoorbell fn k val) s = .next (s.setQueue k { q with cause := 0x2CA })) ∧
    (q.en = false → exec (.qtailDoorbell fn k val) s = .next (s.setQueue k q)) ∧
    (q.en = false → val.getLsbD 0 = true → s.boot.negf = false →
      exec (.qctlEnable fn k val) s = .next (s.setQueue k { forgotten (withCtl q val) with
        en := true, tenant := dfld val 13 8, t1 := dfld val 39 32, t2 := dfld val 47 40, prio := dfld val 7 4, st := 1, cause := 0, exec := 0
        prung := 0 })) ∧
    (q.en = false → val.getLsbD 0 = true → s.boot.negf = true → exec (.qctlEnable fn k val) s = .next s) ∧
    (q.en = true → val.getLsbD 0 = false →
      exec (.qctlDisable fn k val) s = .next { s with
        queues := tset s.queues k { forgotten (withCtl q val) with en := false, st := 0 }, 
        serving := if tget 0 s.serving (k / 8) = k + 1 then tset s.serving (k / 8) 0 else s.serving }) ∧
    (q.en = true → val.getLsbD 0 = true → val.getLsbD 1 = true →
      (q.st ≠ 5 → exec (.qctlResume fn k val) s = .next (s.setQueue k (withCtl q val))) ∧
      (q.st = 5 → ∃ x, exec (.qctlResume fn k val) s = .next (s.setQueue k { withCtl q val with st := x, ahead := [], block := none }) ∧
        (x = 1 ∨ x = 2) ∧ (q.ibs ≠ [] → x = 2) ∧ (q.ibs = [] → q.ip = q.tail → x = 1))) ∧
    (∀ l, dfld val 2 0 = 1 → s.launches.find? (fun x => x.tenant == q.tenant && x.lid.toNat == dfld val 63 32 && !x.cancelled) = some l →
      (∀ x ∈ s.launches, x.key = l.key → x = l) →
      ∃ t u, exec (.qcancelWrite fn k val) s = .next t ∧ t.mem = s.mem ∧
        (∀ r, (∀ x ∈ s.tasks ++ s.saved.map (·.task), x.launch = l.key → x.id ≠ (s.bank r).task) → t.bank r = s.bank r) ∧ t.launch? l.key = some u ∧ u.cancelled = true ∧
        u.closed = true ∧ u.nextTask = none ∧ ∀ x ∈ t.tasks, x.launch = l.key → x.killing = true) ∧
    (dfld val 2 0 = 1 → s.launches.find? (fun x => x.tenant == q.tenant && x.lid.toNat == dfld val 63 32 && !x.cancelled) = none →
      exec (.qcancelWrite fn k val) s = .next s) ∧
    (dfld val 2 0 ∈ [2, 3, 4] → let kind := dfld val 2 0
      let id := dfld val 47 32
      ((∀ i, s.inst? q.tenant kind id = some i → i.cancelled = true) → exec (.qcancelWrite fn k val) s = .next s) ∧
      ∀ i, s.inst? q.tenant kind id = some i → i.cancelled = false →
        ∃ t j, exec (.qcancelWrite fn k val) s = .next t ∧ t.mem = s.mem ∧ t.inst? q.tenant kind id = some j ∧ j.cancelled = true ∧ j.closed = true ∧
          ∀ l ∈ s.launches, l.tenant = q.tenant → (kind = 2 ∧ l.graph = id ∨ kind = 3 ∧ l.phase = id ∨ kind = 4 ∧ l.job = id) →
            (∀ x ∈ t.launches, x.key = l.key → x.cancelled = true ∧ x.closed = true) ∧ ∀ x ∈ t.tasks, x.launch = l.key → x.killing = true) ∧
    (dfld val 2 0 = 0 ∨ 4 < dfld val 2 0 → exec (.qcancelWrite fn k val) s = .next s)

/-- A register write reaches QBASE of a queue that is off, FESTARVE, FEWDOG, FEQUANT and a tenant's PTROOT while the tenant has no live launch; before READY a
write reaches nothing but the version ranges and IVTCTL (R26, R84, R124, R264, R402, R404). -/
def Sys2Proof.RegisterWritesLand : Prop :=
  ∀ (s : State) (val : BitVec 64),
    (∀ fn off, s.boot.phase ≠ 6 → ¬ (0x220 ≤ off ∧ off ≤ 0x240) → exec (.registerWrite fn off val) s = .next s) ∧
    (s.boot.phase = 6 → s.hostClear 0 = true →
      (∀ k < 64, (s.queue k).en = false →
        exec (.registerWrite 0 (0x10000 + 0x80 * k) val) s =
          .next (s.setQueue k { s.queue k with size := dfld val 3 0, base := BitVec.ofNat 36 (dfld val 47 12) })) ∧
      exec (.registerWrite 0 0x300 val) s = .next { s with fe := { s.fe with tstarve := dfld val 15 0, starveOff := val.getLsbD 16 } } ∧
      exec (.registerWrite 0 0x310 val) s =
        .next { s with fe := { s.fe with twait := dfld val 15 0, tstall := dfld val 31 16, kill := val.getLsbD 32 } } ∧
      (∀ k < 64, exec (.registerWrite 0 (0x400 + 8 * k) val) s = .next (s.setQueue k { s.queue k with quant := BitVec.ofNat 32 (dfld val 31 0) })) ∧
      ∀ t < 64, (∀ l ∈ s.launches, l.tenant = t → l.cancelled = true) →
        exec (.registerWrite 0 (0x30000 + 0x100 * t) val) s =
          .next (s.setTenant t { s.tenant t with ptEn := val.getLsbD 0, ptBase := BitVec.ofNat 32 (dfld val 43 12) }))

/-- Host writes to queue and device registers do what the register map says (R26, R39, R84 to R87, R110, R124, R264, R402, R404).
Forms that complete here, each with its effect: qtailDoorbell, qctlEnable, qctlDisable, qctlResume, qcancelWrite, registerWrite. -/
def Obligations.HostRegistersControlTheDevice : Prop := QueueRegistersControl ∧ RegisterWritesLand

/-- TLBINV takes exactly the tenant's entries of its range out of the TLBs and stays busy until no access with an older translation is outstanding (R265). -/
def Sys2Proof.TranslationsAreInvalidated : Prop :=
  ∀ (s : State) (t : Nat) (val : BitVec 64), t < 64 →
    (s.boot.phase = 6 → s.hostClear 0 = true → (s.tenant t).tlbBusy = false →
      ∃ u, exec (.tlbinvWrite 0 t val) s = .next u ∧ u = { s with tlb := u.tlb, tenants := u.tenants } ∧ (u.tenant t).tlbBusy = true ∧
        ∀ e, e ∈ u.tlb ↔ e ∈ s.tlb ∧ ¬ (e.2.1 = t ∧ (dfld val 1 0 = 3 ∨ e.2.2.1 / 64 ^ dfld val 1 0 = dfld val 47 18 / 64 ^ dfld val 1 0))) ∧
    ((s.tenant t).tlbBusy = true → (∀ c ∈ s.ctxs, ∀ b : Bank, (b = c.2.b0 ∨ b = c.2.b1) → b.tenant = t → b.rlx = [] ∧ NoWac b) →
      exec (.tlbInvalidationComplete t) s = .next (s.setTenant t { s.tenant t with tlbBusy := false }))

/-- FEPREEMPT starts a ladder at rung 1 on a queue that has none, and rung 0 ends one; TDBGREL lets a context that a breakpoint halted go on; a query of LVQ
answers the flags of a live launch or instance, the kept status of a completed one, or 6 (R392, R398, R399, R408). -/
def Sys2Proof.FrontEndRegistersAct : Prop :=
  ∀ (s : State) (val : BitVec 64), s.boot.phase = 6 → s.hostClear 0 = true →
    (let k := dfld val 5 0
     let fe := { s.fe with preQueue := k, preRung := dfld val 7 6 }
     (val.getLsbD 8 = true → dfld val 7 6 ≠ 0 → (s.queue k).ladder = none → ∃ t, exec (.fepreemptStart 0 val) s = .next t ∧ t.mem = s.mem ∧ t.ctxs = s.ctxs ∧
        t.tasks = s.tasks ∧ t.fe = fe ∧
        t.queue k = { s.queue k with ladder := some ⟨1, dfld val 7 6, s.boot.dtb, none, false⟩, prung := max (s.queue k).prung 1, cause := 0x301 }) ∧
     (val.getLsbD 8 = true → dfld val 7 6 ≠ 0 → (s.queue k).ladder ≠ none → exec (.fepreemptStart 0 val) s = .next { s with fe := fe }) ∧
     (val.getLsbD 8 = true → dfld val 7 6 = 0 → ∃ t, exec (.fepreemptEnd 0 val) s = .next t ∧ t.mem = s.mem ∧ t.ctxs = s.ctxs ∧ t.launches = s.launches ∧
        t.fe = fe ∧ (t.queue k).ladder = none ∧
        ∀ x ∈ t.tasks, ∀ l, s.launch? x.launch = some l → l.root = k → x.quantum = false → x.saving = false)) ∧
    (∀ t < 64, let r : BankRef := ⟨dfld val 8 0, dfld val 11 9, dfld val 12 12⟩
      (s.bank r).wait = some .debug → exec (.tdbgrelWrite 0 t val) s = .next (s.setBank r { s.bank r with wait := none, readyAt := max (s.bank r).readyAt (s.cycle + 1) })) ∧
    (∀ fn t, t < 64 → HostMay s fn t → exec (.lvqWrite fn t val) s =
      .next (s.setTenant t { s.tenant t with lvq := val &&& 0xFFFFFFFF00000007, lvres := (s.tenant t).lvres ||| 0x40 })) ∧
    ∀ t, let x := s.tenant t
      let id := if dfld x.lvq 2 0 = 1 then dfld x.lvq 63 32 else dfld x.lvq 47 32
      let answers := fun (status nrec : Nat) (reset digv digerr : Bool) (dig : BitVec 256) =>
        ∃ u y, exec (.levelQueryComplete t) s = .next u ∧ u = s.setTenant t y ∧ y = { x with lvres := y.lvres, lvdig := dig } ∧
          (status < 8 → nrec < 2 ^ 32 → dfld y.lvres 2 0 = status ∧ y.lvres.getLsbD 3 = reset ∧ y.lvres.getLsbD 4 = digv ∧ y.lvres.getLsbD 5 = digerr ∧
            y.lvres.getLsbD 6 = false ∧ dfld y.lvres 63 32 = nrec)
      x.lvres.getLsbD 6 = true →
      (∀ l, dfld x.lvq 2 0 = 1 → s.launches.find? (fun y => y.tenant == t && y.lid.toNat == id) = some l →
        (l.dig = none → answers 0 l.nrec l.reset false false 0) ∧ (l.dig = some none → answers 0 l.nrec l.reset false true 0) ∧
        ∀ d, l.dig = some (some d) → s.statusOf l ≤ 2 → answers 0 l.nrec l.reset true false d) ∧
      (∀ i, dfld x.lvq 2 0 ∈ [2, 3, 4] → s.inst? t (dfld x.lvq 2 0) id = some i → answers 0 i.nrec i.reset i.digv i.digerr 0) ∧
      let ended_ := (dfld x.lvq 2 0 = 1 ∧ ∀ l ∈ s.launches, ¬ (l.tenant = t ∧ l.lid.toNat = id)) ∨
        (dfld x.lvq 2 0 ∈ [2, 3, 4] ∧ s.inst? t (dfld x.lvq 2 0) id = none)
      (∀ d, ended_ → s.done? t (dfld x.lvq 2 0) id = some d → answers d.status d.nrec d.reset d.digv d.digerr d.digest) ∧
      (ended_ → s.done? t (dfld x.lvq 2 0) id = none → answers 6 0 false false false 0)

/-- A pool comes up with its frequencies read, its metadata zeroed and its arena one free run, is refused with ERR set, its other fields taking what was written (log entry 70), or stays as it is while its tenant has
live launches; a mailbox comes up empty, a trace ring from its start, and the firmware update or a replay-all begins or is held; a log's TAIL moves within the
records not yet read (R267, R300, R301, R340, R366, R413, R415, R420, R421, R432). -/
def Sys2Proof.UnitsAreSwitchedOn : Prop :=
  ∀ (s : State) (val : BitVec 64), s.boot.phase = 6 → s.hostClear 0 = true →
    (∀ p < 16, let off : Pool := { s.pool p with cfg := val &&& 0x3FFFFFFFFC }
      let on := s.setPool p off
      (s.pool p).en = false → val.getLsbD 0 = true →
      (on.poolBad p off = true → exec (.pcfgEnable 0 p val) s = .next (s.setPool p { off with cfg := off.cfg ||| 2 })) ∧
      ∀ s2 s3 fs rs, on.poolBad p off = false → on.readFreqs p (dfld off.rot 47 2 * 4) (off.rdim / 2) = (s2, some fs) →
        s2.metaRuns p 128 off.md.toNat off.metaBytes = (s3, some rs) →
        ∃ t, exec (.pcfgEnable 0 p val) s = .next t ∧
          t.pool p = { off with cfg := off.cfg ||| 1, freq := fs, free := allFree off.aord, cmds := [] } ∧
          ∀ a, memGet t.mem a = if ∃ r ∈ rs, r.1 ≤ a ∧ a < r.1 + r.2 then 0 else memGet s3.mem a) ∧
    (∀ p < 16, (s.pool p).en = true → val.getLsbD 0 = false →
      ((∃ l ∈ s.launches, l.tenant = (s.pool p).tenant ∧ l.cancelled = false) → exec (.pcfgDisable 0 p val) s = .next s) ∧
      ((∀ l ∈ s.launches, l.tenant = (s.pool p).tenant → l.cancelled = true) → exec (.pcfgDisable 0 p val) s =
        .next (s.setPool p { s.pool p with cfg := (s.pool p).cfg &&& ~~~1#64, free := [], freq := [], cmds := [] }))) ∧
    (∀ m < 4096, (s.mbox m).en = false → val.getLsbD 0 = true → ∃ t, exec (.mbcfgEnable 0 m val) s = .next t ∧ t.ctxs = s.ctxs ∧
      t.mbox m = { s.mbox m with cfg := val &&& 0x7FFFF, version := 0, time := 0, front := false } ∧
      ∀ a, memGet t.mem a = if mbmLoc + 0x200 * m ≤ a ∧ a < mbmLoc + 0x200 * (m + 1) then 0 else memGet s.mem a) ∧
    (∀ tile, isLa tile = true ∨ isXa tile = true → (s.tile tile).trctl.getLsbD 0 = false → val.getLsbD 0 = true →
      exec (.trctlEnable tile val) s =
        .next (s.setTile tile { s.tile tile with trctl := val &&& 15, trnext := 0, trwrap := false, trhalt := false })) ∧
    (s.peer.en = false → val.getLsbD 0 = true → ∃ t, exec (.peerctlEnable 0 val) s = .next t ∧ t = { s with peer := t.peer } ∧ t.peer.en = true ∧ t.peer.st = 1 ∧
      t.peer.auto = val.getLsbD 1 ∧ t.peer.spare = val.getLsbD 2 ∧ t.peer.hb = dfld val 15 8 ∧ t.peer.miss = dfld val 19 16 ∧ t.peer.joinAt = s.boot.dtb ∧
      ∃ m : BitVec 512, t.peer.sent = s.peer.sent ++ [m] ∧ m.extractLsb' 0 32 = 0x53505A47#32 ∧ m.extractLsb' 48 8 = 1#8) ∧
    (s.boot.fwBusy = false → exec (.fwctlGo 0) s = .next { s with boot := { s.boot with fwBusy := true } }) ∧
    (s.boot.fwBusy = true → ∃ t, exec (.fwctlGo 0) s = .next t ∧ t.boot.fwResult = 5 ∧ t.boot.fwBusy = true ∧ t.mem = s.mem ∧ t.ctxs = s.ctxs) ∧
    (∀ t, (s.boot.fwSwitch = true → exec (.fbctlGo t) s = .next { s with boot := { s.boot with heldGo := s.boot.heldGo ++ [t] } }) ∧
      (s.boot.fwSwitch = false → ∃ u x, exec (.fbctlGo t) s = .next u ∧ u = { s.setTenant t x with walks := s.walks.filter (·.1 != t) } ∧ x.fb = [] ∧ x.fbDrop = false ∧ x.parked = [] ∧
        x.resend.Perm ((s.tenant t).resend ++ (s.tenant t).parked) ∧ (x.replay = true ↔ (s.tenant t).resend ++ (s.tenant t).parked ≠ []))) ∧
    (let g := s.log
     let tail := dfld val 31 16
     exec (.logTailWrite 0 0 val) s =
       .next (if tail < 256 ∧ (tail + 256 - g.tail) % 256 ≤ (g.head + 256 - g.tail) % 256 then { s with log := { g with tail := tail } } else s)) ∧
    ∀ fn t, t < 64 → HostMay s fn t → let g := (s.tenant t).log
      let tail := dfld val 31 16
      tail < 32 → (tail + 32 - g.tail) % 32 ≤ (g.head + 32 - g.tail) % 32 →
      exec (.logTailWrite fn (t + 1) val) s = .next (s.setTenant t { s.tenant t with log := { g with tail := tail } })

/-- Host writes start what they are to start (R265, R267, R300, R301, R340, R366, R392, R398, R408, R413, R420, R432).
The model's readings in it are those of log entry 70.
Forms that complete here, each with its effect: tlbinvWrite, tlbInvalidationComplete, fepreemptStart, fepreemptEnd, tdbgrelWrite, lvqWrite,
levelQueryComplete, pcfgEnable, pcfgDisable, mbcfgEnable, trctlEnable, peerctlEnable, fwctlGo, fbctlGo, logTailWrite. -/
def Obligations.HostStartsUnits : Prop := TranslationsAreInvalidated ∧ FrontEndRegistersAct ∧ UnitsAreSwitchedOn

/-- An aligned 8-byte host access through BAR 2 reaches the DRAM of an enabled physical aperture: a read answers the bytes there and a write stores them; one
through a disabled aperture reads as all ones, writes nothing and is recorded; the MBM window is read raw, and its writes are discarded (R250, R366, R456).
Forms that complete here, each with its effect: hostBar2Read, hostBar2Write, hostMbmWindowAccess. -/
def Obligations.HostAccessesGoThroughApertures : Prop :=
  ∀ (s : State) (fn off addr : Nat) (reg : Dword) (val : BitVec 512), s.boot.phase = 6 → s.hostClear fn = true → fn ≤ min 8 s.numVf → off % 8 = 0 →
    off + 8 ≤ 2 ^ (30 + tget 0 s.boot.bar2 fn) → apertureOf s fn off reg addr → Intact s → (∀ t, (s.tile t).trctl.getLsbD 0 = false) →
    Memory.wf s.mem = true →
    (fn = 0 → reg.getLsbD 0 = true → reg.getLsbD 1 = true → addr + 8 ≤ dramBytes →
      (∃ w : Dword, WordAt s.mem addr w ∧ exec (.hostBar2Read fn off 8) s = .next { s with hostReads := s.hostReads ++ [(fn, off, w.setWidth 512)] }) ∧
      ∃ m, Stored s.mem m addr 8 (val.setWidth 64) ∧ exec (.hostBar2Write fn off 8 val) s = .next { s with mem := m }) ∧
    (reg.getLsbD 0 = false →
      (∃ t, exec (.hostBar2Read fn off 8) s = .next t ∧ t.mem = s.mem ∧ t.hostReads = s.hostReads ++ [(fn, off, 0xFFFFFFFFFFFFFFFF)]) ∧
      ∃ t, exec (.hostBar2Write fn off 8 val) s = .next t ∧ t.mem = s.mem ∧ t.hostReads = s.hostReads ∧ (t.log.head ≠ s.log.head ∨ t.log.lost = true)) ∧
    ∀ o, reg.getLsbD 0 = true → reg.getLsbD 1 = false → region addr = .mbm o →
      (∃ w : Dword, WordAt s.mem (mbmLoc + o) w ∧
        exec (.hostMbmWindowAccess fn off 8 false val) s = .next { s with hostReads := s.hostReads ++ [(fn, off, w.setWidth 512)] }) ∧
      ∃ t, exec (.hostMbmWindowAccess fn off 8 true val) s = .next t ∧ t.mem = s.mem ∧ t.mailboxes = s.mailboxes ∧ t.hostReads = s.hostReads

/-! ### Boot, time and versions -/

/-- Power-on reset keeps nothing of the device: every register has its reset value and every byte of its memories reads 0. Host memory, what has left the device,
and the model's own turn stay (R23; the zero is the model's, log entry 4). -/
def Sys2Proof.ResetKeepsNothing : Prop :=
  ∀ s : State, ∃ t, exec .powerOnReset s = .next t ∧
    t = { State.reset with focus := s.focus, tick := s.tick, hostReads := s.hostReads, msix := s.msix, mem := t.mem } ∧
    ∀ a, memGet t.mem a = if hostLoc ≤ a ∧ a < xaLoc then memGet s.mem a else 0

/-- Boot goes from one phase to the next: power-good, the choice of a valid table, the firmware image whose digest the table names, trained channels, and cleared
memory; each check that fails stops it with its error code (R29, R31 to R34). That the version of a boot image stands in its bytes 4 and 5, as that of a
replacement image does, is the model's reading (log entry 60). -/
def Sys2Proof.PhasesFollow : Prop :=
  ∀ s : State,
    let stops := fun (b : Boot) (e : Nat) => Host.Outcome.next { s with boot := { b with phase := 15, err := e } }
    (s.boot.phase = 0 → exec .powerGood s = .next { s with boot := { s.boot with phase := 1, dtb := 0 }, cycle := 0 }) ∧
    (s.boot.phase = 1 → Config.fuseKeyDigest = none → exec .cctSelect s = stops s.boot 0x06) ∧
    (∀ d, s.boot.phase = 1 → Config.fuseKeyDigest = some d →
      let a := flashBytes 0 5517
      let b := flashBytes 0x10000 5517
      let takes := fun (c : Cct) => if c.ok then
        Host.Outcome.next { s with boot := { s.boot with phase := 2, cct := some c, bar2 := [(0, c.bar2Init)] } } else stops s.boot 0x02
      (cctValid a d = false → cctValid b d = false → exec .cctSelect s = stops s.boot 0x01) ∧
      (cctValid a d = true → (cctValid b d = true → cctFld b 8 8 ≤ cctFld a 8 8) → exec .cctSelect s = takes (cctOf 0 a)) ∧
      (cctValid b d = true → (cctValid a d = true → cctFld a 8 8 < cctFld b 8 8) → exec .cctSelect s = takes (cctOf 1 b))) ∧
    (∀ c, s.boot.phase = 2 → s.boot.cct = some c →
      let image := flashBytes c.fwOffset c.fwLength
      (shake256 image ≠ c.fwHash → exec .firmwareImageLoad s = stops s.boot 0x03) ∧
      (shake256 image = c.fwHash → ∃ t, exec .firmwareImageLoad s = .next t ∧ t = { s with mem := t.mem, poison := t.poison, failing := t.failing, boot := { s.boot with
        phase := 3, lock := true, firewall := true, fwHash := c.fwHash, fwVersion := BitVec.ofNat 16 (cctFld image 4 2) } } ∧
        (Memory.wf s.mem = true → ImageLoaded s t image))) ∧
    (∀ oneLane dead, s.boot.phase = 3 → ∃ t, exec (.memoryTraining oneLane dead) s = .next t ∧ t.mem = s.mem ∧
      (∀ c < 24, t.boot.chok.getLsbD c = !dead.contains c) ∧
      (if ∃ c ∈ dead, c < 24 then t.boot.phase = 15 ∧ t.boot.err = 0x04 else t.boot.phase = 4) ∧
      ∀ c < 24, c ∉ dead →
        ((∀ p ∈ oneLane, p.1 ≠ c) → t.channel c = s.channel c) ∧
        ∀ l < 24, (∀ p ∈ oneLane, p.1 = c → p.2 = l) → (c, l) ∈ oneLane → t.channel c = { s.channel c with degr := true, lane := l } ∧ t.boot.degr = true) ∧
    (s.boot.phase = 4 → exec (.memoryClear true) s = stops s.boot 0x05 ∧
      ∃ t, exec (.memoryClear false) s = .next t ∧ t.boot.phase = 5 ∧ t.poison = [] ∧ t.failing = [] ∧ t.ctxs = s.ctxs ∧ (∀ k, (t.tile k).tags = []) ∧
        (∀ m, (t.mbox m).version = 0 ∧ (t.mbox m).time = 0) ∧ (∀ i < 7, tget 0 t.boot.devRange i = Config.deviceRange i) ∧ tget 0 t.boot.devRange 7 = 0 ∧
        ∀ a, memGet t.mem a = if hostLoc ≤ a ∧ a < xaLoc then memGet s.mem a else 0) ∧
    (s.boot.phase ≠ 0 → exec .pcieLinkTraining s = .next { s with boot := { s.boot with linkUp := true } })

/-- The device comes up (R23, R29, R31 to R34).
The model's readings in it are those of log entries 4 and 60.
Forms that complete here, each with its effect: powerOnReset, powerGood, cctSelect, firmwareImageLoad, memoryTraining, memoryClear, pcieLinkTraining. -/
def Obligations.TheDeviceBoots : Prop := ResetKeepsNothing ∧ PhasesFollow

/-- IVTCTL negotiates each host interface to the greatest common version; the device becomes READY when interfaces 0, 1 and 2 have one and otherwise stays in
phase 5; after READY it renegotiates only while every queue is off, and NEGF shows a failure (R36 to R39). A write is taken when the host's earlier writes have
been performed (R439); that a value other than 1 does nothing is the model's (log entry 98). -/
def Sys2Proof.VersionsAreNegotiated : Prop :=
  ∀ s : State, s.hostClear 0 = true →
    let done_ := fun (t : State) => ∀ i ∈ [0, 1, 2, 3, 4, 6], Negotiated (tget 0 s.boot.devRange i) (tget 0 s.boot.hostRange i) (tget 0 t.boot.negotiated i)
    let good := fun (t : State) => ∀ i < 3, (tget 0 t.boot.negotiated i).getLsbD 16 = true
    (s.boot.phase = 5 → ∃ t, exec (.ivtctlWrite 0 1) s = .next t ∧
      t = { s with boot := { s.boot with negotiated := t.boot.negotiated, phase := t.boot.phase } } ∧ done_ t ∧
      (good t → t.boot.phase = 6) ∧ (¬ good t → t.boot.phase = 5)) ∧
    (s.boot.phase = 6 → (∀ q ∈ s.queues, q.2.en = false) → ∃ t, exec (.ivtctlWrite 0 1) s = .next t ∧
      t = { s with boot := { s.boot with negotiated := t.boot.negotiated, negf := t.boot.negf } } ∧ done_ t ∧ (t.boot.negf = true ↔ ¬ good t)) ∧
    (s.boot.phase = 6 → (∃ q ∈ s.queues, q.2.en = true) → exec (.ivtctlWrite 0 1) s = .next s) ∧
    ∀ val : BitVec 64, val ≠ 1 → exec (.ivtctlWrite 0 val) s = .next s

/-- The first PTM exchange sets the DTB to host time, and later ones give only the offset that slewing corrects; an offset above 1 µs that lasts 1 s is recorded;
the configuration space retries before a table is in use and resizes BAR 2 within a function's range; a junction at its grade limit takes the clock one step
down and the exit one step up, with the temperature in TJ (R20, R24, R35, R250, R431). The record's ENGINE and DETAIL0 (log entry 88), the place 2^40 and the
form of a configuration request's answer (log entries 3 and 66), what THR counts (log entry 62), and the free temperature below the limit at the exit (log
entry 94) are the model's. -/
def Sys2Proof.TimeAndClock : Prop :=
  ∀ (s : State) (n m : Nat),
    (s.boot.phase ≠ 0 → s.boot.linkUp = true → s.boot.dtbSync = false →
      exec (.ptmExchange n) s = .next { s with boot := { s.boot with dtb := n, dtbSync := true } } ∧ exec (.ptmRepeat n) s = .next s) ∧
    (s.boot.phase ≠ 0 → s.boot.linkUp = true → s.boot.dtbSync = true →
      let t := { s with boot := { s.boot with slew := (n : Int) - (s.boot.dtb : Int) } }
      exec (.ptmExchange n) s = .next t ∧ exec (.ptmRepeat n) s = .next t) ∧
    (s.boot.dtbSync = true → 1000 < n → n < 2 ^ 64 → 1000000000 ≤ m → ∃ t, exec (.dtbOffsetCheck n m) s = .next t ∧ t.mem = s.mem ∧ t.boot = s.boot ∧
      Recorded s t 0x34B 1 (0x8000 + 8 * 0x1DA) (BitVec.ofNat 64 n)) ∧
    (s.boot.phase ≠ 0 → s.boot.linkUp = true →
      (s.boot.cct = none → ∀ resize, exec (.configurationRequest n resize) s = .next { s with hostReads := s.hostReads ++ [(n, 2 ^ 40, 1)] }) ∧
      ∀ c, s.boot.cct = some c →
        exec (.configurationRequest n none) s =
          .next { s with hostReads := s.hostReads ++ [(n, 2 ^ 40, BitVec.ofNat 512 (2 * c.numVf + tget 0 s.boot.bar2 n * 2 ^ 8))] } ∧
        ((n = 0 ∧ m ≤ 8) ∨ (n ≠ 0 ∧ n ≤ c.numVf ∧ m ≤ 6) →
          exec (.configurationRequest n (some m)) s = .next { s with
            hostReads := s.hostReads ++ [(n, 2 ^ 40, BitVec.ofNat 512 (2 * c.numVf + m * 2 ^ 8))], boot := { s.boot with bar2 := tset s.boot.bar2 n m } })) ∧
    (¬ (110 ≤ n ∨ (100 ≤ n ∧ Config.extendedGrade = false)) → exec (.thermalThrottle n) s = .next { s with boot := { s.boot with tj := n + 64 } }) ∧
    (110 ≤ n ∨ (100 ≤ n ∧ Config.extendedGrade = false) → n < 192 → ∃ t, exec (.thermalThrottle n) s = .next t ∧ t.mem = s.mem ∧ t.ctxs = s.ctxs ∧
      t.boot = { s.boot with tj := n + 64, clkStep := min 15 (s.boot.clkStep + 1), thr := min (s.boot.thr + 1) 65535 } ∧
      Recorded s t 0x34A 1 (0x8000 + 8 * 0x1DA) (BitVec.ofNat 64 n)) ∧
    ∃ t, exec .throttleExit s = .next t ∧ t = { s with tick := t.tick, boot := { s.boot with clkStep := s.boot.clkStep - 1, tj := t.boot.tj } } ∧
      t.boot.tj < 64 + (if Config.extendedGrade then 110 else 100)

/-- Versions, time and clock (R24, R35 to R39, R250, R431).
The model's readings in it are those of log entries 3, 62, 66, 88, 94 and 98.
Forms that complete here, each with its effect: ivtctlWrite, ptmExchange, ptmRepeat, dtbOffsetCheck, configurationRequest, thermalThrottle, throttleExit. -/
def Obligations.VersionsAndTimeAreKept : Prop := VersionsAreNegotiated ∧ TimeAndClock

/-! ### Service in the field, and the peer -/

/-- Where scrubbing goes on behind a DRAM line: at the next one, and after the last one at the first, which ends a pass (R426; that SRAM words do not count for a
pass is the model's reading, log entry 67). -/
def Sys2Proof.scrubbedOn (f : FeRegs) (line : Nat) : FeRegs :=
  if line + 1 = dramBytes / 64 then { f with scrubPos := 0, passes := min (f.passes + 1) (2 ^ 32 - 1) } else { f with scrubPos := line + 1 }

/-- A scrub read takes the next line: what the channel can correct is corrected and counted, what it cannot is poisoned, and a pass ends at the last line; a line
that is not the next one, and every line while scrubbing is off, keeps the failing symbols that have come to it. Errors in a local store's word are recorded, and
a word with two of them cannot be read any more (R423 to R426). How failing symbols come to a line, the order of the SRAM words and what the mark of such a word
does are the model's (log entries 5, 96 and 68). -/
def Sys2Proof.ScrubsRead : Prop :=
  ∀ (s : State) (line errs : Nat),
    (line < dramBytes / 64 → (s.fe.scrubOff = true ∨ s.boot.phase ≠ 6 ∨ line ≠ s.fe.scrubPos) → ∃ t, exec (.scrubRead line errs) s = .next t ∧
      t = { s with failing := t.failing } ∧ ∀ m, tget 0 t.failing m = tget 0 s.failing m + (if m = line then errs else 0)) ∧
    (s.fe.scrubOff = false → s.boot.phase = 6 → line < dramBytes / 64 → line = s.fe.scrubPos →
      let k := Config.channelOf line % 24
      let x := s.channel k
      let n := tget 0 s.failing line + errs
      let after := fun (t : State) => t.mem = s.mem ∧ t.fe = scrubbedOn s.fe line ∧ ∀ m, tget 0 t.failing m = if m = line then 0 else tget 0 s.failing m
      (n = 0 → exec (.scrubRead line errs) s = .next { s with fe := scrubbedOn s.fe line }) ∧
      (n ≠ 0 → line ∉ s.poison → n ≤ (if x.degr then 1 else 2) → ∃ t, exec (.scrubRead line errs) s = .next t ∧ after t ∧ t.poison = s.poison ∧
        t.channel k = { x with ce := min (x.ce + 1) (2 ^ 32 - 1) } ∧ Recorded s t 0x341 1 (0x7000 + 8 * k) 0) ∧
      (line ∉ s.poison → (if x.degr then 1 else 2) < n → ∃ t, exec (.scrubRead line errs) s = .next t ∧ after t ∧
        t.poison = s.poison ++ [line] ∧ t.channels = s.channels ∧ Recorded s t 0x34E 2 (0x7000 + 8 * k) 0) ∧
      (n ≠ 0 → line ∈ s.poison → ∃ t, exec (.scrubRead line errs) s = .next t ∧ after t ∧ t = { s with fe := t.fe, failing := t.failing })) ∧
    ∀ tile w, s.fe.scrubOff = false → s.boot.phase = 6 → tile < 400 → w < 2 ^ 17 → s.fe.scrubSram = tile * 2 ^ 19 + w →
      line = dramBytes / 64 + s.fe.scrubSram →
      let loc := lsLoc tile (8 * w)
      let n := tget 0 s.failing (loc / 8) + errs
      let after := fun (t : State) => t.mem = s.mem ∧ t.fe = { s.fe with scrubSram := s.fe.scrubSram + 1 } ∧ tget 0 t.failing (loc / 8) = 0
      (n = 0 → exec (.scrubRead line errs) s = .next { s with fe := { s.fe with scrubSram := s.fe.scrubSram + 1 } }) ∧
      (n = 1 → ∃ t, exec (.scrubRead line errs) s = .next t ∧ after t ∧ t.poison = s.poison ∧ Recorded s t 0x343 1 (8 * tile) 0) ∧
      (2 ≤ n → s.poisoned loc 8 = false → ∃ t, exec (.scrubRead line errs) s = .next t ∧ after t ∧
        t.poisoned loc 8 = true ∧ Recorded s t 0x344 2 (8 * tile) 0)

/-- A first failed lane of a channel turns into lane-degraded mode, which a switchover holds; another one is reported once as lost (R421, R430). -/
def Sys2Proof.LanesDegrade : Prop :=
  ∀ (s : State) (c lane : Nat), c < 24 → lane < 24 → let x := s.channel c
    let lost := ∃ t, exec (.laneFailure c lane) s = .next t ∧ t.mem = s.mem ∧ t.channel c = { x with lost := true } ∧
      Recorded s t 0x34F 4 (0x7000 + 8 * c + lane / 12) (BitVec.ofNat 64 lane)
    (x.degr = false → x.failing = false → x.laneHeld = none →
      exec (.laneFailure c lane) s = .next (s.setChannel c
        (if s.boot.fwSwitch = true then { x with laneHeld := some lane } else { x with failing := true, lane := lane }))) ∧
    ((x.degr = true ∨ x.failing = true) → x.lost = false → lane ≠ x.lane → lost) ∧
    (x.degr = false → x.failing = false → x.lost = false → (∃ k, x.laneHeld = some k ∧ lane ≠ k) → lost) ∧
    (x.failing = true → ∃ t, exec (.laneDegradedComplete c) s = .next t ∧ t.mem = s.mem ∧ t.channel c = { x with failing := false, degr := true } ∧
      t.boot.degr = true ∧ Recorded s t 0x345 1 (0x7000 + 8 * c + x.lane / 12) (BitVec.ofNat 64 x.lane))

/-- The lines of a row that a remap entry names, as the model takes them from Config (log entry 63). -/
def Sys2Proof.rowOf (c : Nat) (w : Dword) : List Nat := (Config.rowLines c (w.extractLsb' 8 24).toNat).filter (fun l => decide (l < dramBytes / 64))

/-- The lines of a row have their old contents and their old POISON again, and no byte of another line has changed (R428). -/
def Sys2Proof.RowRestored (s t : State) (rows : List (Nat × List Byte × Bool)) : Prop :=
  (∀ r ∈ rows, (∀ j < 64, memGet t.mem (r.1 * 64 + j) = r.2.1.getD j 0) ∧ (r.2.2 = true ↔ r.1 ∈ t.poison)) ∧
  ∀ a, (∀ r ∈ rows, a / 64 ≠ r.1) → memGet t.mem a = memGet s.mem a

/-- A remap entry written with V set becomes valid when its row is copied, unless the table is full; V cleared frees it, and the old row's contents show again;
PPR repairs a valid row at once or after the repair in progress, success frees the entry and failure keeps it; during a switchover a row copy is held, and so is a
repair, which is the model's reading for one already asked for (R421, R427 to R429; log entry 64). -/
def Sys2Proof.RowsAreRemapped : Prop :=
  ∀ (s : State) (c e : Nat) (val : BitVec 64), c < 24 → e < 64 → s.boot.phase = 6 → s.hostClear 0 = true →
    let x := s.channel c
    let bits := val &&& 0xFFFFFF07
    let n := (x.rmap.filter (fun p => p.2.getLsbD 0)).length
    let one := BitVec.ofNat 64 e
    (val.getLsbD 0 = true → val.getLsbD 1 = false →
      (n = 64 → ∃ t, exec (.rmapSetValid 0 c e val) s = .next t ∧ t.channels = s.channels ∧ Recorded s t 0x347 1 (0x7000 + 8 * c + dfld val 12 12) one) ∧
      (n ≠ 64 → (tget 0 x.rmap e).getLsbD 0 = false → e ∉ x.remapping → e ∉ x.remapHeld → exec (.rmapSetValid 0 c e val) s =
        .next (s.setChannel c (if s.boot.fwSwitch = true then { x with rmap := tset x.rmap e (bits &&& ~~~1#64), remapHeld := x.remapHeld ++ [e] }
          else { x with rmap := tset x.rmap e (bits &&& ~~~1#64), remapping := x.remapping ++ [e] })))) ∧
    (e ∈ x.remapping → (tget 0 x.rmap e).getLsbD 1 = false → ∃ t, exec (.rowRemapComplete c e) s = .next t ∧ t.mem = s.mem ∧
      (∃ rows, t.channel c = { x with
          rmap := tset x.rmap e (tget 0 x.rmap e ||| 1), remapping := x.remapping.filter (· != e), oldRows := tset x.oldRows e rows } ∧
        rows.map (·.1) = rowOf c (tget 0 x.rmap e) ∧ ∀ r ∈ rows, r.2.1 = memRead s.mem (r.1 * 64) 64 ∧ (r.2.2 = true ↔ r.1 ∈ s.poison)) ∧
      Recorded s t 0x346 1 (0x7000 + 8 * c + dfld (tget 0 x.rmap e) 12 12) one) ∧
    (val.getLsbD 0 = false →
      let y := { x with rmap := tset x.rmap e bits, remapping := x.remapping.filter (· != e), remapHeld := x.remapHeld.filter (· != e) }
      ((tget 0 x.rmap e).getLsbD 0 = false → exec (.rmapClearValid 0 c e val) s = .next (s.setChannel c y)) ∧
      ((tget 0 x.rmap e).getLsbD 0 = true → ∃ t, exec (.rmapClearValid 0 c e val) s = .next t ∧
        t = { s with mem := t.mem, poison := t.poison, failing := t.failing, channels := t.channels } ∧
        t.channel c = { y with oldRows := tdel x.oldRows e } ∧
        let rows := tget [] x.oldRows e
        (Memory.wf s.mem = true → rows.Pairwise (fun p q => p.1 ≠ q.1) → (∀ r ∈ rows, r.1 < dramBytes / 64 ∧ r.2.1.length = 64) →
          RowRestored s t rows))) ∧
    (val.getLsbD 0 = true → val.getLsbD 1 = true → (tget 0 x.rmap e).getLsbD 0 = true → x.pprBusy ≠ some e → e ∉ x.pprWait →
      exec (.rmapPprStart 0 c e val) s = .next (s.setChannel c { x with
        rmap := tset x.rmap e bits, remapping := x.remapping.filter (· != e), remapHeld := x.remapHeld.filter (· != e)
        pprBusy := if x.pprBusy = none ∧ s.boot.fwSwitch = false then some e else x.pprBusy
        pprWait := if x.pprBusy = none ∧ s.boot.fwSwitch = false then x.pprWait else x.pprWait ++ [e] })) ∧
    (x.pprBusy = some e → s.boot.fwSwitch = false → ∀ ok : Bool,
      ∃ t, exec (.pprComplete c ok) s = .next t ∧ t.mem = s.mem ∧
        t.channel c = { x with
          rmap := tset x.rmap e (tget 0 x.rmap e &&& (if ok then ~~~3#64 else ~~~2#64)), pprBusy := x.pprWait.head?, pprWait := x.pprWait.tail
          oldRows := if ok then tdel x.oldRows e else x.oldRows } ∧
        Recorded s t (if ok then 0x348 else 0x349) (if ok then 0 else 1) (0x7000 + 8 * c + dfld (tget 0 x.rmap e) 12 12) one)

/-- An image that fails a check is refused with its RESULT and a record; one that passes begins the switchover, which ends once no repair is under way: the new
image's version, digest and ranges are in force and the requests held meanwhile go to it, a lane's conversion among them; the firmware answers HFCALL VERSION and
HEALTH, unless it is being replaced (R390, R419 to R421). The tile in the records' ENGINE (log entry 61), and where the version and the ranges of the image
stand (log entry 60), are the model's. -/
def Sys2Proof.FirmwareIsReplaced : Prop :=
  ∀ (s : State) (tile slot bank : Nat),
    (s.boot.fwBusy = true → s.boot.fwSwitch = false →
      (s.verifyImage = 0 → exec .firmwareVerifyComplete s = .next { s with boot := { s.boot with fwSwitch := true } }) ∧
      (s.verifyImage ≠ 0 → ∃ t, exec .firmwareVerifyComplete s = .next t ∧ t.mem = s.mem ∧
        t.boot = { s.boot with fwBusy := false, fwResult := s.verifyImage } ∧ Recorded s t 0x34D 0 s.fwEngine (BitVec.ofNat 64 s.verifyImage))) ∧
    (s.boot.fwSwitch = true → (∀ c ∈ s.channels, c.2.pprBusy = none ∧ c.2.pprWait = [] ∧ c.2.remapping = [] ∧ c.2.failing = false) → s.boot.heldGo = [] →
      ∃ t, exec .firmwareSwitchoverComplete s = .next t ∧ (Memory.wf s.mem = true → ImageLoaded s t (s.window 0 (s.windowFld 0x10 4))) ∧
        (∀ c, let x := s.channel c
          t.channel c = { x with remapping := x.remapHeld, remapHeld := [], laneHeld := none, failing := x.laneHeld.isSome, lane := x.laneHeld.getD x.lane }) ∧
        t.tenants = s.tenants ∧ Recorded s t 0x34C 0 s.fwEngine 0 ∧
        t.boot = { s.boot with
          fwSwitch := false, fwBusy := false, fwResult := 0, heldGo := [], fwVersion := BitVec.ofNat 16 (s.windowFld 4 2)
          fwHash := shake256 (s.window 0 (s.windowFld 0x10 4)), devRange := t.boot.devRange } ∧
        ∀ i < 7, tget 0 t.boot.devRange i = BitVec.ofNat 32 (s.windowFld (0x20 + 4 * i) 4)) ∧
    (s.boot.fwSwitch = true → (∃ c ∈ s.channels, c.2.pprBusy ≠ none ∨ c.2.remapping ≠ [] ∨ c.2.failing = true) → exec .firmwareSwitchoverComplete s = .next s) ∧
    (let r : BankRef := ⟨tile, slot, bank⟩
     ∀ n reg arg, (s.bank r).wait = some (.hfcall n reg arg) →
      (s.boot.fwSwitch = true → exec (.hfcallReply tile slot bank) s = .next s) ∧
      (s.boot.fwSwitch = false → (∀ k, s.task? (s.bank r).task = some k → k.killing = false) → (s.bank r).wins = [] → (s.bank r).ports = [] →
        (n = 0 → exec (.hfcallReply tile slot bank) s =
          .next (s.setBank r { (s.bank r).wg reg (s.boot.fwVersion.setWidth 64) with wait := none, readyAt := max (s.bank r).readyAt (s.cycle + 1) })) ∧
        (n = 1 → ∃ t, exec (.hfcallReply tile slot bank) s = .next t ∧ t.mem = s.mem ∧ (t.bank r).wait = none ∧
          (t.bank r).g = ((s.bank r).wg reg 0).g ∧ ∃ engine, Recorded s t 0x3C0 0 engine arg)))

/-- The device is kept in service (R390, R419 to R421, R423, R424, R426 to R430).
Log entries 5, 60, 61, 63, 64, 67, 68 and 96.
Forms that complete here, each with its effect: scrubRead, laneFailure, laneDegradedComplete, rmapSetValid, rowRemapComplete, rmapClearValid, rmapPprStart,
pprComplete, firmwareVerifyComplete, firmwareSwitchoverComplete, hfcallReply. -/
def Obligations.ServiceKeepsTheDeviceRunning : Prop := ScrubsRead ∧ LanesDegrade ∧ RowsAreRemapped ∧ FirmwareIsReplaced

/-- A module that is READY and enabled answers JOIN with JOINACK and the version that both ranges give. A module that is joining holds both ranges with JOIN, as with
JOINACK: it joins with a role, when the ranges have a version in common and one side alone is the spare, or fails with 0x384. It hears HEART, compares PDIG with its
own period, and becomes the spare on TAKEOVER. A malformed message is discarded with 0x385 (R414 to R417; the version of a JOINACK of a module that does not
join, and the wait for JOINACK after JOIN, are the model's readings, log entries 105 and 20). -/
def Sys2Proof.MessagesAreHeard : Prop :=
  ∀ (s : State) (m : BitVec 512), s.boot.phase = 6 → s.peer.en = true →
    let p := landedAt s.peer m s.boot.dtb
    let mine := tget 0 s.boot.devRange 5
    let other := m.extractLsb' 256 32
    let joinedBy := fun (q : Peer) (x : Dword) => { s with
      peer := { q with st := 2, role := s.peer.spare, sentAt := s.boot.dtb }
      boot := { s.boot with negotiated := tset s.boot.negotiated 5 x, peer := true } }
    let failed := fun (t : State) (q : Peer) => t.mem = s.mem ∧ t.boot = s.boot ∧ t.peer = { q with st := 4 } ∧
      Recorded s t 0x384 2 (0x8000 + 8 * 0x1DA + 1) 0
    (∀ x, Negotiated mine other x → Message m 1 → ∃ t q, exec (.porsolJoin m) s = .next t ∧ Sends p q 2 x ∧
      (s.peer.st ≠ 1 → t = { s with peer := q }) ∧
      (s.peer.st = 1 → x ≠ 0 → m.getLsbD 288 ≠ s.peer.spare → t = joinedBy q x) ∧
      (s.peer.st = 1 → (x = 0 ∨ m.getLsbD 288 = s.peer.spare) → failed t q)) ∧
    (∀ x, Negotiated mine other x → Message m 2 → let q := { p with acked := true }
      ∃ t, exec (.porsolJoinack m) s = .next t ∧
        (s.peer.st ≠ 1 → t = { s with peer := q }) ∧
        (s.peer.st = 1 → x ≠ 0 → m.getLsbD 288 ≠ s.peer.spare → t = joinedBy q x) ∧
        (s.peer.st = 1 → (x = 0 ∨ m.getLsbD 288 = s.peer.spare) → failed t q)) ∧
    (Message m 3 → exec (.porsolHeart m) s = .next { s with peer := p }) ∧
    (Message m 4 → s.peer.st = 2 → s.peer.other = [] → let period := (m.extractLsb' 192 64).toNat
      let dig := m.extractLsb' 256 256
      ((∀ x ∈ s.peer.mine, x.1 ≠ period) → exec (.porsolPdig m) s = .next { s with peer := { p with other := [(period, dig)] } }) ∧
      ∀ phase d, s.peer.mine = [(period, phase, d)] →
        (d = dig → exec (.porsolPdig m) s = .next { s with peer := { p with mine := [], other := [], cmp := p.cmp + 1 } }) ∧
        (d ≠ dig → ∃ t, exec (.porsolPdig m) s = .next t ∧ t.mem = s.mem ∧
          t.peer = { p with mine := [], other := [], cmp := p.cmp + 1, mism := min (p.mism + 1) 65535, lastPh := phase } ∧
          Recorded s t 0x382 3 (0x8000 + 8 * 0x1DA + 1) 0)) ∧
    (Message m 5 → exec (.porsolTakeover m) s = .next { s with peer := { p with role := true } }) ∧
    ((∀ k, 1 ≤ k → k ≤ 5 → ¬ Message m k) → ∃ t, exec (.porsolHeart m) s = .next t ∧ t.peer = s.peer ∧ t.mem = s.mem ∧
      Recorded s t 0x385 2 (0x8000 + 8 * 0x1DA + 1) 0)

/-- A join that has had no JOINACK for 10 ms fails; a joined module sends HEART every period, and counts its peer lost after MISS periods without a message: a
spare with AUTO then takes over (R415, R417). -/
def Sys2Proof.LivenessIsWatched : Prop :=
  ∀ s : State, let p := s.peer
    let period := max 1 p.hb * 10000
    ((p.st = 1 ∨ p.st = 2) → p.acked = false → p.joinAt + 10000000 ≤ s.boot.dtb →
      ∃ t, exec .joinTimeout s = .next t ∧ t.mem = s.mem ∧ t.boot = s.boot ∧ t.peer = { p with st := 4 } ∧ Recorded s t 0x384 2 (0x8000 + 8 * 0x1DA + 1) 0) ∧
    ((p.acked = true ∨ s.boot.dtb < p.joinAt + 10000000) → exec .joinTimeout s = .next s) ∧
    (p.st = 2 → p.sentAt + period ≤ s.boot.dtb →
      ∃ t, exec .heartbeatSend s = .next t ∧ t = { s with peer := t.peer } ∧ Sends { p with sentAt := s.boot.dtb } t.peer 3 (tget 0 s.boot.negotiated 5)) ∧
    (p.st = 2 → s.boot.dtb < p.sentAt + period → exec .heartbeatSend s = .next s) ∧
    (p.st = 2 → s.boot.dtb < p.lastMsg + max 1 p.miss * period → exec .peerLost s = .next s) ∧
    (p.st = 2 → p.lastMsg + max 1 p.miss * period ≤ s.boot.dtb →
      ((p.role = false ∨ p.auto = false) → ∃ t, exec .peerLost s = .next t ∧ t.mem = s.mem ∧ t.boot = s.boot ∧ t.peer = { p with st := 3 } ∧
        Recorded s t 0x383 2 (0x8000 + 8 * 0x1DA + 1) 0) ∧
      (p.role = true → p.auto = true → ∃ t, exec .peerLost s = .next t ∧ t.mem = s.mem ∧ t.boot = s.boot ∧ Sends { p with st := 3, role := false } t.peer 5 (tget 0 s.boot.negotiated 5)))

/-- Two modules join, watch each other and take over (R414 to R417).
Forms that complete here, each with its effect: porsolJoin, porsolJoinack, porsolHeart, porsolPdig, porsolTakeover, joinTimeout, heartbeatSend, peerLost. -/
def Obligations.PeersJoinAndTakeOver : Prop := MessagesAreHeard ∧ LivenessIsWatched

/-! ### Placement, retirement and completion -/

/-- The oldest deterministic launch without a reservation takes its whole set, or waits while another deterministic launch holds a tile of it; a placed task takes the
next index, slots that no task holds and a run that no task holds, on a tile of its launch's set, under the tile's next generation (R116 to R118, R122). -/
def Sys2Proof.TasksArePlaced : Prop :=
  ∀ (s : State) (n : Nat) (l : Launch), LaunchAt s n l →
    (l.mode = 2 → l.reserved = false → l.cancelled = false → (∀ m < n, ∀ x, s.launches[m]? = some x → x.mode = 2 → x.reserved = true ∨ x.cancelled = true) →
      let held := ∃ x ∈ s.launches, x.mode = 2 ∧ x.reserved = true ∧ ∃ t, inRect x.rect t = true ∧ inRect l.rect t = true
      (¬ held → exec (.deterministicReservation n) s = .next (s.setLaunch { l with reserved := true })) ∧
      (held → exec (.deterministicReservation n) s = .next s)) ∧
    ∀ i tile slots base, (s.placeNext.map (·.key)) = some l.key → s.saved = [] → l.nextTask = some i → s.spot l = some (tile, slots, base) →
      (∀ k ∈ slots, ∀ x ∈ s.tasks, x.tile = tile → k ∉ x.slots) ∧
      (∀ x ∈ s.tasks, ∀ y, x.tile = tile → s.launch? x.launch = some y → base + l.per ≤ x.base ∨ x.base + y.per ≤ base) ∧
      (l.mode ≠ 2 → (l.lastTile = none ∨ ∃ x, l.lastTile = some x ∧ inRect l.rect x = true) →
        inRect l.rect tile = true ∧ slots.length = l.quota ∧ base + l.per ≤ taskSpace tile) ∧
      ∃ t x, exec (.taskPlace n) s = .next t ∧ t.mem = s.mem ∧ t.ctxs = s.ctxs ∧ t.tasks.map (·.id) = (s.tasks ++ [x]).map (·.id) ∧ x ∈ t.tasks ∧
        x.launch = l.key ∧ x.index = i ∧ x.tile = tile ∧ x.slots = slots ∧ x.base = base ∧ x.gen = (s.tile tile).gen + 1 ∧ x.staged = false ∧
        (t.tile tile).gen = (s.tile tile).gen + 1 ∧
        t.launch? l.key = some { l with
          next := if l.again = [] then l.next + 1 else l.next, again := l.again.tail, lastTile := some tile, stuckSince := none
          closed := l.closed || decide ((if l.again = [] then l.next + 1 else l.next) = l.taskCount) }

/-- Staging copies the footprint's image granule after granule, each read before its bytes are written behind the others with full tags; once it is whole,
and the tile is not seized, the scratch is zero with empty tags and every lane is seeded in its slot; an image on a page that is not present parks it
(R55, R56, R118, R120, R121). -/
def Sys2Proof.TasksAreStaged : Prop :=
  ∀ (s u : State) (k : Task) (l : Launch) (locs : List (Nat × Nat)), s.tasks.find? (fun x => x.id == k.id) = some k → s.launch? k.launch = some l →
    k.staged = false → k.killing = false → k.parked = none → k.tile < 512 → k.slots.Nodup → (∀ j ∈ k.slots, j < 8) → k.base % 8 = 0 → k.copied % 8 = 0 →
    l.foot % 64 = 0 → (l.quota * l.scratch) % 8 = 0 → k.base + l.per ≤ 2 ^ 22 → Memory.wf s.mem = true →
    let va := l.hdr.toNat - l.foot + k.copied
    let n := min (l.foot - k.copied) (64 - va % 64)
    let read := fun x => s.runLocs ⟨512, l.tenant, .other⟩ 0 1 va n [] = (u, x)
    (k.copied < l.foot → n % 8 = 0 → read (.ok locs) → u.failing = [] → u.anyPoison locs = false → (u.gather locs).length = n →
      let t := s.stageOne k.id
      exec (.footprintStagingComplete k.id) s = exec (.footprintStagingComplete k.id) t ∧ t.ctxs = s.ctxs ∧
        t.tasks.find? (fun x => x.id == k.id) = some { k with copied := k.copied + n } ∧
        (∀ j, memGet t.mem (lsLoc k.tile (k.base + k.copied) + j) =
          if j < n then (u.gather locs).getD j 0 else memGet s.mem (lsLoc k.tile (k.base + k.copied) + j)) ∧
        (∀ a, a < lsLoc k.tile (k.base + k.copied) → memGet t.mem a = memGet s.mem a) ∧
        ∀ w, w ∈ (t.tile k.tile).tags ↔ w ∈ (s.tile k.tile).tags ∨ ((k.base + k.copied) / 8 ≤ w ∧ w < (k.base + k.copied + n) / 8)) ∧
    (∀ a, k.copied < l.foot → read (.error (none, a)) →
      ∃ t x, exec (.footprintStagingComplete k.id) s = .next t ∧ t.mem = s.mem ∧ t.ctxs = s.ctxs ∧ t.tasks.find? (fun x => x.id == k.id) = some x ∧
        x.parked = some a ∧ x.staged = false) ∧
    (k.copied = l.foot → (s.tile k.tile).seize.st ≠ 0 → exec (.footprintStagingComplete k.id) s = .next s) ∧
    (k.copied = l.foot → (s.tile k.tile).seize.st = 0 →
      ∃ t, exec (.footprintStagingComplete k.id) s = .next t ∧ (t.tasks.find? (fun x => x.id == k.id)).map (·.staged) = some true ∧
        (∀ j, memGet t.mem (lsLoc k.tile (k.base + l.foot) + j) = if j < l.quota * l.scratch then 0 else memGet s.mem (lsLoc k.tile (k.base + l.foot) + j)) ∧
        (∀ a, a < lsLoc k.tile (k.base + l.foot) → memGet t.mem a = memGet s.mem a) ∧
        (∀ w, w ∈ (t.tile k.tile).tags ↔ w ∈ (s.tile k.tile).tags ∧ ¬ ((k.base + l.foot) / 8 ≤ w ∧ w < (k.base + l.per) / 8)) ∧
        ∀ j < k.slots.length, let b := t.bank ⟨k.tile, k.slots.getD j 0, 0⟩
          b.seeded = true ∧ b.kind = 0 ∧ b.task = k.id ∧ b.lane = j ∧ b.pc = l.hdr + BitVec.ofNat 48 l.entry ∧ b.numctl = l.numctl ∧ b.od = l.od ∧
            b.rg 0 = 0 ∧ b.rg 1 = BitVec.ofNat 64 k.index ∧ b.rg 2 = BitVec.ofNat 64 j ∧ b.rg 3 = l.arg ∧ b.rg 4 = l.lid.setWidth 64 ∧ b.rg 5 = l.s5 ∧
            b.rg 6 = l.s6 ∧ b.rg 7 = l.s7 ∧ (∀ r, 8 ≤ r → b.rg r = 0) ∧ (∀ r, b.rv r = 0) ∧ b.icount = 0 ∧ b.wait = none)

/-- A task without obligations retires, and the matrix unit that it owns begins to clear; a drained launch's digest is read
snapshot after snapshot in table order and is the hash of the head and what was read; an instance that is closed with nothing left in it completes: its status is
kept and joins its parent's, and below a cancelled instance it is at least 3 (R42, R129, R213, R406 to R408, R411). No queue is held for the room of a signal that
is there already, so that nothing is written on completion. -/
def Sys2Proof.WorkCompletes : Prop :=
  ∀ s : State,
    let calm := ∀ k g len, (s.queue k).hold = some (.signal g, len) → 8 ≤ (s.queue k).signals.length
    (∀ k, s.task? k.id = some k → s.resident k.id = true → k.staged = true → k.killing = false →
      (s.obligations k ≠ 0 → exec (.taskRetire k.id) s = .next s) ∧
      (s.obligations k = 0 → ∃ t, exec (.taskRetire k.id) s = .next t ∧ t = { s with tasks := t.tasks, tiles := t.tiles } ∧
        t.tasks = s.tasks.filter (fun x => x.id != k.id) ∧
        ((s.tile k.tile).mx.owner ≠ some k.id → t.tiles = s.tiles) ∧ ((s.tile k.tile).mx.owner = some k.id → (t.tile k.tile).mx.clearing = true))) ∧
    (∀ n l, LaunchAt s n l → l.closed = true → l.again = [] → (∀ x ∈ s.tasks, x.launch ≠ l.key) → (∀ v ∈ s.saved, v.task.launch ≠ l.key) →
      let status := max (if l.faulted then 5 else if l.failed then 4 else if l.cancelled then 3 else if l.dropped then 2 else 1)
        (if s.insts.any (fun i => i.tenant == l.tenant && i.cancelled &&
          ((i.kind == 2 && i.id == l.graph) || (i.kind == 3 && i.id == l.phase) || (i.kind == 4 && i.id == l.job))) then 3 else 1)
      (l.digest = true → l.dig = none → status ≤ 2 → l.digestParked = false →
        (l.regions[l.digestAt.1]? = none → exec (.resultDigest n) s = .next (s.setLaunch { l with dig := some (some (shake256 (
          natBytes 4 0x47445A47 ++ natBytes 2 1 ++ natBytes 2 l.regions.length ++ natBytes 16 l.hash.toNat ++ l.digestRead))) })) ∧
        ∀ u base len rel locs, l.regions[l.digestAt.1]? = some (base, len, rel) → l.digestAt.2 < len →
          let off := l.digestAt.2
          let va := (if rel then base + l.arg else base).toNat + off
          let k := min (len - off) (64 - va % 64)
          s.runLocs ⟨512, l.tenant, .other⟩ 0 1 va k [] = (u, .ok locs) → u.failing = [] → u.anyPoison locs = false →
            s.digestOne n = u.setLaunch { l with
              digestAt := if off + k = len then (l.digestAt.1 + 1, 0) else (l.digestAt.1, off + k)
              digestRead := l.digestRead ++ ((if off = 0 then natBytes 8 base.toNat ++ natBytes 1 (if rel then 1 else 0) ++ natBytes 7 len else []) ++
                u.gather locs) } ∧
            exec (.resultDigest n) s = exec (.resultDigest n) (s.digestOne n)) ∧
      ((l.digest = false ∨ l.dig ≠ none ∨ 2 < status) → calm → s.launches.find? (fun x => x.tenant == l.tenant && x.lid == l.lid) = some l →
        ∃ t d, exec (.instanceComplete l.tenant 1 l.lid.toNat) s = .next t ∧ t.mem = s.mem ∧ t.launches = s.launches.filter (fun x => x.key != l.key) ∧
          t.done? l.tenant 1 l.lid.toNat = some d ∧ d.status = status ∧ d.reset = l.reset ∧ d.nrec = l.nrec ∧
          (d.digv = true ↔ status ≤ 2 ∧ ∃ x, l.dig = some (some x)) ∧ (d.digerr = true ↔ l.dig = some none) ∧ (∀ x, l.dig = some (some x) → d.digest = x) ∧
          ∀ g, s.inst? l.tenant 2 l.graph = some g → ∃ h, t.inst? l.tenant 2 l.graph = some h ∧ h.status = max g.status status ∧ h.reset = (g.reset || l.reset))) ∧
    let above := fun (i : Inst) => s.insts.any (fun p => p.tenant == i.tenant && p.cancelled && ((p.kind == i.kind + 1 && p.id == i.parent) ||
      (p.kind == i.kind + 2 && (s.inst? i.tenant 3 i.parent).any (fun x => x.parent == p.id))))
    ∀ i, calm → 2 ≤ i.kind → i.kind ≤ 4 → s.inst? i.tenant i.kind i.id = some i → i.closed = true →
      (i.kind = 2 → ∀ l ∈ s.launches, ¬ (l.tenant = i.tenant ∧ l.graph = i.id)) →
      (i.kind ≠ 2 → ∀ x ∈ s.insts, ¬ (x.tenant = i.tenant ∧ x.kind + 1 = i.kind ∧ x.parent = i.id)) →
      ∃ t d, exec (.instanceComplete i.tenant i.kind i.id) s = .next t ∧ t.mem = s.mem ∧ t.inst? i.tenant i.kind i.id = none ∧
        (i.tenant, i.kind, i.id) ∈ t.ended ∧ t.done? i.tenant i.kind i.id = some d ∧ d.status = max (if i.cancelled || above i then 3 else 1) i.status ∧ d.reset = i.reset ∧ d.nrec = i.nrec ∧
        (i.kind = 4 → ∀ w ∈ t.wacc, ¬ (w.tenant = i.tenant ∧ w.job = i.id)) ∧
        ∀ p, i.kind < 4 → s.inst? i.tenant (i.kind + 1) i.parent = some p →
          ∃ q, t.inst? i.tenant (i.kind + 1) i.parent = some q ∧ q.status = max p.status d.status

/-- Tasks are placed, staged, retired and completed (R42, R56, R116 to R122, R129, R213, R406 to R408, R411).
Forms that complete here, each with its effect: deterministicReservation, taskPlace, footprintStagingComplete, taskRetire, resultDigest, instanceComplete. -/
def Obligations.TasksRunFromPlacementToCompletion : Prop := TasksArePlaced ∧ TasksAreStaged ∧ WorkCompletes

/-! ### Pre-emption, quanta, kills and watchdogs -/

/-- A launch that cannot be placed starts a ladder on the lowest queue of lower priority that holds its set, which may be its own; rung 2 comes after T1, if the need
persists, and stops the victim's tasks to be saved; rung 3 comes after T2 and kills those whose save has not completed, to be placed again: their waits end with
the kill, but for a burst command without a queue entry, whose pins end at kill-quiet (R398, R399, R403, R112, R305). -/
def Sys2Proof.LaddersClimb : Prop :=
  ∀ s : State,
    (∀ n l k, LaunchAt s n l → s.stuck l = true →
      Victim s (fun j => (s.queue j).prio < l.prio ∧ ∃ x ∈ s.tasks, s.rootOf x = some j ∧ inRect l.rect x.tile = true) k → (s.queue k).ladder = none →
      ∃ t, exec (.ladderStart n) s = .next t ∧ t.mem = s.mem ∧ t.ctxs = s.ctxs ∧ t.tasks = s.tasks ∧
        t.queue k = atRung (s.queue k) ⟨1, if isXa (fld l.rect.toNat 8 0) then 1 else 3, s.boot.dtb, some l.key, false⟩ 0x301) ∧
    ∀ k d, (s.queue k).ladder = some d →
      let persists := d.launch = none ∨ ∃ l, d.launch = some l.key ∧ s.launch? l.key = some l ∧ s.stuck l = true
      (d.rung = 1 → 2 ≤ d.deepest → d.since + max 1 (s.queue k).t1 * 10000 ≤ s.boot.dtb → persists →
        ∃ t, exec (.rung2Save k) s = .next t ∧ t.mem = s.mem ∧ t.ctxs = s.ctxs ∧ t.queue k = atRung (s.queue k) { d with rung := 2 } 0x302 ∧
          t.tasks = s.tasks.map (fun x => if s.rootOf x = some k ∧ s.contested d x.tile = true ∧ isLa x.tile = true ∧ x.killing = false then
            { x with saving := true, quantum := false } else x)) ∧
      (s.boot.dtb < d.since + max 1 (s.queue k).t1 * 10000 ∨ ¬ persists → exec (.rung2Save k) s = .next s) ∧
      let hit := fun (x : Task) => s.rootOf x = some k ∧ s.contested d x.tile = true ∧ isLa x.tile = true ∧ x.killing = false ∧
        (d.rung = 2 → x.saving = true) ∧ (d.rung ≠ 2 → persists)
      (d.rung < 3 → 3 ≤ d.deepest → d.since + max 1 (s.queue k).t2 * 10000 ≤ s.boot.dtb → (∀ x ∈ s.tasks, ∀ y ∈ s.tasks, x.id = y.id → x = y) →
        (∃ x ∈ s.tasks, hit x) → ∃ t, exec (.rung3Reset k) s = .next t ∧ t.mem = s.mem ∧ t.queue k = atRung (s.queue k) { d with rung := 3 } 0x303 ∧
          (∀ r, (∀ x ∈ s.tasks, hit x → (s.bank r).task ≠ x.id) → t.bank r = s.bank r) ∧
          (∀ r, (∃ x ∈ s.tasks, hit x ∧ (s.bank r).task = x.id) → (∀ c, (s.bank r).wait ≠ some (.bteFullB c)) →
            t.bank r = { s.bank r with wait := none }) ∧
          t.tasks.map (·.id) = s.tasks.map (·.id) ∧ ∀ x ∈ s.tasks, (hit x → { x with killing := true, why := 1, saving := false } ∈ t.tasks) ∧
            (¬ hit x → x ∈ t.tasks)) ∧
      ((s.boot.dtb < d.since + max 1 (s.queue k).t2 * 10000 ∨ ∀ x ∈ s.tasks, ¬ hit x) → exec (.rung3Reset k) s = .next s)

/-- The frame of a task in the order of R400: 256 bytes, the run, the contexts in slot order, each with its registers within the header's counts and 192 bytes
behind them, and the rest, padded to 64 bytes. What the 256 and 192 bytes hold is the model's free value (log entry 47). -/
def Sys2Proof.FrameHolds (s : State) (k : Task) (l : Launch) : Prop :=
  let f := (s.frame l k).2
  let per := 8 * l.gCount + vlBits k.tile / 8 * l.vCount + 8 * l.odCount + 192
  f.length = s.frameBytes l k ∧ f.length % 64 = 0 ∧ 256 + l.per + k.slots.length * per ≤ f.length ∧
    (∀ i < l.per, f.getD (256 + i) 0 = memGet s.mem (lsLoc k.tile k.base + i)) ∧
    ∀ j < k.slots.length, let b := s.bank ⟨k.tile, k.slots.getD j 0, 0⟩
      let at_ := 256 + l.per + j * per
      (∀ i < l.gCount, ∀ n < 8, f.getD (at_ + 8 * i + n) 0 = ((tget 0 b.g i).extractLsb' (8 * n) 8)) ∧
      (∀ i < l.vCount, ∀ n < vlBits k.tile / 8,
        f.getD (at_ + 8 * l.gCount + vlBits k.tile / 8 * i + n) 0 = ((tget 0 b.v i).extractLsb' (8 * n) 8))

/-- A task is saved when it is quiet: its frame is written to the save area, its run, its tags and the registers that its launch counts are kept, and its contexts
are free; a restore puts them back in the same slots and run, from what was kept and not from the frame's bytes, which is the model's reading (log entry 47); a
quantum that is over lets waiting work in or starts again (R400 to R402), where what work waits, and the reload at a switch, are the model's (log entry 51). -/
def Sys2Proof.TasksAreSavedAndRestored : Prop :=
  ∀ (s : State) (k : Task) (l : Launch), s.launch? k.launch = some l → k.tile < 512 → 0 < k.id → k.slots.Nodup → (∀ j ∈ k.slots, j < 8) →
    (∀ a n u, s.tasks.find? (fun x => x.id == k.id) = some k → k.saving = true → k.killing = false → k.quantum = false → s.saveReady k = true →
      n = s.frameBytes l k → s.framePlace l.tenant n = some a → (s.frame l k).1.writeFrame l.tenant a (s.frame l k).2 = some u → (∀ j ∈ k.slots, (s.ctx k.tile j).b0.wait = none) →
      FrameHolds s k l ∧ ∃ t v, exec (.taskSaveComplete k.id) s = .next t ∧ t.mem = u.mem ∧ t.tasks = s.tasks.filter (fun x => x.id != k.id) ∧ t.saved = s.saved ++ [v] ∧
        v.task = { k with saving := false } ∧ v.bytes = u.bytes (lsLoc k.tile k.base) l.per ∧
        (∀ w, w ∈ v.tags ↔ w ∈ (s.tile k.tile).tags ∧ k.base / 8 ≤ w ∧ w < (k.base + l.per) / 8) ∧
        ∀ j ∈ k.slots, (t.ctx k.tile j).b0 = {} ∧ (t.ctx k.tile j).b1 = {} ∧
          let b := (s.ctx k.tile j).b0
          let c := (t.ctx (awayTile k.tile k.id) j).b0
          c.pc = b.pc ∧ c.numctl = b.numctl ∧ c.trap = b.trap ∧ c.icount = b.icount ∧ c.seeded = b.seeded ∧
            (∀ r, c.rg r = if r < l.gCount then b.rg r else 0) ∧ (∀ r, c.rv r = if r < l.vCount then b.rv r else 0)) ∧
    (∀ v, v.task = k → s.saved.find? s.restorable = some v → v.quantum = false → v.mx = none → v.breads = [] →
      NoneWatchTags s → (∀ x, s.placeNext = some x → x.prio ≤ l.prio) → k.base % 8 = 0 → v.bytes.length % 8 = 0 → k.base + v.bytes.length ≤ 2 ^ 22 → Memory.wf s.mem = true →
      (∀ j ∈ k.slots, (s.ctx (awayTile k.tile k.id) j).b0.wait = none) → (∀ y, ∀ c ∈ (s.tile y).mx.tq ++ (s.tile y).mx.lq, c.todo = []) →
      ∃ t, exec (.taskRestore k.id) s = .next t ∧ { k with saving := false, quantum := false } ∈ t.tasks ∧
        t.saved = s.saved.filter (fun w => w.task.id != k.id) ∧
        (∀ j ∈ k.slots, let c := s.ctx (awayTile k.tile k.id) j
          t.ctx k.tile j = { s.ctx k.tile j with b0 := c.b0, b1 := c.b1 }) ∧
        (∀ j, memGet t.mem (lsLoc k.tile k.base + j) = if j < v.bytes.length then v.bytes.getD j 0 else memGet s.mem (lsLoc k.tile k.base + j)) ∧
        (∀ a, a < lsLoc k.tile k.base → memGet t.mem a = memGet s.mem a) ∧
        ∀ w, w ∈ (t.tile k.tile).tags ↔
          w ∈ v.tags ∨ (w ∈ (s.tile k.tile).tags ∧ ¬ (k.base / 8 ≤ w ∧ w < (k.base + v.bytes.length) / 8))) ∧
    ∀ slot, let b := (s.ctx k.tile slot).b0
      s.tasks.find? (fun x => x.id == b.task) = some k → b.seeded = true → k.killing = false → k.saving = false → (s.ctx k.tile slot).active = 0 →
      s.seized k.tile = false →
      (b.quantLeft ≠ 0 → exec (.quantumExpiry k.tile slot) s = .next s) ∧
      (b.quantLeft = 0 → (s.waitingWork l k).isSome = true →
        exec (.quantumExpiry k.tile slot) s = .next (s.setTask { k with saving := true, quantum := true })) ∧
      (b.quantLeft = 0 → s.waitingWork l k = none → ∃ t, exec (.quantumExpiry k.tile slot) s = .next t ∧ t = { s with ctxs := t.ctxs } ∧
        ∀ j ∈ k.slots, t.ctx k.tile j =
          let c := s.ctx k.tile j
          if c.b0.task = k.id then { c with b0 := { c.b0 with quantLeft := if c.b0.quantLen = 0 then 0xFFFFFFFF else c.b0.quantLen } } else c)

/-- A killed task that can write no more is gone: its contexts are FREE, and a reset one goes back to the head of its launch's tasks, in ascending order. A context parked for TWAIT and a
launch stalled for TSTALL are recorded once, a stalled launch is killed when KILL is set, and its reservation is over and its threads' waits end, and a launch starved
for TSTARVE sends a victim, which may be its own queue and keeps running, to rung 2 (R122, R125, R399, R403, R404). That a queue which rung 2 reaches in this way
keeps its STATE, and what becomes of a ladder that it has already, are the model's readings (log entries 49 and 50). -/
def Sys2Proof.KillsAndWatchdogs : Prop :=
  ∀ s : State,
    (∀ k, s.task? k.id = some k → s.resident k.id = true → k.killing = true →
      (s.killPending k.id = true → exec (.killQuiet k.id) s = .next s) ∧
      (s.killPending k.id = false → k.tile < 400 → k.slots.Nodup → (∀ j ∈ k.slots, j < 8 ∧ (s.bank ⟨k.tile, j, 0⟩).task = k.id) →
        ∃ t, exec (.killQuiet k.id) s = .next t ∧ (∀ x ∈ t.tasks, x.id ≠ k.id) ∧ (∀ j ∈ k.slots, t.bank ⟨k.tile, j, 0⟩ = {}) ∧
          ((∀ j ∈ k.slots, s.resvOf ⟨k.tile, j, 0⟩ = []) → t.tasks = s.tasks.filter (fun x => x.id != k.id) ∧ (∀ m ∈ t.net, m.isOf k.id = false) ∧
            ∀ l, k.why = 1 → s.launch? k.launch = some l → l.cancelled = false → l.faulted = false → l.failed = false →
              ∃ m, t.launch? k.launch = some m ∧ m.again.Perm (k.index :: l.again) ∧ m.reset = true ∧
                (l.again.Pairwise (· ≤ ·) → m.again.Pairwise (· ≤ ·))))) ∧
    (∀ tile slot bank w, tile < 512 → bank < 2 → let r : BankRef := ⟨tile, slot, bank⟩
      (s.bank r).wait = some w → w.watched = true → s.fe.twait ≠ 0 →
      ((s.bank r).waitLogged = true ∨ s.boot.dtb < (s.bank r).waitSince + s.fe.twait * 1000000 → exec (.parkWatchdog tile slot bank) s = .next s) ∧
      ((s.bank r).waitLogged = false → (s.bank r).waitSince + s.fe.twait * 1000000 ≤ s.boot.dtb →
        ∃ t, exec (.parkWatchdog tile slot bank) s = .next t ∧ t.mem = s.mem ∧ t.tasks = s.tasks ∧ t.bank r = { s.bank r with waitLogged := true } ∧
          Recorded s t 0x305 0 (0x5000 + 8 * 0x1D8 + 2) ((s.bank r).waitPc.setWidth 64))) ∧
    (∀ n l t0, LaunchAt s n l → l.stallSince = some t0 → s.fe.tstall ≠ 0 → l.stallLogged = false →
      (s.boot.dtb < t0 + s.fe.tstall * 1000000 → exec (.launchStallWatchdog n) s = .next s) ∧
      (t0 + s.fe.tstall * 1000000 ≤ s.boot.dtb → s.stalled l = true →
        ∃ t m, exec (.launchStallWatchdog n) s = .next t ∧ t.mem = s.mem ∧ t.launch? l.key = some m ∧ m.stallLogged = true ∧
          (s.fe.kill = false → ∀ r, t.bank r = s.bank r) ∧
          Recorded s t 0x306 (if s.fe.kill then 3 else 0) (0x5000 + 8 * 0x1D8 + 2) 0 ∧
          (s.fe.kill = true → m.faulted = true ∧ m.closed = true ∧ m.cancelled = true ∧ m.reserved = false ∧
            (∀ x ∈ t.tasks, x.launch = l.key → x.killing = true) ∧
            ∀ r, (∃ x ∈ s.tasks, x.launch = l.key ∧ x.killing = false ∧ x.id = (s.bank r).task) → (∀ c, (s.bank r).wait ≠ some (.bteFullB c)) →
              (t.bank r).wait = none))) ∧
    ∀ n l t0 k, LaunchAt s n l → l.stuckSince = some t0 → s.fe.starveOff = false →
      (s.boot.dtb < t0 + max 1 s.fe.tstarve * 10000 → exec (.starvationWatchdog n) s = .next s) ∧
      (t0 + max 1 s.fe.tstarve * 10000 ≤ s.boot.dtb → s.starved l = true →
        Victim s (fun j => (s.queue j).prio ≤ l.prio ∧ s.parkers l j = true) k →
        (∀ d, (s.queue k).ladder = some d → d.rung ≤ (s.queue k).prung) →
        ∃ t m, exec (.starvationWatchdog n) s = .next t ∧ t.mem = s.mem ∧ t.ctxs = s.ctxs ∧ t.launch? l.key = some m ∧ m.stuckSince = some s.boot.dtb ∧
          t.queue k = atRung (s.queue k) (match (s.queue k).ladder with
            | none => ⟨2, 3, s.boot.dtb, some l.key, true⟩
            | some d => ⟨max 2 d.rung, max 2 d.deepest, d.since, some l.key, d.starve || decide (d.rung < 2)⟩) 0x2C3)

/-- Ladders, saves, quanta, kills and watchdogs (R112, R125, R398 to R404).
The model's readings in it are those of log entries 47, 49, 50 and 51.
Forms that complete here, each with its effect: ladderStart, rung2Save, rung3Reset, taskSaveComplete, taskRestore, quantumExpiry, killQuiet, parkWatchdog,
launchStallWatchdog, starvationWatchdog. -/
def Obligations.WorkIsPreemptedAndWatched : Prop := LaddersClimb ∧ TasksAreSavedAndRestored ∧ KillsAndWatchdogs

/-! ### What lands, arrives and is tried again -/

/-- A vector result whose latency is over lands: no register of the bank reads otherwise, and a register that is bound for sending sends it, in bank 0 not while the tile is seized; an outstanding store
writes its bytes, and an outstanding load, one of at most four, gives its window the doubleword at its address, each when its own event performs it: a window that is
still open keeps it, and one that has closed writes it to its register, also while the thread waits for something else. A load that finds failing symbols
in its DRAM line gets the corrected data, or none and the deferred cause 0x087 with the line poisoned (R63, R64, R135, R251, R252, R328, R330, R396, R423; how
failing symbols come, log entry 5, and the slice that reports a line, log entry 96, are the model's). -/
def Sys2Proof.ResultsLand : Prop :=
  ∀ (s : State) (tile slot bank : Nat), let r : BankRef := ⟨tile, slot, bank⟩
    let b := s.bank r
    (∀ p, b.pend = [p] → p.frees = [] → b.wait = none →
      let sends := ∃ n q, p.dest = .v n ∧ 28 ≤ n ∧ b.port (n - 28) = some q ∧ q.mode = 1
      let held := bank = 0 ∧ s.seized tile = true ∧ sends
      (s.cycle < p.due ∨ held → exec (.resultWriteback tile slot bank) s = .next s) ∧
      (p.due ≤ s.cycle → ¬ held → ∃ t, exec (.resultWriteback tile slot bank) s = .next t ∧ t.mem = s.mem ∧ (t.bank r).pend = [] ∧ (t.bank r).g = b.g ∧
        (t.bank r).pc = b.pc ∧ (t.bank r).numctl = b.numctl ∧ (∀ n, (t.bank r).rv n = b.rv n) ∧ (b.ports = [] → t.net = s.net) ∧
        ∀ n q, p.dest = .v n → 28 ≤ n → b.port (n - 28) = some q → q.mode = 1 →
          t.net = s.net ++ [.entry ⟨tile, slot, n - 28⟩ q.peer (b.rv n) b.task])) ∧
    ∀ ix a, ix < 4 → b.rlx[ix]? = some a → Unwatched s → Memory.wf s.mem = true →
      let left_ := { b with rlx := b.rlx.filter (fun y => y.id != a.id) }
      let event := fun errs => if a.remote then Instr.remoteAccessArrival tile slot bank ix else .accessPerformed tile slot bank (4 * errs + ix)
      (∀ errs, exec (if a.remote then Instr.accessPerformed tile slot bank (4 * errs + ix) else .remoteAccessArrival tile slot bank ix) s = .next s) ∧
      (∀ loc n x errs, a.write = true → a.parts = [⟨loc, n, x⟩] → loc < 2 ^ 46 →
        ∃ m, Stored s.mem m loc n x ∧ exec (event errs) s = .next { s.setBank r left_ with mem := m }) ∧
      ∀ loc, a.write = false → a.ext = 6 → a.parts = [⟨loc, 8, 0⟩] → loc < 2 ^ 46 →
        let free := b.wait ≠ some .window ∧ ∀ i pc, b.wait ≠ some (.trap i pc)
        (free → (∀ y ∈ b.wins, y.left ≠ 0) → ∃ w, WordAt s.mem loc w ∧ exec (event 0) s = .next (s.setBank r { left_ with
          wins := b.wins.map (fun y => if y.id = a.win then { y with result := some (w.setWidth 1024), err := none, flags := 0 } else y) })) ∧
        (∀ y n, b.wins = [y] → y.id = a.win → y.left = 0 → y.back = false → y.frees = [] → y.dest = .g n → ∃ w, WordAt s.mem loc w ∧
          (free → exec (event 0) s = .next (s.setBank r { left_.wg n w with
            wins := [{ y with result := some (w.setWidth 1024), err := none, flags := 0, back := true }] })) ∧
          (b.wait = some .window → exec (event 0) s = .next (s.setBank r { left_.wg n w with
            wins := [], wait := none, readyAt := max b.readyAt (s.cycle + 1) }))) ∧
        ∀ errs y, a.remote = false → isDramLoc loc = true → errs ≠ 0 → free → b.wins = [y] → y.id = a.win → y.left ≠ 0 →
          let k := Config.channelOf (loc / 64) % 24
          let x := s.channel k
          ∃ t z, exec (event errs) s = .next t ∧ t.mem = s.mem ∧ (t.bank r).wins = [z] ∧
            (errs ≤ (if x.degr then 1 else 2) → z.err = none ∧ (∃ w, WordAt s.mem loc w ∧ z.result = some (w.setWidth 1024)) ∧ t.poison = s.poison ∧
              t.channel k = { x with ce := min (x.ce + 1) (2 ^ 32 - 1) } ∧ Recorded s t 0x341 1 (0x7000 + 8 * k) 0) ∧
            ((if x.degr then 1 else 2) < errs → z.err = some ⟨0x087, a.va, 0⟩ ∧ t.poison = s.poison ++ [loc / 64] ∧
              ∃ u, Recorded s u 0x342 2 (0x3000 + 8 * (0x1E0 + (loc / 64 % 32 ^^^ loc / 2048 % 32)) + 4) 0 ∧ Recorded u t 0x087 2 (8 * (tile % 512)) 0)

/-- The fetcher reads the halfwords at the PC into an empty buffer, in order and no more than the unit holds; a page walk that finds a leaf fills the tile's and the
slice's TLBs, and one that finds the page not present is in progress until its end is seen: a miss of its granule then takes that outcome; replay-all sends one
parked request after the other through translation: it parks again, or its requester goes on (R136, R137, R264, R267, R438; that only such a walk is seen in
progress is the model's, log entry 117). -/
def Sys2Proof.FetchesAndWalks : Prop :=
  ∀ s : State,
    (∀ tile slot u loc, let r : BankRef := ⟨tile, slot, (s.ctx tile slot).active⟩
      let b := s.bank r
      tile < 512 → b.seeded = true → b.staging = false → b.rpt.act = false → b.fbuf = [] → b.pc.toNat % 2 = 0 → Unwatched s →
      s.check (b.req tile) b.pc.toNat 2 2 = (u, .ok (.mem loc)) →
      ∃ h, exec (.fetchUnitRead tile slot) s = .next (u.setBank r { u.bank r with fbuf := h }) ∧ 0 < h.length ∧ 2 * h.length ≤ 16 - b.pc.toNat % 16 ∧
        ∀ j < h.length, (h.getD j 0).toNat = s.load (loc + 2 * j) 2) ∧
    (∀ tile t va, t < 64 → isTrans va = true → (hasWindow tile = true ∧ tile < 512 ∨ tile = 512) → s.tlbFind tile t va = none →
      s.tlbFind (l2Tlb va) t va = none → Intact s →
      let walk := (t, va / 2 ^ 18)
      (walk ∉ s.walks →
        (∀ pa w x, s.walk t va = .leaf pa w x → ∃ u, exec (.pageWalkComplete tile t va) s = .next u ∧ u = { s with tlb := u.tlb } ∧
          u.tlbFind (l2Tlb va) t va = some (pa / 2 ^ 18, w, x) ∧ (tile < 512 → u.tlbFind tile t va = some (pa / 2 ^ 18, w, x))) ∧
        (s.walk t va = .absent → exec (.pageWalkComplete tile t va) s = .next s ∧
          ∀ kind, s.translate ⟨tile, t, .task⟩ va kind = ({ s with walks := s.walks ++ [walk] }, .absent))) ∧
      (walk ∈ s.walks → exec (.pageWalkComplete tile t va) s = .next { s with walks := s.walks.filter (· != walk) } ∧
        ∀ kind, s.translate ⟨tile, t, .task⟩ va kind = (s, .absent))) ∧
    ∀ t, let x := s.tenant t
      (x.replay = false → exec (.replayAllSend t) s = .next s) ∧
      ∀ r va kind lid p rest v g, x.replay = true → x.resend = ⟨.thread r, va, kind, lid⟩ :: p :: rest → (s.bank r).wait = some (.page v g) →
        let s1 := s.setTenant t { x with resend := p :: rest, replay := true }
        (∀ u tr, s1.translate ⟨r.tile % 512, t, .task⟩ va kind = (u, tr) → tr ≠ .absent →
          exec (.replayAllSend t) s = .next (u.setBank r { s.bank r with wait := none, readyAt := max (s.bank r).readyAt (s.cycle + 1) })) ∧
        ∀ u, s1.translate ⟨r.tile % 512, t, .task⟩ va kind = (u, .absent) → ∃ w, exec (.replayAllSend t) s = .next w ∧ w.mem = s.mem ∧
          (w.bank r).wait = some (.page v g) ∧ (w.tenant t).parked = x.parked ++ [⟨.thread r, va, kind, lid⟩] ∧ (w.tenant t).resend = p :: rest

/-- A refused wait is sent again: a load of a full word completes, an atomic operation on a word that is free acts, and what must still wait enters the list when it
has room (R259, R344, R356). -/
def Sys2Proof.WaitsAreRetried : Prop :=
  ∀ (s : State) (tile slot bank loc reg : Nat), let r : BankRef := ⟨tile, slot, bank⟩
    let b := s.bank r
    let joined := fun (w : Wait) => Host.Outcome.next ((s.setBank r { b with wait := some w }).setWaits loc (s.waitTable loc ++ [⟨r, loc⟩]))
    Unwatched s → b.wins = [] → Memory.wf s.mem = true →
    (∀ minor v, b.wait = some (.fe loc minor reg v false) →
      (minor = 1 → s.tag loc = true → ∃ w, WordAt s.mem loc w ∧
        exec (.waitListRetry tile slot bank) s = .next (s.setBank r { b.wg reg w with wait := none, readyAt := max b.readyAt (s.cycle + 1) })) ∧
      ((minor < 2 ∧ s.tag loc = false) ∨ (minor = 2 ∧ s.tag loc = true) →
        ((s.waitTable loc).length < 64 → exec (.waitListRetry tile slot bank) s = joined (.fe loc minor reg v true)) ∧
        (64 ≤ (s.waitTable loc).length → exec (.waitListRetry tile slot bank) s = .next s))) ∧
    ∀ minor exp val win, b.wait = some (.resv loc minor reg exp val win false) →
      ((∃ x ∈ s.resvTable loc, x.loc = loc) →
        ((s.waitTable loc).length < 64 → exec (.waitListRetry tile slot bank) s = joined (.resv loc minor reg exp val win true)) ∧
        (64 ≤ (s.waitTable loc).length → exec (.waitListRetry tile slot bank) s = .next s)) ∧
      ((∀ x ∈ s.resvTable loc, x.loc ≠ loc) → ∀ w, WordAt s.mem loc w →
        (minor ∈ [3, 4, 5] → ∃ m, Stored s.mem m loc 8 (if minor = 3 then (if w = exp then val else w) else if minor = 4 then val else w + val) ∧
          exec (.waitListRetry tile slot bank) s = .next { s.setBank r { b with wait := none, readyAt := max b.readyAt (s.cycle + 1) } with mem := m }) ∧
        (minor = 0 → (s.resvTable loc).length < 16 →
          exec (.waitListRetry tile slot bank) s =
            .next ((s.setResv loc (s.resvTable loc ++ [⟨loc, r⟩])).setBank r { b.wg reg w with wait := none, readyAt := max b.readyAt (s.cycle + 1) })))

/-- What is under way lands, arrives, or is tried again (R135 to R137, R251, R252, R259, R264, R267, R328, R344, R356).
Forms that complete here, each with its effect: resultWriteback, remoteAccessArrival, accessPerformed, fetchUnitRead, pageWalkComplete, replayAllSend,
waitListRetry. -/
def Obligations.WhatIsUnderWayCompletes : Prop := ResultsLand ∧ FetchesAndWalks ∧ WaitsAreRetried

/-! ### What holds of every instruction, step and state -/

/-- g0 reads 0 whatever is written, and a write changes no other register (R139). -/
def Obligations.RegisterZeroIsHardWired : Prop :=
  (∀ b : Bank, b.rg 0 = 0) ∧ (∀ (b : Bank) (x : Dword), b.wg 0 x = b) ∧
  ∀ (b : Bank) (n r : Nat) (x : Dword), n ≠ 0 → (b.wg n x).rg r = if r = n then x else b.rg r

/-- An exception whose trap is enabled, and no other, traps: with the cause of the lowest-numbered one, and TRAPVAL holding every flag raised and
the lowest lane that raised that one (R162, R163). -/
def Obligations.NumericTrapIsTheLowestEnabled : Prop :=
  ∀ (n : Dword) (l : List (Nat × Flags)), (∀ p ∈ l, p.1 < 64) →
    (numericTrap n l = none ↔ ∀ k < 7, n.getLsbD (8 + k) → ∀ p ∈ l, p.2.getLsbD k = false) ∧
    ∀ c v, numericTrap n l = some (c, v) →
      ∃ k < 7, c = 0x041 + k ∧ n.getLsbD (8 + k) ∧ (∃ p ∈ l, p.2.getLsbD k) ∧
        (∀ j < k, n.getLsbD (8 + j) → ∀ p ∈ l, p.2.getLsbD j = false) ∧
        (∀ j < 7, v.getLsbD j = l.any (fun p => p.2.getLsbD j)) ∧
        ∃ p ∈ l, p.2.getLsbD k ∧ v.toNat / 65536 = p.1 ∧ ∀ q ∈ l, q.2.getLsbD k → p.1 ≤ q.1

/-- Rounding to nearest: a result that does not overflow has a magnitude at least as near to the exact one as every finite value of the format
has, in every format (R164, R165). -/
def Obligations.RoundingGoesToTheNearest : Prop :=
  ∀ (f : Fmt) (c : Ctl) (lane idx : Nat) (s : Bool) (m : Nat) (e : Int),
    (f = fp32 ∨ f = fp16 ∨ f = bf16 ∨ f = e5m2 ∨ f = e4m3) → c.rm = 0 → c.ftz = false → m < 2 ^ 2047 →
    (roundFin f c lane idx s m e).2.getLsbD 2 = false →
      ∃ k ≤ f.maxCode, (roundFin f c lane idx s m e).1 = f.sign s + k ∧
        ∀ j ≤ f.maxCode, |codeValue f k - m * (2 : Rat) ^ e| ≤ |codeValue f j - m * (2 : Rat) ^ e|

/-- Each of them traps with that cause at its own address and has no other effect; TRAPADDR is its address and TRAPVAL its bits (R72). NUMCTL
must hold a legal rounding mode for CSRCLR. -/
def Obligations.ForbiddenInstructionsTrap : Prop :=
  ∀ (s : State) (i : Instr) (c : Nat), Trappable s → dfld s.me.numctl 2 0 < 6 → instructionCause s i = some c →
    exec i s = .next (trapEntered s s.me.pc c (s.iaddr.setWidth 64) (s.ibits.setWidth 64))

/-- An EBRK of a debugged tenant's thread halts its context behind the instruction, with a record in the device log (R392, R393); ICOUNT and QUANTUM
count it (log entry 81). -/
def Sys2Proof.DebugHalts : Prop :=
  ∀ (s : State) (n : BitVec 6), Quiet s → s.dying s.curRef = false → (s.tenant s.me.tenant).debug = true → (s.log.head + 1) % 256 ≠ s.log.tail →
    ∃ t, exec (.ebrk n) s = .next t ∧ t.me = { s.me with
        pc := s.me.pc + 4, fbuf := [], wait := some .debug, waitPc := s.me.pc + 4, icount := s.me.icount + 1, quantLeft := quantAfter s.me.quantLeft } ∧
      t.mem = s.mem ∧ t.log.head = (s.log.head + 1) % 256 ∧ (tget 0 t.log.recs s.log.head).toNat % 4096 = 0x3F0

/-- A trap that a handler takes, or one without a handler, is fatal: the device log gets its record with severity 3, and a lane's or burst handler's
trap kills every task of its launch, which will complete as faulted and is cancelled by kill (R384, R385, R393, R403). -/
def Sys2Proof.FatalKills : Prop :=
  ∀ (s : State) (n : BitVec 6) (k : Task) (l : Launch), Quiet s → n.toNat ≤ 47 → s.me.kind < 2 → s.me.trap.inh = true ∨ s.me.trap.vec = 0 →
    s.task? s.me.task = some k → k.killing = false → s.launch? k.launch = some l →
    ∃ t, exec (.trap n) s = .next t ∧ t.mem = s.mem ∧ (∀ x ∈ t.tasks, x.launch = k.launch → x.killing = true) ∧
      (∀ x ∈ t.launches, x.key = k.launch → x.faulted = true ∧ x.cancelled = true ∧ x.closed = true) ∧
      ((s.log.head + 1) % 256 ≠ s.log.tail → (tget 0 t.log.recs s.log.head).toNat % 4096 = 0x3C0 + n.toNat + 3 * 1024)

/-- A fatal trap of leash code releases the seizure, and one of an activation ends it: no task is killed, and the contexts switch back to bank 0
(R361, R379, R385). -/
def Sys2Proof.FatalReturns : Prop :=
  ∀ (s : State) (n : BitVec 6), Quiet s → n.toNat ≤ 47 → s.dying s.curRef = false → s.me.trap.inh = true ∨ s.me.trap.vec = 0 →
    (s.me.kind = 2 → ∃ t, exec (.trap n) s = .next t ∧ t.mem = s.mem ∧ t.tasks = s.tasks ∧ (t.tile s.cur.1).seize.st = 4 ∧
      (∀ k < 8, (t.ctx s.cur.1 k).switch = some (0, s.cycle + 10)) ∧
      ((s.log.head + 1) % 256 ≠ s.log.tail → (tget 0 t.log.recs s.log.head).toNat % 4096 = 0x3C0 + n.toNat + 3 * 1024)) ∧
    (s.me.kind = 3 → s.curRef.bank = 1 → ∃ t, exec (.trap n) s = .next t ∧ t.mem = s.mem ∧ t.tasks = s.tasks ∧
      (t.bank s.curRef).seeded = false ∧ (t.ctx s.cur.1 s.cur.2).switch = some (0, s.cycle + 10) ∧
      ((s.log.head + 1) % 256 ≠ s.log.tail → (tget 0 t.log.recs s.log.head).toNat % 4096 = 0x3C0 + n.toNat + 3 * 1024))

/-- A trap that enters no handler halts a debugged thread, or is fatal to its launch, its seizure or its activation (R384, R385, R392, R403; an EBRK
that halts is counted by log entry 81). -/
def Obligations.TrapsWithoutAHandlerHaltOrKill : Prop := DebugHalts ∧ FatalKills ∧ FatalReturns

/-- A refused load or store traps with the cause of CheckAccess and its address and performs nothing; one that meets a not-present page parks its thread,
with a request in its tenant's fault buffer or behind it (R254, R266). -/
def Obligations.RefusedAccessesTrapOrPark : Prop :=
  ∀ (s : State) (i : Instr) (va : Dword) (n kind : Nat), Calm s →
    ((∃ d k sg, loadOf s i = some (d, k, va, n, sg) ∧ kind = 0) ∨ (∃ x k, storeOf s i = some (x, k, va, n) ∧ kind = 1)) →
    (∀ u c, Trappable s → s.check s.req va.toNat n kind = (u, .trap c) → exec i s = .next (refusedBy u c va)) ∧
    ∀ u, s.check s.req va.toNat n kind = (u, .absent) →
      ∃ t, exec i s = .next t ∧ t.me = { s.me with
          wait := some (.page va.toNat kind), waitPc := s.me.pc, waitSince := s.boot.dtb, counted := true,
          icount := s.me.icount + 1, quantLeft := quantAfter s.me.quantLeft } ∧
        t.mem = s.mem ∧ ((s.tenant s.me.tenant).fb.length < 8 → ∃ e ∈ (t.tenant s.me.tenant).fb, e.granule = va.toNat / 2 ^ 18)

/-- What CheckAccess answers a requester for an access of a size that R245 accepts, by the region of its address: bits [63:48] and reserved addresses,
the near window by its row of R243, misalignment, and the tenant check of the shared SRAM (R242, R243, R244, R254). -/
def Sys2Proof.ChecksFollowTheMap : Prop :=
  ∀ (s : State) (q : Req) (va n kind : Nat), 0 < n →
    (2 ^ 48 ≤ va → s.checkMap q va n kind = some 0x082) ∧
    (0xFE0000000000 ≤ va → va < 0xFE0000200000 → s.checkMap q va n kind = some 0x082) ∧
    (0xFE0000200000 ≤ va → va < 0xFE8000000000 → s.checkMap q va n kind = some 0x082) ∧
    (0xFE8002000000 ≤ va → va < 0xFF0000000000 → s.checkMap q va n kind = some 0x082) ∧
    (va < 0x100000 →
      let open_ := match q.map with
        | .task => va < 0xF0000
        | .leash => 0xF0000 ≤ va
        | .xa => va < 0x80000
        | .other => False
      (¬ open_ → s.checkMap q va n kind = some 0x082) ∧
      (open_ → va % n ≠ 0 → s.checkMap q va n kind = some 0x081) ∧
      (open_ → va % n = 0 → s.check q va n kind = (s, .ok (.mem (lsLoc q.tile va))))) ∧
    (0x100000 ≤ va → va < 0xFE0000000000 →
      s.checkMap q va n kind = if q.map = .leash ∨ q.map = .xa then some 0x082 else if va % n ≠ 0 then some 0x081 else none) ∧
    (0xFE8000000000 ≤ va → va < 0xFE8002000000 →
      s.checkMap q va n kind = if va % n ≠ 0 then some 0x081
        else if (List.range 512).any (fun t => isXa t && s.member q.tenant t) then none else some 0x083)

/-- A translated address goes through the tenant's cached leaf, whose W and X bits decide what it permits (R264). -/
def Sys2Proof.TranslationsObey : Prop :=
  ∀ (s : State) (q : Req) (va kind g : Nat) (w x : Bool), 0x100000 ≤ va → va < 0xFE0000000000 → q.tile < 512 →
    s.tlbFind q.tile q.tenant va = some (g, w, x) →
    s.translate q va kind = (s, if kind = 1 ∧ w = false then .trap 0x0C2 else if kind = 2 ∧ x = false then .trap 0x0C3
      else .pa (g * 2 ^ 18 + va % 2 ^ 18))

/-- Addresses are checked by their region, and translated ones by their leaf (R242, R243, R244, R254, R264). -/
def Obligations.AddressChecksFollowTheMap : Prop := ChecksFollowTheMap ∧ TranslationsObey

/-- Words laid out by hand from the field tables of R60 to R70 and R96 decode to the instruction they stand for, one of each format at least. -/
def Obligations.WrittenWordsDecode : Prop :=
  decode (words [0x00046303]) = .ok (.add 6 6 2) 4 ∧
    decode (words [0x1C0232A9]) = .ok (.ld64 5 3 1 1) 4 ∧
    decode (words [0x12409027]) = .ok (.rpt 9 0 1 1 1) 4 ∧
    decode (words [0x00D46261]) = .ok (.mbrd 4 6 10) 4 ∧
    decode (words [0x000062D7]) = .ok (.arsv 5 6) 4 ∧
    decode (words [0x000C504D]) = .ok (.mwld 5 6) 4 ∧
    decode [0xF0CA] = .ok (.cAddi 3 (-2)) 2 ∧
    decode (words [0x10000495, 0x89ABCDEF, 0x01234567]) = .ok (.li64 9 0x0123456789ABCDEF) 12 ∧
    decodeQueue (words [0x09400079, 3]) = .ok (.qloop 3) 8 ∧
    decode (words [0x00000079]) = .bad 0x004 ∧
    decode [0x0000] = .ok (.cIll 0) 2

/-- The decoder of an instruction's class: MO 60 belongs to the queue engines (R69, R95). -/
noncomputable def Sys2Proof.decoderOf (h : List (BitVec 16)) : List (BitVec 16) → Decoded :=
  if isQueueWord (h.headD 0).toNat then decodeQueue else decode

/-- Decoding what encoding writes gives back every well-formed instruction, whatever stands behind it, with all of its operands and its length; and what the core's
decoder accepts is well formed and is written by the encoder in the same halfwords, so that no bit of a word goes unread (R57 to R71, R95, R96). -/
def Obligations.DecodeAndEncodeAgree : Prop :=
  (∀ (i : Instr) (rest : List (BitVec 16)), i.wellFormed = true → encode i ≠ [] →
    decoderOf (encode i) (encode i ++ rest) = .ok i (2 * (encode i).length)) ∧
  ∀ (h : List (BitVec 16)) (i : Instr) (len : Nat), len ≤ 2 * h.length → decode h = .ok i len →
    i.wellFormed = true ∧ encode i = h.take (len / 2) ∧ len = lengthOf h

/-- An agent has the move: it has the machine to itself, or every interleaving is open and it moves at this tick (log entry 1). -/
def Sys2Proof.HasTheMove (s u : State) (a : Agent) : Prop :=
  (s.focus = some a ∧ u = s) ∨ (s.focus = none ∧ Config.nextAgent s.tick = a ∧ u = { s with tick := s.tick + 1 })

/-- A context that may issue its next instruction: it holds live work and waits for nothing, its quantum and ceiling are not spent, no deferred error is due, and no
repeat frame runs (R131, R132, R150, R362, R384, R402). -/
structure Sys2Proof.MayIssue (s : State) (r : BankRef) : Prop where
  tile : r.tile < 512
  slot : r.slot < 8
  active : r.bank = (s.ctx r.tile r.slot).active
  runs : s.running r = true
  waits : (s.bank r).wait = none
  quantum : (s.bank r).quantLeft ≠ 0 ∨ r.bank ≠ 0
  ceiling : overCeiling (s.bank r) = false
  calm : (s.bank r).trap.inh = true ∨ (s.bank r).deferred = []
  frame : (s.bank r).rpt.act = false

/-- What a context does that may issue: it runs exactly the instruction that its next halfwords decode to, those that the fetch buffer holds, or, when the buffer
is empty, those in memory at the PC. Around it the move only lands what is due, notes the instruction's length, address and bits, and fills the buffer. -/
def Sys2Proof.RunsDecoded (s : State) (r : BankRef) (i : Instr) (len : Nat) (out : Out) : Prop :=
  let u := ({ s with cur := (r.tile, r.slot), rlxScope := none, follow := {} }).ageResults r
  let runs := fun (x : State) (h : List (BitVec 16)) => exec i { x with
    len := len, iaddr := (s.bank r).pc, ibits := bitsOf h
    follow := if isPrefix (h.headD 0) then
        followOf (h.drop 1) { x with iaddr := (s.bank r).pc + 2, ibits := bitsOf (h.drop 1) } else {} }
  (wholeLen (u.bank r).fbuf ≠ none → decode (u.bank r).fbuf = .ok i len → out = runs u (u.bank r).fbuf) ∧
  ∀ loc, (u.bank r).fbuf = [] → (u.bank r).pc.toNat % 2 = 0 → Unwatched u →
    u.check ((u.bank r).req r.tile) (u.bank r).pc.toNat 2 2 = (u, .ok (.mem loc)) →
    let h := u.halves ((16 - (u.bank r).pc.toNat % 16) / 2) loc
    isPrefix (h.headD 0) = false → wholeLen h ≠ none → decode h = .ok i len →
      ∃ k, h.take (len / 2) = k.take (len / 2) ∧ out = runs (u.setBank r { u.bank r with fbuf := k }) h

/-- The step of a core that has the machine to itself runs what its next halfwords decode to. A core among the other agents issues in its turns: once in a cycle
at most, the context that takes the turn, and its own slot's context whenever that is ready; afterwards only the pacing of R194 is noted
(R57, R58, R71, R131 to R137, R194; log entries 1 and 82). -/
def Sys2Proof.CoresRunWhatTheyDecode : Prop :=
  (∀ (s : State) (r : BankRef) (i : Instr) (len : Nat), s.focus = some (.core r.tile r.slot) → MayIssue s r → RunsDecoded s r i len (step s)) ∧
  ∀ (s s0 : State) (tile : Nat), HasTheMove s s0 (.turn tile) →
    (∀ k, (s0.tile tile).lastIssue = some (k, s0.cycle) → step s = .next s0) ∧
    ((∀ k, (s0.tile tile).lastIssue ≠ some (k, s0.cycle)) →
      (s0.taker tile = none → step s = .next s0) ∧
      (s0.ready tile (s0.cycle % 8) = true → s0.taker tile = some (s0.cycle % 8)) ∧
      ∀ (r : BankRef) (i : Instr) (len : Nat), r.tile = tile → s0.taker tile = some r.slot → MayIssue s0 r →
        ∃ out, RunsDecoded (s0.setTile tile { s0.tile tile with lastIssue := some (r.slot, s0.cycle) }) r i len out ∧
          (∀ t, out = .next t → step s = .next (s0.paced t r)) ∧ ((∀ t, out ≠ .next t) → step s = out))

/-- The step of a queue that its engine serves runs exactly the instruction that the words at its pointer decode to (R89, R91, R95; log entry 1). -/
def Sys2Proof.QueuesRunWhatTheyDecode : Prop :=
  ∀ (s s0 : State) (k : Nat) (i : Instr) (ws : List (BitVec 32)), HasTheMove s s0 (.queue k) → k < 64 → (s0.queue k).hold = none →
    (s0.queue k).skip = none → s0.runnable k = true → tget 0 s0.serving (k / 8) = k + 1 →
    let s1 := { s0 with curq := k, lastServed := tset s0.lastServed (k / 8) (k % 8) }
    let u := if (s0.queue k).block.isNone then s1.enterBlock k else s1
    let q := u.queue k
    ws.length = frameWords (ws.headD 0) → (q.ibs ≠ [] → q.left ≠ 0 ∧ 4 * ws.length ≤ q.left) →
    (∀ j < ws.length, ∃ o, q.ahead.find? (fun w => w.1 == (if q.ibs.isEmpty then (q.ip + 4 * j) % q.ring else q.ip + 4 * j)) = some (o, ws.getD j 0)) →
    decodeQueue (words ws) = .ok i (4 * ws.length) →
    step s = exec i { u with len := 4 * ws.length, ibits := ws.headD 0 }

/-- A step runs the decoded instruction, or the event of the unit whose turn it is (R57, R58, R71, R89, R91, R95, R131, R135 to R137; log entry 1). -/
def Obligations.StepsRunWhatIsDecoded : Prop :=
  CoresRunWhatTheyDecode ∧ QueuesRunWhatTheyDecode ∧
    ∀ (s s0 : State) (i : Instr), HasTheMove s s0 (.event i) → isEvent i = true → step s = exec i s0

/-- Every step keeps the memory in its canonical form: addresses rise and no listed byte is the zero that an unlisted one reads as. -/
def Obligations.EveryStepKeepsMemoryCanonical : Prop := Kept (fun s => Memory.wf s.mem = true)

/-- The device never returns to an earlier boot phase without a power-on reset, whatever any unit, thread, queue or host access does (R23). -/
def Obligations.BootNeverGoesBack : Prop :=
  ∀ (s t : State) (i : Instr), exec i s = .next t → i ≠ .powerOnReset → s.boot.phase ≤ t.boot.phase

/-- After reset the device is in phase RESET with no error, unlocked, its clock and clocks' step at 0, no queue enabled, every queue in OFF with T1 = 20 and T2 = 80,
TSTARVE = 200, TWAIT = 100, TSTALL = 1000, the scrub period 24, PEERCTL at HB = 10 and MISS = 3, no context holding work, no launch live, and logs empty; and its
memory is canonical, listing nothing (R23, R28, R85, R88, R124, R404, R413, R426, R431, R432). -/
def Obligations.ResetLeavesTheStatedValues : Prop :=
  let s := State.reset
  s.boot.phase = 0 ∧ s.boot.err = 0 ∧ s.boot.lock = false ∧ s.boot.dtbSync = false ∧ s.boot.degr = false ∧ s.boot.peer = false ∧ s.boot.negf = false ∧
    s.boot.chok = 0 ∧ s.boot.clkStep = 0 ∧ s.boot.thr = 0 ∧
    (∀ k, (s.queue k).en = false ∧ (s.queue k).st = 0 ∧ (s.queue k).t1 = 20 ∧ (s.queue k).t2 = 80 ∧ (s.queue k).exec = 0) ∧
    s.fe.tstarve = 200 ∧ s.fe.starveOff = false ∧ s.fe.twait = 100 ∧ s.fe.tstall = 1000 ∧ s.fe.kill = false ∧ s.fe.scrubPeriod = 24 ∧
    s.peer.en = false ∧ s.peer.hb = 10 ∧ s.peer.miss = 3 ∧ s.peer.st = 0 ∧ (∀ tile slot, (s.ctx tile slot).b0.seeded = false) ∧ s.launches = [] ∧
    s.log.head = 0 ∧ s.log.tail = 0 ∧ Memory.wf s.mem = true ∧ s.mem = []
end

