-- ==== Sys2Proof/Laws/Memory.lean ====
section
/-! SUPPORT. Laws of the sparse tables and of the byte memory: a read after a write, and the canonical form that every memory operation keeps. -/

namespace Sys2Proof.Machine

/-! ### Tables -/

@[simp] theorem tget_tset_same {α : Type} (d : α) (t : Tbl α) (k : Nat) (a : α) : tget d (tset t k a) k = a := by
  induction t with
  | nil => simp [tset, tget]
  | cons p t ih =>
    obtain ⟨j, b⟩ := p
    by_cases h : k = j
    · simp [tset, tget, h]
    · by_cases h2 : k < j <;> simp [tset, tget, h, h2, ih]

theorem tget_tset_other {α : Type} (d : α) (t : Tbl α) (k j : Nat) (a : α) (h : j ≠ k) : tget d (tset t k a) j = tget d t j := by
  induction t with
  | nil => simp [tset, tget, h]
  | cons p t ih =>
    obtain ⟨i, b⟩ := p
    by_cases h1 : k = i
    · subst h1; simp [tset, tget, h]
    · by_cases h2 : k < i
      · simp [tset, tget, h1, h2, h]
      · simp [tset, tget, h1, h2, ih]

theorem tget_tset {α : Type} (d : α) (t : Tbl α) (k j : Nat) (a : α) : tget d (tset t k a) j = if j = k then a else tget d t j := by
  split
  · next h => simp [h]
  · next h => exact tget_tset_other d t k j a h

/-! ### One byte -/

theorem memSorted_mono {m : List (Nat × Byte)} {lo lo' : Nat} (h : memSorted lo m = true) (hl : lo' ≤ lo) : memSorted lo' m = true := by
  cases m with
  | nil => rfl
  | cons p t =>
    obtain ⟨a, b⟩ := p
    simp only [memSorted, Bool.and_eq_true, decide_eq_true_eq] at *
    exact ⟨⟨by omega, h.1.2⟩, h.2⟩

theorem memGet_below {m : List (Nat × Byte)} {lo k : Nat} (h : memSorted lo m = true) (hk : k < lo) : memGet m k = 0 := by
  cases m with
  | nil => rfl
  | cons p t =>
    obtain ⟨a, b⟩ := p
    simp only [memSorted, Bool.and_eq_true, decide_eq_true_eq] at h
    simp [memGet, show k ≠ a by omega, show k < a by omega]

/-- A write keeps the canonical form. -/
theorem memSet_sorted {m : List (Nat × Byte)} {lo k : Nat} {x : Byte} (h : memSorted lo m = true) (hk : lo ≤ k) :
    memSorted lo (memSet m k x) = true := by
  induction m generalizing lo with
  | nil => by_cases hx : x = 0#8 <;> simp [memSet, memSorted, hx, hk]
  | cons p t ih =>
    obtain ⟨a, b⟩ := p
    simp only [memSorted, Bool.and_eq_true, decide_eq_true_eq] at h
    obtain ⟨⟨h1, h2⟩, h3⟩ := h
    by_cases e : k = a
    · subst e
      by_cases hx : x = 0#8
      · simpa [memSet, hx] using memSorted_mono h3 (by omega)
      · simp [memSet, hx, memSorted, hk, h3]
    · by_cases l : k < a
      · by_cases hx : x = 0#8
        · simpa [memSet, e, l, hx, memSorted, h1, h3] using h2
        · simpa [memSet, e, l, hx, memSorted, hk, h3, Nat.succ_le_of_lt l] using h2
      · simp only [memSet, e, l, if_false, memSorted, Bool.and_eq_true, decide_eq_true_eq]
        exact ⟨⟨h1, h2⟩, ih h3 (by omega)⟩

theorem memSet_wf {m : List (Nat × Byte)} (h : Memory.wf m = true) (k : Nat) (x : Byte) : Memory.wf (memSet m k x) = true :=
  memSet_sorted h (Nat.zero_le k)

theorem memGet_memSet_sorted {m : List (Nat × Byte)} {lo : Nat} (h : memSorted lo m = true) (k j : Nat) (x : Byte) :
    memGet (memSet m k x) j = if j = k then x else memGet m j := by
  induction m generalizing lo with
  | nil => by_cases hx : x = 0#8 <;> by_cases hj : j = k <;> simp [memSet, memGet, hx, hj]
  | cons p t ih =>
    obtain ⟨a, b⟩ := p
    simp only [memSorted, Bool.and_eq_true, decide_eq_true_eq] at h
    obtain ⟨⟨_, _⟩, h3⟩ := h
    by_cases e : k = a
    · subst e
      by_cases hx : x = 0#8
      · by_cases hj : j = k
        · subst hj; simpa [memSet, hx] using memGet_below h3 (Nat.lt_succ_self _)
        · simp only [memSet, hx, if_true, memGet, hj, if_false]
          by_cases hl : j < k
          · simp [hl, memGet_below h3 (show j < k + 1 by omega)]
          · simp [hl]
      · by_cases hj : j = k <;> simp [memSet, hx, memGet, hj]
    · by_cases l : k < a
      · by_cases hx : x = 0#8
        · by_cases hj : j = k
          · subst hj; simp [memSet, e, l, hx, memGet]
          · simp [memSet, e, l, hx, hj]
        · by_cases hj : j = k
          · subst hj; simp [memSet, e, l, hx, memGet]
          · by_cases h4 : j < k
            · simp [memSet, e, l, hx, memGet, hj, h4, show j ≠ a by omega, show j < a by omega]
            · simp [memSet, e, l, hx, memGet, hj, h4]
      · simp only [memSet, e, l, if_false, memGet, ih h3]
        by_cases hj : j = k
        · subst hj; simp [e, l]
        · simp [hj]

/-- A read after a write: the byte written at its address, and every other byte as before. -/
theorem memGet_memSet {m : List (Nat × Byte)} (h : Memory.wf m = true) (k j : Nat) (x : Byte) :
    memGet (memSet m k x) j = if j = k then x else memGet m j := memGet_memSet_sorted h k j x

/-- Equal bytes everywhere make equal memories. -/
theorem memory_ext {m n : List (Nat × Byte)} {lo : Nat} (hm : memSorted lo m = true) (hn : memSorted lo n = true)
    (h : ∀ k, memGet m k = memGet n k) : m = n := by
  induction m generalizing n lo with
  | nil =>
    cases n with
    | nil => rfl
    | cons p t =>
      obtain ⟨a, b⟩ := p
      simp only [memSorted, Bool.and_eq_true, decide_eq_true_eq] at hn
      have := h a
      simp [memGet] at this
      exact absurd this.symm hn.1.2
  | cons p t ih =>
    obtain ⟨a, b⟩ := p
    have hm' := hm
    simp only [memSorted, Bool.and_eq_true, decide_eq_true_eq] at hm
    cases n with
    | nil =>
      have := h a
      simp [memGet] at this
      exact absurd this hm.1.2
    | cons q u =>
      obtain ⟨c, d⟩ := q
      have hn' := hn
      simp only [memSorted, Bool.and_eq_true, decide_eq_true_eq] at hn
      have hac : a = c := by
        rcases Nat.lt_trichotomy a c with l | l | l
        · have := h a
          simp [memGet, show a ≠ c by omega, l] at this
          exact absurd this hm.1.2
        · exact l
        · have := h c
          simp [memGet, show c ≠ a by omega, l] at this
          exact absurd this.symm hn.1.2
      subst hac
      have hbd : b = d := by have := h a; simpa [memGet] using this
      subst hbd
      have := ih hm.2 hn.2 (fun k => by
        by_cases hk : k < a + 1
        · rw [memGet_below hm.2 hk, memGet_below hn.2 hk]
        · have := h k
          simpa [memGet, show k ≠ a by omega, show ¬ k < a by omega] using this)
      rw [this]

/-! ### Byte strings -/

theorem memWrite_wf {m : List (Nat × Byte)} (h : Memory.wf m = true) (a : Nat) (bs : List Byte) : Memory.wf (memWrite m a bs) = true := by
  induction bs generalizing m a with
  | nil => exact h
  | cons b bs ih => exact ih (memSet_wf h a b) (a + 1)

/-- Outside the bytes written, every byte reads as before. -/
theorem memGet_memWrite_other {m : List (Nat × Byte)} (h : Memory.wf m = true) (a : Nat) (bs : List Byte) (k : Nat)
    (hk : k < a ∨ a + bs.length ≤ k) : memGet (memWrite m a bs) k = memGet m k := by
  induction bs generalizing m a with
  | nil => rfl
  | cons b bs ih =>
    simp only [List.length_cons] at hk
    rw [memWrite, ih (memSet_wf h a b) (a + 1) (by omega), memGet_memSet h, if_neg (by omega)]

@[simp] theorem memRead_length (m : List (Nat × Byte)) (a n : Nat) : (memRead m a n).length = n := by
  induction n generalizing a with
  | zero => rfl
  | succ n ih => simp [memRead, ih]

theorem memRead_congr {m m' : List (Nat × Byte)} (a n : Nat) (h : ∀ k, a ≤ k → k < a + n → memGet m k = memGet m' k) :
    memRead m a n = memRead m' a n := by
  induction n generalizing a with
  | zero => rfl
  | succ n ih => simp [memRead, h a (by omega) (by omega), ih (a + 1) (fun k h1 h2 => h k (by omega) (by omega))]

/-- Reading back the bytes written. -/
theorem memRead_memWrite {m : List (Nat × Byte)} (h : Memory.wf m = true) (a : Nat) (bs : List Byte) :
    memRead (memWrite m a bs) a bs.length = bs := by
  induction bs generalizing m a with
  | nil => rfl
  | cons b bs ih =>
    simp only [List.length_cons, memRead, memWrite]
    rw [ih (memSet_wf h a b), memGet_memWrite_other (memSet_wf h a b) _ _ _ (by omega), memGet_memSet h, if_pos rfl]

/-- A read that does not overlap a write gives what it gave before. -/
theorem memRead_memWrite_other {m : List (Nat × Byte)} (h : Memory.wf m = true) (a : Nat) (bs : List Byte) (k n : Nat)
    (hk : k + n ≤ a ∨ a + bs.length ≤ k) : memRead (memWrite m a bs) k n = memRead m k n :=
  memRead_congr k n (fun j _ _ => memGet_memWrite_other h a bs j (by omega))

@[simp] theorem natBytes_length (n x : Nat) : (natBytes n x).length = n := by
  induction n generalizing x with
  | zero => rfl
  | succ n ih => simp [natBytes, ih]

/-- The number of the low bytes of a number (R3). -/
theorem bytesNat_natBytes (n x : Nat) : bytesNat (natBytes n x) = x % 256 ^ n := by
  induction n generalizing x with
  | zero => simp [natBytes, bytesNat, Nat.mod_one]
  | succ n ih =>
    have h : (BitVec.ofNat 8 x).toNat = x % 256 := BitVec.toNat_ofNat x 8
    rw [natBytes, bytesNat, ih, h, Nat.pow_succ, Nat.mul_comm (256 ^ n) 256, Nat.mod_mul]

/-! ### The machine's memory -/

theorem State.storeBytes_wf {s : State} (h : Memory.wf s.mem = true) (loc : Nat) (bs : List Byte) : Memory.wf (s.storeBytes loc bs).mem = true :=
  memWrite_wf h loc bs
theorem State.store_wf {s : State} (h : Memory.wf s.mem = true) (loc n v : Nat) : Memory.wf (s.store loc n v).mem = true :=
  memWrite_wf h loc _
theorem State.load_store_same {s : State} (h : Memory.wf s.mem = true) (loc n v : Nat) : (s.store loc n v).load loc n = v % 256 ^ n := by
  have := memRead_memWrite h loc (natBytes n v)
  rw [natBytes_length] at this
  simp [State.load, State.store, State.storeBytes, this, bytesNat_natBytes]
theorem State.load_store_other {s : State} (h : Memory.wf s.mem = true) (loc n v k m : Nat) (hk : k + m ≤ loc ∨ loc + n ≤ k) :
    (s.store loc n v).load k m = s.load k m := by
  simp [State.load, State.store, State.storeBytes, memRead_memWrite_other h loc (natBytes n v) k m (by simpa using hk)]

/-- The memory of the device after reset lists nothing. -/
theorem reset_memory_wf : Memory.wf State.reset.mem = true := rfl

end Sys2Proof.Machine
end

