-- ==== Sys2Proof/Laws/State.lean ====
section
/-! SUPPORT. Laws of the state: what each update leaves alone, field by field, and what it makes of the part that it sets. -/

namespace Sys2Proof.Machine

/-! ### Fields that an update leaves alone -/

@[simp] theorem State.setCtx_focus (s : State) (tile slot : Nat) (c : Ctx) : (s.setCtx tile slot c).focus = s.focus := rfl
@[simp] theorem State.setCtx_tick (s : State) (tile slot : Nat) (c : Ctx) : (s.setCtx tile slot c).tick = s.tick := rfl
@[simp] theorem State.setCtx_cur (s : State) (tile slot : Nat) (c : Ctx) : (s.setCtx tile slot c).cur = s.cur := rfl
@[simp] theorem State.setCtx_curq (s : State) (tile slot : Nat) (c : Ctx) : (s.setCtx tile slot c).curq = s.curq := rfl
@[simp] theorem State.setCtx_len (s : State) (tile slot : Nat) (c : Ctx) : (s.setCtx tile slot c).len = s.len := rfl
@[simp] theorem State.setCtx_iaddr (s : State) (tile slot : Nat) (c : Ctx) : (s.setCtx tile slot c).iaddr = s.iaddr := rfl
@[simp] theorem State.setCtx_ibits (s : State) (tile slot : Nat) (c : Ctx) : (s.setCtx tile slot c).ibits = s.ibits := rfl
@[simp] theorem State.setCtx_follow (s : State) (tile slot : Nat) (c : Ctx) : (s.setCtx tile slot c).follow = s.follow := rfl
@[simp] theorem State.setCtx_rlxScope (s : State) (tile slot : Nat) (c : Ctx) : (s.setCtx tile slot c).rlxScope = s.rlxScope := rfl
@[simp] theorem State.setCtx_fresh (s : State) (tile slot : Nat) (c : Ctx) : (s.setCtx tile slot c).fresh = s.fresh := rfl
@[simp] theorem State.setCtx_hostReads (s : State) (tile slot : Nat) (c : Ctx) : (s.setCtx tile slot c).hostReads = s.hostReads := rfl
@[simp] theorem State.setCtx_msix (s : State) (tile slot : Nat) (c : Ctx) : (s.setCtx tile slot c).msix = s.msix := rfl
@[simp] theorem State.setCtx_cycle (s : State) (tile slot : Nat) (c : Ctx) : (s.setCtx tile slot c).cycle = s.cycle := rfl
@[simp] theorem State.setCtx_mem (s : State) (tile slot : Nat) (c : Ctx) : (s.setCtx tile slot c).mem = s.mem := rfl
@[simp] theorem State.setCtx_poison (s : State) (tile slot : Nat) (c : Ctx) : (s.setCtx tile slot c).poison = s.poison := rfl
@[simp] theorem State.setCtx_failing (s : State) (tile slot : Nat) (c : Ctx) : (s.setCtx tile slot c).failing = s.failing := rfl
@[simp] theorem State.setCtx_tiles (s : State) (tile slot : Nat) (c : Ctx) : (s.setCtx tile slot c).tiles = s.tiles := rfl
@[simp] theorem State.setCtx_xaResv (s : State) (tile slot : Nat) (c : Ctx) : (s.setCtx tile slot c).xaResv = s.xaResv := rfl
@[simp] theorem State.setCtx_xaWaits (s : State) (tile slot : Nat) (c : Ctx) : (s.setCtx tile slot c).xaWaits = s.xaWaits := rfl
@[simp] theorem State.setCtx_net (s : State) (tile slot : Nat) (c : Ctx) : (s.setCtx tile slot c).net = s.net := rfl
@[simp] theorem State.setCtx_queues (s : State) (tile slot : Nat) (c : Ctx) : (s.setCtx tile slot c).queues = s.queues := rfl
@[simp] theorem State.setCtx_lastServed (s : State) (tile slot : Nat) (c : Ctx) : (s.setCtx tile slot c).lastServed = s.lastServed := rfl
@[simp] theorem State.setCtx_serving (s : State) (tile slot : Nat) (c : Ctx) : (s.setCtx tile slot c).serving = s.serving := rfl
@[simp] theorem State.setCtx_launches (s : State) (tile slot : Nat) (c : Ctx) : (s.setCtx tile slot c).launches = s.launches := rfl
@[simp] theorem State.setCtx_tasks (s : State) (tile slot : Nat) (c : Ctx) : (s.setCtx tile slot c).tasks = s.tasks := rfl
@[simp] theorem State.setCtx_saved (s : State) (tile slot : Nat) (c : Ctx) : (s.setCtx tile slot c).saved = s.saved := rfl
@[simp] theorem State.setCtx_insts (s : State) (tile slot : Nat) (c : Ctx) : (s.setCtx tile slot c).insts = s.insts := rfl
@[simp] theorem State.setCtx_dones (s : State) (tile slot : Nat) (c : Ctx) : (s.setCtx tile slot c).dones = s.dones := rfl
@[simp] theorem State.setCtx_ended (s : State) (tile slot : Nat) (c : Ctx) : (s.setCtx tile slot c).ended = s.ended := rfl
@[simp] theorem State.setCtx_tenants (s : State) (tile slot : Nat) (c : Ctx) : (s.setCtx tile slot c).tenants = s.tenants := rfl
@[simp] theorem State.setCtx_tlb (s : State) (tile slot : Nat) (c : Ctx) : (s.setCtx tile slot c).tlb = s.tlb := rfl
@[simp] theorem State.setCtx_walks (s : State) (tile slot : Nat) (c : Ctx) : (s.setCtx tile slot c).walks = s.walks := rfl
@[simp] theorem State.setCtx_pools (s : State) (tile slot : Nat) (c : Ctx) : (s.setCtx tile slot c).pools = s.pools := rfl
@[simp] theorem State.setCtx_wacc (s : State) (tile slot : Nat) (c : Ctx) : (s.setCtx tile slot c).wacc = s.wacc := rfl
@[simp] theorem State.setCtx_atUnit (s : State) (tile slot : Nat) (c : Ctx) : (s.setCtx tile slot c).atUnit = s.atUnit := rfl
@[simp] theorem State.setCtx_mailboxes (s : State) (tile slot : Nat) (c : Ctx) : (s.setCtx tile slot c).mailboxes = s.mailboxes := rfl
@[simp] theorem State.setCtx_fnten (s : State) (tile slot : Nat) (c : Ctx) : (s.setCtx tile slot c).fnten = s.fnten := rfl
@[simp] theorem State.setCtx_b2ap (s : State) (tile slot : Nat) (c : Ctx) : (s.setCtx tile slot c).b2ap = s.b2ap := rfl
@[simp] theorem State.setCtx_boot (s : State) (tile slot : Nat) (c : Ctx) : (s.setCtx tile slot c).boot = s.boot := rfl
@[simp] theorem State.setCtx_channels (s : State) (tile slot : Nat) (c : Ctx) : (s.setCtx tile slot c).channels = s.channels := rfl
@[simp] theorem State.setCtx_peer (s : State) (tile slot : Nat) (c : Ctx) : (s.setCtx tile slot c).peer = s.peer := rfl
@[simp] theorem State.setCtx_fe (s : State) (tile slot : Nat) (c : Ctx) : (s.setCtx tile slot c).fe = s.fe := rfl
@[simp] theorem State.setCtx_log (s : State) (tile slot : Nat) (c : Ctx) : (s.setCtx tile slot c).log = s.log := rfl

@[simp] theorem State.setBank_focus (s : State) (r : BankRef) (k : Bank) : (s.setBank r k).focus = s.focus := rfl
@[simp] theorem State.setBank_tick (s : State) (r : BankRef) (k : Bank) : (s.setBank r k).tick = s.tick := rfl
@[simp] theorem State.setBank_cur (s : State) (r : BankRef) (k : Bank) : (s.setBank r k).cur = s.cur := rfl
@[simp] theorem State.setBank_curq (s : State) (r : BankRef) (k : Bank) : (s.setBank r k).curq = s.curq := rfl
@[simp] theorem State.setBank_len (s : State) (r : BankRef) (k : Bank) : (s.setBank r k).len = s.len := rfl
@[simp] theorem State.setBank_iaddr (s : State) (r : BankRef) (k : Bank) : (s.setBank r k).iaddr = s.iaddr := rfl
@[simp] theorem State.setBank_ibits (s : State) (r : BankRef) (k : Bank) : (s.setBank r k).ibits = s.ibits := rfl
@[simp] theorem State.setBank_follow (s : State) (r : BankRef) (k : Bank) : (s.setBank r k).follow = s.follow := rfl
@[simp] theorem State.setBank_rlxScope (s : State) (r : BankRef) (k : Bank) : (s.setBank r k).rlxScope = s.rlxScope := rfl
@[simp] theorem State.setBank_fresh (s : State) (r : BankRef) (k : Bank) : (s.setBank r k).fresh = s.fresh := rfl
@[simp] theorem State.setBank_hostReads (s : State) (r : BankRef) (k : Bank) : (s.setBank r k).hostReads = s.hostReads := rfl
@[simp] theorem State.setBank_msix (s : State) (r : BankRef) (k : Bank) : (s.setBank r k).msix = s.msix := rfl
@[simp] theorem State.setBank_cycle (s : State) (r : BankRef) (k : Bank) : (s.setBank r k).cycle = s.cycle := rfl
@[simp] theorem State.setBank_mem (s : State) (r : BankRef) (k : Bank) : (s.setBank r k).mem = s.mem := rfl
@[simp] theorem State.setBank_poison (s : State) (r : BankRef) (k : Bank) : (s.setBank r k).poison = s.poison := rfl
@[simp] theorem State.setBank_failing (s : State) (r : BankRef) (k : Bank) : (s.setBank r k).failing = s.failing := rfl
@[simp] theorem State.setBank_tiles (s : State) (r : BankRef) (k : Bank) : (s.setBank r k).tiles = s.tiles := rfl
@[simp] theorem State.setBank_xaResv (s : State) (r : BankRef) (k : Bank) : (s.setBank r k).xaResv = s.xaResv := rfl
@[simp] theorem State.setBank_xaWaits (s : State) (r : BankRef) (k : Bank) : (s.setBank r k).xaWaits = s.xaWaits := rfl
@[simp] theorem State.setBank_net (s : State) (r : BankRef) (k : Bank) : (s.setBank r k).net = s.net := rfl
@[simp] theorem State.setBank_queues (s : State) (r : BankRef) (k : Bank) : (s.setBank r k).queues = s.queues := rfl
@[simp] theorem State.setBank_lastServed (s : State) (r : BankRef) (k : Bank) : (s.setBank r k).lastServed = s.lastServed := rfl
@[simp] theorem State.setBank_serving (s : State) (r : BankRef) (k : Bank) : (s.setBank r k).serving = s.serving := rfl
@[simp] theorem State.setBank_launches (s : State) (r : BankRef) (k : Bank) : (s.setBank r k).launches = s.launches := rfl
@[simp] theorem State.setBank_tasks (s : State) (r : BankRef) (k : Bank) : (s.setBank r k).tasks = s.tasks := rfl
@[simp] theorem State.setBank_saved (s : State) (r : BankRef) (k : Bank) : (s.setBank r k).saved = s.saved := rfl
@[simp] theorem State.setBank_insts (s : State) (r : BankRef) (k : Bank) : (s.setBank r k).insts = s.insts := rfl
@[simp] theorem State.setBank_dones (s : State) (r : BankRef) (k : Bank) : (s.setBank r k).dones = s.dones := rfl
@[simp] theorem State.setBank_ended (s : State) (r : BankRef) (k : Bank) : (s.setBank r k).ended = s.ended := rfl
@[simp] theorem State.setBank_tenants (s : State) (r : BankRef) (k : Bank) : (s.setBank r k).tenants = s.tenants := rfl
@[simp] theorem State.setBank_tlb (s : State) (r : BankRef) (k : Bank) : (s.setBank r k).tlb = s.tlb := rfl
@[simp] theorem State.setBank_walks (s : State) (r : BankRef) (k : Bank) : (s.setBank r k).walks = s.walks := rfl
@[simp] theorem State.setBank_pools (s : State) (r : BankRef) (k : Bank) : (s.setBank r k).pools = s.pools := rfl
@[simp] theorem State.setBank_wacc (s : State) (r : BankRef) (k : Bank) : (s.setBank r k).wacc = s.wacc := rfl
@[simp] theorem State.setBank_atUnit (s : State) (r : BankRef) (k : Bank) : (s.setBank r k).atUnit = s.atUnit := rfl
@[simp] theorem State.setBank_mailboxes (s : State) (r : BankRef) (k : Bank) : (s.setBank r k).mailboxes = s.mailboxes := rfl
@[simp] theorem State.setBank_fnten (s : State) (r : BankRef) (k : Bank) : (s.setBank r k).fnten = s.fnten := rfl
@[simp] theorem State.setBank_b2ap (s : State) (r : BankRef) (k : Bank) : (s.setBank r k).b2ap = s.b2ap := rfl
@[simp] theorem State.setBank_boot (s : State) (r : BankRef) (k : Bank) : (s.setBank r k).boot = s.boot := rfl
@[simp] theorem State.setBank_channels (s : State) (r : BankRef) (k : Bank) : (s.setBank r k).channels = s.channels := rfl
@[simp] theorem State.setBank_peer (s : State) (r : BankRef) (k : Bank) : (s.setBank r k).peer = s.peer := rfl
@[simp] theorem State.setBank_fe (s : State) (r : BankRef) (k : Bank) : (s.setBank r k).fe = s.fe := rfl
@[simp] theorem State.setBank_log (s : State) (r : BankRef) (k : Bank) : (s.setBank r k).log = s.log := rfl

@[simp] theorem State.setMe_focus (s : State) (k : Bank) : (s.setMe k).focus = s.focus := rfl
@[simp] theorem State.setMe_tick (s : State) (k : Bank) : (s.setMe k).tick = s.tick := rfl
@[simp] theorem State.setMe_cur (s : State) (k : Bank) : (s.setMe k).cur = s.cur := rfl
@[simp] theorem State.setMe_curq (s : State) (k : Bank) : (s.setMe k).curq = s.curq := rfl
@[simp] theorem State.setMe_len (s : State) (k : Bank) : (s.setMe k).len = s.len := rfl
@[simp] theorem State.setMe_iaddr (s : State) (k : Bank) : (s.setMe k).iaddr = s.iaddr := rfl
@[simp] theorem State.setMe_ibits (s : State) (k : Bank) : (s.setMe k).ibits = s.ibits := rfl
@[simp] theorem State.setMe_follow (s : State) (k : Bank) : (s.setMe k).follow = s.follow := rfl
@[simp] theorem State.setMe_rlxScope (s : State) (k : Bank) : (s.setMe k).rlxScope = s.rlxScope := rfl
@[simp] theorem State.setMe_fresh (s : State) (k : Bank) : (s.setMe k).fresh = s.fresh := rfl
@[simp] theorem State.setMe_hostReads (s : State) (k : Bank) : (s.setMe k).hostReads = s.hostReads := rfl
@[simp] theorem State.setMe_msix (s : State) (k : Bank) : (s.setMe k).msix = s.msix := rfl
@[simp] theorem State.setMe_cycle (s : State) (k : Bank) : (s.setMe k).cycle = s.cycle := rfl
@[simp] theorem State.setMe_mem (s : State) (k : Bank) : (s.setMe k).mem = s.mem := rfl
@[simp] theorem State.setMe_poison (s : State) (k : Bank) : (s.setMe k).poison = s.poison := rfl
@[simp] theorem State.setMe_failing (s : State) (k : Bank) : (s.setMe k).failing = s.failing := rfl
@[simp] theorem State.setMe_tiles (s : State) (k : Bank) : (s.setMe k).tiles = s.tiles := rfl
@[simp] theorem State.setMe_xaResv (s : State) (k : Bank) : (s.setMe k).xaResv = s.xaResv := rfl
@[simp] theorem State.setMe_xaWaits (s : State) (k : Bank) : (s.setMe k).xaWaits = s.xaWaits := rfl
@[simp] theorem State.setMe_net (s : State) (k : Bank) : (s.setMe k).net = s.net := rfl
@[simp] theorem State.setMe_queues (s : State) (k : Bank) : (s.setMe k).queues = s.queues := rfl
@[simp] theorem State.setMe_lastServed (s : State) (k : Bank) : (s.setMe k).lastServed = s.lastServed := rfl
@[simp] theorem State.setMe_serving (s : State) (k : Bank) : (s.setMe k).serving = s.serving := rfl
@[simp] theorem State.setMe_launches (s : State) (k : Bank) : (s.setMe k).launches = s.launches := rfl
@[simp] theorem State.setMe_tasks (s : State) (k : Bank) : (s.setMe k).tasks = s.tasks := rfl
@[simp] theorem State.setMe_saved (s : State) (k : Bank) : (s.setMe k).saved = s.saved := rfl
@[simp] theorem State.setMe_insts (s : State) (k : Bank) : (s.setMe k).insts = s.insts := rfl
@[simp] theorem State.setMe_dones (s : State) (k : Bank) : (s.setMe k).dones = s.dones := rfl
@[simp] theorem State.setMe_ended (s : State) (k : Bank) : (s.setMe k).ended = s.ended := rfl
@[simp] theorem State.setMe_tenants (s : State) (k : Bank) : (s.setMe k).tenants = s.tenants := rfl
@[simp] theorem State.setMe_tlb (s : State) (k : Bank) : (s.setMe k).tlb = s.tlb := rfl
@[simp] theorem State.setMe_walks (s : State) (k : Bank) : (s.setMe k).walks = s.walks := rfl
@[simp] theorem State.setMe_pools (s : State) (k : Bank) : (s.setMe k).pools = s.pools := rfl
@[simp] theorem State.setMe_wacc (s : State) (k : Bank) : (s.setMe k).wacc = s.wacc := rfl
@[simp] theorem State.setMe_atUnit (s : State) (k : Bank) : (s.setMe k).atUnit = s.atUnit := rfl
@[simp] theorem State.setMe_mailboxes (s : State) (k : Bank) : (s.setMe k).mailboxes = s.mailboxes := rfl
@[simp] theorem State.setMe_fnten (s : State) (k : Bank) : (s.setMe k).fnten = s.fnten := rfl
@[simp] theorem State.setMe_b2ap (s : State) (k : Bank) : (s.setMe k).b2ap = s.b2ap := rfl
@[simp] theorem State.setMe_boot (s : State) (k : Bank) : (s.setMe k).boot = s.boot := rfl
@[simp] theorem State.setMe_channels (s : State) (k : Bank) : (s.setMe k).channels = s.channels := rfl
@[simp] theorem State.setMe_peer (s : State) (k : Bank) : (s.setMe k).peer = s.peer := rfl
@[simp] theorem State.setMe_fe (s : State) (k : Bank) : (s.setMe k).fe = s.fe := rfl
@[simp] theorem State.setMe_log (s : State) (k : Bank) : (s.setMe k).log = s.log := rfl

@[simp] theorem State.setTile_focus (s : State) (n : Nat) (x : Tile) : (s.setTile n x).focus = s.focus := rfl
@[simp] theorem State.setTile_tick (s : State) (n : Nat) (x : Tile) : (s.setTile n x).tick = s.tick := rfl
@[simp] theorem State.setTile_cur (s : State) (n : Nat) (x : Tile) : (s.setTile n x).cur = s.cur := rfl
@[simp] theorem State.setTile_curq (s : State) (n : Nat) (x : Tile) : (s.setTile n x).curq = s.curq := rfl
@[simp] theorem State.setTile_len (s : State) (n : Nat) (x : Tile) : (s.setTile n x).len = s.len := rfl
@[simp] theorem State.setTile_iaddr (s : State) (n : Nat) (x : Tile) : (s.setTile n x).iaddr = s.iaddr := rfl
@[simp] theorem State.setTile_ibits (s : State) (n : Nat) (x : Tile) : (s.setTile n x).ibits = s.ibits := rfl
@[simp] theorem State.setTile_follow (s : State) (n : Nat) (x : Tile) : (s.setTile n x).follow = s.follow := rfl
@[simp] theorem State.setTile_rlxScope (s : State) (n : Nat) (x : Tile) : (s.setTile n x).rlxScope = s.rlxScope := rfl
@[simp] theorem State.setTile_fresh (s : State) (n : Nat) (x : Tile) : (s.setTile n x).fresh = s.fresh := rfl
@[simp] theorem State.setTile_hostReads (s : State) (n : Nat) (x : Tile) : (s.setTile n x).hostReads = s.hostReads := rfl
@[simp] theorem State.setTile_msix (s : State) (n : Nat) (x : Tile) : (s.setTile n x).msix = s.msix := rfl
@[simp] theorem State.setTile_cycle (s : State) (n : Nat) (x : Tile) : (s.setTile n x).cycle = s.cycle := rfl
@[simp] theorem State.setTile_mem (s : State) (n : Nat) (x : Tile) : (s.setTile n x).mem = s.mem := rfl
@[simp] theorem State.setTile_poison (s : State) (n : Nat) (x : Tile) : (s.setTile n x).poison = s.poison := rfl
@[simp] theorem State.setTile_failing (s : State) (n : Nat) (x : Tile) : (s.setTile n x).failing = s.failing := rfl
@[simp] theorem State.setTile_ctxs (s : State) (n : Nat) (x : Tile) : (s.setTile n x).ctxs = s.ctxs := rfl
@[simp] theorem State.setTile_xaResv (s : State) (n : Nat) (x : Tile) : (s.setTile n x).xaResv = s.xaResv := rfl
@[simp] theorem State.setTile_xaWaits (s : State) (n : Nat) (x : Tile) : (s.setTile n x).xaWaits = s.xaWaits := rfl
@[simp] theorem State.setTile_net (s : State) (n : Nat) (x : Tile) : (s.setTile n x).net = s.net := rfl
@[simp] theorem State.setTile_queues (s : State) (n : Nat) (x : Tile) : (s.setTile n x).queues = s.queues := rfl
@[simp] theorem State.setTile_lastServed (s : State) (n : Nat) (x : Tile) : (s.setTile n x).lastServed = s.lastServed := rfl
@[simp] theorem State.setTile_serving (s : State) (n : Nat) (x : Tile) : (s.setTile n x).serving = s.serving := rfl
@[simp] theorem State.setTile_launches (s : State) (n : Nat) (x : Tile) : (s.setTile n x).launches = s.launches := rfl
@[simp] theorem State.setTile_tasks (s : State) (n : Nat) (x : Tile) : (s.setTile n x).tasks = s.tasks := rfl
@[simp] theorem State.setTile_saved (s : State) (n : Nat) (x : Tile) : (s.setTile n x).saved = s.saved := rfl
@[simp] theorem State.setTile_insts (s : State) (n : Nat) (x : Tile) : (s.setTile n x).insts = s.insts := rfl
@[simp] theorem State.setTile_dones (s : State) (n : Nat) (x : Tile) : (s.setTile n x).dones = s.dones := rfl
@[simp] theorem State.setTile_ended (s : State) (n : Nat) (x : Tile) : (s.setTile n x).ended = s.ended := rfl
@[simp] theorem State.setTile_tenants (s : State) (n : Nat) (x : Tile) : (s.setTile n x).tenants = s.tenants := rfl
@[simp] theorem State.setTile_tlb (s : State) (n : Nat) (x : Tile) : (s.setTile n x).tlb = s.tlb := rfl
@[simp] theorem State.setTile_walks (s : State) (n : Nat) (x : Tile) : (s.setTile n x).walks = s.walks := rfl
@[simp] theorem State.setTile_pools (s : State) (n : Nat) (x : Tile) : (s.setTile n x).pools = s.pools := rfl
@[simp] theorem State.setTile_wacc (s : State) (n : Nat) (x : Tile) : (s.setTile n x).wacc = s.wacc := rfl
@[simp] theorem State.setTile_atUnit (s : State) (n : Nat) (x : Tile) : (s.setTile n x).atUnit = s.atUnit := rfl
@[simp] theorem State.setTile_mailboxes (s : State) (n : Nat) (x : Tile) : (s.setTile n x).mailboxes = s.mailboxes := rfl
@[simp] theorem State.setTile_fnten (s : State) (n : Nat) (x : Tile) : (s.setTile n x).fnten = s.fnten := rfl
@[simp] theorem State.setTile_b2ap (s : State) (n : Nat) (x : Tile) : (s.setTile n x).b2ap = s.b2ap := rfl
@[simp] theorem State.setTile_boot (s : State) (n : Nat) (x : Tile) : (s.setTile n x).boot = s.boot := rfl
@[simp] theorem State.setTile_channels (s : State) (n : Nat) (x : Tile) : (s.setTile n x).channels = s.channels := rfl
@[simp] theorem State.setTile_peer (s : State) (n : Nat) (x : Tile) : (s.setTile n x).peer = s.peer := rfl
@[simp] theorem State.setTile_fe (s : State) (n : Nat) (x : Tile) : (s.setTile n x).fe = s.fe := rfl
@[simp] theorem State.setTile_log (s : State) (n : Nat) (x : Tile) : (s.setTile n x).log = s.log := rfl

@[simp] theorem State.setQueue_focus (s : State) (n : Nat) (x : Queue) : (s.setQueue n x).focus = s.focus := rfl
@[simp] theorem State.setQueue_tick (s : State) (n : Nat) (x : Queue) : (s.setQueue n x).tick = s.tick := rfl
@[simp] theorem State.setQueue_cur (s : State) (n : Nat) (x : Queue) : (s.setQueue n x).cur = s.cur := rfl
@[simp] theorem State.setQueue_curq (s : State) (n : Nat) (x : Queue) : (s.setQueue n x).curq = s.curq := rfl
@[simp] theorem State.setQueue_len (s : State) (n : Nat) (x : Queue) : (s.setQueue n x).len = s.len := rfl
@[simp] theorem State.setQueue_iaddr (s : State) (n : Nat) (x : Queue) : (s.setQueue n x).iaddr = s.iaddr := rfl
@[simp] theorem State.setQueue_ibits (s : State) (n : Nat) (x : Queue) : (s.setQueue n x).ibits = s.ibits := rfl
@[simp] theorem State.setQueue_follow (s : State) (n : Nat) (x : Queue) : (s.setQueue n x).follow = s.follow := rfl
@[simp] theorem State.setQueue_rlxScope (s : State) (n : Nat) (x : Queue) : (s.setQueue n x).rlxScope = s.rlxScope := rfl
@[simp] theorem State.setQueue_fresh (s : State) (n : Nat) (x : Queue) : (s.setQueue n x).fresh = s.fresh := rfl
@[simp] theorem State.setQueue_hostReads (s : State) (n : Nat) (x : Queue) : (s.setQueue n x).hostReads = s.hostReads := rfl
@[simp] theorem State.setQueue_msix (s : State) (n : Nat) (x : Queue) : (s.setQueue n x).msix = s.msix := rfl
@[simp] theorem State.setQueue_cycle (s : State) (n : Nat) (x : Queue) : (s.setQueue n x).cycle = s.cycle := rfl
@[simp] theorem State.setQueue_mem (s : State) (n : Nat) (x : Queue) : (s.setQueue n x).mem = s.mem := rfl
@[simp] theorem State.setQueue_poison (s : State) (n : Nat) (x : Queue) : (s.setQueue n x).poison = s.poison := rfl
@[simp] theorem State.setQueue_failing (s : State) (n : Nat) (x : Queue) : (s.setQueue n x).failing = s.failing := rfl
@[simp] theorem State.setQueue_ctxs (s : State) (n : Nat) (x : Queue) : (s.setQueue n x).ctxs = s.ctxs := rfl
@[simp] theorem State.setQueue_tiles (s : State) (n : Nat) (x : Queue) : (s.setQueue n x).tiles = s.tiles := rfl
@[simp] theorem State.setQueue_xaResv (s : State) (n : Nat) (x : Queue) : (s.setQueue n x).xaResv = s.xaResv := rfl
@[simp] theorem State.setQueue_xaWaits (s : State) (n : Nat) (x : Queue) : (s.setQueue n x).xaWaits = s.xaWaits := rfl
@[simp] theorem State.setQueue_net (s : State) (n : Nat) (x : Queue) : (s.setQueue n x).net = s.net := rfl
@[simp] theorem State.setQueue_lastServed (s : State) (n : Nat) (x : Queue) : (s.setQueue n x).lastServed = s.lastServed := rfl
@[simp] theorem State.setQueue_serving (s : State) (n : Nat) (x : Queue) : (s.setQueue n x).serving = s.serving := rfl
@[simp] theorem State.setQueue_launches (s : State) (n : Nat) (x : Queue) : (s.setQueue n x).launches = s.launches := rfl
@[simp] theorem State.setQueue_tasks (s : State) (n : Nat) (x : Queue) : (s.setQueue n x).tasks = s.tasks := rfl
@[simp] theorem State.setQueue_saved (s : State) (n : Nat) (x : Queue) : (s.setQueue n x).saved = s.saved := rfl
@[simp] theorem State.setQueue_insts (s : State) (n : Nat) (x : Queue) : (s.setQueue n x).insts = s.insts := rfl
@[simp] theorem State.setQueue_dones (s : State) (n : Nat) (x : Queue) : (s.setQueue n x).dones = s.dones := rfl
@[simp] theorem State.setQueue_ended (s : State) (n : Nat) (x : Queue) : (s.setQueue n x).ended = s.ended := rfl
@[simp] theorem State.setQueue_tenants (s : State) (n : Nat) (x : Queue) : (s.setQueue n x).tenants = s.tenants := rfl
@[simp] theorem State.setQueue_tlb (s : State) (n : Nat) (x : Queue) : (s.setQueue n x).tlb = s.tlb := rfl
@[simp] theorem State.setQueue_walks (s : State) (n : Nat) (x : Queue) : (s.setQueue n x).walks = s.walks := rfl
@[simp] theorem State.setQueue_pools (s : State) (n : Nat) (x : Queue) : (s.setQueue n x).pools = s.pools := rfl
@[simp] theorem State.setQueue_wacc (s : State) (n : Nat) (x : Queue) : (s.setQueue n x).wacc = s.wacc := rfl
@[simp] theorem State.setQueue_atUnit (s : State) (n : Nat) (x : Queue) : (s.setQueue n x).atUnit = s.atUnit := rfl
@[simp] theorem State.setQueue_mailboxes (s : State) (n : Nat) (x : Queue) : (s.setQueue n x).mailboxes = s.mailboxes := rfl
@[simp] theorem State.setQueue_fnten (s : State) (n : Nat) (x : Queue) : (s.setQueue n x).fnten = s.fnten := rfl
@[simp] theorem State.setQueue_b2ap (s : State) (n : Nat) (x : Queue) : (s.setQueue n x).b2ap = s.b2ap := rfl
@[simp] theorem State.setQueue_boot (s : State) (n : Nat) (x : Queue) : (s.setQueue n x).boot = s.boot := rfl
@[simp] theorem State.setQueue_channels (s : State) (n : Nat) (x : Queue) : (s.setQueue n x).channels = s.channels := rfl
@[simp] theorem State.setQueue_peer (s : State) (n : Nat) (x : Queue) : (s.setQueue n x).peer = s.peer := rfl
@[simp] theorem State.setQueue_fe (s : State) (n : Nat) (x : Queue) : (s.setQueue n x).fe = s.fe := rfl
@[simp] theorem State.setQueue_log (s : State) (n : Nat) (x : Queue) : (s.setQueue n x).log = s.log := rfl

@[simp] theorem State.setTenant_focus (s : State) (n : Nat) (x : Tenant) : (s.setTenant n x).focus = s.focus := rfl
@[simp] theorem State.setTenant_tick (s : State) (n : Nat) (x : Tenant) : (s.setTenant n x).tick = s.tick := rfl
@[simp] theorem State.setTenant_cur (s : State) (n : Nat) (x : Tenant) : (s.setTenant n x).cur = s.cur := rfl
@[simp] theorem State.setTenant_curq (s : State) (n : Nat) (x : Tenant) : (s.setTenant n x).curq = s.curq := rfl
@[simp] theorem State.setTenant_len (s : State) (n : Nat) (x : Tenant) : (s.setTenant n x).len = s.len := rfl
@[simp] theorem State.setTenant_iaddr (s : State) (n : Nat) (x : Tenant) : (s.setTenant n x).iaddr = s.iaddr := rfl
@[simp] theorem State.setTenant_ibits (s : State) (n : Nat) (x : Tenant) : (s.setTenant n x).ibits = s.ibits := rfl
@[simp] theorem State.setTenant_follow (s : State) (n : Nat) (x : Tenant) : (s.setTenant n x).follow = s.follow := rfl
@[simp] theorem State.setTenant_rlxScope (s : State) (n : Nat) (x : Tenant) : (s.setTenant n x).rlxScope = s.rlxScope := rfl
@[simp] theorem State.setTenant_fresh (s : State) (n : Nat) (x : Tenant) : (s.setTenant n x).fresh = s.fresh := rfl
@[simp] theorem State.setTenant_hostReads (s : State) (n : Nat) (x : Tenant) : (s.setTenant n x).hostReads = s.hostReads := rfl
@[simp] theorem State.setTenant_msix (s : State) (n : Nat) (x : Tenant) : (s.setTenant n x).msix = s.msix := rfl
@[simp] theorem State.setTenant_cycle (s : State) (n : Nat) (x : Tenant) : (s.setTenant n x).cycle = s.cycle := rfl
@[simp] theorem State.setTenant_mem (s : State) (n : Nat) (x : Tenant) : (s.setTenant n x).mem = s.mem := rfl
@[simp] theorem State.setTenant_poison (s : State) (n : Nat) (x : Tenant) : (s.setTenant n x).poison = s.poison := rfl
@[simp] theorem State.setTenant_failing (s : State) (n : Nat) (x : Tenant) : (s.setTenant n x).failing = s.failing := rfl
@[simp] theorem State.setTenant_ctxs (s : State) (n : Nat) (x : Tenant) : (s.setTenant n x).ctxs = s.ctxs := rfl
@[simp] theorem State.setTenant_tiles (s : State) (n : Nat) (x : Tenant) : (s.setTenant n x).tiles = s.tiles := rfl
@[simp] theorem State.setTenant_xaResv (s : State) (n : Nat) (x : Tenant) : (s.setTenant n x).xaResv = s.xaResv := rfl
@[simp] theorem State.setTenant_xaWaits (s : State) (n : Nat) (x : Tenant) : (s.setTenant n x).xaWaits = s.xaWaits := rfl
@[simp] theorem State.setTenant_net (s : State) (n : Nat) (x : Tenant) : (s.setTenant n x).net = s.net := rfl
@[simp] theorem State.setTenant_queues (s : State) (n : Nat) (x : Tenant) : (s.setTenant n x).queues = s.queues := rfl
@[simp] theorem State.setTenant_lastServed (s : State) (n : Nat) (x : Tenant) : (s.setTenant n x).lastServed = s.lastServed := rfl
@[simp] theorem State.setTenant_serving (s : State) (n : Nat) (x : Tenant) : (s.setTenant n x).serving = s.serving := rfl
@[simp] theorem State.setTenant_launches (s : State) (n : Nat) (x : Tenant) : (s.setTenant n x).launches = s.launches := rfl
@[simp] theorem State.setTenant_tasks (s : State) (n : Nat) (x : Tenant) : (s.setTenant n x).tasks = s.tasks := rfl
@[simp] theorem State.setTenant_saved (s : State) (n : Nat) (x : Tenant) : (s.setTenant n x).saved = s.saved := rfl
@[simp] theorem State.setTenant_insts (s : State) (n : Nat) (x : Tenant) : (s.setTenant n x).insts = s.insts := rfl
@[simp] theorem State.setTenant_dones (s : State) (n : Nat) (x : Tenant) : (s.setTenant n x).dones = s.dones := rfl
@[simp] theorem State.setTenant_ended (s : State) (n : Nat) (x : Tenant) : (s.setTenant n x).ended = s.ended := rfl
@[simp] theorem State.setTenant_tlb (s : State) (n : Nat) (x : Tenant) : (s.setTenant n x).tlb = s.tlb := rfl
@[simp] theorem State.setTenant_walks (s : State) (n : Nat) (x : Tenant) : (s.setTenant n x).walks = s.walks := rfl
@[simp] theorem State.setTenant_pools (s : State) (n : Nat) (x : Tenant) : (s.setTenant n x).pools = s.pools := rfl
@[simp] theorem State.setTenant_wacc (s : State) (n : Nat) (x : Tenant) : (s.setTenant n x).wacc = s.wacc := rfl
@[simp] theorem State.setTenant_atUnit (s : State) (n : Nat) (x : Tenant) : (s.setTenant n x).atUnit = s.atUnit := rfl
@[simp] theorem State.setTenant_mailboxes (s : State) (n : Nat) (x : Tenant) : (s.setTenant n x).mailboxes = s.mailboxes := rfl
@[simp] theorem State.setTenant_fnten (s : State) (n : Nat) (x : Tenant) : (s.setTenant n x).fnten = s.fnten := rfl
@[simp] theorem State.setTenant_b2ap (s : State) (n : Nat) (x : Tenant) : (s.setTenant n x).b2ap = s.b2ap := rfl
@[simp] theorem State.setTenant_boot (s : State) (n : Nat) (x : Tenant) : (s.setTenant n x).boot = s.boot := rfl
@[simp] theorem State.setTenant_channels (s : State) (n : Nat) (x : Tenant) : (s.setTenant n x).channels = s.channels := rfl
@[simp] theorem State.setTenant_peer (s : State) (n : Nat) (x : Tenant) : (s.setTenant n x).peer = s.peer := rfl
@[simp] theorem State.setTenant_fe (s : State) (n : Nat) (x : Tenant) : (s.setTenant n x).fe = s.fe := rfl
@[simp] theorem State.setTenant_log (s : State) (n : Nat) (x : Tenant) : (s.setTenant n x).log = s.log := rfl

@[simp] theorem State.setPool_focus (s : State) (n : Nat) (x : Pool) : (s.setPool n x).focus = s.focus := rfl
@[simp] theorem State.setPool_tick (s : State) (n : Nat) (x : Pool) : (s.setPool n x).tick = s.tick := rfl
@[simp] theorem State.setPool_cur (s : State) (n : Nat) (x : Pool) : (s.setPool n x).cur = s.cur := rfl
@[simp] theorem State.setPool_curq (s : State) (n : Nat) (x : Pool) : (s.setPool n x).curq = s.curq := rfl
@[simp] theorem State.setPool_len (s : State) (n : Nat) (x : Pool) : (s.setPool n x).len = s.len := rfl
@[simp] theorem State.setPool_iaddr (s : State) (n : Nat) (x : Pool) : (s.setPool n x).iaddr = s.iaddr := rfl
@[simp] theorem State.setPool_ibits (s : State) (n : Nat) (x : Pool) : (s.setPool n x).ibits = s.ibits := rfl
@[simp] theorem State.setPool_follow (s : State) (n : Nat) (x : Pool) : (s.setPool n x).follow = s.follow := rfl
@[simp] theorem State.setPool_rlxScope (s : State) (n : Nat) (x : Pool) : (s.setPool n x).rlxScope = s.rlxScope := rfl
@[simp] theorem State.setPool_fresh (s : State) (n : Nat) (x : Pool) : (s.setPool n x).fresh = s.fresh := rfl
@[simp] theorem State.setPool_hostReads (s : State) (n : Nat) (x : Pool) : (s.setPool n x).hostReads = s.hostReads := rfl
@[simp] theorem State.setPool_msix (s : State) (n : Nat) (x : Pool) : (s.setPool n x).msix = s.msix := rfl
@[simp] theorem State.setPool_cycle (s : State) (n : Nat) (x : Pool) : (s.setPool n x).cycle = s.cycle := rfl
@[simp] theorem State.setPool_mem (s : State) (n : Nat) (x : Pool) : (s.setPool n x).mem = s.mem := rfl
@[simp] theorem State.setPool_poison (s : State) (n : Nat) (x : Pool) : (s.setPool n x).poison = s.poison := rfl
@[simp] theorem State.setPool_failing (s : State) (n : Nat) (x : Pool) : (s.setPool n x).failing = s.failing := rfl
@[simp] theorem State.setPool_ctxs (s : State) (n : Nat) (x : Pool) : (s.setPool n x).ctxs = s.ctxs := rfl
@[simp] theorem State.setPool_tiles (s : State) (n : Nat) (x : Pool) : (s.setPool n x).tiles = s.tiles := rfl
@[simp] theorem State.setPool_xaResv (s : State) (n : Nat) (x : Pool) : (s.setPool n x).xaResv = s.xaResv := rfl
@[simp] theorem State.setPool_xaWaits (s : State) (n : Nat) (x : Pool) : (s.setPool n x).xaWaits = s.xaWaits := rfl
@[simp] theorem State.setPool_net (s : State) (n : Nat) (x : Pool) : (s.setPool n x).net = s.net := rfl
@[simp] theorem State.setPool_queues (s : State) (n : Nat) (x : Pool) : (s.setPool n x).queues = s.queues := rfl
@[simp] theorem State.setPool_lastServed (s : State) (n : Nat) (x : Pool) : (s.setPool n x).lastServed = s.lastServed := rfl
@[simp] theorem State.setPool_serving (s : State) (n : Nat) (x : Pool) : (s.setPool n x).serving = s.serving := rfl
@[simp] theorem State.setPool_launches (s : State) (n : Nat) (x : Pool) : (s.setPool n x).launches = s.launches := rfl
@[simp] theorem State.setPool_tasks (s : State) (n : Nat) (x : Pool) : (s.setPool n x).tasks = s.tasks := rfl
@[simp] theorem State.setPool_saved (s : State) (n : Nat) (x : Pool) : (s.setPool n x).saved = s.saved := rfl
@[simp] theorem State.setPool_insts (s : State) (n : Nat) (x : Pool) : (s.setPool n x).insts = s.insts := rfl
@[simp] theorem State.setPool_dones (s : State) (n : Nat) (x : Pool) : (s.setPool n x).dones = s.dones := rfl
@[simp] theorem State.setPool_ended (s : State) (n : Nat) (x : Pool) : (s.setPool n x).ended = s.ended := rfl
@[simp] theorem State.setPool_tenants (s : State) (n : Nat) (x : Pool) : (s.setPool n x).tenants = s.tenants := rfl
@[simp] theorem State.setPool_tlb (s : State) (n : Nat) (x : Pool) : (s.setPool n x).tlb = s.tlb := rfl
@[simp] theorem State.setPool_walks (s : State) (n : Nat) (x : Pool) : (s.setPool n x).walks = s.walks := rfl
@[simp] theorem State.setPool_wacc (s : State) (n : Nat) (x : Pool) : (s.setPool n x).wacc = s.wacc := rfl
@[simp] theorem State.setPool_atUnit (s : State) (n : Nat) (x : Pool) : (s.setPool n x).atUnit = s.atUnit := rfl
@[simp] theorem State.setPool_mailboxes (s : State) (n : Nat) (x : Pool) : (s.setPool n x).mailboxes = s.mailboxes := rfl
@[simp] theorem State.setPool_fnten (s : State) (n : Nat) (x : Pool) : (s.setPool n x).fnten = s.fnten := rfl
@[simp] theorem State.setPool_b2ap (s : State) (n : Nat) (x : Pool) : (s.setPool n x).b2ap = s.b2ap := rfl
@[simp] theorem State.setPool_boot (s : State) (n : Nat) (x : Pool) : (s.setPool n x).boot = s.boot := rfl
@[simp] theorem State.setPool_channels (s : State) (n : Nat) (x : Pool) : (s.setPool n x).channels = s.channels := rfl
@[simp] theorem State.setPool_peer (s : State) (n : Nat) (x : Pool) : (s.setPool n x).peer = s.peer := rfl
@[simp] theorem State.setPool_fe (s : State) (n : Nat) (x : Pool) : (s.setPool n x).fe = s.fe := rfl
@[simp] theorem State.setPool_log (s : State) (n : Nat) (x : Pool) : (s.setPool n x).log = s.log := rfl

@[simp] theorem State.setMbox_focus (s : State) (n : Nat) (x : Mailbox) : (s.setMbox n x).focus = s.focus := rfl
@[simp] theorem State.setMbox_tick (s : State) (n : Nat) (x : Mailbox) : (s.setMbox n x).tick = s.tick := rfl
@[simp] theorem State.setMbox_cur (s : State) (n : Nat) (x : Mailbox) : (s.setMbox n x).cur = s.cur := rfl
@[simp] theorem State.setMbox_curq (s : State) (n : Nat) (x : Mailbox) : (s.setMbox n x).curq = s.curq := rfl
@[simp] theorem State.setMbox_len (s : State) (n : Nat) (x : Mailbox) : (s.setMbox n x).len = s.len := rfl
@[simp] theorem State.setMbox_iaddr (s : State) (n : Nat) (x : Mailbox) : (s.setMbox n x).iaddr = s.iaddr := rfl
@[simp] theorem State.setMbox_ibits (s : State) (n : Nat) (x : Mailbox) : (s.setMbox n x).ibits = s.ibits := rfl
@[simp] theorem State.setMbox_follow (s : State) (n : Nat) (x : Mailbox) : (s.setMbox n x).follow = s.follow := rfl
@[simp] theorem State.setMbox_rlxScope (s : State) (n : Nat) (x : Mailbox) : (s.setMbox n x).rlxScope = s.rlxScope := rfl
@[simp] theorem State.setMbox_fresh (s : State) (n : Nat) (x : Mailbox) : (s.setMbox n x).fresh = s.fresh := rfl
@[simp] theorem State.setMbox_hostReads (s : State) (n : Nat) (x : Mailbox) : (s.setMbox n x).hostReads = s.hostReads := rfl
@[simp] theorem State.setMbox_msix (s : State) (n : Nat) (x : Mailbox) : (s.setMbox n x).msix = s.msix := rfl
@[simp] theorem State.setMbox_cycle (s : State) (n : Nat) (x : Mailbox) : (s.setMbox n x).cycle = s.cycle := rfl
@[simp] theorem State.setMbox_mem (s : State) (n : Nat) (x : Mailbox) : (s.setMbox n x).mem = s.mem := rfl
@[simp] theorem State.setMbox_poison (s : State) (n : Nat) (x : Mailbox) : (s.setMbox n x).poison = s.poison := rfl
@[simp] theorem State.setMbox_failing (s : State) (n : Nat) (x : Mailbox) : (s.setMbox n x).failing = s.failing := rfl
@[simp] theorem State.setMbox_ctxs (s : State) (n : Nat) (x : Mailbox) : (s.setMbox n x).ctxs = s.ctxs := rfl
@[simp] theorem State.setMbox_tiles (s : State) (n : Nat) (x : Mailbox) : (s.setMbox n x).tiles = s.tiles := rfl
@[simp] theorem State.setMbox_xaResv (s : State) (n : Nat) (x : Mailbox) : (s.setMbox n x).xaResv = s.xaResv := rfl
@[simp] theorem State.setMbox_xaWaits (s : State) (n : Nat) (x : Mailbox) : (s.setMbox n x).xaWaits = s.xaWaits := rfl
@[simp] theorem State.setMbox_net (s : State) (n : Nat) (x : Mailbox) : (s.setMbox n x).net = s.net := rfl
@[simp] theorem State.setMbox_queues (s : State) (n : Nat) (x : Mailbox) : (s.setMbox n x).queues = s.queues := rfl
@[simp] theorem State.setMbox_lastServed (s : State) (n : Nat) (x : Mailbox) : (s.setMbox n x).lastServed = s.lastServed := rfl
@[simp] theorem State.setMbox_serving (s : State) (n : Nat) (x : Mailbox) : (s.setMbox n x).serving = s.serving := rfl
@[simp] theorem State.setMbox_launches (s : State) (n : Nat) (x : Mailbox) : (s.setMbox n x).launches = s.launches := rfl
@[simp] theorem State.setMbox_tasks (s : State) (n : Nat) (x : Mailbox) : (s.setMbox n x).tasks = s.tasks := rfl
@[simp] theorem State.setMbox_saved (s : State) (n : Nat) (x : Mailbox) : (s.setMbox n x).saved = s.saved := rfl
@[simp] theorem State.setMbox_insts (s : State) (n : Nat) (x : Mailbox) : (s.setMbox n x).insts = s.insts := rfl
@[simp] theorem State.setMbox_dones (s : State) (n : Nat) (x : Mailbox) : (s.setMbox n x).dones = s.dones := rfl
@[simp] theorem State.setMbox_ended (s : State) (n : Nat) (x : Mailbox) : (s.setMbox n x).ended = s.ended := rfl
@[simp] theorem State.setMbox_tenants (s : State) (n : Nat) (x : Mailbox) : (s.setMbox n x).tenants = s.tenants := rfl
@[simp] theorem State.setMbox_tlb (s : State) (n : Nat) (x : Mailbox) : (s.setMbox n x).tlb = s.tlb := rfl
@[simp] theorem State.setMbox_walks (s : State) (n : Nat) (x : Mailbox) : (s.setMbox n x).walks = s.walks := rfl
@[simp] theorem State.setMbox_pools (s : State) (n : Nat) (x : Mailbox) : (s.setMbox n x).pools = s.pools := rfl
@[simp] theorem State.setMbox_wacc (s : State) (n : Nat) (x : Mailbox) : (s.setMbox n x).wacc = s.wacc := rfl
@[simp] theorem State.setMbox_atUnit (s : State) (n : Nat) (x : Mailbox) : (s.setMbox n x).atUnit = s.atUnit := rfl
@[simp] theorem State.setMbox_fnten (s : State) (n : Nat) (x : Mailbox) : (s.setMbox n x).fnten = s.fnten := rfl
@[simp] theorem State.setMbox_b2ap (s : State) (n : Nat) (x : Mailbox) : (s.setMbox n x).b2ap = s.b2ap := rfl
@[simp] theorem State.setMbox_boot (s : State) (n : Nat) (x : Mailbox) : (s.setMbox n x).boot = s.boot := rfl
@[simp] theorem State.setMbox_channels (s : State) (n : Nat) (x : Mailbox) : (s.setMbox n x).channels = s.channels := rfl
@[simp] theorem State.setMbox_peer (s : State) (n : Nat) (x : Mailbox) : (s.setMbox n x).peer = s.peer := rfl
@[simp] theorem State.setMbox_fe (s : State) (n : Nat) (x : Mailbox) : (s.setMbox n x).fe = s.fe := rfl
@[simp] theorem State.setMbox_log (s : State) (n : Nat) (x : Mailbox) : (s.setMbox n x).log = s.log := rfl

@[simp] theorem State.setChannel_focus (s : State) (n : Nat) (x : Channel) : (s.setChannel n x).focus = s.focus := rfl
@[simp] theorem State.setChannel_tick (s : State) (n : Nat) (x : Channel) : (s.setChannel n x).tick = s.tick := rfl
@[simp] theorem State.setChannel_cur (s : State) (n : Nat) (x : Channel) : (s.setChannel n x).cur = s.cur := rfl
@[simp] theorem State.setChannel_curq (s : State) (n : Nat) (x : Channel) : (s.setChannel n x).curq = s.curq := rfl
@[simp] theorem State.setChannel_len (s : State) (n : Nat) (x : Channel) : (s.setChannel n x).len = s.len := rfl
@[simp] theorem State.setChannel_iaddr (s : State) (n : Nat) (x : Channel) : (s.setChannel n x).iaddr = s.iaddr := rfl
@[simp] theorem State.setChannel_ibits (s : State) (n : Nat) (x : Channel) : (s.setChannel n x).ibits = s.ibits := rfl
@[simp] theorem State.setChannel_follow (s : State) (n : Nat) (x : Channel) : (s.setChannel n x).follow = s.follow := rfl
@[simp] theorem State.setChannel_rlxScope (s : State) (n : Nat) (x : Channel) : (s.setChannel n x).rlxScope = s.rlxScope := rfl
@[simp] theorem State.setChannel_fresh (s : State) (n : Nat) (x : Channel) : (s.setChannel n x).fresh = s.fresh := rfl
@[simp] theorem State.setChannel_hostReads (s : State) (n : Nat) (x : Channel) : (s.setChannel n x).hostReads = s.hostReads := rfl
@[simp] theorem State.setChannel_msix (s : State) (n : Nat) (x : Channel) : (s.setChannel n x).msix = s.msix := rfl
@[simp] theorem State.setChannel_cycle (s : State) (n : Nat) (x : Channel) : (s.setChannel n x).cycle = s.cycle := rfl
@[simp] theorem State.setChannel_mem (s : State) (n : Nat) (x : Channel) : (s.setChannel n x).mem = s.mem := rfl
@[simp] theorem State.setChannel_poison (s : State) (n : Nat) (x : Channel) : (s.setChannel n x).poison = s.poison := rfl
@[simp] theorem State.setChannel_failing (s : State) (n : Nat) (x : Channel) : (s.setChannel n x).failing = s.failing := rfl
@[simp] theorem State.setChannel_ctxs (s : State) (n : Nat) (x : Channel) : (s.setChannel n x).ctxs = s.ctxs := rfl
@[simp] theorem State.setChannel_tiles (s : State) (n : Nat) (x : Channel) : (s.setChannel n x).tiles = s.tiles := rfl
@[simp] theorem State.setChannel_xaResv (s : State) (n : Nat) (x : Channel) : (s.setChannel n x).xaResv = s.xaResv := rfl
@[simp] theorem State.setChannel_xaWaits (s : State) (n : Nat) (x : Channel) : (s.setChannel n x).xaWaits = s.xaWaits := rfl
@[simp] theorem State.setChannel_net (s : State) (n : Nat) (x : Channel) : (s.setChannel n x).net = s.net := rfl
@[simp] theorem State.setChannel_queues (s : State) (n : Nat) (x : Channel) : (s.setChannel n x).queues = s.queues := rfl
@[simp] theorem State.setChannel_lastServed (s : State) (n : Nat) (x : Channel) : (s.setChannel n x).lastServed = s.lastServed := rfl
@[simp] theorem State.setChannel_serving (s : State) (n : Nat) (x : Channel) : (s.setChannel n x).serving = s.serving := rfl
@[simp] theorem State.setChannel_launches (s : State) (n : Nat) (x : Channel) : (s.setChannel n x).launches = s.launches := rfl
@[simp] theorem State.setChannel_tasks (s : State) (n : Nat) (x : Channel) : (s.setChannel n x).tasks = s.tasks := rfl
@[simp] theorem State.setChannel_saved (s : State) (n : Nat) (x : Channel) : (s.setChannel n x).saved = s.saved := rfl
@[simp] theorem State.setChannel_insts (s : State) (n : Nat) (x : Channel) : (s.setChannel n x).insts = s.insts := rfl
@[simp] theorem State.setChannel_dones (s : State) (n : Nat) (x : Channel) : (s.setChannel n x).dones = s.dones := rfl
@[simp] theorem State.setChannel_ended (s : State) (n : Nat) (x : Channel) : (s.setChannel n x).ended = s.ended := rfl
@[simp] theorem State.setChannel_tenants (s : State) (n : Nat) (x : Channel) : (s.setChannel n x).tenants = s.tenants := rfl
@[simp] theorem State.setChannel_tlb (s : State) (n : Nat) (x : Channel) : (s.setChannel n x).tlb = s.tlb := rfl
@[simp] theorem State.setChannel_walks (s : State) (n : Nat) (x : Channel) : (s.setChannel n x).walks = s.walks := rfl
@[simp] theorem State.setChannel_pools (s : State) (n : Nat) (x : Channel) : (s.setChannel n x).pools = s.pools := rfl
@[simp] theorem State.setChannel_wacc (s : State) (n : Nat) (x : Channel) : (s.setChannel n x).wacc = s.wacc := rfl
@[simp] theorem State.setChannel_atUnit (s : State) (n : Nat) (x : Channel) : (s.setChannel n x).atUnit = s.atUnit := rfl
@[simp] theorem State.setChannel_mailboxes (s : State) (n : Nat) (x : Channel) : (s.setChannel n x).mailboxes = s.mailboxes := rfl
@[simp] theorem State.setChannel_fnten (s : State) (n : Nat) (x : Channel) : (s.setChannel n x).fnten = s.fnten := rfl
@[simp] theorem State.setChannel_b2ap (s : State) (n : Nat) (x : Channel) : (s.setChannel n x).b2ap = s.b2ap := rfl
@[simp] theorem State.setChannel_boot (s : State) (n : Nat) (x : Channel) : (s.setChannel n x).boot = s.boot := rfl
@[simp] theorem State.setChannel_peer (s : State) (n : Nat) (x : Channel) : (s.setChannel n x).peer = s.peer := rfl
@[simp] theorem State.setChannel_fe (s : State) (n : Nat) (x : Channel) : (s.setChannel n x).fe = s.fe := rfl
@[simp] theorem State.setChannel_log (s : State) (n : Nat) (x : Channel) : (s.setChannel n x).log = s.log := rfl

@[simp] theorem State.setLaunch_focus (s : State) (l : Launch) : (s.setLaunch l).focus = s.focus := rfl
@[simp] theorem State.setLaunch_tick (s : State) (l : Launch) : (s.setLaunch l).tick = s.tick := rfl
@[simp] theorem State.setLaunch_cur (s : State) (l : Launch) : (s.setLaunch l).cur = s.cur := rfl
@[simp] theorem State.setLaunch_curq (s : State) (l : Launch) : (s.setLaunch l).curq = s.curq := rfl
@[simp] theorem State.setLaunch_len (s : State) (l : Launch) : (s.setLaunch l).len = s.len := rfl
@[simp] theorem State.setLaunch_iaddr (s : State) (l : Launch) : (s.setLaunch l).iaddr = s.iaddr := rfl
@[simp] theorem State.setLaunch_ibits (s : State) (l : Launch) : (s.setLaunch l).ibits = s.ibits := rfl
@[simp] theorem State.setLaunch_follow (s : State) (l : Launch) : (s.setLaunch l).follow = s.follow := rfl
@[simp] theorem State.setLaunch_rlxScope (s : State) (l : Launch) : (s.setLaunch l).rlxScope = s.rlxScope := rfl
@[simp] theorem State.setLaunch_fresh (s : State) (l : Launch) : (s.setLaunch l).fresh = s.fresh := rfl
@[simp] theorem State.setLaunch_hostReads (s : State) (l : Launch) : (s.setLaunch l).hostReads = s.hostReads := rfl
@[simp] theorem State.setLaunch_msix (s : State) (l : Launch) : (s.setLaunch l).msix = s.msix := rfl
@[simp] theorem State.setLaunch_cycle (s : State) (l : Launch) : (s.setLaunch l).cycle = s.cycle := rfl
@[simp] theorem State.setLaunch_mem (s : State) (l : Launch) : (s.setLaunch l).mem = s.mem := rfl
@[simp] theorem State.setLaunch_poison (s : State) (l : Launch) : (s.setLaunch l).poison = s.poison := rfl
@[simp] theorem State.setLaunch_failing (s : State) (l : Launch) : (s.setLaunch l).failing = s.failing := rfl
@[simp] theorem State.setLaunch_ctxs (s : State) (l : Launch) : (s.setLaunch l).ctxs = s.ctxs := rfl
@[simp] theorem State.setLaunch_tiles (s : State) (l : Launch) : (s.setLaunch l).tiles = s.tiles := rfl
@[simp] theorem State.setLaunch_xaResv (s : State) (l : Launch) : (s.setLaunch l).xaResv = s.xaResv := rfl
@[simp] theorem State.setLaunch_xaWaits (s : State) (l : Launch) : (s.setLaunch l).xaWaits = s.xaWaits := rfl
@[simp] theorem State.setLaunch_net (s : State) (l : Launch) : (s.setLaunch l).net = s.net := rfl
@[simp] theorem State.setLaunch_queues (s : State) (l : Launch) : (s.setLaunch l).queues = s.queues := rfl
@[simp] theorem State.setLaunch_lastServed (s : State) (l : Launch) : (s.setLaunch l).lastServed = s.lastServed := rfl
@[simp] theorem State.setLaunch_serving (s : State) (l : Launch) : (s.setLaunch l).serving = s.serving := rfl
@[simp] theorem State.setLaunch_tasks (s : State) (l : Launch) : (s.setLaunch l).tasks = s.tasks := rfl
@[simp] theorem State.setLaunch_saved (s : State) (l : Launch) : (s.setLaunch l).saved = s.saved := rfl
@[simp] theorem State.setLaunch_insts (s : State) (l : Launch) : (s.setLaunch l).insts = s.insts := rfl
@[simp] theorem State.setLaunch_dones (s : State) (l : Launch) : (s.setLaunch l).dones = s.dones := rfl
@[simp] theorem State.setLaunch_ended (s : State) (l : Launch) : (s.setLaunch l).ended = s.ended := rfl
@[simp] theorem State.setLaunch_tenants (s : State) (l : Launch) : (s.setLaunch l).tenants = s.tenants := rfl
@[simp] theorem State.setLaunch_tlb (s : State) (l : Launch) : (s.setLaunch l).tlb = s.tlb := rfl
@[simp] theorem State.setLaunch_walks (s : State) (l : Launch) : (s.setLaunch l).walks = s.walks := rfl
@[simp] theorem State.setLaunch_pools (s : State) (l : Launch) : (s.setLaunch l).pools = s.pools := rfl
@[simp] theorem State.setLaunch_wacc (s : State) (l : Launch) : (s.setLaunch l).wacc = s.wacc := rfl
@[simp] theorem State.setLaunch_atUnit (s : State) (l : Launch) : (s.setLaunch l).atUnit = s.atUnit := rfl
@[simp] theorem State.setLaunch_mailboxes (s : State) (l : Launch) : (s.setLaunch l).mailboxes = s.mailboxes := rfl
@[simp] theorem State.setLaunch_fnten (s : State) (l : Launch) : (s.setLaunch l).fnten = s.fnten := rfl
@[simp] theorem State.setLaunch_b2ap (s : State) (l : Launch) : (s.setLaunch l).b2ap = s.b2ap := rfl
@[simp] theorem State.setLaunch_boot (s : State) (l : Launch) : (s.setLaunch l).boot = s.boot := rfl
@[simp] theorem State.setLaunch_channels (s : State) (l : Launch) : (s.setLaunch l).channels = s.channels := rfl
@[simp] theorem State.setLaunch_peer (s : State) (l : Launch) : (s.setLaunch l).peer = s.peer := rfl
@[simp] theorem State.setLaunch_fe (s : State) (l : Launch) : (s.setLaunch l).fe = s.fe := rfl
@[simp] theorem State.setLaunch_log (s : State) (l : Launch) : (s.setLaunch l).log = s.log := rfl

@[simp] theorem State.setTask_focus (s : State) (k : Task) : (s.setTask k).focus = s.focus := rfl
@[simp] theorem State.setTask_tick (s : State) (k : Task) : (s.setTask k).tick = s.tick := rfl
@[simp] theorem State.setTask_cur (s : State) (k : Task) : (s.setTask k).cur = s.cur := rfl
@[simp] theorem State.setTask_curq (s : State) (k : Task) : (s.setTask k).curq = s.curq := rfl
@[simp] theorem State.setTask_len (s : State) (k : Task) : (s.setTask k).len = s.len := rfl
@[simp] theorem State.setTask_iaddr (s : State) (k : Task) : (s.setTask k).iaddr = s.iaddr := rfl
@[simp] theorem State.setTask_ibits (s : State) (k : Task) : (s.setTask k).ibits = s.ibits := rfl
@[simp] theorem State.setTask_follow (s : State) (k : Task) : (s.setTask k).follow = s.follow := rfl
@[simp] theorem State.setTask_rlxScope (s : State) (k : Task) : (s.setTask k).rlxScope = s.rlxScope := rfl
@[simp] theorem State.setTask_fresh (s : State) (k : Task) : (s.setTask k).fresh = s.fresh := rfl
@[simp] theorem State.setTask_hostReads (s : State) (k : Task) : (s.setTask k).hostReads = s.hostReads := rfl
@[simp] theorem State.setTask_msix (s : State) (k : Task) : (s.setTask k).msix = s.msix := rfl
@[simp] theorem State.setTask_cycle (s : State) (k : Task) : (s.setTask k).cycle = s.cycle := rfl
@[simp] theorem State.setTask_mem (s : State) (k : Task) : (s.setTask k).mem = s.mem := rfl
@[simp] theorem State.setTask_poison (s : State) (k : Task) : (s.setTask k).poison = s.poison := rfl
@[simp] theorem State.setTask_failing (s : State) (k : Task) : (s.setTask k).failing = s.failing := rfl
@[simp] theorem State.setTask_ctxs (s : State) (k : Task) : (s.setTask k).ctxs = s.ctxs := rfl
@[simp] theorem State.setTask_tiles (s : State) (k : Task) : (s.setTask k).tiles = s.tiles := rfl
@[simp] theorem State.setTask_xaResv (s : State) (k : Task) : (s.setTask k).xaResv = s.xaResv := rfl
@[simp] theorem State.setTask_xaWaits (s : State) (k : Task) : (s.setTask k).xaWaits = s.xaWaits := rfl
@[simp] theorem State.setTask_net (s : State) (k : Task) : (s.setTask k).net = s.net := rfl
@[simp] theorem State.setTask_queues (s : State) (k : Task) : (s.setTask k).queues = s.queues := rfl
@[simp] theorem State.setTask_lastServed (s : State) (k : Task) : (s.setTask k).lastServed = s.lastServed := rfl
@[simp] theorem State.setTask_serving (s : State) (k : Task) : (s.setTask k).serving = s.serving := rfl
@[simp] theorem State.setTask_launches (s : State) (k : Task) : (s.setTask k).launches = s.launches := rfl
@[simp] theorem State.setTask_saved (s : State) (k : Task) : (s.setTask k).saved = s.saved := rfl
@[simp] theorem State.setTask_insts (s : State) (k : Task) : (s.setTask k).insts = s.insts := rfl
@[simp] theorem State.setTask_dones (s : State) (k : Task) : (s.setTask k).dones = s.dones := rfl
@[simp] theorem State.setTask_ended (s : State) (k : Task) : (s.setTask k).ended = s.ended := rfl
@[simp] theorem State.setTask_tenants (s : State) (k : Task) : (s.setTask k).tenants = s.tenants := rfl
@[simp] theorem State.setTask_tlb (s : State) (k : Task) : (s.setTask k).tlb = s.tlb := rfl
@[simp] theorem State.setTask_walks (s : State) (k : Task) : (s.setTask k).walks = s.walks := rfl
@[simp] theorem State.setTask_pools (s : State) (k : Task) : (s.setTask k).pools = s.pools := rfl
@[simp] theorem State.setTask_wacc (s : State) (k : Task) : (s.setTask k).wacc = s.wacc := rfl
@[simp] theorem State.setTask_atUnit (s : State) (k : Task) : (s.setTask k).atUnit = s.atUnit := rfl
@[simp] theorem State.setTask_mailboxes (s : State) (k : Task) : (s.setTask k).mailboxes = s.mailboxes := rfl
@[simp] theorem State.setTask_fnten (s : State) (k : Task) : (s.setTask k).fnten = s.fnten := rfl
@[simp] theorem State.setTask_b2ap (s : State) (k : Task) : (s.setTask k).b2ap = s.b2ap := rfl
@[simp] theorem State.setTask_boot (s : State) (k : Task) : (s.setTask k).boot = s.boot := rfl
@[simp] theorem State.setTask_channels (s : State) (k : Task) : (s.setTask k).channels = s.channels := rfl
@[simp] theorem State.setTask_peer (s : State) (k : Task) : (s.setTask k).peer = s.peer := rfl
@[simp] theorem State.setTask_fe (s : State) (k : Task) : (s.setTask k).fe = s.fe := rfl
@[simp] theorem State.setTask_log (s : State) (k : Task) : (s.setTask k).log = s.log := rfl

@[simp] theorem State.storeBytes_focus (s : State) (loc : Nat) (bs : List Byte) : (s.storeBytes loc bs).focus = s.focus := rfl
@[simp] theorem State.storeBytes_tick (s : State) (loc : Nat) (bs : List Byte) : (s.storeBytes loc bs).tick = s.tick := rfl
@[simp] theorem State.storeBytes_cur (s : State) (loc : Nat) (bs : List Byte) : (s.storeBytes loc bs).cur = s.cur := rfl
@[simp] theorem State.storeBytes_curq (s : State) (loc : Nat) (bs : List Byte) : (s.storeBytes loc bs).curq = s.curq := rfl
@[simp] theorem State.storeBytes_len (s : State) (loc : Nat) (bs : List Byte) : (s.storeBytes loc bs).len = s.len := rfl
@[simp] theorem State.storeBytes_iaddr (s : State) (loc : Nat) (bs : List Byte) : (s.storeBytes loc bs).iaddr = s.iaddr := rfl
@[simp] theorem State.storeBytes_ibits (s : State) (loc : Nat) (bs : List Byte) : (s.storeBytes loc bs).ibits = s.ibits := rfl
@[simp] theorem State.storeBytes_follow (s : State) (loc : Nat) (bs : List Byte) : (s.storeBytes loc bs).follow = s.follow := rfl
@[simp] theorem State.storeBytes_rlxScope (s : State) (loc : Nat) (bs : List Byte) : (s.storeBytes loc bs).rlxScope = s.rlxScope := rfl
@[simp] theorem State.storeBytes_fresh (s : State) (loc : Nat) (bs : List Byte) : (s.storeBytes loc bs).fresh = s.fresh := rfl
@[simp] theorem State.storeBytes_hostReads (s : State) (loc : Nat) (bs : List Byte) : (s.storeBytes loc bs).hostReads = s.hostReads := rfl
@[simp] theorem State.storeBytes_msix (s : State) (loc : Nat) (bs : List Byte) : (s.storeBytes loc bs).msix = s.msix := rfl
@[simp] theorem State.storeBytes_cycle (s : State) (loc : Nat) (bs : List Byte) : (s.storeBytes loc bs).cycle = s.cycle := rfl
@[simp] theorem State.storeBytes_ctxs (s : State) (loc : Nat) (bs : List Byte) : (s.storeBytes loc bs).ctxs = s.ctxs := rfl
@[simp] theorem State.storeBytes_tiles (s : State) (loc : Nat) (bs : List Byte) : (s.storeBytes loc bs).tiles = s.tiles := rfl
@[simp] theorem State.storeBytes_xaResv (s : State) (loc : Nat) (bs : List Byte) : (s.storeBytes loc bs).xaResv = s.xaResv := rfl
@[simp] theorem State.storeBytes_xaWaits (s : State) (loc : Nat) (bs : List Byte) : (s.storeBytes loc bs).xaWaits = s.xaWaits := rfl
@[simp] theorem State.storeBytes_net (s : State) (loc : Nat) (bs : List Byte) : (s.storeBytes loc bs).net = s.net := rfl
@[simp] theorem State.storeBytes_queues (s : State) (loc : Nat) (bs : List Byte) : (s.storeBytes loc bs).queues = s.queues := rfl
@[simp] theorem State.storeBytes_lastServed (s : State) (loc : Nat) (bs : List Byte) : (s.storeBytes loc bs).lastServed = s.lastServed := rfl
@[simp] theorem State.storeBytes_serving (s : State) (loc : Nat) (bs : List Byte) : (s.storeBytes loc bs).serving = s.serving := rfl
@[simp] theorem State.storeBytes_launches (s : State) (loc : Nat) (bs : List Byte) : (s.storeBytes loc bs).launches = s.launches := rfl
@[simp] theorem State.storeBytes_tasks (s : State) (loc : Nat) (bs : List Byte) : (s.storeBytes loc bs).tasks = s.tasks := rfl
@[simp] theorem State.storeBytes_saved (s : State) (loc : Nat) (bs : List Byte) : (s.storeBytes loc bs).saved = s.saved := rfl
@[simp] theorem State.storeBytes_insts (s : State) (loc : Nat) (bs : List Byte) : (s.storeBytes loc bs).insts = s.insts := rfl
@[simp] theorem State.storeBytes_dones (s : State) (loc : Nat) (bs : List Byte) : (s.storeBytes loc bs).dones = s.dones := rfl
@[simp] theorem State.storeBytes_ended (s : State) (loc : Nat) (bs : List Byte) : (s.storeBytes loc bs).ended = s.ended := rfl
@[simp] theorem State.storeBytes_tenants (s : State) (loc : Nat) (bs : List Byte) : (s.storeBytes loc bs).tenants = s.tenants := rfl
@[simp] theorem State.storeBytes_tlb (s : State) (loc : Nat) (bs : List Byte) : (s.storeBytes loc bs).tlb = s.tlb := rfl
@[simp] theorem State.storeBytes_walks (s : State) (loc : Nat) (bs : List Byte) : (s.storeBytes loc bs).walks = s.walks := rfl
@[simp] theorem State.storeBytes_pools (s : State) (loc : Nat) (bs : List Byte) : (s.storeBytes loc bs).pools = s.pools := rfl
@[simp] theorem State.storeBytes_wacc (s : State) (loc : Nat) (bs : List Byte) : (s.storeBytes loc bs).wacc = s.wacc := rfl
@[simp] theorem State.storeBytes_atUnit (s : State) (loc : Nat) (bs : List Byte) : (s.storeBytes loc bs).atUnit = s.atUnit := rfl
@[simp] theorem State.storeBytes_mailboxes (s : State) (loc : Nat) (bs : List Byte) : (s.storeBytes loc bs).mailboxes = s.mailboxes := rfl
@[simp] theorem State.storeBytes_fnten (s : State) (loc : Nat) (bs : List Byte) : (s.storeBytes loc bs).fnten = s.fnten := rfl
@[simp] theorem State.storeBytes_b2ap (s : State) (loc : Nat) (bs : List Byte) : (s.storeBytes loc bs).b2ap = s.b2ap := rfl
@[simp] theorem State.storeBytes_boot (s : State) (loc : Nat) (bs : List Byte) : (s.storeBytes loc bs).boot = s.boot := rfl
@[simp] theorem State.storeBytes_channels (s : State) (loc : Nat) (bs : List Byte) : (s.storeBytes loc bs).channels = s.channels := rfl
@[simp] theorem State.storeBytes_peer (s : State) (loc : Nat) (bs : List Byte) : (s.storeBytes loc bs).peer = s.peer := rfl
@[simp] theorem State.storeBytes_fe (s : State) (loc : Nat) (bs : List Byte) : (s.storeBytes loc bs).fe = s.fe := rfl
@[simp] theorem State.storeBytes_log (s : State) (loc : Nat) (bs : List Byte) : (s.storeBytes loc bs).log = s.log := rfl

@[simp] theorem State.store_focus (s : State) (loc n v : Nat) : (s.store loc n v).focus = s.focus := rfl
@[simp] theorem State.store_tick (s : State) (loc n v : Nat) : (s.store loc n v).tick = s.tick := rfl
@[simp] theorem State.store_cur (s : State) (loc n v : Nat) : (s.store loc n v).cur = s.cur := rfl
@[simp] theorem State.store_curq (s : State) (loc n v : Nat) : (s.store loc n v).curq = s.curq := rfl
@[simp] theorem State.store_len (s : State) (loc n v : Nat) : (s.store loc n v).len = s.len := rfl
@[simp] theorem State.store_iaddr (s : State) (loc n v : Nat) : (s.store loc n v).iaddr = s.iaddr := rfl
@[simp] theorem State.store_ibits (s : State) (loc n v : Nat) : (s.store loc n v).ibits = s.ibits := rfl
@[simp] theorem State.store_follow (s : State) (loc n v : Nat) : (s.store loc n v).follow = s.follow := rfl
@[simp] theorem State.store_rlxScope (s : State) (loc n v : Nat) : (s.store loc n v).rlxScope = s.rlxScope := rfl
@[simp] theorem State.store_fresh (s : State) (loc n v : Nat) : (s.store loc n v).fresh = s.fresh := rfl
@[simp] theorem State.store_hostReads (s : State) (loc n v : Nat) : (s.store loc n v).hostReads = s.hostReads := rfl
@[simp] theorem State.store_msix (s : State) (loc n v : Nat) : (s.store loc n v).msix = s.msix := rfl
@[simp] theorem State.store_cycle (s : State) (loc n v : Nat) : (s.store loc n v).cycle = s.cycle := rfl
@[simp] theorem State.store_ctxs (s : State) (loc n v : Nat) : (s.store loc n v).ctxs = s.ctxs := rfl
@[simp] theorem State.store_tiles (s : State) (loc n v : Nat) : (s.store loc n v).tiles = s.tiles := rfl
@[simp] theorem State.store_xaResv (s : State) (loc n v : Nat) : (s.store loc n v).xaResv = s.xaResv := rfl
@[simp] theorem State.store_xaWaits (s : State) (loc n v : Nat) : (s.store loc n v).xaWaits = s.xaWaits := rfl
@[simp] theorem State.store_net (s : State) (loc n v : Nat) : (s.store loc n v).net = s.net := rfl
@[simp] theorem State.store_queues (s : State) (loc n v : Nat) : (s.store loc n v).queues = s.queues := rfl
@[simp] theorem State.store_lastServed (s : State) (loc n v : Nat) : (s.store loc n v).lastServed = s.lastServed := rfl
@[simp] theorem State.store_serving (s : State) (loc n v : Nat) : (s.store loc n v).serving = s.serving := rfl
@[simp] theorem State.store_launches (s : State) (loc n v : Nat) : (s.store loc n v).launches = s.launches := rfl
@[simp] theorem State.store_tasks (s : State) (loc n v : Nat) : (s.store loc n v).tasks = s.tasks := rfl
@[simp] theorem State.store_saved (s : State) (loc n v : Nat) : (s.store loc n v).saved = s.saved := rfl
@[simp] theorem State.store_insts (s : State) (loc n v : Nat) : (s.store loc n v).insts = s.insts := rfl
@[simp] theorem State.store_dones (s : State) (loc n v : Nat) : (s.store loc n v).dones = s.dones := rfl
@[simp] theorem State.store_ended (s : State) (loc n v : Nat) : (s.store loc n v).ended = s.ended := rfl
@[simp] theorem State.store_tenants (s : State) (loc n v : Nat) : (s.store loc n v).tenants = s.tenants := rfl
@[simp] theorem State.store_tlb (s : State) (loc n v : Nat) : (s.store loc n v).tlb = s.tlb := rfl
@[simp] theorem State.store_walks (s : State) (loc n v : Nat) : (s.store loc n v).walks = s.walks := rfl
@[simp] theorem State.store_pools (s : State) (loc n v : Nat) : (s.store loc n v).pools = s.pools := rfl
@[simp] theorem State.store_wacc (s : State) (loc n v : Nat) : (s.store loc n v).wacc = s.wacc := rfl
@[simp] theorem State.store_atUnit (s : State) (loc n v : Nat) : (s.store loc n v).atUnit = s.atUnit := rfl
@[simp] theorem State.store_mailboxes (s : State) (loc n v : Nat) : (s.store loc n v).mailboxes = s.mailboxes := rfl
@[simp] theorem State.store_fnten (s : State) (loc n v : Nat) : (s.store loc n v).fnten = s.fnten := rfl
@[simp] theorem State.store_b2ap (s : State) (loc n v : Nat) : (s.store loc n v).b2ap = s.b2ap := rfl
@[simp] theorem State.store_boot (s : State) (loc n v : Nat) : (s.store loc n v).boot = s.boot := rfl
@[simp] theorem State.store_channels (s : State) (loc n v : Nat) : (s.store loc n v).channels = s.channels := rfl
@[simp] theorem State.store_peer (s : State) (loc n v : Nat) : (s.store loc n v).peer = s.peer := rfl
@[simp] theorem State.store_fe (s : State) (loc n v : Nat) : (s.store loc n v).fe = s.fe := rfl
@[simp] theorem State.store_log (s : State) (loc n v : Nat) : (s.store loc n v).log = s.log := rfl

@[simp] theorem State.setTag_focus (s : State) (loc : Nat) (full : Bool) : (s.setTag loc full).focus = s.focus := rfl
@[simp] theorem State.setTag_tick (s : State) (loc : Nat) (full : Bool) : (s.setTag loc full).tick = s.tick := rfl
@[simp] theorem State.setTag_cur (s : State) (loc : Nat) (full : Bool) : (s.setTag loc full).cur = s.cur := rfl
@[simp] theorem State.setTag_curq (s : State) (loc : Nat) (full : Bool) : (s.setTag loc full).curq = s.curq := rfl
@[simp] theorem State.setTag_len (s : State) (loc : Nat) (full : Bool) : (s.setTag loc full).len = s.len := rfl
@[simp] theorem State.setTag_iaddr (s : State) (loc : Nat) (full : Bool) : (s.setTag loc full).iaddr = s.iaddr := rfl
@[simp] theorem State.setTag_ibits (s : State) (loc : Nat) (full : Bool) : (s.setTag loc full).ibits = s.ibits := rfl
@[simp] theorem State.setTag_follow (s : State) (loc : Nat) (full : Bool) : (s.setTag loc full).follow = s.follow := rfl
@[simp] theorem State.setTag_rlxScope (s : State) (loc : Nat) (full : Bool) : (s.setTag loc full).rlxScope = s.rlxScope := rfl
@[simp] theorem State.setTag_fresh (s : State) (loc : Nat) (full : Bool) : (s.setTag loc full).fresh = s.fresh := rfl
@[simp] theorem State.setTag_hostReads (s : State) (loc : Nat) (full : Bool) : (s.setTag loc full).hostReads = s.hostReads := rfl
@[simp] theorem State.setTag_msix (s : State) (loc : Nat) (full : Bool) : (s.setTag loc full).msix = s.msix := rfl
@[simp] theorem State.setTag_cycle (s : State) (loc : Nat) (full : Bool) : (s.setTag loc full).cycle = s.cycle := rfl
@[simp] theorem State.setTag_mem (s : State) (loc : Nat) (full : Bool) : (s.setTag loc full).mem = s.mem := rfl
@[simp] theorem State.setTag_poison (s : State) (loc : Nat) (full : Bool) : (s.setTag loc full).poison = s.poison := rfl
@[simp] theorem State.setTag_failing (s : State) (loc : Nat) (full : Bool) : (s.setTag loc full).failing = s.failing := rfl
@[simp] theorem State.setTag_ctxs (s : State) (loc : Nat) (full : Bool) : (s.setTag loc full).ctxs = s.ctxs := rfl
@[simp] theorem State.setTag_xaResv (s : State) (loc : Nat) (full : Bool) : (s.setTag loc full).xaResv = s.xaResv := rfl
@[simp] theorem State.setTag_xaWaits (s : State) (loc : Nat) (full : Bool) : (s.setTag loc full).xaWaits = s.xaWaits := rfl
@[simp] theorem State.setTag_net (s : State) (loc : Nat) (full : Bool) : (s.setTag loc full).net = s.net := rfl
@[simp] theorem State.setTag_queues (s : State) (loc : Nat) (full : Bool) : (s.setTag loc full).queues = s.queues := rfl
@[simp] theorem State.setTag_lastServed (s : State) (loc : Nat) (full : Bool) : (s.setTag loc full).lastServed = s.lastServed := rfl
@[simp] theorem State.setTag_serving (s : State) (loc : Nat) (full : Bool) : (s.setTag loc full).serving = s.serving := rfl
@[simp] theorem State.setTag_launches (s : State) (loc : Nat) (full : Bool) : (s.setTag loc full).launches = s.launches := rfl
@[simp] theorem State.setTag_tasks (s : State) (loc : Nat) (full : Bool) : (s.setTag loc full).tasks = s.tasks := rfl
@[simp] theorem State.setTag_saved (s : State) (loc : Nat) (full : Bool) : (s.setTag loc full).saved = s.saved := rfl
@[simp] theorem State.setTag_insts (s : State) (loc : Nat) (full : Bool) : (s.setTag loc full).insts = s.insts := rfl
@[simp] theorem State.setTag_dones (s : State) (loc : Nat) (full : Bool) : (s.setTag loc full).dones = s.dones := rfl
@[simp] theorem State.setTag_ended (s : State) (loc : Nat) (full : Bool) : (s.setTag loc full).ended = s.ended := rfl
@[simp] theorem State.setTag_tenants (s : State) (loc : Nat) (full : Bool) : (s.setTag loc full).tenants = s.tenants := rfl
@[simp] theorem State.setTag_tlb (s : State) (loc : Nat) (full : Bool) : (s.setTag loc full).tlb = s.tlb := rfl
@[simp] theorem State.setTag_walks (s : State) (loc : Nat) (full : Bool) : (s.setTag loc full).walks = s.walks := rfl
@[simp] theorem State.setTag_pools (s : State) (loc : Nat) (full : Bool) : (s.setTag loc full).pools = s.pools := rfl
@[simp] theorem State.setTag_wacc (s : State) (loc : Nat) (full : Bool) : (s.setTag loc full).wacc = s.wacc := rfl
@[simp] theorem State.setTag_atUnit (s : State) (loc : Nat) (full : Bool) : (s.setTag loc full).atUnit = s.atUnit := rfl
@[simp] theorem State.setTag_mailboxes (s : State) (loc : Nat) (full : Bool) : (s.setTag loc full).mailboxes = s.mailboxes := rfl
@[simp] theorem State.setTag_fnten (s : State) (loc : Nat) (full : Bool) : (s.setTag loc full).fnten = s.fnten := rfl
@[simp] theorem State.setTag_b2ap (s : State) (loc : Nat) (full : Bool) : (s.setTag loc full).b2ap = s.b2ap := rfl
@[simp] theorem State.setTag_boot (s : State) (loc : Nat) (full : Bool) : (s.setTag loc full).boot = s.boot := rfl
@[simp] theorem State.setTag_channels (s : State) (loc : Nat) (full : Bool) : (s.setTag loc full).channels = s.channels := rfl
@[simp] theorem State.setTag_peer (s : State) (loc : Nat) (full : Bool) : (s.setTag loc full).peer = s.peer := rfl
@[simp] theorem State.setTag_fe (s : State) (loc : Nat) (full : Bool) : (s.setTag loc full).fe = s.fe := rfl
@[simp] theorem State.setTag_log (s : State) (loc : Nat) (full : Bool) : (s.setTag loc full).log = s.log := rfl

@[simp] theorem State.send_focus (s : State) (m : Msg) : (s.send m).focus = s.focus := rfl
@[simp] theorem State.send_tick (s : State) (m : Msg) : (s.send m).tick = s.tick := rfl
@[simp] theorem State.send_cur (s : State) (m : Msg) : (s.send m).cur = s.cur := rfl
@[simp] theorem State.send_curq (s : State) (m : Msg) : (s.send m).curq = s.curq := rfl
@[simp] theorem State.send_len (s : State) (m : Msg) : (s.send m).len = s.len := rfl
@[simp] theorem State.send_iaddr (s : State) (m : Msg) : (s.send m).iaddr = s.iaddr := rfl
@[simp] theorem State.send_ibits (s : State) (m : Msg) : (s.send m).ibits = s.ibits := rfl
@[simp] theorem State.send_follow (s : State) (m : Msg) : (s.send m).follow = s.follow := rfl
@[simp] theorem State.send_rlxScope (s : State) (m : Msg) : (s.send m).rlxScope = s.rlxScope := rfl
@[simp] theorem State.send_fresh (s : State) (m : Msg) : (s.send m).fresh = s.fresh := rfl
@[simp] theorem State.send_hostReads (s : State) (m : Msg) : (s.send m).hostReads = s.hostReads := rfl
@[simp] theorem State.send_msix (s : State) (m : Msg) : (s.send m).msix = s.msix := rfl
@[simp] theorem State.send_cycle (s : State) (m : Msg) : (s.send m).cycle = s.cycle := rfl
@[simp] theorem State.send_mem (s : State) (m : Msg) : (s.send m).mem = s.mem := rfl
@[simp] theorem State.send_poison (s : State) (m : Msg) : (s.send m).poison = s.poison := rfl
@[simp] theorem State.send_failing (s : State) (m : Msg) : (s.send m).failing = s.failing := rfl
@[simp] theorem State.send_ctxs (s : State) (m : Msg) : (s.send m).ctxs = s.ctxs := rfl
@[simp] theorem State.send_tiles (s : State) (m : Msg) : (s.send m).tiles = s.tiles := rfl
@[simp] theorem State.send_xaResv (s : State) (m : Msg) : (s.send m).xaResv = s.xaResv := rfl
@[simp] theorem State.send_xaWaits (s : State) (m : Msg) : (s.send m).xaWaits = s.xaWaits := rfl
@[simp] theorem State.send_queues (s : State) (m : Msg) : (s.send m).queues = s.queues := rfl
@[simp] theorem State.send_lastServed (s : State) (m : Msg) : (s.send m).lastServed = s.lastServed := rfl
@[simp] theorem State.send_serving (s : State) (m : Msg) : (s.send m).serving = s.serving := rfl
@[simp] theorem State.send_launches (s : State) (m : Msg) : (s.send m).launches = s.launches := rfl
@[simp] theorem State.send_tasks (s : State) (m : Msg) : (s.send m).tasks = s.tasks := rfl
@[simp] theorem State.send_saved (s : State) (m : Msg) : (s.send m).saved = s.saved := rfl
@[simp] theorem State.send_insts (s : State) (m : Msg) : (s.send m).insts = s.insts := rfl
@[simp] theorem State.send_dones (s : State) (m : Msg) : (s.send m).dones = s.dones := rfl
@[simp] theorem State.send_ended (s : State) (m : Msg) : (s.send m).ended = s.ended := rfl
@[simp] theorem State.send_tenants (s : State) (m : Msg) : (s.send m).tenants = s.tenants := rfl
@[simp] theorem State.send_tlb (s : State) (m : Msg) : (s.send m).tlb = s.tlb := rfl
@[simp] theorem State.send_walks (s : State) (m : Msg) : (s.send m).walks = s.walks := rfl
@[simp] theorem State.send_pools (s : State) (m : Msg) : (s.send m).pools = s.pools := rfl
@[simp] theorem State.send_wacc (s : State) (m : Msg) : (s.send m).wacc = s.wacc := rfl
@[simp] theorem State.send_atUnit (s : State) (m : Msg) : (s.send m).atUnit = s.atUnit := rfl
@[simp] theorem State.send_mailboxes (s : State) (m : Msg) : (s.send m).mailboxes = s.mailboxes := rfl
@[simp] theorem State.send_fnten (s : State) (m : Msg) : (s.send m).fnten = s.fnten := rfl
@[simp] theorem State.send_b2ap (s : State) (m : Msg) : (s.send m).b2ap = s.b2ap := rfl
@[simp] theorem State.send_boot (s : State) (m : Msg) : (s.send m).boot = s.boot := rfl
@[simp] theorem State.send_channels (s : State) (m : Msg) : (s.send m).channels = s.channels := rfl
@[simp] theorem State.send_peer (s : State) (m : Msg) : (s.send m).peer = s.peer := rfl
@[simp] theorem State.send_fe (s : State) (m : Msg) : (s.send m).fe = s.fe := rfl
@[simp] theorem State.send_log (s : State) (m : Msg) : (s.send m).log = s.log := rfl

@[simp] theorem State.msi_focus (s : State) (fn vec : Nat) : (s.msi fn vec).focus = s.focus := rfl
@[simp] theorem State.msi_tick (s : State) (fn vec : Nat) : (s.msi fn vec).tick = s.tick := rfl
@[simp] theorem State.msi_cur (s : State) (fn vec : Nat) : (s.msi fn vec).cur = s.cur := rfl
@[simp] theorem State.msi_curq (s : State) (fn vec : Nat) : (s.msi fn vec).curq = s.curq := rfl
@[simp] theorem State.msi_len (s : State) (fn vec : Nat) : (s.msi fn vec).len = s.len := rfl
@[simp] theorem State.msi_iaddr (s : State) (fn vec : Nat) : (s.msi fn vec).iaddr = s.iaddr := rfl
@[simp] theorem State.msi_ibits (s : State) (fn vec : Nat) : (s.msi fn vec).ibits = s.ibits := rfl
@[simp] theorem State.msi_follow (s : State) (fn vec : Nat) : (s.msi fn vec).follow = s.follow := rfl
@[simp] theorem State.msi_rlxScope (s : State) (fn vec : Nat) : (s.msi fn vec).rlxScope = s.rlxScope := rfl
@[simp] theorem State.msi_fresh (s : State) (fn vec : Nat) : (s.msi fn vec).fresh = s.fresh := rfl
@[simp] theorem State.msi_hostReads (s : State) (fn vec : Nat) : (s.msi fn vec).hostReads = s.hostReads := rfl
@[simp] theorem State.msi_cycle (s : State) (fn vec : Nat) : (s.msi fn vec).cycle = s.cycle := rfl
@[simp] theorem State.msi_mem (s : State) (fn vec : Nat) : (s.msi fn vec).mem = s.mem := rfl
@[simp] theorem State.msi_poison (s : State) (fn vec : Nat) : (s.msi fn vec).poison = s.poison := rfl
@[simp] theorem State.msi_failing (s : State) (fn vec : Nat) : (s.msi fn vec).failing = s.failing := rfl
@[simp] theorem State.msi_ctxs (s : State) (fn vec : Nat) : (s.msi fn vec).ctxs = s.ctxs := rfl
@[simp] theorem State.msi_tiles (s : State) (fn vec : Nat) : (s.msi fn vec).tiles = s.tiles := rfl
@[simp] theorem State.msi_xaResv (s : State) (fn vec : Nat) : (s.msi fn vec).xaResv = s.xaResv := rfl
@[simp] theorem State.msi_xaWaits (s : State) (fn vec : Nat) : (s.msi fn vec).xaWaits = s.xaWaits := rfl
@[simp] theorem State.msi_net (s : State) (fn vec : Nat) : (s.msi fn vec).net = s.net := rfl
@[simp] theorem State.msi_queues (s : State) (fn vec : Nat) : (s.msi fn vec).queues = s.queues := rfl
@[simp] theorem State.msi_lastServed (s : State) (fn vec : Nat) : (s.msi fn vec).lastServed = s.lastServed := rfl
@[simp] theorem State.msi_serving (s : State) (fn vec : Nat) : (s.msi fn vec).serving = s.serving := rfl
@[simp] theorem State.msi_launches (s : State) (fn vec : Nat) : (s.msi fn vec).launches = s.launches := rfl
@[simp] theorem State.msi_tasks (s : State) (fn vec : Nat) : (s.msi fn vec).tasks = s.tasks := rfl
@[simp] theorem State.msi_saved (s : State) (fn vec : Nat) : (s.msi fn vec).saved = s.saved := rfl
@[simp] theorem State.msi_insts (s : State) (fn vec : Nat) : (s.msi fn vec).insts = s.insts := rfl
@[simp] theorem State.msi_dones (s : State) (fn vec : Nat) : (s.msi fn vec).dones = s.dones := rfl
@[simp] theorem State.msi_ended (s : State) (fn vec : Nat) : (s.msi fn vec).ended = s.ended := rfl
@[simp] theorem State.msi_tenants (s : State) (fn vec : Nat) : (s.msi fn vec).tenants = s.tenants := rfl
@[simp] theorem State.msi_tlb (s : State) (fn vec : Nat) : (s.msi fn vec).tlb = s.tlb := rfl
@[simp] theorem State.msi_walks (s : State) (fn vec : Nat) : (s.msi fn vec).walks = s.walks := rfl
@[simp] theorem State.msi_pools (s : State) (fn vec : Nat) : (s.msi fn vec).pools = s.pools := rfl
@[simp] theorem State.msi_wacc (s : State) (fn vec : Nat) : (s.msi fn vec).wacc = s.wacc := rfl
@[simp] theorem State.msi_atUnit (s : State) (fn vec : Nat) : (s.msi fn vec).atUnit = s.atUnit := rfl
@[simp] theorem State.msi_mailboxes (s : State) (fn vec : Nat) : (s.msi fn vec).mailboxes = s.mailboxes := rfl
@[simp] theorem State.msi_fnten (s : State) (fn vec : Nat) : (s.msi fn vec).fnten = s.fnten := rfl
@[simp] theorem State.msi_b2ap (s : State) (fn vec : Nat) : (s.msi fn vec).b2ap = s.b2ap := rfl
@[simp] theorem State.msi_boot (s : State) (fn vec : Nat) : (s.msi fn vec).boot = s.boot := rfl
@[simp] theorem State.msi_channels (s : State) (fn vec : Nat) : (s.msi fn vec).channels = s.channels := rfl
@[simp] theorem State.msi_peer (s : State) (fn vec : Nat) : (s.msi fn vec).peer = s.peer := rfl
@[simp] theorem State.msi_fe (s : State) (fn vec : Nat) : (s.msi fn vec).fe = s.fe := rfl
@[simp] theorem State.msi_log (s : State) (fn vec : Nat) : (s.msi fn vec).log = s.log := rfl

@[simp] theorem State.drawn_focus (s : State) : (s.drawn).focus = s.focus := rfl
@[simp] theorem State.drawn_cur (s : State) : (s.drawn).cur = s.cur := rfl
@[simp] theorem State.drawn_curq (s : State) : (s.drawn).curq = s.curq := rfl
@[simp] theorem State.drawn_len (s : State) : (s.drawn).len = s.len := rfl
@[simp] theorem State.drawn_iaddr (s : State) : (s.drawn).iaddr = s.iaddr := rfl
@[simp] theorem State.drawn_ibits (s : State) : (s.drawn).ibits = s.ibits := rfl
@[simp] theorem State.drawn_follow (s : State) : (s.drawn).follow = s.follow := rfl
@[simp] theorem State.drawn_rlxScope (s : State) : (s.drawn).rlxScope = s.rlxScope := rfl
@[simp] theorem State.drawn_fresh (s : State) : (s.drawn).fresh = s.fresh := rfl
@[simp] theorem State.drawn_hostReads (s : State) : (s.drawn).hostReads = s.hostReads := rfl
@[simp] theorem State.drawn_msix (s : State) : (s.drawn).msix = s.msix := rfl
@[simp] theorem State.drawn_cycle (s : State) : (s.drawn).cycle = s.cycle := rfl
@[simp] theorem State.drawn_mem (s : State) : (s.drawn).mem = s.mem := rfl
@[simp] theorem State.drawn_poison (s : State) : (s.drawn).poison = s.poison := rfl
@[simp] theorem State.drawn_failing (s : State) : (s.drawn).failing = s.failing := rfl
@[simp] theorem State.drawn_ctxs (s : State) : (s.drawn).ctxs = s.ctxs := rfl
@[simp] theorem State.drawn_tiles (s : State) : (s.drawn).tiles = s.tiles := rfl
@[simp] theorem State.drawn_xaResv (s : State) : (s.drawn).xaResv = s.xaResv := rfl
@[simp] theorem State.drawn_xaWaits (s : State) : (s.drawn).xaWaits = s.xaWaits := rfl
@[simp] theorem State.drawn_net (s : State) : (s.drawn).net = s.net := rfl
@[simp] theorem State.drawn_queues (s : State) : (s.drawn).queues = s.queues := rfl
@[simp] theorem State.drawn_lastServed (s : State) : (s.drawn).lastServed = s.lastServed := rfl
@[simp] theorem State.drawn_serving (s : State) : (s.drawn).serving = s.serving := rfl
@[simp] theorem State.drawn_launches (s : State) : (s.drawn).launches = s.launches := rfl
@[simp] theorem State.drawn_tasks (s : State) : (s.drawn).tasks = s.tasks := rfl
@[simp] theorem State.drawn_saved (s : State) : (s.drawn).saved = s.saved := rfl
@[simp] theorem State.drawn_insts (s : State) : (s.drawn).insts = s.insts := rfl
@[simp] theorem State.drawn_dones (s : State) : (s.drawn).dones = s.dones := rfl
@[simp] theorem State.drawn_ended (s : State) : (s.drawn).ended = s.ended := rfl
@[simp] theorem State.drawn_tenants (s : State) : (s.drawn).tenants = s.tenants := rfl
@[simp] theorem State.drawn_tlb (s : State) : (s.drawn).tlb = s.tlb := rfl
@[simp] theorem State.drawn_walks (s : State) : (s.drawn).walks = s.walks := rfl
@[simp] theorem State.drawn_pools (s : State) : (s.drawn).pools = s.pools := rfl
@[simp] theorem State.drawn_wacc (s : State) : (s.drawn).wacc = s.wacc := rfl
@[simp] theorem State.drawn_atUnit (s : State) : (s.drawn).atUnit = s.atUnit := rfl
@[simp] theorem State.drawn_mailboxes (s : State) : (s.drawn).mailboxes = s.mailboxes := rfl
@[simp] theorem State.drawn_fnten (s : State) : (s.drawn).fnten = s.fnten := rfl
@[simp] theorem State.drawn_b2ap (s : State) : (s.drawn).b2ap = s.b2ap := rfl
@[simp] theorem State.drawn_boot (s : State) : (s.drawn).boot = s.boot := rfl
@[simp] theorem State.drawn_channels (s : State) : (s.drawn).channels = s.channels := rfl
@[simp] theorem State.drawn_peer (s : State) : (s.drawn).peer = s.peer := rfl
@[simp] theorem State.drawn_fe (s : State) : (s.drawn).fe = s.fe := rfl
@[simp] theorem State.drawn_log (s : State) : (s.drawn).log = s.log := rfl

@[simp] theorem State.unscoped_focus (s : State) : (s.unscoped).focus = s.focus := rfl
@[simp] theorem State.unscoped_tick (s : State) : (s.unscoped).tick = s.tick := rfl
@[simp] theorem State.unscoped_cur (s : State) : (s.unscoped).cur = s.cur := rfl
@[simp] theorem State.unscoped_curq (s : State) : (s.unscoped).curq = s.curq := rfl
@[simp] theorem State.unscoped_len (s : State) : (s.unscoped).len = s.len := rfl
@[simp] theorem State.unscoped_iaddr (s : State) : (s.unscoped).iaddr = s.iaddr := rfl
@[simp] theorem State.unscoped_ibits (s : State) : (s.unscoped).ibits = s.ibits := rfl
@[simp] theorem State.unscoped_follow (s : State) : (s.unscoped).follow = s.follow := rfl
@[simp] theorem State.unscoped_fresh (s : State) : (s.unscoped).fresh = s.fresh := rfl
@[simp] theorem State.unscoped_hostReads (s : State) : (s.unscoped).hostReads = s.hostReads := rfl
@[simp] theorem State.unscoped_msix (s : State) : (s.unscoped).msix = s.msix := rfl
@[simp] theorem State.unscoped_cycle (s : State) : (s.unscoped).cycle = s.cycle := rfl
@[simp] theorem State.unscoped_mem (s : State) : (s.unscoped).mem = s.mem := rfl
@[simp] theorem State.unscoped_poison (s : State) : (s.unscoped).poison = s.poison := rfl
@[simp] theorem State.unscoped_failing (s : State) : (s.unscoped).failing = s.failing := rfl
@[simp] theorem State.unscoped_ctxs (s : State) : (s.unscoped).ctxs = s.ctxs := rfl
@[simp] theorem State.unscoped_tiles (s : State) : (s.unscoped).tiles = s.tiles := rfl
@[simp] theorem State.unscoped_xaResv (s : State) : (s.unscoped).xaResv = s.xaResv := rfl
@[simp] theorem State.unscoped_xaWaits (s : State) : (s.unscoped).xaWaits = s.xaWaits := rfl
@[simp] theorem State.unscoped_net (s : State) : (s.unscoped).net = s.net := rfl
@[simp] theorem State.unscoped_queues (s : State) : (s.unscoped).queues = s.queues := rfl
@[simp] theorem State.unscoped_lastServed (s : State) : (s.unscoped).lastServed = s.lastServed := rfl
@[simp] theorem State.unscoped_serving (s : State) : (s.unscoped).serving = s.serving := rfl
@[simp] theorem State.unscoped_launches (s : State) : (s.unscoped).launches = s.launches := rfl
@[simp] theorem State.unscoped_tasks (s : State) : (s.unscoped).tasks = s.tasks := rfl
@[simp] theorem State.unscoped_saved (s : State) : (s.unscoped).saved = s.saved := rfl
@[simp] theorem State.unscoped_insts (s : State) : (s.unscoped).insts = s.insts := rfl
@[simp] theorem State.unscoped_dones (s : State) : (s.unscoped).dones = s.dones := rfl
@[simp] theorem State.unscoped_ended (s : State) : (s.unscoped).ended = s.ended := rfl
@[simp] theorem State.unscoped_tenants (s : State) : (s.unscoped).tenants = s.tenants := rfl
@[simp] theorem State.unscoped_tlb (s : State) : (s.unscoped).tlb = s.tlb := rfl
@[simp] theorem State.unscoped_walks (s : State) : (s.unscoped).walks = s.walks := rfl
@[simp] theorem State.unscoped_pools (s : State) : (s.unscoped).pools = s.pools := rfl
@[simp] theorem State.unscoped_wacc (s : State) : (s.unscoped).wacc = s.wacc := rfl
@[simp] theorem State.unscoped_atUnit (s : State) : (s.unscoped).atUnit = s.atUnit := rfl
@[simp] theorem State.unscoped_mailboxes (s : State) : (s.unscoped).mailboxes = s.mailboxes := rfl
@[simp] theorem State.unscoped_fnten (s : State) : (s.unscoped).fnten = s.fnten := rfl
@[simp] theorem State.unscoped_b2ap (s : State) : (s.unscoped).b2ap = s.b2ap := rfl
@[simp] theorem State.unscoped_boot (s : State) : (s.unscoped).boot = s.boot := rfl
@[simp] theorem State.unscoped_channels (s : State) : (s.unscoped).channels = s.channels := rfl
@[simp] theorem State.unscoped_peer (s : State) : (s.unscoped).peer = s.peer := rfl
@[simp] theorem State.unscoped_fe (s : State) : (s.unscoped).fe = s.fe := rfl
@[simp] theorem State.unscoped_log (s : State) : (s.unscoped).log = s.log := rfl

/-! ### Parts that an update sets -/

@[simp] theorem State.tile_setTile (s : State) (n : Nat) (x : Tile) : (s.setTile n x).tile n = x := tget_tset_same _ _ _ _
theorem State.tile_setTile_other (s : State) (n k : Nat) (x : Tile) (h : k ≠ n) : (s.setTile n x).tile k = s.tile k := tget_tset_other _ _ _ _ _ h
@[simp] theorem State.queue_setQueue (s : State) (n : Nat) (x : Queue) : (s.setQueue n x).queue n = x := tget_tset_same _ _ _ _
theorem State.queue_setQueue_other (s : State) (n k : Nat) (x : Queue) (h : k ≠ n) : (s.setQueue n x).queue k = s.queue k := tget_tset_other _ _ _ _ _ h
@[simp] theorem State.tenant_setTenant (s : State) (n : Nat) (x : Tenant) : (s.setTenant n x).tenant n = x := tget_tset_same _ _ _ _
theorem State.tenant_setTenant_other (s : State) (n k : Nat) (x : Tenant) (h : k ≠ n) : (s.setTenant n x).tenant k = s.tenant k := tget_tset_other _ _ _ _ _ h
@[simp] theorem State.pool_setPool (s : State) (n : Nat) (x : Pool) : (s.setPool n x).pool n = x := tget_tset_same _ _ _ _
@[simp] theorem State.mbox_setMbox (s : State) (n : Nat) (x : Mailbox) : (s.setMbox n x).mbox n = x := tget_tset_same _ _ _ _
@[simp] theorem State.channel_setChannel (s : State) (n : Nat) (x : Channel) : (s.setChannel n x).channel n = x := tget_tset_same _ _ _ _
@[simp] theorem State.ctx_setCtx (s : State) (tile slot : Nat) (c : Ctx) : (s.setCtx tile slot c).ctx tile slot = c := tget_tset_same _ _ _ _
theorem State.ctx_setCtx_other (s : State) (tile slot t k : Nat) (c : Ctx) (h : t * 8 + k ≠ tile * 8 + slot) :
    (s.setCtx tile slot c).ctx t k = s.ctx t k := tget_tset_other _ _ _ _ _ h

@[simp] theorem State.tile_of_setCtx (s : State) (tile slot n : Nat) (c : Ctx) : (s.setCtx tile slot c).tile n = s.tile n := rfl
@[simp] theorem State.tile_of_setBank (s : State) (r : BankRef) (k : Bank) (n : Nat) : (s.setBank r k).tile n = s.tile n := rfl
@[simp] theorem State.tile_of_setMe (s : State) (k : Bank) (n : Nat) : (s.setMe k).tile n = s.tile n := rfl
@[simp] theorem State.tenant_of_setBank (s : State) (r : BankRef) (k : Bank) (n : Nat) : (s.setBank r k).tenant n = s.tenant n := rfl
@[simp] theorem State.tenant_of_setMe (s : State) (k : Bank) (n : Nat) : (s.setMe k).tenant n = s.tenant n := rfl
@[simp] theorem State.ctx_of_setTile (s : State) (n : Nat) (x : Tile) (t k : Nat) : (s.setTile n x).ctx t k = s.ctx t k := rfl
@[simp] theorem State.bank_of_setTile (s : State) (n : Nat) (x : Tile) (r : BankRef) : (s.setTile n x).bank r = s.bank r := rfl
@[simp] theorem State.me_of_setTile (s : State) (n : Nat) (x : Tile) : (s.setTile n x).me = s.me := rfl
@[simp] theorem State.curRef_of_setTile (s : State) (n : Nat) (x : Tile) : (s.setTile n x).curRef = s.curRef := rfl
@[simp] theorem State.me_of_storeBytes (s : State) (l : Nat) (bs : List Byte) : (s.storeBytes l bs).me = s.me := rfl
@[simp] theorem State.curRef_of_storeBytes (s : State) (l : Nat) (bs : List Byte) : (s.storeBytes l bs).curRef = s.curRef := rfl
@[simp] theorem State.me_of_store (s : State) (l n v : Nat) : (s.store l n v).me = s.me := rfl
@[simp] theorem State.curRef_of_store (s : State) (l n v : Nat) : (s.store l n v).curRef = s.curRef := rfl
@[simp] theorem State.me_of_send (s : State) (m : Msg) : (s.send m).me = s.me := rfl
@[simp] theorem State.curRef_of_send (s : State) (m : Msg) : (s.send m).curRef = s.curRef := rfl

/-! ### Banks -/

@[simp] theorem Ctx.bank_setBank (c : Ctx) (b : Nat) (k : Bank) : (c.setBank b k).bank b = k := by
  by_cases h : b = 0 <;> simp [Ctx.bank, Ctx.setBank, h]
@[simp] theorem Ctx.setBank_active (c : Ctx) (b : Nat) (k : Bank) : (c.setBank b k).active = c.active := by
  by_cases h : b = 0 <;> simp [Ctx.setBank, h]
@[simp] theorem Ctx.setBank_switch (c : Ctx) (b : Nat) (k : Bank) : (c.setBank b k).switch = c.switch := by
  by_cases h : b = 0 <;> simp [Ctx.setBank, h]
@[simp] theorem Ctx.setBank_reflex (c : Ctx) (b : Nat) (k : Bank) : (c.setBank b k).reflex = c.reflex := by
  by_cases h : b = 0 <;> simp [Ctx.setBank, h]
@[simp] theorem Ctx.setBank_setBank (c : Ctx) (b : Nat) (j k : Bank) : (c.setBank b j).setBank b k = c.setBank b k := by
  by_cases h : b = 0 <;> simp [Ctx.setBank, h]

theorem tset_tset {α : Type} (t : Tbl α) (k : Nat) (a b : α) : tset (tset t k a) k b = tset t k b := by
  induction t with
  | nil => simp [tset]
  | cons p t ih =>
    obtain ⟨j, c⟩ := p
    by_cases h : k = j
    · simp [tset, h]
    · by_cases h2 : k < j <;> simp [tset, h, h2, ih]

@[simp] theorem State.setCtx_setCtx (s : State) (tile slot : Nat) (c d : Ctx) : (s.setCtx tile slot c).setCtx tile slot d = s.setCtx tile slot d := by
  simp [State.setCtx, tset_tset]
@[simp] theorem State.setTile_setTile (s : State) (n : Nat) (x y : Tile) : (s.setTile n x).setTile n y = s.setTile n y := by
  simp [State.setTile, tset_tset]
@[simp] theorem State.bank_setBank (s : State) (r : BankRef) (k : Bank) : (s.setBank r k).bank r = k := by
  simp [State.bank, State.setBank]
@[simp] theorem State.setBank_setBank (s : State) (r : BankRef) (j k : Bank) : (s.setBank r j).setBank r k = s.setBank r k := by
  simp [State.setBank]
/-- A bank of another context keeps what it holds. -/
theorem State.bank_setBank_other (s : State) (r q : BankRef) (k : Bank) (h : q.tile * 8 + q.slot ≠ r.tile * 8 + r.slot) :
    (s.setBank r k).bank q = s.bank q := by
  simp [State.bank, State.setBank, State.ctx_setCtx_other s _ _ _ _ _ h]
@[simp] theorem State.active_setBank (s : State) (r : BankRef) (k : Bank) (t l : Nat) : ((s.setBank r k).ctx t l).active = (s.ctx t l).active := by
  by_cases h : t * 8 + l = r.tile * 8 + r.slot
  · simp only [State.setBank, State.setCtx, State.ctx, h, tget_tset_same, Ctx.setBank_active]
  · simp [State.setBank, State.ctx_setCtx_other s _ _ _ _ _ h]
@[simp] theorem State.curRef_setBank (s : State) (r : BankRef) (k : Bank) : (s.setBank r k).curRef = s.curRef := by
  simp [State.curRef]
@[simp] theorem State.curRef_setMe (s : State) (k : Bank) : (s.setMe k).curRef = s.curRef := by simp [State.setMe]
@[simp] theorem State.me_setMe (s : State) (k : Bank) : (s.setMe k).me = k := by
  simp [State.me, State.setMe]
@[simp] theorem State.bank_curRef (s : State) : s.bank s.curRef = s.me := rfl
@[simp] theorem State.setBank_curRef (s : State) (k : Bank) : s.setBank s.curRef k = s.setMe k := rfl
@[simp] theorem State.setMe_setMe (s : State) (j k : Bank) : (s.setMe j).setMe k = s.setMe k := by
  show (s.setBank s.curRef j).setBank (s.setBank s.curRef j).curRef k = s.setBank s.curRef k
  rw [State.curRef_setBank, State.setBank_setBank]
@[simp] theorem State.bank_setMe (s : State) (k : Bank) : (s.setMe k).bank s.curRef = k := State.bank_setBank s s.curRef k
@[simp] theorem State.unscoped_me (s : State) : s.unscoped.me = s.me := rfl
@[simp] theorem State.unscoped_curRef (s : State) : s.unscoped.curRef = s.curRef := rfl
@[simp] theorem State.unscoped_tile (s : State) (n : Nat) : s.unscoped.tile n = s.tile n := rfl
@[simp] theorem State.unscoped_bank (s : State) (r : BankRef) : s.unscoped.bank r = s.bank r := rfl
@[simp] theorem State.unscoped_scope (s : State) : s.unscoped.rlxScope = none := rfl
@[simp] theorem State.setMe_unscoped (s : State) (k : Bank) : (s.setMe k).unscoped = s.unscoped.setMe k := rfl

/-! ### Scalar and vector registers of a bank -/

/-- A scalar register after a write: g0 reads 0, the register written holds the value, every other one keeps its own (R139). -/
theorem Bank.rg_wg (b : Bank) (n r : Nat) (x : Dword) : (b.wg n x).rg r = if r = n ∧ n ≠ 0 then x else b.rg r := by
  by_cases hn : n = 0
  · simp [Bank.wg, hn]
  · by_cases hr : r = 0
    · subst hr; simp [Bank.rg, Ne.symm hn]
    · by_cases h : r = n
      · simp [Bank.rg, Bank.wg, hn, h]
      · simp [Bank.rg, Bank.wg, hn, hr, h, tget_tset_other _ _ _ _ _ h]
theorem Bank.rv_wv (b : Bank) (n r : Nat) (x : Vec) : (b.wv n x).rv r = if r = n then x else b.rv r := by
  simp [Bank.rv, Bank.wv, tget_tset]
@[simp] theorem Bank.rv_wg (b : Bank) (n r : Nat) (x : Dword) : (b.wg n x).rv r = b.rv r := by
  by_cases h : n = 0 <;> simp [Bank.wg, Bank.rv, h]
@[simp] theorem Bank.rg_wv (b : Bank) (n r : Nat) (x : Vec) : (b.wv n x).rg r = b.rg r := rfl

end Sys2Proof.Machine
end

