-- ==== Sys2Proof/Laws/Thread.lean ====
section
/-! SUPPORT. Laws of the shared operations of a thread: what the end of an instruction, a transfer of control and a trap do to a device
whose running thread has nothing else to settle. -/

namespace Sys2Proof.Machine

theorem Bank.tickWindows_none (b : Bank) (h : b.wins = []) : b.tickWindows = b := by
  unfold Bank.tickWindows
  rw [h, List.map_nil, ← h]
theorem Bank.endWindows_none (b : Bank) (h : b.wins = []) : b.endWindows = b := by
  unfold Bank.endWindows
  rw [h, List.map_nil, ← h]

theorem Bank.count_fresh (b : Bank) (h : b.counted = false) (hw : b.wins = []) :
    b.count = { b with icount := b.icount + 1, quantLeft := quantAfter b.quantLeft } := by
  unfold Bank.count
  rw [if_neg (by simp [h]), Bank.tickWindows_none b hw]
  rfl

theorem Bank.advance_plain (b : Bank) (len : Nat) (hf : b.rpt.act = false ∨ b.rpt.frozen = true) :
    b.advance len = { b with pc := b.pc + BitVec.ofNat 48 len, fbuf := b.fbuf.drop (len / 2) } := by
  unfold Bank.advance
  rw [if_neg]
  rcases hf with f | f <;> simp [f]

theorem Bank.stepped_quiet (b : Bank) (len : Nat) (hc : b.counted = false) (hw : b.wins = []) (hf : b.rpt.act = false ∨ b.rpt.frozen = true) :
    b.stepped len = passed b len := by
  have e : b.count.rpt = b.rpt := by rw [Bank.count_fresh b hc hw]
  unfold Bank.stepped
  rw [Bank.advance_plain b.count len (e ▸ hf)]
  rw [Bank.count_fresh b hc hw]
  rfl

theorem Bank.redirect_fresh (b : Bank) (t : Va) (hc : b.counted = false) (hw : b.wins = []) : b.redirect t = redirected b t := by
  unfold Bank.redirect
  rw [Bank.count_fresh b hc hw]
  rfl

/-- A thread of another kind, and leash code whose first instruction has answered, send no reply (R376). -/
theorem leashReply_of {s : State} {r : BankRef} (h : (s.bank r).kind = 2 → (s.tile r.tile).seize.first = true) : s.leashReply r = s := by
  unfold State.leashReply
  rw [if_neg]
  rintro ⟨a, b⟩
  exact b (h a)

theorem closeDue_none {s : State} {r : BankRef} (h : (s.bank r).wins = []) : s.closeDue r = s := by
  unfold State.closeDue
  simp [h]

theorem setMe_bank (s : State) (k : Bank) : (s.setMe k).setBank s.curRef k = s.setMe k := State.setBank_setBank s s.curRef k k

/-- A quiet thread owes its seizer no reply. -/
theorem noReply {s : State} (h : Quiet s) (k : Bank) (hk : k.kind = s.me.kind) :
    (s.unscoped.setMe k).leashReply s.curRef = s.unscoped.setMe k := by
  refine leashReply_of fun hk2 => ?_
  have h2 : (s.unscoped.setMe k).bank s.curRef = k := State.bank_setMe s.unscoped _
  rw [h2] at hk2
  exact h.reply (hk ▸ hk2)

/-- A quiet thread stays quiet when its bank changes in nothing that matters to it. -/
theorem quiet_setMe {s : State} (h : Quiet s) (k : Bank) (hw : k.wins = s.me.wins) (hr : k.rpt = s.me.rpt) (hc : k.counted = s.me.counted)
    (hk : k.kind = s.me.kind) : Quiet (s.setMe k) := by
  refine ⟨?_, ?_, ?_, ?_⟩
  · rw [State.me_setMe, hw]; exact h.wins
  · rw [State.me_setMe, hr]; exact h.frame
  · rw [State.me_setMe, hc]; exact h.fresh
  · rw [State.me_setMe, hk]; exact h.reply

theorem ended_setMe (s : State) (j k : Bank) : ended (s.setMe j) k = ended s k := State.setMe_setMe s.unscoped j _
theorem jumpedTo_setMe (s : State) (j k : Bank) (t : Va) : jumpedTo (s.setMe j) k t = jumpedTo s k t := State.setMe_setMe s.unscoped j _

/-- The end of an instruction in a quiet thread. -/
theorem retire_quiet {s : State} (h : Quiet s) : s.retire = ended s s.me := by
  have e : s.issued = ended s s.me := by
    unfold State.issued ended
    rw [Bank.stepped_quiet _ _ h.fresh h.wins h.frame]
    exact noReply h _ rfl
  have hb : (ended s s.me).bank s.curRef = passed s.me s.len := State.bank_setMe s.unscoped _
  have hp : (passed s.me s.len).wins = [] := h.wins
  unfold State.retire State.settle
  rw [e]
  exact closeDue_none (by rw [hb]; exact hp)

/-- The end of an instruction in a quiet thread whose bank has become `k`. -/
theorem retire_setMe {s : State} (h : Quiet s) (k : Bank) (hw : k.wins = s.me.wins) (hr : k.rpt = s.me.rpt) (hc : k.counted = s.me.counted)
    (hk : k.kind = s.me.kind) : (s.setMe k).retire = ended s k := by
  rw [retire_quiet (quiet_setMe h k hw hr hc hk), State.me_setMe, ended_setMe]

/-- A transfer of control by a quiet thread. -/
theorem jump_quiet {s : State} (h : Quiet s) (t : Va) : s.jump t = jumpedTo s s.me t := by
  have e : (s.unscoped.setMe (s.me.redirect t)).leashReply s.curRef = jumpedTo s s.me t := by
    rw [Bank.redirect_fresh _ _ h.fresh h.wins]
    exact noReply h _ rfl
  have hb : (jumpedTo s s.me t).bank s.curRef = redirected s.me t := State.bank_setMe s.unscoped _
  have hp : (redirected s.me t).wins = [] := h.wins
  have hs : (jumpedTo s s.me t).setBank s.curRef (redirected s.me t) = jumpedTo s s.me t := setMe_bank s.unscoped _
  unfold State.jump
  simp only [e]
  rw [hb, Bank.endWindows_none _ hp, hs]
  exact closeDue_none (by rw [hb]; exact hp)

/-- A transfer of control by a quiet thread whose bank has become `k`. -/
theorem jump_setMe {s : State} (h : Quiet s) (k : Bank) (t : Va) (hw : k.wins = s.me.wins) (hr : k.rpt = s.me.rpt)
    (hc : k.counted = s.me.counted) (hk : k.kind = s.me.kind) : (s.setMe k).jump t = jumpedTo s k t := by
  rw [jump_quiet (quiet_setMe h k hw hr hc hk), State.me_setMe, jumpedTo_setMe]

/-! ### Traps -/

theorem Bank.uncount_same (b : Bank) : b.uncount.wins = b.wins ∧ b.uncount.task = b.task ∧ b.uncount.kind = b.kind ∧ b.uncount.trap = b.trap ∧
    b.uncount.tenant = b.tenant := by
  unfold Bank.uncount
  split <;> exact ⟨rfl, rfl, rfl, rfl, rfl⟩

/-- A trap of a thread without open windows is entered with the instruction uncounted. -/
theorem takeTrap_closed {s : State} {r : BankRef} (h : (s.bank r).wins = []) (i : TrapInfo) (pc : Va) :
    s.takeTrap r i pc = (s.setBank r (s.bank r).uncount).enterTrap r i pc false false := by
  unfold State.takeTrap
  exact if_pos (by rw [(Bank.uncount_same _).1, h])

/-- A precise trap of a thread that R384 sends to its handler. -/
theorem trapAt_trappable {s : State} (h : Trappable s) (c : Nat) (hc : c ≠ ebrkCause) (h3 : s.me.kind = 3 → c ≠ 0x247) (a v : Dword) :
    trapAt c a v s = .next (trapEntered s s.me.pc c a v) := by
  obtain ⟨-, ht, hk, hr, -⟩ := Bank.uncount_same s.me
  have hb : (s.unscoped.setMe s.me.uncount).bank s.curRef = s.me.uncount := State.bank_setMe s.unscoped _
  have hd : (s.unscoped.setMe s.me.uncount).dying s.curRef = false := by
    have := h.alive
    unfold State.dying at *
    rw [hb, ht]
    exact this
  unfold trapAt
  rw [takeTrap_closed (r := s.curRef) (s := s.unscoped) (by exact h.wins)]
  refine congrArg _ (?_ : (s.unscoped.setMe s.me.uncount).enterTrap s.curRef ⟨c, a, v⟩ s.me.pc false false = _)
  unfold State.enterTrap
  rw [hb]
  have h3' : ¬ (s.me.kind = 3 ∧ c = 0x247) := fun x => h3 x.1 x.2
  simp only [hd, hk, hr, h3', h.free, h.vector, hc, false_and, Bool.false_eq_true, if_false, or_self]
  refine (State.setBank_setBank s.unscoped s.curRef s.me.uncount _).trans ?_
  unfold trapEntered trapped
  simp only [hr]
  show State.setBank _ _ _ = State.setBank _ _ _
  simp only [← hk]
  rfl

/-! ### Scalar results -/

/-- A scalar result of fixed latency in a quiet thread: the register, what is pending, and the end of the instruction. -/
theorem done_quiet {s : State} (h : Quiet s) (d lat : Nat) (x : Dword) : ∃ p, done d lat x s = .next (ended s { s.me.wg d x with pend := p }) := by
  unfold done
  by_cases hd : d = 0
  · refine ⟨s.me.pend, ?_⟩
    have : s.wgLat d lat x = s := by simp [State.wgLat, hd]
    rw [this, retire_quiet h]
    simp [Bank.wg, hd]
  · have e : s.wgLat d lat x = s.setMe { s.me.wg d x with pend := ((s.me.wg d x).await s.cycle (.g d) lat ((s.me.rg d).setWidth 1024) []).pend } := by
      unfold State.wgLat
      rw [if_neg hd]
      rfl
    refine ⟨((s.me.wg d x).await s.cycle (.g d) lat ((s.me.rg d).setWidth 1024) []).pend, ?_⟩
    rw [e]
    refine congrArg _ (retire_setMe h _ ?_ ?_ ?_ ?_) <;> simp [Bank.wg, hd]

end Sys2Proof.Machine
end

