-- ==== Sys2Proof/Tests/Slice0.lean ====
section
/-! SUPPORT. The model's own tests: ill-formed terms are refused, words laid out from the encodings decode to their instruction, single steps give what
the rules give, and every statement with hypotheses has a state that meets them. -/

open Sys2Proof Sys2Proof.Machine

namespace Sys2Proof.Tests

set_option Elab.async false

/-! ### Well-formed terms: one that each check refuses, beside a neighbour that it admits -/

/-- Scopes 6 and 7 are reserved (R333). -/
theorem test_wf_scope : (Instr.fence 6).wellFormed = false ∧ (Instr.fence 5).wellFormed = true ∧ (Instr.ldfe 1 2 0 7).wellFormed = false ∧
    (Instr.redAdd64 0 1 2 6 0).wellFormed = false ∧ (Instr.cRlx 7).wellFormed = false := by decide
/-- TRAP takes 1 to 47 (R386). -/
theorem test_wf_trap : (Instr.trap 0).wellFormed = false ∧ (Instr.trap 48).wellFormed = false ∧ (Instr.trap 47).wellFormed = true := by decide
/-- CANCEL takes kinds 1 to 4 (R386). -/
theorem test_wf_cancel : (Instr.cancel 1 2 0).wellFormed = false ∧ (Instr.cancel 1 2 5).wellFormed = false ∧ (Instr.cancel 1 2 4).wellFormed = true := by
  decide
/-- RPT's body has at most 16 words (R150). -/
theorem test_wf_rpt : (Instr.rpt 9 16 0 0 0).wellFormed = false ∧ (Instr.rpt 9 15 0 0 0).wellFormed = true := by decide
/-- VCMP's type 7 is reserved (R205). -/
theorem test_wf_vcmp : (Instr.vcmp 1 2 3 0 0 7).wellFormed = false ∧ (Instr.vcmp 1 2 3 0 0 6).wellFormed = true := by decide
/-- A queue instruction's VA has bits [63:48] zero (R96). -/
theorem test_wf_va : (Instr.qwr 0x1000000000000 0).wellFormed = false ∧ (Instr.qwr 0xFFFFFFFFFFFF 0).wellFormed = true ∧
    (Instr.qib 0x1000000000000 4).wellFormed = false ∧ (Instr.qsig 0 0 0x8000000000000000 1).wellFormed = false ∧
    (Instr.qlaunch 0x1000000000000).wellFormed = false := by decide
/-- Conditions are 0 to 5 (R97). -/
theorem test_wf_cond : (Instr.qpred 6 0 0).wellFormed = false ∧ (Instr.qwait 6 0 0 0).wellFormed = false ∧ (Instr.qwait 5 0 0 0).wellFormed = true := by
  decide
/-- QLOOP's count is not 0 (R102). -/
theorem test_wf_qloop : (Instr.qloop 0).wellFormed = false ∧ (Instr.qloop 1).wellFormed = true := by decide
/-- QDEP's kind and ID (R106), and QMARK's kind (R108). -/
theorem test_wf_qdep : (Instr.qdep 5 0).wellFormed = false ∧ (Instr.qdep 0 1).wellFormed = false ∧ (Instr.qdep 2 0x10000).wellFormed = false ∧
    (Instr.qdep 1 0x10000).wellFormed = true ∧ (Instr.qmark 4 0).wellFormed = false ∧ (Instr.qmark 3 0).wellFormed = true := by decide

/-! ### Words laid out by hand from the spec's encodings -/

/-- A list of words decodes to the instruction it stands for, in its whole length. -/
def Decodes (h : List (BitVec 16)) (i : Instr) : Prop := decode h = .ok i (2 * h.length)
/-- The same for a queue's words. -/
def QueueDecodes (h : List (BitVec 16)) (i : Instr) : Prop := decodeQueue h = .ok i (2 * h.length)

/-- INTR, INTI, SHIFT, CMPI, BITS, CONST and MULDIV words (R60, R61, R178 to R188). -/
theorem test_decode_scalar : Decodes (words [0x00046303]) (.add 6 6 2) ∧ Decodes (words [0x004C5203]) (.sub 4 5 6) ∧
    Decodes (words [0x10000495, 0x89ABCDEF, 0x01234567]) (.li64 9 0x0123456789ABCDEF) := by
  and_intros <;> (unfold Decodes; decide +kernel)
/-- A branch, the repeat, CSR, trap and control words (R60, R147, R150, R189, R386). -/
theorem test_decode_control : Decodes (words [0xFF804B1F]) (.dbnz 4 (-6)) ∧ Decodes (words [0x12409027]) (.rpt 9 0 1 1 1) ∧
    Decodes (words [0x000002E7]) (.csrrd 5 0) ∧ Decodes (words [0x00026067]) (.csrwr 0 6 0) ∧ Decodes (words [0x030003E7]) (.csrrd 7 0x030) ∧
    Decodes (words [0x008002E5]) (.time 5) ∧ Decodes (words [0x01400069]) (.trap 5) ∧ Decodes (words [0x10000069]) .eret ∧
    Decodes (words [0x20000069]) (.ebrk 0) ∧ Decodes (words [0x308062E9]) (.hfcall 5 6 2) ∧ Decodes (words [0x404062E9]) (.cancel 5 6 1) := by
  and_intros <;> (unfold Decodes; decide +kernel)
/-- Loads, stores, full/empty, fence, atomic and reduction words (R60, R255, R258, R261, R343, R345). -/
theorem test_decode_memory : Decodes (words [0x1C0232A9]) (.ld64 5 3 1 1) ∧ Decodes (words [0x400232B1]) (.ldfe 5 3 1 4) ∧
    Decodes (words [0x00080033]) (.fence 4) ∧ Decodes (words [0x000062D7]) (.arsv 5 6) ∧ Decodes (words [0x00CE62D7]) (.cas 5 6 7 0) ∧
    Decodes (words [0x214E62D7]) (.fadd 5 6 7 2) ∧ Decodes (words [0x000E6859]) (.redAdd64 0 6 7 4 0) ∧ Decodes (words [0x02C062D9]) (.wacrd 5 6 0) ∧
    Decodes (words [0x000E2235]) (.vld 4 2 7 0) := by
  and_intros <;> (unfold Decodes; decide +kernel)
/-- Vector words (R60, R194 to R209). -/
theorem test_decode_vector : Decodes (words [0x19C4123B]) (.vfmaF32 4 1 2 7) ∧ Decodes (words [0xD00412C9]) (.vcmp 5 1 2 0 2 6) ∧
    Decodes (words [0x300051C7]) (.vsin 3 5 0 0) ∧ Decodes (words [0x60122345]) (.vdq4 6 2 9 0) ∧ Decodes (words [0x0046234B]) (.vwhile32 6 2 3) := by
  and_intros <;> (unfold Decodes; decide +kernel)
/-- Matrix, mailbox, barrier, tree, channel, sequence and burst words (R60, R225, R289, R311, R325, R352, R354, R367). -/
theorem test_decode_units : Decodes (words [0x000C504D]) (.mwld 5 6) ∧ Decodes (words [0x0040004D]) .mwswap ∧ Decodes (words [0x0090704D]) (.mstrm 7 8) ∧
    Decodes (words [0x2112024D]) (.mrda 4 9 2) ∧ Decodes (words [0x0180004D]) .mwait ∧ Decodes (words [0x024002CD]) (.mstat 5) ∧
    Decodes (words [0x01CC5035]) (.ldt 5 6 0) ∧ Decodes (words [0x00006261]) (.mbwr 4 6) ∧ Decodes (words [0x004E6061]) (.mbpub 6 7) ∧
    Decodes (words [0x008E6061]) (.mbpubc 6 7) ∧ Decodes (words [0x00D46261]) (.mbrd 4 6 10) ∧ Decodes (words [0x000E62DB]) (.breg 5 6 7) ∧
    Decodes (words [0x00C0505D]) (.send 5) ∧ Decodes (words [0x0100535D]) (.rsrv 6 5) ∧ Decodes (words [0x00806053]) (.cclr 6) ∧
    Decodes (words [0x000E62DF]) (.sqres 5 6 7) ∧ Decodes (words [0x01C0605F]) (.sqrel 6) := by
  and_intros <;> (unfold Decodes; decide +kernel)
/-- Words that start and end work, and instructions of several words (R69, R126, R127, R237, R289, R359). -/
theorem test_decode_long : Decodes (words [0x000E62E5]) (.spawn 5 6 7) ∧ Decodes (words [0x0000946B]) (.dlaunch 8 9) ∧
    Decodes (words [0x018062E5]) (.unprime 5 6) ∧ Decodes (words [0x180E62CF, 0x00004A02, 0, 0]) (.mcmd 5 6 7 0x00004A02 0) ∧
    Decodes (words [0x10046055, 0x00200004, 0x00070206]) (.bread 6 2 0x00200004 0x00070206) := by
  and_intros <;> (unfold Decodes; decide +kernel)
/-- Compressed words (R70, R71). -/
theorem test_decode_compressed : Decodes [0xF0CA] (.cAddi 3 (-2)) ∧ Decodes [0x0122] (.cRlx 4) ∧ Decodes [0x0000] (.cIll 0) := by
  and_intros <;> (unfold Decodes; decide +kernel)
/-- Queue words (R96, R99, R102). -/
theorem test_decode_queue : QueueDecodes (words [0x10000079, 0x00001000, 0]) (.qlaunch 0x1000) ∧ QueueDecodes (words [0x09400079, 3]) (.qloop 3) := by
  and_intros <;> (unfold QueueDecodes; decide +kernel)
/-- Reserved words are refused by cause: a queue word on a core (R95), a reserved scope (R333), a reserved field and an unassigned minor (R61, R72). -/
theorem test_decode_refused : decode (words [0x00000079]) = .bad 0x004 ∧ decode (words [0x000C0033]) = .bad 0x006 ∧
    decode (words [0x0180104D]) = .bad 0x003 ∧ decode (words [0x80046303]) = .bad 0x002 := by decide +kernel

/-! ### States for the tests -/

/-- A device whose context 0 of tile 0 runs a thread with this bank. -/
def thread (b : Bank) : State := { State.reset.setCtx 0 0 { b0 := { b with seeded := true, quantLeft := 0xFFFFFFFF } } with len := 4 }
/-- The same on the XA tile 0x190. -/
def xaThread (b : Bank) : State :=
  { State.reset.setCtx 0x190 0 { b0 := { b with seeded := true, quantLeft := 0xFFFFFFFF } } with len := 4, cur := (0x190, 0) }
/-- The state that a step goes to. -/
def goes (o : Out) : Option State :=
  match o with
  | .next t => some t
  | _ => none
/-- A value of the running bank after an instruction. -/
def after {α : Type} (i : Instr) (s : State) (f : Bank → α) : Option α := (goes (exec i s)).map (fun t => f t.me)

/-- No tile records when none of the listed ones does. -/
theorem rings_off (s : State) (h : s.tiles.all (fun t => !t.2.trctl.getLsbD 0) = true) (t : Nat) : (s.tile t).trctl.getLsbD 0 = false := by
  unfold State.tile
  generalize s.tiles = l at h ⊢
  induction l with
  | nil => unfold tget; decide
  | cons a l ih =>
    obtain ⟨j, x⟩ := a
    simp only [List.all_cons, Bool.and_eq_true, Bool.not_eq_true'] at h
    unfold tget
    split
    · exact h.1
    · exact ih h.2

/-- No channel has lost its data when none of the listed ones has. -/
theorem channels_kept (s : State) (h : s.channels.all (fun c => !c.2.lost) = true) (c : Nat) : (s.channel c).lost = false := by
  unfold State.channel
  generalize s.channels = l at h ⊢
  induction l with
  | nil => unfold tget; decide
  | cons a l ih =>
    obtain ⟨j, x⟩ := a
    simp only [List.all_cons, Bool.and_eq_true, Bool.not_eq_true'] at h
    unfold tget
    split
    · exact h.1
    · exact ih h.2

/-- All data can be read, as one question that can be decided. -/
theorem intact_of (s : State) (h : (decide (s.poison = []) && decide (s.failing = []) && s.channels.all (fun c => !c.2.lost)) = true) : Intact s := by
  simp only [Bool.and_eq_true, decide_eq_true_eq] at h
  exact ⟨h.1.1, h.1.2, channels_kept s h.2⟩

theorem unwatched_of (s : State) (h : (decide (s.poison = []) && decide (s.failing = []) && s.channels.all (fun c => !c.2.lost) && s.tiles.all (fun t => !t.2.trctl.getLsbD 0)) = true) :
    Unwatched s := by
  rw [Bool.and_eq_true] at h
  exact ⟨intact_of s h.1, rings_off s h.2⟩

/-- Nobody waits for a tag when no listed tile has a wait list and no listed context an armed slot. -/
theorem noneWatchTags_of (s : State)
    (h : (s.tiles.all (fun t => decide (t.2.waits = [])) && s.ctxs.all (fun c => decide (c.2.reflex.preset = none))) = true) : NoneWatchTags s := by
  rw [Bool.and_eq_true] at h
  have ht : ∀ k, (s.tile k).waits = [] := by
    intro k
    unfold State.tile
    generalize s.tiles = l at h ⊢
    induction l with
    | nil => unfold tget; decide
    | cons a l ih =>
      obtain ⟨j, x⟩ := a
      simp only [List.all_cons, Bool.and_eq_true, decide_eq_true_eq] at h
      unfold tget
      split
      · exact h.1.1
      · exact ih ⟨by simpa using h.1.2, h.2⟩
  have hc : ∀ t k, (s.ctx t k).reflex.preset = none := by
    intro t k
    unfold State.ctx
    generalize s.ctxs = l at h ⊢
    induction l with
    | nil => unfold tget; rfl
    | cons a l ih =>
      obtain ⟨j, x⟩ := a
      simp only [List.all_cons, Bool.and_eq_true, decide_eq_true_eq] at h
      unfold tget
      split
      · exact h.2.1
      · exact ih ⟨h.1, by simpa using h.2.2⟩
  refine ⟨ht, fun k off => ?_⟩
  unfold State.armedOn
  simp only [hc]
  rfl

/-- What makes a thread calm, as one question that can be decided. -/
def isCalm (s : State) : Bool :=
  decide (s.me.wins = []) && decide (s.me.rpt.act = false) && decide (s.me.counted = false) &&
    decide (s.me.kind = 2 → (s.tile s.cur.1).seize.first = true) && decide (s.me.rlx = []) && decide (s.rlxScope = none) &&
    decide (s.acqHeld s.curRef = false) && decide (s.me.ports = []) && (decide (s.poison = []) && decide (s.failing = []) && s.channels.all (fun c => !c.2.lost)) &&
    s.tiles.all (fun t => !t.2.trctl.getLsbD 0)

theorem calm_of (s : State) (h : isCalm s = true) : Calm s := by
  simp only [isCalm, Bool.and_eq_true, decide_eq_true_eq] at h
  obtain ⟨⟨⟨⟨⟨⟨⟨⟨⟨a, b⟩, c⟩, d⟩, e⟩, f⟩, g⟩, i⟩, j⟩, k⟩ := h
  exact ⟨⟨a, .inl b, c, d⟩, e, f, g, i, rings_off s k, ⟨j.1.1, j.1.2, channels_kept s j.2⟩⟩
theorem vectorQuiet_of (s : State) (h : isCalm s = true) : VectorQuiet s := ⟨(calm_of s h).toQuiet, (calm_of s h).ports⟩
/-- A thread that a trap finds ready, as one question. -/
theorem trappable_of (s : State) (h : s.dying s.curRef = false ∧ s.me.wins = [] ∧ s.me.trap.inh = false ∧ s.me.trap.vec ≠ 0) :
    Trappable s := ⟨h.1, h.2.1, h.2.2.1, h.2.2.2⟩

/-- A thread with small, greatest and odd numbers in its registers, a vector, and a trap handler. -/
def busy : State := thread {
  g := [(1, 5), (2, 0xFFFFFFFFFFFFFFFF), (3, 24), (4, 0x8000000000000000), (5, 0x400C), (6, 7)], v := [(1, 0x3F80000040000000)], pc := 0x1000
  trap := ⟨0, 0, 0, 0, 0x2000, false, false, false⟩ }
theorem busy_calm : Calm busy := calm_of _ (by decide +kernel)
theorem busy_trappable : Trappable busy := trappable_of _ (by decide +kernel)
theorem busy_vectorQuiet : VectorQuiet busy := vectorQuiet_of _ (by decide +kernel)

/-! ### Scalar instructions: witnesses, and results by hand -/

/-- BFX takes a field of 0x40 bits from bit 12 as the 52 bits there are (R187). -/
theorem witness_BitInstructionsAreExact : Quiet busy ∧ (bitsResult busy (.bfx 7 2 5)).isSome = true ∧ (bitsResult busy (.bfi 7 2 5)).isSome = true ∧
    (bitsResult busy (.bswap 7 1)).isSome = true := ⟨busy_calm.toQuiet, by decide +kernel⟩
theorem test_bfxu : after (.bfxu 7 2 5) busy (·.rg 7) = some 0x000FFFFFFFFFFFFF := by decide +kernel
theorem test_brev : after (.brev 7 1) busy (·.rg 7) = some 0xA000000000000000 := by decide +kernel
theorem test_clz_zero : after (.clz 7 0) busy (·.rg 7) = some 64 := by decide +kernel
theorem witness_ScalarInstructionsWriteTheirResult : Quiet busy ∧ scalarResult busy (.div 7 1 0) = some (7, 0xFFFFFFFFFFFFFFFF) ∧
    scalarResult busy (.add 0 1 2) = some (0, 4) ∧ scalarResult busy (.cAddi 1 (-2)) = some (1, 3) :=
  ⟨busy_calm.toQuiet, by decide +kernel⟩
/-- The most negative number over -1, and a product of 128 bits (R184, R185). -/
theorem test_div_overflow : after (.div 7 4 2) busy (·.rg 7) = some 0x8000000000000000 := by decide +kernel
theorem test_rem_overflow : after (.rem 7 4 2) busy (·.rg 7) = some 0 := by decide +kernel
theorem test_mulhu : after (.mulhu 7 2 2) busy (·.rg 7) = some 0xFFFFFFFFFFFFFFFE := by decide +kernel
theorem test_sub_wraps : after (.sub 7 0 1) busy (·.rg 7) = some 0xFFFFFFFFFFFFFFFB := by decide +kernel
theorem test_sha_rounds_down : after (.sha 7 4 3) busy (·.rg 7) = some 0xFFFFFF8000000000 := by decide +kernel
theorem test_sel_old : after (.sel 6 1 3) busy (·.rg 6) = some 5 := by decide +kernel
theorem witness_RegisterZeroIsHardWired : ∃ n : Nat, n ≠ 0 := ⟨1, by decide⟩
theorem test_g0_write_discarded : after (.add 0 1 1) busy (fun b => (b.rg 0, b.pc)) = some (0, 0x1004) := by decide +kernel

/-- The even target 24 and the odd target 5 (R192), branches that are taken and not taken. -/
theorem witness_ControlTransfersReachTheirTarget : Quiet busy ∧ Trappable busy ∧ branchOf busy (.beq 1 1 (-3)) = some (true, -3) ∧
    branchOf busy (.bltz 1 4) = some (false, 4) ∧ (busy.rg 3).getLsbD 0 = false ∧ (busy.rg 1).getLsbD 0 = true :=
  ⟨busy_calm.toQuiet, busy_trappable, by decide +kernel⟩
theorem test_beq_back : after (.beq 1 1 (-3)) busy (·.pc) = some 0xFFA := by decide +kernel
theorem test_dbnz_zero_wraps : after (.dbnz 7 (-6)) busy (fun b => (b.rg 7, b.pc)) = some (0xFFFFFFFFFFFFFFFF, 0xFF4) := by decide +kernel
theorem test_jl_links : after (.jl 8) busy (fun b => (b.rg 1, b.pc)) = some (0x1004, 0x1010) := by decide +kernel
theorem test_jr_odd_traps : after (.jr 1) busy (fun b => (b.pc, b.trap.cause, b.trap.pc, b.trap.inh)) = some (0x2000, 0x008, 0x1000, true) := by
  decide +kernel

/-! ### Vector instructions -/

/-- A thread whose traps of invalid operations and inexact results are enabled, with an F32 infinity and numbers in v1 and v2. -/
def trapping : State := thread {
  v := [(1, 0x3F8000007F800000), (2, 0x33800000FF800000)], numctl := 0x1100, pc := 0x1000, trap := ⟨0, 0, 0, 0, 0x2000, false, false, false⟩ }
theorem trapping_vectorQuiet : VectorQuiet trapping := vectorQuiet_of _ (by decide +kernel)
theorem trapping_trappable : Trappable trapping := trappable_of _ (by decide +kernel)

/-- A form's lanes raise nothing that traps. -/
def runs (s : State) (f : Option LaneForm) : Bool := f.any (fun f => (numericTrap s.me.numctl (laneFlags s f)).isNone)
/-- A form's lanes trap with a cause and value. -/
def traps (s : State) (f : Option LaneForm) (c : Nat) (v : Dword) : Bool :=
  f.any (fun f => numericTrap s.me.numctl (laneFlags s f) == some (c, v))

theorem witness_IntegerVectorsWorkLaneByLane : VectorQuiet busy ∧ runs busy (lanesOfI16 busy (.vaddI16 2 1 1 0)) = true ∧
    runs busy (lanesOfI32 busy (.vmacI32 2 1 1 3)) = true ∧ runs busy (lanesOfV8 busy (.vaddsI8 2 1 1 0)) = true :=
  ⟨busy_vectorQuiet, by decide +kernel⟩
/-- A lane wraps, and a masked-off lane keeps its value (R197, R200). -/
theorem test_vadd_i16_wraps : after (.vaddI16 1 1 1 6) (thread { g := [(6, 2)], v := [(1, 0x80018001)] }) (·.rv 1) = some 0x00028001 := by decide +kernel
/-- ∞ - ∞ raises NV, whose trap has the lowest number (R163): lane 0 raised it, and lane 1 only NX. -/
theorem witness_FloatVectorsWorkLaneByLane : VectorQuiet busy ∧ runs busy (lanesOfF32 busy (.vaddF32 2 1 1 0)) = true ∧
    runs busy (lanesOfBf16 busy (.vfmaBf16 2 1 1 0)) = true ∧ runs busy (lanesOfF16 busy (.vminF16 2 1 1 0)) = true ∧ VectorQuiet trapping ∧
    Trappable trapping ∧ traps trapping (lanesOfF32 trapping (.vaddF32 3 1 2 0)) 0x041 0x11 = true :=
  ⟨busy_vectorQuiet, by decide +kernel, by decide +kernel, by decide +kernel, trapping_vectorQuiet, trapping_trappable, by decide +kernel⟩
theorem test_vadd_f32 : after (.vaddF32 2 1 1 0) busy (·.rv 2) = some 0x4000000040800000 := by decide +kernel
theorem test_vadd_f32_traps : after (.vaddF32 3 1 2 0) trapping (fun b => (b.rv 3, b.trap.cause, b.trap.val, b.pc)) = some (0, 0x041, 0x11, 0x2000) := by
  decide +kernel
theorem witness_SpecialFunctionsWorkLaneByLane : VectorQuiet trapping ∧ (lanesOfSpecials trapping (.vsin 3 1 0 0)).isSome = true ∧
    (lanesOfSpecials trapping (.verf 3 1 0 1)).isSome = true ∧ runs (thread {}) (lanesOfSpecials (thread {}) (.vsqrt 3 1 0 0)) = true :=
  ⟨trapping_vectorQuiet, by decide +kernel⟩
theorem witness_LaneMovesWorkLaneByLane : VectorQuiet busy ∧ runs busy (lanesOfMoves busy (.vslideup 2 1 1 0)) = true ∧
    runs busy (lanesOfMoves busy (.vunpk8 2 1 2 0)) = true := ⟨busy_vectorQuiet, by decide +kernel⟩
theorem witness_ConversionsWorkLaneByLane : VectorQuiet busy ∧ runs busy (lanesOfConversions busy (.vcvtF32I32 2 1 0)) = true ∧
    VectorQuiet trapping ∧ Trappable trapping ∧ traps trapping (lanesOfConversions trapping (.vcvtI32F32 3 1 0)) 0x041 0x01 = true :=
  ⟨busy_vectorQuiet, by decide +kernel, trapping_vectorQuiet, trapping_trappable, by decide +kernel⟩
theorem witness_PredicatesAndComparesAreExact : VectorQuiet busy := busy_vectorQuiet
theorem test_vwhile_near_the_top : after (.vwhile32 7 4 2) busy (·.rg 7) = some 0xFFFFFFFF := by decide +kernel
theorem test_mfirst : after (.mfirst 7 3) busy (·.rg 7) = some 8 := by decide +kernel
theorem witness_ReductionsFollowTheFixedTree : VectorQuiet busy ∧ (reductionOf busy (.vredmaxF32 7 1 0)).isSome = true ∧
    (reductionOf busy (.vredsumBf16 7 1 6)).isSome = true := ⟨busy_vectorQuiet, by decide +kernel⟩
theorem test_vredmax_f32 : after (.vredmaxF32 7 1 0) busy (·.rg 7) = some 0x40000000 := by decide +kernel
theorem test_vredmax_none_active : after (.vredmaxF32 7 1 6) (thread { v := [(1, 5)] }) (·.rg 7) = some 0xFF800000 := by decide +kernel
theorem witness_NumericTrapIsTheLowestEnabled : (∀ p ∈ [(0, (0x10#7 : Flags)), (63, 0x11#7)], p.1 < 64) ∧
    numericTrap 0x1100 [(0, 0x10), (63, 0x11)] = some (0x041, 63 * 65536 + 0x11) := by decide +kernel
/-- 1 + 2⁻²⁴ is half way between two F32 values and rounds to the even one, without an overflow. -/
theorem witness_RoundingGoesToTheNearest : ∃ c : Ctl, c.rm = 0 ∧ c.ftz = false ∧ (2 ^ 24 + 1 : Nat) < 2 ^ 2047 ∧
    (roundFin fp32 c 0 0 false (2 ^ 24 + 1) (-24)).2.getLsbD 2 = false ∧ (roundFin fp32 c 0 0 false (2 ^ 24 + 1) (-24)).1 = 0x3F800000 :=
  ⟨(thread {}).ctl, by decide +kernel⟩

/-! ### CSRs, traps and the control of a thread -/

theorem witness_CsrInstructionsReadThenWrite : FieldsFit busy ∧ Quiet busy ∧ csrWrite busy 0 (.csrset 7 0 0x000) = some (7, 0x000, none) ∧
    busy.csr busy.curRef 0x014 = some 0x2000 ∧ csrWrite busy 0x2000 (.csrset 7 1 0x014) = some (7, 0x014, some 0x2005) ∧ csrWritable 0x014 = true :=
  ⟨(by constructor <;> decide +kernel), busy_calm.toQuiet, by decide +kernel⟩
/-- TRAPVEC keeps bits [63:48] 0 and reads bit 0 as 0 (R383). -/
theorem test_csrset_trapvec : after (.csrset 7 1 0x014) busy (fun b => (b.rg 7, b.trap.vec)) = some (0x2000, 0x2004) := by decide +kernel
theorem test_csrrd_tid : after (.csrrd 7 0x030) (thread { icount := 9 }) (·.rg 7) = some 9 := by decide +kernel
/-- CSRSET of a read-only CSR through g0 only reads; RM = 6 is illegal (R147, R161). -/
theorem witness_ForbiddenInstructionsTrap : Trappable busy ∧ dfld busy.me.numctl 2 0 < 6 ∧ instructionCause busy (.csrrd 7 0x7FF) = some 0x00A ∧
    instructionCause busy (.csrset 7 0 0x001) = none ∧ instructionCause busy (.csrset 7 1 0x001) = some 0x00A ∧
    instructionCause busy (.csrset 7 6 0x000) = some 0x006 ∧ instructionCause busy .eret = some 0x00A ∧ instructionCause busy .hend = some 0x00A ∧
    instructionCause (thread { kind := 1 }) .cExit = some 0x00A ∧ instructionCause (thread { kind := 2 }) (.hfcall 1 2 0) = some 0x00A :=
  ⟨busy_trappable, by decide +kernel⟩

/-- A thread inside its trap handler, whose repeat frame is frozen. -/
def handling : State := thread {
  pc := 0x2004, rpt := ⟨true, true, 0xFF0, 4, 2, 3, 0, 0, 0, 0, []⟩, trap := ⟨0x1000, 0x3C5, 0, 0, 0x2000, true, false, false⟩ }
theorem handling_quiet : Quiet handling := ⟨by decide +kernel, .inr (by decide +kernel), by decide +kernel, by decide +kernel⟩
theorem witness_SystemTrapsEnterAndEretReturns : Trappable busy ∧ (busy.tenant busy.me.tenant).debug = false ∧ Quiet handling ∧
    handling.me.trap.inh = true ∧ handling.me.rpt.frozen = true := ⟨busy_trappable, by decide +kernel, handling_quiet, by decide +kernel⟩
theorem test_trap_five : after (.trap 5) busy (fun b => (b.pc, b.trap.pc, b.trap.cause, b.trap.inh)) = some (0x2000, 0x1004, 0x3C5, true) := by decide +kernel
/-- ERET past the frozen frame's next word keeps it frozen, and to that word lets it go on (R389). -/
theorem test_eret : after .eret handling (fun b => (b.pc, b.trap.inh, b.rpt.frozen)) = some (0x1000, false, true) := by decide +kernel

/-- A launch of two tasks with one context each. -/
def job : Launch := {
  key := 1, tenant := 0, lid := 7, queue := some 0, root := 0, prio := 3, mode := 0, digest := false, taskCount := 2, hdr := 0x200000, quota := 2
  job := 0, phase := 0, graph := 0, rect := 0, arg := 0x55, s5 := 0, s6 := 6, s7 := 7, od := [], foot := 0x100, scratch := 0x40, entry := 0x80
  trapOff := 0, gCount := 32, vCount := 32, odCount := 8, numctl := 0, roles := [(0x40, 1), (0x60, 2)], regions := [], ceiling := 0, hash := 0, memb := 1
  next := 1, closed := false, lastTile := some 0, again := [], reserved := false, dropped := false, reset := false, cancelled := false, failed := false
  faulted := false, nrec := 0, digestParked := false, digestAt := (0, 0), digestRead := [], dig := none, stuckSince := none, stallSince := none, stallLogged := false }
/-- Its first task, in slots 0 and 1 of tile 0. -/
def task0 : Task := {
  id := 1, launch := 1, index := 0, tile := 0, slots := [0, 1], gen := 1, base := 0, copied := 0x100, staged := true, parked := none, killing := false, why := 0
  saving := false, quantum := false }
/-- A state with that launch and task, for the thread in slot 0. -/
def working (s : State) : State := { s with launches := [job], tasks := [task0], tenants := [(0, { memb := BitVec.allOnes 512 })] }
/-- A calm thread of the task. -/
def worker : State := working (thread { task := 1, pc := 0x200080, g := [(5, 0x100), (6, 0x40), (7, 0x300), (8, 7), (9, 1)] })
theorem worker_calm : Calm worker := calm_of _ (by decide +kernel)

/-- A debugged tenant's EBRK; a TRAP without a handler. -/
theorem witness_TrapsWithoutAHandlerHaltOrKill : Quiet { worker with tenants := [(0, { debug := true })] } ∧
    ({ worker with tenants := [(0, { debug := true })] }.tenant 0).debug = true ∧ (worker.log.head + 1) % 256 ≠ worker.log.tail ∧ Quiet worker ∧
    worker.me.kind < 2 ∧ worker.me.trap.vec = 0 ∧ worker.task? worker.me.task = some task0 ∧ worker.launch? 1 = some job :=
  ⟨(calm_of _ (by decide +kernel)).toQuiet, by decide +kernel, by decide +kernel, worker_calm.toQuiet, by decide +kernel⟩
theorem test_trap_without_handler_kills : (goes (exec (.trap 1) worker)).map (fun t => (t.tasks.map (·.killing), t.launches.map (·.faulted))) =
    some ([true], [true]) := by decide +kernel
theorem test_debug_halt : after (.ebrk 3) { worker with tenants := [(0, { debug := true })] } (fun b => (b.wait, b.pc)) = some (some .debug, 0x200084) := by
  decide +kernel
/-- Leash code and an activation whose traps find no handler. -/
def fatal (k : Nat) : State :=
  { working ({ State.reset with tiles := [(0x190, { seize := { st := 3, first := true } })] }.setCtx 0x190 1 { active := 1, b1 := { seeded := true, kind := k, task := 1, quantLeft := 9 } }) with cur := (0x190, 1), len := 4 }
theorem witness_fatal_returns : Quiet (fatal 2) ∧ Quiet (fatal 3) ∧ (fatal 2).dying (fatal 2).curRef = false ∧ (fatal 3).dying (fatal 3).curRef = false ∧
    (fatal 3).curRef.bank = 1 ∧ (fatal 2).me.trap.vec = 0 := by
  refine ⟨⟨by decide +kernel, .inl (by decide +kernel), by decide +kernel, by decide +kernel⟩,
    ⟨by decide +kernel, .inl (by decide +kernel), by decide +kernel, by decide +kernel⟩, by decide +kernel⟩

/-- Both services with their boundary, a skipped repeat and a repeat. -/
theorem witness_ControlInstructionsComplete : Calm worker ∧ worker.me.rpt.frozen = false ∧ worker.me.kind < 2 ∧ (2 : BitVec 6).toNat < 3 ∧
    (worker.rg 0).setWidth 32 = 0#32 ∧ (worker.rg 9).setWidth 32 ≠ 0#32 :=
  ⟨worker_calm, by decide +kernel⟩
/-- A page for ATTEST's report; and whatever the firmware decides for a tenant, one clause of HFCALL applies. -/
def attested : State := { worker.setMe { worker.me with g := [(3, 0x200000)], trap := ⟨0, 0, 0, 0, 0x2000, false, false, false⟩ } with tlb := [(0, 0, 8, 5, true, true)] }
theorem witness_services : Calm attested ∧ Trappable attested ∧ (attested.attestBuffer attested.curRef 0x200000).2.toOption.isSome = true ∧
    (Config.serviceRefused attested.me.tenant 2 = false ∨ Config.serviceRefused attested.me.tenant 2 = true) :=
  ⟨calm_of _ (by decide +kernel), trappable_of _ (by decide +kernel), by decide +kernel, by cases Config.serviceRefused attested.me.tenant 2 <;> simp⟩
theorem test_rpt_zero_skips : after (.rpt 0 2 0 0 0) worker (fun b => (b.pc, b.rpt.act)) = some (0x200090, false) := by decide +kernel
theorem test_time : after (.time 7) { worker with boot := { worker.boot with dtb := 99 } } (·.rg 7) = some 99 := by decide +kernel

/-- CANCEL of the live launch 7, and of an ID at the limit of a graph's that names nothing. -/
theorem witness_CancelKillsWhatItNames : Calm worker ∧ worker.me.kind < 2 ∧ (worker.rg 8).toNat < 2 ^ 32 ∧
    (∃ l ∈ worker.launches, cancelNames worker 1 (worker.rg 8).toNat l ∧ l.cancelled = false) ∧ (worker.inst? worker.me.tenant 2 (worker.rg 8).toNat).isSome = false ∧
    ({ worker with insts := [⟨0, 2, 7, 0, false, false, 1, false, false, false, 0, []⟩] }.inst? 0 2 7).isSome = true :=
  ⟨worker_calm, by decide +kernel, by decide +kernel, ⟨job, by decide +kernel, by unfold cancelNames; decide +kernel, rfl⟩, by decide +kernel⟩
theorem test_cancel_unknown : after (.cancel 9 6 2) worker (·.rg 9) = some 1 := by decide +kernel

/-- A thread whose task owns slots 0 and 1; lane 1 is free in slot 1, lane 0 is live, lane 2 does not exist. -/
theorem witness_WorkIsStartedAndCancelled : Calm worker ∧ isXa worker.cur.1 = false ∧ worker.me.kind = 0 ∧ worker.task? worker.me.task = some task0 ∧
    worker.launchOf worker.me = some job ∧ (worker.rg 5).toNat < 2 ^ 16 ∧ job.role (dfld (worker.rg 5) 7 0) 1 = some 0x40 ∧
    task0.slots[dfld (worker.rg 5) 15 8]? = some 1 ∧ worker.laneLive task0 1 = false ∧ worker.handlerLive task0 1 = false ∧
    worker.promised task0.tile 1 = false ∧ worker.awaited task0.tile 1 = false ∧ (⟨task0.tile, 1, 0⟩ : BankRef) ≠ worker.curRef ∧
    worker.laneLive task0 0 = true ∧ task0.slots.length ≤ 2 := ⟨worker_calm, by decide +kernel⟩
/-- The same while a handler lives in slot 1. -/
def handled : State := worker.setBank ⟨0, 1, 0⟩ { task := 1, seeded := true, kind := 1 }
theorem witness_spawn_finds_a_handler : Calm handled ∧ handled.laneLive task0 1 = false ∧ handled.handlerLive task0 1 = true :=
  ⟨calm_of _ (by decide +kernel), by decide +kernel⟩
theorem test_spawn_seeds : (goes (exec (.spawn 9 5 7) worker)).map (fun t => (t.bank ⟨0, 1, 0⟩).pc) = some 0x200040 ∧
    (goes (exec (.spawn 9 5 7) worker)).map (fun t => [1, 2, 3, 4, 5].map (fun r => (t.bank ⟨0, 1, 0⟩).rg r)) = some [0, 1, 0x55, 7, 0x300] := by
  decide +kernel
theorem test_spawn_live_lane : after (.spawn 9 0 7) worker (·.rg 9) = some 1 := by decide +kernel

/-- A lane that ends, an activation that ends, a burst handler that ends, and one with a copy outstanding. -/
def serving : State := working (thread { task := 1, kind := 1, burst := some (4, 2) })
theorem witness_ThreadsEndAndReportBursts : Calm worker ∧ worker.resvOf worker.curRef = [] ∧ Calm serving ∧ serving.me.kind = 1 ∧
    serving.engineBusy serving.curRef = false ∧ serving.resvOf serving.curRef = [] ∧ worker.task? 1 = some task0 ∧ worker.burstQueue 0 ≤ 16 ∧
    (worker.tile 0).bteUsed ≤ 16 := ⟨worker_calm, by decide +kernel, calm_of _ (by decide +kernel), by decide +kernel⟩
/-- A handler that has a copy outstanding, and an activation at its EXIT. -/
def busyHandler : State := { serving with tiles := [(0, { bte := [{
  id := 1, owner := ⟨0, 0, 0⟩, thread := 0, task := 1, minor := 0, pc := 0, desc := [], start := [], near := 0, recAt := none, out := false, rel := false
  acq := false, scope := 0, axis := 0, step := 0, parked := [], todo := [0], got := [], pass := none, chunks := 0, oob := false, inb := false
  skipped := false, status := 0 }] })] }
def activation : State :=
  { State.reset.setCtx 0x190 0 { active := 1, b1 := { seeded := true, kind := 3, quantLeft := 1 } } with cur := (0x190, 0), len := 4 }
theorem witness_ends_that_wait : Calm busyHandler ∧ busyHandler.engineBusy busyHandler.curRef = true ∧ Calm activation ∧ activation.me.kind = 3 ∧
    activation.curRef.bank = 1 := ⟨calm_of _ (by decide +kernel), by decide +kernel, calm_of _ (by decide +kernel), by decide +kernel⟩
theorem test_exit_frees : (goes (exec .cExit worker)).map (fun t => t.me.seeded) = some false := by decide +kernel
theorem test_bqry : after (.bqry 7) worker (·.rg 7) = some 0x20000 := by decide +kernel

/-! ### Memory -/

/-- A thread at the ends of its tile's task space, with bytes at the last doubleword, a full tag there, and a vector to store. -/
def memory : State :=
  let s := thread {
    pc := 0x1000, g := [(3, 0xEFFF8), (4, 0xF0000), (5, 0xFFFF000000000000), (6, 0xFFFFFFFFFFFFFFFF), (7, 1), (8, 0x81), (9, 0xEFFF0)]
    v := [(1, 0x0000000B0000000A)], trap := ⟨0, 0, 0, 0, 0x2000, false, false, false⟩ }
  { s with mem := [(lsLoc 0 0xEFFF8, 0x80), (lsLoc 0 0xEFFFF, 0xFF)], tiles := [(0, { tags := [0x1DFFF] })] }
theorem memory_calm : Calm memory := calm_of _ (by decide +kernel)
theorem memory_wf : Memory.wf memory.mem = true := by decide +kernel
theorem memory_reaches : Reachable memory 0xEFFF8 8 0 memory (lsLoc 0 0xEFFF8) := (by constructor <;> decide +kernel)
theorem memory_writes : Reachable memory 0xEFFF8 8 1 memory (lsLoc 0 0xEFFF8) := (by constructor <;> decide +kernel)

/-- The last doubleword of the task space is loaded and stored. -/
theorem witness_LoadsAndStoresMoveTheirBytes : Calm memory ∧ loadOf memory (.ld64 5 3 2 0) = some (5, 2, 0xEFFF8, 8, false) ∧
    Reachable memory 0xEFFF8 8 0 memory (lsLoc 0 0xEFFF8) ∧ Memory.wf memory.mem = true ∧
    storeOf memory (.st64 6 3 0 0) = some (0xFFFFFFFFFFFFFFFF, 0, 0xEFFF8, 8) ∧ Reachable memory 0xEFFF8 8 1 memory (lsLoc 0 0xEFFF8) :=
  ⟨memory_calm, by decide +kernel, memory_reaches, memory_wf, by decide +kernel, memory_writes⟩
theorem test_ld_s8 : after (.ldS8 5 3 0 0) memory (·.rg 5) = some 0xFFFFFFFFFFFFFF80 := by decide +kernel
theorem test_ld_64 : after (.ld64 5 9 0 1) memory (·.rg 5) = some 0xFF00000000000080 := by decide +kernel
/-- With LK = 1 the register changes only after one more instruction (R63). -/
theorem test_ld_window : after (.ldZ8 5 3 1 0) memory (fun b => (b.rg 5, b.wins.length)) = some (0xFFFF000000000000, 1) := by decide +kernel
theorem test_st_bytes : (goes (exec (.st16 6 3 0 1) memory)).map (·.mem) =
    some [(lsLoc 0 0xEFFF8, 0x80), (lsLoc 0 0xEFFFA, 0xFF), (lsLoc 0 0xEFFFB, 0xFF), (lsLoc 0 0xEFFFF, 0xFF)] := by decide +kernel

/-- A thread of a tenant whose page table in DRAM lists nothing: every translated page is absent. -/
def absent : State := { thread { g := [(3, 0x200000)] } with tenants := [(0, { ptEn := true, ptBase := 0x1000 })] }
/-- A thread of a tenant with a cached translation of one granule to DRAM, and with a trap handler. -/
def mapped : State := { thread { g := [(3, 0x200000)], trap := ⟨0, 0, 0, 0, 0x2000, false, false, false⟩ } with tlb := [(0, 0, 8, 5, true, true)] }
/-- g1 of the free context 1 of the thread's own tile, through the tile's window (R143, R245, R246). -/
def window : State := { thread { g := [(3, 0xFF0000100408), (4, 9)] } with tenants := [(0, { memb := 1 })] }
theorem witness_WindowAccessesReachTheirPart : Calm window ∧ (0x100408 : Nat) < 2 ^ 22 ∧
    window.unitBusy 0 0x100408 (window.me.unitPass.getD window.fresh) = false ∧
    loadOf window (.ld64 5 3 0 0) = some (5, 0, 0xFF0000100408, 8, false) ∧
    window.check window.req 0xFF0000100408 8 0 = (window, .ok (.win 0 0x100408)) ∧
    storeOf window (.st64 4 3 0 0) = some (9, 0, 0xFF0000100408, 8) ∧
    window.check window.req 0xFF0000100408 8 1 = (window, .ok (.win 0 0x100408)) :=
  ⟨calm_of _ (by decide +kernel), by decide +kernel⟩
theorem test_window_store : (goes (exec (.st64 4 3 0 0) window)).map (fun t => (t.bank ⟨0, 1, 0⟩).rg 1) = some 9 := by decide +kernel
/-- The ends of the ranges of the window's parts, and a pending result in a register that the window shows. -/
theorem witness_window_parts : isLa 0 = true ∧ isXa 0x190 = true ∧ (window.ctx 0 7).reflex.miss < 2 ^ 16 ∧ (28 : Nat) ≤ 28 ∧
    (window.bank ⟨0, 1, 0⟩).port (31 - 28) = none ∧ 127 + 1 ≤ 128 ∧ 0x3FF + 1 ≤ 0x400 ∧ (window.bank ⟨0, 7, 1⟩).pend = [] ∧
    (thread { pend := [⟨.g 5, 0, 4, 1, []⟩] }).me.pend = [⟨.g 5, 0, 4, 1, []⟩] := by decide +kernel
/-- g0 reads 0 and discards a write, and an XA tile shows the lower half of its vector registers (R143, R246). -/
theorem test_window_layout : window.winWrite 0 0x100400 8 7 = window.setBank ⟨0, 1, 0⟩ (window.bank ⟨0, 1, 0⟩) ∧
    (xaThread { v := [(0, BitVec.allOnes 1024)] }).winRead 0x190 (0x180000 + 60) 8 = 0xFFFFFFFF := by decide +kernel

/-- An access beyond the task space, a misaligned one, and one whose page is not present (R243, R254, R266). -/
theorem witness_RefusedAccessesTrapOrPark : Calm memory ∧ Trappable memory ∧ loadOf memory (.ld64 5 4 0 0) = some (5, 0, 0xF0000, 8, false) ∧
    memory.check memory.req 0xF0000 8 0 = (memory, .trap 0x082) ∧ storeOf memory (.st16 6 8 0 0) = some (0xFFFFFFFFFFFFFFFF, 0, 0x81, 2) ∧
    memory.check memory.req 0x81 2 1 = (memory, .trap 0x081) ∧
    loadOf absent (.ld64 5 3 0 0) = some (5, 0, 0x200000, 8, false) ∧ Calm absent ∧ (∃ u, absent.check absent.req 0x200000 8 0 = (u, .absent)) := by
  and_intros <;> first
    | exact memory_calm
    | exact trappable_of _ (by decide +kernel)
    | exact calm_of _ (by decide +kernel)
    | exact ⟨_, Prod.ext rfl (by decide +kernel)⟩
    | decide +kernel
theorem test_refused_load : after (.ld64 5 4 0 0) memory (fun b => (b.pc, b.trap.cause, b.trap.addr, b.trap.pc)) = some (0x2000, 0x082, 0xF0000, 0x1000) := by
  decide +kernel

/-- Boundary addresses of the map: the last doubleword of a task's near window and the first beyond it, and translated and reserved regions meet in no
address (R242, R243). -/
theorem witness_AddressChecksFollowTheMap : memory.checkMap memory.req 0xEFFF8 8 0 = none ∧ memory.checkMap memory.req 0xF0000 8 0 = some 0x082 ∧
    memory.checkMap memory.req 0x100000 8 0 = none ∧ memory.checkMap memory.req 0xFE0000000000 8 0 = some 0x082 ∧
    memory.checkMap memory.req 0xFE8002000000 8 0 = some 0x082 ∧ memory.checkMap memory.req (2 ^ 48) 8 0 = some 0x082 ∧
    (∃ s : State, s.tlbFind 0 0 0x200000 = some (5, false, false) ∧ s.translate ⟨0, 0, .task⟩ 0x200000 1 = (s, .trap 0x0C2)) := by
  and_intros <;> first
    | exact ⟨{ thread {} with tlb := [(0, 0, 0x200000 / 2 ^ 18, 5, false, false)] }, by decide +kernel⟩
    | decide +kernel

/-- C.RLX in front of a load with a window, and of a store. -/
def relaxed (i : Instr) : State := { memory with len := 2, follow := ⟨some i, 0, 4, 0⟩ }
theorem witness_RelaxedAccessesStayOutstanding : Calm (relaxed (.ld64 5 3 2 0)) ∧ (relaxed (.ld64 5 3 2 0)).follow.cause = 0 ∧
    loadOf (relaxed (.ld64 5 3 2 0)) (.ld64 5 3 2 0) = some (5, 2, 0xEFFF8, 8, false) ∧
    Reachable (relaxed (.ld64 5 3 2 0)) 0xEFFF8 8 0 (relaxed (.ld64 5 3 2 0)) (lsLoc 0 0xEFFF8) ∧ Calm (relaxed (.st64 6 3 0 0)) ∧
    storeOf (relaxed (.st64 6 3 0 0)) (.st64 6 3 0 0) = some (0xFFFFFFFFFFFFFFFF, 0, 0xEFFF8, 8) ∧
    Reachable (relaxed (.st64 6 3 0 0)) 0xEFFF8 8 1 (relaxed (.st64 6 3 0 0)) (lsLoc 0 0xEFFF8) ∧ Trappable (relaxed (.add 1 2 3)) ∧
    (relaxed (.add 1 2 3)).follow.ins = some (.add 1 2 3) :=
  ⟨calm_of _ (by decide +kernel), by decide +kernel, by decide +kernel, (by constructor <;> decide +kernel), calm_of _ (by decide +kernel),
    by decide +kernel, (by constructor <;> decide +kernel), trappable_of _ (by decide +kernel), by decide +kernel⟩
theorem test_relaxed_store : (goes (exec (.cRlx 4) (relaxed (.st64 6 3 0 0)))).map (fun t => (t.mem == memory.mem, t.me.rlx.length, t.me.pc)) =
    some (true, 1, 0x1006) := by decide +kernel
theorem test_prefix_traps : after (.cRlx 4) (relaxed (.add 1 2 3)) (fun b => (b.trap.cause, b.trap.pc, b.trap.val)) = some (0x007, 0x1000, 0x122) := by
  decide +kernel

/-- One relaxed store outstanding in front of a fence. -/
def storing : State := { memory with len := 4 }.setMe { memory.me with rlx := [⟨3, 4, true, false, 0xEFFF0, [⟨lsLoc 0 0xEFFF0, 8, 0x11⟩], 0, 0, 0, none⟩] }
theorem witness_FencesPerformWhatIsOutstanding : Calm memory ∧ Quiet storing ∧ Memory.wf storing.mem = true ∧
    (∀ t, (storing.tile t).trctl.getLsbD 0 = false) ∧ (∃ a, storing.me.rlx = [a] ∧ a.write = true ∧ a.parts = [⟨lsLoc 0 0xEFFF0, 8, 0x11⟩]) ∧
    (lsLoc 0 0xEFFF0 < 2 ^ 46 ∧ storing.ldtHeld storing.curRef = false) ∧ Intact storing :=
  ⟨memory_calm, ⟨by decide +kernel, .inl (by decide +kernel), by decide +kernel, by decide +kernel⟩, by decide +kernel, rings_off _ (by decide +kernel),
    ⟨_, rfl, rfl, rfl⟩, by decide +kernel, intact_of _ (by decide +kernel)⟩
theorem test_fence_performs : (goes (exec (.fence 1) storing)).map (fun t => (memGet t.mem (lsLoc 0 0xEFFF0), t.me.rlx.length)) = some (0x11, 0) := by
  decide +kernel

/-- A full word at the end of the task space, an empty one in front of it, and a word of DRAM, which has no tag. -/
theorem witness_FullEmptyInstructionsActOnTheTag : Calm memory ∧ Memory.wf memory.mem = true ∧ (feForm memory (.ldfe 5 3 0 0)).isSome = true ∧
    Reachable memory 0xEFFF8 8 1 memory (lsLoc 0 0xEFFF8) ∧ memory.tag (lsLoc 0 0xEFFF8) = true ∧
    memory.armedOn (locTile (lsLoc 0 0xEFFF8)) (locOff (lsLoc 0 0xEFFF8)) = none ∧ (memory.tile (locTile (lsLoc 0 0xEFFF8))).waits = [] ∧
    memory.tag (lsLoc 0 0xEFFF0) = false ∧ Reachable memory 0xEFFF0 8 1 memory (lsLoc 0 0xEFFF0) ∧ isLsLoc 0x140000 = false ∧
    Reachable mapped 0x200000 8 1 mapped 0x140000 ∧ Trappable mapped := by
  and_intros <;> first
    | exact memory_calm
    | exact memory_wf
    | exact memory_writes
    | (constructor <;> decide +kernel)
    | exact trappable_of _ (by decide +kernel)
    | decide +kernel
theorem test_ldfe_takes : (goes (exec (.ldfe 5 3 0 0) memory)).map (fun t => (t.me.rg 5, t.tag (lsLoc 0 0xEFFF8))) = some (0xFF00000000000080, false) := by
  decide +kernel
theorem test_ldfe_waits : after (.ldfe 5 9 0 0) memory (fun b => (b.wait.isSome, b.pc)) = some (true, 0x1004) := by decide +kernel
theorem test_fe_outside : after (.ldfe 5 3 0 0) mapped (fun b => (b.trap.cause, b.trap.addr)) = some (0x101, 0x200000) := by decide +kernel

/-- Lanes at the end of the task space: two active ones, strides of -4, and offsets of which one is all ones. -/
def lanes : State := memory.setMe { memory.me with
  g := [(3, 0xEFFF8), (4, 3), (5, 0x00000002FFFFFFFC), (6, 0x0001000000000000)], v := [(1, 0x0000000B0000000A), (2, BitVec.allOnes 1024 <<< 32)] }
theorem lanes_reach : ∀ p ∈ [(0, (0xEFFF8 : Dword)), (1, 0xEFFFC), (1, 0xEFFF4)],
    ∀ k ∈ [0, 1], lanes.check lanes.req p.2.toNat 4 k = (lanes, .ok (.mem (lsLoc 0 p.2.toNat))) ∧ lsLoc 0 p.2.toNat < 2 ^ 46 := by decide +kernel
theorem witness_VectorMemoryWorksLaneByLane : Calm lanes ∧ Memory.wf lanes.mem = true ∧
    (laneAccess lanes (.vld 4 3 4 0)).map (·.lanes) = some [(0, 0xEFFF8), (1, 0xEFFFC)] ∧
    (laneAccess lanes (.vsts 1 3 5 0)).map (·.lanes) = some [(0, 0xEFFF8), (1, 0xEFFF4)] ∧
    (laneAccess lanes (.vldx 4 3 2 0)).map (·.lanes) = some [(0, 0xEFFF8)] ∧ Trappable lanes ∧ lanes.me.ports = [] ∧
    (lanes.rg 6).toNat / 2 ^ 48 ≠ 0 := by
  and_intros <;> first
    | exact calm_of _ (by decide +kernel)
    | exact trappable_of _ (by decide +kernel)
    | decide +kernel
theorem test_vsts : (goes (exec (.vsts 1 3 5 0) lanes)).map (fun t => (memGet t.mem (lsLoc 0 0xEFFF8), memGet t.mem (lsLoc 0 0xEFFF4))) =
    some (0x0A, 0x0B) := by decide +kernel
/-- C.RLX in front of a vector load and store, and in front of an undecodable word. -/
def relaxedLanes (i : Instr) : State := { lanes with len := 2, follow := ⟨some i, 0, 4, 0⟩ }
theorem witness_relaxed_lanes : Calm (relaxedLanes (.vld 4 3 4 1)) ∧ (laneAccess (relaxedLanes (.vld 4 3 4 1)) (.vld 4 3 4 1)).map (fun f => (f.k, f.store, f.lanes)) =
      some (1, false, [(0, 0xEFFF8), (1, 0xEFFFC)]) ∧
    (laneAccess (relaxedLanes (.vld 4 3 4 0)) (.vld 4 3 4 0)).map (fun f => (f.k, f.store)) = some (0, false) ∧
    (laneAccess (relaxedLanes (.vsts 1 3 5 0)) (.vsts 1 3 5 0)).map (fun f => (f.store, f.lanes)) = some (true, [(0, 0xEFFF8), (1, 0xEFFF4)]) ∧
    mayBeRelaxed (.cRlx 4) = false ∧ mayBeRelaxed (.ldfe 5 3 0 0) = false ∧ Trappable { relaxedLanes (.add 1 2 3) with follow := ⟨none, 0x002, 4, 0x80046303⟩ } := by
  and_intros <;> first
    | exact calm_of _ (by decide +kernel)
    | exact trappable_of _ (by decide +kernel)
    | decide +kernel

/-! ### Words that threads share -/

/-- The calm thread with a reservation of the last word of its task space, its own or another's. -/
def reserved (who : BankRef) : State :=
  { memory with tiles := [(0, { tags := [0x1DFFF], resv := [⟨lsLoc 0 0xEFFF8, who⟩] })] }
theorem witness_AtomicsActOnOneWord : Calm memory ∧ Memory.wf memory.mem = true ∧ WordReached memory (memory.rg 3) (lsLoc 0 0xEFFF8) ∧
    memory.resvOf memory.curRef = [] ∧ memory.holder (lsLoc 0 0xEFFF8) = none ∧ (memory.resvTable (lsLoc 0 0xEFFF8)).length < 16 ∧
    Calm (reserved ⟨0, 0, 0⟩) ∧ (reserved ⟨0, 0, 0⟩).holder (lsLoc 0 0xEFFF8) = some (reserved ⟨0, 0, 0⟩).curRef ∧
    (reserved ⟨0, 0, 0⟩).resvOf (reserved ⟨0, 0, 0⟩).curRef ≠ [] ∧ Trappable (reserved ⟨0, 0, 0⟩) ∧ Calm (reserved ⟨0, 1, 0⟩) ∧
    WordReached (reserved ⟨0, 1, 0⟩) 0xEFFF8 (lsLoc 0 0xEFFF8) ∧ (reserved ⟨0, 1, 0⟩).holder (lsLoc 0 0xEFFF8) = some ⟨0, 1, 0⟩ ∧
    (atomForm memory (.cas 5 3 6 0)).isSome = true :=
  ⟨memory_calm, memory_wf, (by constructor <;> decide +kernel), by decide +kernel, by decide +kernel, by decide +kernel,
    calm_of _ (by decide +kernel), by decide +kernel, by decide +kernel, trappable_of _ (by decide +kernel), calm_of _ (by decide +kernel),
    (by constructor <;> decide +kernel), by decide +kernel⟩
theorem test_arsv : (goes (exec (.arsv 5 3) memory)).map (fun t => (t.me.rg 5, t.holder (lsLoc 0 0xEFFF8))) =
    some (0xFF00000000000080, some ⟨0, 0, 0⟩) := by decide +kernel
theorem test_fadd : (goes (exec (.fadd 5 3 7 0) memory)).map (fun t => (t.me.rg 5, memGet t.mem (lsLoc 0 0xEFFF8))) = some (0xFF00000000000080, 0x81) := by
  decide +kernel
theorem test_cas_fails : (goes (exec (.cas 7 3 6 0) memory)).map (fun t => (t.me.rg 7, t.mem == memory.mem)) = some (0xFF00000000000080, true) := by
  decide +kernel
theorem test_arls_without_reservation : after (.arls 3 6) memory (·.trap.cause) = some 0x282 := by decide +kernel
/-- The last word of the task space held by context 1, by contexts of other words until the table is full, and held by the thread while context 1 waits. -/
def crowded : State :=
  { memory with tiles := [(0, { tags := [0x1DFFF], resv := (List.range 16).map (fun n => ⟨lsLoc 0 (8 * n), ⟨1, 0, 0⟩⟩) })] }
def passing (minor : Nat) (ws : List Window) : State :=
  { reserved ⟨0, 0, 0⟩ with tiles := [(0, { tags := [0x1DFFF], resv := [⟨lsLoc 0 0xEFFF8, ⟨0, 0, 0⟩⟩], waits := [⟨⟨0, 1, 0⟩, lsLoc 0 0xEFFF8⟩] })] }.setBank
    ⟨0, 1, 0⟩ { seeded := true, wins := ws, wait := some (.resv (lsLoc 0 0xEFFF8) minor 5 7 9 2 true) }
theorem witness_reservations_pass : Calm (reserved ⟨0, 1, 0⟩) ∧ WordReached (reserved ⟨0, 1, 0⟩) ((reserved ⟨0, 1, 0⟩).rg 3) (lsLoc 0 0xEFFF8) ∧
    (reserved ⟨0, 1, 0⟩).resvOf (reserved ⟨0, 1, 0⟩).curRef = [] ∧ ((reserved ⟨0, 1, 0⟩).holder (lsLoc 0 0xEFFF8)).isSome = true ∧ Calm crowded ∧
    WordReached crowded (crowded.rg 3) (lsLoc 0 0xEFFF8) ∧ crowded.holder (lsLoc 0 0xEFFF8) = none ∧ 16 ≤ (crowded.resvTable (lsLoc 0 0xEFFF8)).length ∧
    crowded.resvOf crowded.curRef = [] ∧
    Calm (passing 0 []) ∧ Memory.wf (passing 0 []).mem = true ∧
    (passing 0 []).checkMap (passing 0 []).req ((passing 0 []).rg 3).toNat 8 1 = none ∧
    atomLoc (passing 0 []).req ((passing 0 []).rg 3).toNat = some (lsLoc 0 0xEFFF8) ∧
    (passing 0 []).holder (lsLoc 0 0xEFFF8) = some (passing 0 []).curRef ∧
    (passing 0 []).waitTable (lsLoc 0 0xEFFF8) = [⟨⟨0, 1, 0⟩, lsLoc 0 0xEFFF8⟩] ∧
    ((passing 0 []).bank ⟨0, 1, 0⟩).wait = some (.resv (lsLoc 0 0xEFFF8) 0 5 7 9 2 true) ∧
    Calm (passing 3 [⟨1, .g 5, none, none, 0, 2, false, []⟩]) ∧
    ((passing 3 [⟨1, .g 5, none, none, 0, 2, false, []⟩]).bank ⟨0, 1, 0⟩).wins = [⟨1, .g 5, none, none, 0, 2, false, []⟩] := by
  and_intros <;> first
    | exact calm_of _ (by decide +kernel)
    | decide +kernel

/-- A reduction on its way, of the task of `worker`, to a word of its own task space. -/
def onTheWay (minor : Nat) (va : Dword) (det : Bool) : Reduction := ⟨1, va, 5, minor, det, false, 4, ⟨0, 0, 0⟩, 0, 1, 0, false, none⟩
/-- A working thread with a full reduction path, or with one reduction. -/
def reducing (rs : List Reduction) : State :=
  { worker with
    tiles := [(0, { reds := rs })], mem := [(0x140000, 2), (lsLoc 0 0x80, 3)], tlb := [(0, 0, 8, 5, true, true)], wacc := [⟨0, 0x140000, false, 0, false, false, false, 0⟩] }.setMe
    { worker.me with g := [(1, 0x80), (2, 0x200000), (3, 5)], trap := ⟨0, 0, 0, 0, 0x2000, false, false, false⟩ }
theorem witness_ReductionsCombineInOneAction : Calm (reducing []) ∧ (redForm (reducing []) (.redAdd64 0 1 3 4 0)).isSome = true ∧
    (reducing []).checkMap (reducing []).req 0x80 8 1 = none ∧ ((reducing []).tile 0).reds.length < 64 ∧
    64 ≤ ((reducing (List.replicate 64 (onTheWay 0 0x80 false))).tile 0).reds.length ∧ Calm (reducing (List.replicate 64 (onTheWay 0 0x80 false))) ∧
    (reducing [onTheWay 0 0x80 false]).allReds[0]? = some (0, onTheWay 0 0x80 false) ∧
    (reducing [onTheWay 0 0x80 false]).task? 1 = some task0 ∧ (reducing [onTheWay 0 0x80 false]).redBehind 0 (onTheWay 0 0x80 false) = false ∧
    (reducing [onTheWay 0 0x80 false]).redCheck (onTheWay 0 0x80 false) = (reducing [onTheWay 0 0x80 false], .ok (.mem (lsLoc 0 0x80))) ∧
    (reducing [onTheWay 9 0x200000 true]).redCheck (onTheWay 9 0x200000 true) = (reducing [onTheWay 9 0x200000 true], .ok (.mem 0x140000)) ∧
    (reducing [onTheWay 9 0x200000 true]).wacc? 0 0x140000 = some ⟨0, 0x140000, false, 0, false, false, false, 0⟩ ∧
    Reachable (reducing []) 0x200000 2 0 (reducing []) 0x140000 ∧ Reachable (reducing []) 0x200000 2 1 (reducing []) 0x140000 ∧
    (reducing []).wacHeld (reducing []).curRef 0x140000 = false := by
  and_intros <;> first
    | exact calm_of _ (by decide +kernel)
    | decide +kernel
    | (constructor <;> decide +kernel)
theorem witness_reductions_of_memory : Intact (reducing [onTheWay 0 0x80 false]) ∧ ((reducing []).bank ⟨0, 0, 0⟩).wait = none ∧ task0.killing = false ∧
    (match region 0x80 with
      | .mbm _ => false
      | _ => true) = true ∧ isTrans 0x200000 = true ∧ isDramLoc 0x140000 = true := ⟨intact_of _ (by decide +kernel), by decide +kernel⟩
theorem test_reduction_performs : (goes (exec (.reductionPerform 0) (reducing [onTheWay 0 0x80 false]))).map
    (fun t => (memGet t.mem (lsLoc 0 0x80), (t.tile 0).reds.length)) = some (8, 0) := by decide +kernel
theorem test_reduction_waits : after (.redAdd64 0 1 3 4 0) (reducing (List.replicate 64 (onTheWay 0 0x80 false))) (·.wait) = some (some .redFull) := by
  decide +kernel
theorem test_wacrd_unbound : after (.wacrd 5 2 0) { reducing [] with wacc := [] } (·.rg 5) = some 0 := by decide +kernel

/-- A barrier of the launch in slot 7, with 1 of 2 arrivals, over tiles 0 and 16. -/
def slot7 : BarSlot := ⟨1, 2, 0x200, 9, 1, false, 0⟩
def barred : State :=
  { worker with tiles := [(0, { bars := [(7, slot7)] })] }.setMe { worker.me with g := [(1, 7), (2, 9), (3, 0x0107), (4, 0), (5, 0x0106)] }
theorem witness_BarriersCountAndRelease : Calm barred ∧ OwnBarrier barred (barred.rg 1) 7 slot7 ∧ barred.engineBusy barred.curRef = false ∧
    slot7.arrived < slot7.loc ∧ (barred.rg 5).toNat < 2 ^ 16 ∧ dfld (barred.rg 5) 7 3 = 0 ∧ 1 ≤ dfld (barred.rg 5) 15 8 ∧ rectOk 0 = true ∧
    (rectTiles 0).all (fun t => barred.usable barred.me.tenant t) = true ∧ inRect 0 0 = true ∧ barred.bar 0 (dfld (barred.rg 5) 2 0) = none ∧
    (barred.tile 0).held = [] ∧ barred.bar 0 (dfld (barred.rg 3) 2 0) = some slot7 ∧
    { barred with net := [.arrival 0 7 1 1] }.net[0]? = some (.arrival 0 7 1 1) ∧ { barred with net := [.release 0 7 1] }.net[0]? = some (.release 0 7 1) ∧
    (barred.tileBanks 0).all (fun r => (barred.bank r).wait == none) = true ∧ (rectTiles slot7.rect).length = 2 :=
  ⟨calm_of _ (by decide +kernel), (by constructor <;> decide +kernel), by decide +kernel⟩
theorem test_barv_last : (goes (exec (.barv 6 1) barred)).map (fun t => (t.bar 0 7, t.net, t.me.rg 6)) =
    some (some { slot7 with arrived := 0, pend := true }, [.arrival 0 7 1 1], 9) := by decide +kernel
theorem test_barrier_release : (goes (exec (.barrierRelease 0) { barred with net := [.release 0 7 1] })).map (fun t => (t.bar 0 7, t.net)) =
    some (some { slot7 with gen := 10 }, []) := by decide +kernel
/-- A thread that waits for a generation, or whose arrival a full batch holds back, at a release. -/
def wakeable (w : Wait) (k : BarSlot) : State :=
  { barred with tiles := [(0, { bars := [(7, k)] })], net := [.release 0 7 1] }.setBank ⟨0, 1, 0⟩ { task := 1, seeded := true, wait := some w }
theorem witness_barriers_wake : (wakeable (.barrier 7 9 (some 6)) slot7).net[0]? = some (.release 0 7 1) ∧ slot7.launch = 1 ∧
    (wakeable (.barrier 7 9 (some 6)) slot7).bar 0 7 = some slot7 ∧ ⟨0, 1, 0⟩ ∈ (wakeable (.barrier 7 9 (some 6)) slot7).tileBanks 0 ∧
    ((wakeable (.barrier 7 9 (some 6)) slot7).bank ⟨0, 1, 0⟩).wins = [] ∧
    ((wakeable (.barrier 7 9 (some 6)) slot7).tileBanks 0).all (fun r => r == ⟨0, 1, 0⟩ || ((wakeable (.barrier 7 9 (some 6)) slot7).bank r).wait == none) = true ∧
    ((wakeable (.barrier 7 9 (some 6)) slot7).bank ⟨0, 1, 0⟩).wait = some (.barrier 7 9 (some 6)) ∧ slot7.arrived ≠ slot7.loc ∧
    barPending (slot7.gen + 1) 9 = false ∧ barPending (slot7.gen + 1) 10 = true ∧
    ((wakeable (.batch 1 7 6) { slot7 with arrived := 2 }).bank ⟨0, 1, 0⟩).wait = some (.batch 1 7 6) ∧
    ({ slot7 with arrived := 2 } : BarSlot).arrived = slot7.loc ∧ 1 < slot7.loc := by decide +kernel

/-- A node with one child that adds, whose inbox holds 4, and its parent in slot 1; as the root, as an inner node, and with an empty inbox. -/
def inTree (tree : Dword) (inbox : Tbl Dword) : State :=
  (worker.setMe { worker.me with tree := tree, inbox := inbox, g := [(1, 5), (2, 0x808000)] }).setBank ⟨0, 1, 0⟩ { task := 1, seeded := true, kind := 0 }
theorem witness_TreesReduceInInboxOrder : Calm (inTree 0 []) ∧ dfld ((inTree 0 []).rg 2) 22 19 < 10 ∧ treeKids ((inTree 0 []).rg 2) ≤ 8 ∧
    treeRoot ((inTree 0 []).rg 2) = true ∧ dfld ((inTree 0 []).rg 2) 14 0 = 0 ∧ Calm (inTree 0x1008200 [(0, 4)]) ∧ treeValid 0x1008200 = true ∧
    treeRoot 0x1008200 = false ∧ (inTree 0x1008200 [(0, 4)]).me.kidsReady = true ∧ (inTree 0x1008200 []).me.kidsReady = false ∧
    treeRoot 0x1808000 = true ∧ (inTree 0x1808000 [(0, 4)]).me.kidsReady = true ∧
    numericTrap (inTree 0x1808000 [(0, 4)]).me.numctl [(0, ((inTree 0x1808000 [(0, 4)]).me.combine 5).2)] = none ∧
    (inTree 0 []).parentBank 0 1 1 = some ⟨0, 1, 0⟩ ∧ tfind ((inTree 0 []).bank ⟨0, 1, 0⟩).inbox 3 = none := by
  and_intros <;> first
    | exact calm_of _ (by decide +kernel)
    | decide +kernel
/-- A parent in slot 0 whose inbox holds a value at index 0 only, the child in slot 1 whose SEND has been sent or refused, and its value on the way. -/
def sending (z : Bool) (idx : Nat) : State :=
  { (inTree 0x1808000 [(0, 4)]).setBank ⟨0, 1, 0⟩ { task := 1, seeded := true, wait := some (.deliver none 6 z) } with
    net := [.deliver ⟨0, 1, 0⟩ 0 0 idx 6 1 1] }
theorem witness_trees_deliver : ((sending false 3).bank ⟨0, 1, 0⟩).wait = some (.deliver none 6 false) ∧ ((sending false 3).bank ⟨0, 1, 0⟩).wins = [] ∧
    (sending false 3).saved = [] ∧ (sending false 3).parentBank 0 0 1 = some ⟨0, 0, 0⟩ ∧ ((sending false 3).bank ⟨0, 0, 0⟩).wait = none ∧
    tfind ((sending false 3).bank ⟨0, 0, 0⟩).inbox 3 = none ∧ tfind ((sending false 0).bank ⟨0, 0, 0⟩).inbox 0 ≠ none ∧
    ((sending true 3).bank ⟨0, 1, 0⟩).wait = some (.deliver none 6 true) := by decide +kernel
theorem test_rsrv_root : after (.rsrv 6 1) (inTree 0x1808000 [(0, 4)]) (fun b => (b.rg 6, b.inbox, b.wait)) = some (9, [], none) := by decide +kernel
theorem test_rsrv_inner : (goes (exec (.rsrv 6 1) (inTree 0x1008200 [(0, 4)]))).map (·.net) = some [.deliver ⟨0, 0, 0⟩ 0 1 0 9 1 1] := by decide +kernel

/-- A RECV port and a SEND port of one task's contexts, facing each other. -/
def ported : State :=
  { worker with net := [.notice ⟨0, 0, 0⟩ ⟨0, 1, 1⟩ 1 1, .credit ⟨0, 1, 1⟩ ⟨0, 0, 0⟩ 4 1, .entry ⟨0, 0, 0⟩ ⟨0, 1, 1⟩ 6 1] }.setMe
      { worker.me with ports := [(0, ⟨1, ⟨0, 1, 1⟩, [], 0, 1, none⟩)], g := [(1, 0), (2, 1), (3, 0x120001), (4, 0x120005)] } |>.setBank
      ⟨0, 1, 0⟩ { task := 1, seeded := true, ports := [(1, ⟨0, ⟨0, 0, 0⟩, [], 0, 0, none⟩)] }
theorem ported_quiet : Quiet ported := ⟨by decide +kernel, .inl (by decide +kernel), by decide +kernel, by decide +kernel⟩
theorem witness_ChannelsBindAndDeliver : Quiet ported ∧ ported.me.kind = 0 ∧ ported.me.notices = [] ∧
    ported.chOk ported.me.tenant ported.cur.1 (ported.rg 4) = true ∧ ported.me.port (dfld (ported.rg 4) 1 0) = none ∧
    ported.chOk ported.me.tenant ported.cur.1 (ported.rg 1) = true ∧ ported.me.port (dfld (ported.rg 1) 1 0) ≠ none ∧ ported.saved = [] ∧
    (ported.bank ⟨0, 1, 0⟩).port 1 = some ⟨0, ⟨0, 0, 0⟩, [], 0, 0, none⟩ ∧ ported.launchOf (ported.bank ⟨0, 1, 0⟩) = some job ∧
    (ported.bank ⟨0, 0, 0⟩).port 0 = some ⟨1, ⟨0, 1, 1⟩, [], 0, 1, none⟩ ∧ { ported with net := ported.net.drop 2 }.sentBefore 0 ⟨0, 0, 0⟩ = false :=
  ⟨ported_quiet, by decide +kernel⟩
theorem test_chbind_send_notice : (goes (exec (.chbind 5 4) { ported with net := [] })).map (fun t => (t.me.rg 5, t.net)) =
    some (0, [.notice ⟨0, 0, 1⟩ ⟨0, 1, 1⟩ 1 1]) := by decide +kernel
theorem test_notice_earns_credits : (goes (exec (.bindNoticeArrival 0) ported)).map (fun t => t.net.drop 2) = some [.credit ⟨0, 1, 1⟩ ⟨0, 0, 0⟩ 4 1] := by
  decide +kernel
theorem test_credits_at_most_four : (goes (exec (.creditArrival 1) ported)).map (fun t => (t.me.port 0).map (·.credit)) = some (some 4) := by decide +kernel
/-- The same where slot 1 of the tile holds another launch's task, where the port is bound to another sender, and with an earlier entry in front. -/
def foreignSlot : State := { ported with tasks := [{ task0 with slots := [0] }, { task0 with id := 2, launch := 3, slots := [1, 2] }] }
def unbound : State := ported.setBank ⟨0, 1, 0⟩ { task := 1, seeded := true }
def late : State := { ported with net := [.entry ⟨0, 0, 0⟩ ⟨0, 1, 1⟩ 5 1, .entry ⟨0, 0, 0⟩ ⟨0, 1, 1⟩ 6 1] }
/-- Ports bound to v28 (RECV, with an entry or without one) and v29 (SEND, with a credit or without one). -/
def vports (fifo : List Vec) (credit : Nat) : State :=
  busy.setMe { busy.me with ports := [(0, ⟨0, ⟨0, 1, 1⟩, fifo, 0, 0, none⟩), (1, ⟨1, ⟨0, 1, 0⟩, [], 0, credit, none⟩)] }
theorem vports_quiet : Quiet (vports [7] 1) := ⟨by decide +kernel, .inl (by decide +kernel), by decide +kernel, by decide +kernel⟩
theorem witness_channels_lose : ported.slotLaunch ⟨0, 1, 1⟩ = some 1 ∧ foreignSlot.slotLaunch ⟨0, 1, 1⟩ = some 3 ∧ foreignSlot.saved = [] ∧
    (unbound.bank ⟨0, 1, 0⟩).port 1 = none ∧ { unbound with net := unbound.net.drop 2 }.sentBefore 0 ⟨0, 0, 0⟩ = false ∧ late.sentBefore 1 ⟨0, 0, 0⟩ = true ∧
    portOperands (.vaddF32 3 28 2 0) = some ([28, 2], 3) ∧ ((vports [] 1).me.port 0).map (fun p => (p.mode, p.fifo.length, p.taken)) = some (0, 0, 0) ∧
    ((vports [7] 0).me.port 1).map (fun p => (p.mode, p.credit)) = some (1, 0) ∧ Trappable (vports [7] 1) ∧ Quiet (vports [7] 1) ∧
    (vports [7] 1).me.pend = [] ∧ (28 : BitVec 5).toNat = 28 + 0 ∧ (29 : BitVec 5).toNat = 28 + 1 := by
  and_intros <;> first
    | exact vports_quiet
    | exact trappable_of _ (by decide +kernel)
    | decide +kernel

/-! ### Engines that a core commands -/

/-- A pool of tenant 0 with four sequences and sixteen pages, whose metadata and arena are mapped, for a thread with a trap handler. -/
def pooled (cmds : List SeqCmd) (k : Bank → Bank) : State :=
  { worker with
    pools := [(0, { cfg := 0x01000001, arena := 0x240000, md := 0x200000, sids := 0x40000, free := [(0, 4)], cmds := cmds })]
    tlb := [(520, 0, 8, 5, true, true), (521, 0, 9, 6, true, true)] }.setMe
    (k { worker.me with g := [(1, 3), (2, 0x100000000), (3, 4), (4, 0x10000)], trap := ⟨0, 0, 0, 0, 0x2000, false, false, false⟩ })
/-- SQRES of one record, and SQLEN, which an unopened sequence refuses. -/
def reserve : SeqCmd := ⟨⟨0, 0, 0⟩, 0, 3, 0x100000000, 0, 5, 0, []⟩
def length : SeqCmd := ⟨⟨0, 0, 0⟩, 5, 3, 0, 0, 5, 0, []⟩
def began (c : SeqCmd) : State := pooled [] (fun b => { b with wait := some (.seq c) })
def succeeds (x : Except SqFail ((Nat × Flags) × State)) : Bool := match x with
  | .ok _ => true
  | .error _ => false
def failsWith (x : Except SqFail ((Nat × Flags) × State)) : Nat := match x with
  | .ok _ => 0
  | .error e => e.1
theorem witness_SequencesExecuteAsAWhole : Calm (pooled [] id) ∧ isXa (pooled [] id).cur.1 = false ∧ (pooled [] id).me.kind < 2 ∧
    (∃ f, seqForm (pooled [] id) (.sqres 5 1 2) = some f ∧ f.handle.toNat < 2 ^ 16 ∧ f.legal = true ∧ dfld f.ctl 59 57 < 6 ∧
      (pooled [] id).poolOf 0 f.handle.toNat = some 0) ∧
    (∃ f, seqForm (pooled [] id) (.sqres 5 3 2) = some f ∧ f.legal = true ∧ (pooled [] id).poolOf 0 f.handle.toNat = none) ∧
    (∃ f, seqForm (pooled [] id) (.sqlen 5 4 2) = some f ∧ 2 ^ 16 ≤ f.handle.toNat) ∧ Trappable (pooled [] id) ∧
    ((pooled [reserve] (fun b => { b with wait := some (.seq reserve) })).bank ⟨0, 0, 0⟩).wait = some (.seq reserve) ∧
    succeeds ((sqRun 0 reserve).run (began reserve)) = true ∧ failsWith ((sqRun 0 length).run (began length)) = 0x202 ∧
    (pooled [] id).rg 1 < 4 ∧ (pooled [] id).me.port 3 = none :=
  ⟨calm_of _ (by decide +kernel), by decide +kernel, by decide +kernel, ⟨_, rfl, by decide +kernel⟩,
    ⟨_, rfl, by decide +kernel⟩, ⟨_, rfl, by decide +kernel⟩, trappable_of _ (by decide +kernel), by decide +kernel⟩
/-- A port that streams the record of token 0 of pool 0. -/
def streaming : State := pooled [] (fun b => { b with ports := [(3, ⟨0, ⟨0, 0, 0⟩, [], 0, 0, some ⟨0, [0], 0, [], 1⟩⟩)] })
theorem witness_streams : Quiet streaming ∧ streaming.acqHeld streaming.curRef = false ∧ (streaming.rg 1).toNat = 3 ∧
    ((streaming.bank ⟨0, 0, 0⟩).port 3).map (·.stream) = some (some ⟨0, [0], 0, [], 1⟩) ∧
    (recordBytes 0 3 ((streaming.pool 0).arena.toNat + 0) (min (vlBits 0 / 8) ((streaming.pool 0).rbytes - 0)) streaming).2.isSome = true ∧
    (pooled [length] id).dying ⟨0, 0, 0⟩ = false ∧ (pooled [length] id).me.kind = 0 ∧ (pooled [length] id).me.trap.inh = false :=
  ⟨⟨by decide +kernel, .inl (by decide +kernel), by decide +kernel, by decide +kernel⟩, by decide +kernel⟩
theorem test_sequence_reserves : (goes (exec (.seqCommandExecute 0) (pooled [reserve] (fun b => { b with wait := some (.seq reserve) })))).map
    (fun t => (t.me.rg 5, t.me.wait, (t.pool 0).cmds.length)) = some (0, none, 0) := by decide +kernel
theorem test_sequence_refuses : (goes (exec (.seqCommandExecute 0) (pooled [length] (fun b => { b with wait := some (.seq length), waitPc := 0x40 })))).map
    (fun t => (t.me.trap.cause, t.me.trap.pc, t.me.pc, t.mem == [])) = some (0x202, 0x40, 0x2000, true) := by decide +kernel

/-- Where the metadata and the arena of the pool lie. -/
def place (va : Nat) : Nat := if va / 2 ^ 18 = 8 then 5 * 2 ^ 18 + va % 2 ^ 18 else 6 * 2 ^ 18 + va % 2 ^ 18
/-- Sequence 3 open with twenty records in pages 0 and 1, of which seventeen are closed; sequence 1 shares page 0. -/
def descs (i : Nat) : SqDesc :=
  if i = 3 then ⟨true, 17, 20, 0, 2, [(0, 2)]⟩ else if i = 1 then ⟨true, 16, 16, 0, 1, [(0, 1)]⟩ else ⟨false, 0, 0, 0, 0, []⟩
def stored (c : SeqCmd) : State :=
  let s := pooled [c] (fun b => { b with wait := some (.seq c), waitPc := 0x40 })
  let m := memWrite (memWrite [] 0x140000 (natBytes 8 (pageWord 2 0x7FFF 0xFFFF 0))) 0x140008 (natBytes 8 (pageWord 1 0 1 0))
  let m := memWrite (memWrite m 0x140100 (natBytes 128 (descs 1).bits)) 0x140200 (natBytes 128 (descs 3).bits)
  { s with mem := m, pools := [(0, { s.pool 0 with free := [(2, 1), (4, 2), (8, 3)] })] }
/-- SQCMT of tokens 17 and 18. -/
def commit : SeqCmd := ⟨⟨0, 0, 0⟩, 3, 3, 0x200000011, 0, 5, 0, []⟩
theorem stored_owns (va : Nat) (h : PoolOwns ((stored commit).pool 0) va) : (0x240000 ≤ va ∧ va < 0x244000) ∨ (0x200000 ≤ va ∧ va < 0x200280) := by
  have ha : ((stored commit).pool 0).arena.toNat = 0x240000 := by decide +kernel
  have hm : ((stored commit).pool 0).md.toNat = 0x200000 := by decide +kernel
  have ho : ((stored commit).pool 0).aord = 4 := by decide +kernel
  have hr : ((stored commit).pool 0).rbytes = 64 := by decide +kernel
  have hn : ((stored commit).pool 0).snum = 4 := by decide +kernel
  unfold PoolOwns at h
  rw [ha, hm, ho, hr, hn] at h
  omega
theorem stored_at : PoolAt (stored commit) 0 place where
  held va h := by
    have hb := stored_owns va h
    have hg : va / 2 ^ 18 = 8 ∨ va / 2 ^ 18 = 9 := by omega
    have hp : place va % 2 ^ 18 = va % 2 ^ 18 := by unfold place; split <;> omega
    have ht : isTrans va = true := by
      unfold isTrans region
      rw [if_neg (by omega), if_neg (by omega), if_pos (by omega)]
    have hh : fld va 27 23 = 0 := by unfold fld; omega
    refine ⟨ht, hp, ?_⟩
    have hn : ((stored commit).pool 0).tenant = 0 := by decide +kernel
    rcases hg with g | g
    · have hq : place va / 2 ^ 18 = 5 := by unfold place; rw [if_pos g]; omega
      have hl : fld va 22 18 = 8 := by unfold fld; omega
      refine ⟨true, ?_⟩
      rw [hq, hn]; unfold State.tlbFind l2Tlb; rw [hh, hl, g]; decide +kernel
    · have hq : place va / 2 ^ 18 = 6 := by unfold place; rw [if_neg (by omega)]; omega
      have hl : fld va 22 18 = 9 := by unfold fld; omega
      refine ⟨true, ?_⟩
      rw [hq, hn]; unfold State.tlbFind l2Tlb; rw [hh, hl, g]; decide +kernel
  apart v w hv hw h := by
    have := stored_owns v hv; have := stored_owns w hw
    unfold place at h; split at h <;> split at h <;> omega
  clear := by decide +kernel
  aligned := by decide +kernel
  runs := by decide +kernel
  intact := intact_of _ (by decide +kernel)
  form := by decide +kernel
/-- The cause of a command that fails. -/
def effectCause (c : SeqCmd) : Nat :=
  match seqEffect ((stored commit).pool 0) (wordOf (stored commit) 0 place) (fun va => memGet (stored commit).mem (place va)) descs false c with
  | .ok _ => 0
  | .error e => e.1
theorem witness_sequence_effects : ((stored commit).pool 0).cmds = [commit] ∧ ((stored commit).bank commit.owner).wait = some (.seq commit) ∧
    ((stored commit).bank commit.owner).wins = [] ∧ ((stored commit).pool 0).sbase ≤ 3 ∧ 3 < ((stored commit).pool 0).sbase + ((stored commit).pool 0).snum ∧
    effectCause commit = 0 ∧ effectCause { commit with ctl := 0x200000010 } = 0x204 ∧ (stored commit).dying commit.owner = false := by decide +kernel
theorem descs_free (i : Nat) (h : (descs i).isOpen = false) : descs i = ⟨false, 0, 0, 0, 0, []⟩ := by
  unfold descs at h ⊢
  split at h
  · cases h
  · split at h
    · cases h
    · rw [if_neg ‹_›, if_neg ‹_›]
theorem stored_descs : SeqFits ((stored commit).pool 0) (descs 3) ∧ ∀ i, i < 4 → SeqIs (stored commit) 0 place i (descs i) :=
  ⟨by constructor <;> first | exact fun h => descs_free 3 h | decide +kernel, by unfold SeqIs; decide +kernel⟩
/-- The tokens are closed, and LC moves on to the open one behind them (R315). -/
theorem test_sequence_commits : (goes (exec (.seqCommandExecute 0) (stored commit))).map (fun t =>
    (t.me.rg 5, t.load 0x140008 8, t.load 0x140204 4)) = some (19, 1 + 7 * 2 ^ 32 + 6 * 2 ^ 16, 19) := by decide +kernel

/-- An enabled mailbox of tenant 0 that tile 0 writes, with a 64-byte payload. -/
def mailing (k : Mailbox → Mailbox) (b : Bank → Bank) : State :=
  { worker with mailboxes := [(5, k { cfg := 0x3, version := BitVec.allOnes 48 })] }.setMe
    (b { worker.me with g := [(1, 0xFE0000000A00), (2, 0x0010000000000000)], v := [(3, 0xAABB)] })
def pub : Pub := ⟨1, false, false, ⟨0, 0, 0⟩, 0, 1, false⟩
theorem witness_MailboxesPublishAndRead : Calm (mailing id id) ∧ (mailing id id).rg 1 = mboxVa 5 0 ∧ 0 < ((mailing id id).mbox 5).size ∧
    (mailing id id).ownPubs (mailing id id).curRef 5 = false ∧ ((mailing id id).mbox 5).en = true ∧ ((mailing id id).mbox 5).tenant = 0 ∧
    ((mailing id id).mbox 5).wtile = 0 ∧ (mailing id id).rg 2 &&& 0xFFE1000000000000 = 0 ∧ dfld ((mailing id id).rg 2) 52 50 < 6 ∧
    3 + (((mailing id id).mbox 5).size + (mailing id id).vl / 8 - 1) / ((mailing id id).vl / 8) ≤ 32 ∧
    ((((mailing id id).task? pub.task).bind (fun t => (mailing id id).launch? t.launch)).map (·.tenant)) = some 0 ∧
    (((mailing id (fun b => { b with wait := some (.mbrd 5 3 2 0) })).bank ⟨0, 0, 0⟩).wait) = some (.mbrd 5 3 2 0) :=
  ⟨calm_of _ (by decide +kernel), by decide +kernel⟩
/-- A publication that is due, and a read that has begun. -/
theorem witness_mailbox_transactions : (mailing (fun m => { m with pubs := [pub] }) id).mailboxes.all (fun x => x.2.pubs.all (fun q =>
      !(!q.arrived && q.owner == pub.owner && decide (q.id < pub.id)))) = true ∧ pub.owner.tile % 512 = ((mailing id id).mbox 5).wtile ∧
    ((mailing id id).mbox 5).copying = false ∧ ((mailing id id).mbox 5).version ≠ 0 ∧ ((mailing id id).bank ⟨0, 0, 0⟩).wins = [] ∧
    (((mailing id id).mbox 5).size + vlBits 0 / 8 - 1) / (vlBits 0 / 8) = 1 ∧
    ((mailing (fun m => { m with reads := [(⟨0, 0, 0⟩, 4)] }) id).mbox 5).reads.find? (fun x => x.1 == ⟨0, 0, 0⟩) = some (⟨0, 0, 0⟩, 4) := by decide +kernel
theorem test_mbwr_back_buffer : (goes (exec (.mbwr 3 1) (mailing id id))).map (fun t => memGet t.mem (mbmLoc + 5 * 0x200 + 0x100)) = some 0xBB := by
  decide +kernel
/-- The version after the greatest one is 1 (R369). -/
theorem test_flip_wraps : (goes (exec (.mailboxFlip 5) (mailing (fun m => { m with pubs := [{ pub with arrived := true }] }) id))).map
    (fun t => ((t.mbox 5).version, (t.mbox 5).front, (t.mbox 5).pubs.length)) = some (1, true, 0) := by decide +kernel

/-- A tile-resident descriptor of a vector of sixteen 4-byte elements at an address of DRAM, and a thread whose task is mapped there. -/
def descBytes : List Byte := natBytes 128 (0x200000 + 1 * 2 ^ 64 + 2 * 2 ^ 72 + 16 * 2 ^ 128 + 16 * 2 ^ 416)
def copying (k : Tile → Tile) (b : Bank → Bank) : State :=
  { worker with mem := memWrite [] (lsLoc 0 0x100) descBytes, tiles := [(0, k {})], tlb := [(0, 0, 8, 5, true, true)] }.setMe
    (b { worker.me with g := [(1, 0x100), (2, 0x400), (3, 0x800), (4, 0x0002000000000003)], trap := ⟨0, 0, 0, 0, 0x2000, false, false, false⟩ })
theorem descriptor_at : DescriptorAt (copying id id) 0x100 (bytesNat descBytes) :=
  ⟨lsLoc 0 0x100, lsLoc 0 0x140, (by constructor <;> decide +kernel), (by constructor <;> decide +kernel), by decide +kernel⟩
/-- The command that TCOPY with record 1 makes there. -/
def copyCmd : CopyCmd := {
  id := 1, owner := ⟨0, 0, 0⟩, thread := 0, task := 1, minor := 0, pc := 0, desc := descBytes, start := [0], near := 0x400, recAt := none, out := false, rel := false
  acq := false, scope := 0, axis := 0, step := 0, parked := [], todo := [0], got := [], pass := none, chunks := 0, oob := false, inb := false, skipped := false, status := 0 }
theorem copying_calm : Calm (copying id id) := calm_of _ (by decide +kernel)
theorem witness_CopiesIssueAndComplete : copyForm (copying id id) (.tcopy 2 1 5 1) = some (0, 0x400, 0x100, 5, 1, 0) ∧
    descBad (bytesNat descBytes) = false ∧ (parseDesc (bytesNat descBytes)).bytes = 64 ∧
    extBad 0 (parseDesc (bytesNat descBytes)) 1 0 = false ∧ extBad 0 (parseDesc (bytesNat descBytes)) 0x10000001 0 = true ∧
    (copying id id).checkNear (copying id id).req 0x400 64 1 = true ∧ (copying id id).me.recBase + 8 + 8 ≤ recEnd 0 (copying id id).me ∧
    ((copying id id).tile 0).bteUsed < 16 ∧ 16 ≤ ((copying (fun t => { t with bte := List.replicate 16 copyCmd }) id).tile 0).bteUsed ∧
    isNear ((copying id id).rg 3).toNat = true := by decide +kernel
theorem witness_copies_wait : dfld ((copying id id).rg 4) 50 48 < 6 ∧
    (copying (fun t => { t with tags := [0x100] }) id).tag (lsLoc 0 0x800) = true ∧ (copying id id).tag (lsLoc 0 0x800) = false ∧
    ((copying (fun t => { t with bte := [{ copyCmd with minor := 2 }] }) id).tile 0).bte[0]? = some { copyCmd with minor := 2 } ∧
    (copying id id).mayRead copyCmd.rel copyCmd.id copyCmd.owner copyCmd.task copyCmd.scope false = true ∧ { copyCmd with todo := [] }.final < 4 ∧
    ((copying (fun t => { t with bte := [{ copyCmd with todo := [] }] }) id).tile 0).bte[0]? = some { copyCmd with todo := [] } ∧
    ((copying id (fun b => { b with wait := some (.bteFull copyCmd) })).bank ⟨0, 0, 0⟩).wait = some (.bteFull copyCmd) := by decide +kernel
theorem witness_copies_reach : Trappable (copying id id) ∧ Reachable (copying id id) 0x800 8 0 (copying id id) (lsLoc 0 0x800) ∧
    Reachable (copying id id) 0x800 8 1 (copying id id) (lsLoc 0 0x800) :=
  ⟨trappable_of _ (by decide +kernel), (by constructor <;> decide +kernel), (by constructor <;> decide +kernel)⟩
/-- What an engine's far access answers, in one question. -/
def farEnds {α : Type} (x : State × Except FarFail α) : Nat := match x.2 with
  | .ok _ => 0
  | .error (.fault _ _) => 1
  | .error _ => 2
/-- The elements of the command's only chunk; the tile with it in the queue; the same with a far side that no address table holds. -/
def copyElems (c : CopyCmd) : List (Option (List Int)) := (List.range 16).map (fun i => c.elemAt (parseDesc (bytesNat c.desc)) (4 * i))
def queuedCopy (c : CopyCmd) : State := copying (fun t => { t with bte := [c] }) id
def farBytes : List Byte := natBytes 128 (0xFE0000000000 + 1 * 2 ^ 64 + 2 * 2 ^ 72 + 16 * 2 ^ 128 + 16 * 2 ^ 416)
/-- A copy in that reads, one that is refused, and the same of a copy out. -/
theorem witness_chunks_end : farEnds (readGranule ((queuedCopy copyCmd).engineReq ⟨0, 0, 0⟩ 1) (parseDesc (bytesNat descBytes))
      (nextGranule (parseDesc (bytesNat descBytes)) (copyCmd.unread (parseDesc (bytesNat descBytes)) 0 (copyElems copyCmd))) (queuedCopy copyCmd)) = 0 ∧
    farEnds (readGranule ((queuedCopy copyCmd).engineReq ⟨0, 0, 0⟩ 1) (parseDesc (bytesNat farBytes))
      (nextGranule (parseDesc (bytesNat farBytes)) (copyCmd.unread (parseDesc (bytesNat farBytes)) 0 (copyElems copyCmd))) (queuedCopy copyCmd)) = 1 ∧
    farEnds (farTargets ((queuedCopy copyCmd).engineReq ⟨0, 0, 0⟩ 1) (parseDesc (bytesNat descBytes)) (copyElems copyCmd) (queuedCopy copyCmd)) = 0 ∧
    farEnds (farTargets ((queuedCopy copyCmd).engineReq ⟨0, 0, 0⟩ 1) (parseDesc (bytesNat farBytes)) (copyElems copyCmd) (queuedCopy copyCmd)) = 1 ∧
    0 ∈ copyCmd.todo ∧ 0 ∉ copyCmd.parked ∧ copyCmd.near + (64 + 1023) / 1024 * 1024 ≤ 0x100000 ∧ Memory.wf (queuedCopy copyCmd).mem = true := by
  decide +kernel
theorem witness_chunks_unwatched : Unwatched (queuedCopy copyCmd) ∧ NoneWatchTags (queuedCopy copyCmd) :=
  ⟨unwatched_of _ (by decide +kernel), noneWatchTags_of _ (by decide +kernel)⟩
/-- The copy out of 64 bytes whose far side is refused ends with that status (R284). -/
theorem test_refused_chunk : (goes (exec (.bteChunkComplete 0 0 0) (queuedCopy { copyCmd with desc := farBytes, out := true }))).map
    (fun t => ((t.tile 0).bte.map (·.status), (t.tile 0).bte.map (·.todo))) = some ([0x10], [[]]) := by decide +kernel
/-- A descriptor on a page that is not present (R281). -/
theorem witness_descriptors_park : Calm absent ∧ copyForm absent (.tcopy 2 3 5 1) = some (0, 0, 0x200000, 5, 1, 0) ∧
    (∃ u, absent.check absent.req 0x200000 64 0 = (u, .absent)) := ⟨calm_of _ (by decide +kernel), by decide +kernel, _, Prod.ext rfl (by decide +kernel)⟩
theorem test_tcopy_issues : (goes (exec (.tcopy 2 1 5 1) (copying id id))).map (fun t => ((t.tile 0).bte.map (·.near), t.me.pc)) =
    some ([0x400], 0x200084) := by decide +kernel
theorem test_copy_counts_bytes : (goes (exec (.bteCommandComplete 0 0) (copying (fun t => { t with bte := [{ copyCmd with todo := [] }] }) id))).map
    (fun t => ((t.tile 0).bte.length, (t.bank ⟨0, 0, 0⟩).copyBytes)) = some (0, 64) := by decide +kernel
theorem test_ctest : after (.ctest 5 3 4) { copying id id with mem := [(lsLoc 0 0x800, 3)] } (·.rg 5) = some 3 := by decide +kernel

/-- A command's last chunk, copied in to 0x400, with a record at 0x148, for which another context may wait. -/
def recCmd (minor : Nat) : CopyCmd := { copyCmd with minor := minor, recAt := some (lsLoc 0 0x148) }
def recorded (c : CopyCmd) (w : Option Wait) : State := (queuedCopy c).setBank ⟨0, 1, 0⟩ { task := 1, seeded := true, wait := w }
/-- Nobody waits for a record but the given thread, as one question. -/
def onlyWaiterB (s : State) (loc : Nat) (r : Option BankRef) : Bool :=
  s.ctxs.all (fun e => (decide (r = some ⟨e.1 / 8, e.1 % 8, 0⟩) || !e.2.b0.waitsCopy loc) && (decide (r = some ⟨e.1 / 8, e.1 % 8, 1⟩) || !e.2.b1.waitsCopy loc))
theorem onlyWaiter_of (s : State) (loc : Nat) (r : Option BankRef) (h : onlyWaiterB s loc r = true) : OnlyWaiter s loc r := by
  intro e he bank hb hr
  simp only [onlyWaiterB, List.all_eq_true, Bool.and_eq_true, Bool.or_eq_true, decide_eq_true_eq, Bool.not_eq_true'] at h
  obtain ⟨h0, h1⟩ := h e he
  match bank with
  | 0 => exact h0.resolve_left hr
  | 1 => exact h1.resolve_left hr
  | n + 2 => omega
theorem witness_records_tell : Unwatched (recorded (recCmd 2) none) ∧ NoneWatchTags (recorded (recCmd 2) none) ∧
    OnlyWaiter (recorded (recCmd 2) none) (lsLoc 0 0x148) none ∧
    OnlyWaiter (recorded (recCmd 2) (some (.copy (lsLoc 0 0x148) 1 7))) (lsLoc 0 0x148) (some ⟨0, 1, 0⟩) ∧
    Memory.wf (recorded (recCmd 2) none).mem = true ∧ lsLoc 0 0x148 % 8 = 0 ∧
    ((recorded (recCmd 2) none).tile 0).bte[0]? = some (recCmd 2) ∧ (recCmd 2).recAt = some (lsLoc 0 0x148) ∧ 0 ∈ (recCmd 2).todo ∧
    ((recorded (recCmd 2) none).tile 0).reading < 32 ∧
    (recorded (recCmd 2) none).mayRead false 1 ⟨0, 0, 0⟩ 1 0 false = true ∧
    ((recorded (recCmd 2) (some (.copy (lsLoc 0 0x148) 1 7))).bank ⟨0, 1, 0⟩).wait = some (.copy (lsLoc 0 0x148) 1 7) ∧
    ((recorded { recCmd 0 with todo := [] } none).tile 0).bte[0]? = some { recCmd 0 with todo := [] } :=
  ⟨unwatched_of _ (by decide +kernel), noneWatchTags_of _ (by decide +kernel), onlyWaiter_of _ _ _ (by decide +kernel), onlyWaiter_of _ _ _ (by decide +kernel),
    by decide +kernel⟩
/-- The elements of a copy in, in bounds and with FILL, land at their near addresses with full tags (R277, R284, R285). -/
theorem test_copy_in_lands : (goes (exec (.bteChunkComplete 0 0 0) { queuedCopy copyCmd with mem := memWrite (queuedCopy copyCmd).mem 0x140000 [1, 2, 3, 4, 5] })).map
    (fun t => ((List.range 5).map (fun i => memGet t.mem (lsLoc 0 0x400 + i)), t.tag (lsLoc 0 0x400), ((t.tile 0).bte.map (·.todo)))) =
    some ([1, 2, 3, 4, 5], true, [[]]) := by decide +kernel
/-- A granule of sixteen elements, a later out-of-bounds one. -/
def part : CopyCmd := { copyCmd with start := [8] }

/-- A burst read of one burst for role 1, in slot 1 of the task. -/
def breadCmd : BreadCmd := {
  id := 1, owner := ⟨0, 0, 0⟩, thread := 0, task := 1, pc := 0, desc := descBytes, start := [0], recAt := lsLoc 0 0x148, rel := false, acq := false, scope := 0, pool := 2
  role := 1, tag := 9, ods := [], total := 1, next := 0, counted := 0, flags := 0, oob := false, inb := false, status := 0, bursts := [], pins := []
  parked := [] }
def promisedBurst : Burst := ⟨0, some 1, none, [], some 0xAB, none, none⟩
theorem witness_BurstsAreRequestedAndBorn : Calm (copying id id) ∧ (copying id id).task? (copying id id).me.task = some task0 ∧
    (copying id id).launchOf (copying id id).me = some job ∧ DescriptorAt (copying id id) ((copying id id).rg 1) (bytesNat descBytes) ∧
    (parseDesc (bytesNat descBytes)).nd ≤ 3 ∧ (parseDesc (bytesNat descBytes)).box.getD 0 0 * (parseDesc (bytesNat descBytes)).esz % 64 = 0 ∧
    (∀ j < 8, bitOf (fld 0x00090102 7 0) j = true → j ∈ task0.slots) ∧ (job.role (fld 0x00090102 15 8) 2).isSome = true ∧
    (copying id id).me.fbase + 8 * 1 + 8 ≤ recEnd 0 (copying id id).me ∧
    ((copying (fun t => { t with breads := [breadCmd] }) id).tile 0).breads[0]? = some breadCmd ∧ breadCmd.next < breadCmd.total ∧
    (copying (fun t => { t with breads := [breadCmd] }) id).openSlot task0 2 = some 1 ∧
    ((copying (fun t => { t with breads := [{ breadCmd with bursts := [promisedBurst] }] }) id).tile 0).breads.flatMap (fun c =>
      (c.bursts.filter (fun u => u.promised == some 1 && u.born.isNone)).map (fun u => (c, u))) =
      [({ breadCmd with bursts := [promisedBurst] }, promisedBurst)] ∧
    (copying (fun t => { t with breads := [{ breadCmd with bursts := [promisedBurst] }] }) id).slotFree task0 1 = true :=
  ⟨calm_of _ (by decide +kernel), by decide +kernel, by decide +kernel, descriptor_at, by decide +kernel⟩
/-- A burst read whose bursts have all ended, with its record (R295). -/
theorem witness_burst_records : isLsLoc breadCmd.recAt = true ∧ breadCmd.recAt % 8 = 0 ∧
    ((copying (fun t => { t with breads := [{ breadCmd with next := 1 }] }) id).tile 0).bte[0]? = none ∧
    { breadCmd with next := 1 }.bursts = [] ∧ { breadCmd with next := 1 }.pins = [] ∧ { breadCmd with next := 1 }.next = breadCmd.total := by decide +kernel
theorem witness_burst_record_waiters : Unwatched (copying (fun t => { t with breads := [{ breadCmd with next := 1 }] }) id) ∧
    NoneWatchTags (copying (fun t => { t with breads := [{ breadCmd with next := 1 }] }) id) ∧
    OnlyWaiter (copying (fun t => { t with breads := [{ breadCmd with next := 1 }] }) id) breadCmd.recAt none :=
  ⟨unwatched_of _ (by decide +kernel), noneWatchTags_of _ (by decide +kernel), onlyWaiter_of _ _ _ (by decide +kernel)⟩
/-- The burst's read is refused, or answers 64 bytes. -/
theorem witness_bursts_are_read : (queuedCopy copyCmd).mayRead breadCmd.rel breadCmd.id breadCmd.owner breadCmd.task breadCmd.scope false = true ∧
    farEnds (readGranule ((queuedCopy copyCmd).engineReq ⟨0, 0, 0⟩ 1) (parseDesc (bytesNat farBytes))
      [(0, breadCmd.elem (parseDesc (bytesNat farBytes)) 0 0)] (queuedCopy copyCmd)) = 1 ∧
    (List.range (64 / 4)).all (fun j => !inBounds (parseDesc (bytesNat descBytes)) (breadCmd.elem (parseDesc (bytesNat descBytes)) 0 j)) = false ∧
    (List.range (64 / 4)).all (fun j => !inBounds (parseDesc (bytesNat descBytes)) ({ breadCmd with start := [100] }.elem (parseDesc (bytesNat descBytes)) 0 j)) =
      true := by
  decide +kernel
theorem test_burst_is_born : (goes (exec (.burstBirth 0 1) (copying (fun t => { t with breads := [{ breadCmd with bursts := [promisedBurst] }] }) id))).map
    (fun t => ((t.bank ⟨0, 1, 0⟩).kind, (t.bank ⟨0, 1, 0⟩).pc, (t.bank ⟨0, 1, 0⟩).rv 0, (t.bank ⟨0, 1, 0⟩).rg 5)) = some (1, 0x200060, 0xAB, 9) := by
  decide +kernel

/-! ### The matrix unit -/

/-- A working thread with operand descriptor 0 for rows of signed bytes without a record, a row at 0x400, and its tile's unit. -/
def matrix (m : Matrix) (b : Bank → Bank) : State :=
  { worker with tiles := [(0, { mx := m })], mem := [(lsLoc 0 0x400, 3)] }.setMe
    (b { worker.me with g := [(1, 0x400), (2, 0), (3, 0x4000)], od := [(0, 0x10), (1, 0x13)], trap := ⟨0, 0, 0, 0, 0x2000, false, false, false⟩ })
def queuedCmd : MxCmd := { (matrix {} id).mxCmd 2 0x400 0 0x10 with id := 1 }
theorem witness_MatrixCommandsIssue : Calm (matrix {} id) ∧ matrixForm (matrix {} id) (.mstrm 1 2) = some (2, 0x400, 0, 0) ∧ MatrixOpen (matrix {} id) ∧
    ((matrix {} id).mxCmd 2 0x400 0 0x10).cause false false = none ∧ queueRoom (matrix {} id) ∧
    ¬ queueRoom (matrix { tq := List.replicate 8 queuedCmd, owner := some 1 } id) ∧ MatrixOpen (matrix { tq := List.replicate 8 queuedCmd, owner := some 1 } id) ∧
    ¬ MatrixOpen (matrix { owner := some 2 } id) ∧ Trappable (matrix { owner := some 2 } id) ∧
    ((matrix {} id).mxCmd 2 0x400 0x4000 0x13).cause false false = some 0x141 ∧ (matrix {} id).me.mxErr = none ∧
    ((matrix {} id).mxCmd 4 0 0 0).cause false false = none ∧ ((matrix {} id).mxCmd 16 0x400 0 0x10).cause false false = none ∧
    (matrix {} id).usable (matrix {} id).me.tenant 0 = true ∧ notifyOk 0 = true :=
  ⟨calm_of _ (by decide +kernel), by decide +kernel, .inr (by decide +kernel), by decide +kernel, by unfold queueRoom; decide +kernel,
    by unfold queueRoom; decide +kernel, .inr (by decide +kernel), by unfold MatrixOpen; decide +kernel, trappable_of _ (by decide +kernel),
    by decide +kernel⟩
/-- LDT's bytes, MWAIT with a command of the thread, a remote tile for MCMD. -/
theorem witness_MatrixReadsAndWaits : (∀ p ∈ (List.range 32).flatMap (fun j => granules 3 ((0x400 + j * 0) % 2 ^ 64) 32),
      (matrix {} id).check (matrix {} id).req p.1 1 0 = (matrix {} id, .ok (.mem (lsLoc 0 p.1)))) ∧ mxK ((matrix {} id).mxCmd 16 0x400 0 0x10).fmt = 32 ∧
    (matrix { tq := [queuedCmd], owner := some 1 } id).mxBusy (matrix {} id).curRef = true ∧ (matrix {} id).mxBusy (matrix {} id).curRef = false ∧
    (matrix {} id).me.kind < 2 ∧ ((matrix {} id).mxCmd 1 0 0 0).cause false false = none := by decide +kernel
theorem test_mstrm_claims : (goes (exec (.mstrm 1 2) (matrix {} id))).map (fun t => ((t.tile 0).mx.owner, (t.tile 0).mx.tq.map (·.ga))) =
    some (some 1, [0x400]) := by decide +kernel
theorem test_mstrm_foreign : after (.mstrm 1 2) (matrix { owner := some 2 } id) (·.trap.cause) = some 0x144 := by decide +kernel

/-- One command alone in the queue: a step of one row, a plane swap, and a clearing of row 1. -/
def runningCmd (minor : Nat) (ctl : Dword) : MxCmd := { queuedCmd with minor := minor, ctl := ctl, started := some 0 }
def entered : MxCmd := { runningCmd 2 0 with rows := [(0, 0)] }
def running (c : MxCmd) : State :=
  matrix { tq := [c], owner := some 1, active := { bytes := [(0, 2)], fmt := 0 }, acc0 := [(32, 5), (64, 5)] } id
theorem witness_MatrixCommandsRun : ((running queuedCmd).tile 0).mx.tq = [queuedCmd] ∧ queuedCmd.started = none ∧
    startError (running queuedCmd) 0 false queuedCmd = none ∧ (running queuedCmd).heldBack 0 queuedCmd = false ∧ (running queuedCmd).resident 1 = true ∧
    queuedCmd.todo = [] ∧ ((running queuedCmd).bank queuedCmd.owner).rlx = [] ∧ ((running queuedCmd).tile 0).mx.frozen = false ∧
    ((running queuedCmd).tile 0).mx.owner = some 1 ∧ (running queuedCmd).task? 1 = some task0 ∧ task0.killing = false ∧ task0.saving = false ∧
    OnlyCommand ((running (runningCmd 2 0)).tile 0).mx false (runningCmd 2 0) ∧ (runningCmd 2 0).isStep = true ∧
    (runningCmd 2 0).rows.length < (runningCmd 2 0).n ∧ (runningCmd 2 0).nextRow 0 ≤ (running (runningCmd 2 0)).cycle ∧
    (runningCmd 2 0).row0 + (runningCmd 2 0).n ≤ 64 ∧ OnlyCommand ((running entered).tile 0).mx false entered ∧ Alone (running entered) entered ∧
    entered.stepEnd = entered.n ∧ entered.rows.length = entered.n ∧ ((entered.rows[entered.n - 1]?).map (·.1)).getD 0 + 1 + 24 ≤ 25 ∧
    ((running entered).bank entered.owner).task = entered.sender ∧
    Alone (running (runningCmd 3 1)) (runningCmd 3 1) ∧ (runningCmd 3 1).bank < 2 ∧ (runningCmd 3 1).duration ≤ 1 ∧ (runningCmd 8 0).duration ≤ 1 ∧
    ((matrix { owner := some 1 } (fun b => { b with wait := some (.mxFull queuedCmd) })).bank ⟨0, 0, 0⟩).wait = some (.mxFull queuedCmd) ∧
    ((matrix { clearing := true } id).tile 0).mx.clearing = true ∧
    { matrix { owner := some 1 } id with net := [.mcmd 0 0x0000000700000000 0 queuedCmd] }.net = [.mcmd 0 0x0000000700000000 0 queuedCmd] ∧
    dfld 0x0000000700000000 63 32 = job.lid.toNat ∧ (matrix { owner := some 1 } id).launch? task0.launch = some job := by
  unfold OnlyCommand Alone
  decide +kernel
/-- 3 · 2 accumulates into an empty element, and no other element changes. -/
theorem test_step_accumulates : ((((running (runningCmd 2 0)).mxCycle 0).tile 0).mx.acc0.filter (fun p => p.2 != 0)).map (·.1) = [0, 32, 64] := by
  decide +kernel
/-- 24 cycles after its last row, and not before, the step is complete (R223). -/
theorem test_step_completes : [24, 25].map (fun n => (goes (exec (.matrixStepComplete 0 false) { running entered with cycle := n })).map
    (fun t => (t.tile 0).mx.tq.length)) = [some 1, some 0] := by decide +kernel
theorem test_mzero_row : (goes (exec (.matrixCommandComplete 0 false 0) { running (runningCmd 3 1) with cycle := 1 })).map (fun t =>
    ((t.tile 0).mx.acc0.filter (fun p => p.2 != 0)).map (·.1)) = some [64] := by decide +kernel

/-- Two commands in the queue of context 0's unit, of which the first has started. -/
def inFront (x c : MxCmd) : State := matrix { tq := [x, c], owner := some 1 } id
/-- A step that may start behind one whose row has entered, and an MWSWAP that may not behind a load; and a step whose record word is still to be read. -/
def waiting (minor : Nat) : MxCmd := { queuedCmd with minor := minor, id := 7 }
def unread : MxCmd := { queuedCmd with od := 0 }
theorem witness_commands_start_in_order : MayStart { inFront entered (waiting 2) with cycle := 1 } 0 false [entered] (waiting 2) ∧
    ¬ MayStart (inFront (runningCmd 0 0) (waiting 1)) 0 false [runningCmd 0 0] (waiting 1) ∧
    (((inFront entered (waiting 2)).tile 0).mx.queue false = [entered] ++ waiting 2 :: []) ∧ Intact (inFront entered (waiting 2)) ∧
    startError (inFront entered (waiting 2)) 0 false (waiting 2) = none ∧ (inFront entered (waiting 2)).heldBack 0 (waiting 2) = false ∧
    OnlyCommand ((running unread).tile 0).mx false unread ∧ unread.readDone = false ∧ (running unread).mxHalts 0 false = false ∧ (running unread).atUnit = [] := by
  refine ⟨?_, ?_, ?_, intact_of _ (by decide +kernel), ?_⟩
  · show (waiting 2).readDone = true ∧ ∀ x ∈ [entered], _
    decide +kernel
  · show ¬ ∀ x ∈ [runningCmd 0 0], _
    decide +kernel
  · decide +kernel
  · unfold OnlyCommand
    decide +kernel

/-- MWRA of 2.0 in each lane to row 1 of bank 0, and MRDA of that row for a window that is open, or for a thread that waits. -/
def written : MxCmd := { runningCmd 5 1 with vdata := 0x4000000040000000 }
def readOut : MxCmd := { runningCmd 4 1 with win := 3 }
def reading (k : Bank → Bank) : State :=
  matrix { tq := [readOut], owner := some 1, acc0 := [(32, 0x4040000000)] } (fun b => k { b with wins := [⟨2, .v 6, none, none, 0, 3, false, []⟩] })
theorem witness_lanes_are_read_and_written : Alone (running written) written ∧ written.bank < 2 ∧ written.duration ≤ 1 ∧
    (running written).atUnit = [] ∧ Alone (reading id) readOut ∧ readOut.duration ≤ 6 ∧
    (reading id).me.wins = [⟨2, .v 6, none, none, 0, 3, false, []⟩] ∧ (reading id).me.wait = none ∧
    (reading (fun b => { b with wins := [⟨0, .v 6, none, none, 0, 3, false, []⟩], wait := some .window })).me.wait = some .window ∧
    numericTrap readOut.ga ((List.range 32).map (fun i => (i, (lanesRead readOut i (tget 0 [(32, 0x4040000000)] (32 + i))).2))) = none := by
  unfold Alone; decide +kernel
/-- An FP32 2.0 is 0x4000000000 in EA40 (R158, R232). -/
theorem test_mwra : (goes (exec (.matrixCommandComplete 0 false 0) { running written with cycle := 1 })).map (fun t =>
    ([31, 32, 33, 34].map (tget 0 (t.tile 0).mx.acc0), (t.tile 0).mx.tq)) = some ([0, 0x4000000000, 0x4000000000, 0], []) := by decide +kernel
theorem test_mrda : (goes (exec (.matrixCommandComplete 0 false 0)
    { reading (fun b => { b with wins := [⟨0, .v 6, none, none, 0, 3, false, []⟩], wait := some .window }) with cycle := 6 })).map (fun t =>
    (t.me.rv 6, t.me.wait, t.me.wins)) = some (0x40400000, none, []) := by decide +kernel
theorem witness_MatrixForwards : (matrix { owner := some 1 } id).mxWaiters 0 false = [] ∧ (matrix { owner := some 1 } id).task? 1 = some task0 ∧
    ((matrix { owner := some 1 } (fun b => { b with wait := some (.mcmd 9) })).bank ⟨0, 0, 0⟩).wait = some (.mcmd 9) ∧
    ((matrix { owner := some 1 } (fun b => { b with wait := some (.mxFull queuedCmd) })).tile 0).mx.room false = true ∧
    ((matrix { owner := some 1 } (fun b => { b with wait := some (.mxFull queuedCmd) })).mxWaiters 0 false).length = 1 ∧
    ((matrix { owner := some 1, tq := List.replicate 8 queuedCmd } id).tile 0).mx.room false = false := by decide +kernel
theorem test_mcmd_without_owner : (goes (exec (.mcmdArrival 0) { matrix {} id with net := [.mcmd 0 0 0 queuedCmd] })).map (·.net) =
    some [.mcmdReply ⟨0, 0, 0⟩ 1 3] := by decide +kernel

/-! ### The reflex array and seizure -/

/-- A task thread on XA tile 0x190 that owns slots 0 and 1. -/
def reflexive (x : Reflex) : State :=
  { working (xaThread { task := 1, pc := 0x200080, g := [(1, 0x80), (2, 0x1), (5, 0xA), (6, 1)] }) with
    tasks := [{ task0 with tile := 0x190 }] }.setCtx 0x190 1 { reflex := x }
theorem witness_ReflexSlotsActivate : Calm (reflexive {}) ∧ isXa (reflexive {}).cur.1 = true ∧ (reflexive {}).me.kind = 0 ∧
    (reflexive {}).task? (reflexive {}).me.task = some { task0 with tile := 0x190 } ∧ (reflexive {}).launchOf (reflexive {}).me = some job ∧
    dfld ((reflexive {}).rg 2) 2 0 ∈ [0, 1] ∧ job.role (dfld ((reflexive {}).rg 2) 15 8) 1 = some 0x40 ∧
    (reflexive {}).armedOn 0x190 0x80 = none ∧ (reflexive {}).tag (lsLoc 0x190 0x80) = false ∧
    (reflexive { armed := true, preset := some ⟨0, 0, 0, 0, [], 0, 0x80, 0, 1⟩ }).armedOn 0x190 0x80 ≠ none ∧ Calm (reflexive { active := true }) ∧
    ((reflexive {}).rg 6).toNat < 8 ∧
    (((reflexive {}).setCtx 0x190 1 { active := 1, b1 := { seeded := true, kind := 3, ceiling := 5, icount := 5 } }).ctx 0x190 1).b1.ceiling ≤ 5 ∧
    (((reflexive {}).setCtx 0x190 1 { switch := some (1, 0) }).ctx 0x190 1).switch = some (1, 0) := by
  and_intros <;> first
    | exact calm_of _ (by decide +kernel)
    | decide +kernel
/-- A slot whose activation has ended, on its way back to bank 0. -/
def returning : State :=
  (reflexive {}).setCtx 0x190 1 { active := 1, switch := some (0, 0), reflex := { armed := true, active := true, preset := some ⟨0x40, 1, 2, 3, [], 0, 0x80, 0, 1⟩ } }
theorem witness_activations_end : (returning.ctx 0x190 1).b1.rlx = [] ∧ returning.resvOf ⟨0x190, 1, 1⟩ = [] ∧ returning.tag (lsLoc 0x190 0x80) = false ∧
    (reflexive {}).dying ⟨0x190, 1, 1⟩ = false := by decide +kernel
theorem test_prime_arms : (goes (exec (.prime 9 1 2) (reflexive {}))).map (fun t =>
    (t.me.rg 9, (t.ctx 0x190 1).reflex.armed, (t.ctx 0x190 1).reflex.preset.map (·.g5))) = some (0, true, some 0xA) := by decide +kernel
theorem test_unprime_free : after (.unprime 9 6) (reflexive {}) (·.rg 9) = some 2 := by decide +kernel
theorem test_ceiling : (goes (exec (.ceilingTrip 0x190 1)
    ((reflexive {}).setCtx 0x190 1 { active := 1, b1 := { seeded := true, kind := 3, ceiling := 5, icount := 5 } }))).map (fun t =>
    ((t.ctx 0x190 1).b1.seeded, (t.ctx 0x190 1).reflex.ceil, (t.ctx 0x190 1).switch)) = some (false, 1, some (0, 10)) := by decide +kernel

/-- A configuration table with every tile leashable and two virtual functions. -/
def table : Cct := {
  slot := 0, seqNo := 1, hfCol := 30, hfWidth := 0, fwOffset := 0, fwLength := 0, fwHash := 0, leashable := BitVec.allOnes 512, numVf := 2, bar2Init := 0
  key := [] }
/-- An XA thread that may seize tile 0, and a seizure of tile 0 by it in some state. -/
def seizing (z : Seizure) (k : Bank → Bank) : State :=
  { reflexive {} with
    tiles := [(0, { seize := { z with seizer := ⟨0x190, 0, 0⟩, task := 1 } })], tenants := [(0, { memb := BitVec.allOnes 512, leash := 0x40000 })], boot := { cct := some table } }.setMe
    (k { (reflexive {}).me with g := [(1, 0), (2, 0)] })
def seizure : Seizure := { seizer := ⟨0x190, 0, 0⟩, task := 1, n := 2, hdr := 0x100 }
theorem witness_SeizuresAdvance : Calm (seizing {} id) ∧ isXa (seizing {} id).cur.1 = true ∧ (seizing {} id).me.kind = 0 ∧ ((seizing {} id).rg 1).toNat < 512 ∧
    (seizing {} id).leashAllowed (seizing {} id).me.tenant 0 0 = true ∧ (seizing {} id).member (seizing {} id).me.tenant 0 = true ∧ ((seizing { st := 3 } id).tile 0).seize.st = 3 ∧
    ((seizing { st := 3 } id).tile 0).seize.seizer.tile = (seizing { st := 3 } id).cur.1 ∧ Calm { seizing { st := 3, first := true } id with cur := (0, 0) } ∧
    (seizing {} id).task? seizure.task = some { task0 with tile := 0x190 } ∧ ((seizing {} id).tile 0).seize.st = 0 ∧
    ((seizing { st := 1, valid := true } id).tile 0).mx.tq = [] ∧ ((seizing { st := 2 } id).tile 0).seize.start + 9 ≤ { seizing { st := 2 } id with cycle := 9 }.cycle ∧
    ((seizing {} (fun b => { b with wait := some (.seize 9) })).bank ⟨0x190, 0, 0⟩).wait = some (.seize 9) := by
  and_intros <;> first
    | exact calm_of _ (by decide +kernel)
    | decide +kernel
/-- A leash thread at its ceiling, a release that is over, and replies on the way. -/
def leashed : State := (seizing { st := 3, first := true } id).setCtx 0 1 { active := 1, b1 := { seeded := true, kind := 2, ceiling := 5, icount := 5 } }
theorem witness_seizures_end : (leashed.ctx 0 1).b1.kind = 2 ∧ (leashed.ctx 0 1).b1.wait = none ∧ (leashed.tile 0).seize.st = 3 ∧
    (leashed.tile 0).seize.task = 1 ∧ ((seizing { st := 4 } id).tile 0).seize.start + 10 ≤ 10 ∧
    (∀ k < 8, ((seizing { st := 4 } id).ctx 0 k).b1.rlx = [] ∧ (seizing { st := 4 } id).resvOf ⟨0, k, 1⟩ = []) ∧
    ((seizing {} (fun b => { b with wait := some (.seizq 0 9) })).bank ⟨0x190, 0, 0⟩).wait = some (.seizq 0 9) ∧
    (seizing {} (fun b => { b with wait := some (.seizq 0 9) })).dying ⟨0x190, 0, 0⟩ = false := by decide +kernel
theorem test_seize_parks : (goes (exec (.seize 9 1 2 0x100) (seizing {} id))).map (fun t => (t.me.wait, t.net.length)) = some (some (.seize 9), 1) := by
  decide +kernel
theorem test_seize_arrival_busy : (goes (exec (.seizeArrival 0) { seizing { st := 3 } id with net := [.seize 0 seizure] })).map (·.net) =
    some [.seizeReply ⟨0x190, 0, 0⟩ 1 1] := by decide +kernel
theorem test_swap_gives_leash_threads : (goes (exec (.seizureSwapComplete 0) { seizing { st := 2, n := 2 } id with cycle := 9 })).map (fun t =>
    ((t.tile 0).seize.st, (List.range 8).map (fun k => (t.ctx 0 k).b1.seeded))) = some (3, [true, true, false, false, false, false, false, false]) := by
  decide +kernel
theorem test_srls_remote : (goes (exec (.srlsRemote 1) (seizing { st := 3, first := true } id))).map (·.net) = some [.srls 0 1] := by decide +kernel

/-! ### Queues -/

/-- Queue 9 of tenant 0, enabled and served, with a ring of 4 KiB that holds two words, and a mapped word of memory. -/
def queueing (k : Queue → Queue) : State :=
  { worker with
    curq := 9, len := 8, queues := [(9, k { en := true, st := 2, tail := 0x100, prioMax := 5, prio := 5, base := 0x240 })], serving := [(1, 10)]
    mem := [(0x140000, 7), (0x180000, 0x79)], tlb := [(520, 0, 8, 5, true, true), (521, 0, 9, 6, true, true)] }
/-- A ring wraps, an inner level does not, and a stack that is full is refused. -/
theorem witness_QueueInstructionsMoveOn : (queueAfter ((queueing (fun q => { q with ip := 0xFFC })).queue 9) 8 (.qnop 0)).map (·.ip) = some 4 ∧
    (queueAfter ((queueing (fun q => { q with ip := 0xFFC, ibs := [⟨0, 0x2000, 0⟩] })).queue 9) 8 (.qnop 0)).map (·.ip) = some 0x1004 ∧
    (queueAfter ((queueing id).queue 9) 8 (.qib 0x200000 4)).isSome = true ∧ queueAfter ((queueing id).queue 9) 8 (.qib 0x200000 0) = none ∧
    queueAfter ((queueing id).queue 9) 8 .qret = none ∧ stackFault .qret = some 0x2C5 ∧ ((queueing id).queue 9).en = true ∧
    (queueAfter ((queueing (fun q => { q with loops := [⟨1, 0, 0⟩, ⟨2, 0, 0⟩] })).queue 9) 8 (.qloop 1)).isNone = true ∧
    (queueAfter ((queueing (fun q => { q with loops := [⟨1, 0, 0⟩] })).queue 9) 8 .qendl).map (·.loops) = some [] ∧
    { queueing id with insts := [⟨0, 2, 7, 0, false, false, 1, false, false, false, 0, []⟩] }.inst? 0 (0 + 2) (7 % 2 ^ 16) ≠ none := by decide +kernel
theorem test_qprio_clamps : (goes (exec (.qprio 9) (queueing id))).map (fun t => ((t.queue 9).prio, (t.queue 9).ip, (t.queue 9).head)) = some (5, 8, 8) := by
  decide +kernel
theorem test_qret_faults : (goes (exec .qret (queueing id))).map (fun t => ((t.queue 9).st, (t.queue 9).cause)) = some (5, 0x2C5) := by decide +kernel
theorem test_qmark_closes : (goes (exec (.qmark 0 7) { queueing id with insts := [⟨0, 2, 7, 0, false, false, 1, false, false, false, 0, []⟩] })).map
    (fun t => t.insts.map (·.closed)) = some [true] := by decide +kernel

theorem witness_QueueWordsAreReadAndWritten : Memory.wf (queueing id).mem = true ∧ NoneWaits (queueing id) 9 ∧
    QueueReaches (queueing id) 9 0x200000 8 1 (queueing id) 0x140000 ∧ QueueReaches (queueing id) 9 0x200000 8 0 (queueing id) 0x140000 ∧
    WordAt (queueing id).mem 0x140000 7 ∧ conditionHolds 0 7 7 = true ∧ conditionHolds 5 7 8 = false ∧
    15 ≤ ((queueing (fun q => { q with preds := List.replicate 15 0 })).queue 9).preds.length ∧
    8 ≤ ((queueing (fun q => { q with signals := List.replicate 8 ⟨0, 0, false, 0, 0, 0, []⟩ })).queue 9).signals.length ∧
    ((queueing (fun q => { q with hold := some (.wait 0 0x200000 8 1 0, 8) })).queue 9).hold = some (.wait 0 0x200000 8 1 0, 8) :=
  ⟨by decide +kernel, (by
      intro j _ c va x o f len h
      have : ((queueing id).queue j).hold = none := by
        unfold State.queue queueing; simp only [tget]; split <;> rfl
      rw [this] at h; cases h),
    ⟨by decide +kernel, by decide, intact_of _ (by decide +kernel)⟩, ⟨by decide +kernel, by decide, intact_of _ (by decide +kernel)⟩,
    by unfold WordAt; decide +kernel, by decide +kernel⟩
theorem test_qwr_stores : (goes (exec (.qwr 0x200000 0x1234) (queueing id))).map (fun t => (memGet t.mem 0x140000, memGet t.mem 0x140001)) =
    some (0x34, 0x12) := by decide +kernel
theorem test_qwait_waits : (goes (exec (.qwait 0 0x200000 8 1) (queueing id))).map (fun t => ((t.queue 9).st, (t.queue 9).ip)) = some (3, 0) := by
  decide +kernel
theorem test_qwait_timeout : (goes (exec (.qwaitTimeout 9) { queueing (fun q => { q with hold := some (.wait 0 0x200000 8 1 0, 8) }) with
    boot := { dtb := 1000 } })).map (fun t => ((t.queue 9).st, (t.queue 9).cause)) = some (5, 0x2C7) := by decide +kernel

/-- No queue waits for its QWAIT, when no queue holds anything. -/
theorem noneWaits_of (s : State) (k : Nat) (h : s.queues.all (fun q => decide (q.2.hold = none)) = true) : NoneWaits s k := by
  intro j _ c va x o f len hh
  have : (s.queue j).hold = none := by
    unfold State.queue
    generalize s.queues = l at h ⊢
    induction l with
    | nil => unfold tget; rfl
    | cons a l ih =>
      obtain ⟨i, q⟩ := a
      simp only [List.all_cons, Bool.and_eq_true, decide_eq_true_eq] at h
      unfold tget
      split
      · exact h.1
      · exact ih h.2
  rw [this] at hh; cases hh
/-- A signal that is due as it is posted, and one that a live launch of the queue holds back. -/
def posting (ls : List Launch) : State := { queueing id with launches := ls }
theorem witness_signals_are_posted : ((posting []).queue 9).signals = [] ∧ NoneWaits (posting []) 9 ∧ Intact (posting []) ∧
    QueueReaches ((posting []).completeQ 9 (Queue.next 8)) 9 0x200000 8 1 ((posting []).completeQ 9 (Queue.next 8)) 0x140000 ∧
    (((posting [{ job with queue := some 9 }]).launches.filter (fun l => l.queue == some 9)).map (·.key)) = [1] ∧
    ((posting [{ job with queue := some 9 }]).launch? 1).isSome = true :=
  ⟨by decide +kernel, noneWaits_of _ _ (by decide +kernel), intact_of _ (by decide +kernel), ⟨by decide +kernel, by decide, intact_of _ (by decide +kernel)⟩,
    by decide +kernel⟩
theorem test_signal_at_once : (goes (exec (.qsig 1 3 0x200000 0x77) (posting []))).map (fun t => (memGet t.mem 0x140000, (t.queue 9).signals.length, t.msix)) =
    some (0x77, 0, [(0, 3)]) := by decide +kernel
theorem test_signal_waits : (goes (exec (.qsig 1 3 0x200000 0x77) (posting [{ job with queue := some 9 }]))).map (fun t =>
    (memGet t.mem 0x140000, (t.queue 9).signals.length, t.msix)) = some (7, 1, []) := by decide +kernel
theorem test_qwait_late : (goes (exec (.qwaitTimeout 9) { queueing (fun q => { q with hold := some (.wait 0 0x200000 7 1 0, 8) }) with
    boot := { dtb := 1001 } })).map (fun t => ((t.queue 9).st, (t.queue 9).cause)) = some (5, 0x2C7) := by decide +kernel

/-- A packet whose header, at 0x200080, holds nothing, which R115 rejects, for queue 9. -/
def launching : State := { queueing (fun q => { q with hold := some (.launch 0x200000, 12) }) with mem := [(0x140008, 0x80), (0x14000A, 0x20)] }
/-- A legal packet of one task on tile 0, with its header behind it. -/
def workBytes : List Byte := natBytes 128 (2 ^ 32 + 0x200080 * 2 ^ 64) ++ natBytes 64 (0x484B5A47 + 2 ^ 48 + 2 ^ 64 + 2 ^ 88 + 0x40 * 2 ^ 288)
def accepting : State := { launching with mem := memWrite [] 0x140000 workBytes }
theorem witness_accepted_packet : ((accepting.readWork 0 0x200000).2.any (fun w => ((accepting.readWork 0 0x200000).1.workCause 0 w).isNone)) = true ∧
    (accepting.launches.filter (fun l => !l.cancelled)).length < 4096 ∧ ∀ p, accepting.gone 0 p = false := by
  refine ⟨by decide +kernel, by decide +kernel, fun p => ?_⟩
  have h : accepting.ended = [] := rfl
  simp only [State.gone, h, List.contains_nil, Bool.and_false, Bool.or_self]
theorem test_accepted_packet : (goes (exec (.launchAccept 9) accepting)).map (fun t => (t.launches.map (·.lid), (t.queue 9).lastLid, (t.queue 9).ip)) =
    some ([7, 0], 0, 12) := by decide +kernel
theorem test_dlaunch : after (.dlaunch 9 1) { accepting.setMe { accepting.me with g := [(1, 0x200000)] } with len := 4 } (·.rg 9) = some 0 := by decide +kernel
theorem test_dlaunch_refused : after (.dlaunch 9 1) { launching.setMe { launching.me with g := [(1, 0x200000)] } with len := 4 } (·.rg 9) =
    some 0x80000000000002D2 := by decide +kernel
theorem witness_QueuesLaunchAndAreChosen : ((launching).queue 9).hold = some (.launch 0x200000, 12) ∧ ((launching).queue 9).signals = [] ∧
    (((launching).readWork 0 0x200000).2.any (fun w => (((launching).readWork 0 0x200000).1.workCause 0 w).isSome)) = true ∧
    (∀ l ∈ (launching).launches, l.queue ≠ some 9) ∧ (7 - ((launching).tenant 0).lastLid).toNat = 8 ∧
    (queueing id).runnable 9 = true ∧ tget 0 { queueing id with serving := [] }.serving 1 = 0 ∧ ((queueing id).queue 9).block = none ∧
    ((queueing id).queue 9).left ≠ 0 ∧ ((queueing id).queue 9).ip < ((queueing id).queue 9).ring ∧
    ((queueing id).queue 9).tail ≤ ((queueing id).queue 9).ring := by decide +kernel
theorem test_rejected_packet_faults : (goes (exec (.launchAccept 9) launching)).map (fun t => ((t.queue 9).st, t.launches.length)) = some (5, 1) := by
  decide +kernel
theorem test_qdep_ahead_faults : (goes (exec (.qdep 1 9) (queueing id))).map (fun t => (t.queue 9).cause) = some 0x2CB := by decide +kernel
theorem test_queue_select : (goes (exec (.queueSelect 1) { queueing id with serving := [] })).map (fun t => (tget 0 t.serving 1, tget 7 t.lastServed 1)) =
    some (10, 7) := by decide +kernel

/-! ### The host's registers, boot, and service -/

/-- A READY device with a configuration table, whose function 1 serves tenant 0. -/
def ready (s : State) : State := { s with boot := { s.boot with phase := 6, cct := some table, linkUp := true }, fnten := [(1, 64)] }
theorem witness_HostRegistersControlTheDevice : HostMay (ready (queueing id)) 1 ((ready (queueing id)).queue 9).tenant ∧
    HostMay (ready worker) 0 ((ready worker).queue 63).tenant ∧ ((ready (queueing id)).queue 9).en = true ∧ ((ready worker).queue 63).en = false ∧
    dfld 0xFFC 23 0 % 4 = 0 ∧ dfld 0xFFC 23 0 < 2 ^ (12 + min ((ready (queueing id)).queue 9).size 12) ∧
    ¬ (dfld 0x1000 23 0 % 4 = 0 ∧ dfld 0x1000 23 0 < 2 ^ (12 + min ((ready (queueing id)).queue 9).size 12)) ∧ (ready worker).boot.negf = false ∧
    (ready (queueing id)).launches.find? (fun x => x.tenant == 0 && x.lid.toNat == dfld 0x700000001 63 32) = some job ∧
    (∀ x ∈ (ready (queueing id)).launches, x.key = job.key → x = job) ∧
    (ready (queueing id)).launches.find? (fun x => x.tenant == 0 && x.lid.toNat == dfld 0x800000001 63 32) = none ∧ worker.boot.phase ≠ 6 ∧
    (∀ l ∈ (ready worker).launches, l.tenant ≠ 63) :=
  ⟨⟨by decide +kernel, by decide +kernel, .inr (by decide +kernel), by decide +kernel⟩, ⟨by decide +kernel, by decide +kernel, .inl (by decide +kernel), by decide +kernel⟩,
    by decide +kernel⟩
theorem test_doorbell_bad : (goes (exec (.qtailDoorbell 0 9 0x1000) (ready (queueing id)))).map (fun t => ((t.queue 9).tail, (t.queue 9).cause)) =
    some (0x100, 0x2CA) := by decide +kernel
theorem test_queue_starts : (goes (exec (.qctlEnable 0 63 0x51) (ready worker))).map (fun t => ((t.queue 63).en, (t.queue 63).st, (t.queue 63).prio)) =
    some (true, 1, 5) := by decide +kernel
theorem test_qcancel : (goes (exec (.qcancelWrite 0 9 0x700000001) (ready (queueing id)))).map (fun t =>
    (t.launches.map (·.cancelled), t.tasks.map (·.killing))) = some ([true], [true]) := by decide +kernel

theorem witness_HostStartsUnits : (ready worker).boot.phase = 6 ∧ ((ready worker).tenant 63).tlbBusy = false ∧
    ({ worker with tenants := [(0, { tlbBusy := true })] }.tenant 0).tlbBusy = true ∧ ((ready worker).queue 63).ladder = none ∧
    ((ready worker).setMe { worker.me with wait := some .debug }).me.wait = some .debug ∧ HostMay (ready worker) 1 0 ∧
    dfld 0x07 2 0 = 7 ∧ ({ ready worker with tenants := [(0, { lvq := 0x700000001, lvres := 0x40 })] }.tenant 0).lvres.getLsbD 6 = true ∧
    (ready worker).launches.find? (fun y => y.tenant == 0 && y.lid.toNat == dfld 0x700000001 63 32) = some job ∧
    (ready { worker with launches := [] }).boot.fwBusy = false ∧ ((ready worker).pool 15).en = false ∧ ((ready (pooled [] id)).pool 0).en = true ∧
    (∃ l ∈ (ready (pooled [] id)).launches, l.tenant = ((ready (pooled [] id)).pool 0).tenant) ∧ ((ready worker).mbox 4095).en = false ∧
    ((ready worker).tile 0x190).trctl.getLsbD 0 = false ∧ isXa 0x190 = true ∧ (ready worker).peer.en = false ∧
    (ready (pooled [] id)).poolBad 15 { cfg := 1 } = true ∧
    (let g : ErrLog := { head := 2, tail := 254 }; (0 + 256 - g.tail) % 256 ≤ (g.head + 256 - g.tail) % 256) := by
  and_intros <;> decide +kernel
theorem test_tlbinv_range : (goes (exec (.tlbinvWrite 0 0 0x200000) { ready worker with tlb := [(0, 0, 8, 5, true, true), (0, 0, 9, 6, true, true)] })).map
    (fun t => (t.tlb.map (fun e => e.2.2.1), (t.tenant 0).tlbBusy)) = some ([9], true) := by decide +kernel
theorem test_level_query_live : (goes (exec (.levelQueryComplete 0) { ready worker with tenants := [(0, { lvq := 0x700000001, lvres := 0x40 })] })).map
    (fun t => (t.tenant 0).lvres) = some 0 := by decide +kernel
theorem test_level_query_unknown : (goes (exec (.levelQueryComplete 0) { ready worker with tenants := [(0, { lvq := 0x700000002, lvres := 0x40 })] })).map
    (fun t => (t.tenant 0).lvres) = some 6 := by decide +kernel

/-- Instances of a job 2, its phase 3 and graph 4, with the launch of `worker` in them all. -/
def levelled (s : State) : State :=
  { s with
    launches := [{ job with graph := 4, phase := 3, job := 2 }], insts := [⟨0, 2, 4, 3, false, false, 1, false, false, false, 0, []⟩,
      ⟨0, 3, 3, 2, false, false, 1, false, false, false, 0, []⟩, ⟨0, 4, 2, 0, false, false, 1, false, false, false, 0, []⟩] }
theorem witness_levels_are_cancelled : HostMay (levelled (ready (queueing id))) 1 0 ∧ dfld 0x0000000300000003 2 0 ∈ [2, 3, 4] ∧
    dfld 0x0000000300000003 47 32 = 3 ∧ (levelled (ready (queueing id))).inst? 0 3 3 = some ⟨0, 3, 3, 2, false, false, 1, false, false, false, 0, []⟩ ∧
    (levelled (ready (queueing id))).inst? 0 2 9 = none ∧ dfld 5 2 0 = 5 ∧
    { ready worker with launches := [], dones := [⟨0, 1, 7, 2, true, false, true, 5, 9⟩] }.done? 0 1 7 = some ⟨0, 1, 7, 2, true, false, true, 5, 9⟩ ∧
    (ready worker).hostClear 0 = true ∧ (ready worker).boot.fwSwitch = false := by
  and_intros <;> decide +kernel
theorem test_peer_joins : (goes (exec (.peerctlEnable 0 0x30A01) (ready worker))).map (fun t =>
    (t.peer.st, t.peer.hb, t.peer.miss, t.peer.sent.map (fun m => m.extractLsb' 48 8))) = some (1, 10, 3, [1]) := by decide +kernel

/-- A physical aperture of the physical function at DRAM 0x140000 of its window, a disabled one, and one to the mailbox memory. -/
def apertured : State := { ready (queueing id) with b2ap := [(0, 3), (2, 0xFE0000000001)] }
theorem witness_HostAccessesGoThroughApertures : apertured.boot.phase = 6 ∧ (0x140000 : Nat) % 8 = 0 ∧
    0x140000 + 8 ≤ 2 ^ (30 + tget 0 apertured.boot.bar2 0) ∧ apertureOf apertured 0 0x140000 3 0x140000 ∧ apertured.poison = [] ∧
    (∀ t, (apertured.tile t).trctl.getLsbD 0 = false) ∧ Memory.wf apertured.mem = true ∧ 0x140000 + 8 ≤ dramBytes ∧
    apertureOf apertured 0 0x8000000 0 0 ∧ apertureOf apertured 0 0x10000000 0xFE0000000001 0xFE0000000000 ∧ region 0xFE0000000000 = .mbm 0 :=
  ⟨by decide +kernel, by decide +kernel, by decide +kernel, (by constructor <;> decide +kernel), by decide +kernel, rings_off _ (by decide +kernel),
    by decide +kernel, by decide +kernel, (by constructor <;> decide +kernel), (by constructor <;> decide +kernel), by decide +kernel⟩
theorem test_host_read : (goes (exec (.hostBar2Read 0 0x140000 8) apertured)).map (·.hostReads) = some [(0, 0x140000, 7)] := by decide +kernel
theorem test_host_read_disabled : (goes (exec (.hostBar2Read 0 0x8000000 8) apertured)).map (·.hostReads) = some [(0, 0x8000000, 0xFFFFFFFFFFFFFFFF)] := by
  decide +kernel

/-- The device in a boot phase. -/
def booting (p : Nat) : State := { State.reset with boot := { phase := p, cct := some table, linkUp := true } }
theorem witness_TheDeviceBoots : State.reset.boot.phase = 0 ∧ (booting 1).boot.phase = 1 ∧ (booting 2).boot.cct = some table ∧ (booting 3).boot.phase = 3 ∧
    (∃ c ∈ [23], c < 24) ∧ (7 ∉ [23] ∧ (7, 5) ∈ [(7, 5)]) ∧ (booting 4).boot.phase = 4 ∧ (booting 15).boot.phase ≠ 0 := by decide +kernel
theorem test_dead_channel_stops : (goes (exec (.memoryTraining [(7, 5)] [23]) (booting 3))).map (fun t =>
    (t.boot.phase, t.boot.err, t.boot.chok, (t.channel 7).degr)) = some (15, 0x04, 0x7FFFFF, true) := by decide +kernel
theorem test_memory_clear : (goes (exec (.memoryClear false) { booting 4 with mem := [(5, 1), (hostLoc, 2)] })).map (fun t => (t.boot.phase, t.mem)) =
    some (5, [(hostLoc, 2)]) := by decide +kernel

/-- A device that publishes versions 1.0 to 1.3 and a host that accepts 1.2 to 2.0 of the first interfaces. -/
def versioned (p : Nat) : State :=
  { booting p with boot := { (booting p).boot with
    devRange := [(0, 0x01030100), (1, 0x01030100), (2, 0x01030100)], hostRange := [(0, 0x02000102), (1, 0x02000102), (2, 0x02000102)] } }
theorem witness_VersionsAndTimeAreKept : (versioned 5).boot.phase = 5 ∧ (versioned 6).boot.phase = 6 ∧ (∀ q ∈ (versioned 6).queues, q.2.en = false) ∧
    (∃ q ∈ (ready (queueing id)).queues, q.2.en = true) ∧ (2 : BitVec 64) ≠ 1 ∧ Covers 0x01030100 0x103 ∧ Covers 0x02000102 0x103 ∧
    (booting 1).boot.dtbSync = false ∧ (booting 1).boot.linkUp = true ∧ (2 ≤ table.numVf) := by unfold Covers; decide +kernel
theorem test_negotiation : (goes (exec (.ivtctlWrite 0 1) (versioned 5))).map (fun t => (t.boot.phase, tget 0 t.boot.negotiated 1, tget 0 t.boot.negotiated 4)) =
    some (6, 0x10103, 0x10000) := by decide +kernel
theorem test_ptm_sets_clock : (goes (exec (.ptmExchange 77) (booting 1))).map (fun t => (t.boot.dtb, t.boot.dtbSync)) = some (77, true) := by decide +kernel
theorem test_throttle : (goes (exec (.thermalThrottle 110) (booting 6))).map (fun t => (t.boot.tj, t.boot.clkStep, t.boot.thr, t.log.head)) =
    some (174, 1, 1, 1) := by decide +kernel

/-- A device whose channel 3 has a row being repaired and another waiting. -/
def repairing : State := { booting 6 with channels := [(3, { pprBusy := some 63, pprWait := [2], rmap := [(2, 0x300003), (63, 0x100003)] })] }
theorem witness_ServiceKeepsTheDeviceRunning : (booting 6).fe.scrubOff = false ∧ (booting 6).boot.phase = 6 ∧ dramBytes / 64 - 1 < dramBytes / 64 ∧
    (0 : Nat) ∉ (booting 6).poison ∧ ((booting 6).channel 23).degr = false ∧ (repairing.channel 3).pprBusy = some 63 ∧ repairing.boot.fwSwitch = false ∧
    (tget 0 (repairing.channel 3).rmap 2).getLsbD 0 = true ∧ 2 ∈ (repairing.channel 3).pprWait ∧ (tget 0 (repairing.channel 3).rmap 0).getLsbD 0 = false ∧
    ({ booting 6 with boot := { (booting 6).boot with fwBusy := true } }).boot.fwSwitch = false ∧
    (∃ c ∈ repairing.channels, c.2.pprBusy ≠ none ∨ c.2.remapping ≠ []) ∧
    ((worker.setMe { worker.me with wait := some (.hfcall 0 9 0) }).bank ⟨0, 0, 0⟩).wait = some (.hfcall 0 9 0) ∧
    (∀ k, worker.task? 1 = some k → k.killing = false) := by
  and_intros <;> first
    | exact fun k h => (Option.some.inj (h.symm.trans (by decide +kernel : worker.task? 1 = some task0))) ▸ rfl
    | decide +kernel
theorem test_ppr_success_frees : (goes (exec (.pprComplete 3 true) repairing)).map (fun t =>
    (tget 0 (t.channel 3).rmap 63, (t.channel 3).pprBusy, (t.channel 3).pprWait, t.log.head)) = some (0x100000, some 2, [], 1) := by decide +kernel
theorem test_hfcall_version : (goes (exec (.hfcallReply 0 0 0) { worker.setMe { worker.me with wait := some (.hfcall 0 9 0) } with
    boot := { fwVersion := 0x0102 } })).map (fun t => (t.me.rg 9, t.me.wait)) = some (0x102, none) := by decide +kernel

/-- The empty string's SHAKE256 begins so (FIPS 202's published value). -/
theorem test_shake256_empty : shake256 [] = 0x2f76d56e64270cb5821bb862ea52cd3f24eb3e74eb3f3b23138da80b2bddb946 := by decide +kernel

/-- A scrubber that stands at the last DRAM line, where two symbols have failed, and at word 1 of tile 2's local store. -/
def scrubbing : State :=
  { booting 6 with fe := { scrubPos := dramBytes / 64 - 1, scrubSram := 2 * 2 ^ 19 + 1 }, failing := [(dramBytes / 64 - 1, 2), (lsLoc 2 8 / 8, 1)] }
theorem witness_scrub_order : scrubbing.fe.scrubOff = false ∧ scrubbing.boot.phase = 6 ∧ dramBytes / 64 - 1 = scrubbing.fe.scrubPos ∧
    tget 0 scrubbing.failing (dramBytes / 64 - 1) + 0 = 2 ∧ scrubbing.poison = [] ∧ scrubbing.fe.scrubSram = 2 * 2 ^ 19 + 1 ∧
    dramBytes / 64 + scrubbing.fe.scrubSram = dramBytes / 64 + (2 * 2 ^ 19 + 1) ∧ tget 0 scrubbing.failing (lsLoc 2 8 / 8) = 1 ∧
    scrubbing.poisoned (lsLoc 2 8) 8 = false ∧ (0 : Nat) ≠ scrubbing.fe.scrubPos := by decide +kernel

/-- A channel with a failed lane during a switchover, and one with a valid row whose contents are kept. -/
def laned (f : Channel → Channel) (sw : Bool) : State :=
  { booting 6 with boot := { (booting 6).boot with fwSwitch := sw }, channels := [(3, f {})] }
def rowed : State :=
  { booting 6 with mem := [(0x140, 9)], channels := [(3, { rmap := [(63, 0x100001)], oldRows := [(63, [(5, List.replicate 64 7, true)])] })] }
theorem witness_lanes_and_rows : ((laned id true).channel 3).degr = false ∧ ((laned id true).channel 3).laneHeld = none ∧ (laned id true).boot.fwSwitch = true ∧
    ((laned (fun c => { c with failing := true, lane := 4 }) false).channel 3).failing = true ∧
    ((laned (fun c => { c with laneHeld := some 4 }) true).channel 3).laneHeld = some 4 ∧ (23 : Nat) < 24 ∧
    (tget 0 (rowed.channel 3).rmap 63).getLsbD 0 = true ∧ Memory.wf rowed.mem = true ∧
    (tget [] (rowed.channel 3).oldRows 63).map (fun r => (r.1, r.2.1.length)) = [(5, 64)] ∧ rowed.hostClear 0 = true := by decide +kernel
/-- V cleared: the old row's contents show again, with its POISON (R428). -/
theorem test_row_restored : (goes (exec (.rmapClearValid 0 3 63 0x100000) rowed)).map (fun t =>
    (memGet t.mem 0x140, memGet t.mem 0x17F, memGet t.mem 0x180, t.poison, tget 0 (t.channel 3).rmap 63)) = some (7, 7, 0, [5], 0x100000) := by decide +kernel
theorem test_switchover_holds_lane : (goes (exec (.laneFailure 3 4) (laned id true))).map (fun t => ((t.channel 3).failing, (t.channel 3).laneHeld)) =
    some (false, some 4) := by decide +kernel

/-- A joining and a joined module, and their messages. -/
def message (type : Nat) (payload : BitVec 512) : BitVec 512 :=
  payload <<< 192 ||| BitVec.ofNat 512 (type * 2 ^ 48) ||| 0x53505A47
def joining (st : Nat) : State :=
  { versioned 6 with
    boot := { (versioned 6).boot with devRange := [(5, 0x01030100)], dtb := 20000000 }, peer := { en := true, spare := true, st := st, mine := [(4, 9, 0)] } }
theorem witness_PeersJoinAndTakeOver : (joining 1).boot.phase = 6 ∧ (joining 1).peer.en = true ∧ Message (message 1 0) 1 ∧
    Message (message 2 (0x02000102 <<< 64)) 2 ∧ (joining 1).peer.st = 1 ∧ (message 2 (0x02000102 <<< 64)).getLsbD 288 ≠ (joining 1).peer.spare ∧
    (message 2 (0x02000102 <<< 64)).extractLsb' 256 32 = 0x02000102 ∧ Message (message 4 4) 4 ∧ (joining 2).peer.other = [] ∧
    (joining 2).peer.mine = [(((message 4 4).extractLsb' 192 64).toNat, 9, (message 4 4).extractLsb' 256 256)] ∧
    ((∀ k, 1 ≤ k → k ≤ 5 → ¬ Message 0 k)) ∧ (joining 1).peer.joinAt + 10000000 ≤ (joining 1).boot.dtb ∧
    (joining 2).peer.lastMsg + max 1 (joining 2).peer.miss * (max 1 (joining 2).peer.hb * 10000) ≤ (joining 2).boot.dtb :=
  ⟨by decide +kernel, by decide +kernel, (by constructor <;> decide +kernel),
    (by constructor <;> decide +kernel), by decide +kernel, by decide +kernel, by decide +kernel,
    (by constructor <;> decide +kernel), by decide +kernel, by decide +kernel,
    fun k _ _ h => absurd h.1 (by decide +kernel), by decide +kernel⟩
theorem test_joinack_joins : (goes (exec (.porsolJoinack (message 2 (0x02000102 <<< 64))) (joining 1))).map (fun t =>
    (t.peer.st, t.peer.role, tget 0 t.boot.negotiated 5)) = some (2, true, 0x10103) := by decide +kernel
/-- JOIN carries both ranges too, and the module that has it has joined (R415). -/
theorem witness_peer_joins : Message (message 1 (0x02000102 <<< 64)) 1 ∧ (joining 1).peer.st = 1 ∧ (message 1 (0x02000102 <<< 64)).getLsbD 288 ≠ (joining 1).peer.spare ∧
    (joining 1).peer.acked = false := ⟨(by constructor <;> decide +kernel), by decide +kernel⟩
theorem test_join_joins : (goes (exec (.porsolJoin (message 1 (0x02000102 <<< 64))) (joining 1))).map (fun t =>
    (t.peer.st, t.peer.role, tget 0 t.boot.negotiated 5, (t.peer.sent.map (·.extractLsb' 32 24)))) = some (2, true, 0x10103, [0x20103]) := by decide +kernel
theorem test_equal_digests : (goes (exec (.porsolPdig (message 4 4)) (joining 2))).map (fun t => (t.peer.cmp, t.peer.mism, t.peer.mine.length)) =
    some (1, 0, 0) := by decide +kernel
theorem test_peer_lost : (goes (exec .peerLost (joining 2))).map (fun t => (t.peer.st, t.log.head)) = some (3, 1) := by decide +kernel

/-! ### Placement, pre-emption, and what lands -/

/-- A device with these launches and tasks, every tile a member of tenant 0. -/
def placing (ls : List Launch) (ks : List Task) : State :=
  { State.reset with launches := ls, tasks := ks, tenants := [(0, { memb := BitVec.allOnes 512 })], fresh := 9, boot := { phase := 6, cct := some table } }
/-- A deterministic launch over tile 0. -/
def detJob : Launch := { job with mode := 2, next := 0, lastTile := none }
/-- A task of the launch whose footprint of 0x100 bytes is still to be staged, with its image mapped. -/
def staging : State :=
  { placing [{ job with hdr := 0x200100 }] [{ task0 with staged := false, copied := 0 }] with tlb := [(520, 0, 8, 5, true, true)], mem := [(0x140000, 7)] }
theorem witness_TasksRunFromPlacementToCompletion : LaunchAt (placing [detJob] []) 0 detJob ∧
    (¬ ∃ x ∈ [detJob], x.mode = 2 ∧ x.reserved = true ∧ ∃ t, inRect x.rect t = true ∧ inRect detJob.rect t = true) ∧
    LaunchAt (placing [job] [task0]) 0 job ∧ (placing [job] [task0]).placeNext.map (·.key) = some job.key ∧ job.nextTask = some 1 ∧
    ((placing [job] [task0]).spot job).isSome = true ∧ staging.task? 1 = some { task0 with staged := false, copied := 0 } ∧ staging.resident 1 = true ∧
    staging.seized 0 = false ∧ task0.slots.Nodup ∧ (∀ j ∈ task0.slots, j < 8) ∧ task0.base % 8 = 0 ∧ job.foot % 8 = 0 ∧ task0.base + job.per ≤ 2 ^ 22 ∧
    Memory.wf staging.mem = true ∧ (staging.runLocs ⟨512, 0, .other⟩ 0 (0x100 / 64 + 2) 0x200000 0x100 []).2.toOption.isSome = true ∧
    ({ staging with tlb := [], tenants := [(0, { ptEn := true, ptBase := 0x1000 })] }.runLocs ⟨512, 0, .other⟩ 0 (0x100 / 64 + 2) 0x200000 0x100 []).2.toOption.isSome = false ∧
    (placing [job] [task0]).obligations task0 = 0 ∧ worker.obligations task0 ≠ 0 ∧
    LaunchAt (placing [{ job with closed := true }] []) 0 { job with closed := true } ∧
    { placing [] [] with insts := [⟨0, 2, 7, 3, true, false, 1, false, false, false, 0, []⟩] }.inst? 0 2 7 ≠ none := by
  and_intros <;> first
    | (constructor <;> decide +kernel)
    | exact (by rintro ⟨x, hx, _, h, _⟩; simp [detJob, job] at hx; subst hx; cases h)
    | decide +kernel
theorem test_task_is_placed : (goes (exec (.taskPlace 0) (placing [job] [task0]))).map (fun t =>
    (t.tasks.map (fun k => (k.index, k.slots)), t.launches.map (·.closed))) = some ([(0, [0, 1]), (1, [2, 3])], [true]) := by decide +kernel
theorem test_staging : (goes (exec (.footprintStagingComplete 1) staging)).map (fun t =>
    (memGet t.mem (lsLoc 0 0), (t.tile 0).tags.length, (t.bank ⟨0, 1, 0⟩).rg 2, (t.bank ⟨0, 1, 0⟩).pc)) = some (7, 32, 1, 0x200180) := by decide +kernel
theorem test_task_retires : (goes (exec (.taskRetire 1) (placing [job] [task0]))).map (fun t => t.tasks.length) = some 0 := by decide +kernel
theorem test_launch_completes : (goes (exec (.instanceComplete 0 1 7) (placing [{ job with closed := true }] []))).map (fun t =>
    (t.launches.length, t.dones.map (·.status))) = some (0, [1]) := by decide +kernel

/-- A launch of queue 9 at priority 5 that cannot be placed, and the task of a launch of queue 0 at a lower priority that holds its tile. -/
def stuckJob : Launch := { job with key := 2, lid := 8, queue := some 9, root := 9, prio := 5, quota := 8, next := 0, lastTile := none, stuckSince := some 0 }
def contested (q0 : Queue → Queue) : State :=
  { placing [job, stuckJob] [task0] with queues := [(0, q0 { en := true, st := 2, prio := 3 }), (9, { en := true, st := 2, prio := 5 })] }
def ladder1 : Ladder := ⟨1, 3, 0, some 2, false⟩
theorem contested_victim : Victim (contested id)
    (fun j => j ≠ stuckJob.root ∧ ((contested id).queue j).prio < stuckJob.prio ∧
      ∃ x ∈ (contested id).tasks, (contested id).rootOf x = some j ∧ inRect stuckJob.rect x.tile = true) 0 := by
  refine ⟨by decide, ⟨by decide, by decide +kernel, task0, by decide +kernel⟩, ?_⟩
  rintro j _ ⟨_, _, x, hx, hr, _⟩
  have h0 : (contested id).tasks = [task0] := rfl
  rw [h0, List.mem_singleton] at hx
  subst hx
  have h1 : (contested id).rootOf task0 = some 0 := by decide +kernel
  rw [h1] at hr
  cases hr
  exact .inr ⟨rfl, Nat.le_refl _⟩
theorem witness_WorkIsPreemptedAndWatched : LaunchAt (contested id) 1 stuckJob ∧ (contested id).stuck stuckJob = true ∧
    ((contested id).queue 0).ladder = none ∧ ((contested (fun q => { q with ladder := some ladder1 })).queue 0).ladder = some ladder1 ∧
    ladder1.since + max 1 20 * 10000 ≤ 200000 ∧ worker.launch? task0.launch = some job ∧
    { worker with tasks := [{ task0 with saving := true }] }.saveReady { task0 with saving := true } = true ∧
    (∀ j ∈ task0.slots, (worker.ctx 0 j).b0.wait = none) ∧ worker.seized 0 = false ∧ (worker.ctx 0 0).b0.quantLeft ≠ 0 ∧
    { worker with tasks := [{ task0 with killing := true }] }.killPending 1 = false ∧
    ((worker.setMe { worker.me with wait := some (.barrier 0 0 none) }).bank ⟨0, 0, 0⟩).wait = some (.barrier 0 0 none) ∧
    (Wait.barrier 0 0 none).watched = true ∧ worker.fe.twait ≠ 0 ∧ (contested id).starved stuckJob = false :=
  ⟨(by constructor <;> decide +kernel), by decide +kernel⟩
theorem test_ladder_starts : (goes (exec (.ladderStart 1) (contested id))).map (fun t => ((t.queue 0).ladder.map (·.rung), (t.queue 0).cause)) =
    some (some 1, 0x301) := by decide +kernel
theorem test_rung_three : (goes (exec (.rung3Reset 0) { contested (fun q => { q with ladder := some ladder1 }) with boot := { dtb := 800000 } })).map
    (fun t => ((t.queue 0).st, t.tasks.map (fun k => (k.killing, k.why)))) = some (6, [(true, 1)]) := by decide +kernel
theorem test_kill_quiet : (goes (exec (.killQuiet 1) { worker with tasks := [{ task0 with killing := true, why := 1 }] })).map (fun t =>
    (t.tasks.length, t.launches.map (fun l => (l.again, l.reset)), t.me.seeded)) = some (0, [([0], true)], false) := by decide +kernel
theorem test_park_watchdog : (goes (exec (.parkWatchdog 0 0 0) { worker.setMe { worker.me with wait := some (.barrier 0 0 none) } with
    boot := { dtb := 100000000 } })).map (fun t => (t.me.waitLogged, t.log.head)) = some (true, 1) := by decide +kernel

/-- A task to be saved into its tenant's mapped save area, and one that has been saved with an empty run. -/
def saveable : State :=
  { worker with
    launches := [{ job with gCount := 1, vCount := 0, odCount := 0 }], tasks := [{ task0 with saving := true }], tlb := [(520, 0, 8, 5, true, true)]
    tenants := [(0, { memb := BitVec.allOnes 512, save := 0x200000, saveSize := 0x40000 })] }
def savedTask : Saved := { task := task0, bytes := List.replicate 0x180 0x5A, tags := [1], mx := none, breads := [], frame := some (0, 64), quantum := false }
def restorable : State := { placing [{ job with closed := true, next := 2 }] [] with saved := [savedTask] }
/-- A launch whose tiles' slots are all taken, one of them by a parked thread, and a launch whose threads all wait. -/
def starving : State :=
  { contested id with tasks := [{ task0 with slots := [0, 1, 2, 3, 4, 5, 6, 7] }] }.setCtx 0 0 { b0 := { task := 1, seeded := true, wait := some (.barrier 0 0 none) } }
def stalling : State :=
  { worker.setMe { worker.me with wait := some (.barrier 0 0 none) } with
    launches := [{ job with stallSince := some 0 }], boot := { dtb := 1000000000 }, fe := { kill := true } }
theorem witness_saved_and_starved : saveable.saveReady { task0 with saving := true } = true ∧
    (saveable.framePlace 0 (saveable.frameBytes { job with gCount := 1, vCount := 0, odCount := 0 } { task0 with saving := true })) = some 0 ∧
    (let f := saveable.frame { job with gCount := 1, vCount := 0, odCount := 0 } { task0 with saving := true }; (f.1.writeFrame 0 0 f.2).isSome) = true ∧
    restorable.saved.find? restorable.restorable = some savedTask ∧ savedTask.bytes.length % 8 = 0 ∧ restorable.placeNext.isNone = true ∧
    starving.starved stuckJob = true ∧ starving.parkers stuckJob 0 = true ∧ stalling.stalled { job with stallSince := some 0 } = true := by decide +kernel
theorem test_task_is_saved : (goes (exec (.taskSaveComplete 1) saveable)).map (fun t => (t.tasks.length, t.saved.map (fun v => v.task.saving))) =
    some (0, [false]) := by decide +kernel
theorem test_task_is_restored : (goes (exec (.taskRestore 1) restorable)).map (fun t =>
    (t.tasks.map (·.slots), t.saved.length, memGet t.mem (lsLoc 0 0x17F), (t.tile 0).tags)) = some ([[0, 1]], 0, 0x5A, [1]) := by decide +kernel
theorem test_stall_kills : (goes (exec (.launchStallWatchdog 0) stalling)).map (fun t =>
    (t.launches.map (fun l => (l.stallLogged, l.faulted)), t.tasks.map (·.killing), t.log.head)) = some ([(true, true)], [true], 1) := by decide +kernel
theorem test_starvation : (goes (exec (.starvationWatchdog 1) { starving with boot := { dtb := 2000000 } })).map (fun t =>
    ((t.queue 0).ladder.map (·.rung), (t.queue 0).cause, (t.queue 0).st)) = some (some 2, 0x2C3, 2) := by decide +kernel

/-- A ladder at rung 2 whose victim's task has an unfinished save and waits at a barrier; a launch whose own queue's earlier task holds its tile. -/
def unsaved : State :=
  { contested (fun q => { q with ladder := some { ladder1 with rung := 2 } }) with tasks := [{ task0 with saving := true }], boot := { dtb := 800000 } }.setCtx 0 0
    { b0 := { task := 1, seeded := true, wait := some (.barrier 0 0 none) } }
theorem witness_rung_three_hits : unsaved.boot.dtb = 800000 ∧ ((unsaved.queue 0).ladder).map (·.rung) = some 2 ∧ unsaved.rootOf { task0 with saving := true } = some 0 ∧
    unsaved.contested { ladder1 with rung := 2 } 0 = true ∧ isLa 0 = true ∧ ladder1.since + max 1 (unsaved.queue 0).t2 * 10000 ≤ unsaved.boot.dtb ∧
    (unsaved.bank ⟨0, 0, 0⟩).task = 1 ∧ (unsaved.bank ⟨0, 0, 0⟩).wait = some (.barrier 0 0 none) := by decide +kernel
theorem test_rung_three_ends_waits : (goes (exec (.rung3Reset 0) unsaved)).map (fun t => (t.tasks.map (·.killing), (t.bank ⟨0, 0, 0⟩).wait, (t.queue 0).cause)) =
    some ([true], none, 0x303) := by decide +kernel
theorem test_rung_three_needs_a_task : (goes (exec (.rung3Reset 0) { unsaved with tasks := [task0] })).map (fun t => (t.queue 0).cause) = some 0 := by decide +kernel

/-- A bank with a pending result, a bank with an outstanding relaxed store and a load, and banks that wait. -/
def pendingResult : State := worker.setMe { worker.me with pend := [⟨.v 3, 0, 4, 1, []⟩], v := [(3, 9)] }
def outstanding : State := worker.setMe { worker.me with
  rlx := [⟨1, 4, true, false, 0x80, [⟨lsLoc 0 0x80, 8, 0x1122⟩], 0, 0, 0, none⟩, ⟨2, 4, false, false, 0x88, [⟨lsLoc 0 0x88, 8, 0⟩], 1, 6, 0, none⟩]
  wins := [⟨3, .g 5, none, none, 0, 1, false, []⟩] }
def parked (w : Wait) : State := worker.setMe { worker.me with wait := some w }
theorem witness_WhatIsUnderWayCompletes : (∃ p, pendingResult.me.pend = [p] ∧ p.frees = [] ∧ pendingResult.cycle < p.due) ∧ pendingResult.me.wait = none ∧
    { pendingResult with cycle := 4 }.me.pend = [⟨.v 3, 0, 4, 1, []⟩] ∧ Memory.wf outstanding.mem = true ∧
    (outstanding.me.rlx[0]?).map (·.write) = some true ∧ (outstanding.me.rlx[1]?).map (·.ext) = some 6 ∧
    ({ worker with tlb := [(0, 0, 8, 5, true, true)] }.check (worker.me.req 0) 0x200080 2 2).2 = .ok (.mem 0x140080) ∧
    worker.tlbFind 0 0 0x200000 = none ∧ isTrans 0x200000 = true ∧
    ({ worker with tenants := [(0, { replay := true, resend := [⟨.thread ⟨0, 0, 0⟩, 0, 0, 0⟩, ⟨.thread ⟨0, 1, 0⟩, 0, 0, 0⟩] })] }.tenant 0).replay = true ∧
    (parked (.fe (lsLoc 0 0x80) 1 5 0 false)).tag (lsLoc 0 0x80) = false ∧
    ((parked (.fe (lsLoc 0 0x80) 1 5 0 false)).waitTable (lsLoc 0 0x80)).length < 64 ∧
    (∀ x ∈ (parked (.resv (lsLoc 0 0x80) 3 5 0 9 0 false)).resvTable (lsLoc 0 0x80), x.loc ≠ lsLoc 0 0x80) := by
  and_intros <;> first
    | exact ⟨_, rfl, rfl, by decide +kernel⟩
    | decide +kernel
theorem witness_nobody_watches : Unwatched outstanding ∧ Unwatched (parked (.fe (lsLoc 0 0x80) 1 5 0 false)) :=
  ⟨unwatched_of _ (by decide +kernel), unwatched_of _ (by decide +kernel)⟩
/-- A table whose root's first entry points at a table with a 1 GiB leaf that permits writes (R262, R263). -/
def walked : State :=
  { worker with
    tenants := [(0, { ptEn := true, ptBase := 0x1000 })], mem := [(0x1000000, 0x01), (0x1000001, 0x10), (0x1000003, 0x01), (0x1001000, 0x07)] }
theorem test_page_walk : walked.walk 0 0x240008 = .leaf 0x240008 true false ∧ walked.tlbFind 0 0 0x240008 = none ∧
    (goes (exec (.pageWalkComplete 0 0 0x240008) walked)).map (fun t => t.tlbFind 0 0 0x240008) = some (some (9, true, false)) := by decide +kernel
/-- A page walk in progress, which a miss of its granule joins (R438). -/
def walking (ws : List (Nat × Nat)) : State := { worker with tenants := [(0, { ptEn := true, ptBase := 0x1000, memb := BitVec.allOnes 512 })], walks := ws }
theorem witness_walks : Intact (walking []) ∧ isTrans 0x200000 = true ∧ hasWindow 0 = true ∧ (walking []).tlbFind 0 0 0x200000 = none ∧
    (walking []).tlbFind (l2Tlb 0x200000) 0 0x200000 = none ∧ (0, 0x200000 / 2 ^ 18) ∉ (walking []).walks ∧ (walking []).walk 0 0x200000 = .absent ∧
    (0, 0x200000 / 2 ^ 18) ∈ (walking [(0, 8)]).walks ∧ Intact walked ∧ walked.walks = [] := by
  refine ⟨intact_of _ (by decide +kernel), ?_, ?_, ?_, ?_, ?_, ?_, ?_, intact_of _ (by decide +kernel), ?_⟩ <;> decide +kernel
/-- A load whose window has closed lands in its register; one that has two bad symbols is corrected. -/
def closed : State := worker.setMe { worker.me with
  rlx := [⟨2, 4, false, false, 0x88, [⟨lsLoc 0 0x88, 8, 0⟩], 1, 6, 0, none⟩], wins := [⟨0, .g 5, none, none, 0, 1, false, []⟩] }
theorem witness_closed_window : Unwatched closed ∧ closed.me.wins = [⟨0, .g 5, none, none, 0, 1, false, []⟩] ∧ (closed.me.rlx[0]?).map (·.win) = some 1 ∧
    closed.me.wait ≠ some .window ∧ closed.me.readyAt = 0 := ⟨unwatched_of _ (by decide +kernel), by decide +kernel⟩
theorem test_store_is_performed : (goes (exec (.accessPerformed 0 0 0 0) outstanding)).map (fun t => (t.mem, t.me.rlx.length)) =
    some ([(lsLoc 0 0x80, 0x22), (lsLoc 0 0x81, 0x11)], 1) := by decide +kernel
/-- A relaxed load of DRAM with its window. -/
def loadingDram : State := worker.setMe { worker.me with
  rlx := [⟨2, 4, false, false, 0x200088, [⟨0x140088, 8, 0⟩], 1, 6, 0, none⟩], wins := [⟨3, .g 5, none, none, 0, 1, false, []⟩] }
theorem witness_reads_meet_errors : Unwatched loadingDram ∧ isDramLoc 0x140088 = true ∧ loadingDram.me.wait ≠ some .window ∧
    (∀ k, (loadingDram.channel k).degr = false) ∧ (2 : Nat) ≤ 2 ∧ (2 : Nat) < 3 :=
  ⟨unwatched_of _ (by decide +kernel), by decide +kernel, by decide +kernel, fun _ => rfl, by decide, by decide⟩
theorem test_uncorrectable_read : (goes (exec (.accessPerformed 0 0 0 12) loadingDram)).map (fun t => (t.me.wins.map (·.err), t.poison)) =
    some ([some ⟨0x087, 0x200088, 0⟩], [0x5002]) := by decide +kernel
theorem test_swap_retried : (goes (exec (.waitListRetry 0 0 0) (parked (.resv (lsLoc 0 0x80) 3 5 0 9 0 false)))).map (fun t =>
    (memGet t.mem (lsLoc 0 0x80), t.me.wait)) = some (9, none) := by decide +kernel

/-! ### Encodings, steps and invariants -/

theorem witness_DecodeAndEncodeAgree : (Instr.qloop 3).wellFormed = true ∧ encode (.qloop 3) ≠ [] ∧ encode .powerOnReset = [] ∧
    (2 ≤ 2 * [(0xF0CA : BitVec 16)].length ∧ decode [0xF0CA] = .ok (.cAddi 3 (-2)) 2) ∧ (Instr.trap 47).wellFormed = true := by decide +kernel

/-- The thread of `worker`, which alone has the move, with an instruction in its fetch buffer; and a served queue with its words. -/
def alone (h : List (BitVec 16)) : State := { worker.setMe { worker.me with fbuf := h } with focus := some (.core 0 0) }
def served : State := { queueing (fun q => { q with ahead := [(0, 0x09400079), (4, 3)], block := some 0 }) with focus := some (.queue 9) }
theorem witness_StepsRunWhatIsDecoded : HasTheMove (alone [0xF0CA]) (alone [0xF0CA]) (.core 0 0) ∧ MayIssue (alone [0xF0CA]) ⟨0, 0, 0⟩ ∧
    wholeLen [(0xF0CA : BitVec 16)] ≠ none ∧ decode [0xF0CA] = .ok (.cAddi 3 (-2)) 2 ∧ HasTheMove served served (.queue 9) ∧ (served.queue 9).hold = none ∧
    (served.queue 9).skip = none ∧ served.runnable 9 = true ∧ tget 0 served.serving 1 = 10 ∧ [(0x09400079 : BitVec 32), 3].length = frameWords 0x09400079 ∧
    decodeQueue (words [0x09400079, 3]) = .ok (.qloop 3) 8 ∧
    HasTheMove { worker with focus := some (.event .powerGood) } { worker with focus := some (.event .powerGood) } (.event .powerGood) ∧
    isEvent .powerGood = true := by
  and_intros <;> first
    | exact .inl ⟨rfl, rfl⟩
    | (constructor <;> decide +kernel)
    | decide +kernel
theorem test_step_adds : (goes (step (alone [0xF0CA]))).map (fun t => (t.me.rg 3, t.me.pc, t.me.icount)) = some (0xFFFFFFFFFFFFFFFE, 0x200082, 1) := by
  decide +kernel
/-- The same with an empty buffer, from the mapped page that holds it. -/
def fetching : State := { alone [] with tlb := [(0, 0, 8, 5, false, true)], mem := [(0x140080, 0xCA), (0x140081, 0xF0)] }
theorem test_step_fetches : (goes (step fetching)).map (fun t => (t.me.rg 3, t.me.pc)) = some (0xFFFFFFFFFFFFFFFE, 0x200082) := by decide +kernel
theorem test_step_queue : (goes (step served)).map (fun t => ((t.queue 9).loops, (t.queue 9).ip)) = some ([⟨3, 8, 0⟩], 8) := by decide +kernel

theorem witness_EveryStepKeepsMemoryCanonical : Memory.wf memory.mem = true ∧ (∃ t, Moves { memory with focus := some (.event .powerGood) } t) :=
  ⟨memory_wf, _, rfl⟩
theorem witness_BootNeverGoesBack : (∃ t, exec .powerGood (booting 0) = .next t ∧ t.boot.phase = 1) ∧ Instr.powerGood ≠ .powerOnReset :=
  ⟨⟨_, rfl, by decide +kernel⟩, by decide⟩
theorem test_reset_wf : Memory.wf State.reset.mem = true := by decide

end Sys2Proof.Tests
end

/-! ## Every step keeps the memory in its canonical form

The memory is a list of bytes with rising addresses, none of them zero (`Memory.wf`). Only four operations of the machine write the
list: `State.storeBytes`, through which every unit stores, and `State.zeroRuns`, the power-on reset and the memory clear, which filter
it. So the proof has two layers, in the order of the model's files: the operations that leave `mem` as it is (`…_mem`), and those that
may store and keep the list canonical (`…_wf`). An instruction answers an `Out`, of which `CanonicalOut` says that the state in it,
where there is one, is canonical; a gate with a continuation keeps what its continuation keeps. `exec_wf` and `step_wf` are assembled
from these. -/

namespace Sys2Proof.Machine

/-! ### Operations that leave the memory as it is -/

theorem foldl_mem {α : Type} {f : State → α → State} (hf : ∀ s a, (f s a).mem = s.mem) (l : List α) (s : State) :
    (l.foldl f s).mem = s.mem :=
  List.foldlRecOn l f (motive := fun t => t.mem = s.mem) rfl fun t ht a _ => (hf t a).trans ht

theorem foldl_fst_mem {α β : Type} {f : State × β → α → State × β} (hf : ∀ p a, (f p a).1.mem = p.1.mem) (l : List α) (p : State × β) :
    (l.foldl f p).1.mem = p.1.mem :=
  List.foldlRecOn l f (motive := fun q => q.1.mem = p.1.mem) rfl fun q hq a _ => (hf q a).trans hq

section Frames
variable (s : State)

/-! #### Machine/Ops -/

@[simp] theorem State.wrote_mem (l) : (s.wrote l).mem = s.mem := by
  unfold State.wrote
  grind

@[simp] theorem State.countRec_mem (l drop) : (s.countRec l drop).mem = s.mem := rfl

@[simp] theorem State.record_mem (r) : (s.record r).mem = s.mem := by
  unfold State.record
  grind [State.countRec_mem, State.setTenant_mem]

@[simp] theorem State.chanRecord_mem (c sub cause sev detail) : (s.chanRecord c sub cause sev detail).mem = s.mem := rfl

@[simp] theorem State.corrected_mem (line) : (s.corrected line).mem = s.mem := rfl

@[simp] theorem State.mark_mem (m) : (s.mark m).mem = s.mem := by
  unfold State.mark
  grind

@[simp] theorem State.plant_mem (m errs) : (s.plant m errs).mem = s.mem := by
  unfold State.plant
  grind

@[simp] theorem State.meetMark_mem (m) : (s.meetMark m).mem = s.mem := by
  unfold State.meetMark
  grind [State.corrected_mem, State.mark_mem, State.record_mem]

@[simp] theorem State.meet_mem (loc n) : (s.meet loc n).mem = s.mem := by
  simp [State.meet, foldl_mem]

@[simp] theorem State.meetAll_mem (l) : (s.meetAll l).mem = s.mem := by
  simp [State.meetAll, foldl_mem]

@[simp] theorem State.recordPoison_mem (r l) : (s.recordPoison r l).mem = s.mem := by
  unfold State.recordPoison
  grind [State.record_mem]

@[simp] theorem State.answer_mem (fn addr x) : (s.answer fn addr x).mem = s.mem := rfl

@[simp] theorem State.land_mem (r d x) : (s.land r d x).mem = s.mem := by
  unfold State.land
  grind [State.send_mem, State.setBank_mem]

@[simp] theorem State.backCredit_mem (r d) : (s.backCredit r d).mem = s.mem := by
  unfold State.backCredit
  grind [State.setBank_mem]

@[simp] theorem State.wgLat_mem (n lat x) : (s.wgLat n lat x).mem = s.mem := by
  unfold State.wgLat
  grind [State.setMe_mem]

@[simp] theorem State.killSeizures_mem (ids) : (s.killSeizures ids).mem = s.mem := by
  unfold State.killSeizures
  exact foldl_mem (fun s a => by grind [State.send_mem]) _ _

@[simp] theorem State.abandonSaves_mem (k) : (s.abandonSaves k).mem = s.mem := rfl

@[simp] theorem State.unsave_mem (k) : (s.unsave k).mem = s.mem := by
  unfold State.unsave
  grind [State.setQueue_mem]

@[simp] theorem State.endLadder_mem (k) : (s.endLadder k).mem = s.mem := by
  simp [State.endLadder]

@[simp] theorem State.endLadders_mem (key) : (s.endLadders key).mem = s.mem := by
  simp [State.endLadders, foldl_mem]

@[simp] theorem State.disarm_mem (ids) : (s.disarm ids).mem = s.mem := rfl

@[simp] theorem State.dropWaits_mem (ids) : (s.dropWaits ids).mem = s.mem := rfl

@[simp] theorem State.killLaunch_mem (k why) : (s.killLaunch k why).mem = s.mem := by
  unfold State.killLaunch
  grind [State.disarm_mem, State.dropWaits_mem, State.endLadders_mem, State.killSeizures_mem, State.setLaunch_mem]

@[simp] theorem State.releaseSeizure_mem (tile : Nat) : (s.releaseSeizure tile).mem = s.mem := by
  unfold State.releaseSeizure
  rw [foldl_mem (fun _ _ => State.setCtx_mem ..)]
  split <;> simp

@[simp] theorem State.endActivation_mem (tile slot) : (s.endActivation tile slot).mem = s.mem := rfl

@[simp] theorem State.fatalTrap_mem (r i dfr) : (s.fatalTrap r i dfr).mem = s.mem := by
  unfold State.fatalTrap
  grind [State.endActivation_mem, State.killLaunch_mem, State.record_mem, State.releaseSeizure_mem, State.setBank_mem]

@[simp] theorem State.enterTrap_mem (r i pc dfr win) : (s.enterTrap r i pc dfr win).mem = s.mem := by
  unfold State.enterTrap
  grind [State.endActivation_mem, State.fatalTrap_mem, State.record_mem, State.setBank_mem, State.setCtx_mem]

@[simp] theorem State.landUnder_mem (r d x) : (s.landUnder r d x).mem = s.mem := by
  unfold State.landUnder
  grind [State.land_mem, State.setBank_mem]

@[simp] theorem bring_mem (r : BankRef) (seen : List Dest) (ws : List Window) : (bring r seen ws s).mem = s.mem := by
  induction ws generalizing seen s with
  | nil => rfl
  | cons w ws ih => unfold bring; grind [State.land_mem, State.landUnder_mem, State.setBank_mem]

@[simp] theorem State.writeBack_mem (r) : (s.writeBack r).mem = s.mem := by
  unfold State.writeBack
  grind [State.setBank_mem, bring_mem]

@[simp] theorem undo_mem (r : BankRef) (ws : List Window) : (undo r ws s).mem = s.mem := by
  induction ws generalizing s with
  | nil => rfl
  | cons w ws ih => unfold undo; grind [State.backCredit_mem, State.setBank_mem]

@[simp] theorem State.closeDue_mem (r) : (s.closeDue r).mem = s.mem := by
  unfold State.closeDue
  grind [State.enterTrap_mem, State.setBank_mem, State.writeBack_mem, undo_mem]

@[simp] theorem State.takeTrap_mem (r i pc) : (s.takeTrap r i pc).mem = s.mem := by
  unfold State.takeTrap
  grind [State.enterTrap_mem, State.setBank_mem, State.writeBack_mem, undo_mem]

@[simp] theorem State.leashReply_mem (r) : (s.leashReply r).mem = s.mem := by
  unfold State.leashReply
  grind [State.send_mem, State.setTile_mem]

@[simp] theorem State.issued_mem : s.issued.mem = s.mem := by
  simp [State.issued]

@[simp] theorem State.settle_mem (r) : (s.settle r).mem = s.mem := by
  simp [State.settle]

@[simp] theorem State.retire_mem : s.retire.mem = s.mem := by
  simp [State.retire]

@[simp] theorem State.park_mem (w) : (s.park w).mem = s.mem := by
  simp [State.park]

@[simp] theorem State.hold_mem (w) : (s.hold w).mem = s.mem := rfl

@[simp] theorem State.unpark_mem (r) : (s.unpark r).mem = s.mem := rfl

@[simp] theorem State.wake_mem (r d x) : (s.wake r d x).mem = s.mem := by
  unfold State.wake
  grind [State.land_mem, State.landUnder_mem, State.settle_mem, State.unpark_mem]

@[simp] theorem State.rouse_mem (r w) : (s.rouse r w).mem = s.mem := by
  unfold State.rouse
  grind [State.unpark_mem]

@[simp] theorem State.jump_mem (target) : (s.jump target).mem = s.mem := by
  simp [State.jump]

@[simp] theorem State.openWindow_mem (k d x err fl fr) : (s.openWindow k d x err fl fr).mem = s.mem := rfl

@[simp] theorem State.finishLong_mem (k d x err fl fr) : (s.finishLong k d x err fl fr).mem = s.mem := by
  simp [State.finishLong]

/-! #### Machine/Access -/

@[simp] theorem State.walkReads_mem (t' va) : (s.walkReads t' va).mem = s.mem := by
  simp [State.walkReads]

@[simp] theorem State.beginWalk_mem (t' va) : (s.beginWalk t' va).mem = s.mem := rfl

@[simp] theorem State.tlbFill_mem (who t' va pa w x) : (s.tlbFill who t' va pa w x).mem = s.mem := rfl

@[simp] theorem State.endWalk_mem (t' va) : (s.endWalk t' va).mem = s.mem := rfl

@[simp] theorem State.translate_mem (q va kind) : (s.translate q va kind).1.mem = s.mem := by
  unfold State.translate
  grind [State.beginWalk_mem, State.tlbFill_mem, State.walkReads_mem]

@[simp] theorem State.parkRequest_mem (t' who va kind lid) : (s.parkRequest t' who va kind lid).mem = s.mem := by
  unfold State.parkRequest
  grind [State.msi_mem, State.record_mem, State.setTenant_mem]

@[simp] theorem State.check_mem (q va n kind) : (s.check q va n kind).1.mem = s.mem := by
  unfold State.check
  grind [State.translate_mem]

@[simp] theorem State.winWrite_mem (tile off n v) : (s.winWrite tile off n v).mem = s.mem := by
  rw [State.winWrite]
  cases windowPart tile off with
  | scalar =>
    dsimp only
    split
    · split <;> rfl
    · split
      · rfl
      · split <;> rfl
  | vector =>
    dsimp only
    split
    · rfl
    · split
      · rfl
      · split <;> rfl
  | control =>
    dsimp only
    split <;> rfl
  | _ => rfl

@[simp] theorem State.traceAt_mem (loc n kind src slot bank rank remote) :
    (s.traceAt loc n kind src slot bank rank remote).mem = s.mem := by
  unfold State.traceAt
  grind [State.setTile_mem]

@[simp] theorem State.meetHalves_mem (n loc) : (s.meetHalves n loc).mem = s.mem := by
  unfold State.meetHalves
  grind [State.meet_mem]

@[simp] theorem State.fetchUnit_mem (r va) : (s.fetchUnit r va).1.mem = s.mem := by
  have hc := State.check_mem s ((s.bank r).req (r.tile % 512)) va.toNat 2 2
  simp only [State.fetchUnit]
  split
  · split <;> simp_all
  · simp_all

@[simp] theorem State.frameWord_mem (r va) : (s.frameWord r va).1.mem = s.mem := by
  unfold State.frameWord
  grind [State.fetchUnit_mem]

@[simp] theorem State.loadBody_mem (r : BankRef) (n : Nat) (va : Va) : (s.loadBody r n va).1.mem = s.mem := by
  induction n generalizing s va with
  | zero => rfl
  | succ n ih => unfold State.loadBody; grind [State.frameWord_mem]

/-! #### Machine/Memory -/

@[simp] theorem State.seat_mem (r b) : (s.seat r b).mem = s.mem := rfl

@[simp] theorem State.poisonErr_mem (r va parts) : (s.poisonErr r va parts).1.mem = s.mem := by
  unfold State.poisonErr
  grind [State.meetAll_mem, State.record_mem]

@[simp] theorem State.resultReady_mem (r id x err fl) : (s.resultReady r id x err fl).mem = s.mem := by
  unfold State.resultReady
  grind [State.closeDue_mem, State.setBank_mem, State.takeTrap_mem, State.unpark_mem, State.writeBack_mem]

@[simp] theorem State.wakeErr_mem (r e) : (s.wakeErr r e).mem = s.mem := by
  simp [State.wakeErr]

@[simp] theorem State.traceThread_mem (r loc n kind) : (s.traceThread r loc n kind).mem = s.mem := by
  simp [State.traceThread]

@[simp] theorem traceLoads_mem (r : BankRef) (ps : List Part) : (traceLoads r ps s).mem = s.mem := by
  induction ps generalizing s with
  | nil => rfl
  | cons p ps ih => exact (ih _).trans (State.traceThread_mem ..)

@[simp] theorem State.beginActivation_mem (tile slot p late) : (s.beginActivation tile slot p late).mem = s.mem := by
  unfold State.beginActivation
  grind [State.seat_mem, State.setCtx_mem, State.setTag_mem]

@[simp] theorem State.release_mem (tile who reg x e) : (s.release tile who reg x e).mem = s.mem := by
  unfold State.release
  grind [State.setTile_mem, State.wake_mem, State.wakeErr_mem]

@[simp] theorem State.countOverrun_mem (loc) : (s.countOverrun loc).mem = s.mem := by
  unfold State.countOverrun
  grind [State.setCtx_mem]

@[simp] theorem State.copyWake_mem (r) : (s.copyWake r).mem = s.mem := by
  unfold State.copyWake
  grind [State.poisonErr_mem, State.traceThread_mem, State.wake_mem, State.wakeErr_mem]

@[simp] theorem wakeCopies_mem (loc : Nat) (cs : List (Nat × Ctx)) (s : State) : (wakeCopies loc cs s).mem = s.mem := by
  induction cs generalizing s with
  | nil => rfl
  | cons c cs ih => unfold wakeCopies; grind [State.copyWake_mem]

/-! #### Machine/Pages -/

@[simp] theorem State.poolTr_mem (p va kind) : (s.poolTr p va kind).1.mem = s.mem := by
  unfold State.poolTr
  grind [State.translate_mem]

@[simp] theorem State.poolData_mem (p va n kind) : (s.poolData p va n kind).1.mem = s.mem := by
  unfold State.poolData
  grind [State.meet_mem, State.poolTr_mem]

@[simp] theorem State.freePage_mem (p k) : (s.freePage p k).mem = s.mem := rfl

@[simp] theorem State.pinFault_mem (p k) : (s.pinFault p k).mem = s.mem := rfl

/-! #### Machine/Operands -/

@[simp] theorem State.takeEntries_mem (srcs) : (s.takeEntries srcs).1.mem = s.mem := rfl

@[simp] theorem State.useCredit_mem (d) : (s.useCredit d).mem = s.mem := by
  unfold State.useCredit
  grind [State.setMe_mem]

/-! #### Machine/Mem -/

@[simp] theorem State.pushAccess_mem (scope write va ps win ext base) : (s.pushAccess scope write va ps win ext base).mem = s.mem := rfl

@[simp] theorem State.feErr_mem (r minor loc va) : (s.feErr r minor loc va).1.mem = s.mem := by
  unfold State.feErr
  grind [State.poisonErr_mem]

/-! #### Machine/Launch -/

@[simp] theorem State.runLocs_mem (q : Req) (kind f va n : Nat) (acc : List (Nat × Nat)) :
    (s.runLocs q kind f va n acc).1.mem = s.mem := by
  induction f generalizing s va n acc with
  | zero => rfl
  | succ f ih => unfold State.runLocs; grind [State.check_mem]

@[simp] theorem State.feRead_mem (t' va n) : (s.feRead t' va n).1.mem = s.mem := by
  unfold State.feRead
  grind [State.meetAll_mem, State.recordPoison_mem, State.runLocs_mem]

@[simp] theorem State.readWork_mem (t va) : (s.readWork t va).1.mem = s.mem := by
  unfold State.readWork
  repeat' split
  all_goals grind [State.feRead_mem]

@[simp] theorem State.setInst_mem (x) : (s.setInst x).mem = s.mem := rfl

@[simp] theorem State.openInst_mem (t' kind id parent) : (s.openInst t' kind id parent).mem = s.mem := by
  unfold State.openInst
  grind

@[simp] theorem State.accept_mem (va t' queue root cap) : (s.accept va t' queue root cap).1.mem = s.mem := by
  unfold State.accept
  grind [State.feRead_mem, State.openInst_mem, State.readWork_mem, State.setTenant_mem]

@[simp] theorem State.recordKills_mem (l cause) : (s.recordKills l cause).mem = s.mem := by
  simp [State.recordKills, foldl_mem]

@[simp] theorem State.cancelLaunch_mem (l cause) : (s.cancelLaunch l cause).mem = s.mem := by
  simp [State.cancelLaunch]

@[simp] theorem State.cancelInsts_mem (t' kind id) : (s.cancelInsts t' kind id).mem = s.mem := rfl

theorem State.cancel_mem {t : State} {tn kind id cause} (e : s.cancel tn kind id cause = some t) : t.mem = s.mem := by
  unfold State.cancel at e
  split at e
  · obtain ⟨l, _, rfl⟩ := Option.map_eq_some_iff.mp e
    exact State.cancelLaunch_mem s l cause
  · obtain ⟨_, _, rfl⟩ := Option.map_eq_some_iff.mp e
    rw [foldl_mem (fun s l => State.cancelLaunch_mem s l cause), State.cancelInsts_mem]

@[simp] theorem State.seedLane_mem (l t' lane slot pc g5) : (s.seedLane l t' lane slot pc g5).mem = s.mem := rfl

@[simp] theorem seedLanes_mem (l : Launch) (t : Task) (lane : Nat) (ks : List Nat) : (seedLanes l t lane ks s).mem = s.mem := by
  induction ks generalizing lane s with
  | nil => rfl
  | cons k ks ih => exact (ih ..).trans (State.seedLane_mem ..)

/-! #### Machine/Sys -/

@[simp] theorem State.refuse_mem (r i) : (s.refuse r i).mem = s.mem := by
  simp [State.refuse]

@[simp] theorem State.attestBuffer_mem (r va) : (s.attestBuffer r va).1.mem = s.mem := by
  unfold State.attestBuffer
  grind [State.runLocs_mem]

/-! #### Machine/Atomic -/

@[simp] theorem State.setResv_mem (loc x) : (s.setResv loc x).mem = s.mem := by
  unfold State.setResv
  grind [State.setTile_mem]

@[simp] theorem State.setWaits_mem (loc x) : (s.setWaits loc x).mem = s.mem := by
  unfold State.setWaits
  grind [State.setTile_mem]

@[simp] theorem State.wordErr_mem (r loc) : (s.wordErr r loc).1.mem = s.mem := by
  simp [State.wordErr]

@[simp] theorem State.grant_mem (r loc) : (s.grant r loc).mem = s.mem := by
  simp [State.grant]

@[simp] theorem State.grantWake_mem (r loc reg) : (s.grantWake r loc reg).mem = s.mem := by
  unfold State.grantWake
  grind [State.grant_mem, State.wake_mem, State.wakeErr_mem, State.wordErr_mem]

@[simp] theorem State.withdraw_mem (r) : (s.withdraw r).mem = s.mem := rfl

@[simp] theorem State.queueResv_mem (loc minor reg exp val win room) : (s.queueResv loc minor reg exp val win room).mem = s.mem := by
  unfold State.queueResv
  grind [State.park_mem, State.setWaits_mem]

@[simp] theorem State.allowWait_mem (r loc w) : (s.allowWait r loc w).mem = s.mem := by
  simp [State.allowWait]

/-! #### Machine/Thread -/

@[simp] theorem State.reseed_mem (r b) : (s.reseed r b).mem = s.mem := rfl

/-! #### Machine/Copy -/

@[simp] theorem farTargets_mem (q : Req) (d : CopyDesc) (l : List (Option (List Int))) (s : State) :
    (farTargets q d l s).1.mem = s.mem := by
  induction l generalizing s with
  | nil => rfl
  | cons x l ih => unfold farTargets; grind [State.check_mem]

@[simp] theorem readGranule_mem (q : Req) (d : CopyDesc) (l : List (Nat × List Int)) (s : State) : (readGranule q d l s).1.mem = s.mem := by
  induction l generalizing s with
  | nil => rfl
  | cons x l ih => unfold readGranule; grind [State.check_mem, State.meet_mem]

@[simp] theorem State.traceGranule_mem (src t') : (s.traceGranule src t').mem = s.mem := by
  unfold State.traceGranule
  grind [State.traceAt_mem]

@[simp] theorem State.setCopy_mem (tile c) : (s.setCopy tile c).mem = s.mem := rfl

@[simp] theorem State.chunkFails_mem (tile chunk c tenant f) : (s.chunkFails tile chunk c tenant f).mem = s.mem := by
  unfold State.chunkFails
  grind [State.parkRequest_mem, State.record_mem, State.setCopy_mem]

/-! #### Machine/Matrix -/

@[simp] theorem State.claim_mem : s.claim.mem = s.mem := by
  unfold State.claim
  grind [State.setTile_mem]

@[simp] theorem hostRead_mem (base : Nat) (l : List (Nat × Nat × Nat)) (s : State) : (hostRead base l s).1.mem = s.mem := by
  induction l generalizing s with
  | nil => rfl
  | cons p l ih => unfold hostRead; grind [State.traceAt_mem]

@[simp] theorem State.hostAnswer_mem (fn base parts) : (s.hostAnswer fn base parts).mem = s.mem := by
  unfold State.hostAnswer
  grind [State.answer_mem, State.drawn_mem, State.meetAll_mem, State.record_mem, hostRead_mem]

@[simp] theorem State.mwaitDone_mem (r) : (s.mwaitDone r).mem = s.mem := by
  unfold State.mwaitDone
  grind [State.refuse_mem, State.setBank_mem, State.wake_mem]

@[simp] theorem State.setLdt_mem (r c) : (s.setLdt r c).mem = s.mem := by
  unfold State.setLdt
  grind [State.setBank_mem, State.setTile_mem]

@[simp] theorem State.enterDue_mem (tile : Nat) (leash : Bool) (c : MxCmd) (f : Nat) :
    (s.enterDue tile leash c f).mem = s.mem := by
  induction f generalizing s c with
  | zero => rfl
  | succ f ih => unfold State.enterDue; grind [State.setTile_mem]

@[simp] theorem State.headReads_mem (tile leash) : (s.headReads tile leash).mem = s.mem := by
  unfold State.headReads
  grind [State.setTile_mem]

@[simp] theorem State.mxCycle_mem (tile) : (s.mxCycle tile).mem = s.mem := by
  simp only [State.mxCycle]
  rw [foldl_mem, State.headReads_mem, foldl_mem, State.headReads_mem]
  all_goals grind [State.enterDue_mem, State.setTile_mem]

@[simp] theorem State.mxTick_mem : s.mxTick.mem = s.mem := by
  simp [State.mxTick, foldl_mem]

@[simp] theorem State.mxEffect_mem (tile leash c) : (s.mxEffect tile leash c).mem = s.mem := by
  unfold State.mxEffect
  grind [State.resultReady_mem, State.setTile_mem]

/-! #### Machine/Queue -/

@[simp] theorem State.qcheck_mem (q va kind) : (s.qcheck q va kind).1.mem = s.mem := by
  unfold State.qcheck
  grind [State.check_mem, State.translate_mem]

@[simp] theorem State.queueData_mem (q va n t') : (s.queueData q va n t').1.mem = s.mem := by
  unfold State.queueData
  grind [State.meet_mem, State.record_mem]

@[simp] theorem State.qread_mem (q va) : (s.qread q va).1.mem = s.mem := by
  unfold State.qread
  grind [State.qcheck_mem, State.queueData_mem]

@[simp] theorem State.readWord_mem (q o) : (s.readWord q o).1.mem = s.mem := by
  unfold State.readWord
  grind [State.check_mem, State.queueData_mem]

@[simp] theorem readBlock_mem (q : Queue) (l : List Nat) : (readBlock q l s).1.mem = s.mem := by
  induction l generalizing s with
  | nil => rfl
  | cons o l ih => unfold readBlock; grind [State.readWord_mem]

@[simp] theorem State.enterBlock_mem (k) : (s.enterBlock k).mem = s.mem := by
  simp [State.enterBlock]

@[simp] theorem State.passBlock_mem (k) : (s.passBlock k).mem = s.mem := by
  unfold State.passBlock
  grind [State.setQueue_mem, readBlock_mem]

@[simp] theorem State.streamWord_mem (k o) : (s.streamWord k o).1.mem = s.mem := by
  unfold State.streamWord
  grind [State.readWord_mem]

@[simp] theorem State.streamWords_mem (k n o : Nat) : (s.streamWords k n o).1.mem = s.mem := by
  induction n generalizing s o with
  | zero => rfl
  | succ n ih => unfold State.streamWords; grind [State.streamWord_mem]

@[simp] theorem State.selectQueue_mem (e) : (s.selectQueue e).mem = s.mem := by
  unfold State.selectQueue
  grind [State.setQueue_mem]

@[simp] theorem State.unserve_mem (k) : (s.unserve k).mem = s.mem := by
  unfold State.unserve
  grind

@[simp] theorem State.settleQueue_mem (k) : (s.settleQueue k).mem = s.mem := rfl

@[simp] theorem State.completeQ_mem (k f) : (s.completeQ k f).mem = s.mem := by
  simp [State.completeQ]

@[simp] theorem State.queueFault_mem (k cause pc lvl) : (s.queueFault k cause pc lvl).mem = s.mem := by
  unfold State.queueFault
  grind [State.msi_mem, State.record_mem, State.setQueue_mem, State.unserve_mem]

@[simp] theorem State.skipOne_mem (k) : (s.skipOne k).mem = s.mem := by
  have hw := State.streamWord_mem s k (s.queue k).ip
  unfold State.skipOne
  dsimp only
  split
  · rfl
  · split
    · simp
    · split
      · next e => simpa [e] using hw
      · next e =>
        rw [e] at hw
        dsimp only at hw ⊢
        repeat' split
        all_goals simpa using hw

@[simp] theorem State.pollQueue_mem (k) : (s.pollQueue k).mem = s.mem := by
  unfold State.pollQueue unitGate
  grind [State.qread_mem, State.queueFault_mem, State.completeQ_mem, State.setQueue_mem]

@[simp] theorem State.pollEngine_mem (e) : (s.pollEngine e).mem = s.mem := by
  simp [State.pollEngine, foldl_mem]

@[simp] theorem State.lastPoll_mem (k cond va x len) : (s.lastPoll k cond va x len).mem = s.mem := by
  unfold State.lastPoll
  grind [State.completeQ_mem, State.qread_mem, State.queueFault_mem]

@[simp] theorem State.microPoll_mem (old k) : (s.microPoll old k).mem = s.mem := by
  unfold State.microPoll
  grind [State.lastPoll_mem, State.pollQueue_mem]

@[simp] theorem State.pollAll_mem (old) : (s.pollAll old).mem = s.mem := by
  simp [State.pollAll, foldl_mem]

@[simp] theorem State.postSignal_mem (k g) : (s.postSignal k g).mem = s.mem := rfl

@[simp] theorem State.startReplay_mem (t') : (s.startReplay t').mem = s.mem := rfl

/-! #### Machine/Place -/

@[simp] theorem State.placeTask_mem (l index tile slots base) : (s.placeTask l index tile slots base).mem = s.mem := by
  unfold State.placeTask
  grind [State.endLadders_mem, State.setLaunch_mem, State.setTile_mem]

@[simp] theorem State.traceBulk_mem (loc n src) : (s.traceBulk loc n src).mem = s.mem := by
  simp [State.traceBulk, foldl_mem]

@[simp] theorem State.failStaging_mem (l t' va) : (s.failStaging l t' va).mem = s.mem := by
  simp [State.failStaging]

@[simp] theorem State.clearMatrix_mem (t') : (s.clearMatrix t').mem = s.mem := by
  unfold State.clearMatrix
  grind [State.setTile_mem]

@[simp] theorem State.digestFails_mem (l va) : (s.digestFails l va).mem = s.mem := by
  simp [State.digestFails]

@[simp] theorem State.digestSnaps_mem (key n : Nat) : (State.digestSnaps key n s).mem = s.mem := by
  induction n generalizing s with
  | zero => rfl
  | succ n ih =>
    unfold State.digestSnaps
    grind [State.runLocs_mem, State.meetAll_mem, State.recordPoison_mem, State.digestFails_mem, State.setLaunch_mem, State.parkRequest_mem]

@[simp] theorem State.digestOne_mem (n) : (s.digestOne n).mem = s.mem := by
  unfold State.digestOne
  grind [State.digestSnaps_mem]

@[simp] theorem State.peerMsi_mem : s.peerMsi.mem = s.mem := by
  unfold State.peerMsi
  grind [State.msi_mem]

@[simp] theorem State.peerRecord_mem (cause sev) : (s.peerRecord cause sev).mem = s.mem := by
  unfold State.peerRecord
  grind [State.peerMsi_mem, State.record_mem]

@[simp] theorem State.peerSend_mem (ver type phase pidx body) : (s.peerSend ver type phase pidx body).mem = s.mem := rfl

@[simp] theorem State.comparePeriods_mem : s.comparePeriods.mem = s.mem := by
  unfold State.comparePeriods
  grind [State.peerRecord_mem]

@[simp] theorem State.closePeriod_mem (phase digests) : (s.closePeriod phase digests).mem = s.mem := by
  unfold State.closePeriod
  grind [State.comparePeriods_mem, State.peerRecord_mem, State.peerSend_mem]

/-! #### Machine/Sync -/

@[simp] theorem State.setWacc_mem (x) : (s.setWacc x).mem = s.mem := rfl

@[simp] theorem State.redCheck_mem (x) : (s.redCheck x).1.mem = s.mem := by
  simp [State.redCheck]

@[simp] theorem State.wacAct_mem (r minor pa) : (s.wacAct r minor pa).1.mem = s.mem := by
  unfold State.wacAct
  grind

@[simp] theorem State.wacDone_mem (r) : (s.wacDone r).mem = s.mem := by
  unfold State.wacDone
  grind [State.resultReady_mem, State.wacAct_mem, State.wake_mem]

@[simp] theorem State.endRed_mem (tile x) : (s.endRed tile x).mem = s.mem := by
  simp [State.endRed]

@[simp] theorem State.dropRed_mem (tile x cause) : (s.dropRed tile x cause).mem = s.mem := by
  simp [State.dropRed]

@[simp] theorem State.addWide_mem (tile x pa) : (s.addWide tile x pa).mem = s.mem := by
  unfold State.addWide
  grind [State.dropRed_mem, State.endRed_mem, State.setWacc_mem]

@[simp] theorem State.setBar_mem (tile slot x) : (s.setBar tile slot x).mem = s.mem := rfl

@[simp] theorem State.discardArrival_mem (tile launch) : (s.discardArrival tile launch).mem = s.mem := by
  simp [State.discardArrival]

@[simp] theorem State.sendArrival_mem (tile slot task q) : (s.sendArrival tile slot task q).mem = s.mem := rfl

@[simp] theorem State.barWait_mem (r slot v reg) : (s.barWait r slot v reg).mem = s.mem := by
  unfold State.barWait
  grind [State.setBank_mem, State.wake_mem]

@[simp] theorem State.arrive_mem (r minor slot reg) : (s.arrive r minor slot reg).mem = s.mem := by
  unfold State.arrive
  grind [State.barWait_mem, State.sendArrival_mem, State.setBank_mem, State.setBar_mem, State.wake_mem]

@[simp] theorem State.sendUp_mem (r x) : (s.sendUp r x).mem = s.mem := rfl

@[simp] theorem State.finishRsrv_mem (r reg own) : (s.finishRsrv r reg own).mem = s.mem := by
  simp [State.finishRsrv]

@[simp] theorem State.serveTree_mem (r reg a) : (s.serveTree r reg a).mem = s.mem := by
  unfold State.serveTree
  grind [State.finishRsrv_mem, State.refuse_mem, State.sendUp_mem, State.setBank_mem]

/-! #### Machine/Preempt -/

@[simp] theorem State.markRung_mem (k rung cause) : (s.markRung k rung cause).mem = s.mem := rfl

@[simp] theorem State.startLadder_mem (k deepest launch) : (s.startLadder k deepest launch).mem = s.mem := rfl

@[simp] theorem State.applyRung2_mem (k d) : (s.applyRung2 k d).mem = s.mem := by
  simp [State.applyRung2]

@[simp] theorem State.resetTask_mem (t') : (s.resetTask t').mem = s.mem := by
  simp [State.resetTask]

@[simp] theorem State.moveRefs_mem (f id) : (s.moveRefs f id).mem = s.mem := rfl

@[simp] theorem State.putAway_mem (t') : (s.putAway t').mem = s.mem := by
  unfold State.putAway
  exact foldl_mem (fun s a => by grind [State.moveRefs_mem, State.setCtx_mem]) _ _

@[simp] theorem State.takeBack_mem (t' quantum) : (s.takeBack t' quantum).mem = s.mem := by
  simp [State.takeBack, foldl_mem]

@[simp] theorem State.trimTask_mem (l t') : (s.trimTask l t').mem = s.mem := by
  unfold State.trimTask
  exact foldl_mem (fun s a => by grind [State.setCtx_mem]) _ _

@[simp] theorem State.recall_mem (t') : (s.recall t').mem = s.mem := rfl

@[simp] theorem State.withFree_mem (known n) : (s.withFree known n).1.mem = s.mem := rfl

@[simp] theorem State.frame_mem (l t) : (s.frame l t).1.mem = s.mem := by
  simp only [State.frame, State.withFree_mem]
  rw [foldl_fst_mem (fun _ _ => by simp), foldl_fst_mem (fun _ _ => by simp), State.withFree_mem]

@[simp] theorem State.saveTask_mem (l t frame) : (s.saveTask l t frame).mem = s.mem := by
  simp only [State.saveTask, State.setTile_mem, State.putAway_mem]
  rw [foldl_mem fun _ _ => by simp, State.recall_mem]

@[simp] theorem State.saveShort_mem (t') : (s.saveShort t').mem = s.mem := by
  unfold State.saveShort
  grind [State.markRung_mem, State.resetTask_mem, State.setTask_mem]

@[simp] theorem State.reloadQuantum_mem (t') : (s.reloadQuantum t').mem = s.mem := by
  unfold State.reloadQuantum
  exact foldl_mem (fun s a => by grind [State.setCtx_mem]) _ _

@[simp] theorem State.quantumSwitch_mem (l t') : (s.quantumSwitch l t').mem = s.mem := by
  unfold State.quantumSwitch
  grind [State.placeTask_mem, State.putAway_mem, State.reloadQuantum_mem, State.setTask_mem, State.trimTask_mem]

@[simp] theorem State.refillMx_mem (tile m) : (s.refillMx tile m).mem = s.mem := by
  unfold State.refillMx
  grind [State.setTile_mem]

@[simp] theorem State.freeBars_mem (tile launch) : (s.freeBars tile launch).mem = s.mem := by
  unfold State.freeBars
  grind [State.setTile_mem]

@[simp] theorem State.endKill_mem (t') : (s.endKill t').mem = s.mem := by
  unfold State.endKill
  grind [State.clearMatrix_mem, State.freeBars_mem, State.setLaunch_mem, State.unsave_mem]

@[simp] theorem State.watch_mem : s.watch.mem = s.mem := rfl

/-! #### Machine/Boot -/

@[simp] theorem State.bootFail_mem (err) : (s.bootFail err).mem = s.mem := rfl

@[simp] theorem State.negotiateAll_mem : s.negotiateAll.mem = s.mem := rfl

@[simp] theorem State.ivtctl_mem (val) : (s.ivtctl val).mem = s.mem := by
  unfold State.ivtctl
  grind [State.negotiateAll_mem]

@[simp] theorem State.ptm_mem (host) : (s.ptm host).mem = s.mem := by
  unfold State.ptm
  grind

@[simp] theorem State.clock_mem : s.clock.mem = s.mem := by
  unfold State.clock
  grind [State.watch_mem]

/-! #### Machine/Burst -/

@[simp] theorem State.setBread_mem (tile c) : (s.setBread tile c).mem = s.mem := rfl

@[simp] theorem State.birth_mem (tile slot c u) : (s.birth tile slot c u).mem = s.mem := by
  unfold State.birth
  grind [State.reseed_mem, State.setBread_mem]

@[simp] theorem State.requestBurst_mem (tile c t') : (s.requestBurst tile c t').mem = s.mem := by
  unfold State.requestBurst
  grind [State.setBread_mem]

@[simp] theorem State.burstBack_mem (tile c t' ix d got) : (s.burstBack tile c t' ix d got).mem = s.mem := by
  unfold State.burstBack
  grind [State.birth_mem, State.setBread_mem]

@[simp] theorem State.burstFails_mem (tile c ix tenant f) : (s.burstFails tile c ix tenant f).mem = s.mem := by
  unfold State.burstFails
  grind [State.parkRequest_mem, State.record_mem, State.setBread_mem]

@[simp] theorem State.returnBurst_mem (tile c t' u) : (s.returnBurst tile c t' u).mem = s.mem := by
  unfold State.returnBurst
  grind [State.burstBack_mem, State.burstFails_mem, State.setBread_mem, State.traceGranule_mem, readGranule_mem]

/-! #### Machine/Seq -/

@[simp] theorem recordBytes_mem (p f va n : Nat) : (recordBytes p f va n s).1.mem = s.mem := by
  induction f generalizing va n s with
  | zero => rfl
  | succ f ih => unfold recordBytes; grind [State.poolData_mem]

/-! #### Machine/Mbox -/

@[simp] theorem landBytes_mem (r : BankRef) (vlq payload d n : Nat) : (landBytes r vlq payload d n s).mem = s.mem := by
  induction n generalizing payload d s with
  | zero => rfl
  | succ n ih => exact (ih ..).trans (State.land_mem ..)

/-! #### Machine/Peer -/

@[simp] theorem State.landMsg_mem (m) : (s.landMsg m).mem = s.mem := rfl

@[simp] theorem State.joinFail_mem : s.joinFail.mem = s.mem := by
  simp [State.joinFail]

@[simp] theorem State.peerctl_mem (val) : (s.peerctl val).mem = s.mem := by
  unfold State.peerctl
  grind [State.peerSend_mem]

@[simp] theorem State.join_mem (o) : (s.join o).mem = s.mem := by
  unfold State.join
  grind [State.joinFail_mem]

/-! #### Machine/Ras -/

@[simp] theorem State.scrubLine_mem (line) : (s.scrubLine line).mem = s.mem := by
  unfold State.scrubLine
  grind [State.corrected_mem, State.mark_mem, State.record_mem]

@[simp] theorem State.scrubWord_mem (k errs) : (s.scrubWord k errs).mem = s.mem := by
  unfold State.scrubWord
  grind [State.drawn_mem, State.mark_mem, State.record_mem]

@[simp] theorem State.upset_mem (line errs) : (s.upset line errs).mem = s.mem := by
  unfold State.upset
  split
  · exact State.plant_mem ..
  · split
    · exact State.plant_mem ..
    · rfl

@[simp] theorem State.fwRefuse_mem (r) : (s.fwRefuse r).mem = s.mem := rfl

@[simp] theorem State.fwGo_mem : s.fwGo.mem = s.mem := by
  unfold State.fwGo
  grind [State.fwRefuse_mem]

@[simp] theorem State.logTail_mem (fn log val) : (s.logTail fn log val).mem = s.mem := by
  unfold State.logTail
  grind [State.setTenant_mem]

/-! #### Machine/Host -/

@[simp] theorem State.qctl_mem (k val) : (s.qctl k val).mem = s.mem := by
  unfold State.qctl
  grind [State.setQueue_mem, State.settleQueue_mem, State.unserve_mem]

@[simp] theorem State.qcancel_mem (k val) : (s.qcancel k val).mem = s.mem := by
  unfold State.qcancel
  grind [State.cancel_mem, Option.getD_eq_iff]

@[simp] theorem State.queueWrite_mem (fn k off val) : (s.queueWrite fn k off val).mem = s.mem := by
  unfold State.queueWrite
  grind [State.qcancel_mem, State.qctl_mem, State.setQueue_mem]

@[simp] theorem State.fepreempt_mem (val) : (s.fepreempt val).mem = s.mem := by
  unfold State.fepreempt
  grind [State.endLadder_mem, State.startLadder_mem]

@[simp] theorem State.tlbinv_mem (t' val) : (s.tlbinv t' val).mem = s.mem := by
  unfold State.tlbinv
  grind [State.setTenant_mem]

@[simp] theorem State.tenantWrite_mem (t' off val) : (s.tenantWrite t' off val).mem = s.mem := by
  unfold State.tenantWrite
  grind [State.setTenant_mem, State.tlbinv_mem]

@[simp] theorem State.readFreqs_mem (p va n : Nat) : (s.readFreqs p va n).1.mem = s.mem := by
  induction n generalizing s va with
  | zero => rfl
  | succ n ih => unfold State.readFreqs; grind [State.poolData_mem]

@[simp] theorem State.metaRuns_mem (p f va n : Nat) : (s.metaRuns p f va n).1.mem = s.mem := by
  induction f generalizing s va n with
  | zero => rfl
  | succ f ih => unfold State.metaRuns; grind [State.poolTr_mem]

@[simp] theorem State.poolDisable_mem (k) : (s.poolDisable k).mem = s.mem := by
  unfold State.poolDisable
  grind [State.setPool_mem]

@[simp] theorem State.leashset_mem (t' val) : (s.leashset t' val).mem = s.mem := by
  unfold State.leashset
  grind [State.setTenant_mem]

@[simp] theorem State.tdbgrel_mem (val) : (s.tdbgrel val).mem = s.mem := by
  simp [State.tdbgrel]

@[simp] theorem State.debugWrite_mem (t' off val) : (s.debugWrite t' off val).mem = s.mem := by
  unfold State.debugWrite
  grind [State.setTenant_mem, State.tdbgrel_mem]

@[simp] theorem State.lvqWrite_mem (t' val) : (s.lvqWrite t' val).mem = s.mem := rfl

@[simp] theorem State.fntenWrite_mem (f val) : (s.fntenWrite f val).mem = s.mem := by
  unfold State.fntenWrite
  grind

@[simp] theorem State.windowWrite_mem (off val) : (s.windowWrite off val).mem = s.mem := by
  unfold State.windowWrite
  grind

@[simp] theorem State.lowWrite_mem (off val) : (s.lowWrite off val).mem = s.mem := by
  simp only [State.lowWrite, apply_ite State.mem, State.fepreempt_mem, State.setQueue_mem, State.fwGo_mem, State.peerctl_mem,
    State.fntenWrite_mem, ite_self]

@[simp] theorem State.rangeWrite_mem (i val) : (s.rangeWrite i val).mem = s.mem := by
  unfold State.rangeWrite
  grind

@[simp] theorem State.hostTarget_mem (fn a n kind) : (s.hostTarget fn a n kind).1.mem = s.mem := by
  unfold State.hostTarget
  grind [State.check_mem]

@[simp] theorem State.refuseHost_mem (fn a kind cause) : (s.refuseHost fn a kind cause).mem = s.mem := by
  simp [State.refuseHost]

@[simp] theorem State.hostTargets_mem (fn kind : Nat) (l : List (Nat × Nat)) : (s.hostTargets fn kind l).1.mem = s.mem := by
  induction l generalizing s with
  | nil => rfl
  | cons p l ih => unfold State.hostTargets; grind [State.hostTarget_mem, State.refuseHost_mem]

/-! #### Machine/Misc -/

@[simp] theorem State.unparkWho_mem (w) : (s.unparkWho w).mem = s.mem := by
  unfold State.unparkWho
  grind [State.setTile_mem, State.unpark_mem]

/-! #### Machine/Fetch -/

@[simp] theorem State.gatherWhole_mem (r : BankRef) (f : Nat) : (s.gatherWhole r f).1.mem = s.mem := by
  induction f generalizing s with
  | zero => rfl
  | succ f ih => unfold State.gatherWhole; grind [State.fetchUnit_mem, State.setBank_mem]

@[simp] theorem State.fetchRecord_mem (r va) : (s.fetchRecord r va).mem = s.mem := by
  unfold State.fetchRecord
  grind [State.check_mem, State.record_mem]

@[simp] theorem State.fetchStop_mem (r va c) : (s.fetchStop r va c).mem = s.mem := by
  unfold State.fetchStop
  grind [State.fetchRecord_mem, State.parkRequest_mem, State.setBank_mem, State.takeTrap_mem]

@[simp] theorem State.paced_mem (s t : State) (r : BankRef) : (s.paced t r).mem = t.mem := by
  unfold State.paced; grind [State.setBank_mem]

@[simp] theorem State.someWords_mem (k n o : Nat) : (s.someWords k n o).1.mem = s.mem := by
  induction n generalizing s o with
  | zero => rfl
  | succ n ih => unfold State.someWords; grind [State.streamWord_mem]

end Frames

/-! ### What canonical means for a state and for an outcome -/

/-- The memory of a state is in canonical form. -/
abbrev State.Canonical (s : State) : Prop := Memory.wf s.mem = true

/-- The state that an outcome answers, where it answers one, has its memory in canonical form. -/
def CanonicalOut : Out → Prop
  | .next t => t.Canonical
  | _ => True

@[simp] theorem canonicalOut_next {s : State} : CanonicalOut (.next s) ↔ s.Canonical := Iff.rfl

theorem canonicalOut_ite {c : Prop} [Decidable c] {a b : Out} (ha : CanonicalOut a) (hb : CanonicalOut b) :
    CanonicalOut (if c then a else b) := by
  split <;> assumption

theorem canonical_of_mem_eq {s t : State} (e : t.mem = s.mem) (h : s.Canonical) : t.Canonical := by rwa [State.Canonical, e]

theorem memSorted_filter {m : List (Nat × Byte)} {lo : Nat} (p : Nat × Byte → Bool) (h : memSorted lo m = true) :
    memSorted lo (m.filter p) = true := by
  induction m generalizing lo with
  | nil => rfl
  | cons c m ih =>
    obtain ⟨a, b⟩ := c
    simp only [memSorted, Bool.and_eq_true, decide_eq_true_eq] at h
    obtain ⟨⟨hlo, hb⟩, hm⟩ := h
    by_cases hp : p (a, b) = true
    · simpa [hp, memSorted, hlo, ih hm] using hb
    · simpa [hp] using memSorted_mono (ih hm) (by omega : lo ≤ a + 1)

theorem Memory.wf_filter {m : List (Nat × Byte)} (p : Nat × Byte → Bool) (h : Memory.wf m = true) : Memory.wf (m.filter p) = true :=
  memSorted_filter p h

theorem foldl_wf {α : Type} {f : State → α → State} (hf : ∀ s a, s.Canonical → (f s a).Canonical) {l : List α} {s : State}
    (h : s.Canonical) : (l.foldl f s).Canonical :=
  List.foldlRecOn l f (motive := State.Canonical) h fun t ht a _ => hf t a ht

section Steps
variable {s : State} (h : s.Canonical)
include h

/-! ### Operations that keep the memory canonical -/

/-! #### Machine/Ops -/

theorem trapAt_wf {cause addr val} : CanonicalOut (trapAt cause addr val s) := by
  unfold trapAt
  grind [canonicalOut_next, State.takeTrap_mem, State.unscoped_mem]

theorem trap_wf {cause} : CanonicalOut (trap cause s) := trapAt_wf h

theorem insTrap_wf {cause} : CanonicalOut (insTrap cause s) := trapAt_wf h

theorem done_wf {d lat x} : CanonicalOut (done d lat x s) := by
  unfold done
  grind [canonicalOut_next, State.retire_mem, State.wgLat_mem]

/-! #### Machine/Access -/

theorem State.writeTarget_wf {t' n v} : (s.writeTarget t' n v).Canonical := by
  unfold State.writeTarget
  grind [State.store_wf, State.winWrite_mem]

/-! #### Machine/Memory -/

theorem writeParts_wf {r ps} : (writeParts r ps s).Canonical := by
  induction ps generalizing s with
  | nil => exact h
  | cons p ps ih => exact ih (canonical_of_mem_eq (State.traceThread_mem ..) (State.writeTarget_wf h))

theorem storeParts_wf {r ps} : (storeParts r ps s).Canonical := by
  unfold storeParts
  grind [State.wrote_mem, writeParts_wf]

theorem State.performAccess_wf {r a} : (s.performAccess r a).Canonical := by
  unfold State.performAccess
  grind [State.poisonErr_mem, State.resultReady_mem, State.setBank_mem, storeParts_wf, traceLoads_mem]

theorem rlxGate_wf {f : State → Out} (hf : ∀ t, t.Canonical → CanonicalOut (f t)) : CanonicalOut (rlxGate s f) := by
  unfold rlxGate; grind [canonicalOut_next, State.hold_mem, State.setMe_mem]

theorem performList_wf {r as} : (performList r as s).Canonical := by
  induction as generalizing s with
  | nil => exact h
  | cons a as ih => exact ih (State.performAccess_wf h)

theorem State.drain_wf {r scope} : (s.drain r scope).Canonical := by
  unfold State.drain
  grind [performList_wf]

theorem State.drainOverlap_wf {r ps} : (s.drainOverlap r ps).Canonical := performList_wf h

theorem State.drainFull_wf {r} : (s.drainFull r).Canonical := by
  unfold State.drainFull
  grind [State.performAccess_wf]

theorem gate_wf {f : State → Out} (hf : ∀ t, t.Canonical → CanonicalOut (f t)) : CanonicalOut (gate s f) := by
  unfold gate; grind [canonicalOut_next, State.hold_mem]

theorem fenceGate_wf {f : State → Out} (hf : ∀ t, t.Canonical → CanonicalOut (f t)) : CanonicalOut (fenceGate s f) := by
  unfold fenceGate; grind [canonicalOut_next, State.hold_mem, rlxGate_wf]

theorem parkPage_wf {va kind} : CanonicalOut (parkPage va kind s) := by
  unfold parkPage
  grind [canonicalOut_next, State.parkRequest_mem, State.setMe_mem, State.unscoped_mem, State.writeBack_mem]

theorem accessElse_wf {absent : Nat → State → Out} {va n kind} {f : Target → State → Out}
    (ha : ∀ a t, t.Canonical → CanonicalOut (absent a t)) (hf : ∀ x t, t.Canonical → CanonicalOut (f x t)) :
    CanonicalOut (accessElse absent va n kind s f) := by
  unfold accessElse; grind [canonicalOut_next, State.check_mem, State.hold_mem, trapAt_wf]

theorem access_wf {va n kind} {f : Target → State → Out} (hf : ∀ x t, t.Canonical → CanonicalOut (f x t)) :
    CanonicalOut (access va n kind s f) :=
  accessElse_wf h (fun _ _ h => parkPage_wf h) hf

theorem serveList_wf {loc n} : (serveList loc n s).Canonical := by
  induction n generalizing s with
  | zero => exact h
  | succ n ih =>
    unfold serveList
    grind [State.traceThread_mem, State.poisonErr_mem, State.release_mem, State.setTag_mem, State.store_wf]

theorem State.changeTag_wf {loc full} : (s.changeTag loc full).Canonical := by
  unfold State.changeTag
  grind [State.beginActivation_mem, State.setTag_mem, serveList_wf]

theorem tagWords_wf {full n loc} : (tagWords full n loc s).Canonical := by
  induction n generalizing loc s with
  | zero => exact h
  | succ n ih => exact ih (State.changeTag_wf h)

theorem State.lateActivation_wf {tile slot p late} : (s.lateActivation tile slot p late).Canonical := by
  unfold State.lateActivation
  grind [State.beginActivation_mem, serveList_wf]

theorem fillWords_wf {n loc} : (fillWords n loc s).Canonical := by
  induction n generalizing loc s with
  | zero => exact h
  | succ n ih => exact ih (State.changeTag_wf (canonical_of_mem_eq (State.countOverrun_mem ..) h))

theorem State.engineWrite_wf {t' n v kind src} : (s.engineWrite t' n v kind src).Canonical := by
  unfold State.engineWrite
  grind [State.store_wf, State.traceAt_mem, State.winWrite_mem, fillWords_wf]

/-! #### Machine/Pages -/

theorem State.pinPage_wf {p k} : (s.pinPage p k).Canonical := by
  unfold State.pinPage
  grind [State.pinFault_mem, State.poolData_mem, State.store_wf]

theorem State.unpinPage_wf {p k} : (s.unpinPage p k).Canonical := by
  unfold State.unpinPage
  grind [State.freePage_mem, State.pinFault_mem, State.poolData_mem, State.store_wf]

theorem State.pin_wf {p pages} : (s.pin p pages).Canonical := by
  unfold State.pin
  exact foldl_wf (fun s a h => by grind [State.pinPage_wf]) h

theorem State.unpin_wf {p pages} : (s.unpin p pages).Canonical := by
  unfold State.unpin
  exact foldl_wf (fun s a h => by grind [State.unpinPage_wf]) h

theorem State.pinRange_wf {t lo hi} : (s.pinRange t lo hi).1.Canonical := by
  unfold State.pinRange
  refine List.foldlRecOn (motive := fun acc : State × List (Nat × Nat) => acc.1.Canonical) _ _ h fun acc h p _ => ?_
  grind [State.pin_wf]

/-! #### Machine/Operands -/

theorem vecGate_wf {srcs dst} {f : State → Out} (hf : ∀ t, t.Canonical → CanonicalOut (f t)) : CanonicalOut (vecGate srcs dst s f) := by
  unfold vecGate; grind [canonicalOut_next, State.hold_mem, trap_wf]

theorem State.freePort_wf {r k} : (s.freePort r k).Canonical := by
  unfold State.freePort
  grind [State.send_mem, State.setBank_mem, State.unpin_wf]

theorem State.freePorts_wf {r ks} : (s.freePorts r ks).Canonical := by
  unfold State.freePorts
  exact foldl_wf (fun s a h => by grind [State.freePort_wf]) h

theorem State.unbind_wf {r k} : (s.unbind r k).Canonical := by
  unfold State.unbind
  grind [State.setBank_mem, State.unpin_wf]

theorem State.landPend_wf {r p} : (s.landPend r p).Canonical := by
  unfold State.landPend
  grind [State.freePorts_wf, State.land_mem]

theorem State.flushDest_wf {r d} : (s.flushDest r d).Canonical := by
  unfold State.flushDest
  exact foldl_wf (fun s a h => by grind [State.landPend_wf, State.setBank_mem]) h

theorem vdone_wf {srcs d lat x fl} : CanonicalOut (vdone srcs d lat x fl s) := by
  unfold vdone
  grind [canonicalOut_next, State.flushDest_wf, State.retire_mem, State.setMe_mem]

theorem vsdone_wf {srcs d lat x fl} : CanonicalOut (vsdone srcs d lat x fl s) := by
  unfold vsdone
  grind [canonicalOut_next, State.retire_mem, State.setMe_mem, State.wgLat_mem]

theorem State.usePorts_wf {srcs} : (s.usePorts srcs).Canonical := by
  unfold State.usePorts
  grind [State.freePorts_wf, State.setMe_mem]

theorem State.ageResults_wf {r} : (s.ageResults r).Canonical := by
  unfold State.ageResults
  exact foldl_wf (fun s a h => by grind [State.landPend_wf, State.setBank_mem]) h

theorem State.landAll_wf {r} : (s.landAll r).Canonical := by
  unfold State.landAll
  exact foldl_wf (fun s a h => by grind [State.landPend_wf, State.setBank_mem]) h

theorem State.unbindAll_wf {r} : (s.unbindAll r).Canonical :=
  foldl_wf (fun _ _ h => State.unbind_wf h) (State.landAll_wf h)

/-! #### Machine/Mem -/

theorem loadDone_wf {k dest ext base va ps fr} : CanonicalOut (loadDone k dest ext base va ps s fr) := by
  unfold loadDone
  grind [canonicalOut_next, State.drainOverlap_wf, State.finishLong_mem, State.poisonErr_mem, State.pushAccess_mem, traceLoads_mem]

theorem storeDone_wf {k va ps} : CanonicalOut (storeDone k va ps s) := by
  unfold storeDone
  grind [canonicalOut_next, State.drainOverlap_wf, State.finishLong_mem, State.pushAccess_mem, storeParts_wf]

theorem roomGate_wf {f : State → Out} (hf : ∀ t, t.Canonical → CanonicalOut (f t)) : CanonicalOut (roomGate s f) := by
  unfold roomGate; grind [canonicalOut_next, State.hold_mem, State.setMe_mem]

theorem State.makeRoom_wf : s.makeRoom.Canonical := by
  unfold State.makeRoom
  grind [State.drainFull_wf]

theorem loadAt_wf {ext n d k va} : CanonicalOut (loadAt ext n d k va s) :=
  gate_wf h fun _ h => roomGate_wf h fun _ h => access_wf (State.makeRoom_wf h) fun _ _ h => loadDone_wf h

theorem storeAt_wf {n d k va} : CanonicalOut (storeAt n d k va s) :=
  gate_wf h fun _ h => roomGate_wf h fun _ h => access_wf (State.makeRoom_wf h) fun _ _ h => storeDone_wf h

theorem accessLanes_wf {kind data l ps} {f : List Part → State → Out} (hf : ∀ ps t, t.Canonical → CanonicalOut (f ps t)) :
    CanonicalOut (accessLanes kind data l ps s f) := by
  induction l generalizing ps s with
  | nil => exact hf ps s h
  | cons x l ih => exact access_wf h fun _ _ h => ih h

theorem vloadAt_wf {srcs d k lanes} : CanonicalOut (vloadAt srcs d k lanes s) := by
  refine gate_wf h fun _ h => roomGate_wf h fun _ h => accessLanes_wf (State.makeRoom_wf h) fun ps t h => ?_
  grind [canonicalOut_next, State.finishLong_mem, State.useCredit_mem, State.takeEntries_mem, loadDone_wf]

theorem vstoreAt_wf {srcs d k lanes} : CanonicalOut (vstoreAt srcs d k lanes s) := by
  refine gate_wf h fun _ h => roomGate_wf h fun _ h => accessLanes_wf (State.makeRoom_wf h) fun ps t h => ?_
  grind [canonicalOut_next, State.finishLong_mem, State.usePorts_wf, storeDone_wf]

theorem execVld_wf {d a b k} : CanonicalOut (execVld d a b k s) := by
  unfold execVld
  grind [canonicalOut_next, vecGate_wf, vloadAt_wf]

theorem execVst_wf {d a b k} : CanonicalOut (execVst d a b k s) := by
  unfold execVst
  grind [canonicalOut_next, vecGate_wf, vstoreAt_wf]

theorem execVlds_wf {d a b k} : CanonicalOut (execVlds d a b k s) := by
  unfold execVlds
  grind [canonicalOut_next, trap_wf, vecGate_wf, vloadAt_wf]

theorem execVsts_wf {d a b k} : CanonicalOut (execVsts d a b k s) := by
  unfold execVsts
  grind [canonicalOut_next, trap_wf, vecGate_wf, vstoreAt_wf]

theorem execVldx_wf {d a b k} : CanonicalOut (execVldx d a b k s) := by
  unfold execVldx
  grind [canonicalOut_next, vecGate_wf, vloadAt_wf]

theorem execVstx_wf {d a b k} : CanonicalOut (execVstx d a b k s) := by
  unfold execVstx
  grind [canonicalOut_next, vecGate_wf, vstoreAt_wf]

theorem execVldb_wf {d a b k} : CanonicalOut (execVldb d a b k s) := by
  unfold execVldb
  grind [canonicalOut_next, State.makeRoom_wf, State.useCredit_mem, access_wf, gate_wf, loadDone_wf, roomGate_wf, vecGate_wf, vloadAt_wf]

theorem feAction_wf {minor loc v x} {t : State} (e : feAction minor loc v s = some (x, t)) : t.Canonical := by
  unfold feAction at e; grind [State.changeTag_wf, State.store_wf]

theorem releaseGate_wf {rel sc} {f : State → Out} (hf : ∀ t, t.Canonical → CanonicalOut (f t)) :
    CanonicalOut (releaseGate rel sc s f) := by
  unfold releaseGate; grind [rlxGate_wf]

theorem feAt_wf {minor reg a i sc v} : CanonicalOut (feAt minor reg a i sc v s) := by
  refine gate_wf h fun _ h => access_wf h fun x t h => ?_
  split
  · exact trapAt_wf h
  · split
    · exact trapAt_wf h
    · refine releaseGate_wf h fun t h => ?_
      grind [canonicalOut_next, feAction_wf, State.drain_wf, State.drainOverlap_wf, State.traceThread_mem, State.feErr_mem,
        State.finishLong_mem, State.park_mem, State.setTile_mem]

theorem scopeGate_wf {sc} {f : State → Out} (hf : ∀ t, t.Canonical → CanonicalOut (f t)) : CanonicalOut (scopeGate sc s f) := by
  unfold scopeGate; grind [fenceGate_wf]

theorem execFence_wf {sc} : CanonicalOut (execFence sc s) := by
  unfold execFence
  grind [canonicalOut_next, State.drain_wf, State.retire_mem, scopeGate_wf]

theorem execIfence_wf {sc} : CanonicalOut (execIfence sc s) := by
  unfold execIfence
  grind [canonicalOut_next, State.drain_wf, State.retire_mem, State.setMe_mem, scopeGate_wf]

theorem execEfence_wf {sc} : CanonicalOut (execEfence sc s) := by
  unfold execEfence
  grind [canonicalOut_next, State.drain_wf, State.park_mem, State.retire_mem, rlxGate_wf]

/-! #### Machine/Sys -/

theorem ret_wf {d x} : CanonicalOut (ret d x s) := by
  unfold ret
  grind [canonicalOut_next, State.retire_mem, State.setMe_mem]

theorem csrOp_wf {d c writes f} : CanonicalOut (csrOp d c writes f s) := by
  unfold csrOp
  grind [canonicalOut_next, State.setMe_mem, done_wf, insTrap_wf]

theorem execRpt_wf {a n x y z} : CanonicalOut (execRpt a n x y z s) := by
  unfold execRpt
  grind [canonicalOut_next, State.issued_mem, State.jump_mem, State.loadBody_mem, State.setMe_mem, State.settle_mem, insTrap_wf]

theorem execTrap_wf {n} : CanonicalOut (execTrap n s) := by
  unfold execTrap
  grind [canonicalOut_next, State.takeTrap_mem, State.unscoped_mem]

theorem execEbrk_wf {n} : CanonicalOut (execEbrk n s) := by
  unfold execEbrk
  grind [canonicalOut_next, State.takeTrap_mem, State.unscoped_mem]

theorem execEret_wf : CanonicalOut (execEret s) := by
  unfold execEret
  grind [canonicalOut_next, State.jump_mem, State.setMe_mem, insTrap_wf]

theorem execHfcall_wf {d a n} : CanonicalOut (execHfcall d a n s) := by
  unfold execHfcall
  grind [canonicalOut_next, State.attestBuffer_mem, State.drain_wf, State.park_mem, fenceGate_wf, insTrap_wf, parkPage_wf, trap_wf,
    trapAt_wf]

theorem execCancel_wf {d a n} : CanonicalOut (execCancel d a n s) := by
  unfold execCancel
  grind [canonicalOut_next, State.cancel_mem, State.drain_wf, fenceGate_wf, insTrap_wf, ret_wf, trap_wf]

/-! #### Machine/Atomic -/

theorem State.atomAct_wf {r minor loc exp v} : (s.atomAct r minor loc exp v).1.Canonical := by
  unfold State.atomAct
  grind [State.store_wf, State.traceThread_mem, State.wordErr_mem]

theorem State.atomWake_wf {r minor loc exp v win} : (s.atomWake r minor loc exp v win).Canonical := by
  unfold State.atomWake
  grind [State.atomAct_wf, State.resultReady_mem, State.wake_mem]

theorem passWord_wf {loc n} : (passWord loc n s).Canonical := by
  induction n generalizing s with
  | zero => exact h
  | succ n ih => unfold passWord; grind [State.setWaits_mem, State.grantWake_mem, State.atomWake_wf]

theorem State.passOn_wf {r loc} : (s.passOn r loc).Canonical := by
  unfold State.passOn
  grind [State.setResv_mem, passWord_wf]

theorem State.cancelResv_wf {r} : (s.cancelResv r).Canonical := by
  unfold State.cancelResv
  exact foldl_wf (fun s a h => by grind [State.passOn_wf, State.record_mem]) h

theorem atomAt_wf {va} {f : Nat → State → Out} (hf : ∀ loc t, t.Canonical → CanonicalOut (f loc t)) : CanonicalOut (atomAt va s f) := by
  refine gate_wf h fun t h => ?_
  grind [trapAt_wf, State.drainOverlap_wf]

theorem execArsv_wf {d a} : CanonicalOut (execArsv d a s) := by
  unfold execArsv
  grind [canonicalOut_next, State.finishLong_mem, State.grant_mem, State.queueResv_mem, State.wordErr_mem, atomAt_wf, trapAt_wf]

theorem atomRelease_wf {a v} : CanonicalOut (atomRelease a v s) := by
  refine atomAt_wf h fun loc t h => ?_
  dsimp only
  split
  · exact trapAt_wf h
  · refine rlxGate_wf h fun u h => ?_
    grind [canonicalOut_next, State.passOn_wf, State.retire_mem, State.traceThread_mem, State.store_wf, State.drain_wf]

theorem atomOp_wf {minor d a b k} : CanonicalOut (atomOp minor d a b k s) := by
  unfold atomOp
  refine atomAt_wf h fun loc t h => ?_
  grind [canonicalOut_next, State.queueResv_mem, State.openWindow_mem, State.finishLong_mem, State.atomAct_wf]

theorem execWaitListRetry_wf {tile slot bank} : CanonicalOut (execWaitListRetry tile slot bank s) := by
  unfold execWaitListRetry
  grind [canonicalOut_next, State.allowWait_mem, State.atomWake_wf, State.feErr_mem, State.grantWake_mem, State.traceThread_mem,
    State.wake_mem, State.wakeErr_mem, feAction_wf]

/-! #### Machine/Thread -/

theorem execSpawn_wf {d a b} : CanonicalOut (execSpawn d a b s) := by
  unfold execSpawn
  grind [canonicalOut_next, State.drain_wf, State.reseed_mem, fenceGate_wf, insTrap_wf, ret_wf, trap_wf]

theorem State.leave_wf {r} : (s.leave r).Canonical := by
  unfold State.leave
  grind [State.setBank_mem, State.unbindAll_wf, performList_wf]

theorem exitThread_wf : CanonicalOut (exitThread s) := by
  unfold exitThread
  dsimp only
  split
  · exact insTrap_wf h
  · refine rlxGate_wf h fun t h => ?_
    grind [canonicalOut_next, State.cancelResv_wf, State.leave_wf, State.issued_mem, State.endActivation_mem, State.setBank_mem]

theorem State.endHandler_wf {r} : (s.endHandler r).Canonical := by
  unfold State.endHandler
  grind [State.cancelResv_wf, State.setBank_mem, State.setTile_mem]

theorem endThread_wf : CanonicalOut (endThread s) := by
  unfold endThread
  dsimp only
  split
  · exact insTrap_wf h
  · refine rlxGate_wf h fun t h => ?_
    grind [canonicalOut_next, performList_wf, State.endHandler_wf, State.issued_mem, State.park_mem, State.setMe_mem]

theorem execBqry_wf {d} : CanonicalOut (execBqry d s) := by
  unfold execBqry
  extract_lets tile
  split <;> exact ret_wf h

theorem execDlaunch_wf {d a} : CanonicalOut (execDlaunch d a s) := by
  unfold execDlaunch
  grind [canonicalOut_next, State.accept_mem, State.drain_wf, fenceGate_wf, insTrap_wf, ret_wf]

/-! #### Machine/Copy -/

theorem writeNear_wf {c d per n o l} : (writeNear c d per n o l s).Canonical := by
  induction n generalizing o l s with
  | zero => exact h
  | succ n ih => unfold writeNear; grind [State.engineWrite_wf]

theorem writeElems_wf {c d o l} : (writeElems c d o l s).Canonical := by
  induction l generalizing o s with
  | nil => exact h
  | cons t l ih => unfold writeElems; grind [State.engineWrite_wf]

theorem writeFar_wf {c d o ts} : (writeFar c d o ts s).1.Canonical := by
  unfold writeFar
  dsimp only
  split
  · exact canonical_of_mem_eq (State.meetAll_mem ..) h
  · refine canonical_of_mem_eq (State.wrote_mem ..) (writeElems_wf ?_)
    exact canonical_of_mem_eq ((foldl_mem (fun _ _ => State.traceAt_mem ..) _ _).trans (State.meetAll_mem ..)) h

theorem State.recordOr_wf {recAt tile bits full} : (s.recordOr recAt tile bits full).Canonical := by
  unfold State.recordOr
  grind [State.engineWrite_wf, State.store_wf, State.traceAt_mem, wakeCopies_mem]

theorem State.recordStatus_wf {recAt tile chunks swz status} : (s.recordStatus recAt tile chunks swz status).Canonical := by
  unfold State.recordStatus
  grind [State.engineWrite_wf, wakeCopies_mem]

theorem State.chunkDone_wf {tile chunk c} : (s.chunkDone tile chunk c).Canonical := by
  unfold State.chunkDone
  grind [State.recordOr_wf, State.setCopy_mem]

theorem execBteChunkComplete_wf {tile ix chunk} : CanonicalOut (execBteChunkComplete tile ix chunk s) := by
  simp only [execBteChunkComplete]
  split
  · exact h
  · split
    · exact h
    · split
      · exact State.chunkDone_wf h
      · split <;> split <;> grind [canonicalOut_next, farTargets_mem, readGranule_mem, State.chunkFails_mem, State.setCopy_mem,
          State.chunkDone_wf, writeFar_wf, writeNear_wf, State.traceGranule_mem]

theorem State.completeCopy_wf {tile c} : (s.completeCopy tile c).Canonical := by
  unfold State.completeCopy
  grind [State.recordStatus_wf, State.setBank_mem, State.setTile_mem]

theorem State.descData_wf {r va t' u} : (s.descData r va t' u).1.Canonical := by
  unfold State.descData
  grind [State.drainOverlap_wf, State.poisonErr_mem, State.traceThread_mem]

theorem readDesc_wf {absent : Nat → State → Out} {va} {f : Nat → State → Out} (ha : ∀ a t, t.Canonical → CanonicalOut (absent a t))
    (hf : ∀ x t, t.Canonical → CanonicalOut (f x t)) : CanonicalOut (readDesc absent va s f) := by
  refine accessElse_wf h ha fun x t h => accessElse_wf h ha fun y u h => ?_
  grind [trapAt_wf, State.descData_wf]

theorem State.readDescAgain_wf {r va} : (s.readDescAgain r va).1.Canonical := by
  unfold State.readDescAgain
  grind [State.check_mem, State.descData_wf]

theorem enterCopy_wf {c} : CanonicalOut (enterCopy c s) := by
  unfold enterCopy
  grind [canonicalOut_next, State.park_mem, State.retire_mem, State.setTile_mem]

theorem parkDesc_wf {minor va near b x0 x1 absent} : CanonicalOut (parkDesc minor va near b x0 x1 absent s) := by
  unfold parkDesc
  grind [canonicalOut_next, State.park_mem, State.parkRequest_mem, State.setMe_mem]

theorem copyIssue_wf {minor near a b x0 x1} : CanonicalOut (copyIssue minor near a b x0 x1 s) := by
  unfold copyIssue
  grind [canonicalOut_next, State.usePorts_wf, enterCopy_wf, gate_wf, insTrap_wf, parkDesc_wf, readDesc_wf, trapAt_wf, vecGate_wf]

theorem cwtAt_wf {a kind} {f : Nat → State → Out} (hf : ∀ loc t, t.Canonical → CanonicalOut (f loc t)) :
    CanonicalOut (cwtAt a kind s f) := by
  refine gate_wf h fun _ h => access_wf h fun x t h => ?_
  grind [trapAt_wf, State.drainOverlap_wf]

theorem cwtMask_wf {a b} {f : Nat → Out} (hf : ∀ n, CanonicalOut (f n)) : CanonicalOut (cwtMask a b s f) := by
  unfold cwtMask
  grind [trapAt_wf, insTrap_wf]

theorem cwtRead_wf {d va loc} : CanonicalOut (cwtRead d va loc s) := by
  unfold cwtRead
  grind [canonicalOut_next, State.finishLong_mem, State.poisonErr_mem, State.traceThread_mem]

theorem execCwait_wf {d a b} : CanonicalOut (execCwait d a b s) := by
  unfold execCwait
  grind [canonicalOut_next, State.park_mem, cwtAt_wf, cwtMask_wf, cwtRead_wf]

theorem execCtest_wf {d a b} : CanonicalOut (execCtest d a b s) := by
  unfold execCtest
  grind [canonicalOut_next, cwtAt_wf, cwtMask_wf, cwtRead_wf]

theorem execCclr_wf {a} : CanonicalOut (execCclr a s) := by
  unfold execCclr
  grind [canonicalOut_next, State.changeTag_wf, State.retire_mem, State.store_wf, State.traceThread_mem, cwtAt_wf]

/-! #### Machine/Flags -/

theorem withFlags_wf {l} {f : Flags → State → Out} (hf : ∀ fl t, t.Canonical → CanonicalOut (f fl t)) : CanonicalOut (withFlags l s f) := by
  unfold withFlags; grind [trapAt_wf]

/-! #### Machine/Reflex -/

theorem execPrime_wf {d a b} : CanonicalOut (execPrime d a b s) := by
  unfold execPrime
  grind [canonicalOut_next, State.lateActivation_wf, State.retire_mem, State.setCtx_mem, State.setMe_mem, insTrap_wf, ret_wf, trap_wf,
    trapAt_wf]

theorem execUnprime_wf {d a} : CanonicalOut (execUnprime d a s) := by
  unfold execUnprime
  grind [canonicalOut_next, State.setCtx_mem, insTrap_wf, ret_wf, trap_wf]

theorem execCeilingTrip_wf {tile slot} : CanonicalOut (execCeilingTrip tile slot s) := by
  unfold execCeilingTrip
  grind [canonicalOut_next, State.enterTrap_mem, State.leave_wf]

theorem execBankSwitchComplete_wf {tile slot} : CanonicalOut (execBankSwitchComplete tile slot s) := by
  unfold execBankSwitchComplete
  grind [canonicalOut_next, State.cancelResv_wf, State.lateActivation_wf, State.setCtx_mem, performList_wf]

/-! #### Machine/Seize -/

theorem execSeize_wf {d a b x0} : CanonicalOut (execSeize d a b x0 s) := by
  unfold execSeize
  grind [canonicalOut_next, State.park_mem, State.send_mem, insTrap_wf, trap_wf]

theorem execSrls_wf : CanonicalOut (execSrls s) := by
  unfold execSrls
  grind [canonicalOut_next, State.releaseSeizure_mem, State.retire_mem, insTrap_wf]

theorem execSrlsRemote_wf {a} : CanonicalOut (execSrlsRemote a s) := by
  unfold execSrlsRemote
  grind [canonicalOut_next, State.retire_mem, State.send_mem, insTrap_wf, trap_wf]

theorem execSeizq_wf {d a} : CanonicalOut (execSeizq d a s) := by
  unfold execSeizq
  grind [canonicalOut_next, State.park_mem, trap_wf]

theorem execSeizeArrival_wf {tile} : CanonicalOut (execSeizeArrival tile s) := by
  unfold execSeizeArrival
  grind [canonicalOut_next, State.send_mem, State.setTile_mem]

theorem execSeizureDrainComplete_wf {tile} : CanonicalOut (execSeizureDrainComplete tile s) := by
  unfold execSeizureDrainComplete
  dsimp only
  split
  · exact h
  · split
    · exact h
    · split
      · exact h
      · rw [canonicalOut_next]
        refine foldl_wf (fun s k h => ?_) h
        exact h

theorem execSeizureSwapComplete_wf {tile} : CanonicalOut (execSeizureSwapComplete tile s) := by
  simp only [execSeizureSwapComplete]
  split
  · exact h
  · exact canonical_of_mem_eq (foldl_mem (fun _ _ => (State.setCtx_mem ..).trans (State.seat_mem ..)) ..) h

theorem execLeashCeiling_wf {tile slot} : CanonicalOut (execLeashCeiling tile slot s) := by
  unfold execLeashCeiling
  grind [canonicalOut_next, State.record_mem, State.releaseSeizure_mem]

theorem execRemoteSrlsArrival_wf {tile} : CanonicalOut (execRemoteSrlsArrival tile s) := by
  unfold execRemoteSrlsArrival
  grind [canonicalOut_next, State.releaseSeizure_mem, State.send_mem, State.setTile_mem]

theorem execSeizeReplyArrival_wf {tile slot bank} : CanonicalOut (execSeizeReplyArrival tile slot bank s) := by
  unfold execSeizeReplyArrival
  grind [canonicalOut_next, State.wake_mem]

theorem State.swapBack_wf {tile slot} : (s.swapBack tile slot).Canonical := by
  unfold State.swapBack
  grind [State.cancelResv_wf, State.setCtx_mem, State.withdraw_mem, performList_wf]

theorem execSeizureReleaseComplete_wf {tile} : CanonicalOut (execSeizureReleaseComplete tile s) := by
  simp only [execSeizureReleaseComplete]
  split
  · exact h
  · exact canonical_of_mem_eq (State.setTile_mem ..) (foldl_wf (fun _ _ h => State.swapBack_wf h) h)

/-! #### Machine/Matrix -/

theorem ownGate_wf {f : State → Out} (hf : ∀ t, t.Canonical → CanonicalOut (f t)) : CanonicalOut (ownGate s f) := by
  unfold ownGate; grind [trap_wf]

theorem deliverGate_wf {f : State → Out} (hf : ∀ t, t.Canonical → CanonicalOut (f t)) : CanonicalOut (deliverGate s f) := by
  unfold deliverGate; grind [trapAt_wf, State.setMe_mem]

theorem enterMx_wf {c} : CanonicalOut (enterMx c s) := by
  unfold enterMx
  grind [canonicalOut_next, State.claim_mem, State.park_mem, State.retire_mem, State.setTile_mem]

theorem mxIssue_wf {minor ga ctl vdata srcs} : CanonicalOut (mxIssue minor ga ctl vdata srcs s) := by
  unfold mxIssue
  grind [canonicalOut_next, State.usePorts_wf, enterMx_wf, insTrap_wf, ownGate_wf, trap_wf]

theorem execMwld_wf {a b} : CanonicalOut (execMwld a b s) := by
  unfold execMwld
  grind [canonicalOut_next, gate_wf, mxIssue_wf]

theorem execMstrm_wf {a b} : CanonicalOut (execMstrm a b s) := by
  unfold execMstrm
  grind [canonicalOut_next, gate_wf, mxIssue_wf]

theorem execMgath_wf {a b} : CanonicalOut (execMgath a b s) := by
  unfold execMgath
  grind [canonicalOut_next, gate_wf, mxIssue_wf]

theorem execMwra_wf {a b} : CanonicalOut (execMwra a b s) := by
  unfold execMwra
  grind [canonicalOut_next, mxIssue_wf, vecGate_wf]

theorem execMrda_wf {d b k} : CanonicalOut (execMrda d b k s) := by
  unfold execMrda
  grind [canonicalOut_next, State.openWindow_mem, State.useCredit_mem, deliverGate_wf, enterMx_wf, ownGate_wf, trap_wf, vecGate_wf]

theorem execMwait_wf : CanonicalOut (execMwait s) := by
  unfold execMwait
  grind [canonicalOut_next, State.claim_mem, State.park_mem, State.retire_mem, deliverGate_wf, ownGate_wf]

theorem execMstat_wf {d} : CanonicalOut (execMstat d s) := by
  unfold execMstat
  grind [canonicalOut_next, deliverGate_wf, done_wf]

theorem checkPieces_wf {l ts} {f : List (Option Target) → State → Out} (hf : ∀ ts t, t.Canonical → CanonicalOut (f ts t)) :
    CanonicalOut (checkPieces l ts s f) := by
  induction l generalizing ts s with
  | nil => exact hf ts s h
  | cons p l ih => exact accessElse_wf h (fun _ _ h => ih h) fun _ _ h => ih h

theorem execLdt_wf {a b k} : CanonicalOut (execLdt a b k s) := by
  unfold execLdt
  grind [canonicalOut_next, State.claim_mem, State.drainOverlap_wf, State.finishLong_mem, State.openWindow_mem, State.parkRequest_mem,
    State.poisonErr_mem, checkPieces_wf, enterMx_wf, gate_wf, ownGate_wf, traceLoads_mem, trap_wf]

theorem hostStore_wf {base val kind src l} : (hostStore base val kind src l s).Canonical := by
  induction l generalizing s with
  | nil => exact h
  | cons p l ih => exact ih (State.engineWrite_wf h)

theorem State.unitAccess_wf {a} : (s.unitAccess a).Canonical := by
  unfold State.unitAccess
  grind [State.hostAnswer_mem, hostStore_wf]

theorem State.serveAtUnit_wf : s.serveAtUnit.Canonical := by
  unfold State.serveAtUnit
  split
  · exact h
  · exact foldl_wf (fun _ _ h => State.unitAccess_wf h) h

theorem State.finishMx_wf {tile c value} : (s.finishMx tile c value).Canonical := by
  unfold State.finishMx
  grind [State.check_mem, State.mwaitDone_mem, State.serveAtUnit_wf, State.setTile_mem, State.unitAccess_wf]

theorem State.deferMx_wf {tile leash c cause addr} : (s.deferMx tile leash c cause addr).Canonical := by
  unfold State.deferMx
  grind [State.finishMx_wf, State.record_mem, State.setBank_mem]

theorem State.stopLdt_wf {r c e} : (s.stopLdt r c e).Canonical := by
  unfold State.stopLdt
  grind [State.mwaitDone_mem, State.resultReady_mem, State.serveAtUnit_wf, State.setTile_mem, State.wake_mem]

theorem State.resumeLdt_wf {r f} : (s.resumeLdt r f).Canonical := by
  induction f generalizing s with
  | zero => exact h
  | succ f ih =>
    unfold State.resumeLdt
    repeat' split
    all_goals grind [State.check_mem, State.parkRequest_mem, State.stopLdt_wf, State.drainOverlap_wf, State.traceThread_mem,
      State.poisonErr_mem, State.setLdt_mem, State.resultReady_mem]

theorem execMatrixCommandStart_wf {tile leash} : CanonicalOut (execMatrixCommandStart tile leash s) := by
  unfold execMatrixCommandStart
  grind [canonicalOut_next, State.deferMx_wf, State.meetAll_mem, State.recordPoison_mem, State.setTile_mem]

theorem execMatrixCommandEntry_wf {tile} : CanonicalOut (execMatrixCommandEntry tile s) := by
  unfold execMatrixCommandEntry
  grind [canonicalOut_next, State.setTile_mem, State.wake_mem]

theorem execMatrixStepComplete_wf {tile leash} : CanonicalOut (execMatrixStepComplete tile leash s) := by
  unfold execMatrixStepComplete
  grind [canonicalOut_next, State.finishMx_wf, State.setBank_mem, State.setTile_mem]

theorem execMatrixCommandComplete_wf {tile leash ix} : CanonicalOut (execMatrixCommandComplete tile leash ix s) := by
  unfold execMatrixCommandComplete
  grind [canonicalOut_next, State.finishMx_wf, State.mxEffect_mem]

theorem execMatrixClearComplete_wf {tile} : CanonicalOut (execMatrixClearComplete tile s) := by
  unfold execMatrixClearComplete
  grind [canonicalOut_next, State.setTile_mem]

theorem execMcmd_wf {d a b cmd notify} : CanonicalOut (execMcmd d a b cmd notify s) := by
  unfold execMcmd
  grind [canonicalOut_next, State.park_mem, State.send_mem, gate_wf, insTrap_wf, trap_wf]

theorem execMcmdArrival_wf {tile} : CanonicalOut (execMcmdArrival tile s) := by
  unfold execMcmdArrival
  grind [canonicalOut_next, State.record_mem, State.send_mem, State.setTile_mem]

theorem execRemoteReplyArrival_wf {tile slot bank} : CanonicalOut (execRemoteReplyArrival tile slot bank s) := by
  unfold execRemoteReplyArrival
  grind [canonicalOut_next, State.wake_mem]

/-! #### Machine/Queue -/

theorem unitGate_wf {k va kind} {f : State → State} (hf : ∀ t, t.Canonical → (f t).Canonical) : (unitGate k va kind s f).Canonical := by
  unfold unitGate; grind [State.setQueue_mem]

theorem qunitGate_wf {va kind} {f : State → Out} (hf : ∀ t, t.Canonical → CanonicalOut (f t)) : CanonicalOut (qunitGate va kind s f) := by
  unfold qunitGate; grind [canonicalOut_next, State.setQueue_mem]

theorem State.qwrite_wf {q va x} : (s.qwrite q va x).1.Canonical := by
  unfold State.qwrite
  grind [State.qcheck_mem, State.writeTarget_wf]

theorem execQueueSelect_wf {e} : CanonicalOut (execQueueSelect e s) := by
  unfold execQueueSelect
  grind [canonicalOut_next, State.selectQueue_mem]

theorem execFetchBlockRead_wf {k} : CanonicalOut (execFetchBlockRead k s) := by
  unfold execFetchBlockRead
  grind [canonicalOut_next, State.enterBlock_mem]

theorem qdoneWith_wf {f} : CanonicalOut (qdoneWith f s) := by
  unfold qdoneWith
  grind [canonicalOut_next, State.completeQ_mem]

theorem qdone_wf : CanonicalOut (qdone s) := qdoneWith_wf h

theorem qfault_wf {cause} : CanonicalOut (qfault cause s) := by
  unfold qfault
  grind [canonicalOut_next, State.queueFault_mem]

theorem qhold_wf {st h'} : CanonicalOut (qhold st h' s) := by
  unfold qhold
  grind [canonicalOut_next, State.setQueue_mem, State.unserve_mem]

theorem execQib_wf {va len} : CanonicalOut (execQib va len s) := by
  unfold execQib
  grind [canonicalOut_next, qdoneWith_wf, qfault_wf]

theorem execQret_wf : CanonicalOut (execQret s) := by
  unfold execQret
  grind [canonicalOut_next, qdoneWith_wf, qfault_wf]

theorem execQendp_wf : CanonicalOut (execQendp s) := by
  unfold execQendp
  grind [canonicalOut_next, qdoneWith_wf, qfault_wf]

theorem execQloop_wf {count} : CanonicalOut (execQloop count s) := by
  unfold execQloop
  grind [canonicalOut_next, qdoneWith_wf, qfault_wf]

theorem execQendl_wf : CanonicalOut (execQendl s) := by
  unfold execQendl
  grind [canonicalOut_next, qdoneWith_wf, qfault_wf]

theorem execQmark_wf {kind id} : CanonicalOut (execQmark kind id s) := by
  unfold execQmark
  grind [canonicalOut_next, State.setInst_mem, qdone_wf, qdoneWith_wf]

theorem execQpred_wf {cond va x} : CanonicalOut (execQpred cond va x s) := by
  unfold execQpred
  grind [canonicalOut_next, State.qread_mem, qdoneWith_wf, qfault_wf, qunitGate_wf]

theorem execQwr_wf {va x} : CanonicalOut (execQwr va x s) := by
  unfold execQwr
  grind [canonicalOut_next, State.completeQ_mem, State.pollEngine_mem, State.qwrite_wf, qfault_wf, qunitGate_wf]

theorem execQwait_wf {cond va x timeout} : CanonicalOut (execQwait cond va x timeout s) := by
  unfold execQwait
  grind [canonicalOut_next, State.qread_mem, qdone_wf, qfault_wf, qhold_wf, qunitGate_wf]

theorem execQwaitPoll_wf {k} : CanonicalOut (execQwaitPoll k s) := by
  unfold execQwaitPoll
  grind [canonicalOut_next, State.pollQueue_mem]

theorem execQwaitTimeout_wf {k} : CanonicalOut (execQwaitTimeout k s) := by
  unfold execQwaitTimeout
  grind [canonicalOut_next, State.lastPoll_mem, State.queueFault_mem]

theorem State.writeSignal_wf {k} : (s.writeSignal k).Canonical := by
  unfold State.writeSignal
  grind [State.msi_mem, State.pollEngine_mem, State.queueFault_mem, State.qwrite_wf, State.setQueue_mem, unitGate_wf]

theorem execQsig_wf {irq vec va x} : CanonicalOut (execQsig irq vec va x s) := by
  unfold execQsig
  grind [canonicalOut_next, State.completeQ_mem, State.postSignal_mem, State.writeSignal_wf, qhold_wf]

theorem execSignalWrite_wf {k} : CanonicalOut (execSignalWrite k s) := State.writeSignal_wf h

theorem execLaunchAccept_wf {k} : CanonicalOut (execLaunchAccept k s) := by
  unfold execLaunchAccept
  grind [canonicalOut_next, State.accept_mem, State.completeQ_mem, State.queueFault_mem, State.setQueue_mem]

theorem execQdep_wf {kind id} : CanonicalOut (execQdep kind id s) := by
  unfold execQdep
  grind [canonicalOut_next, qdone_wf, qfault_wf, qhold_wf]

theorem execQreplay_wf {w} : CanonicalOut (execQreplay w s) := by
  unfold execQreplay
  grind [canonicalOut_next, State.startReplay_mem, qdone_wf, qhold_wf]

theorem State.releaseQueue_wf {k} : (s.releaseQueue k).Canonical := by
  unfold State.releaseQueue
  grind [State.completeQ_mem, State.postSignal_mem, State.writeSignal_wf]

/-! #### Machine/Place -/

theorem execDeterministicReservation_wf {n} : CanonicalOut (execDeterministicReservation n s) := by
  unfold execDeterministicReservation
  grind [canonicalOut_next, State.setLaunch_mem]

theorem execTaskPlace_wf {n} : CanonicalOut (execTaskPlace n s) := by
  unfold execTaskPlace
  grind [canonicalOut_next, State.placeTask_mem]

theorem State.stageBytes_wf {t' bs src} : (s.stageBytes t' bs src).Canonical := by
  unfold State.stageBytes
  grind [State.setTask_mem, State.storeBytes_wf, State.traceBulk_mem, tagWords_wf]

theorem State.stageSeeds_wf {l t'} : (s.stageSeeds l t').Canonical := by
  unfold State.stageSeeds
  grind [State.setTask_mem, State.storeBytes_wf, State.traceBulk_mem, seedLanes_mem, tagWords_wf]

theorem State.stageGranules_wf {l id n} : (State.stageGranules l id n s).Canonical := by
  induction n generalizing s with
  | zero => exact h
  | succ n ih =>
    unfold State.stageGranules
    split
    · exact h
    · split
      · exact h
      · dsimp only
        split <;> grind [State.runLocs_mem, State.meetAll_mem, State.recordPoison_mem, State.failStaging_mem, State.stageBytes_wf,
          State.setTask_mem, State.parkRequest_mem]

theorem State.stageOne_wf {id} : (s.stageOne id).Canonical := by
  unfold State.stageOne
  grind [State.stageGranules_wf]

theorem execFootprintStagingComplete_wf {id} : CanonicalOut (execFootprintStagingComplete id s) := by
  unfold execFootprintStagingComplete
  grind [canonicalOut_next, State.stageGranules_wf, State.stageSeeds_wf]

theorem execTaskRetire_wf {id} : CanonicalOut (execTaskRetire id s) := by
  unfold execTaskRetire
  grind [canonicalOut_next, State.clearMatrix_mem]

theorem execResultDigest_wf {n} : CanonicalOut (execResultDigest n s) := by
  unfold execResultDigest
  grind [canonicalOut_next, State.digestSnaps_mem]

theorem State.releaseQueues_wf : s.releaseQueues.Canonical := by
  unfold State.releaseQueues
  refine foldl_wf (fun s k h => ?_) h
  exact State.releaseQueue_wf h

theorem State.completeLaunch_wf {l} : (s.completeLaunch l).Canonical := by
  unfold State.completeLaunch
  grind [State.releaseQueues_wf, State.setInst_mem]

theorem State.completeInst_wf {i} : (s.completeInst i).Canonical := by
  unfold State.completeInst
  grind [State.closePeriod_mem, State.releaseQueues_wf, State.setInst_mem]

theorem execInstanceComplete_wf {t' kind id} : CanonicalOut (execInstanceComplete t' kind id s) := by
  unfold execInstanceComplete
  grind [canonicalOut_next, State.completeInst_wf, State.completeLaunch_wf]

theorem execLevelQueryComplete_wf {t'} : CanonicalOut (execLevelQueryComplete t' s) := by
  unfold execLevelQueryComplete
  grind [canonicalOut_next, State.setTenant_mem]

/-! #### Machine/Sync -/

theorem State.redOverlap_wf {x} : (s.redOverlap x).Canonical := by
  unfold State.redOverlap
  grind [State.check_mem, State.drainOverlap_wf]

theorem redIssue_wf {minor rel acq scope a b} : CanonicalOut (redIssue minor rel acq scope a b s) := by
  unfold redIssue
  grind [canonicalOut_next, State.drain_wf, State.hold_mem, State.redOverlap_wf, State.retire_mem, State.setTile_mem, gate_wf,
    releaseGate_wf, trapAt_wf]

theorem execReductionPerform_wf {ix} : CanonicalOut (execReductionPerform ix s) := by
  unfold execReductionPerform
  grind [canonicalOut_next, State.addWide_mem, State.dropRed_mem, State.endRed_mem, State.meet_mem, State.parkRequest_mem,
    State.recordPoison_mem, State.redCheck_mem, State.setTile_mem, State.traceAt_mem, State.writeTarget_wf]

theorem wacAt_wf {minor d a k} : CanonicalOut (wacAt minor d a k s) := by
  unfold wacAt
  grind [canonicalOut_next, State.finishLong_mem, State.openWindow_mem, State.park_mem, State.wacAct_mem, access_wf, gate_wf, trapAt_wf]

theorem execBreg_wf {d a b} : CanonicalOut (execBreg d a b s) := by
  simp only [execBreg]
  split
  · exact trap_wf h
  · split
    · exact ret_wf h
    · refine ret_wf (canonical_of_mem_eq (State.setBar_mem ..) ?_)
      exact canonical_of_mem_eq (foldl_mem (fun _ _ => State.discardArrival_mem ..) ..) h

theorem barGate_wf {a} {f : Nat → BarSlot → State → Out} (hf : ∀ n q t, t.Canonical → CanonicalOut (f n q t)) :
    CanonicalOut (barGate a s f) := by
  unfold barGate; grind [trap_wf]

theorem barArrive_wf {minor d a} : CanonicalOut (barArrive minor d a s) := by
  unfold barArrive
  grind [canonicalOut_next, State.arrive_mem, State.drain_wf, State.park_mem, barGate_wf, rlxGate_wf]

theorem execBwait_wf {a b} : CanonicalOut (execBwait a b s) := by
  unfold execBwait
  grind [canonicalOut_next, State.barWait_mem, State.park_mem, barGate_wf]

theorem execBtest_wf {d a} : CanonicalOut (execBtest d a s) := by
  unfold execBtest
  grind [canonicalOut_next, barGate_wf, ret_wf]

theorem execBarrierArrival_wf {ix} : CanonicalOut (execBarrierArrival ix s) := by
  simp only [execBarrierArrival]
  split
  · split
    · exact h
    · split_ifs
      · exact canonical_of_mem_eq (State.discardArrival_mem ..) h
      · exact h
      · exact canonical_of_mem_eq (foldl_mem (fun _ _ => State.send_mem ..) ..) h
  · exact h

theorem execBarrierRelease_wf {ix} : CanonicalOut (execBarrierRelease ix s) := by
  simp only [execBarrierRelease]
  split
  · split
    · exact h
    · split
      · exact h
      · refine foldl_wf (fun s r h => ?_) ?_
        · grind [State.arrive_mem, State.barWait_mem]
        · grind [State.sendArrival_mem, State.setBar_mem]
  · exact h

theorem execTreeset_wf {a} : CanonicalOut (execTreeset a s) := by
  unfold execTreeset
  grind [canonicalOut_next, State.retire_mem, State.setMe_mem, trap_wf]

theorem execSend_wf {a} : CanonicalOut (execSend a s) := by
  unfold execSend
  grind [canonicalOut_next, State.park_mem, State.sendUp_mem, trap_wf]

theorem execRsrv_wf {d a} : CanonicalOut (execRsrv d a s) := by
  unfold execRsrv
  grind [canonicalOut_next, State.park_mem, State.serveTree_mem, trap_wf]

theorem execTreeDeliverArrival_wf {ix} : CanonicalOut (execTreeDeliverArrival ix s) := by
  simp only [execTreeDeliverArrival]
  repeat' split
  all_goals grind [canonicalOut_next, State.refuse_mem, State.setBank_mem, State.finishRsrv_mem, State.wake_mem, State.serveTree_mem]

theorem execTreeDeliverRetry_wf {tile slot bank} : CanonicalOut (execTreeDeliverRetry tile slot bank s) := by
  unfold execTreeDeliverRetry
  grind [canonicalOut_next, State.sendUp_mem, State.setBank_mem]

/-! #### Machine/Preempt -/

theorem execLadderStart_wf {n} : CanonicalOut (execLadderStart n s) := by
  unfold execLadderStart
  grind [canonicalOut_next, State.startLadder_mem]

theorem execRung2Save_wf {k} : CanonicalOut (execRung2Save k s) := by
  unfold execRung2Save
  grind [canonicalOut_next, State.applyRung2_mem]

theorem execRung3Reset_wf {k} : CanonicalOut (execRung3Reset k s) := by
  simp only [execRung3Reset]
  split
  · split_ifs
    · exact h
    · refine canonical_of_mem_eq (State.unserve_mem ..) (foldl_wf (fun s t h => ?_) (canonical_of_mem_eq (State.markRung_mem ..) h))
      exact canonical_of_mem_eq (State.resetTask_mem ..) h
    · exact h
  · exact h

theorem putBytesAt_wf {l bs} : (putBytesAt l bs s).Canonical := by
  induction l generalizing bs s with
  | nil => exact h
  | cons p l ih => exact ih (State.storeBytes_wf h _ _)

theorem State.writeFrame_wf {t : State} {tenant at_ bs} (e : s.writeFrame tenant at_ bs = some t) : t.Canonical := by
  unfold State.writeFrame at e; grind [State.runLocs_mem, putBytesAt_wf]

theorem execQuantumExpiry_wf {tile slot} : CanonicalOut (execQuantumExpiry tile slot s) := by
  unfold execQuantumExpiry
  grind [canonicalOut_next, State.reloadQuantum_mem, State.setTask_mem]

theorem execTaskSaveComplete_wf {id} : CanonicalOut (execTaskSaveComplete id s) := by
  simp only [execTaskSaveComplete]
  repeat' split
  all_goals grind [canonicalOut_next, State.quantumSwitch_mem, State.saveShort_mem, State.frame_mem, State.writeFrame_wf,
    State.saveTask_mem]

theorem State.lookAgain_wf {quantum tile slot} : (s.lookAgain quantum tile slot).Canonical := by
  unfold State.lookAgain
  grind [State.arrive_mem, State.barWait_mem, State.copyWake_mem, State.resumeLdt_wf, State.serveTree_mem]

theorem State.refill_wf {v} : (s.refill v).Canonical := by
  refine canonical_of_mem_eq (State.setTile_mem ..) (foldl_wf (fun s i h => ?_) (State.storeBytes_wf h _ _))
  grind [State.changeTag_wf]

theorem execTaskRestore_wf {id} : CanonicalOut (execTaskRestore id s) := by
  have again (u : State) (hu : u.Canonical) (v : Saved) :
      (v.task.slots.foldl (fun s k => s.lookAgain v.quantum v.task.tile k) (u.takeBack v.task v.quantum)).Canonical :=
    foldl_wf (fun _ _ h => State.lookAgain_wf h) (canonical_of_mem_eq (State.takeBack_mem ..) hu)
  unfold execTaskRestore
  grind [canonicalOut_next, State.refill_wf, State.refillMx_mem, State.unsave_mem]

theorem State.killBank_wf {id r} : (s.killBank id r).Canonical := by
  unfold State.killBank
  grind [State.cancelResv_wf, State.setBank_mem, State.unbindAll_wf, State.withdraw_mem]

theorem State.killSlot_wf {id at_ tile slot} : (s.killSlot id at_ tile slot).Canonical := by
  unfold State.killSlot
  grind [State.killBank_wf, State.setCtx_mem]

theorem State.discardTask_wf {t away breads} : (s.discardTask t away breads).Canonical := by
  unfold State.discardTask
  extract_lets id at_ waiting pins s₁ s₂ s₃ s₄
  have h₄ : s₄.Canonical := foldl_wf (fun _ _ h => State.unpinPage_wf h) (foldl_wf (fun _ _ h => State.killSlot_wf h) h)
  split <;> exact h₄

theorem execKillQuiet_wf {id} : CanonicalOut (execKillQuiet id s) := by
  unfold execKillQuiet
  grind [canonicalOut_next, State.discardTask_wf, State.endKill_mem]

theorem execStarvationWatchdog_wf {n} : CanonicalOut (execStarvationWatchdog n s) := by
  unfold execStarvationWatchdog
  grind [canonicalOut_next, State.applyRung2_mem, State.setLaunch_mem, State.setQueue_mem]

theorem execParkWatchdog_wf {tile slot bank} : CanonicalOut (execParkWatchdog tile slot bank s) := by
  unfold execParkWatchdog
  grind [canonicalOut_next, State.record_mem, State.setBank_mem]

theorem execLaunchStallWatchdog_wf {n} : CanonicalOut (execLaunchStallWatchdog n s) := by
  unfold execLaunchStallWatchdog
  grind [canonicalOut_next, State.killLaunch_mem, State.record_mem, State.setLaunch_mem]

/-! #### Machine/Boot -/

theorem execPowerOnReset_wf : CanonicalOut (execPowerOnReset s) := Memory.wf_filter _ h

theorem execPowerGood_wf : CanonicalOut (execPowerGood s) := by
  unfold execPowerGood
  grind [canonicalOut_next]

theorem execCctSelect_wf : CanonicalOut (execCctSelect s) := by
  unfold execCctSelect
  grind [canonicalOut_next, State.bootFail_mem]

theorem State.loadImage_wf {image} : (s.loadImage image).Canonical := by
  unfold State.loadImage
  exact foldl_wf (fun s a h => by grind [State.storeBytes_wf]) h

theorem execFirmwareImageLoad_wf : CanonicalOut (execFirmwareImageLoad s) := by
  unfold execFirmwareImageLoad
  grind [canonicalOut_next, State.bootFail_mem, State.loadImage_wf]

theorem execMemoryTraining_wf {oneLane dead} : CanonicalOut (execMemoryTraining oneLane dead s) := by
  have lanes (l : List (Nat × Nat)) :
      (l.foldl (fun s p => s.setChannel p.1 { s.channel p.1 with degr := true, lane := p.2 }) s).Canonical :=
    canonical_of_mem_eq (foldl_mem (fun _ _ => State.setChannel_mem ..) ..) h
  simp only [execMemoryTraining]
  split
  · exact h
  · split
    · exact lanes _
    · exact canonical_of_mem_eq (State.bootFail_mem ..) (lanes _)

theorem execMemoryClear_wf {uncorrectable} : CanonicalOut (execMemoryClear uncorrectable s) := by
  unfold execMemoryClear
  split
  · exact h
  · split
    · exact canonical_of_mem_eq (State.bootFail_mem ..) h
    · exact Memory.wf_filter _ h

theorem execPcieLinkTraining_wf : CanonicalOut (execPcieLinkTraining s) := by
  unfold execPcieLinkTraining
  grind [canonicalOut_next]

theorem execConfigurationRequest_wf {fn resize} : CanonicalOut (execConfigurationRequest fn resize s) := by
  unfold execConfigurationRequest
  grind [canonicalOut_next, State.answer_mem]

theorem execIvtctlWrite_wf {fn val} : CanonicalOut (execIvtctlWrite fn val s) := by
  unfold execIvtctlWrite
  grind [canonicalOut_next, State.ivtctl_mem]

theorem execPtmExchange_wf {hostTime} : CanonicalOut (execPtmExchange hostTime s) := by
  unfold execPtmExchange
  grind [canonicalOut_next, State.ptm_mem]

theorem execPtmRepeat_wf {hostTime} : CanonicalOut (execPtmRepeat hostTime s) := by
  unfold execPtmRepeat
  grind [canonicalOut_next, State.ptm_mem]

theorem execDtbOffsetCheck_wf {offsetNs heldNs} : CanonicalOut (execDtbOffsetCheck offsetNs heldNs s) := by
  unfold execDtbOffsetCheck
  grind [canonicalOut_next, State.record_mem]

theorem execThermalThrottle_wf {temp} : CanonicalOut (execThermalThrottle temp s) := by
  unfold execThermalThrottle
  grind [canonicalOut_next, State.record_mem]

theorem execThrottleExit_wf : CanonicalOut (execThrottleExit s) := by
  unfold execThrottleExit
  grind [canonicalOut_next]

/-! #### Machine/Burst -/

theorem enterBread_wf {c} : CanonicalOut (enterBread c s) := by
  unfold enterBread
  grind [canonicalOut_next, State.park_mem, State.retire_mem, State.setTile_mem]

theorem State.breadCmd_wf {r v x0 x1 pc x} : (s.breadCmd r v x0 x1 pc x).1.Canonical := by
  unfold State.breadCmd
  grind [State.pinRange_wf]

theorem execBread_wf {a b x0 x1} : CanonicalOut (execBread a b x0 x1 s) := by
  unfold execBread
  grind [canonicalOut_next, State.breadCmd_wf, State.usePorts_wf, enterBread_wf, gate_wf, insTrap_wf, parkDesc_wf, readDesc_wf, trapAt_wf,
    vecGate_wf]

theorem State.resumeDesc_wf {r} : (s.resumeDesc r).Canonical := by
  unfold State.resumeDesc
  grind [State.breadCmd_wf, State.freePorts_wf, State.parkRequest_mem, State.readDescAgain_wf, State.refuse_mem, State.setBank_mem,
    State.setTile_mem, State.wake_mem]

theorem execBteCommandEntry_wf {tile ix} : CanonicalOut (execBteCommandEntry tile ix s) := by
  unfold execBteCommandEntry
  grind [canonicalOut_next, State.setTile_mem, State.wake_mem]

theorem execBurstDataReturn_wf {tile ix burst} : CanonicalOut (execBurstDataReturn tile ix burst s) := by
  unfold execBurstDataReturn
  grind [canonicalOut_next, State.requestBurst_mem, State.returnBurst_mem]

theorem execBurstBirth_wf {tile slot} : CanonicalOut (execBurstBirth tile slot s) := by
  unfold execBurstBirth
  grind [canonicalOut_next, State.birth_mem]

theorem State.completeBread_wf {tile c} : (s.completeBread tile c).Canonical := by
  refine foldl_wf (fun _ _ h => State.unpinPage_wf h) ?_
  grind [wakeCopies_mem, State.engineWrite_wf, State.setTile_mem]

theorem execBteCommandComplete_wf {tile ix} : CanonicalOut (execBteCommandComplete tile ix s) := by
  unfold execBteCommandComplete
  grind [canonicalOut_next, State.completeBread_wf, State.completeCopy_wf]

/-! #### Machine/Scalar -/

theorem alu_wf {lat f d a b} : CanonicalOut (alu lat f d a b s) := done_wf h

theorem aluI_wf {f d a} : CanonicalOut (aluI f d a s) := done_wf h

theorem branch_wf {c disp} : CanonicalOut (branch c disp s) := by
  unfold branch
  grind [canonicalOut_next, State.jump_mem, State.retire_mem]

theorem jumpReg_wf {t' link} : CanonicalOut (jumpReg t' link s) := by
  unfold jumpReg
  grind [canonicalOut_next, State.jump_mem, State.wgLat_mem, insTrap_wf]

theorem execDbnz_wf {a o} : CanonicalOut (execDbnz a o s) := by
  unfold execDbnz
  grind [canonicalOut_next, State.wgLat_mem, branch_wf]

theorem execJ_wf {i} : CanonicalOut (execJ i s) := by
  unfold execJ
  grind [canonicalOut_next, State.jump_mem]

theorem execJl_wf {i} : CanonicalOut (execJl i s) := by
  unfold execJl
  grind [canonicalOut_next, State.jump_mem, State.wgLat_mem]

theorem execCNop_wf : CanonicalOut (execCNop s) := by
  unfold execCNop
  grind [canonicalOut_next, State.retire_mem]

theorem execCJ_wf {o} : CanonicalOut (execCJ o s) := by
  unfold execCJ
  grind [canonicalOut_next, State.jump_mem]

/-! #### Machine/Vector -/

theorem vmapN_wf {w lat srcs d m f} : CanonicalOut (vmapN w lat srcs d m f s) :=
  vecGate_wf h fun _ h => withFlags_wf h fun _ _ h => vdone_wf h

theorem vmap2_wf {w lat d a b m f} : CanonicalOut (vmap2 w lat d a b m f s) := vmapN_wf h

theorem vmap1_wf {w lat d a m f} : CanonicalOut (vmap1 w lat d a m f s) := vmapN_wf h

theorem vreduce_wf {w d a m empty f} : CanonicalOut (vreduce w d a m empty f s) := by
  unfold vreduce
  grind [canonicalOut_next, vecGate_wf, vsdone_wf, withFlags_wf]

theorem vplain_wf {lat srcs d f} : CanonicalOut (vplain lat srcs d f s) := vecGate_wf h fun _ h => vdone_wf h

/-! #### Machine/Sfu -/

theorem vsfu_wf {minor d a m t'} : CanonicalOut (vsfu minor d a m t' s) := vmap1_wf h

end Steps

/-! ### The sequence pool -/

/-- An action on a pool that keeps the memory canonical where it succeeds. -/
def Sq.Keeps {α : Type} (m : Sq α) : Prop := ∀ s a t, s.Canonical → m s = .ok (a, t) → t.Canonical

namespace Sq

theorem keeps_pure {α : Type} {a : α} : Keeps (pure a : Sq α) := by
  rintro s b t h e
  cases e
  exact h

theorem keeps_error {α : Type} {c : SqFail} : Keeps (fun _ => .error c : Sq α) := by
  rintro s b t h e
  cases e

theorem keeps_bind {α β : Type} {m : Sq α} {f : α → Sq β} (hm : Keeps m) (hf : ∀ a, Keeps (f a)) : Keeps (m >>= f) := by
  intro s b t h e
  change (m s >>= fun p => f p.1 p.2) = .ok (b, t) at e
  cases hs : m s with
  | error c => rw [hs] at e; cases e
  | ok p =>
    rw [hs] at e
    exact hf p.1 p.2 b t (hm s p.1 p.2 h hs) e

theorem keeps_get_bind {β : Type} {f : State → Sq β} (hf : ∀ s, s.Canonical → Keeps (f s)) : Keeps (get >>= f) :=
  fun s b t h e => hf s h s b t h e

theorem keeps_set {s : State} (h : s.Canonical) : Keeps (set s : Sq PUnit) := by
  rintro u b t _ e
  cases e
  exact h

theorem keeps_modify {f : State → State} (hf : ∀ s, s.Canonical → (f s).Canonical) : Keeps (modify f : Sq PUnit) := by
  rintro s b t h e
  cases e
  exact hf s h

theorem keeps_ite {α : Type} {c : Prop} [Decidable c] {m n : Sq α} (hm : Keeps m) (hn : Keeps n) : Keeps (if c then m else n) := by
  split <;> assumption

end Sq

section SqSteps
variable {p : Nat}
open Sq

theorem sqCheck_keeps {b : Bool} {c : Nat} : Sq.Keeps (sqCheck b c) := by
  intro s a t h e
  unfold sqCheck at e
  split at e
  · cases e
    exact h
  · cases e

theorem sqLoad_keeps {va n} : Sq.Keeps (sqLoad p va n) := by
  intro s a t h e
  unfold sqLoad at e
  grind [State.poolData_mem]

theorem sqStore_keeps {va n v} : Sq.Keeps (sqStore p va n v) := by
  intro s a t h e
  unfold sqStore at e
  grind [State.poolTr_mem, State.store_wf]

theorem descWords_keeps {va n} : Sq.Keeps (descWords p va n) := by
  induction n generalizing va with
  | zero => exact keeps_pure
  | succ n ih => exact keeps_bind sqLoad_keeps fun _ => keeps_bind ih fun _ => keeps_pure

theorem putWords_keeps {va l} : Sq.Keeps (putWords p va l) := by
  induction l generalizing va with
  | nil => exact keeps_pure
  | cons x l ih => exact keeps_bind sqStore_keeps fun _ => ih

theorem getDesc_keeps {sid} : Sq.Keeps (getDesc p sid) :=
  keeps_get_bind fun _ _ => keeps_bind descWords_keeps fun _ => keeps_pure

theorem putDesc_keeps {sid d} : Sq.Keeps (putDesc p sid d) := keeps_get_bind fun _ _ => putWords_keeps

theorem getPage_keeps {k} : Sq.Keeps (getPage p k) := keeps_get_bind fun _ _ => sqLoad_keeps

theorem putPage_keeps {k w} : Sq.Keeps (putPage p k w) := keeps_get_bind fun _ _ => sqStore_keeps

theorem dropPage_keeps {k} : Sq.Keeps (dropPage p k) := by
  refine keeps_bind getPage_keeps fun w => keeps_ite (keeps_bind putPage_keeps fun _ => keeps_modify fun s h => ?_) putPage_keeps
  exact canonical_of_mem_eq (State.freePage_mem ..) h

theorem addPage_keeps {k} : Sq.Keeps (addPage p k) := keeps_bind getPage_keeps fun _ => putPage_keeps

theorem sqEach_keeps {α : Type} {f : α → Sq Unit} (hf : ∀ a, Sq.Keeps (f a)) {l : List α} : Sq.Keeps (sqEach f l) := by
  induction l with
  | nil => exact keeps_pure
  | cons x l ih => exact keeps_bind (hf x) fun _ => ih

theorem cowCheck_keeps {d lo hi l} : Sq.Keeps (cowCheck p d lo hi l) := by
  induction l with
  | nil => exact keeps_pure
  | cons j l ih => exact keeps_ite (keeps_bind getPage_keeps fun _ => keeps_ite keeps_error ih) ih

theorem cow_keeps {d lo hi} : Sq.Keeps (cow p d lo hi) := cowCheck_keeps

theorem growTo_keeps {iord need f d new} : Sq.Keeps (growTo p iord need f d new) := by
  induction f generalizing d new with
  | zero =>
    intro s a t h e
    cases e
    exact h
  | succ f ih =>
    intro s a t h e
    unfold growTo at e
    split at e
    · cases e
      exact h
    · split at e
      · cases e
        exact h
      · dsimp only at e
        split at e
        · cases e
          exact h
        · exact ih _ _ _ (canonical_of_mem_eq (State.setPool_mem ..) h) e

theorem sqRes_keeps {sid n d} : Sq.Keeps (sqRes p sid n d) := by
  refine keeps_bind cow_keeps fun _ => keeps_get_bind fun s h => keeps_bind growTo_keeps fun r => ?_
  cases r with
  | error c => exact keeps_bind (keeps_set h) fun _ => keeps_pure
  | ok x => exact keeps_bind (sqEach_keeps fun _ => putPage_keeps) fun _ => keeps_bind putDesc_keeps fun _ => keeps_pure

theorem putBytes_keeps {f va n v} : Sq.Keeps (putBytes p f va n v) := by
  induction f generalizing va n v with
  | zero => exact keeps_pure
  | succ f ih => exact keeps_ite keeps_pure (keeps_bind sqStore_keeps fun _ => ih)

theorem sqSt_keeps {rot tok n vlq data numctl d} : Sq.Keeps (sqSt p rot tok n vlq data numctl d) := by
  refine keeps_get_bind fun s h => keeps_bind sqCheck_keeps fun _ => keeps_bind getPage_keeps fun w => keeps_bind sqCheck_keeps fun _ =>
    keeps_bind sqCheck_keeps fun _ => keeps_bind sqCheck_keeps fun _ => keeps_bind cow_keeps fun _ => ?_
  extract_lets len raw f q
  split
  · exact keeps_error
  · exact keeps_bind putBytes_keeps fun _ => keeps_pure

theorem closeToks_keeps {d commit l} : Sq.Keeps (closeToks p d commit l) := by
  induction l with
  | nil => exact keeps_pure
  | cons t l ih => exact keeps_bind getPage_keeps fun _ => keeps_bind putPage_keeps fun _ => ih

theorem openToks_keeps {d l} : Sq.Keeps (openToks p d l) := by
  induction l with
  | nil => exact keeps_pure
  | cons t l ih => exact keeps_bind getPage_keeps fun _ => keeps_bind sqCheck_keeps fun _ => ih

theorem advanceLc_keeps {d f lc} : Sq.Keeps (advanceLc p d f lc) := by
  induction f generalizing lc with
  | zero => exact keeps_pure
  | succ f ih => exact keeps_ite (keeps_bind getPage_keeps fun _ => keeps_ite ih keeps_pure) keeps_pure

theorem sqClose_keeps {sid commit tok n d} : Sq.Keeps (sqClose p sid commit tok n d) :=
  keeps_bind sqCheck_keeps fun _ => keeps_bind openToks_keeps fun _ => keeps_bind cow_keeps fun _ => keeps_bind closeToks_keeps fun _ =>
    keeps_bind advanceLc_keeps fun _ => keeps_bind putDesc_keeps fun _ => keeps_pure

theorem sqLen_keeps {tok sel d} : Sq.Keeps (sqLen p tok sel d) := keeps_get_bind fun _ _ => keeps_pure

theorem anyFull_keeps {d l} : Sq.Keeps (anyFull p d l) := by
  induction l with
  | nil => exact keeps_pure
  | cons j l ih => exact keeps_bind getPage_keeps fun _ => keeps_ite keeps_pure ih

theorem sqFork_keeps {child pre d} : Sq.Keeps (sqFork p child pre d) :=
  keeps_get_bind fun _ _ => keeps_bind sqCheck_keeps fun _ => keeps_bind sqCheck_keeps fun _ => keeps_bind getDesc_keeps fun _ =>
    keeps_ite keeps_pure <| keeps_bind anyFull_keeps fun _ => keeps_ite keeps_pure <|
      keeps_bind (sqEach_keeps fun _ => addPage_keeps) fun _ => keeps_bind putDesc_keeps fun _ => keeps_pure

theorem copyGranules_keeps {n src dst} : Sq.Keeps (copyGranules p n src dst) := by
  induction n generalizing src dst with
  | zero => exact keeps_pure
  | succ n ih => exact keeps_bind sqLoad_keeps fun _ => keeps_bind sqStore_keeps fun _ => ih

theorem sqCow_keeps {sid tok d} : Sq.Keeps (sqCow p sid tok d) := by
  refine keeps_get_bind fun s h => keeps_bind sqCheck_keeps fun _ => keeps_bind getPage_keeps fun w =>
    keeps_ite keeps_pure (keeps_ite keeps_pure ?_)
  split
  · exact keeps_pure
  · refine keeps_bind (keeps_modify fun s h => canonical_of_mem_eq (State.setPool_mem ..) h) fun _ => ?_
    exact keeps_bind copyGranules_keeps fun _ => keeps_bind putPage_keeps fun _ => keeps_bind putPage_keeps fun _ =>
      keeps_bind putDesc_keeps fun _ => keeps_pure

theorem sqTrim_keeps {sid tok d} : Sq.Keeps (sqTrim p sid tok d) :=
  keeps_bind sqCheck_keeps fun _ => keeps_ite keeps_pure <|
    keeps_bind (sqEach_keeps fun _ => dropPage_keeps) fun _ => keeps_bind putDesc_keeps fun _ => keeps_pure

theorem sqRel_keeps {sid d} : Sq.Keeps (sqRel p sid d) :=
  keeps_bind (sqEach_keeps fun _ => dropPage_keeps) fun _ => keeps_bind putDesc_keeps fun _ => keeps_pure

theorem listed_keeps {d l} : Sq.Keeps (listed p d l) := by
  induction l with
  | nil => exact keeps_pure
  | cons t l ih => exact keeps_bind getPage_keeps fun _ => keeps_bind ih fun _ => keeps_pure

theorem sqRd_keeps {r port tok n d} : Sq.Keeps (sqRd p r port tok n d) := by
  refine keeps_get_bind fun s h => keeps_bind sqCheck_keeps fun _ => keeps_bind listed_keeps fun ts =>
    keeps_bind (keeps_modify fun s h => ?_) fun _ => keeps_pure
  grind [State.pin_wf, State.setBank_mem]

theorem sqRun_keeps {c} : Sq.Keeps (sqRun p c) := by
  refine keeps_bind getDesc_keeps fun d => keeps_bind sqCheck_keeps fun _ => ?_
  split
  · exact keeps_bind sqRes_keeps fun _ => keeps_pure
  · exact keeps_bind sqSt_keeps fun _ => keeps_pure
  · exact keeps_bind sqSt_keeps fun _ => keeps_pure
  · exact keeps_bind sqClose_keeps fun _ => keeps_pure
  · exact keeps_bind sqClose_keeps fun _ => keeps_pure
  · exact keeps_bind sqLen_keeps fun _ => keeps_pure
  · exact keeps_bind sqFork_keeps fun _ => keeps_pure
  · exact keeps_bind sqRel_keeps fun _ => keeps_pure
  · exact keeps_bind sqTrim_keeps fun _ => keeps_pure
  · exact keeps_bind sqRd_keeps fun _ => keeps_pure
  · exact keeps_bind sqCow_keeps fun _ => keeps_pure

end SqSteps

/-! ### The units, the events and the agents -/

section Steps
variable {s : State} (h : s.Canonical)
include h

/-! #### Machine/Seq -/

theorem execSeqCommandExecute_wf {p} : CanonicalOut (execSeqCommandExecute p s) := by
  unfold execSeqCommandExecute
  split
  · exact h
  · dsimp only
    split
    · next e =>
      have ht := sqRun_keeps _ _ _ (canonical_of_mem_eq (State.setPool_mem ..) h) e
      grind [canonicalOut_next, State.freePorts_wf, State.setBank_mem, State.wake_mem]
    · grind [canonicalOut_next, State.refuse_mem, State.setBank_mem, State.setPool_mem]

theorem seqOp_wf {minor dest data srcs a b} : CanonicalOut (seqOp minor dest data srcs a b s) := by
  unfold seqOp
  grind [canonicalOut_next, State.drain_wf, State.park_mem, State.setMe_mem, State.setPool_mem, gate_wf, insTrap_wf, rlxGate_wf, trapAt_wf]

theorem execSqst_wf {d a b} : CanonicalOut (execSqst d a b s) := by
  unfold execSqst
  grind [canonicalOut_next, seqOp_wf, vecGate_wf]

theorem execSqstr_wf {d a b} : CanonicalOut (execSqstr d a b s) := by
  unfold execSqstr
  grind [canonicalOut_next, seqOp_wf, vecGate_wf]

theorem State.endStream_wf {r k} : (s.endStream r k).Canonical := by
  unfold State.endStream
  grind [State.setBank_mem, State.unpin_wf]

theorem execSqunpin_wf {a} : CanonicalOut (execSqunpin a s) := by
  unfold execSqunpin
  grind [canonicalOut_next, State.endStream_wf, State.retire_mem, gate_wf, insTrap_wf, trapAt_wf]

theorem execStreamDelivery_wf {tile slot port} : CanonicalOut (execStreamDelivery tile slot port s) := by
  simp only [execStreamDelivery]
  repeat' split
  all_goals grind [canonicalOut_next, recordBytes_mem, State.record_mem, State.setBank_mem, State.unpin_wf, State.rouse_mem]

/-! #### Machine/Chan -/

theorem execChbind_wf {d a} : CanonicalOut (execChbind d a s) := by
  unfold execChbind
  grind [canonicalOut_next, State.send_mem, State.setMe_mem, insTrap_wf, ret_wf, trap_wf]

theorem execChunb_wf {a} : CanonicalOut (execChunb a s) := by
  unfold execChunb
  grind [canonicalOut_next, State.park_mem, State.retire_mem, State.unbind_wf, insTrap_wf]

theorem execChstat_wf {d a} : CanonicalOut (execChstat d a s) := by
  unfold execChstat
  grind [canonicalOut_next, insTrap_wf, ret_wf]

theorem execBindNoticeArrival_wf {ix} : CanonicalOut (execBindNoticeArrival ix s) := by
  unfold execBindNoticeArrival
  grind [canonicalOut_next, State.record_mem, State.send_mem, State.setBank_mem]

theorem execCreditArrival_wf {ix} : CanonicalOut (execCreditArrival ix s) := by
  unfold execCreditArrival
  grind [canonicalOut_next, State.rouse_mem, State.setBank_mem]

theorem execChannelMessageArrival_wf {ix} : CanonicalOut (execChannelMessageArrival ix s) := by
  unfold execChannelMessageArrival
  grind [canonicalOut_next, State.record_mem, State.rouse_mem, State.setBank_mem]

/-! #### Machine/Mbox -/

theorem mboxCtl_wf {mask w} {f : State → Out} (hf : ∀ t, t.Canonical → CanonicalOut (f t)) : CanonicalOut (mboxCtl mask w s f) := by
  unfold mboxCtl; grind [trap_wf, insTrap_wf]

theorem execMbwr_wf {d a} : CanonicalOut (execMbwr d a s) := by
  unfold execMbwr
  grind [canonicalOut_next, State.hold_mem, State.retire_mem, State.store_wf, State.usePorts_wf, gate_wf, trapAt_wf, vecGate_wf]

theorem mbpub_wf {copy a b} : CanonicalOut (mbpub copy a b s) := by
  unfold mbpub
  grind [canonicalOut_next, State.retire_mem, State.setMbox_mem, gate_wf, mboxCtl_wf, trapAt_wf]

theorem vecGates_wf {l} {f : State → Out} (hf : ∀ t, t.Canonical → CanonicalOut (f t)) : CanonicalOut (vecGates l s f) := by
  induction l generalizing s with
  | nil => exact hf s h
  | cons d l ih => exact vecGate_wf h fun _ h => ih h

theorem execMbrd_wf {d a b} : CanonicalOut (execMbrd d a b s) := by
  refine gate_wf h fun s h => mboxCtl_wf h fun s h => ?_
  split
  · exact trapAt_wf h
  · dsimp only
    split
    · exact trapAt_wf h
    · refine vecGates_wf h fun s h => canonical_of_mem_eq (State.park_mem ..) (foldl_wf (fun s x h => ?_) h)
      exact canonical_of_mem_eq (State.useCredit_mem ..) h

theorem execMailboxPublicationArrival_wf {k} : CanonicalOut (execMailboxPublicationArrival k s) := by
  unfold execMailboxPublicationArrival
  grind [canonicalOut_next, State.record_mem, State.setMbox_mem]

theorem execMailboxFlip_wf {k} : CanonicalOut (execMailboxFlip k s) := by
  unfold execMailboxFlip
  grind [canonicalOut_next, State.setMbox_mem, State.storeBytes_wf]

theorem execMbpubcCopyComplete_wf {k} : CanonicalOut (execMbpubcCopyComplete k s) := by
  unfold execMbpubcCopyComplete
  grind [canonicalOut_next, State.setMbox_mem]

theorem execMailboxReadTransaction_wf {tile slot bank} : CanonicalOut (execMailboxReadTransaction tile slot bank s) := by
  have credits (t : State) (r : BankRef) (d n) : ((List.range n).foldl (fun s j => s.backCredit r (.v (d + j))) t).mem = t.mem :=
    foldl_mem (fun _ _ => State.backCredit_mem ..) _ _
  unfold execMailboxReadTransaction
  dsimp only
  split
  · split
    · split_ifs
      · exact h
      · exact canonical_of_mem_eq ((State.refuse_mem ..).trans (credits ..)) h
      · exact h
    · split
      · next u _ e =>
        have hu : u.Canonical := by grind [State.setMbox_mem, State.poisonErr_mem]
        exact canonical_of_mem_eq ((State.wakeErr_mem ..).trans (credits ..)) hu
      · next u e =>
        have hu : u.Canonical := by grind [State.setMbox_mem, State.poisonErr_mem]
        grind [canonicalOut_next, State.wake_mem, State.land_mem, landBytes_mem]
  · exact h

/-! #### Machine/Peer -/

theorem porsol_wf {type m} {f : State → State} (hf : ∀ t, t.Canonical → (f t).Canonical) : CanonicalOut (porsol type m s f) := by
  unfold porsol; grind [canonicalOut_next, State.peerRecord_mem, State.landMsg_mem]

theorem execPeerctlEnable_wf {fn val} : CanonicalOut (execPeerctlEnable fn val s) := by
  unfold execPeerctlEnable
  grind [canonicalOut_next, State.peerctl_mem]

theorem execPorsolJoin_wf {msg} : CanonicalOut (execPorsolJoin msg s) := by
  unfold execPorsolJoin
  grind [canonicalOut_next, State.join_mem, State.peerSend_mem, porsol_wf]

theorem execPorsolJoinack_wf {msg} : CanonicalOut (execPorsolJoinack msg s) := by
  unfold execPorsolJoinack
  grind [canonicalOut_next, State.join_mem, porsol_wf]

theorem execJoinTimeout_wf : CanonicalOut (execJoinTimeout s) := by
  unfold execJoinTimeout
  grind [canonicalOut_next, State.joinFail_mem]

theorem execPorsolHeart_wf {msg} : CanonicalOut (execPorsolHeart msg s) := by
  unfold execPorsolHeart
  grind [canonicalOut_next, porsol_wf]

theorem execHeartbeatSend_wf : CanonicalOut (execHeartbeatSend s) := by
  unfold execHeartbeatSend
  grind [canonicalOut_next, State.peerSend_mem]

theorem execPorsolPdig_wf {msg} : CanonicalOut (execPorsolPdig msg s) := by
  unfold execPorsolPdig
  grind [canonicalOut_next, State.comparePeriods_mem, State.peerRecord_mem, porsol_wf]

theorem execPeerLost_wf : CanonicalOut (execPeerLost s) := by
  unfold execPeerLost
  grind [canonicalOut_next, State.peerRecord_mem, State.peerSend_mem]

theorem execPorsolTakeover_wf {msg} : CanonicalOut (execPorsolTakeover msg s) := porsol_wf h fun _ h => h

/-! #### Machine/Ras -/

theorem execScrubRead_wf {line errs} : CanonicalOut (execScrubRead line errs s) := by
  have keep : ∀ {u : State} {fe : FeRegs}, u.Canonical → CanonicalOut (.next { u with fe := fe }) := fun h => h
  have hu : (s.upset line errs).Canonical := canonical_of_mem_eq (State.upset_mem ..) h
  have hl : ((s.upset line errs).scrubLine line).Canonical := canonical_of_mem_eq (State.scrubLine_mem ..) hu
  have hw : ∀ w, ((s.upset line errs).scrubWord w errs).Canonical := fun w => canonical_of_mem_eq (State.scrubWord_mem ..) hu
  exact canonicalOut_ite hu (canonicalOut_ite (canonicalOut_ite (keep hl) hu) (canonicalOut_ite (keep (hw _)) hu))

theorem execLaneFailure_wf {c lane} : CanonicalOut (execLaneFailure c lane s) := by
  unfold execLaneFailure
  grind [canonicalOut_next, State.chanRecord_mem, State.setChannel_mem]

theorem execLaneDegradedComplete_wf {c} : CanonicalOut (execLaneDegradedComplete c s) := by
  unfold execLaneDegradedComplete
  grind [canonicalOut_next, State.chanRecord_mem, State.setChannel_mem]

theorem State.putLine_wf {x} : (s.putLine x).Canonical := by
  unfold State.putLine
  grind [State.mark_mem, State.storeBytes_wf]

theorem State.unmapRow_wf {c e} : (s.unmapRow c e).Canonical := by
  unfold State.unmapRow
  exact foldl_wf (fun s a h => by grind [State.putLine_wf, State.setChannel_mem]) h

theorem State.rmapWrite_wf {c e val} : (s.rmapWrite c e val).Canonical := by
  unfold State.rmapWrite
  grind [State.chanRecord_mem, State.setChannel_mem, State.unmapRow_wf]

theorem execRmapSetValid_wf {fn c e val} : CanonicalOut (execRmapSetValid fn c e val s) := by
  unfold execRmapSetValid
  grind [canonicalOut_next, State.rmapWrite_wf]

theorem execRmapClearValid_wf {fn c e val} : CanonicalOut (execRmapClearValid fn c e val s) := by
  unfold execRmapClearValid
  grind [canonicalOut_next, State.rmapWrite_wf]

theorem execRmapPprStart_wf {fn c e val} : CanonicalOut (execRmapPprStart fn c e val s) := by
  unfold execRmapPprStart
  grind [canonicalOut_next, State.rmapWrite_wf]

theorem execRowRemapComplete_wf {c e} : CanonicalOut (execRowRemapComplete c e s) := by
  unfold execRowRemapComplete
  grind [canonicalOut_next, State.chanRecord_mem, State.setChannel_mem]

theorem execPprComplete_wf {c ok} : CanonicalOut (execPprComplete c ok s) := by
  unfold execPprComplete
  grind [canonicalOut_next, State.chanRecord_mem, State.setChannel_mem]

theorem State.firmwareWrite_wf {tile off n v} : (s.firmwareWrite tile off n v).Canonical := by
  unfold State.firmwareWrite
  grind [State.store_wf, State.traceAt_mem, State.winWrite_mem]

theorem execFwctlGo_wf {fn} : CanonicalOut (execFwctlGo fn s) := by
  unfold execFwctlGo
  grind [canonicalOut_next, State.fwGo_mem]

theorem execFirmwareVerifyComplete_wf : CanonicalOut (execFirmwareVerifyComplete s) := by
  unfold execFirmwareVerifyComplete
  grind [canonicalOut_next, State.fwRefuse_mem]

theorem execFirmwareSwitchoverComplete_wf : CanonicalOut (execFirmwareSwitchoverComplete s) := by
  simp only [execFirmwareSwitchoverComplete]
  split
  · exact h
  · refine canonical_of_mem_eq (State.record_mem ..) (foldl_wf (fun s t h => ?_) (State.loadImage_wf h))
    exact canonical_of_mem_eq (State.startReplay_mem ..) h

theorem execFbctlGo_wf {t'} : CanonicalOut (execFbctlGo t' s) := by
  unfold execFbctlGo
  grind [canonicalOut_next, State.startReplay_mem]

theorem scatter_wf {l bs} : (scatter l bs s).Canonical := by
  induction l generalizing bs s with
  | nil => exact h
  | cons p l ih => unfold scatter; grind [State.storeBytes_wf]

theorem execHfcallReply_wf {tile slot bank} : CanonicalOut (execHfcallReply tile slot bank s) := by
  unfold execHfcallReply
  grind [canonicalOut_next, State.attestBuffer_mem, State.drawn_mem, State.record_mem, State.refuse_mem, State.wake_mem, scatter_wf]

theorem State.hostWrite_wf {fn} {f : State → State} (hf : ∀ t, t.Canonical → (f t).Canonical) : (s.hostWrite fn f).Canonical := by
  unfold State.hostWrite; grind

theorem execLogTailWrite_wf {fn log val} : CanonicalOut (execLogTailWrite fn log val s) := by
  unfold execLogTailWrite
  grind [canonicalOut_next, State.hostWrite_wf, State.logTail_mem]

/-! #### Machine/Host -/

theorem execQtailDoorbell_wf {fn q val} : CanonicalOut (execQtailDoorbell fn q val s) := by
  unfold execQtailDoorbell
  grind [canonicalOut_next, State.hostWrite_wf, State.queueWrite_mem]

theorem execQctlEnable_wf {fn q val} : CanonicalOut (execQctlEnable fn q val s) := by
  unfold execQctlEnable
  grind [canonicalOut_next, State.hostWrite_wf, State.queueWrite_mem]

theorem execQctlDisable_wf {fn q val} : CanonicalOut (execQctlDisable fn q val s) := by
  unfold execQctlDisable
  grind [canonicalOut_next, State.hostWrite_wf, State.queueWrite_mem]

theorem execQctlResume_wf {fn q val} : CanonicalOut (execQctlResume fn q val s) := by
  unfold execQctlResume
  grind [canonicalOut_next, State.hostWrite_wf, State.queueWrite_mem]

theorem execQcancelWrite_wf {fn q val} : CanonicalOut (execQcancelWrite fn q val s) := by
  unfold execQcancelWrite
  grind [canonicalOut_next, State.hostWrite_wf, State.queueWrite_mem]

theorem execFepreemptStart_wf {fn val} : CanonicalOut (execFepreemptStart fn val s) := by
  unfold execFepreemptStart
  grind [canonicalOut_next, State.fepreempt_mem, State.hostWrite_wf]

theorem execFepreemptEnd_wf {fn val} : CanonicalOut (execFepreemptEnd fn val s) := by
  unfold execFepreemptEnd
  grind [canonicalOut_next, State.fepreempt_mem, State.hostWrite_wf]

theorem execTlbinvWrite_wf {fn t' val} : CanonicalOut (execTlbinvWrite fn t' val s) := by
  unfold execTlbinvWrite
  grind [canonicalOut_next, State.hostWrite_wf, State.tlbinv_mem]

theorem execTlbInvalidationComplete_wf {t'} : CanonicalOut (execTlbInvalidationComplete t' s) := by
  unfold execTlbInvalidationComplete
  grind [canonicalOut_next, State.setTenant_mem]

theorem State.zeroRuns_wf {l} : (s.zeroRuns l).Canonical := Memory.wf_filter _ h

theorem State.poolEnable_wf {k val} : (s.poolEnable k val).Canonical := by
  unfold State.poolEnable
  grind [State.metaRuns_mem, State.readFreqs_mem, State.setPool_mem, State.zeroRuns_wf]

theorem State.pcfg_wf {k val} : (s.pcfg k val).Canonical := by
  unfold State.pcfg
  grind [State.poolDisable_mem, State.poolEnable_wf, State.setPool_mem]

theorem execPcfgEnable_wf {fn p val} : CanonicalOut (execPcfgEnable fn p val s) := by
  unfold execPcfgEnable
  grind [canonicalOut_next, State.hostWrite_wf, State.poolEnable_wf]

theorem execPcfgDisable_wf {fn p val} : CanonicalOut (execPcfgDisable fn p val s) := by
  unfold execPcfgDisable
  grind [canonicalOut_next, State.hostWrite_wf, State.poolDisable_mem]

theorem State.poolWrite_wf {k off val} : (s.poolWrite k off val).Canonical := by
  unfold State.poolWrite
  grind [State.pcfg_wf, State.setPool_mem]

theorem State.mbcfg_wf {k val} : (s.mbcfg k val).Canonical := by
  unfold State.mbcfg
  grind [State.setMbox_mem, State.zeroRuns_wf]

theorem execMbcfgEnable_wf {fn m val} : CanonicalOut (execMbcfgEnable fn m val s) := by
  unfold execMbcfgEnable
  grind [canonicalOut_next, State.hostWrite_wf, State.mbcfg_wf]

theorem execTdbgrelWrite_wf {fn t' val} : CanonicalOut (execTdbgrelWrite fn t' val s) := by
  unfold execTdbgrelWrite
  grind [canonicalOut_next, State.hostWrite_wf, State.tdbgrel_mem]

theorem execLvqWrite_wf {fn t' val} : CanonicalOut (execLvqWrite fn t' val s) := by
  unfold execLvqWrite
  grind [canonicalOut_next, State.hostWrite_wf, State.lvqWrite_mem]

theorem execTrctlEnable_wf {tile val} : CanonicalOut (execTrctlEnable tile val s) := by
  unfold execTrctlEnable
  grind [canonicalOut_next, State.setTile_mem]

theorem State.pfWrite_wf {off val} : (s.pfWrite off val).Canonical := by
  unfold State.pfWrite
  grind [State.debugWrite_mem, State.leashset_mem, State.lowWrite_mem, State.mbcfg_wf, State.poolWrite_wf, State.rmapWrite_wf,
    State.setTenant_mem, State.tenantWrite_mem, State.windowWrite_mem]

theorem State.sharedWrite_wf {fn off val} : (s.sharedWrite fn off val).Canonical := by
  unfold State.sharedWrite
  grind [State.logTail_mem, State.lvqWrite_mem, State.pfWrite_wf, State.queueWrite_mem]

theorem State.bar0Write_wf {fn off val} : (s.bar0Write fn off val).Canonical := by
  unfold State.bar0Write
  grind [State.ivtctl_mem, State.rangeWrite_mem, State.sharedWrite_wf]

theorem execRegisterWrite_wf {fn off val} : CanonicalOut (execRegisterWrite fn off val s) := State.bar0Write_wf h

theorem State.bar2Access_wf {fn off rd val ts} : (s.bar2Access fn off rd val ts).Canonical := State.unitAccess_wf h

theorem State.bar2Read_wf {fn off size} : (s.bar2Read fn off size).Canonical := by
  unfold State.bar2Read
  grind [State.answer_mem, State.bar2Access_wf, State.hostTargets_mem]

theorem State.bar2Write_wf {fn off size val} : (s.bar2Write fn off size val).Canonical := by
  unfold State.bar2Write
  grind [State.bar2Access_wf, State.hostTargets_mem]

theorem execHostBar2Read_wf {fn off size} : CanonicalOut (execHostBar2Read fn off size s) := State.bar2Read_wf h

theorem execHostBar2Write_wf {fn off size val} : CanonicalOut (execHostBar2Write fn off size val s) := State.bar2Write_wf h

theorem execHostMbmWindowAccess_wf {fn off size wr val} : CanonicalOut (execHostMbmWindowAccess fn off size wr val s) := by
  unfold execHostMbmWindowAccess
  grind [canonicalOut_next, State.bar2Read_wf, State.bar2Write_wf]

/-! #### Machine/Misc -/

theorem State.endChunb_wf {r} : (s.endChunb r).Canonical := by
  unfold State.endChunb
  grind [State.unbind_wf, State.wake_mem]

theorem execResultWriteback_wf {tile slot bank} : CanonicalOut (execResultWriteback tile slot bank s) := by
  unfold execResultWriteback
  grind [canonicalOut_next, State.endChunb_wf, State.landPend_wf, State.setBank_mem]

theorem State.performAt_wf {r ix remote errs} : (s.performAt r ix remote errs).Canonical := by
  unfold State.performAt
  grind [State.performAccess_wf, State.plant_mem, State.setBank_mem]

theorem execAccessPerformed_wf {tile slot bank ix} : CanonicalOut (execAccessPerformed tile slot bank ix s) := State.performAt_wf h

theorem execRemoteAccessArrival_wf {tile slot bank ix} : CanonicalOut (execRemoteAccessArrival tile slot bank ix s) := State.performAt_wf h

theorem execFetchUnitRead_wf {tile slot} : CanonicalOut (execFetchUnitRead tile slot s) := by
  unfold execFetchUnitRead
  grind [canonicalOut_next, State.fetchUnit_mem, State.setBank_mem]

theorem execPageWalkComplete_wf {tile t' va} : CanonicalOut (execPageWalkComplete tile t' va s) := by
  unfold execPageWalkComplete
  grind [canonicalOut_next, State.endWalk_mem, State.translate_mem]

theorem State.resendOne_wf {t' p} : (s.resendOne t' p).Canonical := by
  unfold State.resendOne
  grind [State.parkRequest_mem, State.resumeDesc_wf, State.resumeLdt_wf, State.translate_mem, State.unparkWho_mem]

theorem execReplayAllSend_wf {t'} : CanonicalOut (execReplayAllSend t' s) := by
  unfold execReplayAllSend
  grind [canonicalOut_next, State.releaseQueues_wf, State.resendOne_wf, State.setTenant_mem]

theorem relaxedMeaning_wf {i o} (e : relaxedMeaning i s = some o) : CanonicalOut o := by
  unfold relaxedMeaning at e
  split at e <;> cases e
  case h_1 | h_2 | h_3 | h_4 | h_5 | h_6 | h_7 => exact loadAt_wf h
  case h_8 | h_9 | h_10 | h_11 => exact storeAt_wf h
  case h_12 | h_13 | h_14 | h_15 | h_16 | h_17 | h_18 => exact loadAt_wf h
  case h_19 | h_20 | h_21 | h_22 => exact storeAt_wf h
  case h_23 => exact loadAt_wf h
  case h_24 => exact storeAt_wf h
  case h_25 => exact execVld_wf h
  case h_26 => exact execVst_wf h
  case h_27 => exact execVlds_wf h
  case h_28 => exact execVsts_wf h
  case h_29 => exact execVldx_wf h
  case h_30 => exact execVstx_wf h
  case h_31 => exact execVldb_wf h

theorem execCRlx_wf {sc} : CanonicalOut (execCRlx sc s) := by
  unfold execCRlx
  extract_lets f pc
  split
  · exact trapAt_wf h
  · split
    · next o e =>
      obtain ⟨i, -, ho⟩ := Option.bind_eq_some_iff.mp e
      have hu : ({ s with rlxScope := some sc.toNat, len := 2 + f.len, iaddr := pc + 2, ibits := f.bits } : State).Canonical := h
      exact relaxedMeaning_wf hu ho
    · exact trapAt_wf h

/-! #### Machine/VecFp -/

theorem vflt_wf {f g d a b m} : CanonicalOut (vflt f g d a b m s) := vmap2_wf h

theorem vsgn_wf {f g d a m} : CanonicalOut (vsgn f g d a m s) := vmap1_wf h

/-! #### Machine/VecInt -/

theorem vint_wf {w f d a b m} : CanonicalOut (vint w f d a b m s) := vmap2_wf h

theorem vint1_wf {w f d a m} : CanonicalOut (vint1 w f d a m s) := vmap1_wf h

theorem v8_wf {lat f d a b m} : CanonicalOut (v8 lat f d a b m s) := vmap2_wf h

/-! #### Machine/VecMisc -/

theorem vbcast_wf {w d a m} : CanonicalOut (vbcast w d a m s) := vmapN_wf h

theorem vext_wf {w d a b} : CanonicalOut (vext w d a b s) := by
  unfold vext
  grind [canonicalOut_next, vecGate_wf, vsdone_wf]

theorem vins_wf {w d a b} : CanonicalOut (vins w d a b s) := vmapN_wf h

theorem vperm_wf {w d a b m} : CanonicalOut (vperm w d a b m s) := vmapN_wf h

theorem execVredsumI32_wf {d a m} : CanonicalOut (execVredsumI32 d a m s) := by
  unfold execVredsumI32
  grind [canonicalOut_next, vecGate_wf, vsdone_wf]

theorem vcvt_wf {src f d a m} : CanonicalOut (vcvt src f d a m s) := vmap1_wf h

theorem execVq4_wf {d a b m} : CanonicalOut (execVq4 d a b m s) := by
  unfold execVq4
  grind [canonicalOut_next, vdone_wf, vecGate_wf, withFlags_wf]

theorem execVcmp_wf {d a b m c t'} : CanonicalOut (execVcmp d a b m c t' s) := by
  unfold execVcmp
  grind [canonicalOut_next, vecGate_wf, vsdone_wf, withFlags_wf]

theorem vwhile_wf {w d a b} : CanonicalOut (vwhile w d a b s) := done_wf h

/-! #### Machine/Units -/

theorem took_wf {o} (ho : CanonicalOut o) : (took o s).Canonical := by
  cases o with
  | next t => exact ho
  | fault r => exact h
  | refused r => exact h

theorem State.arriveMsg_wf {ix} : (s.arriveMsg ix).Canonical := by
  unfold State.arriveMsg
  grind [canonicalOut_next, execBarrierArrival_wf, execBarrierRelease_wf, execBindNoticeArrival_wf, execChannelMessageArrival_wf,
    execCreditArrival_wf, execMcmdArrival_wf, execRemoteReplyArrival_wf, execRemoteSrlsArrival_wf, execSeizeArrival_wf,
    execSeizeReplyArrival_wf, execTreeDeliverArrival_wf, took_wf]

theorem State.serveBank_wf {tile slot b} : (s.serveBank tile slot b).Canonical := by
  refine foldl_wf (fun s p h => took_wf h (execStreamDelivery_wf h)) ?_
  grind [took_wf, execResultWriteback_wf, execAccessPerformed_wf, execRemoteAccessArrival_wf, execWaitListRetry_wf, execTreeDeliverRetry_wf,
    execMailboxReadTransaction_wf, execHfcallReply_wf, execRemoteReplyArrival_wf]

theorem State.serveCtx_wf {tile slot} : (s.serveCtx tile slot).Canonical := by
  unfold State.serveCtx
  grind [canonicalOut_next, State.serveBank_wf, execBankSwitchComplete_wf, took_wf]

theorem State.serveCopies_wf {tile} : (s.serveCopies tile).Canonical := by
  unfold State.serveCopies
  extract_lets s₁ t s₂ s₃ s₄
  have h₁ : s₁.Canonical := by
    refine foldl_wf (fun s i h => ?_) h
    grind [took_wf, execBteCommandEntry_wf]
  have h₂ : s₂.Canonical := by
    refine foldl_wf (fun s ix h => ?_) h₁
    split
    · exact foldl_wf (fun s k h => took_wf h (execBteChunkComplete_wf h)) h
    · exact h
  have h₃ : s₃.Canonical := by
    refine foldl_wf (fun s ix h => ?_) h₂
    split
    · exact foldl_wf (fun s u h => took_wf h (execBurstDataReturn_wf h)) (took_wf h (execBurstDataReturn_wf h))
    · exact h
  have h₄ : s₄.Canonical := by
    unfold s₄
    split
    · exact h₃
    · refine foldl_wf (fun s k h => ?_) h₃
      exact took_wf h (execBurstBirth_wf h)
  refine foldl_wf (fun s ix h => ?_) h₄
  exact took_wf h (execBteCommandComplete_wf h)

theorem State.serveLane_wf {tile l} : (s.serveLane tile l).Canonical := by
  simp only [State.serveLane]
  split
  · exact h
  · refine foldl_wf (fun s ix h => took_wf h (execMatrixCommandComplete_wf h)) ?_
    grind [took_wf, execMatrixCommandStart_wf, execMatrixStepComplete_wf]

theorem State.serveTile_wf {tile} : (s.serveTile tile).Canonical := by
  unfold State.serveTile
  grind [canonicalOut_next, State.serveCopies_wf, State.serveLane_wf, execMatrixClearComplete_wf, execMatrixCommandEntry_wf,
    execSeizureDrainComplete_wf, execSeizureReleaseComplete_wf, execSeizureSwapComplete_wf, took_wf]

theorem State.serveTasks_wf : s.serveTasks.Canonical := by
  refine foldl_wf (fun s i h => took_wf h (execInstanceComplete_wf h)) ?_
  refine foldl_wf (fun s l h => took_wf h (execInstanceComplete_wf h)) ?_
  refine foldl_wf (fun s v h => took_wf h (execTaskRestore_wf h)) ?_
  refine foldl_wf (fun s t h => ?_) (foldl_wf (fun s n h => ?_) h)
  · grind [took_wf, State.stageOne_wf, execFootprintStagingComplete_wf, execKillQuiet_wf, execTaskRetire_wf]
  · grind [took_wf, execDeterministicReservation_wf, execTaskPlace_wf, State.digestOne_mem]

theorem State.serveShared_wf : s.serveShared.Canonical := by
  refine foldl_wf (fun s m h => ?_) (foldl_wf (fun s p h => took_wf h (execSeqCommandExecute_wf h)) (foldl_wf (fun s t h => ?_) h))
  · grind [took_wf, execMbpubcCopyComplete_wf, execMailboxPublicationArrival_wf, execMailboxFlip_wf]
  · grind [took_wf, execTlbInvalidationComplete_wf, execLevelQueryComplete_wf, execReplayAllSend_wf]

theorem State.pass_wf : s.pass.Canonical := by
  unfold State.pass
  grind [State.clock_mem, State.mxTick_mem, State.pollAll_mem, State.serveAtUnit_wf]

theorem State.serveUnits_wf : s.serveUnits.Canonical := by
  refine foldl_wf (fun s ix h => State.arriveMsg_wf h) (State.serveShared_wf (State.serveTasks_wf ?_))
  refine foldl_wf (fun s ix h => took_wf h (execReductionPerform_wf h)) ?_
  refine foldl_wf (fun s t h => ?_) (foldl_wf (fun s c h => ?_) h)
  · grind [State.serveTile_wf]
  · grind [State.serveCtx_wf]

/-! #### Machine/Fetch -/

theorem State.selfWait_wf {t : State} {r w} (e : s.selfWait r w = some t) : t.Canonical := by
  unfold State.selfWait at e
  grind [State.rouse_mem, State.setBank_mem, State.endHandler_wf, State.wake_mem, State.arrive_mem, State.takeTrap_mem, State.unpark_mem]

end Steps

/-! ### Instructions, agents and the step -/

/-- Every instruction and every event keeps the memory canonical. -/
theorem exec_wf {s : State} {i : Instr} (h : s.Canonical) : CanonicalOut (exec i s) := by
  cases i with
  | illegal =>
    unfold exec
    exact trapAt_wf h
  | add | sub | and | or | xor | andn | shl | shr | sha | rotr | min | max | minu | maxu | cmpeq | cmpne | cmplt | cmpltu | cmpge
  | cmpgeu | sel | addw | subw | mul | mulh | mulhu | mulhsu | div | divu | rem | remu | mulw | madd | bfx | bfxu | bfi | lea
  | cMov | cAdd | cSub | cAnd | cOr | cXor =>
    unfold exec
    exact alu_wf h
  | addi | andi | ori | xori | shli | shri | shai | rotri | cmpeqi | cmpnei | cmplti | cmpltui | cmpgei | cmpgeui | popc | clz
  | ctz | brev | bswap | sextb | sexth | sextw | zextb | zexth | zextw | cAddi | cLi | cShli | cShri =>
    unfold exec
    exact aluI_wf h
  | lih | addpc | li64 | vlq | vlanes | mfirst | time =>
    unfold exec
    exact done_wf h
  | beq | bne | blt | bge | bltu | bgeu | bbs | bbc | beqz | bnez | bltz | bgez | bgtz | blez | cBeqz | cBnez =>
    unfold exec
    exact branch_wf h
  | jr | jlr | cJr =>
    unfold exec
    exact jumpReg_wf h
  | ldS8 | ldZ8 | ldS16 | ldZ16 | ldS32 | ldZ32 | ld64 | ldxS8 | ldxZ8 | ldxS16 | ldxZ16 | ldxS32 | ldxZ32 | ldx64 | cLd64 =>
    unfold exec
    exact loadAt_wf h
  | st8 | st16 | st32 | st64 | stx8 | stx16 | stx32 | stx64 | cSt64 =>
    unfold exec
    exact storeAt_wf h
  | ldfe | ldfw | stfw | stfs | fetag | feclr =>
    unfold exec
    exact feAt_wf h
  | vaddI16 | vsubI16 | vmulI16 | vmulhI16 | vminI16 | vmaxI16 | vminuI16 | vmaxuI16 | vandI16 | vorI16 | vxorI16 | vshlI16
  | vshrI16 | vshaI16 | vaddsI16 | vsubsI16 | vmacI16 | vaddI32 | vsubI32 | vmulI32 | vmulhI32 | vminI32 | vmaxI32 | vminuI32
  | vmaxuI32 | vandI32 | vorI32 | vxorI32 | vshlI32 | vshrI32 | vshaI32 | vaddsI32 | vsubsI32 | vmacI32 =>
    unfold exec
    exact vint_wf h
  | vabsI16 | vnegI16 | vabsI32 | vnegI32 =>
    unfold exec
    exact vint1_wf h
  | vaddF32 | vsubF32 | vmulF32 | vfmaF32 | vfmsF32 | vminF32 | vmaxF32 | vscaleF32 | vfnmaF32 | vaddBf16 | vsubBf16 | vmulBf16
  | vfmaBf16 | vfmsBf16 | vminBf16 | vmaxBf16 | vscaleBf16 | vfnmaBf16 | vaddF16 | vsubF16 | vmulF16 | vfmaF16 | vfmsF16 | vminF16
  | vmaxF16 | vscaleF16 | vfnmaF16 =>
    unfold exec
    exact vflt_wf h
  | vabsF32 | vnegF32 | vabsBf16 | vnegBf16 | vabsF16 | vnegF16 =>
    unfold exec
    exact vsgn_wf h
  | vaddE4m3 | vsubE4m3 | vmulE4m3 | vaddE5m2 | vsubE5m2 | vmulE5m2 | vaddI8 | vsubI8 | vaddsI8 | vminI8 | vmaxI8 =>
    unfold exec
    exact v8_wf h
  | vmov =>
    unfold exec
    exact vmap1_wf h
  | vmerge | vpack8 =>
    unfold exec
    exact vplain_wf h
  | vbcast16 | vbcast32 | vbcast64 =>
    unfold exec
    exact vbcast_wf h
  | vext16 | vext32 =>
    unfold exec
    exact vext_wf h
  | vins16 | vins32 =>
    unfold exec
    exact vins_wf h
  | vperm16 | vperm32 =>
    unfold exec
    exact vperm_wf h
  | vslideup | vslidedn | vzip16 | vunzip16 | vdq4 | vunpk8 =>
    unfold exec
    exact vmapN_wf h
  | vredsumF32 | vredsumBf16 | vredmaxF32 | vredminF32 | vredmaxBf16 =>
    unfold exec
    exact vreduce_wf h
  | vcvtBf16F32 | vcvtF16F32 | vcvtF32Bf16 | vcvtF32F16 | vcvtE4m3F32 | vcvtE5m2F32 | vcvtF32E4m3 | vcvtF32E5m2 | vcvtI32F32
  | vcvtF32I32 | vcvtI16F32 | vcvtBf16E4m3 | vcvtE4m3Bf16 =>
    unfold exec
    exact vcvt_wf h
  | vrcp | vrsq | vsqrt | vexp2 | vexp | vlog2 | vsin | vcos | vtanh | vsigm | verf =>
    unfold exec
    exact vsfu_wf h
  | vwhile16 | vwhile32 | vwhile64 =>
    unfold exec
    exact vwhile_wf h
  | mwswap | mzero | mxswap =>
    unfold exec
    exact mxIssue_wf h
  | tcopy | tslide | lpref =>
    unfold exec
    exact copyIssue_wf h
  | arls | arcn =>
    unfold exec
    exact atomRelease_wf h
  | cas | swap | fadd =>
    unfold exec
    exact atomOp_wf h
  | redAdd64 | redAdd32 | redMin64 | redMax64 | redMinu64 | redMaxu64 | redAnd64 | redOr64 | redXor64 | redfAddF32 | redfAddBf16 =>
    unfold exec
    exact redIssue_wf h
  | wacrd | wacclr =>
    unfold exec
    exact wacAt_wf h
  | barv | barvw =>
    unfold exec
    exact barArrive_wf h
  | sqres | sqcmt | sqaband | sqlen | sqfork | sqrel | sqtrim | sqrd | sqcow =>
    unfold exec
    exact seqOp_wf h
  | mbpub | mbpubc =>
    unfold exec
    exact mbpub_wf h
  | exit | cExit =>
    unfold exec
    exact exitThread_wf h
  | hend | cHend =>
    unfold exec
    exact endThread_wf h
  | csrrd | csrwr | csrset | csrclr =>
    unfold exec
    exact csrOp_wf h
  | cIll =>
    unfold exec
    exact insTrap_wf h
  | qlaunch =>
    unfold exec
    exact qhold_wf h
  | qff | qprio =>
    unfold exec
    exact qdoneWith_wf h
  | qnop =>
    unfold exec
    exact qdone_wf h
  | powerOnReset => exact execPowerOnReset_wf h
  | powerGood => exact execPowerGood_wf h
  | cctSelect => exact execCctSelect_wf h
  | firmwareImageLoad => exact execFirmwareImageLoad_wf h
  | memoryTraining => exact execMemoryTraining_wf h
  | memoryClear => exact execMemoryClear_wf h
  | pcieLinkTraining => exact execPcieLinkTraining_wf h
  | configurationRequest => exact execConfigurationRequest_wf h
  | ivtctlWrite => exact execIvtctlWrite_wf h
  | ptmExchange => exact execPtmExchange_wf h
  | ptmRepeat => exact execPtmRepeat_wf h
  | dtbOffsetCheck => exact execDtbOffsetCheck_wf h
  | thermalThrottle => exact execThermalThrottle_wf h
  | registerWrite => exact execRegisterWrite_wf h
  | qtailDoorbell => exact execQtailDoorbell_wf h
  | qctlEnable => exact execQctlEnable_wf h
  | qctlDisable => exact execQctlDisable_wf h
  | qctlResume => exact execQctlResume_wf h
  | qcancelWrite => exact execQcancelWrite_wf h
  | tlbinvWrite => exact execTlbinvWrite_wf h
  | tlbInvalidationComplete => exact execTlbInvalidationComplete_wf h
  | fbctlGo => exact execFbctlGo_wf h
  | pcfgEnable => exact execPcfgEnable_wf h
  | pcfgDisable => exact execPcfgDisable_wf h
  | mbcfgEnable => exact execMbcfgEnable_wf h
  | trctlEnable => exact execTrctlEnable_wf h
  | fepreemptStart => exact execFepreemptStart_wf h
  | fepreemptEnd => exact execFepreemptEnd_wf h
  | tdbgrelWrite => exact execTdbgrelWrite_wf h
  | lvqWrite => exact execLvqWrite_wf h
  | levelQueryComplete => exact execLevelQueryComplete_wf h
  | peerctlEnable => exact execPeerctlEnable_wf h
  | fwctlGo => exact execFwctlGo_wf h
  | firmwareVerifyComplete => exact execFirmwareVerifyComplete_wf h
  | firmwareSwitchoverComplete => exact execFirmwareSwitchoverComplete_wf h
  | rmapSetValid => exact execRmapSetValid_wf h
  | rowRemapComplete => exact execRowRemapComplete_wf h
  | rmapClearValid => exact execRmapClearValid_wf h
  | rmapPprStart => exact execRmapPprStart_wf h
  | pprComplete => exact execPprComplete_wf h
  | logTailWrite => exact execLogTailWrite_wf h
  | hostBar2Read => exact execHostBar2Read_wf h
  | hostBar2Write => exact execHostBar2Write_wf h
  | hostMbmWindowAccess => exact execHostMbmWindowAccess_wf h
  | queueSelect => exact execQueueSelect_wf h
  | fetchBlockRead => exact execFetchBlockRead_wf h
  | qwaitPoll => exact execQwaitPoll_wf h
  | qwaitTimeout => exact execQwaitTimeout_wf h
  | signalWrite => exact execSignalWrite_wf h
  | launchAccept => exact execLaunchAccept_wf h
  | deterministicReservation => exact execDeterministicReservation_wf h
  | taskPlace => exact execTaskPlace_wf h
  | footprintStagingComplete => exact execFootprintStagingComplete_wf h
  | taskRetire => exact execTaskRetire_wf h
  | instanceComplete => exact execInstanceComplete_wf h
  | resultDigest => exact execResultDigest_wf h
  | starvationWatchdog => exact execStarvationWatchdog_wf h
  | ladderStart => exact execLadderStart_wf h
  | rung2Save => exact execRung2Save_wf h
  | rung3Reset => exact execRung3Reset_wf h
  | taskSaveComplete => exact execTaskSaveComplete_wf h
  | taskRestore => exact execTaskRestore_wf h
  | quantumExpiry => exact execQuantumExpiry_wf h
  | killQuiet => exact execKillQuiet_wf h
  | parkWatchdog => exact execParkWatchdog_wf h
  | launchStallWatchdog => exact execLaunchStallWatchdog_wf h
  | resultWriteback => exact execResultWriteback_wf h
  | accessPerformed => exact execAccessPerformed_wf h
  | remoteAccessArrival => exact execRemoteAccessArrival_wf h
  | remoteReplyArrival => exact execRemoteReplyArrival_wf h
  | fetchUnitRead => exact execFetchUnitRead_wf h
  | bankSwitchComplete => exact execBankSwitchComplete_wf h
  | waitListRetry => exact execWaitListRetry_wf h
  | pageWalkComplete => exact execPageWalkComplete_wf h
  | replayAllSend => exact execReplayAllSend_wf h
  | scrubRead => exact execScrubRead_wf h
  | laneFailure => exact execLaneFailure_wf h
  | laneDegradedComplete => exact execLaneDegradedComplete_wf h
  | bteCommandEntry => exact execBteCommandEntry_wf h
  | bteChunkComplete => exact execBteChunkComplete_wf h
  | bteCommandComplete => exact execBteCommandComplete_wf h
  | burstDataReturn => exact execBurstDataReturn_wf h
  | burstBirth => exact execBurstBirth_wf h
  | matrixCommandEntry => exact execMatrixCommandEntry_wf h
  | matrixCommandStart => exact execMatrixCommandStart_wf h
  | matrixStepComplete => exact execMatrixStepComplete_wf h
  | matrixCommandComplete => exact execMatrixCommandComplete_wf h
  | matrixClearComplete => exact execMatrixClearComplete_wf h
  | mcmdArrival => exact execMcmdArrival_wf h
  | seqCommandExecute => exact execSeqCommandExecute_wf h
  | streamDelivery => exact execStreamDelivery_wf h
  | bindNoticeArrival => exact execBindNoticeArrival_wf h
  | creditArrival => exact execCreditArrival_wf h
  | channelMessageArrival => exact execChannelMessageArrival_wf h
  | treeDeliverArrival => exact execTreeDeliverArrival_wf h
  | treeDeliverRetry => exact execTreeDeliverRetry_wf h
  | barrierArrival => exact execBarrierArrival_wf h
  | barrierRelease => exact execBarrierRelease_wf h
  | reductionPerform => exact execReductionPerform_wf h
  | mailboxPublicationArrival => exact execMailboxPublicationArrival_wf h
  | mailboxFlip => exact execMailboxFlip_wf h
  | mbpubcCopyComplete => exact execMbpubcCopyComplete_wf h
  | mailboxReadTransaction => exact execMailboxReadTransaction_wf h
  | ceilingTrip => exact execCeilingTrip_wf h
  | leashCeiling => exact execLeashCeiling_wf h
  | seizeArrival => exact execSeizeArrival_wf h
  | seizureDrainComplete => exact execSeizureDrainComplete_wf h
  | seizureSwapComplete => exact execSeizureSwapComplete_wf h
  | seizeReplyArrival => exact execSeizeReplyArrival_wf h
  | remoteSrlsArrival => exact execRemoteSrlsArrival_wf h
  | seizureReleaseComplete => exact execSeizureReleaseComplete_wf h
  | hfcallReply => exact execHfcallReply_wf h
  | porsolJoin => exact execPorsolJoin_wf h
  | porsolJoinack => exact execPorsolJoinack_wf h
  | porsolHeart => exact execPorsolHeart_wf h
  | porsolPdig => exact execPorsolPdig_wf h
  | porsolTakeover => exact execPorsolTakeover_wf h
  | heartbeatSend => exact execHeartbeatSend_wf h
  | joinTimeout => exact execJoinTimeout_wf h
  | peerLost => exact execPeerLost_wf h
  | dbnz => exact execDbnz_wf h
  | j => exact execJ_wf h
  | jl => exact execJl_wf h
  | rpt => exact execRpt_wf h
  | fence => exact execFence_wf h
  | ifence => exact execIfence_wf h
  | efence => exact execEfence_wf h
  | vld => exact execVld_wf h
  | vst => exact execVst_wf h
  | vlds => exact execVlds_wf h
  | vsts => exact execVsts_wf h
  | vldx => exact execVldx_wf h
  | vstx => exact execVstx_wf h
  | vldb => exact execVldb_wf h
  | ldt => exact execLdt_wf h
  | vredsumI32 => exact execVredsumI32_wf h
  | vq4 => exact execVq4_wf h
  | vcmp => exact execVcmp_wf h
  | mwld => exact execMwld_wf h
  | mstrm => exact execMstrm_wf h
  | mrda => exact execMrda_wf h
  | mwra => exact execMwra_wf h
  | mwait => exact execMwait_wf h
  | mgath => exact execMgath_wf h
  | mstat => exact execMstat_wf h
  | mcmd => exact execMcmd_wf h
  | cwait => exact execCwait_wf h
  | ctest => exact execCtest_wf h
  | cclr => exact execCclr_wf h
  | bread => exact execBread_wf h
  | arsv => exact execArsv_wf h
  | breg => exact execBreg_wf h
  | bwait => exact execBwait_wf h
  | btest => exact execBtest_wf h
  | chbind => exact execChbind_wf h
  | chunb => exact execChunb_wf h
  | chstat => exact execChstat_wf h
  | send => exact execSend_wf h
  | rsrv => exact execRsrv_wf h
  | treeset => exact execTreeset_wf h
  | sqst => exact execSqst_wf h
  | sqstr => exact execSqstr_wf h
  | squnpin => exact execSqunpin_wf h
  | mbwr => exact execMbwr_wf h
  | mbrd => exact execMbrd_wf h
  | seize => exact execSeize_wf h
  | srls => exact execSrls_wf h
  | srlsRemote => exact execSrlsRemote_wf h
  | seizq => exact execSeizq_wf h
  | spawn => exact execSpawn_wf h
  | bqry => exact execBqry_wf h
  | prime => exact execPrime_wf h
  | unprime => exact execUnprime_wf h
  | trap => exact execTrap_wf h
  | eret => exact execEret_wf h
  | ebrk => exact execEbrk_wf h
  | hfcall => exact execHfcall_wf h
  | cancel => exact execCancel_wf h
  | dlaunch => exact execDlaunch_wf h
  | cNop => exact execCNop_wf h
  | cJ => exact execCJ_wf h
  | cRlx => exact execCRlx_wf h
  | qib => exact execQib_wf h
  | qret => exact execQret_wf h
  | qpred => exact execQpred_wf h
  | qendp => exact execQendp_wf h
  | qloop => exact execQloop_wf h
  | qendl => exact execQendl_wf h
  | qsig => exact execQsig_wf h
  | qwait => exact execQwait_wf h
  | qwr => exact execQwr_wf h
  | qdep => exact execQdep_wf h
  | qmark => exact execQmark_wf h
  | qreplay => exact execQreplay_wf h
  | throttleExit => exact execThrottleExit_wf h

section Steps
variable {s : State} (h : s.Canonical)
include h

theorem State.rouseAll_wf : s.rouseAll.Canonical := by
  refine foldl_wf (fun s c h => ?_) h
  dsimp only
  split
  · split
    · cases e : s.selfWait ⟨c.1 / 8, c.1 % 8, (s.ctx (c.1 / 8) (c.1 % 8)).active⟩ _ with
      | none => exact h
      | some t => exact State.selfWait_wf h e
    · exact h
  · exact h

theorem State.fetchAll_wf : s.fetchAll.Canonical := foldl_wf (fun _ _ h => took_wf h (execFetchUnitRead_wf h)) h

theorem runWord_wf {w} : CanonicalOut (runWord w s) := by
  unfold runWord
  dsimp only
  split
  · exact exec_wf h
  · split <;> exact exec_wf h

theorem runFrame_wf {w} : CanonicalOut (runFrame w s) := by
  unfold runFrame
  dsimp only
  split
  · exact exec_wf h
  · split <;> exact exec_wf h

theorem stepFrame_wf {r} : CanonicalOut (stepFrame r s) := by
  unfold stepFrame
  dsimp only
  split
  · exact runFrame_wf h
  · split
    · next u c va e =>
      have hu : u.Canonical := canonical_of_mem_eq (by grind [State.frameWord_mem]) h
      exact canonical_of_mem_eq (State.fetchStop_mem ..) hu
    · next u w e =>
      have hu : u.Canonical := canonical_of_mem_eq (by grind [State.frameWord_mem]) h
      exact runFrame_wf (canonical_of_mem_eq (State.setBank_mem ..) hu)

theorem issue_wf {r} : CanonicalOut (issue r s) := by
  unfold issue
  dsimp only
  split
  · exact stepFrame_wf h
  · split
    · next u c e =>
      have hu : u.Canonical := canonical_of_mem_eq (by grind [State.gatherWhole_mem]) h
      exact canonical_of_mem_eq (State.fetchStop_mem ..) hu
    · next u e =>
      exact runWord_wf (canonical_of_mem_eq (by grind [State.gatherWhole_mem]) h)

theorem act_wf {r} : CanonicalOut (act r s) := by
  have hu : ((s.ageResults r).endChunb r).Canonical := State.endChunb_wf (State.ageResults_wf h)
  unfold act
  extract_lets u b
  split
  · exact execQuantumExpiry_wf hu
  · split
    · exact canonical_of_mem_eq ((State.enterTrap_mem ..).trans (State.setBank_mem ..)) hu
    · split
      · exact execCeilingTrip_wf hu
      · split
        · exact execLeashCeiling_wf hu
        · exact issue_wf hu

theorem moveCore_wf {idle : State → State} (hi : ∀ t, t.Canonical → (idle t).Canonical) {tile slot} :
    CanonicalOut (moveCore idle tile slot s) := by
  unfold moveCore
  extract_lets u r
  have hu : u.Canonical := h
  split
  · exact hu
  · split
    · exact hi u hu
    · split
      · exact act_wf hu
      · split
        · next e => exact State.selfWait_wf hu e
        · exact hi u hu

theorem stepCore_wf {tile slot} : CanonicalOut (stepCore tile slot s) :=
  moveCore_wf h fun _ h => State.pass_wf (State.serveUnits_wf h)

theorem stepTurn_wf {tile} : CanonicalOut (stepTurn tile s) := by
  unfold stepTurn
  split
  · exact h
  · split
    · next k _ =>
      have hm : CanonicalOut (moveCore id tile k (s.setTile tile { s.tile tile with lastIssue := some (k, s.cycle) })) :=
        moveCore_wf (canonical_of_mem_eq (State.setTile_mem ..) h) fun _ h => h
      split
      · next t e =>
        rw [e] at hm
        exact canonical_of_mem_eq (State.paced_mem ..) hm
      · exact hm
    · exact h

theorem cycle_wf : (cycle s).Canonical :=
  State.pass_wf (State.rouseAll_wf (foldl_wf (fun _ _ h => took_wf h (stepTurn_wf h)) h))

theorem runQueue_wf {k} : CanonicalOut (runQueue k s) := by
  unfold runQueue
  extract_lets u q stop
  have hu : u.Canonical := by
    unfold u
    split
    · exact canonical_of_mem_eq (State.enterBlock_mem ..) h
    · exact h
  have hs : ∀ c (t : State), t.Canonical → CanonicalOut (stop c t) := fun c t ht => canonical_of_mem_eq (State.queueFault_mem ..) ht
  split
  · exact hs _ _ (canonical_of_mem_eq (by grind [State.streamWord_mem]) hu)
  · next v w e =>
    have hv : v.Canonical := canonical_of_mem_eq (by grind [State.streamWord_mem]) hu
    extract_lets n
    split
    · exact hs _ _ (canonical_of_mem_eq (State.someWords_mem ..) hv)
    · split
      · exact hs _ _ (canonical_of_mem_eq (by grind [State.streamWords_mem]) hv)
      · next x ws e =>
        have hx : x.Canonical := canonical_of_mem_eq (by grind [State.streamWords_mem]) hv
        split
        · exact hs _ _ hx
        · exact exec_wf hx

theorem serveQueue_wf {k} : CanonicalOut (serveQueue k s) := by
  unfold serveQueue
  extract_lets u q
  have hu : u.Canonical := h
  split
  · exact canonical_of_mem_eq (State.skipOne_mem ..) hu
  · split
    · split
      · exact canonical_of_mem_eq (State.queueFault_mem ..) hu
      · exact canonical_of_mem_eq ((State.settleQueue_mem ..).trans (State.setQueue_mem ..)) h
    · exact runQueue_wf hu

theorem moveQueue_wf {k} : CanonicalOut (moveQueue k s) := by
  unfold moveQueue
  extract_lets u v
  have hu : u.Canonical := h
  have hv : v.Canonical := canonical_of_mem_eq (State.selectQueue_mem ..) hu
  split
  · exact hu
  · split
    · split
      · exact execSignalWrite_wf hu
      · exact execLaunchAccept_wf hu
    · split
      · exact execQwaitTimeout_wf hu
      · exact execQwaitPoll_wf hu
    · exact State.releaseQueue_wf hu
    · split
      · exact serveQueue_wf hv
      · exact execSignalWrite_wf hv

theorem stepQueue_wf {k} : CanonicalOut (stepQueue k s) := by
  unfold stepQueue
  split
  · exact moveQueue_wf (State.pass_wf (State.serveUnits_wf h))
  · exact moveQueue_wf h

theorem round_wf : (round s).Canonical := by
  refine foldl_wf (fun _ _ h => cycle_wf (State.fetchAll_wf h)) (State.serveUnits_wf (foldl_wf (fun s q h => ?_) h))
  have hf := took_wf h (execFetchBlockRead_wf (k := q.1) h)
  split
  · exact took_wf h (moveQueue_wf hf)
  · exact h

theorem runAgent_wf {a} : CanonicalOut (runAgent a s) := by
  cases a with
  | round => exact round_wf h
  | clock => exact cycle_wf h
  | core tile slot => exact stepCore_wf h
  | turn tile => exact stepTurn_wf h
  | queue k => exact stepQueue_wf h
  | firmware tile off n v => exact State.firmwareWrite_wf h
  | event i =>
    simp only [runAgent]
    split
    · exact exec_wf h
    · exact h

theorem freeAgent_wf {a} : CanonicalOut (freeAgent a s) := by
  unfold freeAgent
  split
  · exact stepTurn_wf h
  · exact moveQueue_wf h
  · exact runAgent_wf h

theorem step_wf : CanonicalOut (step s) := by
  unfold step
  split
  · exact runAgent_wf h
  · have hu : ({ s with tick := s.tick + 1 } : State).Canonical := h
    exact freeAgent_wf hu

end Steps

end Sys2Proof.Machine

/-- Settles O58: every store goes through `State.storeBytes`, which keeps the list canonical, and nothing else adds to it
  (`Machine.step_wf`). -/
theorem Sys2Proof.everyStepKeepsMemoryCanonical : Obligations.EveryStepKeepsMemoryCanonical := by
  intro s t h e
  have ht : Machine.CanonicalOut (Machine.step s) := Machine.step_wf h
  rwa [show Machine.step s = .next t from e] at ht

/-! ## Versions, time and the clock

Negotiation counts a major down from 255; below each major it has found the greatest version that both ranges cover, or that there is
none (`negotiateAt_spec`). The records of the time base and of throttling name no tenant and no launch, so that they go to the device
log alone (`State.record_recorded`). -/

namespace Sys2Proof.Machine

/-! ### Negotiation (R36 to R39) -/

theorem covers_iff (r : BitVec 32) (v : Nat) :
    Covers r v ↔ loMajor r * 256 + loMinor r ≤ v ∧ v ≤ hiMajor r * 256 + hiMinor r := by
  simp only [Covers, loMinor, loMajor, hiMinor, hiMajor, fld, BitVec.extractLsb'_toNat, Nat.shiftRight_eq_div_pow]
  omega

theorem loMinor_lt (r : BitVec 32) : loMinor r < 256 := Nat.mod_lt _ (by decide)
theorem hiMinor_lt (r : BitVec 32) : hiMinor r < 256 := Nat.mod_lt _ (by decide)

/-- The versions of one major that a range covers are those between its lowest and its highest minor there. -/
theorem covers_major_minor {r : BitVec 32} {k n : Nat} (hn : n < 256) :
    Covers r (k * 256 + n) ↔ coversMajor r k = true ∧ botMinor r k ≤ n ∧ n ≤ topMinor r k := by
  have hlo := loMinor_lt r
  have hhi := hiMinor_lt r
  rw [covers_iff, coversMajor, botMinor, topMinor, Bool.and_eq_true, decide_eq_true_eq, decide_eq_true_eq]
  split <;> split <;> omega

theorem topMinor_lt (r : BitVec 32) (k : Nat) : topMinor r k < 256 := by
  have := hiMinor_lt r
  unfold topMinor
  split <;> omega

/-- At one major the negotiated minor is the greatest that both ranges cover, where there is one. -/
theorem covers_both_at_major {a b : BitVec 32} {k n : Nat} (hn : n < 256) :
    Covers a (k * 256 + n) ∧ Covers b (k * 256 + n) ↔
      (coversMajor a k && coversMajor b k) = true ∧ max (botMinor a k) (botMinor b k) ≤ n ∧ n ≤ min (topMinor a k) (topMinor b k) := by
  rw [covers_major_minor hn, covers_major_minor hn, Bool.and_eq_true, max_le_iff, le_min_iff]
  tauto

/-- Counting down from a major finds the greatest common version below it, or there is none. -/
theorem negotiateAt_spec (a b : BitVec 32) (k : Nat) :
    (∃ m n, negotiateAt a b k = some (m, n) ∧ Covers a (m * 256 + n) ∧ Covers b (m * 256 + n) ∧
      ∀ w < k * 256, Covers a w → Covers b w → w ≤ m * 256 + n) ∨
    (negotiateAt a b k = none ∧ ∀ w < k * 256, ¬ (Covers a w ∧ Covers b w)) := by
  induction k with
  | zero => exact .inr ⟨rfl, fun w hw => by omega⟩
  | succ k ih =>
    have htop : min (topMinor a k) (topMinor b k) < 256 := by have := topMinor_lt a k; omega
    have hsplit : ∀ w, k * 256 ≤ w → w < (k + 1) * 256 → ∃ n < 256, w = k * 256 + n := fun w _ _ => ⟨w - k * 256, by omega, by omega⟩
    simp only [negotiateAt]
    split
    next h =>
      rw [Bool.and_eq_true, decide_eq_true_eq] at h
      obtain ⟨hmajor, hminor⟩ := h
      obtain ⟨ha, hb⟩ := (covers_both_at_major htop).2 ⟨hmajor, hminor, le_rfl⟩
      refine .inl ⟨k, _, rfl, ha, hb, fun w hw wa wb => ?_⟩
      by_cases hk : w < k * 256
      · omega
      · obtain ⟨n, hn, rfl⟩ := hsplit w (by omega) hw
        have := ((covers_both_at_major hn).1 ⟨wa, wb⟩).2.2
        omega
    next h =>
      have hnone : ∀ w, k * 256 ≤ w → w < (k + 1) * 256 → ¬ (Covers a w ∧ Covers b w) := by
        rintro w hk hw hc
        obtain ⟨n, hn, rfl⟩ := hsplit w hk hw
        obtain ⟨hmajor, hlo, hhi⟩ := (covers_both_at_major hn).1 hc
        exact h (by simp only [hmajor, Bool.true_and, decide_eq_true_eq]; omega)
      rcases ih with ⟨m, n, e, ha, hb, hmax⟩ | ⟨e, hno⟩
      · refine .inl ⟨m, n, e, ha, hb, fun w hw wa wb => ?_⟩
        exact hmax w (Nat.lt_of_not_le fun hk => hnone w hk hw ⟨wa, wb⟩) wa wb
      · exact .inr ⟨e, fun w hw hc => hno w (Nat.lt_of_not_le fun hk => hnone w hk hw hc) hc⟩

theorem Covers.lt {r : BitVec 32} {v : Nat} (h : Covers r v) : v < 256 * 256 :=
  Nat.lt_of_le_of_lt h.2 (r.extractLsb' 16 16).isLt

/-- The result word of two ranges is the one that R37 and R38 give. -/
theorem negotiated_resultWord (a b : BitVec 32) : Negotiated a b (resultWord (negotiate a b)) := by
  unfold negotiate
  rcases negotiateAt_spec a b 256 with ⟨m, n, e, ha, hb, hmax⟩ | ⟨e, hno⟩
  · rw [e]
    exact .inl ⟨m * 256 + n, ha, hb, by simp only [resultWord]; congr 1; omega, fun w wa wb => hmax w (Covers.lt wa) wa wb⟩
  · rw [e]
    exact .inr ⟨rfl, fun w hc => hno w (Covers.lt hc.1) hc⟩

/-- A table after a value has been set at each key of a list. -/
theorem tget_foldl_tset {α : Type} (d : α) (f : Nat → α) (l : List Nat) (t : Tbl α) (k : Nat) :
    tget d (l.foldl (fun t i => tset t i (f i)) t) k = if k ∈ l then f k else tget d t k := by
  induction l generalizing t with
  | nil => rfl
  | cons i l ih =>
    rw [List.foldl_cons, ih, tget_tset]
    by_cases hk : k = i <;> simp [hk]

/-- After negotiation each host interface shows its result word. -/
theorem State.negotiateAll_negotiated (s : State) {i : Nat} (hi : i ∈ hostIndices) :
    Negotiated (tget 0 s.boot.devRange i) (tget 0 s.boot.hostRange i) (tget 0 s.negotiateAll.boot.negotiated i) := by
  rw [show s.negotiateAll.boot.negotiated = hostIndices.foldl (fun t i => tset t i
      (resultWord (negotiate (tget 0 s.boot.devRange i) (tget 0 s.boot.hostRange i)))) s.boot.negotiated from rfl,
    tget_foldl_tset, if_pos hi]
  exact negotiated_resultWord _ _

theorem State.negotiatedOk_iff (s : State) : s.negotiatedOk = true ↔ ∀ i < 3, (tget 0 s.boot.negotiated i).getLsbD 16 = true := by
  rw [State.negotiatedOk, List.all_eq_true]
  refine forall_congr' fun i => imp_congr_left ?_
  simp only [List.mem_cons, List.not_mem_nil, or_false]
  omega

theorem State.anyQueueOn_iff (s : State) : s.anyQueueOn = true ↔ ∃ q ∈ s.queues, q.2.en = true := List.any_eq_true

/-- IVTCTL in phase 5 negotiates, and enters READY when interfaces 0, 1 and 2 have a version (R38). -/
theorem State.ivtctl_before_ready {s : State} (h : s.boot.phase = 5) : s.ivtctl 1 =
    { s with boot := { s.boot with
      negotiated := s.negotiateAll.boot.negotiated, phase := if s.negotiateAll.negotiatedOk then 6 else 5 } } := by
  unfold State.ivtctl
  rw [if_neg (not_not_intro rfl), if_pos h]
  by_cases hok : s.negotiateAll.negotiatedOk = true
  · rw [if_pos hok, if_pos hok]
    rfl
  · rw [if_neg hok, if_neg hok, ← h]
    rfl

/-- IVTCTL in READY with every queue off negotiates again, and NEGF shows a failure (R39). -/
theorem State.ivtctl_ready {s : State} (h : s.boot.phase = 6) (hq : s.anyQueueOn = false) : s.ivtctl 1 =
    { s with boot := { s.boot with negotiated := s.negotiateAll.boot.negotiated, negf := !s.negotiateAll.negotiatedOk } } := by
  unfold State.ivtctl
  rw [if_neg (not_not_intro rfl), if_neg (by omega), if_pos ⟨h, by rw [hq]; decide⟩]
  rfl

/-- IVTCTL in READY with a queue on changes nothing (R39). -/
theorem State.ivtctl_queue_on {s : State} (h : s.boot.phase = 6) (hq : s.anyQueueOn = true) : s.ivtctl 1 = s := by
  simp [State.ivtctl, h, hq]

theorem State.ivtctl_other {s : State} {val : Dword} (h : val ≠ 1) : s.ivtctl val = s := if_pos h

theorem exec_ivtctlWrite {s : State} (hc : s.hostClear 0 = true) (val : Dword) :
    exec (.ivtctlWrite 0 val) s = .next (s.ivtctl val) :=
  congrArg Host.Outcome.next (if_pos ⟨rfl, hc⟩)

theorem versionsAreNegotiated : VersionsAreNegotiated := by
  intro s hc
  have hok := s.negotiateAll.negotiatedOk_iff
  refine ⟨fun hp => ?_, fun hp hq => ?_, fun hp hq => ?_, fun val hv => ?_⟩
  · exact ⟨_, (exec_ivtctlWrite hc 1).trans (congrArg _ (State.ivtctl_before_ready hp)), rfl, fun i => s.negotiateAll_negotiated,
      fun hgood => if_pos (hok.2 hgood), fun hbad => if_neg (mt hok.1 hbad)⟩
  · have hoff : s.anyQueueOn = false := by
      rw [← Bool.not_eq_true, s.anyQueueOn_iff]
      rintro ⟨q, hm, hon⟩
      exact absurd hon (by rw [hq q hm]; decide)
    refine ⟨_, (exec_ivtctlWrite hc 1).trans (congrArg _ (State.ivtctl_ready hp hoff)), rfl, fun i => s.negotiateAll_negotiated, ?_⟩
    simp only [Bool.not_eq_true', ← Bool.not_eq_true]
    exact not_congr hok
  · rw [exec_ivtctlWrite hc, State.ivtctl_queue_on hp (s.anyQueueOn_iff.2 hq)]
  · rw [exec_ivtctlWrite hc, State.ivtctl_other hv]

/-! ### Device records (R393, R394, R396) -/

theorem b2n_le_one (b : Bool) : b2n b ≤ 1 := by cases b <;> decide

theorem extractLsb'_ofNat {w x a n : Nat} (h : a + n ≤ w) :
    (BitVec.ofNat w x).extractLsb' a n = BitVec.ofNat n (x / 2 ^ a) := by
  refine BitVec.eq_of_getLsbD_eq fun i hi => ?_
  rw [BitVec.getLsbD_extractLsb', BitVec.getLsbD_ofNat, BitVec.getLsbD_ofNat, Nat.testBit_div_two_pow, Nat.add_comm a i]
  simp only [hi, show i + a < w by omega, decide_true, Bool.true_and]

/-- A record without work fields: cause, severity and engine lie in its first word, DETAIL0 behind bit 319. -/
theorem recordBits_layout (r : RecIn) (time : Nat) (lost : Bool) (hl : r.launch = none) :
    ∃ m < 2 ^ 224, recordBits r time lost = BitVec.ofNat 512
      (r.cause % 1024 + r.sev * 2 ^ 10 + r.engine % 2 ^ 16 * 2 ^ 16 + m * 2 ^ 32 + 2 ^ 256 * (time % 2 ^ 64 + 2 ^ 64 * (r.detail % 2 ^ 64))) := by
  have h1 := b2n_le_one r.va.isSome
  have h2 := b2n_le_one r.pa.isSome
  have h3 := b2n_le_one r.dfr
  have h4 := b2n_le_one r.dbl
  have h5 := b2n_le_one r.asyn
  have h6 := b2n_le_one lost
  have h0 : b2n false = 0 := rfl
  refine ⟨r.tenant.getD 0 % 64 + r.ctx % 64 * 2 ^ 8 + (b2n r.va.isSome + 2 * b2n r.pa.isSome + 8 * b2n r.dfr + 16 * b2n r.dbl +
    32 * b2n r.asyn + 64 * b2n lost) * 2 ^ 16 + r.va.getD 0 % 2 ^ 48 * 2 ^ 128 + r.pa.getD 0 % 2 ^ 44 * 2 ^ 176, by omega, ?_⟩
  have hhigh : time % 2 ^ 64 * 2 ^ 256 + r.detail % 2 ^ 64 * 2 ^ 320 = 2 ^ 256 * (time % 2 ^ 64 + 2 ^ 64 * (r.detail % 2 ^ 64)) := by
    rw [Nat.mul_add, ← Nat.mul_assoc, ← Nat.pow_add, Nat.mul_comm, Nat.mul_comm (r.detail % 2 ^ 64)]
  simp only [recordBits, hl, Option.isSome_none, Bool.false_eq_true, if_false, h0, zero_mul, add_zero, -Nat.reducePow]
  refine congrArg (BitVec.ofNat 512) ?_
  rw [Nat.add_assoc _ (time % 2 ^ 64 * 2 ^ 256), hhigh]
  generalize 2 ^ 256 * (time % 2 ^ 64 + 2 ^ 64 * (r.detail % 2 ^ 64)) = high
  omega

theorem recordBits_cause {r : RecIn} (time : Nat) (lost : Bool) (hl : r.launch = none) :
    ((recordBits r time lost).extractLsb' 0 10).toNat = r.cause % 1024 := by
  obtain ⟨m, -, e⟩ := recordBits_layout r time lost hl
  rw [e, extractLsb'_ofNat (by decide), BitVec.toNat_ofNat]
  omega

theorem recordBits_sev {r : RecIn} (time : Nat) (lost : Bool) (hl : r.launch = none) (hs : r.sev < 64) :
    ((recordBits r time lost).extractLsb' 10 6).toNat = r.sev := by
  obtain ⟨m, -, e⟩ := recordBits_layout r time lost hl
  rw [e, extractLsb'_ofNat (by decide), BitVec.toNat_ofNat]
  omega

theorem recordBits_engine {r : RecIn} (time : Nat) (lost : Bool) (hl : r.launch = none) (hs : r.sev < 64) :
    ((recordBits r time lost).extractLsb' 16 16).toNat = r.engine % 2 ^ 16 := by
  obtain ⟨m, -, e⟩ := recordBits_layout r time lost hl
  rw [e, extractLsb'_ofNat (by decide), BitVec.toNat_ofNat]
  omega

theorem recordBits_detail {r : RecIn} (time : Nat) (lost : Bool) (hl : r.launch = none) (hs : r.sev < 64) :
    (recordBits r time lost).extractLsb' 320 64 = BitVec.ofNat 64 r.detail := by
  obtain ⟨m, hm, e⟩ := recordBits_layout r time lost hl
  have hlow : r.cause % 1024 + r.sev * 2 ^ 10 + r.engine % 2 ^ 16 * 2 ^ 16 + m * 2 ^ 32 < 2 ^ 256 := by omega
  rw [e, extractLsb'_ofNat (by decide), show (2 : Nat) ^ 320 = 2 ^ 256 * 2 ^ 64 by rw [← Nat.pow_add], ← Nat.div_div_eq_div_mul,
    Nat.add_mul_div_left _ _ (Nat.two_pow_pos 256), Nat.div_eq_of_lt hlow, Nat.zero_add,
    Nat.add_mul_div_left _ _ (Nat.two_pow_pos 64), Nat.div_eq_of_lt (Nat.mod_lt _ (Nat.two_pow_pos 64)), Nat.zero_add]
  exact BitVec.eq_of_toNat_eq (by simp)

/-- A record that names no tenant and no launch goes to the device log and nowhere else. -/
theorem State.record_device (s : State) {r : RecIn} (ht : r.tenant = none) (hl : r.launch = none) :
    s.record r = { s with log := logAppend s.log 256 (recordBits r s.boot.dtb) } := by
  simp only [State.record, ht, hl]

/-- What a record without tenant and launch leaves in the device log. -/
theorem State.record_recorded (s : State) {r : RecIn} (ht : r.tenant = none) (hl : r.launch = none) (hs : r.sev < 64) :
    Recorded s (s.record r) (r.cause % 1024) r.sev (r.engine % 2 ^ 16) (BitVec.ofNat 64 r.detail) := by
  rw [State.record_device s ht hl]
  unfold Recorded logAppend
  split
  · rfl
  · exact ⟨_, rfl, recordBits_cause _ _ hl, recordBits_sev _ _ hl hs, recordBits_engine _ _ hl hs, recordBits_detail _ _ hl hs⟩

/-- A warning about the device that the host interface reports, with a detail. -/
theorem State.record_host_recorded (s : State) {cause : Nat} (hc : cause < 1024) (detail : Nat) :
    Recorded s (s.record { cause := cause, sev := 1, engine := engineId 8 0x1DA 0, detail := detail }) cause 1 (0x8000 + 8 * 0x1DA)
      (BitVec.ofNat 64 detail) := by
  have h := s.record_recorded (r := { cause := cause, sev := 1, engine := engineId 8 0x1DA 0, detail := detail }) rfl rfl (show 1 < 64 by decide)
  rwa [Nat.mod_eq_of_lt hc] at h

/-! ### The time base (R35) -/

/-- An offset above 1 µs that has lasted 1 s is recorded. -/
theorem exec_dtbOffsetCheck_recorded {s : State} {offsetNs heldNs : Nat} (hd : s.boot.dtbSync = true) (ho : 1000 < offsetNs)
    (hh : 1000000000 ≤ heldNs) : exec (.dtbOffsetCheck offsetNs heldNs) s =
      .next (s.record { cause := 0x34B, sev := 1, engine := engineId 8 0x1DA 0, detail := offsetNs }) :=
  congrArg Host.Outcome.next (if_pos ⟨hd, ho, hh⟩)

theorem exec_ptmRepeat_unsynced {s : State} (hd : s.boot.dtbSync = false) (host : Nat) : exec (.ptmRepeat host) s = .next s :=
  congrArg Host.Outcome.next (if_neg (by simp [hd]))

theorem exec_ptmRepeat_synced {s : State} (hd : s.boot.dtbSync = true) (host : Nat) :
    exec (.ptmRepeat host) s = .next (s.ptm host) :=
  congrArg Host.Outcome.next (if_pos hd)

section
variable {s : State} (hp : s.boot.phase ≠ 0) (hu : s.boot.linkUp = true)
include hp hu

theorem State.ptm_first (hd : s.boot.dtbSync = false) (host : Nat) :
    s.ptm host = { s with boot := { s.boot with dtb := host, dtbSync := true } } := by
  simp [State.ptm, hp, hu, hd]

theorem State.ptm_later (hd : s.boot.dtbSync = true) (host : Nat) :
    s.ptm host = { s with boot := { s.boot with slew := (host : Int) - (s.boot.dtb : Int) } } := by
  simp [State.ptm, hp, hu, hd]

/-! ### The configuration space (R24, R250) -/

/-- A configuration request is retried while no table is in use. -/
theorem exec_configurationRequest_retried (hc : s.boot.cct = none) (fn : Nat) (resize : Option Nat) :
    exec (.configurationRequest fn resize) s = .next (s.answer fn (2 ^ 40) 1) := by
  show execConfigurationRequest fn resize s = _
  simp [execConfigurationRequest, hp, hu, hc]

/-- A read of the configuration space shows NumVF and the function's BAR 2 size. -/
theorem exec_configurationRequest_read {c : Cct} (hc : s.boot.cct = some c) (fn : Nat) :
    exec (.configurationRequest fn none) s =
      .next (s.answer fn (2 ^ 40) (BitVec.ofNat 512 (2 * c.numVf + s.bar2Exp fn * 2 ^ 8))) := by
  show execConfigurationRequest fn none s = _
  simp [execConfigurationRequest, hp, hu, hc]

/-- A size within the function's range is taken, and the answer shows it. -/
theorem exec_configurationRequest_resize {c : Cct} (hc : s.boot.cct = some c) {fn e : Nat}
    (he : (fn = 0 ∧ e ≤ 8) ∨ (fn ≠ 0 ∧ fn ≤ c.numVf ∧ e ≤ 6)) :
    exec (.configurationRequest fn (some e)) s =
      .next ({ s with boot := { s.boot with bar2 := tset s.boot.bar2 fn e } }.answer fn (2 ^ 40)
        (BitVec.ofNat 512 (2 * c.numVf + e * 2 ^ 8))) := by
  have hok : (if fn = 0 then decide (e ≤ 8) else decide (fn ≤ c.numVf) && decide (e ≤ 6)) = true := by
    rcases he with ⟨h0, h⟩ | ⟨h0, hv, h⟩
    · simp [h0, h]
    · simp [h0, hv, h]
  show execConfigurationRequest fn (some e) s = _
  simp [execConfigurationRequest, hp, hu, hc, hok, State.bar2Exp]

end

/-! ### Throttling (R20, R431) -/

theorem atLimit_iff (temp : Nat) : atLimit temp = true ↔ 110 ≤ temp ∨ (100 ≤ temp ∧ Config.extendedGrade = false) := by
  simp [atLimit]

theorem satInc_eq_min (x top : Nat) : satInc x top = min (x + 1) top := by
  unfold satInc
  split <;> omega

/-- Below the grade limit only the temperature is noted. -/
theorem exec_thermalThrottle_below {s : State} {temp : Nat} (h : atLimit temp = false) :
    exec (.thermalThrottle temp) s = .next { s with boot := { s.boot with tj := min 255 (temp + 64) } } :=
  congrArg Host.Outcome.next (if_neg (by simp [h]))

/-- At the grade limit the clock goes one step down, and a record tells the temperature. -/
theorem exec_thermalThrottle_atLimit {s : State} {temp : Nat} (h : atLimit temp = true) :
    exec (.thermalThrottle temp) s =
      .next ({ s with boot := { s.boot with
          tj := min 255 (temp + 64), clkStep := min 15 (s.boot.clkStep + 1), thr := satInc s.boot.thr 0xFFFF } }.record
        { cause := 0x34A, sev := 1, engine := engineId 8 0x1DA 0, detail := temp }) :=
  congrArg Host.Outcome.next (if_pos h)

theorem timeAndClock : TimeAndClock := by
  intro s n m
  refine ⟨fun hp hu hd => ?_, fun hp hu hd => ?_, fun hd hn _ hm => ?_, fun hp hu => ⟨fun hc resize => ?_, fun c hc => ?_⟩,
    fun hn => ?_, fun hn hlt => ?_, ?_⟩
  · exact ⟨congrArg _ (State.ptm_first hp hu hd n), exec_ptmRepeat_unsynced hd n⟩
  · have h := State.ptm_later hp hu hd n
    exact ⟨congrArg _ h, (exec_ptmRepeat_synced hd n).trans (congrArg _ h)⟩
  · exact ⟨_, exec_dtbOffsetCheck_recorded hd hn hm, s.record_mem _, rfl, s.record_host_recorded (by decide) n⟩
  · exact exec_configurationRequest_retried hp hu hc n resize
  · exact ⟨exec_configurationRequest_read hp hu hc n, exec_configurationRequest_resize hp hu hc⟩
  · have htj : min 255 (n + 64) = n + 64 := by omega
    rw [exec_thermalThrottle_below (Bool.eq_false_iff.2 (mt (atLimit_iff n).1 hn)), htj]
  · have htj : min 255 (n + 64) = n + 64 := by omega
    refine ⟨_, exec_thermalThrottle_atLimit ((atLimit_iff n).2 hn), State.record_mem _ _, rfl, ?_, State.record_host_recorded _ (by decide) n⟩
    rw [State.record_device _ rfl rfl, htj, satInc_eq_min]
  · refine ⟨_, rfl, rfl, ?_⟩
    show s.free % _ < _
    split <;> omega

end Sys2Proof.Machine

/-- Settles O42: negotiation counts down to the greatest common version (`Machine.versionsAreNegotiated`), and each form of the time
  base, the configuration space and the throttle has its equation (`Machine.timeAndClock`). -/
theorem Sys2Proof.versionsAndTimeAreKept : Obligations.VersionsAndTimeAreKept :=
  ⟨Machine.versionsAreNegotiated, Machine.timeAndClock⟩

/-! ## Reset and boot

Power-on reset gives every field its reset value, and an empty table reads as its default everywhere. -/

/-- Settles O60: after reset every table is empty, so that each entry reads as its default, and every other field holds the value that
  its register map gives. -/
theorem Sys2Proof.resetLeavesTheStatedValues : Obligations.ResetLeavesTheStatedValues := by
  refine ⟨rfl, rfl, rfl, rfl, rfl, rfl, rfl, rfl, rfl, rfl, fun k => ?_, rfl, rfl, rfl, rfl, rfl, rfl, rfl, rfl, rfl, rfl, fun tile slot => ?_, rfl,
    rfl, rfl, Machine.reset_memory_wf, rfl⟩
  · rw [show Machine.State.reset.queue k = {} from rfl]
    exact ⟨rfl, rfl, rfl, rfl, rfl⟩
  · rw [show Machine.State.reset.ctx tile slot = {} from rfl]

namespace Sys2Proof.Machine

/-- Two bytes in falling order: the list form that no step reaches, and that an arbitrary state may hold. The byte at the start of host
memory stands behind one of the XA shared SRAM, so that it reads 0 until the reset has taken the other away. -/
def unsortedMemory : List Host.Cell := [(xaLoc, 1), (hostLoc, 1)]

theorem unsortedMemory_not_canonical : Memory.wf unsortedMemory = false := by decide

theorem unsortedMemory_host_byte : memGet unsortedMemory hostLoc = 0 := by decide

/-- The host memory that a power-on reset of a state with this memory keeps. -/
theorem unsortedMemory_host_byte_kept :
    memGet (unsortedMemory.filter fun c => decide (hostLoc ≤ c.1) && decide (c.1 < xaLoc)) hostLoc = 1 := by decide

/-- A power-on reset changes what host memory reads as where the list of bytes is not in canonical form. -/
theorem not_resetKeepsNothing : ¬ ResetKeepsNothing := by
  intro h
  obtain ⟨t, hexec, -, hmem⟩ := h { State.reset with mem := unsortedMemory }
  cases hexec
  have hkept := hmem hostLoc
  rw [if_pos ⟨le_rfl, by decide⟩] at hkept
  exact absurd (hkept.symm.trans unsortedMemory_host_byte_kept) (by rw [unsortedMemory_host_byte]; decide)

end Sys2Proof.Machine

/-- Refutes O41: the statement does not ask for canonical memory, and host memory does not stay where the list of bytes is not sorted
  (`Machine.not_resetKeepsNothing`). -/
theorem Sys2Proof.not_theDeviceBoots : ¬ Obligations.TheDeviceBoots :=
  fun h => Machine.not_resetKeepsNothing h.1

/-! ## The host's queue and device registers

A host write that HostMay allows passes every gate in front of its register, so that each register has one equation. A cancellation
marks launches and tasks; what counts of them is a view (`Inst.mark`, `Task.mark`, `State.Over`) that records, ladders and seizures keep. -/

namespace Sys2Proof.Machine

/-! ### Writes that reach a queue's registers (R83 to R86) -/

section
variable {s : State} {fn k : Nat} (hk : k < 64) (h : HostMay s fn (s.queue k).tenant) (val : Dword)
include h

theorem State.hostWrite_of_may (f : State → State) : s.hostWrite fn f = f s := by
  obtain ⟨hp, hfn, -, hc⟩ := h
  exact if_pos ⟨by simp [State.fnOk, hfn, hc], hp⟩

theorem State.sees_of_may : s.sees fn (s.queue k).tenant = true := by
  obtain ⟨-, hfn, ht, -⟩ := h
  rw [State.sees, Bool.or_eq_true, Bool.and_eq_true, beq_iff_eq, beq_iff_eq, decide_eq_true_eq]
  exact ht.imp_right fun ht => ⟨by omega, ht⟩

include hk

theorem State.queueWrite_tail : s.queueWrite fn k 0x08 val = s.setQueue k ((s.queue k).writeTail val) := by
  simp [State.queueWrite, hk, State.sees_of_may h]

theorem State.queueWrite_ctl : s.queueWrite fn k 0x18 val = s.qctl k val := by
  simp [State.queueWrite, hk, State.sees_of_may h]

theorem State.queueWrite_cancel : s.queueWrite fn k 0x40 val = s.qcancel k val := by
  simp [State.queueWrite, hk, State.sees_of_may h]

theorem exec_qtailDoorbell : exec (.qtailDoorbell fn k val) s = .next (s.setQueue k ((s.queue k).writeTail val)) := by
  rw [← State.queueWrite_tail hk h]
  exact congrArg _ (State.hostWrite_of_may h _)

theorem exec_qctlEnable (hen : (s.queue k).en = false) (hon : val.getLsbD 0 = true) :
    exec (.qctlEnable fn k val) s = .next (s.qctl k val) := by
  rw [← State.queueWrite_ctl hk h]
  exact congrArg _ ((State.hostWrite_of_may h _).trans (if_pos ⟨by simp [hen], hon⟩))

theorem exec_qctlDisable (hen : (s.queue k).en = true) (hoff : val.getLsbD 0 = false) :
    exec (.qctlDisable fn k val) s = .next (s.qctl k val) := by
  rw [← State.queueWrite_ctl hk h]
  exact congrArg _ ((State.hostWrite_of_may h _).trans (if_pos ⟨hen, by rw [hoff]; decide⟩))

theorem exec_qctlResume (hen : (s.queue k).en = true) (hon : val.getLsbD 0 = true) (hres : val.getLsbD 1 = true) :
    exec (.qctlResume fn k val) s = .next (s.qctl k val) := by
  rw [← State.queueWrite_ctl hk h]
  exact congrArg _ ((State.hostWrite_of_may h _).trans (if_pos ⟨hen, hon, hres⟩))

theorem exec_qcancelWrite : exec (.qcancelWrite fn k val) s = .next (s.qcancel k val) := by
  rw [← State.queueWrite_cancel hk h]
  exact congrArg _ (State.hostWrite_of_may h _)

end

/-! ### The doorbell and QCTL (R39, R85, R86) -/

section
variable {q : Queue} (val : Dword)

theorem Queue.writeTail_off (h : q.en = false) : q.writeTail val = q := by simp [Queue.writeTail, h]

theorem Queue.writeTail_inRing (h : q.en = true) (hv : dfld val 23 0 % 4 = 0 ∧ dfld val 23 0 < q.ring) :
    q.writeTail val = { q with tail := dfld val 23 0 } := by
  simp [Queue.writeTail, h, hv]

theorem Queue.writeTail_outside (h : q.en = true) (hv : ¬ (dfld val 23 0 % 4 = 0 ∧ dfld val 23 0 < q.ring)) :
    q.writeTail val = { q with cause := 0x2CA } := by
  simp [Queue.writeTail, h, hv]

end

@[simp] theorem State.setQueue_setQueue (s : State) (k : Nat) (x y : Queue) : (s.setQueue k x).setQueue k y = s.setQueue k y := by
  simp [State.setQueue, tset_tset]

theorem State.settleQueue_setQueue (s : State) (k : Nat) (q : Queue) :
    (s.setQueue k q).settleQueue k = s.setQueue k { q with st := if (s.setQueue k q).queueReady k then 2 else 1 } := by
  rw [State.settleQueue, State.setQueue_setQueue, State.queue_setQueue]

theorem State.unserve_eq (s : State) (k : Nat) :
    s.unserve k = { s with serving := if tget 0 s.serving (k / 8) = k + 1 then tset s.serving (k / 8) 0 else s.serving } := by
  unfold State.unserve
  split <;> rfl

/-- In an indirect buffer the next instruction is there. -/
theorem State.queueReady_in_buffer {s : State} {k : Nat} (h : (s.queue k).ibs ≠ []) : s.queueReady k = true := by
  have hl : (s.queue k).level ≠ 0 := mt List.eq_nil_of_length_eq_zero h
  simp [State.queueReady, hl]

/-- At the ring no instruction lies between equal pointers. -/
theorem State.queueReady_at_tail {s : State} {k : Nat} (h : (s.queue k).ibs = []) (ht : (s.queue k).ip = (s.queue k).tail) :
    s.queueReady k = false := by
  have hl : (s.queue k).level = 0 := by rw [Queue.level, h]; rfl
  have hleft : (s.queue k).left = 0 := by simp [Queue.left, h, ht]
  simp [State.queueReady, hl, hleft]

section
variable {s : State} {k : Nat} {val : Dword}

theorem State.qctl_enable (hen : (s.queue k).en = false) (hon : val.getLsbD 0 = true) (hn : s.boot.negf = false) :
    s.qctl k val = s.setQueue k ((s.queue k).enable val) := by
  simp [State.qctl, hen, hon, hn]

theorem State.qctl_enable_refused (hen : (s.queue k).en = false) (hon : val.getLsbD 0 = true) (hn : s.boot.negf = true) :
    s.qctl k val = s := by
  simp [State.qctl, hen, hon, hn]

theorem State.qctl_disable (hen : (s.queue k).en = true) (hoff : val.getLsbD 0 = false) :
    s.qctl k val = (s.setQueue k { ((s.queue k).writeCtl val).cleared with en := false, st := 0 }).unserve k := by
  rw [State.qctl, if_neg (by simp [hen]), if_pos (by rw [hoff]; decide)]

theorem State.qctl_resume_running (hen : (s.queue k).en = true) (hon : val.getLsbD 0 = true) (hst : (s.queue k).st ≠ 5) :
    s.qctl k val = s.setQueue k ((s.queue k).writeCtl val) := by
  simp [State.qctl, hen, hon, Queue.writeCtl, hst]

theorem State.qctl_resume_faulted (hen : (s.queue k).en = true) (hon : val.getLsbD 0 = true) (hres : val.getLsbD 1 = true)
    (hst : (s.queue k).st = 5) : s.qctl k val = (s.setQueue k ((s.queue k).writeCtl val).discard).settleQueue k := by
  simp [State.qctl, hen, hon, hres, Queue.writeCtl, hst]

end

/-! ### What a cancellation keeps (R42, R87, R403, R407) -/

theorem tget_map {α : Type} {d : α} {f : α → α} (hd : f d = d) (t : Tbl α) (k : Nat) :
    tget d (t.map fun p => (p.1, f p.2)) k = f (tget d t k) := by
  induction t with
  | nil => exact hd.symm
  | cons p t ih =>
    simp only [List.map_cons, tget]
    split
    · rfl
    · exact ih

/-- What a cancellation reads of a level (`Inst`). -/
def Inst.mark (i : Inst) : (Nat × Nat × Nat) × Bool × Bool := ((i.tenant, i.kind, i.id), i.closed, i.cancelled)

/-- What a kill reads and marks of a task. -/
def Task.mark (t : Task) : Nat × Nat × Bool := (t.id, t.launch, t.killing)

/-- Every launch of a key is cancelled, closed, and has no task to place. -/
def State.Over (s : State) (key : Nat) : Prop :=
  ∀ l ∈ s.launches, l.key = key → l.cancelled = true ∧ l.closed = true ∧ l.nextTask = none

/-- Every placed task of a launch is being killed. -/
def State.Killing (s : State) (key : Nat) : Prop := ∀ t ∈ s.tasks, t.launch = key → t.killing = true

/-- Contexts, tasks and instances are the same to a cancellation, and no launch has appeared or come back to life. -/
structure KeepsWork (s t : State) : Prop where
  ctxs : t.ctxs = s.ctxs
  saved : t.saved = s.saved
  tasks : t.tasks.map Task.mark = s.tasks.map Task.mark
  insts : t.insts.map Inst.mark = s.insts.map Inst.mark
  keys : t.launches.map (·.key) = s.launches.map (·.key)
  isOver : ∀ key, s.Over key → t.Over key

theorem KeepsWork.refl (s : State) : KeepsWork s s := ⟨rfl, rfl, rfl, rfl, rfl, fun _ h => h⟩

theorem KeepsWork.trans {s t u : State} (h : KeepsWork s t) (g : KeepsWork t u) : KeepsWork s u :=
  ⟨g.ctxs.trans h.ctxs, g.saved.trans h.saved, g.tasks.trans h.tasks, g.insts.trans h.insts, g.keys.trans h.keys,
    fun key hk => g.isOver key (h.isOver key hk)⟩

theorem KeepsWork.foldl {α : Type} {f : State → α → State} (hf : ∀ s a, KeepsWork s (f s a)) (l : List α) (s : State) :
    KeepsWork s (l.foldl f s) :=
  List.foldlRecOn l f (motive := KeepsWork s) (.refl s) fun t ht a _ => ht.trans (hf t a)

theorem State.setLaunch_keys (s : State) (l : Launch) : (s.setLaunch l).launches.map (·.key) = s.launches.map (·.key) := by
  simp only [State.setLaunch, List.map_map]
  refine List.map_congr_left fun x _ => ?_
  simp only [Function.comp_apply]
  split
  · next h => exact h.symm
  · rfl

theorem State.Over.setLaunch {s : State} {key : Nat} (h : s.Over key) {l : Launch}
    (hl : l.key = key → l.cancelled = true ∧ l.closed = true ∧ l.nextTask = none) : (s.setLaunch l).Over key := by
  intro x hx hkey
  obtain ⟨y, hy, rfl⟩ := List.mem_map.1 hx
  by_cases hyl : y.key = l.key
  · rw [if_pos hyl] at hkey ⊢
    exact hl hkey
  · rw [if_neg hyl] at hkey ⊢
    exact h y hy hkey

theorem State.launch?_spec {s : State} {key : Nat} {l : Launch} (h : s.launch? key = some l) : l ∈ s.launches ∧ l.key = key :=
  ⟨List.mem_of_find?_eq_some h, by simpa using List.find?_some h⟩

theorem State.launch?_of_mem_keys {s : State} {key : Nat} (h : key ∈ s.launches.map (·.key)) : ∃ l, s.launch? key = some l := by
  obtain ⟨l, hl, hkey⟩ := List.mem_map.1 h
  exact Option.isSome_iff_exists.1 (List.find?_isSome.2 ⟨l, hl, by simpa using hkey⟩)

/-- A record counts in its launch and instances. -/
theorem State.countRec_keepsWork (s : State) (l : Launch) (drop : Bool) : KeepsWork s (s.countRec l drop) := by
  refine ⟨rfl, rfl, rfl, ?_, State.setLaunch_keys s _, fun key h => ?_⟩
  · simp only [State.countRec, State.setLaunch, List.map_map]
    refine List.map_congr_left fun i _ => ?_
    simp only [Function.comp_apply]
    split <;> rfl
  · cases hl : s.launch? l.key with
    | some l' =>
      obtain ⟨hmem, hkey⟩ := State.launch?_spec hl
      refine State.Over.setLaunch h fun e => ?_
      rw [hl] at e ⊢
      exact h l' hmem e
    | none =>
      intro x hx e
      obtain ⟨y, hy, rfl⟩ := List.mem_map.1 hx
      have hne : y.key ≠ l.key := by simpa using List.find?_eq_none.1 hl y hy
      rw [hl, Option.getD_none, if_neg hne] at e ⊢
      exact h y hy e

theorem State.record_keepsWork (s : State) (r : RecIn) : KeepsWork s (s.record r) := by
  unfold State.record
  extract_lets bits u v
  have hv : KeepsWork s v := by
    unfold v
    split <;> exact ⟨rfl, rfl, rfl, rfl, rfl, fun _ h => h⟩
  split
  · exact hv.trans (State.countRec_keepsWork v _ _)
  · exact hv

theorem State.recordKills_keepsWork (s : State) (l : Launch) (cause : Nat) : KeepsWork s (s.recordKills l cause) :=
  KeepsWork.foldl (fun s _ => s.record_keepsWork _) _ s

theorem State.send_keepsWork (s : State) (m : Msg) : KeepsWork s (s.send m) := ⟨rfl, rfl, rfl, rfl, rfl, fun _ h => h⟩

theorem State.setQueue_keepsWork (s : State) (k : Nat) (q : Queue) : KeepsWork s (s.setQueue k q) :=
  ⟨rfl, rfl, rfl, rfl, rfl, fun _ h => h⟩

theorem State.killSeizures_keepsWork (s : State) (ids : List Nat) : KeepsWork s (s.killSeizures ids) :=
  KeepsWork.foldl (fun s _ => s.send_keepsWork _) _ s

theorem State.unsave_keepsWork (s : State) (k : Nat) : KeepsWork s (s.unsave k) := by
  simp only [State.unsave]
  split
  · exact s.setQueue_keepsWork k _
  · exact .refl s

theorem State.abandonSaves_keepsWork (s : State) (k : Nat) : KeepsWork s (s.abandonSaves k) := by
  refine ⟨rfl, rfl, ?_, rfl, rfl, fun _ h => h⟩
  simp only [State.abandonSaves, List.map_map]
  refine List.map_congr_left fun t _ => ?_
  simp only [Function.comp_apply]
  split <;> rfl

theorem State.endLadder_keepsWork (s : State) (k : Nat) : KeepsWork s (s.endLadder k) :=
  (s.setQueue_keepsWork k _).trans ((State.abandonSaves_keepsWork _ k).trans (State.unsave_keepsWork _ k))

theorem State.endLadders_keepsWork (s : State) (key : Nat) : KeepsWork s (s.endLadders key) :=
  KeepsWork.foldl (fun s k => s.endLadder_keepsWork k) _ s

/-! ### A launch cancelled (R391, R403) -/

/-- A bank whose wait a kill of these tasks removes. -/
def Bank.dropWait (ids : List Nat) (b : Bank) : Bank :=
  if ids.contains b.task ∧ ¬ b.wait.any Wait.keepsPins then { b with wait := none } else b

theorem Bank.dropWait_other {ids : List Nat} {b : Bank} (h : b.task ∉ ids) : b.dropWait ids = b := by
  simp [Bank.dropWait, h]

theorem Bank.dropWait_default (ids : List Nat) : Bank.dropWait ids {} = {} := by
  unfold Bank.dropWait
  split <;> rfl

theorem State.ctx_dropWaits (s : State) (ids : List Nat) (tile slot : Nat) :
    (s.dropWaits ids).ctx tile slot =
      { s.ctx tile slot with b0 := (s.ctx tile slot).b0.dropWait ids, b1 := (s.ctx tile slot).b1.dropWait ids } :=
  tget_map (f := fun c : Ctx => { c with b0 := c.b0.dropWait ids, b1 := c.b1.dropWait ids })
    (by rw [Bank.dropWait_default]) s.ctxs _

theorem State.bank_dropWaits (s : State) (ids : List Nat) (r : BankRef) : (s.dropWaits ids).bank r = (s.bank r).dropWait ids := by
  rw [State.bank, State.ctx_dropWaits, State.bank, Ctx.bank, Ctx.bank]
  split <;> rfl

/-- A slot that a kill of these tasks disarms. -/
def Reflex.disarmed (ids : List Nat) (x : Reflex) : Reflex :=
  if x.preset.any (fun p => ids.contains p.task) then { x with armed := false } else x

theorem State.ctx_disarm (s : State) (ids : List Nat) (tile slot : Nat) :
    (s.disarm ids).ctx tile slot = { s.ctx tile slot with reflex := (s.ctx tile slot).reflex.disarmed ids } :=
  tget_map (f := fun c : Ctx => { c with reflex := c.reflex.disarmed ids }) rfl s.ctxs _

@[simp] theorem State.bank_disarm (s : State) (ids : List Nat) (r : BankRef) : (s.disarm ids).bank r = s.bank r := by
  rw [State.bank, State.ctx_disarm]
  rfl

theorem KeepsWork.bank {s t : State} (h : KeepsWork s t) (r : BankRef) : t.bank r = s.bank r := by
  rw [State.bank, State.ctx, h.ctxs]
  rfl

theorem KeepsWork.killing {s t : State} (h : KeepsWork s t) {key : Nat} (hs : s.Killing key) : t.Killing key := by
  intro x hx hkey
  obtain ⟨y, hy, e⟩ := List.mem_map.1 (h.tasks ▸ List.mem_map_of_mem (f := Task.mark) hx)
  have he := Prod.mk.inj (Prod.mk.inj e).2
  rw [← he.2]
  exact hs y hy (he.1.trans hkey)

/-- Numbers of the tasks of a launch, placed or saved. -/
def State.taskIds (s : State) (key : Nat) : List Nat := ((s.tasks ++ s.saved.map (·.task)).filter fun t => t.launch == key).map (·.id)

theorem KeepsWork.taskIds {s t : State} (h : KeepsWork s t) (key : Nat) : t.taskIds key = s.taskIds key := by
  have hview : ∀ ts : List Task, (ts.filter fun t => t.launch == key).map (·.id) =
      ((ts.map Task.mark).filter fun m => m.2.1 == key).map (·.1) := by
    intro ts
    rw [List.filter_map, List.map_map]
    rfl
  rw [State.taskIds, State.taskIds, List.filter_append, List.filter_append, List.map_append, List.map_append, hview t.tasks, h.tasks,
    ← hview, h.saved]

/-- A launch marked for kill, as its table entry shows it. -/
def Launch.killed (l : Launch) (why : Nat) : Launch :=
  { l with closed := true, next := l.taskCount, again := [], reserved := false, cancelled := true, faulted := l.faulted || why == 2 }

/-- The tasks of a launch marked for kill. -/
def State.markTasks (s : State) (key why : Nat) : State :=
  { s with
    tasks := s.tasks.map (fun (t : Task) => if t.launch = key then { t with killing := true, why := why } else t),
    saved := s.saved.map (fun (v : Saved) =>
      if v.task.launch = key then { v with task := { v.task with killing := true, why := why } } else v) }

/-- The tasks of a launch whose kill begins. -/
def State.dyingIds (s : State) (key : Nat) : List Nat :=
  ((s.tasks ++ s.saved.map (·.task)).filter (fun t => t.launch == key && !t.killing)).map (·.id)

theorem State.dyingIds_subset (s : State) (key : Nat) : s.dyingIds key ⊆ s.taskIds key :=
  List.map_subset _ fun t ht => by
    rw [List.mem_filter, Bool.and_eq_true] at ht
    exact List.mem_filter.2 ⟨ht.1, ht.2.1⟩

theorem State.killLaunch_eq {s : State} {key : Nat} {l : Launch} (h : s.launch? key = some l) (why : Nat) :
    s.killLaunch key why =
      (((((s.setLaunch (l.killed why)).markTasks key why).dropWaits (s.dyingIds key)).disarm (s.dyingIds key)).killSeizures
        (s.dyingIds key)).endLadders key := by
  rw [State.killLaunch, h]
  rfl

section
variable {s : State} {key : Nat} (why : Nat)

theorem State.killLaunch_none (h : s.launch? key = none) : s.killLaunch key why = s := by
  rw [State.killLaunch, h]

variable {l : Launch} (h : s.launch? key = some l)
include h

/-- What of a kill stands behind its marks keeps the work that the marks leave. -/
theorem State.killLaunch_keepsWork_marked :
    KeepsWork { (s.setLaunch (l.killed why)).markTasks key why with ctxs := (s.killLaunch key why).ctxs } (s.killLaunch key why) := by
  rw [State.killLaunch_eq h]
  have g := (State.killSeizures_keepsWork ((((s.setLaunch (l.killed why)).markTasks key why).dropWaits (s.dyingIds key)).disarm
    (s.dyingIds key)) (s.dyingIds key)).trans (State.endLadders_keepsWork _ key)
  exact ⟨rfl, g.saved, g.tasks, g.insts, g.keys, g.isOver⟩

theorem State.killLaunch_bank {r : BankRef} (hr : (s.bank r).task ∉ s.taskIds key) : (s.killLaunch key why).bank r = s.bank r := by
  rw [State.killLaunch_eq h, (State.endLadders_keepsWork _ key).bank, (State.killSeizures_keepsWork _ _).bank, State.bank_disarm,
    State.bank_dropWaits]
  exact Bank.dropWait_other fun hm => hr (s.dyingIds_subset key hm)

end

/-- A killed launch has no task to place. -/
theorem Launch.killed_nextTask (l : Launch) (why : Nat) : (l.killed why).nextTask = none := by
  simp [Launch.nextTask, Launch.killed]

/-- The launches of a key and their tasks have been cancelled. -/
structure State.Cancelled (s : State) (key : Nat) : Prop where
  isOver : s.Over key
  killing : s.Killing key

/-- Launches and instances are named as before, instances are as open as before, and what has been cancelled stays so. -/
structure KeepsCancelled (s t : State) : Prop where
  insts : t.insts.map Inst.mark = s.insts.map Inst.mark
  keys : t.launches.map (·.key) = s.launches.map (·.key)
  cancelled : ∀ key, s.Cancelled key → t.Cancelled key

theorem KeepsCancelled.refl (s : State) : KeepsCancelled s s := ⟨rfl, rfl, fun _ h => h⟩

theorem KeepsCancelled.trans {s t u : State} (h : KeepsCancelled s t) (g : KeepsCancelled t u) : KeepsCancelled s u :=
  ⟨g.insts.trans h.insts, g.keys.trans h.keys, fun key hk => g.cancelled key (h.cancelled key hk)⟩

theorem KeepsWork.keepsCancelled {s t : State} (h : KeepsWork s t) : KeepsCancelled s t :=
  ⟨h.insts, h.keys, fun key hk => ⟨h.isOver key hk.isOver, h.killing hk.killing⟩⟩

section
variable {s : State} {key : Nat} {l : Launch} (h : s.launch? key = some l) (why : Nat)
include h

theorem State.setLaunch_killed_over : (s.setLaunch (l.killed why)).Over key := by
  intro x hx hkey
  obtain ⟨y, hy, rfl⟩ := List.mem_map.1 hx
  have hl : (l.killed why).key = key := (State.launch?_spec h).2
  by_cases hyl : y.key = (l.killed why).key
  · rw [if_pos hyl]
    exact ⟨rfl, rfl, l.killed_nextTask why⟩
  · rw [if_neg hyl] at hkey
    exact absurd (hkey.trans hl.symm) hyl

theorem State.killLaunch_cancelled : (s.killLaunch key why).Cancelled key := by
  have g := State.killLaunch_keepsWork_marked why h
  refine ⟨g.isOver key (State.setLaunch_killed_over h why), g.killing fun x hx hkey => ?_⟩
  obtain ⟨y, hy, rfl⟩ := List.mem_map.1 hx
  by_cases hyk : y.launch = key
  · rw [if_pos hyk]
  · rw [if_neg hyk] at hkey
    exact absurd hkey hyk

end

theorem State.killLaunch_keepsCancelled (s : State) (key why : Nat) : KeepsCancelled s (s.killLaunch key why) := by
  cases h : s.launch? key with
  | none =>
    rw [State.killLaunch_none why h]
    exact .refl s
  | some l =>
    have g := State.killLaunch_keepsWork_marked why h
    refine ⟨g.insts, g.keys.trans (State.setLaunch_keys s _), fun k hk => ⟨g.isOver k ?_, g.killing fun x hx hlaunch => ?_⟩⟩
    · exact hk.isOver.setLaunch fun _ => ⟨rfl, rfl, l.killed_nextTask why⟩
    · obtain ⟨y, hy, rfl⟩ := List.mem_map.1 hx
      by_cases hyk : y.launch = key
      · rw [if_pos hyk]
      · rw [if_neg hyk] at hlaunch ⊢
        exact hk.killing y hy hlaunch

theorem State.cancelLaunch_keepsCancelled (s : State) (l : Launch) (cause : Nat) : KeepsCancelled s (s.cancelLaunch l cause) :=
  (s.recordKills_keepsWork l cause).keepsCancelled.trans (State.killLaunch_keepsCancelled _ _ _)

section
variable {s : State} {l : Launch} (h : l.key ∈ s.launches.map (·.key)) (cause : Nat)
include h

theorem State.launch?_recordKills : ∃ l', (s.recordKills l cause).launch? l.key = some l' :=
  State.launch?_of_mem_keys (by rwa [(s.recordKills_keepsWork l cause).keys])

theorem State.cancelLaunch_cancelled : (s.cancelLaunch l cause).Cancelled l.key := by
  obtain ⟨l', hl'⟩ := State.launch?_recordKills h cause
  exact State.killLaunch_cancelled hl' 0

theorem State.cancelLaunch_bank {r : BankRef} (hr : (s.bank r).task ∉ s.taskIds l.key) : (s.cancelLaunch l cause).bank r = s.bank r := by
  obtain ⟨l', hl'⟩ := State.launch?_recordKills h cause
  have g := s.recordKills_keepsWork l cause
  rw [← g.taskIds, ← g.bank] at hr
  exact (State.killLaunch_bank 0 hl' hr).trans (g.bank r)

end

/-- Launches cancelled one after the other. -/
theorem cancelLaunches_spec (cause : Nat) (ls : List Launch) (s : State) :
    KeepsCancelled s (ls.foldl (fun s l => s.cancelLaunch l cause) s) ∧
      ∀ l ∈ ls, l.key ∈ s.launches.map (·.key) → (ls.foldl (fun s l => s.cancelLaunch l cause) s).Cancelled l.key := by
  induction ls generalizing s with
  | nil => exact ⟨.refl s, fun l hl => absurd hl List.not_mem_nil⟩
  | cons a ls ih =>
    have ha := s.cancelLaunch_keepsCancelled a cause
    obtain ⟨hrest, hall⟩ := ih (s.cancelLaunch a cause)
    refine ⟨ha.trans hrest, fun l hl hkey => ?_⟩
    rcases List.mem_cons.1 hl with rfl | hl
    · exact hrest.cancelled _ (State.cancelLaunch_cancelled hkey cause)
    · exact hall l hl (by rwa [ha.keys])

/-! ### QCANCEL (R87, R115) -/

theorem State.inst?_mark (s : State) (t kind id : Nat) :
    (s.inst? t kind id).map Inst.mark =
      (s.insts.map Inst.mark).find? fun m => m.1.1 == t && m.1.2.1 == kind && m.1.2.2 == id := by
  rw [List.find?_map]
  rfl

theorem KeepsCancelled.inst? {s t : State} (h : KeepsCancelled s t) {tn kind id : Nat} {i : Inst} (hi : s.inst? tn kind id = some i) :
    ∃ j, t.inst? tn kind id = some j ∧ j.closed = i.closed ∧ j.cancelled = i.cancelled := by
  have e := State.inst?_mark t tn kind id
  rw [h.insts, ← State.inst?_mark, hi] at e
  obtain ⟨j, hj, hm⟩ := Option.map_eq_some_iff.1 e
  exact ⟨j, hj, congrArg (fun m => m.2.1) hm, congrArg (fun m => m.2.2) hm⟩

/-- A change of instances that leaves their names finds the changed one. -/
theorem State.inst?_map {s : State} {f : Inst → Inst} (hf : ∀ i, (f i).mark.1 = i.mark.1) {t kind id : Nat} :
    ({ s with insts := s.insts.map f } : State).inst? t kind id = (s.inst? t kind id).map f := by
  rw [State.inst?, List.find?_map]
  refine congrArg (fun p => (s.insts.find? p).map f) (funext fun i => ?_)
  obtain ⟨ht, hk, hi⟩ : (f i).tenant = i.tenant ∧ (f i).kind = i.kind ∧ (f i).id = i.id := by simpa [Inst.mark] using hf i
  rw [Function.comp_apply, ht, hk, hi]

/-- The level (`Inst`) that a cancellation names is closed and cancelled. -/
theorem State.inst?_cancelInsts {s : State} {t kind id : Nat} {i : Inst} (h : s.inst? t kind id = some i) :
    (s.cancelInsts t kind id).inst? t kind id = some { i with closed := true, cancelled := true } := by
  have hname := List.find?_some h
  simp only [Bool.and_eq_true, beq_iff_eq] at hname
  obtain ⟨⟨ht, hkind⟩, hid⟩ := hname
  rw [State.cancelInsts, State.inst?_map fun i => by split <;> rfl, h, Option.map_some, if_pos (by simp [ht, hkind, hid])]

theorem State.cancel_launch {s : State} {t id : Nat} (cause : Nat) {l : Launch}
    (h : s.launches.find? (fun x => x.tenant == t && x.lid.toNat == id && !x.cancelled) = some l) :
    s.cancel t 1 id cause = some (s.cancelLaunch l cause) := by
  simp [State.cancel, h]

theorem State.cancel_launch_none {s : State} {t id : Nat} (cause : Nat)
    (h : s.launches.find? (fun x => x.tenant == t && x.lid.toNat == id && !x.cancelled) = none) : s.cancel t 1 id cause = none := by
  simp only [State.cancel, h, if_true, Option.map_none]

theorem State.cancel_inst {s : State} {t kind id : Nat} (cause : Nat) (hk : kind ≠ 1) {i : Inst} (h : s.inst? t kind id = some i)
    (hc : i.cancelled = false) : s.cancel t kind id cause =
      some ((s.launches.filter fun l => l.tenant == t && l.under kind id).foldl (fun s l => s.cancelLaunch l cause)
        (s.cancelInsts t kind id)) := by
  simp [State.cancel, hk, h, hc]

theorem State.cancel_inst_none {s : State} {t kind id : Nat} (cause : Nat) (hk : kind ≠ 1)
    (h : ∀ i, s.inst? t kind id = some i → i.cancelled = true) : s.cancel t kind id cause = none := by
  cases hi : s.inst? t kind id with
  | none => simp [State.cancel, hk, hi]
  | some i => simp [State.cancel, hk, hi, h i hi]

section
variable {s : State} {k : Nat} {val : Dword}

theorem State.qcancel_launch (h : dfld val 2 0 = 1) :
    s.qcancel k val = (s.cancel (s.queue k).tenant 1 (dfld val 63 32) 0x308).getD s := by
  simp [State.qcancel, h]

theorem State.qcancel_inst (h : dfld val 2 0 ∈ [2, 3, 4]) :
    s.qcancel k val = (s.cancel (s.queue k).tenant (dfld val 2 0) (dfld val 47 32) 0x308).getD s := by
  simp only [List.mem_cons, List.not_mem_nil, or_false] at h
  rw [State.qcancel, if_neg (by omega), if_neg (by omega)]

theorem State.qcancel_reserved (h : dfld val 2 0 = 0 ∨ 4 < dfld val 2 0) : s.qcancel k val = s := if_pos h

end

theorem Launch.under_iff (l : Launch) (kind id : Nat) :
    l.under kind id = true ↔ kind = 2 ∧ l.graph = id ∨ kind = 3 ∧ l.phase = id ∨ kind = 4 ∧ l.job = id := by
  simp [Launch.under, or_assoc]

/-- QCANCEL of a live launch. -/
theorem State.cancelLaunch_spec {s : State} {l : Launch} (hl : l ∈ s.launches) (cause : Nat) :
    (s.cancelLaunch l cause).mem = s.mem ∧
      (∀ r, (∀ x ∈ s.tasks ++ s.saved.map (·.task), x.launch = l.key → x.id ≠ (s.bank r).task) →
        (s.cancelLaunch l cause).bank r = s.bank r) ∧
      ∃ u, (s.cancelLaunch l cause).launch? l.key = some u ∧ u.cancelled = true ∧ u.closed = true ∧ u.nextTask = none ∧
        ∀ x ∈ (s.cancelLaunch l cause).tasks, x.launch = l.key → x.killing = true := by
  have hkey : l.key ∈ s.launches.map (·.key) := List.mem_map_of_mem hl
  obtain ⟨hover, hkilling⟩ := State.cancelLaunch_cancelled hkey cause
  obtain ⟨u, hu⟩ := State.launch?_of_mem_keys (s := s.cancelLaunch l cause) (key := l.key)
    (by rwa [(s.cancelLaunch_keepsCancelled l cause).keys])
  obtain ⟨hmem, hukey⟩ := State.launch?_spec hu
  obtain ⟨hcancelled, hclosed, hnext⟩ := hover u hmem hukey
  refine ⟨State.cancelLaunch_mem .., fun r hr => State.cancelLaunch_bank hkey cause fun hin => ?_,
    u, hu, hcancelled, hclosed, hnext, hkilling⟩
  obtain ⟨x, hx, hid⟩ := List.mem_map.1 hin
  obtain ⟨hx, hlaunch⟩ := List.mem_filter.1 hx
  exact hr x hx (by simpa using hlaunch) hid

/-- QCANCEL of a live level (`Inst`). -/
theorem State.cancel_inst_spec {s : State} {t kind id : Nat} (cause : Nat) (hk : kind ≠ 1) {i : Inst} (hi : s.inst? t kind id = some i)
    (hc : i.cancelled = false) : ∃ u j, s.cancel t kind id cause = some u ∧ u.mem = s.mem ∧ u.inst? t kind id = some j ∧
      j.cancelled = true ∧ j.closed = true ∧
      ∀ l ∈ s.launches, l.tenant = t → l.under kind id = true →
        (∀ x ∈ u.launches, x.key = l.key → x.cancelled = true ∧ x.closed = true) ∧ ∀ x ∈ u.tasks, x.launch = l.key → x.killing = true := by
  have hu := State.cancel_inst cause hk hi hc
  obtain ⟨hkeeps, hall⟩ := cancelLaunches_spec cause (s.launches.filter fun l => l.tenant == t && l.under kind id) (s.cancelInsts t kind id)
  obtain ⟨j, hj, hclosed, hcancelled⟩ := hkeeps.inst? (State.inst?_cancelInsts hi)
  refine ⟨_, j, hu, State.cancel_mem s hu, hj, hcancelled, hclosed, fun l hl htenant hunder => ?_⟩
  obtain ⟨hover, hkilling⟩ := hall l (List.mem_filter.2 ⟨hl, by simp [htenant, hunder]⟩) (List.mem_map_of_mem hl)
  exact ⟨fun x hx hkey => ⟨(hover x hx hkey).1, (hover x hx hkey).2.1⟩, hkilling⟩

/-! ### Registers of the physical function (R26, R84, R124, R264, R402, R404) -/

section
variable {s : State} {val : Dword} (hp : s.boot.phase = 6) (hc : s.hostClear 0 = true)
include hp hc

theorem exec_registerWrite_shared {off : Nat} (hoff : ¬ (0x220 ≤ off ∧ off ≤ 0x240)) (h8 : off % 8 = 0) :
    exec (.registerWrite 0 off val) s = .next (s.sharedWrite 0 off val) := by
  show Host.Outcome.next (s.bar0Write 0 off val) = _
  have hok : s.fnOk 0 = true := by simp [State.fnOk, hc]
  rw [State.bar0Write, if_neg (by simp [hok, hp]), if_neg (by omega), if_neg (by omega), if_neg (by omega)]

/-- A register below 0x1000 of the physical function alone. -/
theorem exec_registerWrite_low {off : Nat} (hlow : off < 0x1000) (hoff : ¬ (0x220 ≤ off ∧ off ≤ 0x240)) (h8 : off % 8 = 0) :
    exec (.registerWrite 0 off val) s = .next (s.lowWrite off val) := by
  rw [exec_registerWrite_shared hp hc hoff h8, State.sharedWrite, if_neg (by omega), if_neg (by omega), if_neg (by omega),
    if_neg (by omega), if_pos rfl, State.pfWrite, if_pos hlow]

theorem exec_registerWrite_quantum {k : Nat} (hk : k < 64) : exec (.registerWrite 0 (0x400 + 8 * k) val) s =
    .next (s.setQueue k { s.queue k with quant := BitVec.ofNat 32 (dfld val 31 0) }) := by
  have hq : (0x400 + 8 * k - 0x400) / 8 = k := by omega
  rw [exec_registerWrite_low hp hc (by omega) (by omega) (by omega), State.lowWrite, if_neg (by omega), if_neg (by omega),
    if_neg (by omega), if_pos (by omega), hq]

theorem exec_registerWrite_base {k : Nat} (hk : k < 64) :
    exec (.registerWrite 0 (0x10000 + 0x80 * k) val) s = .next (s.setQueue k ((s.queue k).writeBase val)) := by
  have hq : (0x10000 + 0x80 * k - 0x10000) / 0x80 = k := by omega
  have ho : (0x10000 + 0x80 * k) % 0x80 = 0 := by omega
  rw [exec_registerWrite_shared hp hc (by omega) (by omega), State.sharedWrite, if_pos (by omega), hq, ho]
  simp [State.queueWrite, hk, State.sees]

theorem exec_registerWrite_ptroot {t : Nat} (ht : t < 64) (hlive : s.liveOf t = false) :
    exec (.registerWrite 0 (0x30000 + 0x100 * t) val) s =
      .next (s.setTenant t { s.tenant t with ptEn := val.getLsbD 0, ptBase := BitVec.ofNat 32 (dfld val 43 12) }) := by
  have hq : (0x30000 + 0x100 * t - 0x30000) / 0x100 = t := by omega
  have ho : (0x30000 + 0x100 * t) % 0x100 = 0 := by omega
  rw [exec_registerWrite_shared hp hc (by omega) (by omega), State.sharedWrite, if_neg (by omega), if_neg (by omega), if_neg (by omega),
    if_neg (by omega), if_pos rfl, State.pfWrite, if_neg (by omega), if_neg (by omega), if_pos (by omega), hq, ho]
  simp [State.tenantWrite, hlive]

end

theorem Queue.writeBase_off {q : Queue} (h : q.en = false) (val : Dword) :
    q.writeBase val = { q with size := dfld val 3 0, base := BitVec.ofNat 36 (dfld val 47 12) } := by
  simp [Queue.writeBase, h]

theorem State.liveOf_eq_false {s : State} {t : Nat} (h : ∀ l ∈ s.launches, l.tenant = t → l.cancelled = true) : s.liveOf t = false := by
  rw [State.liveOf, List.any_eq_false]
  intro l hl
  by_cases ht : l.tenant = t <;> simp [ht]
  exact h l hl ht

theorem exec_registerWrite_early {s : State} {fn off : Nat} {val : Dword} (hp : s.boot.phase ≠ 6)
    (hoff : ¬ (0x220 ≤ off ∧ off ≤ 0x240)) : exec (.registerWrite fn off val) s = .next s := by
  show Host.Outcome.next (s.bar0Write fn off val) = _
  rw [State.bar0Write]
  split
  · rfl
  · rw [if_neg (by omega), if_neg (by omega), if_pos (.inl hp)]

/-! ### The obligation's two parts -/

theorem registerWritesLand : RegisterWritesLand := by
  intro s val
  refine ⟨fun fn off => exec_registerWrite_early, fun hp hc => ⟨fun k hk hen => ?_, ?_, ?_, fun k hk => ?_, fun t ht hl => ?_⟩⟩
  · rw [exec_registerWrite_base hp hc hk, Queue.writeBase_off hen]
  · exact exec_registerWrite_low hp hc (by decide) (by decide) (by decide)
  · exact exec_registerWrite_low hp hc (by decide) (by decide) (by decide)
  · exact exec_registerWrite_quantum hp hc hk
  · exact exec_registerWrite_ptroot hp hc ht (State.liveOf_eq_false hl)

theorem queueRegistersControl : QueueRegistersControl := by
  intro s fn k val q hk h
  refine ⟨fun hen h4 hring => ?_, fun hen hv => ?_, fun hen => ?_, fun hen hon hn => ?_, fun hen hon hn => ?_, fun hen hoff => ?_,
    fun hen hon hres => ⟨fun hst => ?_, fun hst => ?_⟩, fun l hkind hl _ => ?_, fun hkind hnone => ?_, fun hkind => ?_, fun hkind => ?_⟩
  · rw [exec_qtailDoorbell hk h, Queue.writeTail_inRing val hen ⟨h4, hring⟩]
  · rw [exec_qtailDoorbell hk h, Queue.writeTail_outside val hen hv]
  · rw [exec_qtailDoorbell hk h, Queue.writeTail_off val hen]
  · exact (exec_qctlEnable hk h val hen hon).trans (congrArg _ (State.qctl_enable hen hon hn))
  · exact (exec_qctlEnable hk h val hen hon).trans (congrArg _ (State.qctl_enable_refused hen hon hn))
  · rw [exec_qctlDisable hk h val hen hoff, State.qctl_disable hen hoff, State.unserve_eq]
    rfl
  · exact (exec_qctlResume hk h val hen hon hres).trans (congrArg _ (State.qctl_resume_running hen hon hst))
  · rw [exec_qctlResume hk h val hen hon hres, State.qctl_resume_faulted hen hon hres hst, State.settleQueue_setQueue]
    refine ⟨_, rfl, ?_, fun hibs => if_pos (State.queueReady_in_buffer ?_),
      fun hibs htail => if_neg (Bool.eq_false_iff.1 (State.queueReady_at_tail ?_ ?_))⟩
    · split
      · exact .inr rfl
      · exact .inl rfl
    all_goals
      rw [State.queue_setQueue]
      assumption
  · obtain ⟨hmem, hbank, u, hu⟩ := State.cancelLaunch_spec (List.mem_of_find?_eq_some hl) 0x308
    refine ⟨_, u, ?_, hmem, hbank, hu⟩
    rw [exec_qcancelWrite hk h, State.qcancel_launch hkind, State.cancel_launch _ hl, Option.getD_some]
  · rw [exec_qcancelWrite hk h, State.qcancel_launch hkind, State.cancel_launch_none _ hnone, Option.getD_none]
  · have hk1 : dfld val 2 0 ≠ 1 := ne_of_mem_of_not_mem hkind (by decide)
    refine ⟨fun hno => ?_, fun i hi hc => ?_⟩
    · rw [exec_qcancelWrite hk h, State.qcancel_inst hkind, State.cancel_inst_none _ hk1 hno, Option.getD_none]
    · obtain ⟨u, j, hu, hmem, hj, hcancelled, hclosed, hall⟩ := State.cancel_inst_spec 0x308 hk1 hi hc
      refine ⟨u, j, ?_, hmem, hj, hcancelled, hclosed, fun l hl ht hunder => hall l hl ht ((l.under_iff _ _).2 hunder)⟩
      rw [exec_qcancelWrite hk h, State.qcancel_inst hkind, hu, Option.getD_some]
  · rw [exec_qcancelWrite hk h, State.qcancel_reserved hkind]

end Sys2Proof.Machine

/-- Settles O38: each register has its equation behind the gates of a host write (`Machine.registerWritesLand`), and a cancellation
  marks exactly the launches and tasks that it names (`Machine.queueRegistersControl`). -/
theorem Sys2Proof.hostRegistersControlTheDevice : Obligations.HostRegistersControlTheDevice :=
  ⟨Machine.queueRegistersControl, Machine.registerWritesLand⟩

/-! ## The boot phase never falls

Only the instructions of boot, time, version, peer and firmware service write the boot registers, and of these only the boot phases'
own write the phase, each from the phase before it. So the proof has three layers, in the order of the model's files: the operations
that leave `boot` as it is (`…_boot`), the instructions that do (`BootOut`), and those that write a boot register without lowering
the phase (`PhaseOut`). -/

namespace Sys2Proof.Machine

/-! ### Operations that leave the boot registers as they are -/

theorem foldl_boot {α : Type} {f : State → α → State} (hf : ∀ s a, (f s a).boot = s.boot) (l : List α) (s : State) :
    (l.foldl f s).boot = s.boot :=
  List.foldlRecOn l f (motive := fun t => t.boot = s.boot) rfl fun t ht a _ => (hf t a).trans ht

theorem foldl_fst_boot {α β : Type} {f : State × β → α → State × β} (hf : ∀ p a, (f p a).1.boot = p.1.boot) (l : List α) (p : State × β) :
    (l.foldl f p).1.boot = p.1.boot :=
  List.foldlRecOn l f (motive := fun q => q.1.boot = p.1.boot) rfl fun q hq a _ => (hf q a).trans hq

section Frames
variable (s : State)

/-! #### Machine/Ops -/

@[simp] theorem State.wrote_boot (l) : (s.wrote l).boot = s.boot := by
  unfold State.wrote
  grind

@[simp] theorem State.countRec_boot (l drop) : (s.countRec l drop).boot = s.boot := rfl

@[simp] theorem State.record_boot (r) : (s.record r).boot = s.boot := by
  unfold State.record
  grind [State.countRec_boot, State.setTenant_boot]

@[simp] theorem State.chanRecord_boot (c sub cause sev detail) : (s.chanRecord c sub cause sev detail).boot = s.boot := rfl

@[simp] theorem State.corrected_boot (line) : (s.corrected line).boot = s.boot := rfl

@[simp] theorem State.mark_boot (m) : (s.mark m).boot = s.boot := by
  unfold State.mark
  grind

@[simp] theorem State.plant_boot (m errs) : (s.plant m errs).boot = s.boot := by
  unfold State.plant
  grind

@[simp] theorem State.meetMark_boot (m) : (s.meetMark m).boot = s.boot := by
  unfold State.meetMark
  grind [State.corrected_boot, State.mark_boot, State.record_boot]

@[simp] theorem State.meet_boot (loc n) : (s.meet loc n).boot = s.boot := by
  simp [State.meet, foldl_boot]

@[simp] theorem State.meetAll_boot (l) : (s.meetAll l).boot = s.boot := by
  simp [State.meetAll, foldl_boot]

@[simp] theorem State.recordPoison_boot (r l) : (s.recordPoison r l).boot = s.boot := by
  unfold State.recordPoison
  grind [State.record_boot]

@[simp] theorem State.answer_boot (fn addr x) : (s.answer fn addr x).boot = s.boot := rfl

@[simp] theorem State.land_boot (r d x) : (s.land r d x).boot = s.boot := by
  unfold State.land
  grind [State.send_boot, State.setBank_boot]

@[simp] theorem State.backCredit_boot (r d) : (s.backCredit r d).boot = s.boot := by
  unfold State.backCredit
  grind [State.setBank_boot]

@[simp] theorem State.wgLat_boot (n lat x) : (s.wgLat n lat x).boot = s.boot := by
  unfold State.wgLat
  grind [State.setMe_boot]

@[simp] theorem State.killSeizures_boot (ids) : (s.killSeizures ids).boot = s.boot := by
  unfold State.killSeizures
  exact foldl_boot (fun s a => by grind [State.send_boot]) _ _

@[simp] theorem State.abandonSaves_boot (k) : (s.abandonSaves k).boot = s.boot := rfl

@[simp] theorem State.unsave_boot (k) : (s.unsave k).boot = s.boot := by
  unfold State.unsave
  grind [State.setQueue_boot]

@[simp] theorem State.endLadder_boot (k) : (s.endLadder k).boot = s.boot := by
  simp [State.endLadder]

@[simp] theorem State.endLadders_boot (key) : (s.endLadders key).boot = s.boot := by
  simp [State.endLadders, foldl_boot]

@[simp] theorem State.disarm_boot (ids) : (s.disarm ids).boot = s.boot := rfl

@[simp] theorem State.dropWaits_boot (ids) : (s.dropWaits ids).boot = s.boot := rfl

@[simp] theorem State.killLaunch_boot (k why) : (s.killLaunch k why).boot = s.boot := by
  unfold State.killLaunch
  grind [State.disarm_boot, State.dropWaits_boot, State.endLadders_boot, State.killSeizures_boot, State.setLaunch_boot]

@[simp] theorem State.releaseSeizure_boot (tile : Nat) : (s.releaseSeizure tile).boot = s.boot := by
  unfold State.releaseSeizure
  rw [foldl_boot (fun _ _ => State.setCtx_boot ..)]
  split <;> simp

@[simp] theorem State.endActivation_boot (tile slot) : (s.endActivation tile slot).boot = s.boot := rfl

@[simp] theorem State.fatalTrap_boot (r i dfr) : (s.fatalTrap r i dfr).boot = s.boot := by
  unfold State.fatalTrap
  grind [State.endActivation_boot, State.killLaunch_boot, State.record_boot, State.releaseSeizure_boot, State.setBank_boot]

@[simp] theorem State.enterTrap_boot (r i pc dfr win) : (s.enterTrap r i pc dfr win).boot = s.boot := by
  unfold State.enterTrap
  grind [State.endActivation_boot, State.fatalTrap_boot, State.record_boot, State.setBank_boot, State.setCtx_boot]

@[simp] theorem State.landUnder_boot (r d x) : (s.landUnder r d x).boot = s.boot := by
  unfold State.landUnder
  grind [State.land_boot, State.setBank_boot]

@[simp] theorem bring_boot (r : BankRef) (seen : List Dest) (ws : List Window) : (bring r seen ws s).boot = s.boot := by
  induction ws generalizing seen s with
  | nil => rfl
  | cons w ws ih => unfold bring; grind [State.land_boot, State.landUnder_boot, State.setBank_boot]

@[simp] theorem State.writeBack_boot (r) : (s.writeBack r).boot = s.boot := by
  unfold State.writeBack
  grind [State.setBank_boot, bring_boot]

@[simp] theorem undo_boot (r : BankRef) (ws : List Window) : (undo r ws s).boot = s.boot := by
  induction ws generalizing s with
  | nil => rfl
  | cons w ws ih => unfold undo; grind [State.backCredit_boot, State.setBank_boot]

@[simp] theorem State.closeDue_boot (r) : (s.closeDue r).boot = s.boot := by
  unfold State.closeDue
  grind [State.enterTrap_boot, State.setBank_boot, State.writeBack_boot, undo_boot]

@[simp] theorem State.takeTrap_boot (r i pc) : (s.takeTrap r i pc).boot = s.boot := by
  unfold State.takeTrap
  grind [State.enterTrap_boot, State.setBank_boot, State.writeBack_boot, undo_boot]

@[simp] theorem State.leashReply_boot (r) : (s.leashReply r).boot = s.boot := by
  unfold State.leashReply
  grind [State.send_boot, State.setTile_boot]

@[simp] theorem State.issued_boot : s.issued.boot = s.boot := by
  simp [State.issued]

@[simp] theorem State.settle_boot (r) : (s.settle r).boot = s.boot := by
  simp [State.settle]

@[simp] theorem State.retire_boot : s.retire.boot = s.boot := by
  simp [State.retire]

@[simp] theorem State.park_boot (w) : (s.park w).boot = s.boot := by
  simp [State.park]

@[simp] theorem State.hold_boot (w) : (s.hold w).boot = s.boot := rfl

@[simp] theorem State.unpark_boot (r) : (s.unpark r).boot = s.boot := rfl

@[simp] theorem State.wake_boot (r d x) : (s.wake r d x).boot = s.boot := by
  unfold State.wake
  grind [State.land_boot, State.landUnder_boot, State.settle_boot, State.unpark_boot]

@[simp] theorem State.rouse_boot (r w) : (s.rouse r w).boot = s.boot := by
  unfold State.rouse
  grind [State.unpark_boot]

@[simp] theorem State.jump_boot (target) : (s.jump target).boot = s.boot := by
  simp [State.jump]

@[simp] theorem State.openWindow_boot (k d x err fl fr) : (s.openWindow k d x err fl fr).boot = s.boot := rfl

@[simp] theorem State.finishLong_boot (k d x err fl fr) : (s.finishLong k d x err fl fr).boot = s.boot := by
  simp [State.finishLong]

/-! #### Machine/Access -/

@[simp] theorem State.walkReads_boot (t' va) : (s.walkReads t' va).boot = s.boot := by
  simp [State.walkReads]

@[simp] theorem State.beginWalk_boot (t' va) : (s.beginWalk t' va).boot = s.boot := rfl

@[simp] theorem State.tlbFill_boot (who t' va pa w x) : (s.tlbFill who t' va pa w x).boot = s.boot := rfl

@[simp] theorem State.endWalk_boot (t' va) : (s.endWalk t' va).boot = s.boot := rfl

@[simp] theorem State.translate_boot (q va kind) : (s.translate q va kind).1.boot = s.boot := by
  unfold State.translate
  grind [State.beginWalk_boot, State.tlbFill_boot, State.walkReads_boot]

@[simp] theorem State.parkRequest_boot (t' who va kind lid) : (s.parkRequest t' who va kind lid).boot = s.boot := by
  unfold State.parkRequest
  grind [State.msi_boot, State.record_boot, State.setTenant_boot]

@[simp] theorem State.check_boot (q va n kind) : (s.check q va n kind).1.boot = s.boot := by
  unfold State.check
  grind [State.translate_boot]

@[simp] theorem State.winWrite_boot (tile off n v) : (s.winWrite tile off n v).boot = s.boot := by
  rw [State.winWrite]
  cases windowPart tile off with
  | scalar =>
    dsimp only
    split
    · split <;> rfl
    · split
      · rfl
      · split <;> rfl
  | vector =>
    dsimp only
    split
    · rfl
    · split
      · rfl
      · split <;> rfl
  | control =>
    dsimp only
    split <;> rfl
  | _ => rfl

@[simp] theorem State.traceAt_boot (loc n kind src slot bank rank remote) :
    (s.traceAt loc n kind src slot bank rank remote).boot = s.boot := by
  unfold State.traceAt
  grind [State.setTile_boot]

@[simp] theorem State.meetHalves_boot (n loc) : (s.meetHalves n loc).boot = s.boot := by
  unfold State.meetHalves
  grind [State.meet_boot]

@[simp] theorem State.fetchUnit_boot (r va) : (s.fetchUnit r va).1.boot = s.boot := by
  have hc := State.check_boot s ((s.bank r).req (r.tile % 512)) va.toNat 2 2
  simp only [State.fetchUnit]
  split
  · split <;> simp_all
  · simp_all

@[simp] theorem State.frameWord_boot (r va) : (s.frameWord r va).1.boot = s.boot := by
  unfold State.frameWord
  grind [State.fetchUnit_boot]

@[simp] theorem State.loadBody_boot (r : BankRef) (n : Nat) (va : Va) : (s.loadBody r n va).1.boot = s.boot := by
  induction n generalizing s va with
  | zero => rfl
  | succ n ih => unfold State.loadBody; grind [State.frameWord_boot]

@[simp] theorem State.writeTarget_boot (t' n v) : (s.writeTarget t' n v).boot = s.boot := by
  unfold State.writeTarget
  grind [State.store_boot, State.winWrite_boot]

/-! #### Machine/Memory -/

@[simp] theorem State.seat_boot (r b) : (s.seat r b).boot = s.boot := rfl

@[simp] theorem State.poisonErr_boot (r va parts) : (s.poisonErr r va parts).1.boot = s.boot := by
  unfold State.poisonErr
  grind [State.meetAll_boot, State.record_boot]

@[simp] theorem State.resultReady_boot (r id x err fl) : (s.resultReady r id x err fl).boot = s.boot := by
  unfold State.resultReady
  grind [State.closeDue_boot, State.setBank_boot, State.takeTrap_boot, State.unpark_boot, State.writeBack_boot]

@[simp] theorem State.wakeErr_boot (r e) : (s.wakeErr r e).boot = s.boot := by
  simp [State.wakeErr]

@[simp] theorem State.traceThread_boot (r loc n kind) : (s.traceThread r loc n kind).boot = s.boot := by
  simp [State.traceThread]

@[simp] theorem traceLoads_boot (r : BankRef) (ps : List Part) : (traceLoads r ps s).boot = s.boot := by
  induction ps generalizing s with
  | nil => rfl
  | cons p ps ih => exact (ih _).trans (State.traceThread_boot ..)

@[simp] theorem State.beginActivation_boot (tile slot p late) : (s.beginActivation tile slot p late).boot = s.boot := by
  unfold State.beginActivation
  grind [State.seat_boot, State.setCtx_boot, State.setTag_boot]

@[simp] theorem State.release_boot (tile who reg x e) : (s.release tile who reg x e).boot = s.boot := by
  unfold State.release
  grind [State.setTile_boot, State.wake_boot, State.wakeErr_boot]

@[simp] theorem State.countOverrun_boot (loc) : (s.countOverrun loc).boot = s.boot := by
  unfold State.countOverrun
  grind [State.setCtx_boot]

@[simp] theorem State.copyWake_boot (r) : (s.copyWake r).boot = s.boot := by
  unfold State.copyWake
  grind [State.poisonErr_boot, State.traceThread_boot, State.wake_boot, State.wakeErr_boot]

@[simp] theorem wakeCopies_boot (loc : Nat) (cs : List (Nat × Ctx)) (s : State) : (wakeCopies loc cs s).boot = s.boot := by
  induction cs generalizing s with
  | nil => rfl
  | cons c cs ih => unfold wakeCopies; grind [State.copyWake_boot]

@[simp] theorem writeParts_boot (r ps) : (writeParts r ps s).boot = s.boot := by
  induction ps generalizing s with
  | nil => rfl
  | cons p ps ih => exact (ih ..).trans ((State.traceThread_boot ..).trans (State.writeTarget_boot ..))

@[simp] theorem storeParts_boot (r ps) : (storeParts r ps s).boot = s.boot := by
  unfold storeParts
  grind [State.wrote_boot, writeParts_boot]

@[simp] theorem State.performAccess_boot (r a) : (s.performAccess r a).boot = s.boot := by
  unfold State.performAccess
  grind [State.poisonErr_boot, State.resultReady_boot, State.setBank_boot, storeParts_boot, traceLoads_boot]

@[simp] theorem performList_boot (r as) : (performList r as s).boot = s.boot := by
  induction as generalizing s with
  | nil => rfl
  | cons a as ih => exact (ih ..).trans (State.performAccess_boot ..)

@[simp] theorem State.drain_boot (r scope) : (s.drain r scope).boot = s.boot := by
  unfold State.drain
  grind [performList_boot]

@[simp] theorem State.drainOverlap_boot (r ps) : (s.drainOverlap r ps).boot = s.boot := performList_boot ..

@[simp] theorem State.drainFull_boot (r) : (s.drainFull r).boot = s.boot := by
  unfold State.drainFull
  grind [State.performAccess_boot]

@[simp] theorem serveList_boot (loc n) : (serveList loc n s).boot = s.boot := by
  induction n generalizing s with
  | zero => rfl
  | succ n ih =>
    unfold serveList
    grind [State.traceThread_boot, State.poisonErr_boot, State.release_boot, State.setTag_boot, State.store_boot]

@[simp] theorem State.changeTag_boot (loc full) : (s.changeTag loc full).boot = s.boot := by
  unfold State.changeTag
  grind [State.beginActivation_boot, State.setTag_boot, serveList_boot]

@[simp] theorem tagWords_boot (full n loc) : (tagWords full n loc s).boot = s.boot := by
  induction n generalizing loc s with
  | zero => rfl
  | succ n ih => exact (ih ..).trans (State.changeTag_boot ..)

@[simp] theorem State.lateActivation_boot (tile slot p late) : (s.lateActivation tile slot p late).boot = s.boot := by
  unfold State.lateActivation
  grind [State.beginActivation_boot, serveList_boot]

@[simp] theorem fillWords_boot (n loc) : (fillWords n loc s).boot = s.boot := by
  induction n generalizing loc s with
  | zero => rfl
  | succ n ih => exact (ih ..).trans ((State.changeTag_boot ..).trans (State.countOverrun_boot ..))

@[simp] theorem State.engineWrite_boot (t' n v kind src) : (s.engineWrite t' n v kind src).boot = s.boot := by
  unfold State.engineWrite
  grind [State.store_boot, State.traceAt_boot, State.winWrite_boot, fillWords_boot]

/-! #### Machine/Pages -/

@[simp] theorem State.poolTr_boot (p va kind) : (s.poolTr p va kind).1.boot = s.boot := by
  unfold State.poolTr
  grind [State.translate_boot]

@[simp] theorem State.poolData_boot (p va n kind) : (s.poolData p va n kind).1.boot = s.boot := by
  unfold State.poolData
  grind [State.meet_boot, State.poolTr_boot]

@[simp] theorem State.freePage_boot (p k) : (s.freePage p k).boot = s.boot := rfl

@[simp] theorem State.pinFault_boot (p k) : (s.pinFault p k).boot = s.boot := rfl

@[simp] theorem State.pinPage_boot (p k) : (s.pinPage p k).boot = s.boot := by
  unfold State.pinPage
  grind [State.pinFault_boot, State.poolData_boot, State.store_boot]

@[simp] theorem State.unpinPage_boot (p k) : (s.unpinPage p k).boot = s.boot := by
  unfold State.unpinPage
  grind [State.freePage_boot, State.pinFault_boot, State.poolData_boot, State.store_boot]

@[simp] theorem State.pin_boot (p pages) : (s.pin p pages).boot = s.boot := by
  unfold State.pin
  exact foldl_boot (fun s a => by grind [State.pinPage_boot]) _ _

@[simp] theorem State.unpin_boot (p pages) : (s.unpin p pages).boot = s.boot := by
  unfold State.unpin
  exact foldl_boot (fun s a => by grind [State.unpinPage_boot]) _ _

@[simp] theorem State.pinRange_boot (t lo hi) : (s.pinRange t lo hi).1.boot = s.boot := by
  unfold State.pinRange
  exact foldl_fst_boot (fun acc p => by grind [State.pin_boot]) _ _

/-! #### Machine/Operands -/

@[simp] theorem State.takeEntries_boot (srcs) : (s.takeEntries srcs).1.boot = s.boot := rfl

@[simp] theorem State.useCredit_boot (d) : (s.useCredit d).boot = s.boot := by
  unfold State.useCredit
  grind [State.setMe_boot]

@[simp] theorem State.freePort_boot (r k) : (s.freePort r k).boot = s.boot := by
  unfold State.freePort
  grind [State.send_boot, State.setBank_boot, State.unpin_boot]

@[simp] theorem State.freePorts_boot (r ks) : (s.freePorts r ks).boot = s.boot := by
  unfold State.freePorts
  exact foldl_boot (fun s a => by grind [State.freePort_boot]) _ _

@[simp] theorem State.unbind_boot (r k) : (s.unbind r k).boot = s.boot := by
  unfold State.unbind
  grind [State.setBank_boot, State.unpin_boot]

@[simp] theorem State.landPend_boot (r p) : (s.landPend r p).boot = s.boot := by
  unfold State.landPend
  grind [State.freePorts_boot, State.land_boot]

@[simp] theorem State.flushDest_boot (r d) : (s.flushDest r d).boot = s.boot := by
  unfold State.flushDest
  exact foldl_boot (fun s a => by grind [State.landPend_boot, State.setBank_boot]) _ _

@[simp] theorem State.usePorts_boot (srcs) : (s.usePorts srcs).boot = s.boot := by
  unfold State.usePorts
  grind [State.freePorts_boot, State.setMe_boot]

@[simp] theorem State.landAll_boot (r) : (s.landAll r).boot = s.boot := by
  unfold State.landAll
  exact foldl_boot (fun s a => by grind [State.landPend_boot, State.setBank_boot]) _ _

@[simp] theorem State.unbindAll_boot (r) : (s.unbindAll r).boot = s.boot :=
  (foldl_boot (fun _ _ => State.unbind_boot ..) ..).trans (State.landAll_boot ..)

/-! #### Machine/Mem -/

@[simp] theorem State.pushAccess_boot (scope write va ps win ext base) : (s.pushAccess scope write va ps win ext base).boot = s.boot := rfl

@[simp] theorem State.feErr_boot (r minor loc va) : (s.feErr r minor loc va).1.boot = s.boot := by
  unfold State.feErr
  grind [State.poisonErr_boot]

@[simp] theorem State.makeRoom_boot : s.makeRoom.boot = s.boot := by
  unfold State.makeRoom
  grind [State.drainFull_boot]

theorem feAction_boot {minor loc v x} {t : State} (e : feAction minor loc v s = some (x, t)) : t.boot = s.boot := by
  unfold feAction at e; grind [State.changeTag_boot, State.store_boot]

/-! #### Machine/Launch -/

@[simp] theorem State.runLocs_boot (q : Req) (kind f va n : Nat) (acc : List (Nat × Nat)) :
    (s.runLocs q kind f va n acc).1.boot = s.boot := by
  induction f generalizing s va n acc with
  | zero => rfl
  | succ f ih => unfold State.runLocs; grind [State.check_boot]

@[simp] theorem State.feRead_boot (t' va n) : (s.feRead t' va n).1.boot = s.boot := by
  unfold State.feRead
  grind [State.meetAll_boot, State.recordPoison_boot, State.runLocs_boot]

@[simp] theorem State.readWork_boot (t va) : (s.readWork t va).1.boot = s.boot := by
  unfold State.readWork
  repeat' split
  all_goals grind [State.feRead_boot]

@[simp] theorem State.setInst_boot (x) : (s.setInst x).boot = s.boot := rfl

@[simp] theorem State.openInst_boot (t' kind id parent) : (s.openInst t' kind id parent).boot = s.boot := by
  unfold State.openInst
  grind

@[simp] theorem State.accept_boot (va t' queue root cap) : (s.accept va t' queue root cap).1.boot = s.boot := by
  unfold State.accept
  grind [State.feRead_boot, State.openInst_boot, State.readWork_boot, State.setTenant_boot]

@[simp] theorem State.recordKills_boot (l cause) : (s.recordKills l cause).boot = s.boot := by
  simp [State.recordKills, foldl_boot]

@[simp] theorem State.cancelLaunch_boot (l cause) : (s.cancelLaunch l cause).boot = s.boot := by
  simp [State.cancelLaunch]

@[simp] theorem State.cancelInsts_boot (t' kind id) : (s.cancelInsts t' kind id).boot = s.boot := rfl

theorem State.cancel_boot {t : State} {tn kind id cause} (e : s.cancel tn kind id cause = some t) : t.boot = s.boot := by
  unfold State.cancel at e
  split at e
  · obtain ⟨l, _, rfl⟩ := Option.map_eq_some_iff.mp e
    exact State.cancelLaunch_boot s l cause
  · obtain ⟨_, _, rfl⟩ := Option.map_eq_some_iff.mp e
    rw [foldl_boot (fun s l => State.cancelLaunch_boot s l cause), State.cancelInsts_boot]

@[simp] theorem State.seedLane_boot (l t' lane slot pc g5) : (s.seedLane l t' lane slot pc g5).boot = s.boot := rfl

@[simp] theorem seedLanes_boot (l : Launch) (t : Task) (lane : Nat) (ks : List Nat) : (seedLanes l t lane ks s).boot = s.boot := by
  induction ks generalizing lane s with
  | nil => rfl
  | cons k ks ih => exact (ih ..).trans (State.seedLane_boot ..)

/-! #### Machine/Sys -/

@[simp] theorem State.refuse_boot (r i) : (s.refuse r i).boot = s.boot := by
  simp [State.refuse]

@[simp] theorem State.attestBuffer_boot (r va) : (s.attestBuffer r va).1.boot = s.boot := by
  unfold State.attestBuffer
  grind [State.runLocs_boot]

/-! #### Machine/Atomic -/

@[simp] theorem State.setResv_boot (loc x) : (s.setResv loc x).boot = s.boot := by
  unfold State.setResv
  grind [State.setTile_boot]

@[simp] theorem State.setWaits_boot (loc x) : (s.setWaits loc x).boot = s.boot := by
  unfold State.setWaits
  grind [State.setTile_boot]

@[simp] theorem State.wordErr_boot (r loc) : (s.wordErr r loc).1.boot = s.boot := by
  simp [State.wordErr]

@[simp] theorem State.grant_boot (r loc) : (s.grant r loc).boot = s.boot := by
  simp [State.grant]

@[simp] theorem State.grantWake_boot (r loc reg) : (s.grantWake r loc reg).boot = s.boot := by
  unfold State.grantWake
  grind [State.grant_boot, State.wake_boot, State.wakeErr_boot, State.wordErr_boot]

@[simp] theorem State.withdraw_boot (r) : (s.withdraw r).boot = s.boot := rfl

@[simp] theorem State.queueResv_boot (loc minor reg exp val win room) : (s.queueResv loc minor reg exp val win room).boot = s.boot := by
  unfold State.queueResv
  grind [State.park_boot, State.setWaits_boot]

@[simp] theorem State.allowWait_boot (r loc w) : (s.allowWait r loc w).boot = s.boot := by
  simp [State.allowWait]

@[simp] theorem State.atomAct_boot (r minor loc exp v) : (s.atomAct r minor loc exp v).1.boot = s.boot := by
  unfold State.atomAct
  grind [State.store_boot, State.traceThread_boot, State.wordErr_boot]

@[simp] theorem State.atomWake_boot (r minor loc exp v win) : (s.atomWake r minor loc exp v win).boot = s.boot := by
  unfold State.atomWake
  grind [State.atomAct_boot, State.resultReady_boot, State.wake_boot]

@[simp] theorem passWord_boot (loc n) : (passWord loc n s).boot = s.boot := by
  induction n generalizing s with
  | zero => rfl
  | succ n ih => unfold passWord; grind [State.setWaits_boot, State.grantWake_boot, State.atomWake_boot]

@[simp] theorem State.passOn_boot (r loc) : (s.passOn r loc).boot = s.boot := by
  unfold State.passOn
  grind [State.setResv_boot, passWord_boot]

@[simp] theorem State.cancelResv_boot (r) : (s.cancelResv r).boot = s.boot := by
  unfold State.cancelResv
  exact foldl_boot (fun s a => by grind [State.passOn_boot, State.record_boot]) _ _

/-! #### Machine/Thread -/

@[simp] theorem State.reseed_boot (r b) : (s.reseed r b).boot = s.boot := rfl

@[simp] theorem State.leave_boot (r) : (s.leave r).boot = s.boot := by
  unfold State.leave
  grind [State.setBank_boot, State.unbindAll_boot, performList_boot]

@[simp] theorem State.endHandler_boot (r) : (s.endHandler r).boot = s.boot := by
  unfold State.endHandler
  grind [State.cancelResv_boot, State.setBank_boot, State.setTile_boot]

/-! #### Machine/Copy -/

@[simp] theorem farTargets_boot (q : Req) (d : CopyDesc) (l : List (Option (List Int))) (s : State) :
    (farTargets q d l s).1.boot = s.boot := by
  induction l generalizing s with
  | nil => rfl
  | cons x l ih => unfold farTargets; grind [State.check_boot]

@[simp] theorem readGranule_boot (q : Req) (d : CopyDesc) (l : List (Nat × List Int)) (s : State) :
    (readGranule q d l s).1.boot = s.boot := by
  induction l generalizing s with
  | nil => rfl
  | cons x l ih => unfold readGranule; grind [State.check_boot, State.meet_boot]

@[simp] theorem State.traceGranule_boot (src t') : (s.traceGranule src t').boot = s.boot := by
  unfold State.traceGranule
  grind [State.traceAt_boot]

@[simp] theorem State.setCopy_boot (tile c) : (s.setCopy tile c).boot = s.boot := rfl

@[simp] theorem State.chunkFails_boot (tile chunk c tenant f) : (s.chunkFails tile chunk c tenant f).boot = s.boot := by
  unfold State.chunkFails
  grind [State.parkRequest_boot, State.record_boot, State.setCopy_boot]

@[simp] theorem writeNear_boot (c d per n o l) : (writeNear c d per n o l s).boot = s.boot := by
  induction n generalizing o l s with
  | zero => rfl
  | succ n ih => unfold writeNear; grind [State.engineWrite_boot]

@[simp] theorem writeElems_boot (c d o l) : (writeElems c d o l s).boot = s.boot := by
  induction l generalizing o s with
  | nil => rfl
  | cons t l ih => unfold writeElems; grind [State.engineWrite_boot]

@[simp] theorem writeFar_boot (c d o ts) : (writeFar c d o ts s).1.boot = s.boot := by
  unfold writeFar
  dsimp only
  split
  · exact State.meetAll_boot ..
  · refine (State.wrote_boot ..).trans ((writeElems_boot ..).trans ?_)
    exact (foldl_boot (fun _ _ => State.traceAt_boot ..) _ _).trans (State.meetAll_boot ..)

@[simp] theorem State.recordOr_boot (recAt tile bits full) : (s.recordOr recAt tile bits full).boot = s.boot := by
  unfold State.recordOr
  grind [State.engineWrite_boot, State.store_boot, State.traceAt_boot, wakeCopies_boot]

@[simp] theorem State.recordStatus_boot (recAt tile chunks swz status) : (s.recordStatus recAt tile chunks swz status).boot = s.boot := by
  unfold State.recordStatus
  grind [State.engineWrite_boot, wakeCopies_boot]

@[simp] theorem State.chunkDone_boot (tile chunk c) : (s.chunkDone tile chunk c).boot = s.boot := by
  unfold State.chunkDone
  grind [State.recordOr_boot, State.setCopy_boot]

@[simp] theorem State.completeCopy_boot (tile c) : (s.completeCopy tile c).boot = s.boot := by
  unfold State.completeCopy
  grind [State.recordStatus_boot, State.setBank_boot, State.setTile_boot]

@[simp] theorem State.descData_boot (r va t' u) : (s.descData r va t' u).1.boot = s.boot := by
  unfold State.descData
  grind [State.drainOverlap_boot, State.poisonErr_boot, State.traceThread_boot]

@[simp] theorem State.readDescAgain_boot (r va) : (s.readDescAgain r va).1.boot = s.boot := by
  unfold State.readDescAgain
  grind [State.check_boot, State.descData_boot]

/-! #### Machine/Seize -/

@[simp] theorem State.swapBack_boot (tile slot) : (s.swapBack tile slot).boot = s.boot := by
  unfold State.swapBack
  grind [State.cancelResv_boot, State.setCtx_boot, State.withdraw_boot, performList_boot]

/-! #### Machine/Matrix -/

@[simp] theorem State.claim_boot : s.claim.boot = s.boot := by
  unfold State.claim
  grind [State.setTile_boot]

@[simp] theorem hostRead_boot (base : Nat) (l : List (Nat × Nat × Nat)) (s : State) : (hostRead base l s).1.boot = s.boot := by
  induction l generalizing s with
  | nil => rfl
  | cons p l ih => unfold hostRead; grind [State.traceAt_boot]

@[simp] theorem State.hostAnswer_boot (fn base parts) : (s.hostAnswer fn base parts).boot = s.boot := by
  unfold State.hostAnswer
  grind [State.answer_boot, State.drawn_boot, State.meetAll_boot, State.record_boot, hostRead_boot]

@[simp] theorem State.mwaitDone_boot (r) : (s.mwaitDone r).boot = s.boot := by
  unfold State.mwaitDone
  grind [State.refuse_boot, State.setBank_boot, State.wake_boot]

@[simp] theorem State.setLdt_boot (r c) : (s.setLdt r c).boot = s.boot := by
  unfold State.setLdt
  grind [State.setBank_boot, State.setTile_boot]

@[simp] theorem State.mxEffect_boot (tile leash c) : (s.mxEffect tile leash c).boot = s.boot := by
  unfold State.mxEffect
  grind [State.resultReady_boot, State.setTile_boot]

@[simp] theorem hostStore_boot (base val kind src l) : (hostStore base val kind src l s).boot = s.boot := by
  induction l generalizing s with
  | nil => rfl
  | cons p l ih => exact (ih ..).trans (State.engineWrite_boot ..)

@[simp] theorem State.unitAccess_boot (a) : (s.unitAccess a).boot = s.boot := by
  unfold State.unitAccess
  grind [State.hostAnswer_boot, hostStore_boot]

@[simp] theorem State.serveAtUnit_boot : s.serveAtUnit.boot = s.boot := by
  unfold State.serveAtUnit
  split
  · rfl
  · exact foldl_boot (fun _ _ => State.unitAccess_boot ..) ..

@[simp] theorem State.finishMx_boot (tile c value) : (s.finishMx tile c value).boot = s.boot := by
  unfold State.finishMx
  grind [State.check_boot, State.mwaitDone_boot, State.serveAtUnit_boot, State.setTile_boot, State.unitAccess_boot]

@[simp] theorem State.deferMx_boot (tile leash c cause addr) : (s.deferMx tile leash c cause addr).boot = s.boot := by
  unfold State.deferMx
  grind [State.finishMx_boot, State.record_boot, State.setBank_boot]

@[simp] theorem State.stopLdt_boot (r c e) : (s.stopLdt r c e).boot = s.boot := by
  unfold State.stopLdt
  grind [State.mwaitDone_boot, State.resultReady_boot, State.serveAtUnit_boot, State.setTile_boot, State.wake_boot]

@[simp] theorem State.resumeLdt_boot (r f) : (s.resumeLdt r f).boot = s.boot := by
  induction f generalizing s with
  | zero => rfl
  | succ f ih =>
    unfold State.resumeLdt
    repeat' split
    all_goals grind [State.check_boot, State.parkRequest_boot, State.stopLdt_boot, State.drainOverlap_boot, State.traceThread_boot,
      State.poisonErr_boot, State.setLdt_boot, State.resultReady_boot]

/-! #### Machine/Queue -/

@[simp] theorem State.qcheck_boot (q va kind) : (s.qcheck q va kind).1.boot = s.boot := by
  unfold State.qcheck
  grind [State.check_boot, State.translate_boot]

@[simp] theorem State.queueData_boot (q va n t') : (s.queueData q va n t').1.boot = s.boot := by
  unfold State.queueData
  grind [State.meet_boot, State.record_boot]

@[simp] theorem State.qread_boot (q va) : (s.qread q va).1.boot = s.boot := by
  unfold State.qread
  grind [State.qcheck_boot, State.queueData_boot]

@[simp] theorem State.readWord_boot (q o) : (s.readWord q o).1.boot = s.boot := by
  unfold State.readWord
  grind [State.check_boot, State.queueData_boot]

@[simp] theorem readBlock_boot (q : Queue) (l : List Nat) : (readBlock q l s).1.boot = s.boot := by
  induction l generalizing s with
  | nil => rfl
  | cons o l ih => unfold readBlock; grind [State.readWord_boot]

@[simp] theorem State.enterBlock_boot (k) : (s.enterBlock k).boot = s.boot := by
  simp [State.enterBlock]

@[simp] theorem State.passBlock_boot (k) : (s.passBlock k).boot = s.boot := by
  unfold State.passBlock
  grind [State.setQueue_boot, readBlock_boot]

@[simp] theorem State.selectQueue_boot (e) : (s.selectQueue e).boot = s.boot := by
  unfold State.selectQueue
  grind [State.setQueue_boot]

@[simp] theorem State.unserve_boot (k) : (s.unserve k).boot = s.boot := by
  unfold State.unserve
  grind

@[simp] theorem State.settleQueue_boot (k) : (s.settleQueue k).boot = s.boot := rfl

@[simp] theorem State.completeQ_boot (k f) : (s.completeQ k f).boot = s.boot := by
  simp [State.completeQ]

@[simp] theorem State.queueFault_boot (k cause pc lvl) : (s.queueFault k cause pc lvl).boot = s.boot := by
  unfold State.queueFault
  grind [State.msi_boot, State.record_boot, State.setQueue_boot, State.unserve_boot]

@[simp] theorem State.pollQueue_boot (k) : (s.pollQueue k).boot = s.boot := by
  unfold State.pollQueue unitGate
  grind [State.qread_boot, State.queueFault_boot, State.completeQ_boot, State.setQueue_boot]

@[simp] theorem State.pollEngine_boot (e) : (s.pollEngine e).boot = s.boot := by
  simp [State.pollEngine, foldl_boot]

@[simp] theorem State.lastPoll_boot (k cond va x len) : (s.lastPoll k cond va x len).boot = s.boot := by
  unfold State.lastPoll
  grind [State.completeQ_boot, State.qread_boot, State.queueFault_boot]

@[simp] theorem State.postSignal_boot (k g) : (s.postSignal k g).boot = s.boot := rfl

@[simp] theorem State.startReplay_boot (t') : (s.startReplay t').boot = s.boot := rfl

@[simp] theorem unitGate_boot {f : State → State} (hf : ∀ t, (f t).boot = t.boot) (k va kind) : (unitGate k va kind s f).boot = s.boot := by
  unfold unitGate; grind [State.setQueue_boot]

@[simp] theorem State.qwrite_boot (q va x) : (s.qwrite q va x).1.boot = s.boot := by
  unfold State.qwrite
  grind [State.qcheck_boot, State.writeTarget_boot]

@[simp] theorem State.writeSignal_boot (k) : (s.writeSignal k).boot = s.boot := by
  unfold State.writeSignal
  grind [State.msi_boot, State.pollEngine_boot, State.queueFault_boot, State.qwrite_boot, State.setQueue_boot, unitGate_boot]

@[simp] theorem State.releaseQueue_boot (k) : (s.releaseQueue k).boot = s.boot := by
  unfold State.releaseQueue
  grind [State.completeQ_boot, State.postSignal_boot, State.writeSignal_boot]

/-! #### Machine/Place -/

@[simp] theorem State.placeTask_boot (l index tile slots base) : (s.placeTask l index tile slots base).boot = s.boot := by
  unfold State.placeTask
  grind [State.endLadders_boot, State.setLaunch_boot, State.setTile_boot]

@[simp] theorem State.traceBulk_boot (loc n src) : (s.traceBulk loc n src).boot = s.boot := by
  simp [State.traceBulk, foldl_boot]

@[simp] theorem State.failStaging_boot (l t' va) : (s.failStaging l t' va).boot = s.boot := by
  simp [State.failStaging]

@[simp] theorem State.clearMatrix_boot (t') : (s.clearMatrix t').boot = s.boot := by
  unfold State.clearMatrix
  grind [State.setTile_boot]

@[simp] theorem State.digestFails_boot (l va) : (s.digestFails l va).boot = s.boot := by
  simp [State.digestFails]

@[simp] theorem State.digestSnaps_boot (key n : Nat) : (State.digestSnaps key n s).boot = s.boot := by
  induction n generalizing s with
  | zero => rfl
  | succ n ih =>
    unfold State.digestSnaps
    grind [State.runLocs_boot, State.meetAll_boot, State.recordPoison_boot, State.digestFails_boot, State.setLaunch_boot,
      State.parkRequest_boot]

@[simp] theorem State.peerMsi_boot : s.peerMsi.boot = s.boot := by
  unfold State.peerMsi
  grind [State.msi_boot]

@[simp] theorem State.peerRecord_boot (cause sev) : (s.peerRecord cause sev).boot = s.boot := by
  unfold State.peerRecord
  grind [State.peerMsi_boot, State.record_boot]

@[simp] theorem State.peerSend_boot (ver type phase pidx body) : (s.peerSend ver type phase pidx body).boot = s.boot := rfl

@[simp] theorem State.comparePeriods_boot : s.comparePeriods.boot = s.boot := by
  unfold State.comparePeriods
  grind [State.peerRecord_boot]

@[simp] theorem State.closePeriod_boot (phase digests) : (s.closePeriod phase digests).boot = s.boot := by
  unfold State.closePeriod
  grind [State.comparePeriods_boot, State.peerRecord_boot, State.peerSend_boot]

@[simp] theorem State.stageBytes_boot (t' bs src) : (s.stageBytes t' bs src).boot = s.boot := by
  unfold State.stageBytes
  grind [State.setTask_boot, State.storeBytes_boot, State.traceBulk_boot, tagWords_boot]

@[simp] theorem State.stageSeeds_boot (l t') : (s.stageSeeds l t').boot = s.boot := by
  unfold State.stageSeeds
  grind [State.setTask_boot, State.storeBytes_boot, State.traceBulk_boot, seedLanes_boot, tagWords_boot]

@[simp] theorem State.stageGranules_boot (l id n) : (State.stageGranules l id n s).boot = s.boot := by
  induction n generalizing s with
  | zero => rfl
  | succ n ih =>
    unfold State.stageGranules
    split
    · rfl
    · split
      · rfl
      · dsimp only
        split <;> grind [State.runLocs_boot, State.meetAll_boot, State.recordPoison_boot, State.failStaging_boot, State.stageBytes_boot,
          State.setTask_boot, State.parkRequest_boot]

@[simp] theorem State.releaseQueues_boot : s.releaseQueues.boot = s.boot := by
  unfold State.releaseQueues
  exact foldl_boot (fun _ _ => State.releaseQueue_boot ..) ..

@[simp] theorem State.completeLaunch_boot (l) : (s.completeLaunch l).boot = s.boot := by
  unfold State.completeLaunch
  grind [State.releaseQueues_boot, State.setInst_boot]

@[simp] theorem State.completeInst_boot (i) : (s.completeInst i).boot = s.boot := by
  unfold State.completeInst
  grind [State.closePeriod_boot, State.releaseQueues_boot, State.setInst_boot]

/-! #### Machine/Sync -/

@[simp] theorem State.setWacc_boot (x) : (s.setWacc x).boot = s.boot := rfl

@[simp] theorem State.redCheck_boot (x) : (s.redCheck x).1.boot = s.boot := by
  simp [State.redCheck]

@[simp] theorem State.wacAct_boot (r minor pa) : (s.wacAct r minor pa).1.boot = s.boot := by
  unfold State.wacAct
  grind

@[simp] theorem State.wacDone_boot (r) : (s.wacDone r).boot = s.boot := by
  unfold State.wacDone
  grind [State.resultReady_boot, State.wacAct_boot, State.wake_boot]

@[simp] theorem State.endRed_boot (tile x) : (s.endRed tile x).boot = s.boot := by
  simp [State.endRed]

@[simp] theorem State.dropRed_boot (tile x cause) : (s.dropRed tile x cause).boot = s.boot := by
  simp [State.dropRed]

@[simp] theorem State.addWide_boot (tile x pa) : (s.addWide tile x pa).boot = s.boot := by
  unfold State.addWide
  grind [State.dropRed_boot, State.endRed_boot, State.setWacc_boot]

@[simp] theorem State.setBar_boot (tile slot x) : (s.setBar tile slot x).boot = s.boot := rfl

@[simp] theorem State.discardArrival_boot (tile launch) : (s.discardArrival tile launch).boot = s.boot := by
  simp [State.discardArrival]

@[simp] theorem State.sendArrival_boot (tile slot task q) : (s.sendArrival tile slot task q).boot = s.boot := rfl

@[simp] theorem State.barWait_boot (r slot v reg) : (s.barWait r slot v reg).boot = s.boot := by
  unfold State.barWait
  grind [State.setBank_boot, State.wake_boot]

@[simp] theorem State.arrive_boot (r minor slot reg) : (s.arrive r minor slot reg).boot = s.boot := by
  unfold State.arrive
  grind [State.barWait_boot, State.sendArrival_boot, State.setBank_boot, State.setBar_boot, State.wake_boot]

@[simp] theorem State.sendUp_boot (r x) : (s.sendUp r x).boot = s.boot := rfl

@[simp] theorem State.finishRsrv_boot (r reg own) : (s.finishRsrv r reg own).boot = s.boot := by
  simp [State.finishRsrv]

@[simp] theorem State.serveTree_boot (r reg a) : (s.serveTree r reg a).boot = s.boot := by
  unfold State.serveTree
  grind [State.finishRsrv_boot, State.refuse_boot, State.sendUp_boot, State.setBank_boot]

@[simp] theorem State.redOverlap_boot (x) : (s.redOverlap x).boot = s.boot := by
  unfold State.redOverlap
  grind [State.check_boot, State.drainOverlap_boot]

/-! #### Machine/Preempt -/

@[simp] theorem State.markRung_boot (k rung cause) : (s.markRung k rung cause).boot = s.boot := rfl

@[simp] theorem State.startLadder_boot (k deepest launch) : (s.startLadder k deepest launch).boot = s.boot := rfl

@[simp] theorem State.applyRung2_boot (k d) : (s.applyRung2 k d).boot = s.boot := by
  simp [State.applyRung2]

@[simp] theorem State.resetTask_boot (t') : (s.resetTask t').boot = s.boot := by
  simp [State.resetTask]

@[simp] theorem State.moveRefs_boot (f id) : (s.moveRefs f id).boot = s.boot := rfl

@[simp] theorem State.putAway_boot (t') : (s.putAway t').boot = s.boot := by
  unfold State.putAway
  exact foldl_boot (fun s a => by grind [State.moveRefs_boot, State.setCtx_boot]) _ _

@[simp] theorem State.takeBack_boot (t' quantum) : (s.takeBack t' quantum).boot = s.boot := by
  simp [State.takeBack, foldl_boot]

@[simp] theorem State.trimTask_boot (l t') : (s.trimTask l t').boot = s.boot := by
  unfold State.trimTask
  exact foldl_boot (fun s a => by grind [State.setCtx_boot]) _ _

@[simp] theorem State.recall_boot (t') : (s.recall t').boot = s.boot := rfl

@[simp] theorem State.withFree_boot (known n) : (s.withFree known n).1.boot = s.boot := rfl

@[simp] theorem State.frame_boot (l t) : (s.frame l t).1.boot = s.boot := by
  simp only [State.frame, State.withFree_boot]
  rw [foldl_fst_boot (fun _ _ => by simp), foldl_fst_boot (fun _ _ => by simp), State.withFree_boot]

@[simp] theorem State.saveTask_boot (l t frame) : (s.saveTask l t frame).boot = s.boot := by
  simp only [State.saveTask, State.setTile_boot, State.putAway_boot]
  rw [foldl_boot fun _ _ => by simp, State.recall_boot]

@[simp] theorem State.saveShort_boot (t') : (s.saveShort t').boot = s.boot := by
  unfold State.saveShort
  grind [State.markRung_boot, State.resetTask_boot, State.setTask_boot]

@[simp] theorem State.reloadQuantum_boot (t') : (s.reloadQuantum t').boot = s.boot := by
  unfold State.reloadQuantum
  exact foldl_boot (fun s a => by grind [State.setCtx_boot]) _ _

@[simp] theorem State.quantumSwitch_boot (l t') : (s.quantumSwitch l t').boot = s.boot := by
  unfold State.quantumSwitch
  grind [State.placeTask_boot, State.putAway_boot, State.reloadQuantum_boot, State.setTask_boot, State.trimTask_boot]

@[simp] theorem State.refillMx_boot (tile m) : (s.refillMx tile m).boot = s.boot := by
  unfold State.refillMx
  grind [State.setTile_boot]

@[simp] theorem State.freeBars_boot (tile launch) : (s.freeBars tile launch).boot = s.boot := by
  unfold State.freeBars
  grind [State.setTile_boot]

@[simp] theorem State.endKill_boot (t') : (s.endKill t').boot = s.boot := by
  unfold State.endKill
  grind [State.clearMatrix_boot, State.freeBars_boot, State.setLaunch_boot, State.unsave_boot]

@[simp] theorem putBytesAt_boot (l bs) : (putBytesAt l bs s).boot = s.boot := by
  induction l generalizing bs s with
  | nil => rfl
  | cons p l ih => exact (ih ..).trans (State.storeBytes_boot ..)

theorem State.writeFrame_boot {t : State} {tenant at_ bs} (e : s.writeFrame tenant at_ bs = some t) : t.boot = s.boot := by
  unfold State.writeFrame at e; grind [State.runLocs_boot, putBytesAt_boot]

@[simp] theorem State.lookAgain_boot (quantum tile slot) : (s.lookAgain quantum tile slot).boot = s.boot := by
  unfold State.lookAgain
  grind [State.arrive_boot, State.barWait_boot, State.copyWake_boot, State.resumeLdt_boot, State.serveTree_boot]

@[simp] theorem State.refill_boot (v) : (s.refill v).boot = s.boot := by
  refine (State.setTile_boot ..).trans ((foldl_boot (fun s i => ?_) _ _).trans (State.storeBytes_boot ..))
  grind [State.changeTag_boot]

@[simp] theorem State.killBank_boot (id r) : (s.killBank id r).boot = s.boot := by
  unfold State.killBank
  grind [State.cancelResv_boot, State.setBank_boot, State.unbindAll_boot, State.withdraw_boot]

@[simp] theorem State.killSlot_boot (id at_ tile slot) : (s.killSlot id at_ tile slot).boot = s.boot := by
  unfold State.killSlot
  grind [State.killBank_boot, State.setCtx_boot]

@[simp] theorem State.discardTask_boot (t away breads) : (s.discardTask t away breads).boot = s.boot := by
  unfold State.discardTask
  extract_lets id at_ waiting pins s₁ s₂ s₃ s₄
  have h₄ : s₄.boot = s.boot :=
    (foldl_boot (fun _ _ => State.unpinPage_boot ..) ..).trans (foldl_boot (fun _ _ => State.killSlot_boot ..) ..)
  split <;> exact h₄

/-! #### Machine/Boot -/

@[simp] theorem State.loadImage_boot (image) : (s.loadImage image).boot = s.boot := by
  unfold State.loadImage
  exact foldl_boot (fun s a => by grind [State.storeBytes_boot]) _ _

/-! #### Machine/Burst -/

@[simp] theorem State.setBread_boot (tile c) : (s.setBread tile c).boot = s.boot := rfl

@[simp] theorem State.birth_boot (tile slot c u) : (s.birth tile slot c u).boot = s.boot := by
  unfold State.birth
  grind [State.reseed_boot, State.setBread_boot]

@[simp] theorem State.requestBurst_boot (tile c t') : (s.requestBurst tile c t').boot = s.boot := by
  unfold State.requestBurst
  grind [State.setBread_boot]

@[simp] theorem State.burstBack_boot (tile c t' ix d got) : (s.burstBack tile c t' ix d got).boot = s.boot := by
  unfold State.burstBack
  grind [State.birth_boot, State.setBread_boot]

@[simp] theorem State.burstFails_boot (tile c ix tenant f) : (s.burstFails tile c ix tenant f).boot = s.boot := by
  unfold State.burstFails
  grind [State.parkRequest_boot, State.record_boot, State.setBread_boot]

@[simp] theorem State.returnBurst_boot (tile c t' u) : (s.returnBurst tile c t' u).boot = s.boot := by
  unfold State.returnBurst
  grind [State.burstBack_boot, State.burstFails_boot, State.setBread_boot, State.traceGranule_boot, readGranule_boot]

@[simp] theorem State.breadCmd_boot (r v x0 x1 pc x) : (s.breadCmd r v x0 x1 pc x).1.boot = s.boot := by
  unfold State.breadCmd
  grind [State.pinRange_boot]

@[simp] theorem State.resumeDesc_boot (r) : (s.resumeDesc r).boot = s.boot := by
  unfold State.resumeDesc
  grind [State.breadCmd_boot, State.freePorts_boot, State.parkRequest_boot, State.readDescAgain_boot, State.refuse_boot, State.setBank_boot,
    State.setTile_boot, State.wake_boot]

@[simp] theorem State.completeBread_boot (tile c) : (s.completeBread tile c).boot = s.boot := by
  refine (foldl_boot (fun _ _ => State.unpinPage_boot ..) _ _).trans ?_
  grind [wakeCopies_boot, State.engineWrite_boot, State.setTile_boot]

/-! #### Machine/Seq -/

@[simp] theorem recordBytes_boot (p f va n : Nat) : (recordBytes p f va n s).1.boot = s.boot := by
  induction f generalizing va n s with
  | zero => rfl
  | succ f ih => unfold recordBytes; grind [State.poolData_boot]

@[simp] theorem State.endStream_boot (r k) : (s.endStream r k).boot = s.boot := by
  unfold State.endStream
  grind [State.setBank_boot, State.unpin_boot]

/-! #### Machine/Mbox -/

@[simp] theorem landBytes_boot (r : BankRef) (vlq payload d n : Nat) : (landBytes r vlq payload d n s).boot = s.boot := by
  induction n generalizing payload d s with
  | zero => rfl
  | succ n ih => exact (ih ..).trans (State.land_boot ..)

/-! #### Machine/Peer -/

@[simp] theorem State.landMsg_boot (m) : (s.landMsg m).boot = s.boot := rfl

@[simp] theorem State.joinFail_boot : s.joinFail.boot = s.boot := by
  simp [State.joinFail]

@[simp] theorem State.peerctl_boot (val) : (s.peerctl val).boot = s.boot := by
  unfold State.peerctl
  grind [State.peerSend_boot]

/-! #### Machine/Ras -/

@[simp] theorem State.scrubLine_boot (line) : (s.scrubLine line).boot = s.boot := by
  unfold State.scrubLine
  grind [State.corrected_boot, State.mark_boot, State.record_boot]

@[simp] theorem State.scrubWord_boot (k errs) : (s.scrubWord k errs).boot = s.boot := by
  unfold State.scrubWord
  grind [State.drawn_boot, State.mark_boot, State.record_boot]

@[simp] theorem State.upset_boot (line errs) : (s.upset line errs).boot = s.boot := by
  unfold State.upset
  split
  · exact State.plant_boot ..
  · split
    · exact State.plant_boot ..
    · rfl

@[simp] theorem State.logTail_boot (fn log val) : (s.logTail fn log val).boot = s.boot := by
  unfold State.logTail
  grind [State.setTenant_boot]

@[simp] theorem State.putLine_boot (x) : (s.putLine x).boot = s.boot := by
  unfold State.putLine
  grind [State.mark_boot, State.storeBytes_boot]

@[simp] theorem State.unmapRow_boot (c e) : (s.unmapRow c e).boot = s.boot := by
  unfold State.unmapRow
  exact foldl_boot (fun s a => by grind [State.putLine_boot, State.setChannel_boot]) _ _

@[simp] theorem State.rmapWrite_boot (c e val) : (s.rmapWrite c e val).boot = s.boot := by
  unfold State.rmapWrite
  grind [State.chanRecord_boot, State.setChannel_boot, State.unmapRow_boot]

@[simp] theorem scatter_boot (l bs) : (scatter l bs s).boot = s.boot := by
  induction l generalizing bs s with
  | nil => rfl
  | cons p l ih => unfold scatter; grind [State.storeBytes_boot]

@[simp] theorem State.hostWrite_boot {f : State → State} (hf : ∀ t, (f t).boot = t.boot) (fn) : (s.hostWrite fn f).boot = s.boot := by
  unfold State.hostWrite; grind

/-! #### Machine/Host -/

@[simp] theorem State.qctl_boot (k val) : (s.qctl k val).boot = s.boot := by
  unfold State.qctl
  grind [State.setQueue_boot, State.settleQueue_boot, State.unserve_boot]

@[simp] theorem State.qcancel_boot (k val) : (s.qcancel k val).boot = s.boot := by
  unfold State.qcancel
  grind [State.cancel_boot, Option.getD_eq_iff]

@[simp] theorem State.queueWrite_boot (fn k off val) : (s.queueWrite fn k off val).boot = s.boot := by
  unfold State.queueWrite
  grind [State.qcancel_boot, State.qctl_boot, State.setQueue_boot]

@[simp] theorem State.fepreempt_boot (val) : (s.fepreempt val).boot = s.boot := by
  unfold State.fepreempt
  grind [State.endLadder_boot, State.startLadder_boot]

@[simp] theorem State.tlbinv_boot (t' val) : (s.tlbinv t' val).boot = s.boot := by
  unfold State.tlbinv
  grind [State.setTenant_boot]

@[simp] theorem State.tenantWrite_boot (t' off val) : (s.tenantWrite t' off val).boot = s.boot := by
  unfold State.tenantWrite
  grind [State.setTenant_boot, State.tlbinv_boot]

@[simp] theorem State.readFreqs_boot (p va n : Nat) : (s.readFreqs p va n).1.boot = s.boot := by
  induction n generalizing s va with
  | zero => rfl
  | succ n ih => unfold State.readFreqs; grind [State.poolData_boot]

@[simp] theorem State.metaRuns_boot (p f va n : Nat) : (s.metaRuns p f va n).1.boot = s.boot := by
  induction f generalizing s va n with
  | zero => rfl
  | succ f ih => unfold State.metaRuns; grind [State.poolTr_boot]

@[simp] theorem State.poolDisable_boot (k) : (s.poolDisable k).boot = s.boot := by
  unfold State.poolDisable
  grind [State.setPool_boot]

@[simp] theorem State.leashset_boot (t' val) : (s.leashset t' val).boot = s.boot := by
  unfold State.leashset
  grind [State.setTenant_boot]

@[simp] theorem State.tdbgrel_boot (val) : (s.tdbgrel val).boot = s.boot := by
  simp [State.tdbgrel]

@[simp] theorem State.debugWrite_boot (t' off val) : (s.debugWrite t' off val).boot = s.boot := by
  unfold State.debugWrite
  grind [State.setTenant_boot, State.tdbgrel_boot]

@[simp] theorem State.lvqWrite_boot (t' val) : (s.lvqWrite t' val).boot = s.boot := rfl

@[simp] theorem State.fntenWrite_boot (f val) : (s.fntenWrite f val).boot = s.boot := by
  unfold State.fntenWrite
  grind

@[simp] theorem State.hostTarget_boot (fn a n kind) : (s.hostTarget fn a n kind).1.boot = s.boot := by
  unfold State.hostTarget
  grind [State.check_boot]

@[simp] theorem State.refuseHost_boot (fn a kind cause) : (s.refuseHost fn a kind cause).boot = s.boot := by
  simp [State.refuseHost]

@[simp] theorem State.hostTargets_boot (fn kind : Nat) (l : List (Nat × Nat)) : (s.hostTargets fn kind l).1.boot = s.boot := by
  induction l generalizing s with
  | nil => rfl
  | cons p l ih => unfold State.hostTargets; grind [State.hostTarget_boot, State.refuseHost_boot]

@[simp] theorem State.zeroRuns_boot (l) : (s.zeroRuns l).boot = s.boot := rfl

@[simp] theorem State.poolEnable_boot (k val) : (s.poolEnable k val).boot = s.boot := by
  unfold State.poolEnable
  grind [State.metaRuns_boot, State.readFreqs_boot, State.setPool_boot, State.zeroRuns_boot]

@[simp] theorem State.pcfg_boot (k val) : (s.pcfg k val).boot = s.boot := by
  unfold State.pcfg
  grind [State.poolDisable_boot, State.poolEnable_boot, State.setPool_boot]

@[simp] theorem State.poolWrite_boot (k off val) : (s.poolWrite k off val).boot = s.boot := by
  unfold State.poolWrite
  grind [State.pcfg_boot, State.setPool_boot]

@[simp] theorem State.mbcfg_boot (k val) : (s.mbcfg k val).boot = s.boot := by
  unfold State.mbcfg
  grind [State.setMbox_boot, State.zeroRuns_boot]

@[simp] theorem State.bar2Access_boot (fn off rd val ts) : (s.bar2Access fn off rd val ts).boot = s.boot := State.unitAccess_boot ..

@[simp] theorem State.bar2Read_boot (fn off size) : (s.bar2Read fn off size).boot = s.boot := by
  unfold State.bar2Read
  grind [State.answer_boot, State.bar2Access_boot, State.hostTargets_boot]

@[simp] theorem State.bar2Write_boot (fn off size val) : (s.bar2Write fn off size val).boot = s.boot := by
  unfold State.bar2Write
  grind [State.bar2Access_boot, State.hostTargets_boot]

/-! #### Machine/Misc -/

@[simp] theorem State.unparkWho_boot (w) : (s.unparkWho w).boot = s.boot := by
  unfold State.unparkWho
  grind [State.setTile_boot, State.unpark_boot]

@[simp] theorem State.endChunb_boot (r) : (s.endChunb r).boot = s.boot := by
  unfold State.endChunb
  grind [State.unbind_boot, State.wake_boot]

@[simp] theorem State.performAt_boot (r ix remote errs) : (s.performAt r ix remote errs).boot = s.boot := by
  unfold State.performAt
  grind [State.performAccess_boot, State.plant_boot, State.setBank_boot]

@[simp] theorem State.resendOne_boot (t' p) : (s.resendOne t' p).boot = s.boot := by
  unfold State.resendOne
  grind [State.parkRequest_boot, State.resumeDesc_boot, State.resumeLdt_boot, State.translate_boot, State.unparkWho_boot]

end Frames

/-! ### The sequence pool -/

/-- An action on a pool that keeps these boot registers where it succeeds. -/
def Sq.KeepsBoot (b₀ : Boot) {α : Type} (m : Sq α) : Prop := ∀ s a t, s.boot = b₀ → m s = .ok (a, t) → t.boot = b₀

namespace Sq

variable {b₀ : Boot}

theorem boot_pure {α : Type} {a : α} : KeepsBoot b₀ (pure a : Sq α) := by
  rintro s b t h e
  cases e
  exact h

theorem boot_error {α : Type} {c : SqFail} : KeepsBoot b₀ (fun _ => .error c : Sq α) := by
  rintro s b t h e
  cases e

theorem boot_bind {α β : Type} {m : Sq α} {f : α → Sq β} (hm : KeepsBoot b₀ m) (hf : ∀ a, KeepsBoot b₀ (f a)) : KeepsBoot b₀ (m >>= f) := by
  intro s b t h e
  change (m s >>= fun p => f p.1 p.2) = .ok (b, t) at e
  cases hs : m s with
  | error c => rw [hs] at e; cases e
  | ok p =>
    rw [hs] at e
    exact hf p.1 p.2 b t (hm s p.1 p.2 h hs) e

theorem boot_get_bind {β : Type} {f : State → Sq β} (hf : ∀ s, s.boot = b₀ → KeepsBoot b₀ (f s)) : KeepsBoot b₀ (get >>= f) :=
  fun s b t h e => hf s h s b t h e

theorem boot_set {s : State} (h : s.boot = b₀) : KeepsBoot b₀ (set s : Sq PUnit) := by
  rintro u b t _ e
  cases e
  exact h

theorem boot_modify {f : State → State} (hf : ∀ s, s.boot = b₀ → (f s).boot = b₀) : KeepsBoot b₀ (modify f : Sq PUnit) := by
  rintro s b t h e
  cases e
  exact hf s h

theorem boot_ite {α : Type} {c : Prop} [Decidable c] {m n : Sq α} (hm : KeepsBoot b₀ m) (hn : KeepsBoot b₀ n) :
    KeepsBoot b₀ (if c then m else n) := by
  split <;> assumption

end Sq

section SqSteps
variable {b₀ : Boot} {p : Nat}
open Sq

theorem sqCheck_boot {b : Bool} {c : Nat} : Sq.KeepsBoot b₀ (sqCheck b c) := by
  intro s a t h e
  unfold sqCheck at e
  split at e
  · cases e
    exact h
  · cases e

theorem sqLoad_boot {va n} : Sq.KeepsBoot b₀ (sqLoad p va n) := by
  intro s a t h e
  unfold sqLoad at e
  grind [State.poolData_boot]

theorem sqStore_boot {va n v} : Sq.KeepsBoot b₀ (sqStore p va n v) := by
  intro s a t h e
  unfold sqStore at e
  grind [State.poolTr_boot, State.store_boot]

theorem descWords_boot {va n} : Sq.KeepsBoot b₀ (descWords p va n) := by
  induction n generalizing va with
  | zero => exact boot_pure
  | succ n ih => exact boot_bind sqLoad_boot fun _ => boot_bind ih fun _ => boot_pure

theorem putWords_boot {va l} : Sq.KeepsBoot b₀ (putWords p va l) := by
  induction l generalizing va with
  | nil => exact boot_pure
  | cons x l ih => exact boot_bind sqStore_boot fun _ => ih

theorem getDesc_boot {sid} : Sq.KeepsBoot b₀ (getDesc p sid) :=
  boot_get_bind fun _ _ => boot_bind descWords_boot fun _ => boot_pure

theorem putDesc_boot {sid d} : Sq.KeepsBoot b₀ (putDesc p sid d) := boot_get_bind fun _ _ => putWords_boot

theorem getPage_boot {k} : Sq.KeepsBoot b₀ (getPage p k) := boot_get_bind fun _ _ => sqLoad_boot

theorem putPage_boot {k w} : Sq.KeepsBoot b₀ (putPage p k w) := boot_get_bind fun _ _ => sqStore_boot

theorem dropPage_boot {k} : Sq.KeepsBoot b₀ (dropPage p k) := by
  refine boot_bind getPage_boot fun w => boot_ite (boot_bind putPage_boot fun _ => boot_modify fun s h => ?_) putPage_boot
  exact (State.freePage_boot ..).trans h

theorem addPage_boot {k} : Sq.KeepsBoot b₀ (addPage p k) := boot_bind getPage_boot fun _ => putPage_boot

theorem sqEach_boot {α : Type} {f : α → Sq Unit} (hf : ∀ a, Sq.KeepsBoot b₀ (f a)) {l : List α} : Sq.KeepsBoot b₀ (sqEach f l) := by
  induction l with
  | nil => exact boot_pure
  | cons x l ih => exact boot_bind (hf x) fun _ => ih

theorem cowCheck_boot {d lo hi l} : Sq.KeepsBoot b₀ (cowCheck p d lo hi l) := by
  induction l with
  | nil => exact boot_pure
  | cons j l ih => exact boot_ite (boot_bind getPage_boot fun _ => boot_ite boot_error ih) ih

theorem cow_boot {d lo hi} : Sq.KeepsBoot b₀ (cow p d lo hi) := cowCheck_boot

theorem growTo_boot {iord need f d new} : Sq.KeepsBoot b₀ (growTo p iord need f d new) := by
  induction f generalizing d new with
  | zero =>
    intro s a t h e
    cases e
    exact h
  | succ f ih =>
    intro s a t h e
    unfold growTo at e
    split at e
    · cases e
      exact h
    · split at e
      · cases e
        exact h
      · dsimp only at e
        split at e
        · cases e
          exact h
        · exact ih _ _ _ ((State.setPool_boot ..).trans h) e

theorem sqRes_boot {sid n d} : Sq.KeepsBoot b₀ (sqRes p sid n d) := by
  refine boot_bind cow_boot fun _ => boot_get_bind fun s h => boot_bind growTo_boot fun r => ?_
  cases r with
  | error c => exact boot_bind (boot_set h) fun _ => boot_pure
  | ok x => exact boot_bind (sqEach_boot fun _ => putPage_boot) fun _ => boot_bind putDesc_boot fun _ => boot_pure

theorem putBytes_boot {f va n v} : Sq.KeepsBoot b₀ (putBytes p f va n v) := by
  induction f generalizing va n v with
  | zero => exact boot_pure
  | succ f ih => exact boot_ite boot_pure (boot_bind sqStore_boot fun _ => ih)

theorem sqSt_boot {rot tok n vlq data numctl d} : Sq.KeepsBoot b₀ (sqSt p rot tok n vlq data numctl d) := by
  refine boot_get_bind fun s h => boot_bind sqCheck_boot fun _ => boot_bind getPage_boot fun w => boot_bind sqCheck_boot fun _ =>
    boot_bind sqCheck_boot fun _ => boot_bind sqCheck_boot fun _ => boot_bind cow_boot fun _ => ?_
  extract_lets len raw f q
  split
  · exact boot_error
  · exact boot_bind putBytes_boot fun _ => boot_pure

theorem closeToks_boot {d commit l} : Sq.KeepsBoot b₀ (closeToks p d commit l) := by
  induction l with
  | nil => exact boot_pure
  | cons t l ih => exact boot_bind getPage_boot fun _ => boot_bind putPage_boot fun _ => ih

theorem openToks_boot {d l} : Sq.KeepsBoot b₀ (openToks p d l) := by
  induction l with
  | nil => exact boot_pure
  | cons t l ih => exact boot_bind getPage_boot fun _ => boot_bind sqCheck_boot fun _ => ih

theorem advanceLc_boot {d f lc} : Sq.KeepsBoot b₀ (advanceLc p d f lc) := by
  induction f generalizing lc with
  | zero => exact boot_pure
  | succ f ih => exact boot_ite (boot_bind getPage_boot fun _ => boot_ite ih boot_pure) boot_pure

theorem sqClose_boot {sid commit tok n d} : Sq.KeepsBoot b₀ (sqClose p sid commit tok n d) :=
  boot_bind sqCheck_boot fun _ => boot_bind openToks_boot fun _ => boot_bind cow_boot fun _ => boot_bind closeToks_boot fun _ =>
    boot_bind advanceLc_boot fun _ => boot_bind putDesc_boot fun _ => boot_pure

theorem sqLen_boot {tok sel d} : Sq.KeepsBoot b₀ (sqLen p tok sel d) := boot_get_bind fun _ _ => boot_pure

theorem anyFull_boot {d l} : Sq.KeepsBoot b₀ (anyFull p d l) := by
  induction l with
  | nil => exact boot_pure
  | cons j l ih => exact boot_bind getPage_boot fun _ => boot_ite boot_pure ih

theorem sqFork_boot {child pre d} : Sq.KeepsBoot b₀ (sqFork p child pre d) :=
  boot_get_bind fun _ _ => boot_bind sqCheck_boot fun _ => boot_bind sqCheck_boot fun _ => boot_bind getDesc_boot fun _ =>
    boot_ite boot_pure <| boot_bind anyFull_boot fun _ => boot_ite boot_pure <|
      boot_bind (sqEach_boot fun _ => addPage_boot) fun _ => boot_bind putDesc_boot fun _ => boot_pure

theorem copyGranules_boot {n src dst} : Sq.KeepsBoot b₀ (copyGranules p n src dst) := by
  induction n generalizing src dst with
  | zero => exact boot_pure
  | succ n ih => exact boot_bind sqLoad_boot fun _ => boot_bind sqStore_boot fun _ => ih

theorem sqCow_boot {sid tok d} : Sq.KeepsBoot b₀ (sqCow p sid tok d) := by
  refine boot_get_bind fun s h => boot_bind sqCheck_boot fun _ => boot_bind getPage_boot fun w =>
    boot_ite boot_pure (boot_ite boot_pure ?_)
  split
  · exact boot_pure
  · refine boot_bind (boot_modify fun s h => (State.setPool_boot ..).trans h) fun _ => ?_
    exact boot_bind copyGranules_boot fun _ => boot_bind putPage_boot fun _ => boot_bind putPage_boot fun _ =>
      boot_bind putDesc_boot fun _ => boot_pure

theorem sqTrim_boot {sid tok d} : Sq.KeepsBoot b₀ (sqTrim p sid tok d) :=
  boot_bind sqCheck_boot fun _ => boot_ite boot_pure <|
    boot_bind (sqEach_boot fun _ => dropPage_boot) fun _ => boot_bind putDesc_boot fun _ => boot_pure

theorem sqRel_boot {sid d} : Sq.KeepsBoot b₀ (sqRel p sid d) :=
  boot_bind (sqEach_boot fun _ => dropPage_boot) fun _ => boot_bind putDesc_boot fun _ => boot_pure

theorem listed_boot {d l} : Sq.KeepsBoot b₀ (listed p d l) := by
  induction l with
  | nil => exact boot_pure
  | cons t l ih => exact boot_bind getPage_boot fun _ => boot_bind ih fun _ => boot_pure

theorem sqRd_boot {r port tok n d} : Sq.KeepsBoot b₀ (sqRd p r port tok n d) := by
  refine boot_get_bind fun s h => boot_bind sqCheck_boot fun _ => boot_bind listed_boot fun ts =>
    boot_bind (boot_modify fun s h => ?_) fun _ => boot_pure
  grind [State.pin_boot, State.setBank_boot]

theorem sqRun_boot {c} : Sq.KeepsBoot b₀ (sqRun p c) := by
  refine boot_bind getDesc_boot fun d => boot_bind sqCheck_boot fun _ => ?_
  split
  · exact boot_bind sqRes_boot fun _ => boot_pure
  · exact boot_bind sqSt_boot fun _ => boot_pure
  · exact boot_bind sqSt_boot fun _ => boot_pure
  · exact boot_bind sqClose_boot fun _ => boot_pure
  · exact boot_bind sqClose_boot fun _ => boot_pure
  · exact boot_bind sqLen_boot fun _ => boot_pure
  · exact boot_bind sqFork_boot fun _ => boot_pure
  · exact boot_bind sqRel_boot fun _ => boot_pure
  · exact boot_bind sqTrim_boot fun _ => boot_pure
  · exact boot_bind sqRd_boot fun _ => boot_pure
  · exact boot_bind sqCow_boot fun _ => boot_pure

end SqSteps

/-! ### Instructions that leave the boot registers as they are -/

/-- The state that an outcome answers, where it answers one, has these boot registers. -/
def BootOut (b : Boot) : Out → Prop
  | .next t => t.boot = b
  | _ => True

@[simp] theorem bootOut_next {b : Boot} {s : State} : BootOut b (.next s) ↔ s.boot = b := Iff.rfl

theorem bootOut_ite {c : Prop} [Decidable c] {b : Boot} {o p : Out} (ho : BootOut b o) (hp : BootOut b p) :
    BootOut b (if c then o else p) := by
  split <;> assumption

section Steps
variable {s : State} {b₀ : Boot} (h : s.boot = b₀)
include h

/-! #### Machine/Ops -/

theorem trapAt_boot {cause addr val} : BootOut b₀ (trapAt cause addr val s) := by
  unfold trapAt
  grind [bootOut_next, State.takeTrap_boot, State.unscoped_boot]

theorem trap_boot {cause} : BootOut b₀ (trap cause s) := trapAt_boot h

theorem insTrap_boot {cause} : BootOut b₀ (insTrap cause s) := trapAt_boot h

theorem done_boot {d lat x} : BootOut b₀ (done d lat x s) := by
  unfold done
  grind [bootOut_next, State.retire_boot, State.wgLat_boot]

/-! #### Machine/Memory -/

theorem rlxGate_boot {f : State → Out} (hf : ∀ t, t.boot = b₀ → BootOut b₀ (f t)) : BootOut b₀ (rlxGate s f) := by
  unfold rlxGate; grind [bootOut_next, State.hold_boot, State.setMe_boot]

theorem gate_boot {f : State → Out} (hf : ∀ t, t.boot = b₀ → BootOut b₀ (f t)) : BootOut b₀ (gate s f) := by
  unfold gate; grind [bootOut_next, State.hold_boot]

theorem fenceGate_boot {f : State → Out} (hf : ∀ t, t.boot = b₀ → BootOut b₀ (f t)) : BootOut b₀ (fenceGate s f) := by
  unfold fenceGate; grind [bootOut_next, State.hold_boot, rlxGate_boot]

theorem parkPage_boot {va kind} : BootOut b₀ (parkPage va kind s) := by
  unfold parkPage
  grind [bootOut_next, State.parkRequest_boot, State.setMe_boot, State.unscoped_boot, State.writeBack_boot]

theorem accessElse_boot {absent : Nat → State → Out} {va n kind} {f : Target → State → Out}
    (ha : ∀ a t, t.boot = b₀ → BootOut b₀ (absent a t)) (hf : ∀ x t, t.boot = b₀ → BootOut b₀ (f x t)) :
    BootOut b₀ (accessElse absent va n kind s f) := by
  unfold accessElse; grind [bootOut_next, State.check_boot, State.hold_boot, trapAt_boot]

theorem access_boot {va n kind} {f : Target → State → Out} (hf : ∀ x t, t.boot = b₀ → BootOut b₀ (f x t)) :
    BootOut b₀ (access va n kind s f) :=
  accessElse_boot h (fun _ _ h => parkPage_boot h) hf

/-! #### Machine/Operands -/

theorem vecGate_boot {srcs dst} {f : State → Out} (hf : ∀ t, t.boot = b₀ → BootOut b₀ (f t)) : BootOut b₀ (vecGate srcs dst s f) := by
  unfold vecGate; grind [bootOut_next, State.hold_boot, trap_boot]

theorem vdone_boot {srcs d lat x fl} : BootOut b₀ (vdone srcs d lat x fl s) := by
  unfold vdone
  grind [bootOut_next, State.flushDest_boot, State.retire_boot, State.setMe_boot]

theorem vsdone_boot {srcs d lat x fl} : BootOut b₀ (vsdone srcs d lat x fl s) := by
  unfold vsdone
  grind [bootOut_next, State.retire_boot, State.setMe_boot, State.wgLat_boot]

/-! #### Machine/Mem -/

theorem loadDone_boot {k dest ext base va ps fr} : BootOut b₀ (loadDone k dest ext base va ps s fr) := by
  unfold loadDone
  grind [bootOut_next, State.drainOverlap_boot, State.finishLong_boot, State.poisonErr_boot, State.pushAccess_boot, traceLoads_boot]

theorem storeDone_boot {k va ps} : BootOut b₀ (storeDone k va ps s) := by
  unfold storeDone
  grind [bootOut_next, State.drainOverlap_boot, State.finishLong_boot, State.pushAccess_boot, storeParts_boot]

theorem roomGate_boot {f : State → Out} (hf : ∀ t, t.boot = b₀ → BootOut b₀ (f t)) : BootOut b₀ (roomGate s f) := by
  unfold roomGate; grind [bootOut_next, State.hold_boot, State.setMe_boot]

theorem loadAt_boot {ext n d k va} : BootOut b₀ (loadAt ext n d k va s) :=
  gate_boot h fun _ h => roomGate_boot h fun _ h => access_boot ((State.makeRoom_boot ..).trans h) fun _ _ h => loadDone_boot h

theorem storeAt_boot {n d k va} : BootOut b₀ (storeAt n d k va s) :=
  gate_boot h fun _ h => roomGate_boot h fun _ h => access_boot ((State.makeRoom_boot ..).trans h) fun _ _ h => storeDone_boot h

theorem accessLanes_boot {kind data l ps} {f : List Part → State → Out} (hf : ∀ ps t, t.boot = b₀ → BootOut b₀ (f ps t)) :
    BootOut b₀ (accessLanes kind data l ps s f) := by
  induction l generalizing ps s with
  | nil => exact hf ps s h
  | cons x l ih => exact access_boot h fun _ _ h => ih h

theorem vloadAt_boot {srcs d k lanes} : BootOut b₀ (vloadAt srcs d k lanes s) := by
  refine gate_boot h fun _ h => roomGate_boot h fun _ h => accessLanes_boot ((State.makeRoom_boot ..).trans h) fun ps t h => ?_
  grind [bootOut_next, State.finishLong_boot, State.useCredit_boot, State.takeEntries_boot, loadDone_boot]

theorem vstoreAt_boot {srcs d k lanes} : BootOut b₀ (vstoreAt srcs d k lanes s) := by
  refine gate_boot h fun _ h => roomGate_boot h fun _ h => accessLanes_boot ((State.makeRoom_boot ..).trans h) fun ps t h => ?_
  grind [bootOut_next, State.finishLong_boot, State.usePorts_boot, storeDone_boot]

theorem execVld_boot {d a b k} : BootOut b₀ (execVld d a b k s) := by
  unfold execVld
  grind [bootOut_next, vecGate_boot, vloadAt_boot]

theorem execVst_boot {d a b k} : BootOut b₀ (execVst d a b k s) := by
  unfold execVst
  grind [bootOut_next, vecGate_boot, vstoreAt_boot]

theorem execVlds_boot {d a b k} : BootOut b₀ (execVlds d a b k s) := by
  unfold execVlds
  grind [bootOut_next, trap_boot, vecGate_boot, vloadAt_boot]

theorem execVsts_boot {d a b k} : BootOut b₀ (execVsts d a b k s) := by
  unfold execVsts
  grind [bootOut_next, trap_boot, vecGate_boot, vstoreAt_boot]

theorem execVldx_boot {d a b k} : BootOut b₀ (execVldx d a b k s) := by
  unfold execVldx
  grind [bootOut_next, vecGate_boot, vloadAt_boot]

theorem execVstx_boot {d a b k} : BootOut b₀ (execVstx d a b k s) := by
  unfold execVstx
  grind [bootOut_next, vecGate_boot, vstoreAt_boot]

theorem execVldb_boot {d a b k} : BootOut b₀ (execVldb d a b k s) := by
  unfold execVldb
  grind [bootOut_next, State.makeRoom_boot, State.useCredit_boot, access_boot, gate_boot, loadDone_boot, roomGate_boot,
    vecGate_boot, vloadAt_boot]

theorem releaseGate_boot {rel sc} {f : State → Out} (hf : ∀ t, t.boot = b₀ → BootOut b₀ (f t)) :
    BootOut b₀ (releaseGate rel sc s f) := by
  unfold releaseGate; grind [rlxGate_boot]

theorem feAt_boot {minor reg a i sc v} : BootOut b₀ (feAt minor reg a i sc v s) := by
  refine gate_boot h fun _ h => access_boot h fun x t h => ?_
  split
  · exact trapAt_boot h
  · split
    · exact trapAt_boot h
    · refine releaseGate_boot h fun t h => ?_
      grind [bootOut_next, feAction_boot, State.drain_boot, State.drainOverlap_boot, State.traceThread_boot, State.feErr_boot,
        State.finishLong_boot, State.park_boot, State.setTile_boot]

theorem scopeGate_boot {sc} {f : State → Out} (hf : ∀ t, t.boot = b₀ → BootOut b₀ (f t)) : BootOut b₀ (scopeGate sc s f) := by
  unfold scopeGate; grind [fenceGate_boot]

theorem execFence_boot {sc} : BootOut b₀ (execFence sc s) := by
  unfold execFence
  grind [bootOut_next, State.drain_boot, State.retire_boot, scopeGate_boot]

theorem execIfence_boot {sc} : BootOut b₀ (execIfence sc s) := by
  unfold execIfence
  grind [bootOut_next, State.drain_boot, State.retire_boot, State.setMe_boot, scopeGate_boot]

theorem execEfence_boot {sc} : BootOut b₀ (execEfence sc s) := by
  unfold execEfence
  grind [bootOut_next, State.drain_boot, State.park_boot, State.retire_boot, rlxGate_boot]

/-! #### Machine/Sys -/

theorem ret_boot {d x} : BootOut b₀ (ret d x s) := by
  unfold ret
  grind [bootOut_next, State.retire_boot, State.setMe_boot]

theorem csrOp_boot {d c writes f} : BootOut b₀ (csrOp d c writes f s) := by
  unfold csrOp
  grind [bootOut_next, State.setMe_boot, done_boot, insTrap_boot]

theorem execRpt_boot {a n x y z} : BootOut b₀ (execRpt a n x y z s) := by
  unfold execRpt
  grind [bootOut_next, State.issued_boot, State.jump_boot, State.loadBody_boot, State.setMe_boot, State.settle_boot, insTrap_boot]

theorem execTrap_boot {n} : BootOut b₀ (execTrap n s) := by
  unfold execTrap
  grind [bootOut_next, State.takeTrap_boot, State.unscoped_boot]

theorem execEbrk_boot {n} : BootOut b₀ (execEbrk n s) := by
  unfold execEbrk
  grind [bootOut_next, State.takeTrap_boot, State.unscoped_boot]

theorem execEret_boot : BootOut b₀ (execEret s) := by
  unfold execEret
  grind [bootOut_next, State.jump_boot, State.setMe_boot, insTrap_boot]

theorem execHfcall_boot {d a n} : BootOut b₀ (execHfcall d a n s) := by
  unfold execHfcall
  grind [bootOut_next, State.attestBuffer_boot, State.drain_boot, State.park_boot, fenceGate_boot, insTrap_boot, parkPage_boot, trap_boot,
    trapAt_boot]

theorem execCancel_boot {d a n} : BootOut b₀ (execCancel d a n s) := by
  unfold execCancel
  grind [bootOut_next, State.cancel_boot, State.drain_boot, fenceGate_boot, insTrap_boot, ret_boot, trap_boot]

/-! #### Machine/Atomic -/

theorem atomAt_boot {va} {f : Nat → State → Out} (hf : ∀ loc t, t.boot = b₀ → BootOut b₀ (f loc t)) : BootOut b₀ (atomAt va s f) := by
  refine gate_boot h fun t h => ?_
  grind [trapAt_boot, State.drainOverlap_boot]

theorem execArsv_boot {d a} : BootOut b₀ (execArsv d a s) := by
  unfold execArsv
  grind [bootOut_next, State.finishLong_boot, State.grant_boot, State.queueResv_boot, State.wordErr_boot, atomAt_boot, trapAt_boot]

theorem atomRelease_boot {a v} : BootOut b₀ (atomRelease a v s) := by
  refine atomAt_boot h fun loc t h => ?_
  dsimp only
  split
  · exact trapAt_boot h
  · refine rlxGate_boot h fun u h => ?_
    grind [bootOut_next, State.passOn_boot, State.retire_boot, State.traceThread_boot, State.store_boot, State.drain_boot]

theorem atomOp_boot {minor d a b k} : BootOut b₀ (atomOp minor d a b k s) := by
  unfold atomOp
  refine atomAt_boot h fun loc t h => ?_
  grind [bootOut_next, State.queueResv_boot, State.openWindow_boot, State.finishLong_boot, State.atomAct_boot]

theorem execWaitListRetry_boot {tile slot bank} : BootOut b₀ (execWaitListRetry tile slot bank s) := by
  unfold execWaitListRetry
  grind [bootOut_next, State.allowWait_boot, State.atomWake_boot, State.feErr_boot, State.grantWake_boot, State.traceThread_boot,
    State.wake_boot, State.wakeErr_boot, feAction_boot]

/-! #### Machine/Thread -/

theorem execSpawn_boot {d a b} : BootOut b₀ (execSpawn d a b s) := by
  unfold execSpawn
  grind [bootOut_next, State.drain_boot, State.reseed_boot, fenceGate_boot, insTrap_boot, ret_boot, trap_boot]

theorem exitThread_boot : BootOut b₀ (exitThread s) := by
  unfold exitThread
  dsimp only
  split
  · exact insTrap_boot h
  · refine rlxGate_boot h fun t h => ?_
    grind [bootOut_next, State.cancelResv_boot, State.leave_boot, State.issued_boot, State.endActivation_boot, State.setBank_boot]

theorem endThread_boot : BootOut b₀ (endThread s) := by
  unfold endThread
  dsimp only
  split
  · exact insTrap_boot h
  · refine rlxGate_boot h fun t h => ?_
    grind [bootOut_next, performList_boot, State.endHandler_boot, State.issued_boot, State.park_boot, State.setMe_boot]

theorem execBqry_boot {d} : BootOut b₀ (execBqry d s) := by
  unfold execBqry
  extract_lets tile
  split <;> exact ret_boot h

theorem execDlaunch_boot {d a} : BootOut b₀ (execDlaunch d a s) := by
  unfold execDlaunch
  grind [bootOut_next, State.accept_boot, State.drain_boot, fenceGate_boot, insTrap_boot, ret_boot]

/-! #### Machine/Copy -/

theorem execBteChunkComplete_boot {tile ix chunk} : BootOut b₀ (execBteChunkComplete tile ix chunk s) := by
  simp only [execBteChunkComplete]
  split
  · exact h
  · split
    · exact h
    · split
      · exact (State.chunkDone_boot ..).trans h
      · split <;> split <;> grind [bootOut_next, farTargets_boot, readGranule_boot, State.chunkFails_boot, State.setCopy_boot,
          State.chunkDone_boot, writeFar_boot, writeNear_boot, State.traceGranule_boot]

theorem readDesc_boot {absent : Nat → State → Out} {va} {f : Nat → State → Out} (ha : ∀ a t, t.boot = b₀ → BootOut b₀ (absent a t))
    (hf : ∀ x t, t.boot = b₀ → BootOut b₀ (f x t)) : BootOut b₀ (readDesc absent va s f) := by
  refine accessElse_boot h ha fun x t h => accessElse_boot h ha fun y u h => ?_
  grind [trapAt_boot, State.descData_boot]

theorem enterCopy_boot {c} : BootOut b₀ (enterCopy c s) := by
  unfold enterCopy
  grind [bootOut_next, State.park_boot, State.retire_boot, State.setTile_boot]

theorem parkDesc_boot {minor va near b x0 x1 absent} : BootOut b₀ (parkDesc minor va near b x0 x1 absent s) := by
  unfold parkDesc
  grind [bootOut_next, State.park_boot, State.parkRequest_boot, State.setMe_boot]

theorem copyIssue_boot {minor near a b x0 x1} : BootOut b₀ (copyIssue minor near a b x0 x1 s) := by
  unfold copyIssue
  grind [bootOut_next, State.usePorts_boot, enterCopy_boot, gate_boot, insTrap_boot, parkDesc_boot, readDesc_boot, trapAt_boot,
    vecGate_boot]

theorem cwtAt_boot {a kind} {f : Nat → State → Out} (hf : ∀ loc t, t.boot = b₀ → BootOut b₀ (f loc t)) :
    BootOut b₀ (cwtAt a kind s f) := by
  refine gate_boot h fun _ h => access_boot h fun x t h => ?_
  grind [trapAt_boot, State.drainOverlap_boot]

theorem cwtMask_boot {a b} {f : Nat → Out} (hf : ∀ n, BootOut b₀ (f n)) : BootOut b₀ (cwtMask a b s f) := by
  unfold cwtMask
  grind [trapAt_boot, insTrap_boot]

theorem cwtRead_boot {d va loc} : BootOut b₀ (cwtRead d va loc s) := by
  unfold cwtRead
  grind [bootOut_next, State.finishLong_boot, State.poisonErr_boot, State.traceThread_boot]

theorem execCwait_boot {d a b} : BootOut b₀ (execCwait d a b s) := by
  unfold execCwait
  grind [bootOut_next, State.park_boot, cwtAt_boot, cwtMask_boot, cwtRead_boot]

theorem execCtest_boot {d a b} : BootOut b₀ (execCtest d a b s) := by
  unfold execCtest
  grind [bootOut_next, cwtAt_boot, cwtMask_boot, cwtRead_boot]

theorem execCclr_boot {a} : BootOut b₀ (execCclr a s) := by
  unfold execCclr
  grind [bootOut_next, State.changeTag_boot, State.retire_boot, State.store_boot, State.traceThread_boot, cwtAt_boot]

/-! #### Machine/Flags -/

theorem withFlags_boot {l} {f : Flags → State → Out} (hf : ∀ fl t, t.boot = b₀ → BootOut b₀ (f fl t)) : BootOut b₀ (withFlags l s f) := by
  unfold withFlags; grind [trapAt_boot]

/-! #### Machine/Reflex -/

theorem execPrime_boot {d a b} : BootOut b₀ (execPrime d a b s) := by
  unfold execPrime
  grind [bootOut_next, State.lateActivation_boot, State.retire_boot, State.setCtx_boot, State.setMe_boot, insTrap_boot, ret_boot, trap_boot,
    trapAt_boot]

theorem execUnprime_boot {d a} : BootOut b₀ (execUnprime d a s) := by
  unfold execUnprime
  grind [bootOut_next, State.setCtx_boot, insTrap_boot, ret_boot, trap_boot]

theorem execCeilingTrip_boot {tile slot} : BootOut b₀ (execCeilingTrip tile slot s) := by
  unfold execCeilingTrip
  grind [bootOut_next, State.enterTrap_boot, State.leave_boot]

theorem execBankSwitchComplete_boot {tile slot} : BootOut b₀ (execBankSwitchComplete tile slot s) := by
  unfold execBankSwitchComplete
  grind [bootOut_next, State.cancelResv_boot, State.lateActivation_boot, State.setCtx_boot, performList_boot]

/-! #### Machine/Seize -/

theorem execSeize_boot {d a b x0} : BootOut b₀ (execSeize d a b x0 s) := by
  unfold execSeize
  grind [bootOut_next, State.park_boot, State.send_boot, insTrap_boot, trap_boot]

theorem execSrls_boot : BootOut b₀ (execSrls s) := by
  unfold execSrls
  grind [bootOut_next, State.releaseSeizure_boot, State.retire_boot, insTrap_boot]

theorem execSrlsRemote_boot {a} : BootOut b₀ (execSrlsRemote a s) := by
  unfold execSrlsRemote
  grind [bootOut_next, State.retire_boot, State.send_boot, insTrap_boot, trap_boot]

theorem execSeizq_boot {d a} : BootOut b₀ (execSeizq d a s) := by
  unfold execSeizq
  grind [bootOut_next, State.park_boot, trap_boot]

theorem execSeizeArrival_boot {tile} : BootOut b₀ (execSeizeArrival tile s) := by
  unfold execSeizeArrival
  grind [bootOut_next, State.send_boot, State.setTile_boot]

theorem execSeizureDrainComplete_boot {tile} : BootOut b₀ (execSeizureDrainComplete tile s) := by
  simp only [execSeizureDrainComplete]
  split
  · exact h
  · split
    · exact h
    · split
      · exact h
      · exact (foldl_boot (fun _ _ => State.setCtx_boot ..) ..).trans h

theorem execSeizureSwapComplete_boot {tile} : BootOut b₀ (execSeizureSwapComplete tile s) := by
  simp only [execSeizureSwapComplete]
  split
  · exact h
  · exact (foldl_boot (fun _ _ => (State.setCtx_boot ..).trans (State.seat_boot ..)) ..).trans h

theorem execLeashCeiling_boot {tile slot} : BootOut b₀ (execLeashCeiling tile slot s) := by
  unfold execLeashCeiling
  grind [bootOut_next, State.record_boot, State.releaseSeizure_boot]

theorem execRemoteSrlsArrival_boot {tile} : BootOut b₀ (execRemoteSrlsArrival tile s) := by
  unfold execRemoteSrlsArrival
  grind [bootOut_next, State.releaseSeizure_boot, State.send_boot, State.setTile_boot]

theorem execSeizeReplyArrival_boot {tile slot bank} : BootOut b₀ (execSeizeReplyArrival tile slot bank s) := by
  unfold execSeizeReplyArrival
  grind [bootOut_next, State.wake_boot]

theorem execSeizureReleaseComplete_boot {tile} : BootOut b₀ (execSeizureReleaseComplete tile s) := by
  simp only [execSeizureReleaseComplete]
  split
  · exact h
  · exact (State.setTile_boot ..).trans ((foldl_boot (fun _ _ => State.swapBack_boot ..) ..).trans h)

/-! #### Machine/Matrix -/

theorem ownGate_boot {f : State → Out} (hf : ∀ t, t.boot = b₀ → BootOut b₀ (f t)) : BootOut b₀ (ownGate s f) := by
  unfold ownGate; grind [trap_boot]

theorem deliverGate_boot {f : State → Out} (hf : ∀ t, t.boot = b₀ → BootOut b₀ (f t)) : BootOut b₀ (deliverGate s f) := by
  unfold deliverGate; grind [trapAt_boot, State.setMe_boot]

theorem enterMx_boot {c} : BootOut b₀ (enterMx c s) := by
  unfold enterMx
  grind [bootOut_next, State.claim_boot, State.park_boot, State.retire_boot, State.setTile_boot]

theorem mxIssue_boot {minor ga ctl vdata srcs} : BootOut b₀ (mxIssue minor ga ctl vdata srcs s) := by
  unfold mxIssue
  grind [bootOut_next, State.usePorts_boot, enterMx_boot, insTrap_boot, ownGate_boot, trap_boot]

theorem execMwld_boot {a b} : BootOut b₀ (execMwld a b s) := by
  unfold execMwld
  grind [bootOut_next, gate_boot, mxIssue_boot]

theorem execMstrm_boot {a b} : BootOut b₀ (execMstrm a b s) := by
  unfold execMstrm
  grind [bootOut_next, gate_boot, mxIssue_boot]

theorem execMgath_boot {a b} : BootOut b₀ (execMgath a b s) := by
  unfold execMgath
  grind [bootOut_next, gate_boot, mxIssue_boot]

theorem execMwra_boot {a b} : BootOut b₀ (execMwra a b s) := by
  unfold execMwra
  grind [bootOut_next, mxIssue_boot, vecGate_boot]

theorem execMrda_boot {d b k} : BootOut b₀ (execMrda d b k s) := by
  unfold execMrda
  grind [bootOut_next, State.openWindow_boot, State.useCredit_boot, deliverGate_boot, enterMx_boot, ownGate_boot, trap_boot, vecGate_boot]

theorem execMwait_boot : BootOut b₀ (execMwait s) := by
  unfold execMwait
  grind [bootOut_next, State.claim_boot, State.park_boot, State.retire_boot, deliverGate_boot, ownGate_boot]

theorem execMstat_boot {d} : BootOut b₀ (execMstat d s) := by
  unfold execMstat
  grind [bootOut_next, deliverGate_boot, done_boot]

theorem checkPieces_boot {l ts} {f : List (Option Target) → State → Out} (hf : ∀ ts t, t.boot = b₀ → BootOut b₀ (f ts t)) :
    BootOut b₀ (checkPieces l ts s f) := by
  induction l generalizing ts s with
  | nil => exact hf ts s h
  | cons p l ih => exact accessElse_boot h (fun _ _ h => ih h) fun _ _ h => ih h

theorem execLdt_boot {a b k} : BootOut b₀ (execLdt a b k s) := by
  unfold execLdt
  grind [bootOut_next, State.claim_boot, State.drainOverlap_boot, State.finishLong_boot, State.openWindow_boot, State.parkRequest_boot,
    State.poisonErr_boot, checkPieces_boot, enterMx_boot, gate_boot, ownGate_boot, traceLoads_boot, trap_boot]

theorem execMatrixCommandStart_boot {tile leash} : BootOut b₀ (execMatrixCommandStart tile leash s) := by
  unfold execMatrixCommandStart
  grind [bootOut_next, State.deferMx_boot, State.meetAll_boot, State.recordPoison_boot, State.setTile_boot]

theorem execMatrixCommandEntry_boot {tile} : BootOut b₀ (execMatrixCommandEntry tile s) := by
  unfold execMatrixCommandEntry
  grind [bootOut_next, State.setTile_boot, State.wake_boot]

theorem execMatrixStepComplete_boot {tile leash} : BootOut b₀ (execMatrixStepComplete tile leash s) := by
  unfold execMatrixStepComplete
  grind [bootOut_next, State.finishMx_boot, State.setBank_boot, State.setTile_boot]

theorem execMatrixCommandComplete_boot {tile leash ix} : BootOut b₀ (execMatrixCommandComplete tile leash ix s) := by
  unfold execMatrixCommandComplete
  grind [bootOut_next, State.finishMx_boot, State.mxEffect_boot]

theorem execMatrixClearComplete_boot {tile} : BootOut b₀ (execMatrixClearComplete tile s) := by
  unfold execMatrixClearComplete
  grind [bootOut_next, State.setTile_boot]

theorem execMcmd_boot {d a b cmd notify} : BootOut b₀ (execMcmd d a b cmd notify s) := by
  unfold execMcmd
  grind [bootOut_next, State.park_boot, State.send_boot, gate_boot, insTrap_boot, trap_boot]

theorem execMcmdArrival_boot {tile} : BootOut b₀ (execMcmdArrival tile s) := by
  unfold execMcmdArrival
  grind [bootOut_next, State.record_boot, State.send_boot, State.setTile_boot]

theorem execRemoteReplyArrival_boot {tile slot bank} : BootOut b₀ (execRemoteReplyArrival tile slot bank s) := by
  unfold execRemoteReplyArrival
  grind [bootOut_next, State.wake_boot]

/-! #### Machine/Queue -/

theorem qunitGate_boot {va kind} {f : State → Out} (hf : ∀ t, t.boot = b₀ → BootOut b₀ (f t)) : BootOut b₀ (qunitGate va kind s f) := by
  unfold qunitGate; grind [bootOut_next, State.setQueue_boot]

theorem execQueueSelect_boot {e} : BootOut b₀ (execQueueSelect e s) := by
  unfold execQueueSelect
  grind [bootOut_next, State.selectQueue_boot]

theorem execFetchBlockRead_boot {k} : BootOut b₀ (execFetchBlockRead k s) := by
  unfold execFetchBlockRead
  grind [bootOut_next, State.enterBlock_boot]

theorem qdoneWith_boot {f} : BootOut b₀ (qdoneWith f s) := by
  unfold qdoneWith
  grind [bootOut_next, State.completeQ_boot]

theorem qdone_boot : BootOut b₀ (qdone s) := qdoneWith_boot h

theorem qfault_boot {cause} : BootOut b₀ (qfault cause s) := by
  unfold qfault
  grind [bootOut_next, State.queueFault_boot]

theorem qhold_boot {st h'} : BootOut b₀ (qhold st h' s) := by
  unfold qhold
  grind [bootOut_next, State.setQueue_boot, State.unserve_boot]

theorem execQib_boot {va len} : BootOut b₀ (execQib va len s) := by
  unfold execQib
  grind [bootOut_next, qdoneWith_boot, qfault_boot]

theorem execQret_boot : BootOut b₀ (execQret s) := by
  unfold execQret
  grind [bootOut_next, qdoneWith_boot, qfault_boot]

theorem execQendp_boot : BootOut b₀ (execQendp s) := by
  unfold execQendp
  grind [bootOut_next, qdoneWith_boot, qfault_boot]

theorem execQloop_boot {count} : BootOut b₀ (execQloop count s) := by
  unfold execQloop
  grind [bootOut_next, qdoneWith_boot, qfault_boot]

theorem execQendl_boot : BootOut b₀ (execQendl s) := by
  unfold execQendl
  grind [bootOut_next, qdoneWith_boot, qfault_boot]

theorem execQmark_boot {kind id} : BootOut b₀ (execQmark kind id s) := by
  unfold execQmark
  grind [bootOut_next, State.setInst_boot, qdone_boot, qdoneWith_boot]

theorem execQpred_boot {cond va x} : BootOut b₀ (execQpred cond va x s) := by
  unfold execQpred
  grind [bootOut_next, State.qread_boot, qdoneWith_boot, qfault_boot, qunitGate_boot]

theorem execQwr_boot {va x} : BootOut b₀ (execQwr va x s) := by
  unfold execQwr
  grind [bootOut_next, State.completeQ_boot, State.pollEngine_boot, State.qwrite_boot, qfault_boot, qunitGate_boot]

theorem execQwait_boot {cond va x timeout} : BootOut b₀ (execQwait cond va x timeout s) := by
  unfold execQwait
  grind [bootOut_next, State.qread_boot, qdone_boot, qfault_boot, qhold_boot, qunitGate_boot]

theorem execQwaitPoll_boot {k} : BootOut b₀ (execQwaitPoll k s) := by
  unfold execQwaitPoll
  grind [bootOut_next, State.pollQueue_boot]

theorem execQwaitTimeout_boot {k} : BootOut b₀ (execQwaitTimeout k s) := by
  unfold execQwaitTimeout
  grind [bootOut_next, State.lastPoll_boot, State.queueFault_boot]

theorem execQsig_boot {irq vec va x} : BootOut b₀ (execQsig irq vec va x s) := by
  unfold execQsig
  grind [bootOut_next, State.completeQ_boot, State.postSignal_boot, State.writeSignal_boot, qhold_boot]

theorem execSignalWrite_boot {k} : BootOut b₀ (execSignalWrite k s) := (State.writeSignal_boot ..).trans h

theorem execLaunchAccept_boot {k} : BootOut b₀ (execLaunchAccept k s) := by
  unfold execLaunchAccept
  grind [bootOut_next, State.accept_boot, State.completeQ_boot, State.queueFault_boot, State.setQueue_boot]

theorem execQdep_boot {kind id} : BootOut b₀ (execQdep kind id s) := by
  unfold execQdep
  grind [bootOut_next, qdone_boot, qfault_boot, qhold_boot]

theorem execQreplay_boot {w} : BootOut b₀ (execQreplay w s) := by
  unfold execQreplay
  grind [bootOut_next, State.startReplay_boot, qdone_boot, qhold_boot]

/-! #### Machine/Place -/

theorem execDeterministicReservation_boot {n} : BootOut b₀ (execDeterministicReservation n s) := by
  unfold execDeterministicReservation
  grind [bootOut_next, State.setLaunch_boot]

theorem execTaskPlace_boot {n} : BootOut b₀ (execTaskPlace n s) := by
  unfold execTaskPlace
  grind [bootOut_next, State.placeTask_boot]

theorem execFootprintStagingComplete_boot {id} : BootOut b₀ (execFootprintStagingComplete id s) := by
  unfold execFootprintStagingComplete
  grind [bootOut_next, State.stageGranules_boot, State.stageSeeds_boot]

theorem execTaskRetire_boot {id} : BootOut b₀ (execTaskRetire id s) := by
  unfold execTaskRetire
  grind [bootOut_next, State.clearMatrix_boot]

theorem execResultDigest_boot {n} : BootOut b₀ (execResultDigest n s) := by
  unfold execResultDigest
  grind [bootOut_next, State.digestSnaps_boot]

theorem execInstanceComplete_boot {t' kind id} : BootOut b₀ (execInstanceComplete t' kind id s) := by
  unfold execInstanceComplete
  grind [bootOut_next, State.completeInst_boot, State.completeLaunch_boot]

theorem execLevelQueryComplete_boot {t'} : BootOut b₀ (execLevelQueryComplete t' s) := by
  unfold execLevelQueryComplete
  grind [bootOut_next, State.setTenant_boot]

/-! #### Machine/Sync -/

theorem redIssue_boot {minor rel acq scope a b} : BootOut b₀ (redIssue minor rel acq scope a b s) := by
  unfold redIssue
  grind [bootOut_next, State.drain_boot, State.hold_boot, State.redOverlap_boot, State.retire_boot, State.setTile_boot, gate_boot,
    releaseGate_boot, trapAt_boot]

theorem execReductionPerform_boot {ix} : BootOut b₀ (execReductionPerform ix s) := by
  unfold execReductionPerform
  grind [bootOut_next, State.addWide_boot, State.dropRed_boot, State.endRed_boot, State.meet_boot, State.parkRequest_boot,
    State.recordPoison_boot, State.redCheck_boot, State.setTile_boot, State.traceAt_boot, State.writeTarget_boot]

theorem wacAt_boot {minor d a k} : BootOut b₀ (wacAt minor d a k s) := by
  unfold wacAt
  grind [bootOut_next, State.finishLong_boot, State.openWindow_boot, State.park_boot, State.wacAct_boot, access_boot, gate_boot,
    trapAt_boot]

theorem execBreg_boot {d a b} : BootOut b₀ (execBreg d a b s) := by
  simp only [execBreg]
  split
  · exact trap_boot h
  · split
    · exact ret_boot h
    · refine ret_boot ((State.setBar_boot ..).trans ?_)
      exact (foldl_boot (fun _ _ => State.discardArrival_boot ..) ..).trans h

theorem barGate_boot {a} {f : Nat → BarSlot → State → Out} (hf : ∀ n q t, t.boot = b₀ → BootOut b₀ (f n q t)) :
    BootOut b₀ (barGate a s f) := by
  unfold barGate; grind [trap_boot]

theorem barArrive_boot {minor d a} : BootOut b₀ (barArrive minor d a s) := by
  unfold barArrive
  grind [bootOut_next, State.arrive_boot, State.drain_boot, State.park_boot, barGate_boot, rlxGate_boot]

theorem execBwait_boot {a b} : BootOut b₀ (execBwait a b s) := by
  unfold execBwait
  grind [bootOut_next, State.barWait_boot, State.park_boot, barGate_boot]

theorem execBtest_boot {d a} : BootOut b₀ (execBtest d a s) := by
  unfold execBtest
  grind [bootOut_next, barGate_boot, ret_boot]

theorem execBarrierArrival_boot {ix} : BootOut b₀ (execBarrierArrival ix s) := by
  simp only [execBarrierArrival]
  split
  · split
    · exact h
    · split_ifs
      · exact (State.discardArrival_boot ..).trans h
      · exact h
      · exact (foldl_boot (fun _ _ => State.send_boot ..) ..).trans h
  · exact h

theorem execBarrierRelease_boot {ix} : BootOut b₀ (execBarrierRelease ix s) := by
  simp only [execBarrierRelease]
  split
  · split
    · exact h
    · split
      · exact h
      · refine (foldl_boot (fun s r => ?_) ..).trans ?_
        · grind [State.arrive_boot, State.barWait_boot]
        · grind [State.sendArrival_boot, State.setBar_boot]
  · exact h

theorem execTreeset_boot {a} : BootOut b₀ (execTreeset a s) := by
  unfold execTreeset
  grind [bootOut_next, State.retire_boot, State.setMe_boot, trap_boot]

theorem execSend_boot {a} : BootOut b₀ (execSend a s) := by
  unfold execSend
  grind [bootOut_next, State.park_boot, State.sendUp_boot, trap_boot]

theorem execRsrv_boot {d a} : BootOut b₀ (execRsrv d a s) := by
  unfold execRsrv
  grind [bootOut_next, State.park_boot, State.serveTree_boot, trap_boot]

theorem execTreeDeliverArrival_boot {ix} : BootOut b₀ (execTreeDeliverArrival ix s) := by
  simp only [execTreeDeliverArrival]
  repeat' split
  all_goals grind [bootOut_next, State.refuse_boot, State.setBank_boot, State.finishRsrv_boot, State.wake_boot, State.serveTree_boot]

theorem execTreeDeliverRetry_boot {tile slot bank} : BootOut b₀ (execTreeDeliverRetry tile slot bank s) := by
  unfold execTreeDeliverRetry
  grind [bootOut_next, State.sendUp_boot, State.setBank_boot]

/-! #### Machine/Preempt -/

theorem execLadderStart_boot {n} : BootOut b₀ (execLadderStart n s) := by
  unfold execLadderStart
  grind [bootOut_next, State.startLadder_boot]

theorem execRung2Save_boot {k} : BootOut b₀ (execRung2Save k s) := by
  unfold execRung2Save
  grind [bootOut_next, State.applyRung2_boot]

theorem execRung3Reset_boot {k} : BootOut b₀ (execRung3Reset k s) := by
  simp only [execRung3Reset]
  split
  · split_ifs
    · exact h
    · exact (State.unserve_boot ..).trans ((foldl_boot (fun _ _ => State.resetTask_boot ..) ..).trans ((State.markRung_boot ..).trans h))
    · exact h
  · exact h

theorem execQuantumExpiry_boot {tile slot} : BootOut b₀ (execQuantumExpiry tile slot s) := by
  unfold execQuantumExpiry
  grind [bootOut_next, State.reloadQuantum_boot, State.setTask_boot]

theorem execTaskSaveComplete_boot {id} : BootOut b₀ (execTaskSaveComplete id s) := by
  simp only [execTaskSaveComplete]
  repeat' split
  all_goals grind [bootOut_next, State.quantumSwitch_boot, State.saveShort_boot, State.frame_boot, State.writeFrame_boot,
    State.saveTask_boot]

theorem execTaskRestore_boot {id} : BootOut b₀ (execTaskRestore id s) := by
  have again (u : State) (v : Saved) :
      (v.task.slots.foldl (fun s k => s.lookAgain v.quantum v.task.tile k) (u.takeBack v.task v.quantum)).boot = u.boot :=
    (foldl_boot (fun _ _ => State.lookAgain_boot ..) ..).trans (State.takeBack_boot ..)
  unfold execTaskRestore
  grind [bootOut_next, State.refill_boot, State.refillMx_boot, State.unsave_boot]

theorem execKillQuiet_boot {id} : BootOut b₀ (execKillQuiet id s) := by
  unfold execKillQuiet
  grind [bootOut_next, State.discardTask_boot, State.endKill_boot]

theorem execStarvationWatchdog_boot {n} : BootOut b₀ (execStarvationWatchdog n s) := by
  unfold execStarvationWatchdog
  grind [bootOut_next, State.applyRung2_boot, State.setLaunch_boot, State.setQueue_boot]

theorem execParkWatchdog_boot {tile slot bank} : BootOut b₀ (execParkWatchdog tile slot bank s) := by
  unfold execParkWatchdog
  grind [bootOut_next, State.record_boot, State.setBank_boot]

theorem execLaunchStallWatchdog_boot {n} : BootOut b₀ (execLaunchStallWatchdog n s) := by
  unfold execLaunchStallWatchdog
  grind [bootOut_next, State.killLaunch_boot, State.record_boot, State.setLaunch_boot]

/-! #### Machine/Boot -/

theorem execDtbOffsetCheck_boot {offsetNs heldNs} : BootOut b₀ (execDtbOffsetCheck offsetNs heldNs s) := by
  unfold execDtbOffsetCheck
  grind [bootOut_next, State.record_boot]

/-! #### Machine/Burst -/

theorem enterBread_boot {c} : BootOut b₀ (enterBread c s) := by
  unfold enterBread
  grind [bootOut_next, State.park_boot, State.retire_boot, State.setTile_boot]

theorem execBread_boot {a b x0 x1} : BootOut b₀ (execBread a b x0 x1 s) := by
  unfold execBread
  grind [bootOut_next, State.breadCmd_boot, State.usePorts_boot, enterBread_boot, gate_boot, insTrap_boot, parkDesc_boot,
    readDesc_boot, trapAt_boot, vecGate_boot]

theorem execBteCommandEntry_boot {tile ix} : BootOut b₀ (execBteCommandEntry tile ix s) := by
  unfold execBteCommandEntry
  grind [bootOut_next, State.setTile_boot, State.wake_boot]

theorem execBurstDataReturn_boot {tile ix burst} : BootOut b₀ (execBurstDataReturn tile ix burst s) := by
  unfold execBurstDataReturn
  grind [bootOut_next, State.requestBurst_boot, State.returnBurst_boot]

theorem execBurstBirth_boot {tile slot} : BootOut b₀ (execBurstBirth tile slot s) := by
  unfold execBurstBirth
  grind [bootOut_next, State.birth_boot]

theorem execBteCommandComplete_boot {tile ix} : BootOut b₀ (execBteCommandComplete tile ix s) := by
  unfold execBteCommandComplete
  grind [bootOut_next, State.completeBread_boot, State.completeCopy_boot]

/-! #### Machine/Scalar -/

theorem alu_boot {lat f d a b} : BootOut b₀ (alu lat f d a b s) := done_boot h

theorem aluI_boot {f d a} : BootOut b₀ (aluI f d a s) := done_boot h

theorem branch_boot {c disp} : BootOut b₀ (branch c disp s) := by
  unfold branch
  grind [bootOut_next, State.jump_boot, State.retire_boot]

theorem jumpReg_boot {t' link} : BootOut b₀ (jumpReg t' link s) := by
  unfold jumpReg
  grind [bootOut_next, State.jump_boot, State.wgLat_boot, insTrap_boot]

theorem execDbnz_boot {a o} : BootOut b₀ (execDbnz a o s) := by
  unfold execDbnz
  grind [bootOut_next, State.wgLat_boot, branch_boot]

theorem execJ_boot {i} : BootOut b₀ (execJ i s) := by
  unfold execJ
  grind [bootOut_next, State.jump_boot]

theorem execJl_boot {i} : BootOut b₀ (execJl i s) := by
  unfold execJl
  grind [bootOut_next, State.jump_boot, State.wgLat_boot]

theorem execCNop_boot : BootOut b₀ (execCNop s) := by
  unfold execCNop
  grind [bootOut_next, State.retire_boot]

theorem execCJ_boot {o} : BootOut b₀ (execCJ o s) := by
  unfold execCJ
  grind [bootOut_next, State.jump_boot]

/-! #### Machine/Vector -/

theorem vmapN_boot {w lat srcs d m f} : BootOut b₀ (vmapN w lat srcs d m f s) :=
  vecGate_boot h fun _ h => withFlags_boot h fun _ _ h => vdone_boot h

theorem vmap2_boot {w lat d a b m f} : BootOut b₀ (vmap2 w lat d a b m f s) := vmapN_boot h

theorem vmap1_boot {w lat d a m f} : BootOut b₀ (vmap1 w lat d a m f s) := vmapN_boot h

theorem vreduce_boot {w d a m empty f} : BootOut b₀ (vreduce w d a m empty f s) := by
  unfold vreduce
  grind [bootOut_next, vecGate_boot, vsdone_boot, withFlags_boot]

theorem vplain_boot {lat srcs d f} : BootOut b₀ (vplain lat srcs d f s) := vecGate_boot h fun _ h => vdone_boot h

/-! #### Machine/Sfu -/

theorem vsfu_boot {minor d a m t'} : BootOut b₀ (vsfu minor d a m t' s) := vmap1_boot h

/-! #### Machine/Seq -/

theorem execSeqCommandExecute_boot {p} : BootOut b₀ (execSeqCommandExecute p s) := by
  unfold execSeqCommandExecute
  split
  · exact h
  · dsimp only
    split
    · next e =>
      have ht := sqRun_boot _ _ _ ((State.setPool_boot ..).trans h) e
      grind [bootOut_next, State.freePorts_boot, State.setBank_boot, State.wake_boot]
    · grind [bootOut_next, State.refuse_boot, State.setBank_boot, State.setPool_boot]

theorem seqOp_boot {minor dest data srcs a b} : BootOut b₀ (seqOp minor dest data srcs a b s) := by
  unfold seqOp
  grind [bootOut_next, State.drain_boot, State.park_boot, State.setMe_boot, State.setPool_boot, gate_boot, insTrap_boot,
    rlxGate_boot, trapAt_boot]

theorem execSqst_boot {d a b} : BootOut b₀ (execSqst d a b s) := by
  unfold execSqst
  grind [bootOut_next, seqOp_boot, vecGate_boot]

theorem execSqstr_boot {d a b} : BootOut b₀ (execSqstr d a b s) := by
  unfold execSqstr
  grind [bootOut_next, seqOp_boot, vecGate_boot]

theorem execSqunpin_boot {a} : BootOut b₀ (execSqunpin a s) := by
  unfold execSqunpin
  grind [bootOut_next, State.endStream_boot, State.retire_boot, gate_boot, insTrap_boot, trapAt_boot]

theorem execStreamDelivery_boot {tile slot port} : BootOut b₀ (execStreamDelivery tile slot port s) := by
  simp only [execStreamDelivery]
  repeat' split
  all_goals grind [bootOut_next, recordBytes_boot, State.record_boot, State.setBank_boot, State.unpin_boot, State.rouse_boot]

/-! #### Machine/Chan -/

theorem execChbind_boot {d a} : BootOut b₀ (execChbind d a s) := by
  unfold execChbind
  grind [bootOut_next, State.send_boot, State.setMe_boot, insTrap_boot, ret_boot, trap_boot]

theorem execChunb_boot {a} : BootOut b₀ (execChunb a s) := by
  unfold execChunb
  grind [bootOut_next, State.park_boot, State.retire_boot, State.unbind_boot, insTrap_boot]

theorem execChstat_boot {d a} : BootOut b₀ (execChstat d a s) := by
  unfold execChstat
  grind [bootOut_next, insTrap_boot, ret_boot]

theorem execBindNoticeArrival_boot {ix} : BootOut b₀ (execBindNoticeArrival ix s) := by
  unfold execBindNoticeArrival
  grind [bootOut_next, State.record_boot, State.send_boot, State.setBank_boot]

theorem execCreditArrival_boot {ix} : BootOut b₀ (execCreditArrival ix s) := by
  unfold execCreditArrival
  grind [bootOut_next, State.rouse_boot, State.setBank_boot]

theorem execChannelMessageArrival_boot {ix} : BootOut b₀ (execChannelMessageArrival ix s) := by
  unfold execChannelMessageArrival
  grind [bootOut_next, State.record_boot, State.rouse_boot, State.setBank_boot]

/-! #### Machine/Mbox -/

theorem mboxCtl_boot {mask w} {f : State → Out} (hf : ∀ t, t.boot = b₀ → BootOut b₀ (f t)) : BootOut b₀ (mboxCtl mask w s f) := by
  unfold mboxCtl; grind [trap_boot, insTrap_boot]

theorem execMbwr_boot {d a} : BootOut b₀ (execMbwr d a s) := by
  unfold execMbwr
  grind [bootOut_next, State.hold_boot, State.retire_boot, State.store_boot, State.usePorts_boot, gate_boot, trapAt_boot, vecGate_boot]

theorem mbpub_boot {copy a b} : BootOut b₀ (mbpub copy a b s) := by
  unfold mbpub
  grind [bootOut_next, State.retire_boot, State.setMbox_boot, gate_boot, mboxCtl_boot, trapAt_boot]

theorem vecGates_boot {l} {f : State → Out} (hf : ∀ t, t.boot = b₀ → BootOut b₀ (f t)) : BootOut b₀ (vecGates l s f) := by
  induction l generalizing s with
  | nil => exact hf s h
  | cons d l ih => exact vecGate_boot h fun _ h => ih h

theorem execMbrd_boot {d a b} : BootOut b₀ (execMbrd d a b s) := by
  refine gate_boot h fun s h => mboxCtl_boot h fun s h => ?_
  split
  · exact trapAt_boot h
  · dsimp only
    split
    · exact trapAt_boot h
    · exact vecGates_boot h fun _ h => (State.park_boot ..).trans ((foldl_boot (fun _ _ => State.useCredit_boot ..) ..).trans h)

theorem execMailboxPublicationArrival_boot {k} : BootOut b₀ (execMailboxPublicationArrival k s) := by
  unfold execMailboxPublicationArrival
  grind [bootOut_next, State.record_boot, State.setMbox_boot]

theorem execMailboxFlip_boot {k} : BootOut b₀ (execMailboxFlip k s) := by
  unfold execMailboxFlip
  grind [bootOut_next, State.setMbox_boot, State.storeBytes_boot]

theorem execMbpubcCopyComplete_boot {k} : BootOut b₀ (execMbpubcCopyComplete k s) := by
  unfold execMbpubcCopyComplete
  grind [bootOut_next, State.setMbox_boot]

theorem execMailboxReadTransaction_boot {tile slot bank} : BootOut b₀ (execMailboxReadTransaction tile slot bank s) := by
  have credits (t : State) (r : BankRef) (d n) : ((List.range n).foldl (fun s j => s.backCredit r (.v (d + j))) t).boot = t.boot :=
    foldl_boot (fun _ _ => State.backCredit_boot ..) _ _
  unfold execMailboxReadTransaction
  dsimp only
  split
  · split
    · split_ifs
      · exact h
      · exact ((State.refuse_boot ..).trans (credits ..)).trans h
      · exact h
    · split
      · next u _ e =>
        have hu : u.boot = b₀ := by grind [State.setMbox_boot, State.poisonErr_boot]
        exact ((State.wakeErr_boot ..).trans (credits ..)).trans hu
      · next u e =>
        have hu : u.boot = b₀ := by grind [State.setMbox_boot, State.poisonErr_boot]
        grind [bootOut_next, State.wake_boot, State.land_boot, landBytes_boot]
  · exact h

/-! #### Machine/Peer -/

theorem execPeerctlEnable_boot {fn val} : BootOut b₀ (execPeerctlEnable fn val s) := by
  unfold execPeerctlEnable
  grind [bootOut_next, State.peerctl_boot]

theorem execJoinTimeout_boot : BootOut b₀ (execJoinTimeout s) := by
  unfold execJoinTimeout
  grind [bootOut_next, State.joinFail_boot]

theorem execHeartbeatSend_boot : BootOut b₀ (execHeartbeatSend s) := by
  unfold execHeartbeatSend
  grind [bootOut_next, State.peerSend_boot]

theorem execPeerLost_boot : BootOut b₀ (execPeerLost s) := by
  unfold execPeerLost
  grind [bootOut_next, State.peerRecord_boot, State.peerSend_boot]

/-! #### Machine/Ras -/

theorem execScrubRead_boot {line errs} : BootOut b₀ (execScrubRead line errs s) := by
  have keep : ∀ {u : State} {fe : FeRegs}, u.boot = b₀ → BootOut b₀ (.next { u with fe := fe }) := fun h => h
  have hu : (s.upset line errs).boot = b₀ := (State.upset_boot ..).trans h
  have hl : ((s.upset line errs).scrubLine line).boot = b₀ := (State.scrubLine_boot ..).trans hu
  have hw : ∀ w, ((s.upset line errs).scrubWord w errs).boot = b₀ := fun w => (State.scrubWord_boot ..).trans hu
  exact bootOut_ite hu (bootOut_ite (bootOut_ite (keep hl) hu) (bootOut_ite (keep (hw _)) hu))

theorem execLaneFailure_boot {c lane} : BootOut b₀ (execLaneFailure c lane s) := by
  unfold execLaneFailure
  grind [bootOut_next, State.chanRecord_boot, State.setChannel_boot]

theorem execRmapSetValid_boot {fn c e val} : BootOut b₀ (execRmapSetValid fn c e val s) := by
  unfold execRmapSetValid
  grind [bootOut_next, State.rmapWrite_boot]

theorem execRmapClearValid_boot {fn c e val} : BootOut b₀ (execRmapClearValid fn c e val s) := by
  unfold execRmapClearValid
  grind [bootOut_next, State.rmapWrite_boot]

theorem execRmapPprStart_boot {fn c e val} : BootOut b₀ (execRmapPprStart fn c e val s) := by
  unfold execRmapPprStart
  grind [bootOut_next, State.rmapWrite_boot]

theorem execRowRemapComplete_boot {c e} : BootOut b₀ (execRowRemapComplete c e s) := by
  unfold execRowRemapComplete
  grind [bootOut_next, State.chanRecord_boot, State.setChannel_boot]

theorem execPprComplete_boot {c ok} : BootOut b₀ (execPprComplete c ok s) := by
  unfold execPprComplete
  grind [bootOut_next, State.chanRecord_boot, State.setChannel_boot]

theorem execHfcallReply_boot {tile slot bank} : BootOut b₀ (execHfcallReply tile slot bank s) := by
  unfold execHfcallReply
  grind [bootOut_next, State.attestBuffer_boot, State.drawn_boot, State.record_boot, State.refuse_boot, State.wake_boot, scatter_boot]

theorem execLogTailWrite_boot {fn log val} : BootOut b₀ (execLogTailWrite fn log val s) := by
  unfold execLogTailWrite
  grind [bootOut_next, State.hostWrite_boot, State.logTail_boot]

/-! #### Machine/Host -/

theorem execQtailDoorbell_boot {fn q val} : BootOut b₀ (execQtailDoorbell fn q val s) := by
  unfold execQtailDoorbell
  grind [bootOut_next, State.hostWrite_boot, State.queueWrite_boot]

theorem execQctlEnable_boot {fn q val} : BootOut b₀ (execQctlEnable fn q val s) := by
  unfold execQctlEnable
  grind [bootOut_next, State.hostWrite_boot, State.queueWrite_boot]

theorem execQctlDisable_boot {fn q val} : BootOut b₀ (execQctlDisable fn q val s) := by
  unfold execQctlDisable
  grind [bootOut_next, State.hostWrite_boot, State.queueWrite_boot]

theorem execQctlResume_boot {fn q val} : BootOut b₀ (execQctlResume fn q val s) := by
  unfold execQctlResume
  grind [bootOut_next, State.hostWrite_boot, State.queueWrite_boot]

theorem execQcancelWrite_boot {fn q val} : BootOut b₀ (execQcancelWrite fn q val s) := by
  unfold execQcancelWrite
  grind [bootOut_next, State.hostWrite_boot, State.queueWrite_boot]

theorem execFepreemptStart_boot {fn val} : BootOut b₀ (execFepreemptStart fn val s) := by
  unfold execFepreemptStart
  grind [bootOut_next, State.fepreempt_boot, State.hostWrite_boot]

theorem execFepreemptEnd_boot {fn val} : BootOut b₀ (execFepreemptEnd fn val s) := by
  unfold execFepreemptEnd
  grind [bootOut_next, State.fepreempt_boot, State.hostWrite_boot]

theorem execTlbinvWrite_boot {fn t' val} : BootOut b₀ (execTlbinvWrite fn t' val s) := by
  unfold execTlbinvWrite
  grind [bootOut_next, State.hostWrite_boot, State.tlbinv_boot]

theorem execTlbInvalidationComplete_boot {t'} : BootOut b₀ (execTlbInvalidationComplete t' s) := by
  unfold execTlbInvalidationComplete
  grind [bootOut_next, State.setTenant_boot]

theorem execPcfgEnable_boot {fn p val} : BootOut b₀ (execPcfgEnable fn p val s) := by
  unfold execPcfgEnable
  grind [bootOut_next, State.hostWrite_boot, State.poolEnable_boot]

theorem execPcfgDisable_boot {fn p val} : BootOut b₀ (execPcfgDisable fn p val s) := by
  unfold execPcfgDisable
  grind [bootOut_next, State.hostWrite_boot, State.poolDisable_boot]

theorem execMbcfgEnable_boot {fn m val} : BootOut b₀ (execMbcfgEnable fn m val s) := by
  unfold execMbcfgEnable
  grind [bootOut_next, State.hostWrite_boot, State.mbcfg_boot]

theorem execTdbgrelWrite_boot {fn t' val} : BootOut b₀ (execTdbgrelWrite fn t' val s) := by
  unfold execTdbgrelWrite
  grind [bootOut_next, State.hostWrite_boot, State.tdbgrel_boot]

theorem execLvqWrite_boot {fn t' val} : BootOut b₀ (execLvqWrite fn t' val s) := by
  unfold execLvqWrite
  grind [bootOut_next, State.hostWrite_boot, State.lvqWrite_boot]

theorem execTrctlEnable_boot {tile val} : BootOut b₀ (execTrctlEnable tile val s) := by
  unfold execTrctlEnable
  grind [bootOut_next, State.setTile_boot]

theorem execHostBar2Read_boot {fn off size} : BootOut b₀ (execHostBar2Read fn off size s) := (State.bar2Read_boot ..).trans h

theorem execHostBar2Write_boot {fn off size val} : BootOut b₀ (execHostBar2Write fn off size val s) := (State.bar2Write_boot ..).trans h

theorem execHostMbmWindowAccess_boot {fn off size wr val} : BootOut b₀ (execHostMbmWindowAccess fn off size wr val s) := by
  unfold execHostMbmWindowAccess
  grind [bootOut_next, State.bar2Read_boot, State.bar2Write_boot]

/-! #### Machine/Misc -/

theorem execResultWriteback_boot {tile slot bank} : BootOut b₀ (execResultWriteback tile slot bank s) := by
  unfold execResultWriteback
  grind [bootOut_next, State.endChunb_boot, State.landPend_boot, State.setBank_boot]

theorem execAccessPerformed_boot {tile slot bank ix} : BootOut b₀ (execAccessPerformed tile slot bank ix s) :=
  (State.performAt_boot ..).trans h

theorem execRemoteAccessArrival_boot {tile slot bank ix} : BootOut b₀ (execRemoteAccessArrival tile slot bank ix s) :=
  (State.performAt_boot ..).trans h

theorem execFetchUnitRead_boot {tile slot} : BootOut b₀ (execFetchUnitRead tile slot s) := by
  unfold execFetchUnitRead
  grind [bootOut_next, State.fetchUnit_boot, State.setBank_boot]

theorem execPageWalkComplete_boot {tile t' va} : BootOut b₀ (execPageWalkComplete tile t' va s) := by
  unfold execPageWalkComplete
  grind [bootOut_next, State.endWalk_boot, State.translate_boot]

theorem execReplayAllSend_boot {t'} : BootOut b₀ (execReplayAllSend t' s) := by
  unfold execReplayAllSend
  grind [bootOut_next, State.releaseQueues_boot, State.resendOne_boot, State.setTenant_boot]

theorem relaxedMeaning_boot {i o} (e : relaxedMeaning i s = some o) : BootOut b₀ o := by
  unfold relaxedMeaning at e
  split at e <;> cases e
  case h_1 | h_2 | h_3 | h_4 | h_5 | h_6 | h_7 => exact loadAt_boot h
  case h_8 | h_9 | h_10 | h_11 => exact storeAt_boot h
  case h_12 | h_13 | h_14 | h_15 | h_16 | h_17 | h_18 => exact loadAt_boot h
  case h_19 | h_20 | h_21 | h_22 => exact storeAt_boot h
  case h_23 => exact loadAt_boot h
  case h_24 => exact storeAt_boot h
  case h_25 => exact execVld_boot h
  case h_26 => exact execVst_boot h
  case h_27 => exact execVlds_boot h
  case h_28 => exact execVsts_boot h
  case h_29 => exact execVldx_boot h
  case h_30 => exact execVstx_boot h
  case h_31 => exact execVldb_boot h

theorem execCRlx_boot {sc} : BootOut b₀ (execCRlx sc s) := by
  unfold execCRlx
  extract_lets f pc
  split
  · exact trapAt_boot h
  · split
    · next o e =>
      obtain ⟨i, -, ho⟩ := Option.bind_eq_some_iff.mp e
      exact relaxedMeaning_boot (s := { s with rlxScope := some sc.toNat, len := 2 + f.len, iaddr := pc + 2, ibits := f.bits }) h ho
    · exact trapAt_boot h

/-! #### Machine/VecFp -/

theorem vflt_boot {f g d a b m} : BootOut b₀ (vflt f g d a b m s) := vmap2_boot h

theorem vsgn_boot {f g d a m} : BootOut b₀ (vsgn f g d a m s) := vmap1_boot h

/-! #### Machine/VecInt -/

theorem vint_boot {w f d a b m} : BootOut b₀ (vint w f d a b m s) := vmap2_boot h

theorem vint1_boot {w f d a m} : BootOut b₀ (vint1 w f d a m s) := vmap1_boot h

theorem v8_boot {lat f d a b m} : BootOut b₀ (v8 lat f d a b m s) := vmap2_boot h

/-! #### Machine/VecMisc -/

theorem vbcast_boot {w d a m} : BootOut b₀ (vbcast w d a m s) := vmapN_boot h

theorem vext_boot {w d a b} : BootOut b₀ (vext w d a b s) := by
  unfold vext
  grind [bootOut_next, vecGate_boot, vsdone_boot]

theorem vins_boot {w d a b} : BootOut b₀ (vins w d a b s) := vmapN_boot h

theorem vperm_boot {w d a b m} : BootOut b₀ (vperm w d a b m s) := vmapN_boot h

theorem execVredsumI32_boot {d a m} : BootOut b₀ (execVredsumI32 d a m s) := by
  unfold execVredsumI32
  grind [bootOut_next, vecGate_boot, vsdone_boot]

theorem vcvt_boot {src f d a m} : BootOut b₀ (vcvt src f d a m s) := vmap1_boot h

theorem execVq4_boot {d a b m} : BootOut b₀ (execVq4 d a b m s) := by
  unfold execVq4
  grind [bootOut_next, vdone_boot, vecGate_boot, withFlags_boot]

theorem execVcmp_boot {d a b m c t'} : BootOut b₀ (execVcmp d a b m c t' s) := by
  unfold execVcmp
  grind [bootOut_next, vecGate_boot, vsdone_boot, withFlags_boot]

theorem vwhile_boot {w d a b} : BootOut b₀ (vwhile w d a b s) := done_boot h

end Steps

/-! ### Operations that write boot registers -/

/-- The state that an outcome answers, where it answers one, is in this boot phase or a later one. -/
def PhaseOut (n : Nat) : Out → Prop
  | .next t => n ≤ t.boot.phase
  | _ => True

@[simp] theorem phaseOut_next {n : Nat} {s : State} : PhaseOut n (.next s) ↔ n ≤ s.boot.phase := Iff.rfl

theorem BootOut.phaseOut {b : Boot} {o : Out} (h : BootOut b o) : PhaseOut b.phase o := by
  cases o with
  | next t => exact (congrArg Boot.phase h).ge
  | fault r => trivial
  | refused r => trivial

section Phases
variable (s : State)

/-! #### Machine/Boot -/

theorem State.ivtctl_phase (val) : s.boot.phase ≤ (s.ivtctl val).boot.phase := by
  by_cases hv : val = 1
  · subst hv
    by_cases h5 : s.boot.phase = 5
    · rw [State.ivtctl_before_ready h5]
      dsimp only
      split <;> omega
    · refine Eq.le ?_
      simp only [State.ivtctl, if_neg (not_not_intro rfl), if_neg h5]
      split <;> rfl
  · rw [State.ivtctl_other hv]

theorem State.ptm_phase (host) : (s.ptm host).boot.phase = s.boot.phase := by
  unfold State.ptm
  split
  · rfl
  · split <;> rfl

theorem execPowerGood_phase : PhaseOut s.boot.phase (execPowerGood s) := by
  unfold execPowerGood
  split
  · next h0 => exact h0.le.trans (Nat.zero_le _)
  · exact le_rfl

/-- A boot phase's own instruction goes to the next phase or stops at 15, the last one. -/
theorem execCctSelect_phase : PhaseOut s.boot.phase (execCctSelect s) := by
  unfold execCctSelect
  grind [phaseOut_next, State.bootFail]

theorem execFirmwareImageLoad_phase : PhaseOut s.boot.phase (execFirmwareImageLoad s) := by
  unfold execFirmwareImageLoad
  grind [phaseOut_next, State.bootFail]

theorem execMemoryTraining_phase (oneLane dead) : PhaseOut s.boot.phase (execMemoryTraining oneLane dead s) := by
  simp only [execMemoryTraining]
  split
  · exact le_rfl
  · next h3 =>
    rw [phaseOut_next, not_not.1 h3]
    split
    · exact Nat.le_succ 3
    · exact (by decide : 3 ≤ 15)

theorem execMemoryClear_phase (uncorrectable) : PhaseOut s.boot.phase (execMemoryClear uncorrectable s) := by
  unfold execMemoryClear
  grind [phaseOut_next, State.bootFail]

theorem execPcieLinkTraining_phase : PhaseOut s.boot.phase (execPcieLinkTraining s) := by
  unfold execPcieLinkTraining
  grind [phaseOut_next]

theorem execConfigurationRequest_phase (fn resize) : PhaseOut s.boot.phase (execConfigurationRequest fn resize s) := by
  unfold execConfigurationRequest
  grind [phaseOut_next, State.answer_boot]

theorem execIvtctlWrite_phase (fn val) : PhaseOut s.boot.phase (execIvtctlWrite fn val s) := by
  unfold execIvtctlWrite
  grind [phaseOut_next, State.ivtctl_phase]

theorem execPtmExchange_phase (hostTime) : PhaseOut s.boot.phase (execPtmExchange hostTime s) := (s.ptm_phase hostTime).ge

theorem execPtmRepeat_phase (hostTime) : PhaseOut s.boot.phase (execPtmRepeat hostTime s) := by
  unfold execPtmRepeat
  grind [phaseOut_next, State.ptm_phase]

theorem execThermalThrottle_phase (temp) : PhaseOut s.boot.phase (execThermalThrottle temp s) := by
  unfold execThermalThrottle
  grind [phaseOut_next, State.record_boot]

theorem execThrottleExit_phase : PhaseOut s.boot.phase (execThrottleExit s) := le_refl s.boot.phase

/-! #### Machine/Peer -/

theorem State.join_phase (o) : (s.join o).boot.phase = s.boot.phase := by
  unfold State.join
  grind [State.joinFail_boot]

theorem porsol_phase {f : State → State} (hf : ∀ t, (f t).boot.phase = t.boot.phase) (type m) :
    PhaseOut s.boot.phase (porsol type m s f) := by
  unfold porsol
  grind [phaseOut_next, State.peerRecord_boot, State.landMsg_boot]

theorem execPorsolJoin_phase (msg) : PhaseOut s.boot.phase (execPorsolJoin msg s) :=
  porsol_phase s (fun t => by rw [State.join_phase, State.peerSend_boot]) 1 msg

theorem execPorsolJoinack_phase (msg) : PhaseOut s.boot.phase (execPorsolJoinack msg s) :=
  porsol_phase s (fun t => by rw [State.join_phase]) 2 msg

theorem execPorsolHeart_phase (msg) : PhaseOut s.boot.phase (execPorsolHeart msg s) := by
  unfold execPorsolHeart
  grind [porsol_phase]

theorem execPorsolPdig_phase (msg) : PhaseOut s.boot.phase (execPorsolPdig msg s) := by
  unfold execPorsolPdig
  grind [porsol_phase, State.comparePeriods_boot, State.peerRecord_boot]

theorem execPorsolTakeover_phase (msg) : PhaseOut s.boot.phase (execPorsolTakeover msg s) := by
  unfold execPorsolTakeover
  grind [porsol_phase]

/-! #### Machine/Ras -/

theorem execLaneDegradedComplete_phase (c) : PhaseOut s.boot.phase (execLaneDegradedComplete c s) := by
  unfold execLaneDegradedComplete
  grind [phaseOut_next, State.chanRecord_boot, State.setChannel_boot]

theorem State.fwRefuse_phase (r) : (s.fwRefuse r).boot.phase = s.boot.phase := by
  rw [State.fwRefuse, State.record_boot]

theorem State.fwGo_phase : s.fwGo.boot.phase = s.boot.phase := by
  unfold State.fwGo
  split
  · exact s.fwRefuse_phase 5
  · rfl

theorem execFwctlGo_phase (fn) : PhaseOut s.boot.phase (execFwctlGo fn s) := by
  unfold execFwctlGo
  grind [phaseOut_next, State.fwGo_phase]

theorem execFirmwareVerifyComplete_phase : PhaseOut s.boot.phase (execFirmwareVerifyComplete s) := by
  unfold execFirmwareVerifyComplete
  grind [phaseOut_next, State.fwRefuse_phase]

theorem execFirmwareSwitchoverComplete_phase : PhaseOut s.boot.phase (execFirmwareSwitchoverComplete s) := by
  simp only [execFirmwareSwitchoverComplete]
  split
  · exact le_rfl
  · rw [phaseOut_next, State.record_boot, foldl_boot fun _ _ => State.startReplay_boot ..]
    exact (congrArg Boot.phase (State.loadImage_boot ..)).ge

theorem execFbctlGo_phase (t) : PhaseOut s.boot.phase (execFbctlGo t s) := by
  unfold execFbctlGo
  grind [phaseOut_next, State.startReplay_boot]

/-! #### Machine/Host -/

theorem State.windowWrite_phase (off val) : (s.windowWrite off val).boot.phase = s.boot.phase := by
  unfold State.windowWrite
  split <;> rfl

theorem State.rangeWrite_phase (i val) : (s.rangeWrite i val).boot.phase = s.boot.phase := by
  unfold State.rangeWrite
  split <;> rfl

theorem State.lowWrite_phase (off val) : (s.lowWrite off val).boot.phase = s.boot.phase := by
  simp only [State.lowWrite, apply_ite State.boot, apply_ite Boot.phase, State.fepreempt_boot, State.setQueue_boot, State.fwGo_phase,
    State.peerctl_boot, State.fntenWrite_boot, ite_self]

theorem State.pfWrite_phase (off val) : (s.pfWrite off val).boot.phase = s.boot.phase := by
  unfold State.pfWrite
  grind [State.debugWrite_boot, State.leashset_boot, State.lowWrite_phase, State.mbcfg_boot, State.poolWrite_boot, State.rmapWrite_boot,
    State.setTenant_boot, State.tenantWrite_boot, State.windowWrite_phase]

theorem State.sharedWrite_phase (fn off val) : (s.sharedWrite fn off val).boot.phase = s.boot.phase := by
  unfold State.sharedWrite
  grind [State.logTail_boot, State.lvqWrite_boot, State.pfWrite_phase, State.queueWrite_boot]

theorem execRegisterWrite_phase (fn off val) : PhaseOut s.boot.phase (execRegisterWrite fn off val s) := by
  unfold execRegisterWrite State.bar0Write
  grind [phaseOut_next, State.ivtctl_phase, State.rangeWrite_phase, State.sharedWrite_phase]

end Phases

/-! ### Every instruction -/

/-- No instruction and no event but the power-on reset lowers the boot phase. -/
theorem exec_phase {s : State} {i : Instr} (hi : i ≠ .powerOnReset) : PhaseOut s.boot.phase (exec i s) := by
  cases i with
  | illegal =>
    unfold exec
    exact (trapAt_boot rfl).phaseOut
  | add | sub | and | or | xor | andn | shl | shr | sha | rotr | min | max | minu | maxu | cmpeq | cmpne | cmplt | cmpltu | cmpge
  | cmpgeu | sel | addw | subw | mul | mulh | mulhu | mulhsu | div | divu | rem | remu | mulw | madd | bfx | bfxu | bfi | lea
  | cMov | cAdd | cSub | cAnd | cOr | cXor =>
    unfold exec
    exact (alu_boot rfl).phaseOut
  | addi | andi | ori | xori | shli | shri | shai | rotri | cmpeqi | cmpnei | cmplti | cmpltui | cmpgei | cmpgeui | popc | clz
  | ctz | brev | bswap | sextb | sexth | sextw | zextb | zexth | zextw | cAddi | cLi | cShli | cShri =>
    unfold exec
    exact (aluI_boot rfl).phaseOut
  | lih | addpc | li64 | vlq | vlanes | mfirst | time =>
    unfold exec
    exact (done_boot rfl).phaseOut
  | beq | bne | blt | bge | bltu | bgeu | bbs | bbc | beqz | bnez | bltz | bgez | bgtz | blez | cBeqz | cBnez =>
    unfold exec
    exact (branch_boot rfl).phaseOut
  | jr | jlr | cJr =>
    unfold exec
    exact (jumpReg_boot rfl).phaseOut
  | ldS8 | ldZ8 | ldS16 | ldZ16 | ldS32 | ldZ32 | ld64 | ldxS8 | ldxZ8 | ldxS16 | ldxZ16 | ldxS32 | ldxZ32 | ldx64 | cLd64 =>
    unfold exec
    exact (loadAt_boot rfl).phaseOut
  | st8 | st16 | st32 | st64 | stx8 | stx16 | stx32 | stx64 | cSt64 =>
    unfold exec
    exact (storeAt_boot rfl).phaseOut
  | ldfe | ldfw | stfw | stfs | fetag | feclr =>
    unfold exec
    exact (feAt_boot rfl).phaseOut
  | vaddI16 | vsubI16 | vmulI16 | vmulhI16 | vminI16 | vmaxI16 | vminuI16 | vmaxuI16 | vandI16 | vorI16 | vxorI16 | vshlI16
  | vshrI16 | vshaI16 | vaddsI16 | vsubsI16 | vmacI16 | vaddI32 | vsubI32 | vmulI32 | vmulhI32 | vminI32 | vmaxI32 | vminuI32
  | vmaxuI32 | vandI32 | vorI32 | vxorI32 | vshlI32 | vshrI32 | vshaI32 | vaddsI32 | vsubsI32 | vmacI32 =>
    unfold exec
    exact (vint_boot rfl).phaseOut
  | vabsI16 | vnegI16 | vabsI32 | vnegI32 =>
    unfold exec
    exact (vint1_boot rfl).phaseOut
  | vaddF32 | vsubF32 | vmulF32 | vfmaF32 | vfmsF32 | vminF32 | vmaxF32 | vscaleF32 | vfnmaF32 | vaddBf16 | vsubBf16 | vmulBf16
  | vfmaBf16 | vfmsBf16 | vminBf16 | vmaxBf16 | vscaleBf16 | vfnmaBf16 | vaddF16 | vsubF16 | vmulF16 | vfmaF16 | vfmsF16 | vminF16
  | vmaxF16 | vscaleF16 | vfnmaF16 =>
    unfold exec
    exact (vflt_boot rfl).phaseOut
  | vabsF32 | vnegF32 | vabsBf16 | vnegBf16 | vabsF16 | vnegF16 =>
    unfold exec
    exact (vsgn_boot rfl).phaseOut
  | vaddE4m3 | vsubE4m3 | vmulE4m3 | vaddE5m2 | vsubE5m2 | vmulE5m2 | vaddI8 | vsubI8 | vaddsI8 | vminI8 | vmaxI8 =>
    unfold exec
    exact (v8_boot rfl).phaseOut
  | vmov =>
    unfold exec
    exact (vmap1_boot rfl).phaseOut
  | vmerge | vpack8 =>
    unfold exec
    exact (vplain_boot rfl).phaseOut
  | vbcast16 | vbcast32 | vbcast64 =>
    unfold exec
    exact (vbcast_boot rfl).phaseOut
  | vext16 | vext32 =>
    unfold exec
    exact (vext_boot rfl).phaseOut
  | vins16 | vins32 =>
    unfold exec
    exact (vins_boot rfl).phaseOut
  | vperm16 | vperm32 =>
    unfold exec
    exact (vperm_boot rfl).phaseOut
  | vslideup | vslidedn | vzip16 | vunzip16 | vdq4 | vunpk8 =>
    unfold exec
    exact (vmapN_boot rfl).phaseOut
  | vredsumF32 | vredsumBf16 | vredmaxF32 | vredminF32 | vredmaxBf16 =>
    unfold exec
    exact (vreduce_boot rfl).phaseOut
  | vcvtBf16F32 | vcvtF16F32 | vcvtF32Bf16 | vcvtF32F16 | vcvtE4m3F32 | vcvtE5m2F32 | vcvtF32E4m3 | vcvtF32E5m2 | vcvtI32F32
  | vcvtF32I32 | vcvtI16F32 | vcvtBf16E4m3 | vcvtE4m3Bf16 =>
    unfold exec
    exact (vcvt_boot rfl).phaseOut
  | vrcp | vrsq | vsqrt | vexp2 | vexp | vlog2 | vsin | vcos | vtanh | vsigm | verf =>
    unfold exec
    exact (vsfu_boot rfl).phaseOut
  | vwhile16 | vwhile32 | vwhile64 =>
    unfold exec
    exact (vwhile_boot rfl).phaseOut
  | mwswap | mzero | mxswap =>
    unfold exec
    exact (mxIssue_boot rfl).phaseOut
  | tcopy | tslide | lpref =>
    unfold exec
    exact (copyIssue_boot rfl).phaseOut
  | arls | arcn =>
    unfold exec
    exact (atomRelease_boot rfl).phaseOut
  | cas | swap | fadd =>
    unfold exec
    exact (atomOp_boot rfl).phaseOut
  | redAdd64 | redAdd32 | redMin64 | redMax64 | redMinu64 | redMaxu64 | redAnd64 | redOr64 | redXor64 | redfAddF32 | redfAddBf16 =>
    unfold exec
    exact (redIssue_boot rfl).phaseOut
  | wacrd | wacclr =>
    unfold exec
    exact (wacAt_boot rfl).phaseOut
  | barv | barvw =>
    unfold exec
    exact (barArrive_boot rfl).phaseOut
  | sqres | sqcmt | sqaband | sqlen | sqfork | sqrel | sqtrim | sqrd | sqcow =>
    unfold exec
    exact (seqOp_boot rfl).phaseOut
  | mbpub | mbpubc =>
    unfold exec
    exact (mbpub_boot rfl).phaseOut
  | exit | cExit =>
    unfold exec
    exact (exitThread_boot rfl).phaseOut
  | hend | cHend =>
    unfold exec
    exact (endThread_boot rfl).phaseOut
  | csrrd | csrwr | csrset | csrclr =>
    unfold exec
    exact (csrOp_boot rfl).phaseOut
  | cIll =>
    unfold exec
    exact (insTrap_boot rfl).phaseOut
  | qlaunch =>
    unfold exec
    exact (qhold_boot rfl).phaseOut
  | qff | qprio =>
    unfold exec
    exact (qdoneWith_boot rfl).phaseOut
  | qnop =>
    unfold exec
    exact (qdone_boot rfl).phaseOut
  | powerOnReset => exact absurd rfl hi
  | powerGood => exact execPowerGood_phase ..
  | cctSelect => exact execCctSelect_phase ..
  | firmwareImageLoad => exact execFirmwareImageLoad_phase ..
  | memoryTraining => exact execMemoryTraining_phase ..
  | memoryClear => exact execMemoryClear_phase ..
  | pcieLinkTraining => exact execPcieLinkTraining_phase ..
  | configurationRequest => exact execConfigurationRequest_phase ..
  | ivtctlWrite => exact execIvtctlWrite_phase ..
  | ptmExchange => exact execPtmExchange_phase ..
  | ptmRepeat => exact execPtmRepeat_phase ..
  | dtbOffsetCheck => exact (execDtbOffsetCheck_boot rfl).phaseOut
  | thermalThrottle => exact execThermalThrottle_phase ..
  | registerWrite => exact execRegisterWrite_phase ..
  | qtailDoorbell => exact (execQtailDoorbell_boot rfl).phaseOut
  | qctlEnable => exact (execQctlEnable_boot rfl).phaseOut
  | qctlDisable => exact (execQctlDisable_boot rfl).phaseOut
  | qctlResume => exact (execQctlResume_boot rfl).phaseOut
  | qcancelWrite => exact (execQcancelWrite_boot rfl).phaseOut
  | tlbinvWrite => exact (execTlbinvWrite_boot rfl).phaseOut
  | tlbInvalidationComplete => exact (execTlbInvalidationComplete_boot rfl).phaseOut
  | fbctlGo => exact execFbctlGo_phase ..
  | pcfgEnable => exact (execPcfgEnable_boot rfl).phaseOut
  | pcfgDisable => exact (execPcfgDisable_boot rfl).phaseOut
  | mbcfgEnable => exact (execMbcfgEnable_boot rfl).phaseOut
  | trctlEnable => exact (execTrctlEnable_boot rfl).phaseOut
  | fepreemptStart => exact (execFepreemptStart_boot rfl).phaseOut
  | fepreemptEnd => exact (execFepreemptEnd_boot rfl).phaseOut
  | tdbgrelWrite => exact (execTdbgrelWrite_boot rfl).phaseOut
  | lvqWrite => exact (execLvqWrite_boot rfl).phaseOut
  | levelQueryComplete => exact (execLevelQueryComplete_boot rfl).phaseOut
  | peerctlEnable => exact (execPeerctlEnable_boot rfl).phaseOut
  | fwctlGo => exact execFwctlGo_phase ..
  | firmwareVerifyComplete => exact execFirmwareVerifyComplete_phase ..
  | firmwareSwitchoverComplete => exact execFirmwareSwitchoverComplete_phase ..
  | rmapSetValid => exact (execRmapSetValid_boot rfl).phaseOut
  | rowRemapComplete => exact (execRowRemapComplete_boot rfl).phaseOut
  | rmapClearValid => exact (execRmapClearValid_boot rfl).phaseOut
  | rmapPprStart => exact (execRmapPprStart_boot rfl).phaseOut
  | pprComplete => exact (execPprComplete_boot rfl).phaseOut
  | logTailWrite => exact (execLogTailWrite_boot rfl).phaseOut
  | hostBar2Read => exact (execHostBar2Read_boot rfl).phaseOut
  | hostBar2Write => exact (execHostBar2Write_boot rfl).phaseOut
  | hostMbmWindowAccess => exact (execHostMbmWindowAccess_boot rfl).phaseOut
  | queueSelect => exact (execQueueSelect_boot rfl).phaseOut
  | fetchBlockRead => exact (execFetchBlockRead_boot rfl).phaseOut
  | qwaitPoll => exact (execQwaitPoll_boot rfl).phaseOut
  | qwaitTimeout => exact (execQwaitTimeout_boot rfl).phaseOut
  | signalWrite => exact (execSignalWrite_boot rfl).phaseOut
  | launchAccept => exact (execLaunchAccept_boot rfl).phaseOut
  | deterministicReservation => exact (execDeterministicReservation_boot rfl).phaseOut
  | taskPlace => exact (execTaskPlace_boot rfl).phaseOut
  | footprintStagingComplete => exact (execFootprintStagingComplete_boot rfl).phaseOut
  | taskRetire => exact (execTaskRetire_boot rfl).phaseOut
  | instanceComplete => exact (execInstanceComplete_boot rfl).phaseOut
  | resultDigest => exact (execResultDigest_boot rfl).phaseOut
  | starvationWatchdog => exact (execStarvationWatchdog_boot rfl).phaseOut
  | ladderStart => exact (execLadderStart_boot rfl).phaseOut
  | rung2Save => exact (execRung2Save_boot rfl).phaseOut
  | rung3Reset => exact (execRung3Reset_boot rfl).phaseOut
  | taskSaveComplete => exact (execTaskSaveComplete_boot rfl).phaseOut
  | taskRestore => exact (execTaskRestore_boot rfl).phaseOut
  | quantumExpiry => exact (execQuantumExpiry_boot rfl).phaseOut
  | killQuiet => exact (execKillQuiet_boot rfl).phaseOut
  | parkWatchdog => exact (execParkWatchdog_boot rfl).phaseOut
  | launchStallWatchdog => exact (execLaunchStallWatchdog_boot rfl).phaseOut
  | resultWriteback => exact (execResultWriteback_boot rfl).phaseOut
  | accessPerformed => exact (execAccessPerformed_boot rfl).phaseOut
  | remoteAccessArrival => exact (execRemoteAccessArrival_boot rfl).phaseOut
  | remoteReplyArrival => exact (execRemoteReplyArrival_boot rfl).phaseOut
  | fetchUnitRead => exact (execFetchUnitRead_boot rfl).phaseOut
  | bankSwitchComplete => exact (execBankSwitchComplete_boot rfl).phaseOut
  | waitListRetry => exact (execWaitListRetry_boot rfl).phaseOut
  | pageWalkComplete => exact (execPageWalkComplete_boot rfl).phaseOut
  | replayAllSend => exact (execReplayAllSend_boot rfl).phaseOut
  | scrubRead => exact (execScrubRead_boot rfl).phaseOut
  | laneFailure => exact (execLaneFailure_boot rfl).phaseOut
  | laneDegradedComplete => exact execLaneDegradedComplete_phase ..
  | bteCommandEntry => exact (execBteCommandEntry_boot rfl).phaseOut
  | bteChunkComplete => exact (execBteChunkComplete_boot rfl).phaseOut
  | bteCommandComplete => exact (execBteCommandComplete_boot rfl).phaseOut
  | burstDataReturn => exact (execBurstDataReturn_boot rfl).phaseOut
  | burstBirth => exact (execBurstBirth_boot rfl).phaseOut
  | matrixCommandEntry => exact (execMatrixCommandEntry_boot rfl).phaseOut
  | matrixCommandStart => exact (execMatrixCommandStart_boot rfl).phaseOut
  | matrixStepComplete => exact (execMatrixStepComplete_boot rfl).phaseOut
  | matrixCommandComplete => exact (execMatrixCommandComplete_boot rfl).phaseOut
  | matrixClearComplete => exact (execMatrixClearComplete_boot rfl).phaseOut
  | mcmdArrival => exact (execMcmdArrival_boot rfl).phaseOut
  | seqCommandExecute => exact (execSeqCommandExecute_boot rfl).phaseOut
  | streamDelivery => exact (execStreamDelivery_boot rfl).phaseOut
  | bindNoticeArrival => exact (execBindNoticeArrival_boot rfl).phaseOut
  | creditArrival => exact (execCreditArrival_boot rfl).phaseOut
  | channelMessageArrival => exact (execChannelMessageArrival_boot rfl).phaseOut
  | treeDeliverArrival => exact (execTreeDeliverArrival_boot rfl).phaseOut
  | treeDeliverRetry => exact (execTreeDeliverRetry_boot rfl).phaseOut
  | barrierArrival => exact (execBarrierArrival_boot rfl).phaseOut
  | barrierRelease => exact (execBarrierRelease_boot rfl).phaseOut
  | reductionPerform => exact (execReductionPerform_boot rfl).phaseOut
  | mailboxPublicationArrival => exact (execMailboxPublicationArrival_boot rfl).phaseOut
  | mailboxFlip => exact (execMailboxFlip_boot rfl).phaseOut
  | mbpubcCopyComplete => exact (execMbpubcCopyComplete_boot rfl).phaseOut
  | mailboxReadTransaction => exact (execMailboxReadTransaction_boot rfl).phaseOut
  | ceilingTrip => exact (execCeilingTrip_boot rfl).phaseOut
  | leashCeiling => exact (execLeashCeiling_boot rfl).phaseOut
  | seizeArrival => exact (execSeizeArrival_boot rfl).phaseOut
  | seizureDrainComplete => exact (execSeizureDrainComplete_boot rfl).phaseOut
  | seizureSwapComplete => exact (execSeizureSwapComplete_boot rfl).phaseOut
  | seizeReplyArrival => exact (execSeizeReplyArrival_boot rfl).phaseOut
  | remoteSrlsArrival => exact (execRemoteSrlsArrival_boot rfl).phaseOut
  | seizureReleaseComplete => exact (execSeizureReleaseComplete_boot rfl).phaseOut
  | hfcallReply => exact (execHfcallReply_boot rfl).phaseOut
  | porsolJoin => exact execPorsolJoin_phase ..
  | porsolJoinack => exact execPorsolJoinack_phase ..
  | porsolHeart => exact execPorsolHeart_phase ..
  | porsolPdig => exact execPorsolPdig_phase ..
  | porsolTakeover => exact execPorsolTakeover_phase ..
  | heartbeatSend => exact (execHeartbeatSend_boot rfl).phaseOut
  | joinTimeout => exact (execJoinTimeout_boot rfl).phaseOut
  | peerLost => exact (execPeerLost_boot rfl).phaseOut
  | dbnz => exact (execDbnz_boot rfl).phaseOut
  | j => exact (execJ_boot rfl).phaseOut
  | jl => exact (execJl_boot rfl).phaseOut
  | rpt => exact (execRpt_boot rfl).phaseOut
  | fence => exact (execFence_boot rfl).phaseOut
  | ifence => exact (execIfence_boot rfl).phaseOut
  | efence => exact (execEfence_boot rfl).phaseOut
  | vld => exact (execVld_boot rfl).phaseOut
  | vst => exact (execVst_boot rfl).phaseOut
  | vlds => exact (execVlds_boot rfl).phaseOut
  | vsts => exact (execVsts_boot rfl).phaseOut
  | vldx => exact (execVldx_boot rfl).phaseOut
  | vstx => exact (execVstx_boot rfl).phaseOut
  | vldb => exact (execVldb_boot rfl).phaseOut
  | ldt => exact (execLdt_boot rfl).phaseOut
  | vredsumI32 => exact (execVredsumI32_boot rfl).phaseOut
  | vq4 => exact (execVq4_boot rfl).phaseOut
  | vcmp => exact (execVcmp_boot rfl).phaseOut
  | mwld => exact (execMwld_boot rfl).phaseOut
  | mstrm => exact (execMstrm_boot rfl).phaseOut
  | mrda => exact (execMrda_boot rfl).phaseOut
  | mwra => exact (execMwra_boot rfl).phaseOut
  | mwait => exact (execMwait_boot rfl).phaseOut
  | mgath => exact (execMgath_boot rfl).phaseOut
  | mstat => exact (execMstat_boot rfl).phaseOut
  | mcmd => exact (execMcmd_boot rfl).phaseOut
  | cwait => exact (execCwait_boot rfl).phaseOut
  | ctest => exact (execCtest_boot rfl).phaseOut
  | cclr => exact (execCclr_boot rfl).phaseOut
  | bread => exact (execBread_boot rfl).phaseOut
  | arsv => exact (execArsv_boot rfl).phaseOut
  | breg => exact (execBreg_boot rfl).phaseOut
  | bwait => exact (execBwait_boot rfl).phaseOut
  | btest => exact (execBtest_boot rfl).phaseOut
  | chbind => exact (execChbind_boot rfl).phaseOut
  | chunb => exact (execChunb_boot rfl).phaseOut
  | chstat => exact (execChstat_boot rfl).phaseOut
  | send => exact (execSend_boot rfl).phaseOut
  | rsrv => exact (execRsrv_boot rfl).phaseOut
  | treeset => exact (execTreeset_boot rfl).phaseOut
  | sqst => exact (execSqst_boot rfl).phaseOut
  | sqstr => exact (execSqstr_boot rfl).phaseOut
  | squnpin => exact (execSqunpin_boot rfl).phaseOut
  | mbwr => exact (execMbwr_boot rfl).phaseOut
  | mbrd => exact (execMbrd_boot rfl).phaseOut
  | seize => exact (execSeize_boot rfl).phaseOut
  | srls => exact (execSrls_boot rfl).phaseOut
  | srlsRemote => exact (execSrlsRemote_boot rfl).phaseOut
  | seizq => exact (execSeizq_boot rfl).phaseOut
  | spawn => exact (execSpawn_boot rfl).phaseOut
  | bqry => exact (execBqry_boot rfl).phaseOut
  | prime => exact (execPrime_boot rfl).phaseOut
  | unprime => exact (execUnprime_boot rfl).phaseOut
  | trap => exact (execTrap_boot rfl).phaseOut
  | eret => exact (execEret_boot rfl).phaseOut
  | ebrk => exact (execEbrk_boot rfl).phaseOut
  | hfcall => exact (execHfcall_boot rfl).phaseOut
  | cancel => exact (execCancel_boot rfl).phaseOut
  | dlaunch => exact (execDlaunch_boot rfl).phaseOut
  | cNop => exact (execCNop_boot rfl).phaseOut
  | cJ => exact (execCJ_boot rfl).phaseOut
  | cRlx => exact (execCRlx_boot rfl).phaseOut
  | qib => exact (execQib_boot rfl).phaseOut
  | qret => exact (execQret_boot rfl).phaseOut
  | qpred => exact (execQpred_boot rfl).phaseOut
  | qendp => exact (execQendp_boot rfl).phaseOut
  | qloop => exact (execQloop_boot rfl).phaseOut
  | qendl => exact (execQendl_boot rfl).phaseOut
  | qsig => exact (execQsig_boot rfl).phaseOut
  | qwait => exact (execQwait_boot rfl).phaseOut
  | qwr => exact (execQwr_boot rfl).phaseOut
  | qdep => exact (execQdep_boot rfl).phaseOut
  | qmark => exact (execQmark_boot rfl).phaseOut
  | qreplay => exact (execQreplay_boot rfl).phaseOut
  | throttleExit => exact execThrottleExit_phase ..

end Sys2Proof.Machine

/-- Settles O59: only the boot phases' own instructions write the phase, each from the phase before it (`Machine.exec_phase`). -/
theorem Sys2Proof.bootNeverGoesBack : Obligations.BootNeverGoesBack := by
  intro s t i hexec hi
  have hphase := Machine.exec_phase (s := s) hi
  rwa [hexec] at hphase

/-! ## Staging and the wait lists

Staging empties the tags of the scratch (R118), and a word whose tag changes serves its wait list in the same action (R257, R259). A thread
that waits to store into a scratch word until it is empty therefore completes during staging: the word then holds its value and is full. -/

namespace Sys2Proof.Machine

/-- The launch of the counterexample: one lane on tile 0, with a footprint of one granule and 64 bytes of scratch. -/
def scratchLaunch : Launch := {
  key := 1, tenant := 0, lid := 1, queue := none, root := 0, prio := 0, mode := 0, digest := false, taskCount := 1, hdr := 0x200040, quota := 1
  job := 0, phase := 0, graph := 0, rect := 0, arg := 0, s5 := 0, s6 := 0, s7 := 0, od := [], foot := 64, scratch := 64, entry := 0, trapOff := 0
  gCount := 8, vCount := 0, odCount := 0, numctl := 0, roles := [], regions := [], ceiling := 0, hash := 0, memb := 1, next := 1, closed := true
  lastTile := some 0, again := [], reserved := false, dropped := false, reset := false, cancelled := false, failed := false, faulted := false
  nrec := 0, digestParked := false, digestAt := (0, 0), digestRead := [], dig := none, stuckSince := none, stallSince := none, stallLogged := false }

/-- Its task, whose image has been copied whole and whose scratch is still to be emptied. -/
def scratchTask : Task := {
  id := 1, launch := 1, index := 0, tile := 0, slots := [0], gen := 1, base := 0, copied := 64, staged := false, parked := none, killing := false
  why := 0, saving := false, quantum := false }

/-- The first word of the task's scratch. -/
def scratchWord : Nat := lsLoc 0 64

/-- A thread of tile 1 whose STFW of the value 1 waits on tile 0's list until the scratch word is empty (R258, R259). -/
def storeWaitsForScratch : State :=
  { State.reset with
    launches := [scratchLaunch], tasks := [scratchTask], fresh := 2
    tiles := [(0, { tags := [8], waits := [⟨⟨1, 0, 0⟩, scratchWord⟩] })]
    ctxs := [(8, { b0 := { seeded := true, wait := some (.fe scratchWord 2 0 1 true) } })] }

/-- The wait list is served as the tag changes: the staged scratch does not read 0. -/
theorem scratchWord_holds_waiting_store {t : State} (h : exec (.footprintStagingComplete 1) storeWaitsForScratch = .next t) :
    memGet t.mem scratchWord = 1 := by
  cases h
  decide

/-- A thread that waits for an empty scratch word makes staging leave its value there. -/
theorem not_tasksAreStaged : ¬ TasksAreStaged := by
  intro h
  obtain ⟨-, -, -, hseeds⟩ := h storeWaitsForScratch storeWaitsForScratch scratchTask scratchLaunch [] rfl rfl rfl rfl rfl (by decide) (by decide)
    (by decide) rfl rfl rfl rfl (by decide) rfl
  obtain ⟨t, hexec, -, hscratch, -⟩ := hseeds rfl rfl
  have hzero : memGet t.mem scratchWord = 0 := hscratch 0
  rw [scratchWord_holds_waiting_store hexec] at hzero
  exact absurd hzero (by decide)

end Sys2Proof.Machine

/-- Refutes O45: the statement does not ask that nobody waits for a tag of the run, and staging serves the wait list of a word whose tag it
  changes (R118, R257, R259), so that the scratch need not read 0 (`Machine.not_tasksAreStaged`). -/
theorem Sys2Proof.not_tasksRunFromPlacementToCompletion : ¬ Obligations.TasksRunFromPlacementToCompletion :=
  fun h => Machine.not_tasksAreStaged h.2.1

/-! ## Words and their instructions -/

/-- Settles O55: each word's fields select one row of the decoder's tables, with its operands and length. -/
theorem Sys2Proof.writtenWordsDecode : Obligations.WrittenWordsDecode :=
  ⟨rfl, rfl, rfl, rfl, rfl, rfl, rfl, rfl, rfl, rfl, rfl⟩

/-- Refutes O56: SRLS and SRLS of a remote tile share one word and differ in A alone, which is g0 in the local form (R379), so that the term
  `.srlsRemote 0`, which `wellFormed` admits, is written as the word of `.srls` and read back as that. -/
theorem Sys2Proof.not_decodeAndEncodeAgree : ¬ Obligations.DecodeAndEncodeAgree := by
  intro h
  obtain ⟨hround, -⟩ := h
  have hback := hround (.srlsRemote 0) [] rfl (by decide)
  have hlocal : decoderOf (encode (.srlsRemote 0)) (encode (.srlsRemote 0) ++ []) = .ok .srls 4 := rfl
  rw [hlocal] at hback
  cases hback

/-! ## Instructions that their thread or operand may not use

Each of them is refused by the first check of its meaning, with an instruction-class cause. -/

namespace Sys2Proof.Machine

/-- A trap of an instruction-class cause in a thread that R384 sends to its handler. -/
theorem insTrap_trappable {s : State} (h : Trappable s) {c : Nat} (hc : c < 0x010) :
    insTrap c s = .next (trapEntered s s.me.pc c (s.iaddr.setWidth 64) (s.ibits.setWidth 64)) :=
  trapAt_trappable h c (by unfold ebrkCause; omega) (fun _ => by omega) _ _

section Csr
variable {s : State} {d : BitVec 5} {c : BitVec 12} {writes : Bool} {f : Dword → Dword}

/-- An unassigned CSR, and a write to a read-only one, take 0x00A (R147). -/
theorem csrOp_forbidden (h : s.csr s.curRef c.toNat = none ∨ (writes = true ∧ csrWritable c.toNat = false)) :
    csrOp d c writes f s = insTrap 0x00A s := by
  unfold csrOp
  cases hcsr : s.csr s.curRef c.toNat with
  | none => rfl
  | some old =>
    obtain ⟨hw, hro⟩ := h.resolve_left (by simp [hcsr])
    simp [hw, hro]

/-- A write of rounding mode 6 or 7 into NUMCTL takes 0x006 (R147, R161). -/
theorem csrOp_reservedMode (hc : c = 0) (hw : writes = true) (hm : 6 ≤ dfld (f s.me.numctl) 2 0) : csrOp d c writes f s = insTrap 0x006 s := by
  subst hc hw
  have hcsr : s.csr s.curRef 0 = some s.me.numctl := rfl
  have hro : csrWritable 0 = true := rfl
  simp [csrOp, hcsr, hro, hm]

/-- What a CSR instruction refuses, by whether it writes (R147). -/
theorem csrOp_cause {n : Nat}
    (h : (if s.csr s.curRef c.toNat = none ∨ (writes = true ∧ csrWritable c.toNat = false) then some 0x00A
      else if c = 0 ∧ writes = true ∧ 6 ≤ dfld (f s.me.numctl) 2 0 then some 0x006 else none) = some n) :
    n < 0x010 ∧ csrOp d c writes f s = insTrap n s := by
  split at h
  · next hforbidden => cases h; exact ⟨by decide, csrOp_forbidden hforbidden⟩
  · split at h
    · next hmode =>
      cases h
      obtain ⟨hc, hw, hm⟩ := hmode
      exact ⟨by decide, csrOp_reservedMode hc hw hm⟩
    · cases h

end Csr

/-- An instruction whose first check refuses it. -/
theorem refusedFirst {s : State} {p : Prop} [Decidable p] {n c : Nat} {e : Out} (hn : n < 0x010) (hc : (if p then some n else none) = some c) :
    c < 0x010 ∧ (if p then insTrap n s else e) = insTrap c s := by
  simp only [Option.ite_none_right_eq_some, Option.some.injEq] at hc
  obtain ⟨hp, rfl⟩ := hc
  exact ⟨hn, if_pos hp⟩

/-- The causes of R126 to R128, R147, R152, R296 and R387 come before every other effect of their instructions. -/
theorem exec_instructionCause {s : State} {i : Instr} {c : Nat} (h : instructionCause s i = some c) :
    c < 0x010 ∧ exec i s = insTrap c s := by
  cases i with
  | csrrd d n =>
    show _ ∧ csrOp d n false id s = _
    dsimp only [instructionCause] at h
    exact csrOp_cause (by simpa using h)
  | csrwr d a n =>
    show _ ∧ csrOp d n true (fun _ => s.rg a) s = _
    dsimp only [instructionCause] at h
    exact csrOp_cause (by simpa using h)
  | csrset d a n =>
    show _ ∧ csrOp d n (a != 0) (fun o => o ||| s.rg a) s = _
    dsimp only [instructionCause] at h
    exact csrOp_cause (by simpa using h)
  | csrclr d a n =>
    dsimp only [instructionCause] at h
    simp only [Option.ite_none_right_eq_some, Option.some.injEq] at h
    obtain ⟨hforbidden, rfl⟩ := h
    show _ ∧ csrOp d n (a != 0) (fun o => o &&& ~~~(s.rg a)) s = _
    exact ⟨by decide, csrOp_forbidden (by simpa using hforbidden)⟩
  | eret =>
    dsimp only [instructionCause] at h
    split at h
    · cases h
    · next hout => cases h; exact ⟨by decide, if_pos hout⟩
  | rpt a n x y z => exact refusedFirst (by decide) h
  | hfcall d a n => exact refusedFirst (by decide) h
  | cancel d a n => exact refusedFirst (by decide) h
  | spawn d a b => exact refusedFirst (by decide) h
  | dlaunch d a => exact refusedFirst (by decide) h
  | exit => exact refusedFirst (by decide) h
  | cExit => exact refusedFirst (by decide) h
  | hend => exact refusedFirst (by decide) h
  | cHend => exact refusedFirst (by decide) h
  | _ => cases h

end Sys2Proof.Machine

/-- Settles O51: the cause comes before every other effect (`Machine.exec_instructionCause`), and its trap goes to the handler. -/
theorem Sys2Proof.forbiddenInstructionsTrap : Obligations.ForbiddenInstructionsTrap := by
  intro s i c htrap _ hcause
  obtain ⟨hlt, hexec⟩ := Machine.exec_instructionCause hcause
  rw [hexec, Machine.insTrap_trappable htrap hlt]

/-! ## The record of a line that cannot be read

A record holds the numbers of the launch that it names beside its own detail (R393). The state keeps a launch's job as a number without a bound, and
one of more than 16 bits runs into the fields above it: into DETAIL0, which stands 256 bits higher, from 2 ^ 256 on. -/

namespace Sys2Proof
open Machine

/-- A log with room moves its head on. -/
theorem Recorded.head {s t : State} {cause sev engine : Nat} {detail : Dword} (h : Recorded s t cause sev engine detail)
    (hroom : (s.log.head + 1) % 256 ≠ s.log.tail) : t.log.head = (s.log.head + 1) % 256 := by
  rw [Recorded, if_neg hroom] at h
  obtain ⟨x, ht, -⟩ := h
  rw [ht]

/-- A record that the log has not lost stands where the head was, with its detail. -/
theorem Recorded.detail {s t : State} {cause sev engine : Nat} {detail : Dword} (h : Recorded s t cause sev engine detail)
    (hkept : t.log.lost = false) : (tget 0 t.log.recs s.log.head).extractLsb' 320 64 = detail := by
  unfold Recorded at h
  split at h
  · rw [h] at hkept; cases hkept
  · obtain ⟨x, ht, -, -, -, hx⟩ := h
    rw [ht, tget_tset_same, hx]

end Sys2Proof

namespace Sys2Proof.Machine

/-- A launch whose job number does not fit the 16 bits of a record (R393). -/
def wideJobLaunch : Launch := { scratchLaunch with job := 2 ^ 256 }

/-- A relaxed load of the doubleword at DRAM address 0, for window 0. -/
def lineLoad : Access := { id := 1, scope := 0, write := false, remote := false, va := 0x200000, parts := [⟨0, 8, 0⟩], win := 0, ext := 6, base := 0 }

/-- The window that it fills, which is still open. -/
def lineWindow : Window := { left := 5, dest := .g 3, result := none, err := none, flags := 0, id := 0 }

/-- A thread of that launch with the load outstanding. -/
def loadOfWideJob : State :=
  { State.reset with
    launches := [wideJobLaunch], tasks := [scratchTask]
    ctxs := [(0, { b0 := { seeded := true, task := 1, rlx := [lineLoad], wins := [lineWindow] } })] }

/-- The device log after three failing symbols of that line. -/
theorem wideJob_log {t : State} (h : exec (.accessPerformed 0 0 0 12) loadOfWideJob = .next t) :
    t.log.lost = false ∧ (tget 0 t.log.recs 1).extractLsb' 320 64 ≠ 0 := by
  cases h
  decide +kernel

/-- No trace ring records, and every location can be read. -/
theorem loadOfWideJob_unwatched : Unwatched loadOfWideJob := by
  refine ⟨⟨rfl, rfl, fun _ => rfl⟩, fun t => ?_⟩
  show (0 : Dword).getLsbD 0 = false
  decide

/-- The job number makes the detail of the record 0x087 differ from 0. -/
theorem not_resultsLand : ¬ ResultsLand := by
  intro h
  obtain ⟨-, hrlx⟩ := h loadOfWideJob 0 0 0
  obtain ⟨-, -, hload⟩ := hrlx 0 lineLoad (by decide) rfl loadOfWideJob_unwatched rfl
  obtain ⟨-, -, hline⟩ := hload 0 rfl rfl rfl (by decide)
  obtain ⟨t, z, hexec, -, -, -, hlost⟩ := hline 3 lineWindow rfl rfl (by decide) ⟨nofun, nofun⟩ rfl rfl (by decide)
  obtain ⟨-, -, u, hfirst, hsecond⟩ := hlost (by decide)
  obtain ⟨hkept, hdetail⟩ := wideJob_log hexec
  have hhead : u.log.head = 1 := hfirst.head (by decide)
  exact hdetail (hhead ▸ hsecond.detail hkept)
end Sys2Proof.Machine

/-- Refutes O47: the statement does not ask that a launch's numbers fit the fields of a record (R393), and a load that finds more failing symbols than
  can be corrected writes records that name the launch (`Machine.not_resultsLand`). -/
theorem Sys2Proof.not_whatIsUnderWayCompletes : ¬ Obligations.WhatIsUnderWayCompletes :=
  fun h => Machine.not_resultsLand h.1

/-! SUPPORT. What a step's notes about its agents do not change, what stands in front of an instruction in the fetch buffer, and whose move it is: the facts
from which a step runs what is decoded (R57, R58, R71, R89, R91, R95, R131 to R137). -/

namespace Sys2Proof.Machine

/-! ### Notes about the agents (log entry 1) -/

/-- What a step notes about its agents: the contexts and queues, and the model's own notes of who acts and with which instruction. Address checks, reads
and records neither read nor write any of it. -/
structure Notes where
  cur : Nat × Nat
  curq : Nat
  len : Nat
  iaddr : Va
  ibits : BitVec 32
  follow : Follow
  rlxScope : Option Nat
  ctxs : Tbl Ctx
  queues : Tbl Queue
  lastServed : Tbl Nat

/-- A state with other notes. -/
def State.noting (s : State) (n : Notes) : State :=
  { s with
    cur := n.cur, curq := n.curq, len := n.len, iaddr := n.iaddr, ibits := n.ibits, follow := n.follow, rlxScope := n.rlxScope
    ctxs := n.ctxs, queues := n.queues, lastServed := n.lastServed }

/-- The notes of a state. -/
def State.notes (s : State) : Notes :=
  ⟨s.cur, s.curq, s.len, s.iaddr, s.ibits, s.follow, s.rlxScope, s.ctxs, s.queues, s.lastServed⟩

section Noting
variable (s : State) (n : Notes)

@[simp] theorem State.noting_notes_self : s.noting s.notes = s := rfl

@[simp] theorem State.notes_noting : (s.noting n).notes = n := rfl

/-- An operation that does not look at the notes leaves them as they are. -/
theorem State.notes_of_noting {f : State → State} (h : ∀ s n, f (State.noting s n) = (f s).noting n) : (f s).notes = s.notes := by
  have := congrArg State.notes (h s s.notes)
  simpa using this

theorem foldl_noting {α : Type} {f : State → α → State} (hf : ∀ s n a, f (State.noting s n) a = (f s a).noting n)
    (l : List α) (s : State) (n : Notes) :
    l.foldl f (s.noting n) = (l.foldl f s).noting n := by
  induction l generalizing s with
  | nil => rfl
  | cons a l ih => simp only [List.foldl_cons, hf, ih]

theorem State.record_noting (r : RecIn) : (s.noting n).record r = (s.record r).noting n := by
  unfold State.record
  cases r.tenant <;> cases r.launch <;> rfl

theorem State.mark_noting (m : Nat) : (s.noting n).mark m = (s.mark m).noting n := by
  unfold State.mark
  simp only [apply_ite (State.noting · n)]
  rfl

theorem State.corrected_noting (m : Nat) : (s.noting n).corrected m = (s.corrected m).noting n := rfl

theorem State.meetMark_noting (m : Nat) : (s.noting n).meetMark m = (s.meetMark m).noting n := by
  unfold State.meetMark
  simp only [apply_ite (State.noting · n), ← State.mark_noting, ← State.corrected_noting, ← State.record_noting]
  rfl

theorem State.meet_noting (loc k : Nat) : (s.noting n).meet loc k = (s.meet loc k).noting n :=
  foldl_noting State.meetMark_noting ..

theorem State.meetAll_noting (l : List (Nat × Nat)) : (s.noting n).meetAll l = (s.meetAll l).noting n :=
  foldl_noting (fun s n p => s.meet_noting n p.1 p.2) ..

theorem State.recordPoison_noting (r : RecIn) (l : List (Nat × Nat)) : (s.noting n).recordPoison r l = (s.recordPoison r l).noting n := by
  unfold State.recordPoison
  change (match l.find? (fun p => s.poisoned p.1 p.2) with
    | some p => (s.noting n).record (r.unreadable p.1)
    | none => s.noting n) = _
  cases l.find? (fun p => s.poisoned p.1 p.2) with
  | none => rfl
  | some p => exact s.record_noting n _

theorem State.walkReads_noting (t va : Nat) : (s.noting n).walkReads t va = (s.walkReads t va).noting n := by
  unfold State.walkReads
  simp only [← State.recordPoison_noting, ← State.meetAll_noting]
  rfl

theorem State.tlbFill_noting (who t va pa : Nat) (w x : Bool) : (s.noting n).tlbFill who t va pa w x = (s.tlbFill who t va pa w x).noting n := rfl

@[simp] theorem State.walk_noting (t va : Nat) : (s.noting n).walk t va = s.walk t va := rfl

@[simp] theorem State.tlbFind_noting (who t va : Nat) : (s.noting n).tlbFind who t va = s.tlbFind who t va := rfl

@[simp] theorem State.walking_noting (t va : Nat) : (s.noting n).walking t va = s.walking t va := rfl

@[simp] theorem State.checkMap_noting (q : Req) (va k kind : Nat) : (s.noting n).checkMap q va k kind = s.checkMap q va k kind := rfl

/-- A state beside an answer, with other notes. -/
def notingFst {α : Type} (n : Notes) (p : State × α) : State × α := (p.1.noting n, p.2)

theorem State.translate_noting (q : Req) (va kind : Nat) : (s.noting n).translate q va kind = notingFst n (s.translate q va kind) := by
  unfold State.translate notingFst
  simp only [State.walk_noting, State.tlbFind_noting, State.walking_noting, State.walkReads_noting, State.tlbFill_noting]
  split
  · rfl
  · split
    · split <;> rfl
    · split
      · rfl
      · cases (s.walkReads q.tenant va).walk q.tenant va with
        | leaf => dsimp only; split <;> rfl
        | absent => rfl
        | bad => rfl

theorem State.check_noting (q : Req) (va k kind : Nat) : (s.noting n).check q va k kind = notingFst n (s.check q va k kind) := by
  unfold State.check
  rw [State.checkMap_noting]
  cases s.checkMap q va k kind with
  | some c => rfl
  | none =>
    cases region va with
    | trans v => simp only [State.translate_noting, notingFst]; cases h : s.translate q v kind with | mk t a => cases a <;> rfl
    | win t off => dsimp only; cases regionLoc q (.win t off) <;> rfl
    | _ => dsimp only; split <;> simp_all [notingFst]

theorem State.poolTr_noting (p va kind : Nat) : (s.noting n).poolTr p va kind = notingFst n (s.poolTr p va kind) := by
  unfold State.poolTr
  change (if isTrans va then match (s.noting n).translate ⟨512, (s.pool p).tenant, .other⟩ va kind with
    | (s, .pa a) => (s, some a)
    | (s, _) => (s, none) else (s.noting n, none)) = _
  rw [State.translate_noting]
  split
  · rcases s.translate ⟨512, (s.pool p).tenant, .other⟩ va kind with ⟨t, _ | _ | _⟩ <;> rfl
  · rfl

theorem State.poolData_noting (p va k kind : Nat) : (s.noting n).poolData p va k kind = notingFst n (s.poolData p va k kind) := by
  unfold State.poolData
  rw [State.poolTr_noting]
  rcases s.poolTr p va kind with ⟨t, _ | a⟩
  · rfl
  · exact Prod.ext (t.meet_noting n a k) (congrArg (fun u => if u.poisoned a k then none else some a) (t.meet_noting n a k))

theorem State.unpinPage_noting (p k : Nat) : (s.noting n).unpinPage p k = (s.unpinPage p k).noting n := by
  unfold State.unpinPage
  change (match (s.noting n).poolData p ((s.pool p).wordVa k) 8 1 with
    | (s, none) => s.pinFault p k
    | (s, some a) => _) = _
  rw [State.poolData_noting]
  rcases s.poolData p ((s.pool p).wordVa k) 8 1 with ⟨t, _ | a⟩
  · exact t.record_noting n _
  · dsimp only [notingFst]
    rw [apply_ite (State.noting · n)]
    rfl

theorem State.unpin_noting (p : Nat) (l : List Nat) : (s.noting n).unpin p l = (s.unpin p l).noting n :=
  foldl_noting (fun s n k => s.unpinPage_noting n p k) ..

/-- A target's data are the same under notes with the same contexts: a tile window's registers belong to these. -/
theorem State.readTarget_noting (hn : n.ctxs = s.ctxs) (t : Target) (k : Nat) : (s.noting n).readTarget t k = s.readTarget t k := by
  have hc : (s.noting n).ctx = s.ctx := by funext a b; exact congrArg (tget {} · _) hn
  cases t with
  | mem => rfl
  | win tile off => simp only [State.readTarget, State.winRead, hc]; rfl

theorem State.queueData_noting (hn : n.ctxs = s.ctxs) (q : Queue) (va k : Nat) (t : Target) :
    (s.noting n).queueData q va k t = notingFst n (s.queueData q va k t) := by
  unfold State.queueData
  cases t with
  | win tile off => exact Prod.ext rfl (congrArg Except.ok (s.readTarget_noting n hn ..))
  | mem loc =>
    simp only [State.meet_noting]
    change (if (s.meet loc k).poisoned loc k then _ else _) = _
    split
    · rw [State.record_noting]; rfl
    · rfl

theorem State.check_notes (q : Req) (va k kind : Nat) : (s.check q va k kind).1.notes = s.notes :=
  s.notes_of_noting (f := fun s => (s.check q va k kind).1) (fun s n => by rw [State.check_noting]; rfl)

theorem State.unpin_notes (p : Nat) (l : List Nat) : (s.unpin p l).notes = s.notes :=
  s.notes_of_noting (f := fun s => s.unpin p l) (fun s n => s.unpin_noting n p l)

theorem State.meet_notes (loc k : Nat) : (s.meet loc k).notes = s.notes :=
  s.notes_of_noting (f := fun s => s.meet loc k) (fun s n => s.meet_noting n loc k)

theorem State.record_notes (r : RecIn) : (s.record r).notes = s.notes :=
  s.notes_of_noting (f := fun s => s.record r) (fun s n => s.record_noting n r)

theorem State.queueData_notes (q : Queue) (va k : Nat) (t : Target) : (s.queueData q va k t).1.notes = s.notes := by
  unfold State.queueData
  grind [State.meet_notes, State.record_notes]

theorem State.readWord_notes (q : Queue) (o : Nat) : (s.readWord q o).1.notes = s.notes := by
  unfold State.readWord
  grind [State.check_notes, State.queueData_notes]

theorem State.readWord_noting (hn : n.ctxs = s.ctxs) (q : Queue) (o : Nat) : (s.noting n).readWord q o = notingFst n (s.readWord q o) := by
  unfold State.readWord
  rw [State.check_noting]
  have hc : (s.check q.req (q.vaOf o) 4 0).1.ctxs = s.ctxs := congrArg Notes.ctxs (s.check_notes ..)
  rcases hs : s.check q.req (q.vaOf o) 4 0 with ⟨t, t' | _ | _⟩
  · dsimp only [notingFst]
    rw [hs] at hc
    rw [State.queueData_noting t n (hn.trans hc.symm)]
    rcases t.queueData q (q.vaOf o) 4 t' with ⟨u, _ | _⟩ <;> rfl
  · rfl
  · rfl

end Noting

theorem readBlock_notes (q : Queue) (l : List Nat) (s : State) : (readBlock q l s).1.notes = s.notes := by
  induction l generalizing s with
  | nil => rfl
  | cons o l ih => unfold readBlock; grind [State.readWord_notes]

/-! ### A bank's own turn (R131, R132, R135) -/

/-- Results of a bank have landed: its vector registers, ports and pending results differ at most, and nobody else acts. -/
structure Landed (r : BankRef) (s t : State) : Prop where
  cur : t.cur = s.cur
  follow : t.follow = s.follow
  active : ∀ tile slot, (t.ctx tile slot).active = (s.ctx tile slot).active
  bank : ∃ v ports pend, t.bank r = { s.bank r with v := v, ports := ports, pend := pend }

section
variable {r : BankRef} {s t u : State}

theorem Landed.refl (r : BankRef) (s : State) : Landed r s s := ⟨rfl, rfl, fun _ _ => rfl, _, _, _, rfl⟩

theorem Landed.trans (hst : Landed r s t) (htu : Landed r t u) : Landed r s u := by
  obtain ⟨v, ports, pend, hb⟩ := hst.bank
  obtain ⟨v', ports', pend', hb'⟩ := htu.bank
  exact ⟨htu.cur.trans hst.cur, htu.follow.trans hst.follow, fun a b => (htu.active a b).trans (hst.active a b),
    v', ports', pend', by rw [hb', hb]⟩

theorem Landed.setBank (v : Tbl Vec) (ports : Tbl Port) (pend : List Pending) :
    Landed r s (s.setBank r { s.bank r with v := v, ports := ports, pend := pend }) :=
  ⟨rfl, rfl, s.active_setBank r _, v, ports, pend, s.bank_setBank r _⟩

theorem Landed.of_notes (h : t.notes = s.notes) : Landed r s t := by
  have hc : t.ctxs = s.ctxs := congrArg Notes.ctxs h
  have hx : t.ctx = s.ctx := by funext a b; exact congrArg (tget {} · _) hc
  exact ⟨congrArg Notes.cur h, congrArg Notes.follow h, fun a b => by rw [hx], _, _, _, congrArg (fun c => (c r.tile r.slot).bank r.bank) hx⟩

theorem Landed.send (m : Msg) : Landed r s (s.send m) := .of_notes rfl

theorem Landed.unpin (p : Nat) (l : List Nat) : Landed r s (s.unpin p l) := .of_notes (s.unpin_notes p l)

theorem Landed.foldl {α : Type} {f : State → α → State} (hf : ∀ s a, Landed r s (f s a)) (l : List α) (s : State) : Landed r s (l.foldl f s) :=
  List.foldlRecOn l f (motive := Landed r s) (.refl r s) fun t ht a _ => ht.trans (hf t a)

/-- A vector register written as its result lands (R329, R330). -/
theorem landed_land (s : State) (r : BankRef) (n : Nat) (x : Vec) : Landed r s (s.land r (.v n) x) := by
  have hw : Landed r s (s.setBank r ((s.bank r).wv n x)) := .setBank ..
  unfold State.land
  dsimp only
  split
  · split
    · exact hw
    · split
      · exact .setBank ..
      · exact hw.trans (.send _)
  · exact hw

theorem landed_freePort (s : State) (r : BankRef) (k : Nat) : Landed r s (s.freePort r k) := by
  cases h : (s.bank r).port k with
  | none => simpa only [State.freePort, h] using Landed.refl r s
  | some p =>
    simp only [State.freePort, h]
    generalize hp : tset (s.bank r).ports k _ = ports
    have hs : Landed r s (s.setBank r { s.bank r with ports := ports }) := .setBank ..
    generalize s.setBank r { s.bank r with ports := ports } = t at hs
    have hc : Landed r s (if p.mode = 0 then t.send (.credit ⟨r.tile, r.slot, k⟩ p.peer 1 (s.bank r).task) else t) := by
      split
      · exact hs.trans (.send _)
      · exact hs
    cases p.stream with
    | none => exact hc
    | some x =>
      dsimp only
      split
      · exact hc.trans (.unpin ..)
      · exact hc

theorem landed_landPend (s : State) (r : BankRef) (p : Pending) : Landed r s (s.landPend r p) := by
  have hf (t : State) : Landed r t (t.freePorts r p.frees) := .foldl (fun s k => landed_freePort s r k) ..
  unfold State.landPend
  dsimp only
  split
  · exact (landed_land ..).trans (hf _)
  · exact hf s

theorem landed_ageResults (s : State) (r : BankRef) : Landed r s (s.ageResults r) :=
  Landed.trans (.setBank (s.bank r).v (s.bank r).ports _) (.foldl (fun s p => landed_landPend s r p) ..)

end

/-- A state in which a context has taken its turn: it is the one that acts, and no prefix stands in front (R131). -/
def State.turnOf (s : State) (r : BankRef) : State := { s with cur := (r.tile, r.slot), rlxScope := none, follow := {} }

section
variable {s : State} {r : BankRef}

theorem State.endChunb_of_wait_none (h : (s.bank r).wait = none) : s.endChunb r = s := by
  simp only [State.endChunb, h]

/-- A context that may issue does so: nothing else takes its turn (R131, R132). -/
theorem act_issue {u : State} (hw : (u.bank r).wait = none) (hq : (u.bank r).quantLeft ≠ 0 ∨ r.bank ≠ 0) (hc : overCeiling (u.bank r) = false)
    (hd : (u.bank r).trap.inh = true ∨ (u.bank r).deferred = []) (hu : u = s.ageResults r) : act r s = issue r u := by
  have hq' : ¬ ((u.bank r).quantLeft = 0 ∧ r.bank = 0) := by tauto
  have hd' : (if (u.bank r).trap.inh = true then [] else (u.bank r).deferred) = [] := by
    rcases hd with hd | hd <;> simp [hd]
  subst hu
  unfold act
  rw [State.endChunb_of_wait_none hw]
  dsimp only
  rw [if_neg hq']
  simp only [hd', hc, Bool.false_eq_true, false_and, if_false]

theorem moveCore_of_mayIssue (h : MayIssue s r) (idle : State → State) :
    moveCore idle r.tile r.slot s = issue r ((s.turnOf r).ageResults r) := by
  have hr : (s.turnOf r).curRef = r := by
    cases r; exact congrArg (BankRef.mk _ _) h.active.symm
  have hin : ¬ (512 ≤ r.tile ∨ 8 ≤ r.slot) := by have := h.tile; have := h.slot; omega
  have hrun : (s.turnOf r).running r = true := h.runs
  have hw : ((s.turnOf r).bank r).wait = none := h.waits
  obtain ⟨v, ports, pend, hb⟩ := (landed_ageResults (s.turnOf r) r).bank
  have hb' : ((s.turnOf r).ageResults r).bank r = { s.bank r with v := v, ports := ports, pend := pend } := hb
  change (if 512 ≤ r.tile ∨ 8 ≤ r.slot then Host.Outcome.next (s.turnOf r) else
    if ¬ (s.turnOf r).running (s.turnOf r).curRef then .next (idle (s.turnOf r))
    else match ((s.turnOf r).bank (s.turnOf r).curRef).wait with
      | none => act (s.turnOf r).curRef (s.turnOf r)
      | some w => _) = _
  rw [hr, if_neg hin, if_neg (not_not_intro hrun), hw]
  exact act_issue (by rw [hb']; exact h.waits) (by rw [hb']; exact h.quantum) (by rw [hb']; exact h.ceiling) (by rw [hb']; exact h.calm) rfl

end

/-! ### How long what decodes is (R57, R58) -/

/-- What decodes is at most so many bytes long. -/
def Within (n : Nat) (r : Decoded) : Prop := ∀ i len, r = .ok i len → len ≤ n

section
variable {n : Nat} {r : Decoded}

@[simp] theorem within_ok (i : Instr) (len : Nat) : Within n (.ok i len) ↔ len ≤ n :=
  ⟨fun h => h i len rfl, fun h _ _ e => by cases e; exact h⟩

@[simp] theorem within_bad (c : BitVec 10) : Within n (.bad c) := fun _ _ e => by cases e

@[simp] theorem within_ite (p : Prop) [Decidable p] {r' : Decoded} :
    Within n (if p then r else r') ↔ (p → Within n r) ∧ (¬ p → Within n r') := by
  split <;> simp_all

@[simp] theorem within_zero {k : Nat} (x : BitVec k) : Within n (zero x r) ↔ (x = 0#k → Within n r) := by simp [zero]

@[simp] theorem within_scopeChk (x : BitVec 3) : Within n (scopeChk x r) ↔ (scopeOk x → Within n r) := by simp [scopeChk]

theorem within_nxOk (f : BitVec 10) (k : Nat) : Within n (nxOk f k r) ↔ ((f.extractLsb' 5 3).toNat = k → Within n r) := by
  rw [nxOk, within_ite, and_iff_left fun _ => within_bad _]

end

theorem decExt_within (mo : Nat) (f : BitVec 10) (b a d : BitVec 5) (x : List (BitVec 32)) :
    Within (4 + 4 * (f.extractLsb' 5 3).toNat) (decExt mo f b a d x) := by
  unfold decExt
  dsimp only
  split
  case h_8 => exact within_bad _
  all_goals refine (within_nxOk _ _).2 fun h => ?_; rw [h]; simp

/-- A word of a major without extension words is 4 bytes long, and every other one as long as its NX says. -/
theorem decode32_within (w : BitVec 32) (x : List (BitVec 32)) (n : Nat) (h4 : 4 ≤ n)
    (hx : majorOf w ∈ [10, 39, 40, 42, 49] → n = 4 + 4 * ((slotF w).extractLsb' 5 3).toNat) : Within n (decode32 w x) := by
  unfold decode32
  dsimp only
  split
  case h_45 h =>
    refine (within_ite _).2 ⟨fun _ => ?_, fun _ => ?_⟩
    · rw [hx (by simp [h])]; exact decExt_within _ _ _ _ _ _
    · unfold dec49; split <;> simp [within_nxOk, h4]
  case h_50 h | h_51 h | h_52 h | h_53 h => rw [hx (by simp [h])]; exact decExt_within _ _ _ _ _ _
  case h_54 | h_55 => exact within_bad _
  all_goals simp only [dec1, dec2, dec3, dec4, dec5, dec6, dec7, dec8, dec9, dec11, dec12, dec13, dec14, dec15, dec16, dec17, dec18, dec19,
    dec20, dec21, dec22, dec23, dec24, dec25, dec26, dec27, dec28, dec29, dec30, dec31, dec32, dec33, dec34, dec35, dec36, dec37, dec38, dec41,
    dec43, dec44, dec45, dec46, dec47, dec48, dec50, dec51, dec52, dec53]
  all_goals repeat' split
  all_goals simp [within_nxOk, h4]

theorem decode16_within (h : BitVec 16) : Within 2 (decode16 h) := by
  unfold decode16
  dsimp only
  split <;> simp

/-- What decodes is no longer than its first halfwords tell (R57, R58). -/
theorem decode_within (h : List (BitVec 16)) : Within (lengthOf h) (decode h) := by
  cases h with
  | nil => exact within_bad _
  | cons lo rest =>
    unfold decode lengthOf
    dsimp only
    split
    · exact decode16_within lo
    · refine decode32_within _ _ _ (by split <;> omega) fun hm => if_pos (by simp at hm ⊢; tauto)

/-! ### What stands behind an instruction does not matter (R57, R58, R136) -/

theorem nxOk_congr (f : BitVec 10) (k : Nat) {r r' : Decoded} (h : (f.extractLsb' 5 3).toNat = k → r = r') : nxOk f k r = nxOk f k r' := by
  unfold nxOk
  split
  · exact h ‹_›
  · rfl

/-- An instruction's extension words are as many as its NX says (R69). -/
theorem decExt_congr (mo : Nat) (f : BitVec 10) (b a d : BitVec 5) {x y : List (BitVec 32)}
    (h : ∀ j < (f.extractLsb' 5 3).toNat, x.getD j 0#32 = y.getD j 0#32) : decExt mo f b a d x = decExt mo f b a d y := by
  unfold decExt
  dsimp only
  split
  case h_8 => rfl
  all_goals
    refine nxOk_congr _ _ fun hn => ?_
    rw [hn] at h
    simp (disch := decide) only [h]

theorem decode32_congr (w : BitVec 32) {x y : List (BitVec 32)}
    (h : majorOf w ∈ [10, 39, 40, 42, 49] → ∀ j < ((slotF w).extractLsb' 5 3).toNat, x.getD j 0#32 = y.getD j 0#32) :
    decode32 w x = decode32 w y := by
  unfold decode32
  dsimp only
  split
  case h_45 hm => rw [decExt_congr 49 _ _ _ _ (h (by simp [hm]))]
  case h_50 hm | h_51 hm | h_52 hm | h_53 hm => exact decExt_congr _ _ _ _ _ (h (by simp [hm]))
  all_goals rfl

theorem joinWords_append (l r : List (BitVec 16)) (j : Nat) (h : 2 * j + 1 < l.length) :
    (joinWords (l ++ r)).getD j 0#32 = (joinWords l).getD j 0#32 := by
  induction l using joinWords.induct generalizing j with
  | case1 lo hi rest ih =>
    cases j with
    | zero => rfl
    | succ j => exact ih j (by simp at h; omega)
  | case2 l hl =>
    match l with
    | [] => simp at h
    | [_] => simp at h; 
    | a :: b :: c => exact absurd rfl (hl a b c)

theorem decode_compressed {lo : BitVec 16} (rest : List (BitVec 16)) (h : lo.extractLsb' 0 1 = 0#1) : decode (lo :: rest) = decode16 lo := if_pos h

theorem decode_long {lo : BitVec 16} (hi : BitVec 16) (rest : List (BitVec 16)) (h : lo.extractLsb' 0 1 ≠ 0#1) :
    decode (lo :: hi :: rest) = decode32 (hi ++ lo) (joinWords rest) := if_neg h

section
variable {p : List (BitVec 16)} (hp : lengthOf p / 2 ≤ p.length) (r : List (BitVec 16))
include hp

/-- The shapes of a run that holds its first instruction whole. -/
theorem whole_cases : (∃ lo rest, p = lo :: rest ∧ lo.extractLsb' 0 1 = 0#1) ∨
    ∃ lo hi rest, p = lo :: hi :: rest ∧ lo.extractLsb' 0 1 ≠ 0#1 := by
  match p with
  | [] => simp [lengthOf] at hp
  | lo :: rest =>
    by_cases hc : lo.extractLsb' 0 1 = 0#1
    · exact .inl ⟨lo, rest, rfl, hc⟩
    · cases rest with
      | nil => simp only [lengthOf, hc, if_false, List.length_singleton] at hp; split at hp <;> omega
      | cons hi rest => exact .inr ⟨lo, hi, rest, rfl, hc⟩

theorem lengthOf_append : lengthOf (p ++ r) = lengthOf p := by
  obtain ⟨lo, rest, rfl, hc⟩ | ⟨lo, hi, rest, rfl, hc⟩ := whole_cases hp
  · simp [lengthOf, hc]
  · rfl

theorem bitsOf_append : bitsOf (p ++ r) = bitsOf p := by
  obtain ⟨lo, rest, rfl, hc⟩ | ⟨lo, hi, rest, rfl, hc⟩ := whole_cases hp
  · simp [bitsOf, hc]
  · rfl

theorem headD_append : (p ++ r).headD 0 = p.headD 0 := by
  obtain ⟨lo, rest, rfl, _⟩ | ⟨lo, hi, rest, rfl, _⟩ := whole_cases hp <;> rfl

theorem decode_append : decode (p ++ r) = decode p := by
  obtain ⟨lo, rest, rfl, hc⟩ | ⟨lo, hi, rest, rfl, hc⟩ := whole_cases hp
  · rw [List.cons_append, decode_compressed _ hc, decode_compressed _ hc]
  · rw [List.cons_append, List.cons_append, decode_long _ _ hc, decode_long _ _ hc]
    refine decode32_congr _ fun hm j hj => joinWords_append _ _ _ ?_
    have hx : majorOf (hi ++ lo) ∈ [10, 39, 40, 42, 49, 53, 60] := by simp at hm ⊢; tauto
    simp only [lengthOf, hc, if_false, List.headD_cons, hx, if_true, List.length_cons] at hp
    omega

end

/-- The first instruction of a run, cut off behind it, is as long as it was. -/
theorem lengthOf_take {h : List (BitVec 16)} (hh : lengthOf h / 2 ≤ h.length) : lengthOf (h.take (lengthOf h / 2)) = lengthOf h := by
  obtain ⟨lo, rest, rfl, hc⟩ | ⟨lo, hi, rest, rfl, hc⟩ := whole_cases hh
  · have h2 : lengthOf (lo :: rest) = 2 := by simp only [lengthOf, hc, if_true]
    rw [h2]
    simp only [lengthOf, hc, if_true, List.take_succ_cons, Nat.reduceDiv]
  · have h4 : 4 ≤ lengthOf (lo :: hi :: rest) := by simp only [lengthOf, hc, if_false]; split <;> omega
    obtain ⟨m, hm⟩ := Nat.exists_eq_add_of_le (show 2 ≤ lengthOf (lo :: hi :: rest) / 2 by omega)
    rw [hm, Nat.add_comm]
    rfl

/-! ### The buffer keeps its first instruction whole (R136) -/

theorem lengthOf_ge (h : List (BitVec 16)) : 2 ≤ lengthOf h := by
  cases h with
  | nil => exact Nat.le_refl 2
  | cons lo rest =>
    unfold lengthOf
    dsimp only
    split
    · exact Nat.le_refl 2
    · split <;> omega

section
variable {h : List (BitVec 16)} (hw : wholeLen h ≠ none) (hp : isPrefix (h.headD 0) = false)
include hw hp

theorem whole_of_wholeLen : lengthOf h / 2 ≤ h.length := by
  by_contra hl
  exact hw (if_pos (.inr (.inr (by rw [headLen, if_neg (by rw [hp]; decide)]; omega))))

/-- What stands behind the first instruction is all that differs in the buffer. -/
theorem keepBuf_eq : ∃ r, keepBuf h = h.take (lengthOf h / 2) ++ r := by
  have hl := whole_of_wholeLen hw hp
  have hn := lengthOf_ge h
  have hne : ¬ (h.length < lengthOf h / 2 ∨ h = []) := by
    rintro (hlt | rfl)
    · omega
    · simp at hl; omega
  obtain ⟨r, hr⟩ : ∃ r, trimBuf 32 h = h.take (lengthOf h / 2) ++ r := by
    unfold trimBuf
    dsimp only
    rw [if_neg hne]
    split
    · exact ⟨[], (List.append_nil _).symm⟩
    · exact ⟨_, rfl⟩
  have ht := lengthOf_take hl
  have htl : (h.take (lengthOf h / 2)).length = lengthOf h / 2 := List.length_take_of_le hl
  have hd : ((h.take (lengthOf h / 2)) ++ r).headD 0 = h.headD 0 := by
    conv_rhs => rw [← List.take_append_drop (lengthOf h / 2) h]
    rw [headD_append (by rw [ht, htl]), headD_append (by rw [ht, htl])]
  have hlen : headLen (h.take (lengthOf h / 2) ++ r) = lengthOf h / 2 := by
    rw [headLen, hd, hp, if_neg (by decide), lengthOf_append (by rw [ht, htl]), ht]
  unfold keepBuf
  dsimp only
  rw [hr, hlen]
  split
  · exact ⟨[], by rw [List.take_append_of_le_length (by rw [htl])]; simp⟩
  · exact ⟨r.take (8 - lengthOf h / 2), by rw [List.take_append, htl, List.take_of_length_le (by omega)]⟩

end

/-- The buffer still begins with the instruction that a run begins with: its bits, its length and what it decodes to are the same. -/
theorem keepBuf_first {h : List (BitVec 16)} {i : Instr} {len : Nat} (hw : wholeLen h ≠ none) (hp : isPrefix (h.headD 0) = false)
    (hd : decode h = .ok i len) : decode (keepBuf h) = .ok i len ∧ bitsOf (keepBuf h) = bitsOf h ∧ (keepBuf h).headD 0 = h.headD 0 ∧
      wholeLen (keepBuf h) ≠ none ∧ h.take (len / 2) = (keepBuf h).take (len / 2) := by
  have hl := whole_of_wholeLen hw hp
  have hn := lengthOf_ge h
  obtain ⟨r, hr⟩ := keepBuf_eq hw hp
  have hlen := decode_within h i len hd
  have ht := lengthOf_take hl
  have htl : (h.take (lengthOf h / 2)).length = lengthOf h / 2 := List.length_take_of_le hl
  have hle : lengthOf (h.take (lengthOf h / 2)) / 2 ≤ (h.take (lengthOf h / 2)).length := by rw [ht, htl]
  have happ := List.take_append_drop (lengthOf h / 2) h
  generalize hpd : h.take (lengthOf h / 2) = p at *
  generalize h.drop (lengthOf h / 2) = d at *
  subst happ
  rw [headD_append hle] at hp
  rw [decode_append hle] at hd
  rw [hr]
  refine ⟨by rw [decode_append hle, hd], by rw [bitsOf_append hle, bitsOf_append hle], by rw [headD_append hle, headD_append hle], ?_, ?_⟩
  · intro hnone
    have hne : ¬ (p ++ r = [] ∨ (isPrefix ((p ++ r).headD 0) = true ∧ (p ++ r).drop 1 = []) ∨ (p ++ r).length < headLen (p ++ r)) := by
      rw [headLen, headD_append hle, hp, if_neg (by decide), lengthOf_append hle, List.length_append]
      rintro (h0 | ⟨h0, _⟩ | h0)
      · have h1 : p.length = 0 := by rw [(List.append_eq_nil_iff.1 h0).1, List.length_nil]
        omega
      · cases h0
      · omega
    rw [wholeLen, if_neg hne] at hnone
    cases hnone
  · have hpl : len / 2 ≤ p.length := by omega
    rw [List.take_append_of_le_length hpl, List.take_append_of_le_length hpl]

/-! ### Reads of memory that is intact (R423, R425) -/

section
variable {s : State}

theorem State.poisoned_of_intact (h : Intact s) (loc n : Nat) : s.poisoned loc n = false := by
  obtain ⟨hp, -, hc⟩ := h
  simp [State.poisoned, State.lostLine, hp, hc]

theorem State.meet_of_intact (h : Intact s) (loc n : Nat) : s.meet loc n = s := by
  obtain ⟨-, hf, -⟩ := h
  simp [State.meet, hf]

theorem State.meetAll_of_intact (h : Intact s) (l : List (Nat × Nat)) : s.meetAll l = s := by
  induction l with
  | nil => rfl
  | cons p l ih => rw [State.meetAll, List.foldl_cons, State.meet_of_intact h]; exact ih

theorem State.recordPoison_of_intact (h : Intact s) (r : RecIn) (l : List (Nat × Nat)) : s.recordPoison r l = s := by
  have hn : l.find? (fun p => s.poisoned p.1 p.2) = none := by simp [State.poisoned_of_intact h]
  rw [State.recordPoison, hn]

theorem bitOf_toNat {w : Nat} (x : BitVec w) (i : Nat) : bitOf x.toNat i = x.getLsbD i := by
  rw [bitOf, ← BitVec.testBit_toNat, Nat.testBit_eq_decide_div_mod_eq]
  rfl

theorem State.traceAt_of_off (loc n kind src slot bank rank : Nat) (remote : Bool) (h : ∀ t, (s.tile t).trctl.getLsbD 0 = false) :
    s.traceAt loc n kind src slot bank rank remote = s := by
  have hb (t) : bitOf (s.tile t).trctl.toNat 0 = false := (bitOf_toNat ..).trans (h t)
  unfold State.traceAt
  simp only [hb, Bool.false_and]
  split <;> rfl

theorem State.soundHalves_of_intact (h : Intact s) (n loc : Nat) : s.soundHalves n loc = n := by
  have ht : (List.range n).takeWhile (fun j => !s.poisoned (loc + 2 * j) 2) = List.range n :=
    List.takeWhile_eq_self_iff.2 fun j _ => by rw [State.poisoned_of_intact h]; rfl
  rw [State.soundHalves, ht, List.length_range]

/-- A unit that is in memory and can be read is fetched, and nothing else happens (R137). -/
theorem State.fetchUnit_of_unwatched (h : Unwatched s) {r : BankRef} {va : Va} {loc : Nat} (ht : r.tile < 512) (hva : va.toNat % 2 = 0)
    (hc : s.check ((s.bank r).req r.tile) va.toNat 2 2 = (s, .ok (.mem loc))) :
    s.fetchUnit r va = (s, .ok (s.halves ((16 - va.toNat % 16) / 2) loc)) := by
  have hn : (16 - va.toNat % 16) / 2 ≠ 0 := by omega
  rw [State.fetchUnit, Nat.mod_eq_of_lt ht, hc]
  dsimp only
  rw [State.meetHalves, if_neg hn, State.meet_of_intact h.1, State.soundHalves_of_intact h.1, if_neg hn, State.traceAt_of_off _ _ _ _ _ _ _ _ h.2]

end

/-! ### A core's turn runs what its next halfwords decode to (R57, R58, R71, R131) -/

/-- The instruction at the head of a run of halfwords executes with its own address and bits, behind a C.RLX that decoding accepts with what
follows it (R71, R72). -/
noncomputable def ranAt (x : State) (pc : Va) (h : List (BitVec 16)) (i : Instr) (len : Nat) : Out :=
  exec i { x with
    len := len, iaddr := pc, ibits := bitsOf h
    follow := if isPrefix (h.headD 0) then followOf (h.drop 1) { x with iaddr := pc + 2, ibits := bitsOf (h.drop 1) } else {} }

section
variable {s u : State} {r : BankRef} {i : Instr} {len : Nat}

theorem ranAt_of_plain {h : List (BitVec 16)} {pc : Va} (hp : isPrefix (h.headD 0) = false) :
    ranAt u pc h i len = exec i { u with len := len, iaddr := pc, ibits := bitsOf h, follow := {} } := by
  rw [ranAt, if_neg (by rw [hp]; decide)]

theorem runWord_of_decode {h : List (BitVec 16)} (hd : decode h = .ok i len) (hf : u.follow = {}) : runWord h u = ranAt u u.me.pc h i len := by
  rw [runWord, hd]
  dsimp only
  split
  · rw [ranAt, if_pos ‹_›]; rfl
  · rw [ranAt, if_neg ‹_›, ← hf]

theorem State.gatherWhole_of_whole (h : wholeLen (u.bank r).fbuf ≠ none) (n : Nat) : u.gatherWhole r (n + 1) = (u, none) := by
  obtain ⟨k, hk⟩ := Option.ne_none_iff_exists'.1 h
  rw [State.gatherWhole, hk]

/-- An empty buffer takes the unit at the PC. -/
theorem State.gatherWhole_of_empty {hs : List (BitVec 16)} (he : (u.bank r).fbuf = []) (hf : u.fetchUnit r (u.bank r).pc = (u, .ok hs)) (n : Nat) :
    u.gatherWhole r (n + 1) = (u.setBank r { u.bank r with fbuf := keepBuf hs }).gatherWhole r n := by
  have hva : (u.bank r).fetchVa = (u.bank r).pc := by simp [Bank.fetchVa, he]
  have hw : wholeLen ([] : List (BitVec 16)) = none := rfl
  rw [State.gatherWhole, hva, he, hw, hf]
  rfl

theorem issue_of_frame (hf : (u.bank r).rpt.act = false) : issue r u = (match u.gatherWhole r 24 with
    | (s, some c) => .next (s.fetchStop r (s.bank r).fetchVa c)
    | (s, none) => runWord (s.bank r).fbuf s) := by
  rw [issue, hf]
  rfl

/-- A context whose buffer holds its next instruction runs that. -/
theorem issue_of_buffer (hcur : u.curRef = r) (hf : u.follow = {}) (hact : (u.bank r).rpt.act = false) (hw : wholeLen (u.bank r).fbuf ≠ none)
    (hd : decode (u.bank r).fbuf = .ok i len) : issue r u = ranAt u (u.bank r).pc (u.bank r).fbuf i len := by
  rw [issue_of_frame hact, State.gatherWhole_of_whole hw]
  dsimp only
  rw [runWord_of_decode hd hf, State.me, hcur]

/-- A context with an empty buffer runs the instruction in memory at its PC. -/
theorem issue_of_memory {h : List (BitVec 16)} (hcur : u.curRef = r) (hf : u.follow = {}) (hact : (u.bank r).rpt.act = false)
    (he : (u.bank r).fbuf = []) (hu : u.fetchUnit r (u.bank r).pc = (u, .ok h)) (hp : isPrefix (h.headD 0) = false) (hw : wholeLen h ≠ none)
    (hd : decode h = .ok i len) :
    h.take (len / 2) = (keepBuf h).take (len / 2) ∧
      issue r u = ranAt (u.setBank r { u.bank r with fbuf := keepBuf h }) (u.bank r).pc h i len := by
  obtain ⟨hdk, hbk, hhk, hwk, htk⟩ := keepBuf_first hw hp hd
  refine ⟨htk, ?_⟩
  have hb := u.bank_setBank r { u.bank r with fbuf := keepBuf h }
  have hbuf := congrArg Bank.fbuf hb
  have hpc := congrArg Bank.pc hb
  have hcur' : (u.setBank r { u.bank r with fbuf := keepBuf h }).curRef = r := by rw [State.curRef_setBank, hcur]
  have hf' : (u.setBank r { u.bank r with fbuf := keepBuf h }).follow = {} := hf
  rw [issue_of_frame hact, State.gatherWhole_of_empty he hu]
  generalize u.setBank r { u.bank r with fbuf := keepBuf h } = w at *
  rw [State.gatherWhole_of_whole (by rw [hbuf]; exact hwk)]
  dsimp only
  rw [hbuf, runWord_of_decode hdk hf', State.me, hcur', hpc, ranAt_of_plain (hhk ▸ hp), ranAt_of_plain hp, hbk]

theorem runsDecoded_of_mayIssue (h : MayIssue s r) (idle : State → State) : RunsDecoded s r i len (moveCore idle r.tile r.slot s) := by
  have hl := landed_ageResults (s.turnOf r) r
  obtain ⟨v, ports, pend, hb⟩ := hl.bank
  have hcur : ((s.turnOf r).ageResults r).curRef = r := by
    have ha := hl.active r.tile r.slot
    rw [State.curRef, hl.cur]
    change BankRef.mk r.tile r.slot (((s.turnOf r).ageResults r).ctx r.tile r.slot).active = r
    rw [ha]
    cases r
    exact congrArg (BankRef.mk _ _) h.active.symm
  have hact : (((s.turnOf r).ageResults r).bank r).rpt.act = false := by rw [hb]; exact h.frame
  have hpc : (((s.turnOf r).ageResults r).bank r).pc = (s.bank r).pc := by rw [hb]; rfl
  have hf : ((s.turnOf r).ageResults r).follow = {} := hl.follow
  rw [moveCore_of_mayIssue h]
  change (wholeLen (((s.turnOf r).ageResults r).bank r).fbuf ≠ none → _ → _) ∧ ∀ loc, _
  constructor
  · intro hw hd
    exact (issue_of_buffer hcur hf hact hw hd).trans (congrArg (fun pc => ranAt _ pc _ i len) hpc)
  · intro loc he hpc2 hu hc hs hp hw hd
    obtain ⟨htk, hi⟩ := issue_of_memory hcur hf hact he (State.fetchUnit_of_unwatched hu h.tile hpc2 hc) hp hw hd
    exact ⟨keepBuf hs, htk, hi.trans (congrArg (fun pc => ranAt _ pc _ i len) hpc)⟩

end

/-! ### Whose move it is (log entry 1) -/

section
variable {s s0 : State}

theorem step_of_focus {a : Agent} (h : s.focus = some a) : step s = runAgent a s := by rw [step, h]

theorem step_core {tile slot : Nat} (h : s.focus = some (.core tile slot)) : step s = moveCore (fun s => s.serveUnits.pass) tile slot s :=
  step_of_focus h

/-- An agent that moves in the same way with the machine to itself and among the others moves so when it has the move. -/
theorem step_of_hasTheMove {a : Agent} {o : Out} (h : HasTheMove s s0 a) (hrun : runAgent a s0 = o) (hfree : freeAgent a s0 = o) : step s = o := by
  obtain ⟨hf, rfl⟩ | ⟨hf, rfl, rfl⟩ := h
  · rw [step_of_focus hf, hrun]
  · rw [← hfree, step]
    split
    · exact absurd (hf.symm.trans ‹_›) (by simp)
    · rfl

theorem step_event {i : Instr} (h : HasTheMove s s0 (.event i)) (hi : isEvent i = true) : step s = exec i s0 :=
  step_of_hasTheMove h (if_pos hi) (if_pos hi)

/-! ### Turns of a core (R131, R133) -/

theorem step_turn {tile : Nat} (h : HasTheMove s s0 (.turn tile)) : step s = stepTurn tile s0 := step_of_hasTheMove h rfl rfl

theorem stepTurn_of_issued {tile k : Nat} (h : (s.tile tile).lastIssue = some (k, s.cycle)) : stepTurn tile s = .next s := by
  simp [stepTurn, h]

theorem not_issued {tile : Nat} (h : ∀ k, (s.tile tile).lastIssue ≠ some (k, s.cycle)) :
    (s.tile tile).lastIssue.any (fun p => p.2 == s.cycle) = false := by
  match hl : (s.tile tile).lastIssue with
  | none => rfl
  | some (k, c) => simpa using fun hc : c = s.cycle => h k (by rw [hl, hc])

theorem stepTurn_of_no_taker {tile : Nat} (h : s.taker tile = none) : stepTurn tile s = .next s := by
  simp [stepTurn, h]

theorem taker_of_ready {tile : Nat} (h : s.ready tile (s.cycle % 8) = true) : s.taker tile = some (s.cycle % 8) := if_pos h

theorem stepTurn_of_taker {tile k : Nat} (hl : ∀ k, (s.tile tile).lastIssue ≠ some (k, s.cycle)) (h : s.taker tile = some k) :
    stepTurn tile s = match moveCore id tile k (s.setTile tile { s.tile tile with lastIssue := some (k, s.cycle) }) with
      | .next t => .next (s.paced t ⟨tile, k, (s.ctx tile k).active⟩)
      | o => o := by
  rw [stepTurn, not_issued hl, h]
  rfl

/-- Who may issue does not depend on a tile's note of its last issue. -/
theorem mayIssue_setTile {r : BankRef} (h : MayIssue s r) (n : Nat) (x : Tile) : MayIssue (s.setTile n x) r :=
  { tile := h.tile, slot := h.slot, active := h.active, runs := h.runs, waits := h.waits, quantum := h.quantum, ceiling := h.ceiling
    calm := h.calm, frame := h.frame }

theorem coresRunWhatTheyDecode : CoresRunWhatTheyDecode := by
  refine ⟨fun s r i len hf hm => ?_, fun s s0 tile hmove => ⟨fun k hk => ?_, fun hl => ⟨fun ht => ?_, taker_of_ready, fun r i len hr ht hm => ?_⟩⟩⟩
  · rw [step_core hf]
    exact runsDecoded_of_mayIssue hm _
  · rw [step_turn hmove, stepTurn_of_issued hk]
  · rw [step_turn hmove, stepTurn_of_no_taker ht]
  · subst hr
    have hra : (⟨r.tile, r.slot, (s0.ctx r.tile r.slot).active⟩ : BankRef) = r := by
      cases r; exact congrArg (BankRef.mk _ _) hm.active.symm
    refine ⟨_, runsDecoded_of_mayIssue (mayIssue_setTile hm _ _) id, fun t ho => ?_, fun ho => ?_⟩ <;>
      rw [step_turn hmove, stepTurn_of_taker hl ht, hra]
    · rw [ho]
    · split
      · exact absurd ‹_› (ho _)
      · rfl

end

/-! ### A queue's move (R89, R91) -/

section
variable {s : State} {n : Notes}

theorem State.streamWord_noting (hc : n.ctxs = s.ctxs) (hq : n.queues = s.queues) (k o : Nat) :
    (s.noting n).streamWord k o = notingFst n (s.streamWord k o) := by
  have hk : (s.noting n).queue k = s.queue k := congrArg (fun q => tget ({} : Queue) q k) hq
  unfold State.streamWord
  rw [hk]
  dsimp only
  split
  · rfl
  · exact s.readWord_noting n hc ..

/-- Whether a queue can run does not depend on which one acts. -/
theorem State.runnable_noting (hc : n.ctxs = s.ctxs) (hq : n.queues = s.queues) (k : Nat) : (s.noting n).runnable k = s.runnable k := by
  have hk : (s.noting n).queue k = s.queue k := congrArg (fun q => tget ({} : Queue) q k) hq
  have hr : (s.noting n).queueReady k = s.queueReady k := by
    unfold State.queueReady
    rw [hk]
    simp only [State.streamWord_noting hc hq, notingFst]
  unfold State.runnable
  rw [hk, hr]

theorem State.runnable_curq (s : State) (j k : Nat) : ({ s with curq := j } : State).runnable k = s.runnable k :=
  State.runnable_noting (n := { s.notes with curq := j }) rfl rfl k

/-- An engine that serves a queue which can run stays with it (R89). -/
theorem State.selectQueue_of_serving {e k : Nat} (h : tget 0 s.serving e = k + 1) (hr : s.runnable k = true) : s.selectQueue e = s :=
  if_pos ⟨by omega, by rw [h]; exact hr⟩

/-- An entry changes the words held ahead and the block, and nobody's turn. -/
theorem State.enterBlock_queue (s : State) (k : Nat) :
    (∃ ahead block, (s.enterBlock k).queue k = { s.queue k with ahead := ahead, block := block }) ∧ (s.enterBlock k).curq = s.curq := by
  have hn := readBlock_notes (s.queue k) ((s.queue k).blockWords ((s.queue k).blockOf (s.queue k).ip) (s.queue k).ip ++
    (s.queue k).blockWords ((s.queue k).blockOf (s.queue k).ip + 1) 0) s
  unfold State.enterBlock
  dsimp only
  generalize readBlock (s.queue k) _ s = r at *
  have hq : r.1.queue k = s.queue k := congrArg (fun q => tget ({} : Queue) q k) (congrArg Notes.queues hn)
  refine ⟨⟨r.2, some ((s.queue k).blockOf (s.queue k).ip), ?_⟩, congrArg Notes.curq hn⟩
  rw [State.setQueue, State.queue, tget_tset_same, hq]

/-- The words ahead of a queue are what its engine reads. -/
theorem State.streamWord_of_ahead {k o p : Nat} {w : BitVec 32}
    (h : (s.queue k).ahead.find? (fun w => w.1 == (if (s.queue k).ibs.isEmpty then o % (s.queue k).ring else o)) = some (p, w)) :
    s.streamWord k o = (s, .ok w) := by
  have hl : ((s.queue k).level = 0) = ((s.queue k).ibs.isEmpty = true) := by
    rw [Queue.level, List.length_eq_zero_iff, List.isEmpty_iff]
  unfold State.streamWord
  simp only [hl, h]

theorem State.streamWords_of_ahead {k : Nat} (ws : List (BitVec 32)) (o : Nat)
    (h : ∀ j < ws.length, s.streamWord k (o + 4 * j) = (s, .ok (ws.getD j 0))) : s.streamWords k ws.length o = (s, .ok ws) := by
  induction ws generalizing o with
  | nil => rfl
  | cons w ws ih =>
    have h0 := h 0 (Nat.zero_lt_succ _)
    have hs := ih (o + 4) fun j hj => by
      have := h (j + 1) (Nat.succ_lt_succ hj)
      rwa [show o + 4 * (j + 1) = o + 4 + 4 * j by omega] at this
    rw [List.length_cons, State.streamWords, show s.streamWord k o = (s, .ok w) from h0]
    dsimp only
    rw [hs]

/-- A queue whose instruction's words lie ahead of it runs what they decode to (R91, R95). -/
theorem runQueue_of_ahead {k : Nat} {ws : List (BitVec 32)} {i : Instr} {u : State}
    (hu : u = if (s.queue k).block.isNone then s.enterBlock k else s) (hlen : ws.length = frameWords (ws.headD 0))
    (hleft : (u.queue k).ibs ≠ [] → 4 * ws.length ≤ (u.queue k).left)
    (hw : ∀ j < ws.length, u.streamWord k ((u.queue k).ip + 4 * j) = (u, .ok (ws.getD j 0)))
    (hd : decodeQueue (words ws) = .ok i (4 * ws.length)) :
    runQueue k s = exec i { u with curq := k, len := 4 * ws.length, ibits := ws.headD 0 } := by
  have hpos : 0 < ws.length := by rw [hlen, frameWords]; split <;> omega
  have hlevel : ¬ ((u.queue k).level ≠ 0 ∧ (u.queue k).left < 4 * ws.length) := by
    rintro ⟨hl, hlt⟩
    have := hleft (fun h => hl (by rw [Queue.level, h]; rfl))
    omega
  have h0 : u.streamWord k (u.queue k).ip = (u, .ok (ws.headD 0)) := by
    rw [show ws.headD 0 = ws.getD 0 0 by cases ws <;> rfl]
    exact hw 0 hpos
  unfold runQueue
  rw [← hu]
  dsimp only
  rw [h0]
  dsimp only
  rw [← hlen, if_neg hlevel, State.streamWords_of_ahead ws _ hw]
  dsimp only
  rw [hd]

end

/-- A queue that its engine serves, which waits for nothing, is the one that it serves now (R89). -/
theorem moveQueue_of_serving {s : State} {k : Nat} (hk : k < 64) (hh : (s.queue k).hold = none) (hr : s.runnable k = true)
    (hs : tget 0 s.serving (k / 8) = k + 1) : moveQueue k s = serveQueue k { s with curq := k } := by
  have hin : ¬ 64 ≤ k := by omega
  have hsel : ({ s with curq := k } : State).selectQueue (k / 8) = { s with curq := k } :=
    State.selectQueue_of_serving hs (by rw [State.runnable_curq]; exact hr)
  have hh' : (({ s with curq := k } : State).queue k).hold = none := hh
  unfold moveQueue
  dsimp only
  rw [if_neg hin, hh', hsel]
  exact if_pos hs

theorem step_queue {s s0 : State} {k : Nat} (h : HasTheMove s s0 (.queue k)) (hh : (s0.queue k).hold = none) : step s = moveQueue k s0 :=
  step_of_hasTheMove h (by change stepQueue k s0 = _; rw [stepQueue, hh]) rfl

theorem queuesRunWhatTheyDecode : QueuesRunWhatTheyDecode := by
  intro s s0 k i ws hmove hk hhold hskip hrun hserving s1 u q hlen hleft hw hd
  have hq : (∃ ahead block, u.queue k = { s0.queue k with ahead := ahead, block := block }) ∧ u.curq = k := by
    by_cases hb : (s0.queue k).block.isNone
    · rw [show u = s1.enterBlock k from if_pos hb]
      exact s1.enterBlock_queue k
    · rw [show u = s1 from if_neg hb]
      exact ⟨⟨_, _, rfl⟩, rfl⟩
  obtain ⟨⟨ahead, block, hqk⟩, hcurq⟩ := hq
  have hret : ¬ ((s1.queue k).level ≠ 0 ∧ (s1.queue k).left = 0) := by
    rintro ⟨hl, h0⟩
    have hql : q.left = (s0.queue k).left := by rw [show q = _ from hqk]; rfl
    have hqi : q.ibs = (s0.queue k).ibs := by rw [show q = _ from hqk]
    exact (hleft (by rw [hqi]; exact fun h => hl (by rw [Queue.level, show (s1.queue k).ibs = [] from h]; rfl))).1 (hql.trans h0)
  have hskip' : ¬ (s1.queue k).skip.isSome := by rw [show (s1.queue k).skip = none from hskip]; decide
  have hserve : serveQueue k { s0 with curq := k } = runQueue k s1 := by
    unfold serveQueue
    dsimp only
    exact (if_neg hskip').trans (if_neg hret)
  rw [step_queue hmove hhold, moveQueue_of_serving hk hhold hrun hserving, hserve,
    runQueue_of_ahead (u := u) rfl hlen (fun h => (hleft h).2) (fun j hj => (hw j hj).elim fun _ h => State.streamWord_of_ahead h) hd]
  rw [← hcurq]

end Sys2Proof.Machine

/-- Settles O57: a core's turn issues the instruction at the head of its buffer or in memory at its PC, a queue's move runs the words held ahead, and the
step of an event is that event. -/
theorem Sys2Proof.stepsRunWhatIsDecoded : Obligations.StepsRunWhatIsDecoded :=
  ⟨Machine.coresRunWhatTheyDecode, Machine.queuesRunWhatTheyDecode, fun _ _ _ => Machine.step_event⟩

/-! SUPPORT. What C.RLX puts in front of a memory instruction: the gates that a quiet thread's access passes, what a relaxed access leaves behind, and the
bits that a load gives its register (R63, R64, R71, R252, R255, R256). -/

namespace Sys2Proof.Machine

/-! ### The end of a long-latency instruction in a quiet thread (R63, R64) -/

/-- A bank in which a long-latency instruction has opened its window, the only one, with this many instructions left. -/
def opened (b : Bank) (left : Nat) (d : Dest) (x : Option Vec) : Bank :=
  { b with wins := [⟨left, d, x, none, 0, b.nextWin, false, []⟩], nextWin := b.nextWin + 1 }

/-- The bank of a quiet thread whose long-latency instruction has issued. -/
def windowed (b : Bank) (k : Nat) (d : Dest) (x : Option Vec) (len : Nat) : Bank := passed (opened b k d x) len

theorem Bank.stepped_fresh (b : Bank) (len : Nat) (hc : b.counted = false) (hf : b.rpt.act = false ∨ b.rpt.frozen = true) :
    b.stepped len = passed b.tickWindows len := by
  have hcount : b.count = { b.tickWindows with icount := b.icount + 1, quantLeft := quantAfter b.quantLeft } := if_neg (by simp [hc])
  have hr : b.count.rpt = b.rpt := by rw [hcount]; rfl
  unfold Bank.stepped
  rw [Bank.advance_plain b.count len (hr ▸ hf), hcount]
  rfl

section
variable {s : State} (h : Quiet s) (k : Nat) (d : Dest) (x : Option Vec)
include h

theorem openWindow_quiet : s.openWindow k d x none 0 [] = s.setMe (opened s.me (k + 1) d x) := by
  unfold State.openWindow opened
  simp only [h.fresh, h.wins, List.nil_append, Bool.false_eq_true, if_false]

/-- The issue counts the new window down with the instruction that opened it. -/
theorem issued_openWindow : (s.openWindow k d x none 0 []).issued = s.unscoped.setMe (windowed s.me k d x s.len) := by
  have hstep : (opened s.me (k + 1) d x).stepped s.len = windowed s.me k d x s.len := Bank.stepped_fresh _ _ h.fresh h.frame
  have hi : (s.setMe (opened s.me (k + 1) d x)).issued = ((s.unscoped.setMe (opened s.me (k + 1) d x)).setMe
      ((s.setMe (opened s.me (k + 1) d x)).me.stepped s.len)).leashReply (s.setMe (opened s.me (k + 1) d x)).curRef := rfl
  rw [openWindow_quiet h, hi, State.me_setMe, hstep, State.curRef_setMe, State.setMe_setMe]
  exact noReply h _ rfl

theorem finishLong_quiet : s.finishLong k d x none 0 [] = (s.unscoped.setMe (windowed s.me k d x s.len)).closeDue s.curRef := by
  have hc : (s.openWindow k d x none 0 []).curRef = s.curRef := by rw [openWindow_quiet h, State.curRef_setMe]
  rw [State.finishLong, State.retire, issued_openWindow h, hc, State.settle]

/-- A window with instructions left stays open. -/
theorem finishLong_open (hk : k ≠ 0) : s.finishLong k d x none 0 [] = s.unscoped.setMe (windowed s.me k d x s.len) := by
  have hb : (s.unscoped.setMe (windowed s.me k d x s.len)).bank s.curRef = windowed s.me k d x s.len := State.bank_setMe s.unscoped _
  have hw : (windowed s.me k d x s.len).wins.all (fun w => w.left != 0) = true := by simp [windowed, opened, passed, hk]
  rw [finishLong_quiet h, State.closeDue, hb, hw]
  rfl

end

/-- What a window's result does to its bank when no register is a bound port (R64). -/
def Bank.put (b : Bank) (d : Dest) (x : Vec) : Bank :=
  match d with
  | .none => b
  | .g n => b.wg n (x.setWidth 64)
  | .v n => b.wv n x

theorem Bank.raise_zero (b : Bank) : b.raise 0 = b := by simp [Bank.raise]

/-- A result that lands where no register is a bound port changes its register alone. -/
theorem land_unbound {s : State} {r : BankRef} (hp : (s.bank r).ports = []) (d : Dest) (x : Vec) :
    (s.land r d x).setBank r ((s.land r d x).bank r) = s.setBank r ((s.bank r).put d x) := by
  have hput {t : State} {b : Bank} (ht : t = s.setBank r b) : t.setBank r (t.bank r) = s.setBank r b := by
    rw [ht, State.bank_setBank, State.setBank_setBank]
  cases d with
  | none => rfl
  | g n => exact hput rfl
  | v n =>
    have hb : (if 28 ≤ n then ((s.bank r).wv n x).port (n - 28) else none) = none := by
      split
      · exact congrArg (tfind · _) hp
      · rfl
    refine hput ?_
    simp only [State.land, hb]
    rfl

/-- The window of a quiet thread whose result is there and whose last instruction has issued. -/
def dueWindow (id : Nat) (d : Dest) (x : Vec) : Window := ⟨0, d, some x, none, 0, id, false, []⟩

theorem bring_dueWindow {s : State} {r : BankRef} (hp : (s.bank r).ports = []) (id : Nat) (d : Dest) (x : Vec) :
    bring r [] [dueWindow id d x] s = s.setBank r ((s.bank r).put d x) := by
  have hu : bring r [] [dueWindow id d x] s = (s.land r d x).setBank r (((s.land r d x).bank r).raise 0) := rfl
  rw [hu, Bank.raise_zero, land_unbound hp]

/-- The window of a quiet thread closes with its register written (R64). -/
theorem closeDue_dueWindow {s : State} {r : BankRef} {id : Nat} {d : Dest} {x : Vec} (hp : (s.bank r).ports = [])
    (hw : (s.bank r).wins = [dueWindow id d x]) : s.closeDue r = s.setBank r { (s.bank r).put d x with wins := [] } := by
  have hself : (s.setBank r (s.bank r)).bank r = s.bank r := State.bank_setBank ..
  have hback : (s.setBank r (s.bank r)).writeBack r =
      s.setBank r { (s.bank r).put d x with wins := [{ dueWindow id d x with back := true }] } := by
    unfold State.writeBack
    rw [hself, hw]
    dsimp only
    rw [if_pos (by rfl), bring_dueWindow (by rw [hself]; exact hp), hself, State.setBank_setBank, State.bank_setBank, State.setBank_setBank]
    rfl
  have hdue : ¬ ((s.bank r).wins.all (fun w => w.left != 0)) = true := by rw [hw]; exact Bool.false_ne_true
  have herr : (if (s.bank r).wins.any (fun w => w.left == 0 && w.err.isSome) then (s.bank r).endWindows else s.bank r) = s.bank r :=
    if_neg (by rw [hw]; exact Bool.false_ne_true)
  unfold State.closeDue
  rw [if_neg hdue]
  dsimp only
  rw [herr, hback, State.bank_setBank]
  exact State.setBank_setBank ..

theorem finishLong_due {s : State} (h : Quiet s) (hp : s.me.ports = []) (d : Dest) (x : Vec) :
    s.finishLong 0 d (some x) none 0 [] = landed s 0 d x := by
  have hb : (s.unscoped.setMe (windowed s.me 0 d (some x) s.len)).bank s.curRef = windowed s.me 0 d (some x) s.len := State.bank_setMe s.unscoped _
  rw [finishLong_quiet h, closeDue_dueWindow (id := s.me.nextWin) (by rw [hb]; exact hp) (by rw [hb]; rfl), hb]
  refine (State.setBank_setBank ..).trans (congrArg (s.unscoped.setBank s.curRef) ?_)
  have hw := h.wins
  cases d with
  | none => exact congrArg (fun ws => { passed { s.me with nextWin := s.me.nextWin + 1 } s.len with wins := ws }) hw.symm
  | v n => exact congrArg (fun ws => { passed ({ s.me with nextWin := s.me.nextWin + 1 }.wv n x) s.len with wins := ws }) hw.symm
  | g n =>
    by_cases hn : n = 0 <;> simp [Bank.put, Bank.wg, hn, windowed, opened, passed, hw]

/-! ### Accesses behind C.RLX (R71, R252) -/

/-- The state in which the instruction behind a C.RLX runs (R71, R72). -/
def State.relaxing (s : State) (sc : BitVec 3) : State :=
  { s with rlxScope := some sc.toNat, len := 2 + s.follow.len, iaddr := s.me.pc + 2, ibits := s.follow.bits }

/-- A thread behind a C.RLX with nothing else under way: it may begin a relaxed access of the scope at once. -/
structure Relaxing (s : State) (sc : Nat) : Prop extends Quiet s where
  scope : s.rlxScope = some sc
  rlx : s.me.rlx = []
  acq : s.acqHeld s.curRef = false
  ports : s.me.ports = []
  rings : ∀ t, (s.tile t).trctl.getLsbD 0 = false
  intact : Intact s

theorem Relaxing.of_calm {s : State} (h : Calm s) (sc : BitVec 3) : Relaxing (s.relaxing sc) sc.toNat :=
  { wins := h.wins, frame := h.frame, fresh := h.fresh, reply := h.reply, scope := rfl, rlx := h.rlx, acq := h.acq, ports := h.ports
    rings := h.rings, intact := h.intact }

/-- A TLB and walks apart, a translation in intact memory changes nothing (R264). -/
theorem State.translate_of_intact {s : State} (h : Intact s) (q : Req) (va kind : Nat) :
    ∃ tlb walks, (s.translate q va kind).1 = { s with tlb := tlb, walks := walks } := by
  have hw : s.walkReads q.tenant va = s := by
    rw [State.walkReads, State.meetAll_of_intact h, State.recordPoison_of_intact h]
  unfold State.translate
  rw [hw]
  split
  · exact ⟨_, _, rfl⟩
  · split
    · split <;> exact ⟨_, _, rfl⟩
    · split
      · exact ⟨_, _, rfl⟩
      · dsimp only
        cases s.walk q.tenant va with
        | leaf => dsimp only; split <;> exact ⟨_, _, rfl⟩
        | absent => exact ⟨_, _, rfl⟩
        | bad => exact ⟨_, _, rfl⟩

theorem State.check_of_intact {s : State} (h : Intact s) (q : Req) (va n kind : Nat) :
    ∃ tlb walks, (s.check q va n kind).1 = { s with tlb := tlb, walks := walks } := by
  unfold State.check
  cases s.checkMap q va n kind with
  | some c => exact ⟨_, _, rfl⟩
  | none =>
    cases region va with
    | trans v =>
      have ht := State.translate_of_intact h q v kind
      dsimp only
      rcases hr : s.translate q v kind with ⟨t, a⟩
      rw [hr] at ht
      cases a <;> exact ht
    | win t off => dsimp only; cases regionLoc q (.win t off) <;> exact ⟨_, _, rfl⟩
    | _ => dsimp only; split <;> exact ⟨_, _, rfl⟩

/-- What a thread's access reaches, it reaches behind C.RLX. -/
theorem check_relaxing {s u : State} {va : Dword} {n kind loc : Nat} (hc : Calm s) (h : Reachable s va n kind u loc)
    (sc : BitVec 3) : ∃ tlb walks, (s.relaxing sc).check (s.relaxing sc).req va.toNat n kind =
      ({ s.relaxing sc with tlb := tlb, walks := walks }, .ok (.mem loc)) := by
  obtain ⟨tlb, walks, hu⟩ := State.check_of_intact hc.intact s.req va.toNat n kind
  obtain ⟨hr, -⟩ := h
  refine ⟨tlb, walks, ?_⟩
  have hn := s.check_noting (s.relaxing sc).notes s.req va.toNat n kind
  rw [hr] at hn hu
  subst hu
  exact hn

section
variable {x : State} {sc : Nat} (h : Relaxing x sc)
include h

theorem Relaxing.tlb (tlb walks) : Relaxing { x with tlb := tlb, walks := walks } sc :=
  { wins := h.wins, frame := h.frame, fresh := h.fresh, reply := h.reply, scope := h.scope, rlx := h.rlx, acq := h.acq, ports := h.ports
    rings := h.rings, intact := h.intact }

/-- Neither an engine command nor an earlier relaxed access holds it. -/
theorem Relaxing.gates (f : State → Out) : gate x (fun s => roomGate s f) = f x := by
  have hroom : roomGate x f = f x := if_neg (by rw [h.rlx]; simp)
  rw [gate, if_neg (by rw [h.acq]; decide), hroom]

theorem Relaxing.makeRoom : x.makeRoom = x := by
  unfold State.makeRoom State.drainFull
  rw [show (x.bank x.curRef).rlx = [] from h.rlx]
  exact ite_self x

theorem Relaxing.drainOverlap (ps : List Part) : x.drainOverlap x.curRef ps = x := by
  unfold State.drainOverlap
  rw [show (x.bank x.curRef).rlx = [] from h.rlx]
  rfl

theorem Relaxing.traceLoads (r : BankRef) (ps : List Part) : traceLoads r ps x = x := by
  induction ps with
  | nil => rfl
  | cons p ps ih =>
    have ht : x.traceThread r p.loc p.size 0 = x := State.traceAt_of_off _ _ _ _ _ _ _ _ h.rings
    rw [Machine.traceLoads, ht, ih]

theorem Relaxing.poisonErr (r : BankRef) (va : Dword) (parts : List (Nat × Nat)) : x.poisonErr r va parts = (x, none) := by
  have hn : parts.find? (fun p => x.poisoned p.1 p.2) = none := by simp [State.poisoned_of_intact h.intact]
  unfold State.poisonErr
  dsimp only
  rw [State.meetAll_of_intact h.intact, hn]

end

theorem access_of_check {x u : State} {va : Dword} {n kind loc : Nat} (hc : x.check x.req va.toNat n kind = (u, .ok (.mem loc)))
    (f : Target → State → Out) : access va n kind x f = f (.mem loc) u := by
  rw [access, accessElse, hc]

/-! ### What such an access leaves -/

/-- What a relaxed access leaves: memory and registers are as before, the PC has passed it, it is counted, and it stands in its thread's list (R252). -/
structure LeftOutstanding (x t : State) (sc : Nat) (write : Bool) (ps : List Part) : Prop where
  mem : t.mem = x.mem
  g : t.me.g = x.me.g
  v : t.me.v = x.me.v
  pc : t.me.pc = x.me.pc + BitVec.ofNat 48 x.len
  icount : t.me.icount = x.me.icount + 1
  access : ∃ a, t.me.rlx = [a] ∧ a.scope = sc ∧ a.write = write ∧ a.parts = ps

/-- A load whose result its thread needs at once is performed as it issues (R63, R71). -/
theorem Relaxing.loadDone_now {x : State} {sc : Nat} (h : Relaxing x sc) (dest : Dest) (ext : Nat) (base : Vec) (va : Dword) (ps : List Part) :
    loadDone 0 dest ext base va ps x [] = .next (landed x 0 dest (loadParts x ext base ps)) := by
  unfold loadDone
  dsimp only
  rw [h.drainOverlap, h.scope]
  dsimp only
  rw [if_pos rfl, h.traceLoads, h.poisonErr]
  exact congrArg _ (finishLong_due h.toQuiet h.ports dest _)

/-- A state with a relaxed access that its thread has begun. -/
def pushed (x : State) (a : Access) : State := { x.setMe { x.me with rlx := [a] } with fresh := x.fresh + 1 }

section
variable {x : State} {sc : Nat} (h : Relaxing x sc) (a : Access)
include h

theorem Relaxing.pushAccess (scope : Nat) (write : Bool) (va : Dword) (ps : List Part) (win ext : Nat) (base : Vec) :
    ∃ a, x.pushAccess scope write va ps win ext base = pushed x a ∧ a.scope = scope ∧ a.write = write ∧ a.parts = ps := by
  refine ⟨⟨x.fresh, scope, write, ps.any (fun p => decide (xaLoc ≤ p.loc) && !(isLsLoc p.loc && homeTile p.loc == x.cur.1)),
    va, ps, win, ext, base, none⟩, ?_, rfl, rfl, rfl⟩
  have hl (a : Access) : x.me.rlx ++ [a] = [a] := by rw [h.rlx]; rfl
  exact congrArg (fun l => ({ x.setMe { x.me with rlx := l } with fresh := x.fresh + 1 } : State)) (hl _)

theorem Relaxing.quiet_pushed : Quiet (pushed x a) := by
  obtain ⟨hw, hf, hc, hr⟩ := quiet_setMe h.toQuiet { x.me with rlx := [a] } rfl rfl rfl rfl
  exact ⟨hw, hf, hc, hr⟩

end

theorem pushed_me (x : State) (a : Access) : (pushed x a).me = { x.me with rlx := [a] } := State.me_setMe ..

theorem me_ended (s : State) (b : Bank) : (s.unscoped.setMe b).me = b := State.me_setMe ..

section
variable {x : State} {sc : Nat} (h : Relaxing x sc)
include h

/-- A load whose window stays open is outstanding (R63, R252). -/
theorem Relaxing.loadDone_later {k : BitVec 4} (hk : k ≠ 0) (dest : Dest) (ext : Nat) (base : Vec) (va : Dword) (ps : List Part) :
    ∃ t, loadDone k dest ext base va ps x [] = .next t ∧ LeftOutstanding x t sc false ps ∧
      t.me.wins = [⟨k.toNat, dest, none, none, 0, x.me.nextWin, false, []⟩] := by
  obtain ⟨a, ha, hsc, hwr, hps⟩ := h.pushAccess sc false va ps x.me.nextWin ext base
  have hk' : k.toNat ≠ 0 := fun hz => hk (BitVec.eq_of_toNat_eq hz)
  have hd : loadDone k dest ext base va ps x [] = .next ((pushed x a).finishLong k.toNat dest none none 0 []) := by
    unfold loadDone
    dsimp only
    rw [h.drainOverlap, h.scope, ← ha]
    exact if_neg hk
  rw [hd, finishLong_open (h.quiet_pushed a) _ _ _ hk', pushed_me]
  refine ⟨_, rfl, ⟨rfl, ?_, ?_, ?_, ?_, a, ?_, hsc, hwr, hps⟩, ?_⟩
  all_goals rw [me_ended]; rfl

/-- A store is outstanding, whatever its window (R252). -/
theorem Relaxing.storeDone_later (k : BitVec 4) (va : Dword) (ps : List Part) :
    ∃ t, storeDone k va ps x = .next t ∧ LeftOutstanding x t sc true ps := by
  obtain ⟨a, ha, hsc, hwr, hps⟩ := h.pushAccess sc true va ps 0 0 0
  have hq := h.quiet_pushed a
  have hd : storeDone k va ps x = .next ((pushed x a).finishLong k.toNat .none (some 0) none 0 []) := by
    unfold storeDone
    dsimp only
    rw [h.drainOverlap, h.scope, ← ha]
  rw [hd]
  by_cases hk : k.toNat = 0
  · have hp : (pushed x a).me.ports = [] := by rw [pushed_me]; exact h.ports
    have hl : landed (pushed x a) 0 .none 0 = ended (pushed x a) { (pushed x a).me with nextWin := (pushed x a).me.nextWin + 1 } := rfl
    rw [hk, finishLong_due hq hp, hl, pushed_me]
    refine ⟨_, rfl, rfl, ?_, ?_, ?_, ?_, a, ?_, hsc, hwr, hps⟩
    all_goals rw [ended, me_ended]; rfl
  · rw [finishLong_open hq _ _ _ hk, pushed_me]
    refine ⟨_, rfl, rfl, ?_, ?_, ?_, ?_, a, ?_, hsc, hwr, hps⟩
    all_goals rw [me_ended]; rfl

end

/-! ### Scalar loads and stores behind C.RLX (R71, R255) -/

/-- F3 of a load by its bytes and sign extension (R255). -/
def extOf : Nat → Bool → Nat
  | 1, true => 0
  | 1, false => 1
  | 2, true => 2
  | 2, false => 3
  | 4, true => 4
  | 4, false => 5
  | _, _ => 6

/-- The bytes and sign extensions of scalar loads (R255). -/
def IsLoadSize (n : Nat) (sg : Bool) : Prop := n = 1 ∨ n = 2 ∨ n = 4 ∨ (n = 8 ∧ sg = false)

/-- The displacement of format M, scaled (R60). -/
theorem eaM_eq (s : State) (a : BitVec 5) (i : BitVec 8) (n : Nat) : s.eaM a i n = s.rg a + BitVec.ofInt 64 (i.toInt * n) := by
  rw [State.eaM, BitVec.ofInt_mul, BitVec.ofInt_natCast, BitVec.signExtend]

/-- The index of format MX, shifted (R60). -/
theorem eaX_eq (s : State) (a b : BitVec 5) (c : BitVec 3) : s.eaX a b c = s.rg a + s.rg b * 2 ^ c.toNat := by
  have h : (BitVec.twoPow 64 c.toNat : Dword) = 2 ^ c.toNat := by
    apply BitVec.eq_of_toNat_eq
    simp [BitVec.toNat_twoPow]
  rw [State.eaX, BitVec.shiftLeft_eq_mul_twoPow, h]

section
variable {s x : State} (hx : x.rg = s.rg)
include hx

theorem eaM_of_rg (a : BitVec 5) (i : BitVec 8) (n : Nat) : x.eaM a i n = s.rg a + BitVec.ofInt 64 (i.toInt * n) := by rw [eaM_eq, hx]

theorem eaX_of_rg (a b : BitVec 5) (c : BitVec 3) : x.eaX a b c = s.rg a + s.rg b * 2 ^ c.toNat := by rw [eaX_eq, hx]

theorem eaM_zero (a : BitVec 5) (n : Nat) : x.eaM a 0 n = s.rg a := by
  rw [eaM_eq, hx]
  simp

theorem relaxedMeaning_of_load {i : Instr} {d : BitVec 5} {k : BitVec 4} {va : Dword} {n : Nat} {sg : Bool}
    (h : loadOf s i = some (d, k, va, n, sg)) : relaxedMeaning i x = some (loadAt (extOf n sg) n d k va x) ∧ IsLoadSize n sg := by
  have at_ {v w : Dword} (e n : Nat) (d : BitVec 5) (k : BitVec 4) (hv : v = w) : some (loadAt e n d k v x) = some (loadAt e n d k w x) := by rw [hv]
  cases i with
  | ldS8 _ a _ i | ldZ8 _ a _ i => cases h; exact ⟨at_ _ _ _ _ (eaM_of_rg hx a i 1), .inl rfl⟩
  | ldS16 _ a _ i | ldZ16 _ a _ i => cases h; exact ⟨at_ _ _ _ _ (eaM_of_rg hx a i 2), .inr (.inl rfl)⟩
  | ldS32 _ a _ i | ldZ32 _ a _ i => cases h; exact ⟨at_ _ _ _ _ (eaM_of_rg hx a i 4), .inr (.inr (.inl rfl))⟩
  | ld64 _ a _ i => cases h; exact ⟨at_ _ _ _ _ (eaM_of_rg hx a i 8), .inr (.inr (.inr ⟨rfl, rfl⟩))⟩
  | ldxS8 _ a b _ c | ldxZ8 _ a b _ c => cases h; exact ⟨at_ _ _ _ _ (eaX_of_rg hx a b c), .inl rfl⟩
  | ldxS16 _ a b _ c | ldxZ16 _ a b _ c => cases h; exact ⟨at_ _ _ _ _ (eaX_of_rg hx a b c), .inr (.inl rfl)⟩
  | ldxS32 _ a b _ c | ldxZ32 _ a b _ c => cases h; exact ⟨at_ _ _ _ _ (eaX_of_rg hx a b c), .inr (.inr (.inl rfl))⟩
  | ldx64 _ a b _ c => cases h; exact ⟨at_ _ _ _ _ (eaX_of_rg hx a b c), .inr (.inr (.inr ⟨rfl, rfl⟩))⟩
  | cLd64 _ f => cases h; exact ⟨at_ _ _ _ _ (eaM_zero hx f 8), .inr (.inr (.inr ⟨rfl, rfl⟩))⟩
  | _ => cases h

theorem relaxedMeaning_of_store {i : Instr} {v : Dword} {k : BitVec 4} {va : Dword} {n : Nat} (h : storeOf s i = some (v, k, va, n)) :
    ∃ d, v = s.rg d ∧ relaxedMeaning i x = some (storeAt n d k va x) := by
  have at_ {v w : Dword} (n : Nat) (d : BitVec 5) (k : BitVec 4) (hv : v = w) : some (storeAt n d k v x) = some (storeAt n d k w x) := by rw [hv]
  cases i with
  | st8 d a _ i => cases h; exact ⟨d, rfl, at_ _ _ _ (eaM_of_rg hx a i 1)⟩
  | st16 d a _ i => cases h; exact ⟨d, rfl, at_ _ _ _ (eaM_of_rg hx a i 2)⟩
  | st32 d a _ i => cases h; exact ⟨d, rfl, at_ _ _ _ (eaM_of_rg hx a i 4)⟩
  | st64 d a _ i => cases h; exact ⟨d, rfl, at_ _ _ _ (eaM_of_rg hx a i 8)⟩
  | stx8 d a b _ c | stx16 d a b _ c | stx32 d a b _ c | stx64 d a b _ c => cases h; exact ⟨d, rfl, at_ _ _ _ (eaX_of_rg hx a b c)⟩
  | cSt64 r f => cases h; exact ⟨r, rfl, at_ _ _ _ (eaM_zero hx f 8)⟩
  | _ => cases h

end

/-! ### The bits of a loaded number (R3, R255) -/

theorem memRead_testBit (m : List (Nat × Byte)) (a n j : Nat) :
    (bytesNat (memRead m a n)).testBit j = if j < 8 * n then (memGet m (a + j / 8)).getLsbD (j % 8) else false := by
  induction n generalizing a j with
  | zero => simp [memRead, bytesNat]
  | succ n ih =>
    have hb : bytesNat (memRead m a (n + 1)) = 2 ^ 8 * bytesNat (memRead m (a + 1) n) + (memGet m a).toNat := by
      rw [memRead, bytesNat]; omega
    rw [hb, Nat.testBit_two_pow_mul_add _ (memGet m a).isLt]
    by_cases hj : j < 8
    · rw [if_pos hj, if_pos (by omega), Nat.div_eq_of_lt hj, Nat.mod_eq_of_lt hj, BitVec.testBit_toNat]; rfl
    · rw [if_neg hj, ih]
      have h1 : a + 1 + (j - 8) / 8 = a + j / 8 := by omega
      have h2 : (j - 8) % 8 = j % 8 := by omega
      rw [h1, h2]
      exact if_congr (by omega) rfl rfl

theorem load_lt (s : State) (loc n : Nat) : s.load loc n < 2 ^ (8 * n) :=
  Nat.lt_pow_two_of_testBit _ fun j hj => by rw [State.load, memRead_testBit, if_neg (by omega)]

theorem sext_getLsbD (v : Nat) {w : Nat} (hw : 0 < w) (j : Nat) (hj : j < 64) :
    (sext v w).getLsbD j = if j < w then v.testBit j else v.testBit (w - 1) := by
  rw [sext, BitVec.getLsbD_signExtend, decide_eq_true hj, Bool.true_and]
  split
  · rw [BitVec.getLsbD_ofNat, decide_eq_true ‹_›, Bool.true_and]
  · rw [BitVec.msb_eq_getLsbD_last, BitVec.getLsbD_ofNat, decide_eq_true (by omega), Bool.true_and]

theorem zext_getLsbD (v w j : Nat) (hj : j < 64) : (zext v w).getLsbD j = (decide (j < w) && v.testBit j) := by
  rw [zext, BitVec.getLsbD_ofNat, decide_eq_true hj, Bool.true_and, Nat.testBit_mod_two_pow]

/-- A number of some bytes, sign-extended, has the bits of memory (R3). -/
theorem sext_memBit (s : State) (loc n j : Nat) (hn : 0 < n) (hj : j < 64) :
    (sext (s.load loc n) (8 * n)).getLsbD j = memBit s.mem loc n true j := by
  have hlast : loc + (8 * n - 1) / 8 = loc + n - 1 := by omega
  have hbit : (8 * n - 1) % 8 = 7 := by omega
  rw [sext_getLsbD _ (by omega) _ hj, memBit, State.load, memRead_testBit, memRead_testBit, if_pos (show 8 * n - 1 < 8 * n by omega), hlast, hbit]
  split <;> simp [*]

theorem zext_memBit (s : State) (loc n j : Nat) (hj : j < 64) : (zext (s.load loc n) (8 * n)).getLsbD j = memBit s.mem loc n false j := by
  rw [zext_getLsbD _ _ _ hj, memBit, State.load, memRead_testBit]
  split <;> simp [*]

/-- A loaded number, extended, has the bits of memory (R255). -/
theorem loadExt_memBit (s : State) (loc : Nat) {n : Nat} {sg : Bool} (h : IsLoadSize n sg) (j : Nat) (hj : j < 64) :
    (loadExt (extOf n sg) (s.load loc n)).getLsbD j = memBit s.mem loc n sg j := by
  rcases h with rfl | rfl | rfl | ⟨rfl, rfl⟩
  case inr.inr.inr =>
    have hm := zext_memBit s loc 8 j hj
    rwa [zext, Nat.mod_eq_of_lt (load_lt s loc 8)] at hm
  all_goals
    cases sg with
    | true => exact sext_memBit s loc _ j (by decide) hj
    | false => exact zext_memBit s loc _ j hj

section
variable {s : State} {sc : BitVec 3} {i : Instr}

/-- C.RLX in front of an instruction that it permits runs that one (R71). -/
theorem exec_cRlx {o : Out} (hcause : s.follow.cause = 0) (hins : s.follow.ins = some i) (h : relaxedMeaning i (s.relaxing sc) = some o) :
    exec (.cRlx sc) s = o := by
  change execCRlx sc s = o
  unfold execCRlx
  dsimp only
  rw [if_neg (not_not_intro hcause), hins]
  change (match relaxedMeaning i (s.relaxing sc) with
    | some o => o
    | none => _) = _
  rw [h]

/-- C.RLX in front of an instruction that it does not permit traps at itself (R71). -/
theorem exec_cRlx_refused (hcause : s.follow.cause = 0) (hins : s.follow.ins = some i) (h : relaxedMeaning i (s.relaxing sc) = none) :
    exec (.cRlx sc) s = trapAt 0x007 (s.me.pc.setWidth 64) (BitVec.ofNat 64 (0x22 + sc.toNat * 64)) s := by
  change execCRlx sc s = _
  unfold execCRlx
  dsimp only
  rw [if_neg (not_not_intro hcause), hins]
  change (match relaxedMeaning i (s.relaxing sc) with
    | some o => o
    | none => _) = _
  rw [h]

theorem exec_cRlx_cause (hcause : s.follow.cause ≠ 0) :
    exec (.cRlx sc) s = trapAt s.follow.cause.toNat ((s.me.pc + 2).setWidth 64) (s.follow.bits.setWidth 64) s := if_pos hcause

/-! #### Prefixes that trap (R71 to R73) -/

/-- R71's list is what `relaxedMeaning` runs. -/
theorem relaxedMeaning_none (x : State) (h : mayBeRelaxed i = false) : relaxedMeaning i x = none := by
  cases i with
  | ldS8 | ldZ8 | ldS16 | ldZ16 | ldS32 | ldZ32 | ld64 => cases h
  | ldxS8 | ldxZ8 | ldxS16 | ldxZ16 | ldxS32 | ldxZ32 | ldx64 => cases h
  | st8 | st16 | st32 | st64 | stx8 | stx16 | stx32 | stx64 => cases h
  | cLd64 | cSt64 | vld | vst | vlds | vsts | vldx | vstx | vldb => cases h
  | _ => rfl

theorem prefixesTrap : PrefixesTrap := by
  intro s sc ht
  refine ⟨fun i hcause hins hi => ?_, fun hcause hlt => ?_⟩
  · rw [exec_cRlx_refused hcause hins (relaxedMeaning_none _ hi)]
    exact trapAt_trappable ht _ (by decide) (fun _ => by decide) _ _
  · rw [exec_cRlx_cause hcause]
    exact trapAt_trappable ht _ (by rw [ebrkCause]; omega) (fun _ => by omega) _ _

/-! #### Scalar accesses (R63, R71, R252, R255) -/

theorem locTarget_of_lt {loc : Nat} (h : loc < 2 ^ 46) : locTarget loc = .mem loc := if_pos h

/-- The state after CheckAccess behind a C.RLX: what the access needs, and what it has not touched. -/
structure Accepted (s : State) (sc : BitVec 3) (y : State) : Prop extends Relaxing y sc.toNat where
  me : y.me = s.me
  mem : y.mem = s.mem
  len : y.len = 2 + s.follow.len

variable {x : State} {va : Dword} {n kind loc : Nat} {u : State}

/-- An access behind a C.RLX that CheckAccess accepts goes on at its location. -/
theorem access_relaxing (hc : Calm s) (h : Reachable s va n kind u loc) (sc : BitVec 3) (f : Target → State → Out) :
    ∃ y, Accepted s sc y ∧ gate (s.relaxing sc) (fun s => roomGate s fun s => access va n kind s.makeRoom f) = f (.mem loc) y := by
  obtain ⟨tlb, walks, hch⟩ := check_relaxing hc h sc
  have hr := Relaxing.of_calm hc sc
  refine ⟨_, ⟨hr.tlb tlb walks, rfl, rfl, rfl⟩, ?_⟩
  rw [hr.gates, hr.makeRoom, access_of_check hch]

theorem extOf_lt (n : Nat) (sg : Bool) : extOf n sg < 7 := by
  unfold extOf
  split <;> decide

/-- One part of a scalar load gives its number, extended. -/
theorem loadParts_scalar (y : State) {ext : Nat} (he : ext < 7) (base : Vec) {loc : Nat} (hl : loc < 2 ^ 46) (n : Nat) :
    loadParts y ext base [⟨loc, n, 0⟩] = (loadExt ext (y.load loc n)).setWidth 1024 := by
  unfold loadParts
  rw [if_neg (by omega), if_neg (by omega)]
  dsimp only
  rw [locTarget_of_lt hl, State.readTarget]

theorem me_landed (s : State) (n : Nat) (x : Vec) :
    (landed s 0 (.g n) x).me = passed ({ s.me with nextWin := s.me.nextWin + 1 }.wg n (x.setWidth 64)) s.len := me_ended ..

/-- What a relaxed access leaves, seen from the C.RLX in front of it. -/
theorem LeftOutstanding.of_accepted {s y t : State} {sc : BitVec 3} {write : Bool} {ps : List Part} (hy : Accepted s sc y)
    (h : LeftOutstanding y t sc.toNat write ps) : t.mem = s.mem ∧ t.me.g = s.me.g ∧ t.me.v = s.me.v ∧
      t.me.pc = s.me.pc + 2 + BitVec.ofNat 48 s.follow.len ∧ t.me.icount = s.me.icount + 1 ∧
      ∃ a, t.me.rlx = [a] ∧ a.scope = sc.toNat ∧ a.write = write ∧ a.parts = ps := by
  obtain ⟨hm, hg, hv, hpc, hi, hacc⟩ := h
  rw [hy.me] at hg hv hpc hi
  rw [hy.len, BitVec.ofNat_add, ← BitVec.add_assoc] at hpc
  exact ⟨hm.trans hy.mem, hg, hv, hpc, hi, hacc⟩

theorem relaxedStay : RelaxedStay := by
  intro s sc i k va n u loc hc hcause hins
  refine ⟨fun d sg hl hk hr => ?_, fun d sg hl hk hr => ?_, fun x hs hr => ?_⟩
  · obtain ⟨hm, hsize⟩ := relaxedMeaning_of_load (x := s.relaxing sc) rfl hl
    obtain ⟨y, hy, ha⟩ := access_relaxing hc hr sc fun t s => loadDone k (.g d.toNat) (extOf n sg) 0 va [⟨t.loc, n, 0⟩] s
    subst hk
    have hload : y.load loc n = s.load loc n := congrArg (fun m => bytesNat (memRead m loc n)) hy.mem
    refine ⟨landed y 0 (.g d.toNat) ((loadExt (extOf n sg) (s.load loc n)).setWidth 1024), loadExt (extOf n sg) (s.load loc n),
      ?_, hy.mem, loadExt_memBit s loc hsize, ?_⟩
    · rw [exec_cRlx hcause hins hm, loadAt, ha, hy.toRelaxing.loadDone_now, Target.loc, loadParts_scalar y (extOf_lt n sg) 0 hr.2, hload]
    · rw [me_landed, hy.me, hy.len, BitVec.setWidth_setWidth_of_le _ (by decide), BitVec.setWidth_eq]
  · obtain ⟨hm, -⟩ := relaxedMeaning_of_load (x := s.relaxing sc) rfl hl
    obtain ⟨y, hy, ha⟩ := access_relaxing hc hr sc fun t s => loadDone k (.g d.toNat) (extOf n sg) 0 va [⟨t.loc, n, 0⟩] s
    obtain ⟨t, ht, ho, hw⟩ := hy.toRelaxing.loadDone_later hk (.g d.toNat) (extOf n sg) 0 va [⟨loc, n, 0⟩]
    obtain ⟨htm, htg, -, htpc, hti, a, hacc, hsc, hwr, hps⟩ := ho.of_accepted hy
    rw [hy.me] at hw
    exact ⟨t, a, by rw [exec_cRlx hcause hins hm, loadAt, ha, Target.loc, ht], htm, htg, htpc, hti, hacc, hsc, hwr, hps, hw⟩
  · obtain ⟨d, rfl, hm⟩ := relaxedMeaning_of_store (x := s.relaxing sc) rfl hs
    obtain ⟨y, hy, ha⟩ := access_relaxing hc hr sc fun t s => storeDone k va [⟨t.loc, n, s.rg d⟩] s
    obtain ⟨t, ht, ho⟩ := hy.toRelaxing.storeDone_later k va [⟨loc, n, s.rg d⟩]
    obtain ⟨htm, htg, -, htpc, hti, a, hacc, hsc, hwr, hps⟩ := ho.of_accepted hy
    have hrg : y.rg d = s.rg d := congrArg (fun b => b.rg d.toNat) hy.me
    exact ⟨t, a, by rw [exec_cRlx hcause hins hm, storeAt, ha, Target.loc, hrg, ht], htm, htg, htpc, hti, hacc, hsc, hwr, hps⟩

end

/-! ### 32-bit lanes of a vector (R256) -/

/-- Active lanes in rising order, each with what belongs to it. -/
def laneList {α : Type} (n : Nat) (q : Nat → Bool) (g : Nat → α) : List (Nat × α) := ((List.range n).filter q).map (fun i => (i, g i))

theorem laneList_succ {α : Type} (n : Nat) (q : Nat → Bool) (g : Nat → α) :
    laneList (n + 1) q g = laneList n q g ++ if q n then [(n, g n)] else [] := by
  unfold laneList
  rw [List.range_succ, List.filter_append, List.map_append]
  cases hq : q n <;> simp [hq]

theorem mem_laneList {α : Type} {n : Nat} {q : Nat → Bool} {g : Nat → α} {p : Nat × α} (h : p ∈ laneList n q g) : p.1 < n ∧ q p.1 ∧ p.2 = g p.1 := by
  simp only [laneList, List.mem_map, List.mem_filter, List.mem_range] at h
  obtain ⟨i, ⟨hi, hq⟩, rfl⟩ := h
  exact ⟨hi, hq, rfl⟩

theorem find_laneList {α : Type} (n : Nat) (q : Nat → Bool) (g : Nat → α) (j : Nat) :
    (laneList n q g).find? (fun p => p.1 = j) = if j < n ∧ q j then some (j, g j) else none := by
  induction n with
  | zero => rfl
  | succ n ih =>
    rw [laneList_succ, List.find?_append, ih]
    grind

/-- A vector with the listed lanes written. -/
def setLanes (l : List (Nat × Nat)) (x : Vec) : Vec := l.foldl (fun x p => setLane32 x p.1 p.2) x

/-- A field of a number replaced, bit by bit. -/
theorem replaced_testBit (x k w v q : Nat) :
    (x - x / 2 ^ k % 2 ^ w * 2 ^ k + v % 2 ^ w * 2 ^ k).testBit q = if k ≤ q ∧ q < k + w then v.testBit (q - k) else x.testBit q := by
  have hx : x = 2 ^ k * (2 ^ w * (x / 2 ^ k / 2 ^ w) + x / 2 ^ k % 2 ^ w) + x % 2 ^ k := by
    rw [Nat.div_add_mod, Nat.div_add_mod]
  have hnew : x - x / 2 ^ k % 2 ^ w * 2 ^ k + v % 2 ^ w * 2 ^ k = 2 ^ k * (2 ^ w * (x / 2 ^ k / 2 ^ w) + v % 2 ^ w) + x % 2 ^ k := by
    have hx' : x = 2 ^ k * (2 ^ w * (x / 2 ^ k / 2 ^ w)) + x / 2 ^ k % 2 ^ w * 2 ^ k + x % 2 ^ k := by
      rw [Nat.mul_comm (x / 2 ^ k % 2 ^ w), ← Nat.mul_add]; exact hx
    rw [Nat.mul_add, Nat.mul_comm (2 ^ k) (v % 2 ^ w)]
    generalize 2 ^ k * (2 ^ w * (x / 2 ^ k / 2 ^ w)) = hi at *
    generalize x / 2 ^ k % 2 ^ w * 2 ^ k = mid at *
    generalize v % 2 ^ w * 2 ^ k = new at *
    generalize x % 2 ^ k = lo at *
    omega
  have hlo : x % 2 ^ k < 2 ^ k := Nat.mod_lt _ (Nat.two_pow_pos k)
  have hmid (y : Nat) : y % 2 ^ w < 2 ^ w := Nat.mod_lt _ (Nat.two_pow_pos w)
  conv_rhs => rw [hx]
  rw [hnew, Nat.testBit_two_pow_mul_add _ hlo, Nat.testBit_two_pow_mul_add _ hlo, Nat.testBit_two_pow_mul_add _ (hmid v),
    Nat.testBit_two_pow_mul_add _ (hmid (x / 2 ^ k)), Nat.testBit_mod_two_pow]
  grind

theorem setLane32_getLsbD (x : Vec) {i : Nat} (hi : i < 32) (v q : Nat) :
    (setLane32 x i v).getLsbD q = if 32 * i ≤ q ∧ q < 32 * i + 32 then v.testBit (q - 32 * i) else x.getLsbD q := by
  have hlt : q < 1024 ∨ 1024 ≤ q := by omega
  rw [setLane32, setVecBytes, show 8 * (4 * i) = 32 * i by omega, show 8 * 4 = 32 from rfl, BitVec.getLsbD_ofNat, replaced_testBit,
    BitVec.testBit_toNat]
  rcases hlt with hlt | hge
  · rw [decide_eq_true hlt, Bool.true_and]
  · rw [decide_eq_false (by omega), Bool.false_and, if_neg (by omega), BitVec.getLsbD_of_ge _ _ hge]

/-- Bits of a vector whose active lanes were written. -/
theorem setLanes_getLsbD {n : Nat} (hn : n ≤ 32) (q : Nat → Bool) (v : Nat → Nat) (x : Vec) (j b : Nat) (hb : b < 32) :
    (setLanes (laneList n q v) x).getLsbD (32 * j + b) = if j < n ∧ q j then (v j).testBit b else x.getLsbD (32 * j + b) := by
  induction n with
  | zero => rfl
  | succ n ih =>
    rw [laneList_succ, setLanes, List.foldl_append]
    change (List.foldl _ (setLanes (laneList n q v) x) _).getLsbD _ = _
    cases hq : q n with
    | false =>
      simp only [Bool.false_eq_true, if_false, List.foldl_nil]
      rw [ih (by omega)]
      grind
    | true =>
      simp only [if_true, List.foldl_cons, List.foldl_nil]
      rw [setLane32_getLsbD _ (by omega), ih (by omega)]
      by_cases hj : j = n
      · subst hj
        rw [if_pos (by omega), if_pos ⟨by omega, hq⟩]
        congr 1
        omega
      · rw [if_neg (by omega)]
        grind

/-! ### Vector accesses behind C.RLX (R71, R252, R256) -/

section
variable {x : State} {sc : Nat} (h : Relaxing x sc)
include h

theorem Relaxing.portOf (r : BitVec 5) : x.me.portOf r = none := by
  have hp : x.me.port (r.toNat - 28) = none := congrArg (tfind · _) h.ports
  unfold Bank.portOf
  rw [hp]
  exact ite_self none

theorem Relaxing.srcPorts (srcs : List (BitVec 5)) : x.me.srcPorts srcs = [] := by
  unfold Bank.srcPorts
  simp only [h.portOf]
  rw [List.filterMap_eq_nil_iff.2 fun _ _ => rfl]
  rfl

/-- No register of the thread is a bound port, so that no vector operand waits (R329). -/
theorem Relaxing.vecGate (srcs : List (BitVec 5)) (dst : Option (BitVec 5)) (f : State → Out) : vecGate srcs dst x f = f x := by
  have hd : dst.bind x.me.portOf = none := by cases dst <;> simp [h.portOf]
  unfold Machine.vecGate
  dsimp only
  rw [h.srcPorts, hd]
  rfl

theorem Relaxing.rv (r : BitVec 5) : x.rv r = x.me.rv r.toNat := by
  rw [State.rv, h.portOf]

theorem Relaxing.useCredit (d : BitVec 5) : x.useCredit d = x := by
  rw [State.useCredit, h.portOf]

theorem Relaxing.takeEntries (srcs : List (BitVec 5)) : x.takeEntries srcs = (x.setMe x.me, []) := by
  unfold State.takeEntries
  rw [h.srcPorts]
  rfl

theorem Relaxing.usePorts (srcs : List (BitVec 5)) : x.usePorts srcs = x.setMe x.me := by
  unfold State.usePorts
  rw [h.srcPorts]
  rfl

/-- Its own bank put back changes nothing that a relaxed access needs. -/
theorem Relaxing.setMe_self : Relaxing (x.setMe x.me) sc := by
  obtain ⟨hw, hf, hc, hr⟩ := quiet_setMe h.toQuiet x.me rfl rfl rfl rfl
  have ha : (x.setMe x.me).acqHeld (x.setMe x.me).curRef = false := by
    unfold State.acqHeld
    rw [State.curRef_setMe, State.bank_setMe]
    exact h.acq
  have hm : (x.setMe x.me).me = x.me := State.me_setMe ..
  exact { wins := hw, frame := hf, fresh := hc, reply := hr, scope := h.scope, rlx := by rw [hm]; exact h.rlx, acq := ha
          ports := by rw [hm]; exact h.ports, rings := h.rings, intact := h.intact }

end

/-- The parts of lanes at their locations (R256). -/
def laneParts (at_ : Dword → Nat) (data : Nat → Dword) (lanes : List (Nat × Dword)) : List Part :=
  lanes.map (fun p => ⟨at_ p.2, 4, data p.1⟩)

theorem accessLanes_of_check {x : State} {kind : Nat} {at_ : Dword → Nat} (data : Nat → Dword) (lanes : List (Nat × Dword)) (ps : List Part)
    (f : List Part → State → Out) (h : ∀ p ∈ lanes, x.check x.req p.2.toNat 4 kind = (x, .ok (.mem (at_ p.2)))) :
    accessLanes kind data lanes ps x f = f (ps ++ laneParts at_ data lanes) x := by
  induction lanes generalizing ps with
  | nil => rw [accessLanes, laneParts, List.map_nil, List.append_nil]
  | cons p lanes ih =>
    rw [accessLanes, access_of_check (h p (List.mem_cons_self ..)), ih _ fun q hq => h q (List.mem_cons_of_mem _ hq), Target.loc,
      List.append_assoc]
    rfl

/-- What a thread reaches with no new translation, it reaches so behind C.RLX. -/
theorem check_relaxing_cached {s : State} {va : Dword} {n kind loc : Nat} (h : Reachable s va n kind s loc) (sc : BitVec 3) :
    (s.relaxing sc).check (s.relaxing sc).req va.toNat n kind = (s.relaxing sc, .ok (.mem loc)) := by
  have hn := s.check_noting (s.relaxing sc).notes s.req va.toNat n kind
  rw [h.1] at hn
  exact hn

section
variable {s : State} (hc : Calm s) (sc : BitVec 3) (k : BitVec 4) (srcs : List (BitVec 5)) (d : BitVec 5) {p : Nat × Dword} {lanes : List (Nat × Dword)}
  {at_ : Dword → Nat}
include hc

theorem accepted_setMe : Accepted s sc ((s.relaxing sc).setMe (s.relaxing sc).me) :=
  ⟨(Relaxing.of_calm hc sc).setMe_self, State.me_setMe .., rfl, rfl⟩

theorem vloadAt_relaxing (h : ∀ q ∈ p :: lanes, Reachable s q.2 4 0 s (at_ q.2)) :
    vloadAt srcs d k (p :: lanes) (s.relaxing sc) = loadDone k (.v d.toNat) 7 (s.me.rv d.toNat) p.2
      (laneParts at_ (fun i => BitVec.ofNat 64 i) (p :: lanes)) ((s.relaxing sc).setMe (s.relaxing sc).me) [] := by
  have hr := Relaxing.of_calm hc sc
  unfold vloadAt
  rw [hr.gates, hr.makeRoom, accessLanes_of_check _ _ _ _ fun q hq => check_relaxing_cached (h q hq) sc, hr.takeEntries]
  dsimp only
  rw [hr.setMe_self.useCredit]
  rfl

theorem vstoreAt_relaxing (h : ∀ q ∈ p :: lanes, Reachable s q.2 4 1 s (at_ q.2)) :
    vstoreAt srcs d k (p :: lanes) (s.relaxing sc) = storeDone k p.2
      (laneParts at_ (fun i => BitVec.ofNat 64 (src s d 32 i)) (p :: lanes)) ((s.relaxing sc).setMe (s.relaxing sc).me) := by
  have hr := Relaxing.of_calm hc sc
  unfold vstoreAt
  dsimp only
  rw [hr.gates, hr.makeRoom, accessLanes_of_check _ _ _ _ fun q hq => check_relaxing_cached (h q hq) sc, hr.usePorts, hr.rv]
  rfl

end

/-! #### Which lanes are active (R256) -/

theorem vl_cases (s : State) : s.vl = 512 ∨ s.vl = 1024 := by
  unfold State.vl vlBits
  split
  · exact .inl rfl
  · exact .inr rfl

theorem lanes_le (s : State) : s.vl / 32 ≤ 32 := by
  rcases vl_cases s with h | h <;> simp [h]

/-- A lane of a mask of R256: every one where B is 0. -/
def maskBit (s : State) (b : BitVec 5) (i : Nat) : Bool := b == 0 || (s.rg b).getLsbD i

theorem consecutive_eq (s : State) (a b : BitVec 5) :
    consecutive s a b = laneList (s.vl / 32) (maskBit s b) (fun i => s.rg a + BitVec.ofNat 64 (4 * i)) := by
  unfold consecutive laneList
  refine congrArg (List.map _) (List.filter_congr fun i _ => ?_)
  simp only [maskBit, Bool.decide_or, Bool.decide_eq_true]
  rfl

theorem unitLanes_eq (s : State) (a b : BitVec 5) : unitLanes a b s = consecutive s a b := (consecutive_eq s a b).symm

/-- The stride of a strided access, in either writing (R256). -/
theorem stride_eq (x : Dword) (i : Nat) : BitVec.ofNat 64 i * sext (dfld x 31 0) 32 = BitVec.ofInt 64 (i * (x.setWidth 32).toInt) := by
  have hx : BitVec.ofNat 32 (dfld x 31 0) = x.setWidth 32 := by
    apply BitVec.eq_of_toNat_eq
    simp [dfld, fld]
  rw [sext, hx, BitVec.ofInt_mul, BitVec.ofInt_natCast, BitVec.signExtend]

theorem strideLanes_eq (s : State) (a b : BitVec 5) : strideLanes a b s = strided s a b := by
  have hc : dfld (s.rg b) 47 32 = (s.rg b).toNat / 2 ^ 32 % 2 ^ 16 := rfl
  unfold strideLanes strided
  simp only [stride_eq, hc]
  rfl

theorem indexLanes_eq {x : State} {sc : Nat} (h : Relaxing x sc) (a b : BitVec 5) : indexLanes a b x = indexed x a b := by
  unfold indexLanes indexed
  rw [h.rv]
  refine congrArg (List.map _) (List.filter_congr fun i _ => ?_)
  change (!decide (src x b 32 i = 0xFFFFFFFF)) = decide (src x b 32 i ≠ 0xFFFFFFFF)
  rw [decide_not]

/-- The active lanes of a vector memory instruction, in one form. -/
theorem laneAccess_lanes {s : State} {i : Instr} {f : LaneAccess} (h : laneAccess s i = some f) :
    ∃ q g, f.lanes = laneList (s.vl / 32) q g := by
  cases i with
  | vld d a b k | vst d a b k => cases h; exact ⟨_, _, consecutive_eq s a b⟩
  | vlds d a b k | vsts d a b k => obtain ⟨-, hf⟩ := Option.ite_none_right_eq_some.1 h; cases hf; exact ⟨_, _, rfl⟩
  | vldx d a b k | vstx d a b k => cases h; exact ⟨_, _, rfl⟩
  | vldb d a b k =>
    cases h
    refine ⟨maskBit s b, fun _ => s.rg a, ?_⟩
    rw [consecutive_eq, laneList, List.map_map]
    rfl
  | _ => cases h

/-! #### What the lanes load (R256) -/

/-- A vector whose active lanes are the words at their locations is what the access loads. -/
theorem lanesLoaded_of_bits {s : State} {f : LaneAccess} {at_ : Dword → Nat} {q : Nat → Bool} {g : Nat → Dword} {x : Vec}
    (hl : f.lanes = laneList (s.vl / 32) q g)
    (h : ∀ j b, b < 32 → x.getLsbD (32 * j + b) =
      if j < s.vl / 32 ∧ q j then (s.load (at_ (g j)) 4).testBit b else (s.me.rv f.reg.toNat).getLsbD (32 * j + b)) :
    lanesLoaded s f at_ x := by
  have hlane (y : Vec) (j b : Nat) (hb : b < 32) : (laneOf y 32 j).testBit b = y.getLsbD (32 * j + b) := by
    rw [laneOf, Nat.testBit_mod_two_pow, decide_eq_true hb, Bool.true_and, Nat.testBit_div_two_pow, Nat.add_comm, BitVec.testBit_toNat]
  have hword (loc b : Nat) (hb : b < 32) : memBit s.mem loc 4 false b = (s.load loc 4).testBit b := by
    rw [State.load, memRead_testBit, memBit, if_pos (by omega), if_pos (by omega)]
  refine ⟨fun j hj b hb => ?_, fun b hb => ?_⟩
  · rw [hlane _ _ _ hb, h j b hb, hl, find_laneList]
    by_cases hq : j < s.vl / 32 ∧ q j
    · rw [if_pos hq, if_pos hq]
      exact (hword _ _ hb).symm
    · rw [if_neg hq, if_neg hq, src, hlane _ _ _ hb]
  · have hj : ¬ (b / 32 < s.vl / 32 ∧ q (b / 32)) := by
      rintro ⟨hlt, -⟩
      rcases vl_cases s with hv | hv <;> rw [hv] at hb hlt <;> omega
    have hb' := h (b / 32) (b % 32) (Nat.mod_lt _ (by decide))
    rwa [if_neg hj, Nat.div_add_mod] at hb'

theorem loadLanes_eq (y : State) (at_ : Dword → Nat) (lanes : List (Nat × Dword)) (x : Vec)
    (h : ∀ p ∈ lanes, p.1 < 2 ^ 64 ∧ at_ p.2 < 2 ^ 46) :
    loadLanes y (laneParts at_ (fun i => BitVec.ofNat 64 i) lanes) x = setLanes (lanes.map (fun p => (p.1, y.load (at_ p.2) 4))) x := by
  induction lanes generalizing x with
  | nil => rfl
  | cons p lanes ih =>
    obtain ⟨hp, hl⟩ := h p (List.mem_cons_self ..)
    rw [laneParts, List.map_cons, loadLanes]
    dsimp only
    rw [locTarget_of_lt hl, State.readTarget, BitVec.toNat_ofNat, Nat.mod_eq_of_lt hp]
    exact ih _ fun q hq => h q (List.mem_cons_of_mem _ hq)

theorem setLanes_of_laneList (y : State) (at_ : Dword → Nat) (n : Nat) (q : Nat → Bool) (g : Nat → Dword) :
    (laneList n q g).map (fun p => (p.1, y.load (at_ p.2) 4)) = laneList n q (fun j => y.load (at_ (g j)) 4) := by
  rw [laneList, List.map_map]
  rfl

theorem spread_eq (m : Dword) (w : Nat) (x : Vec) : spread m w x = setLanes (laneList 32 m.getLsbD (fun _ => w)) x := by
  rw [spread, setLanes, laneList, List.foldl_map, List.foldl_filter]

/-- The mask of some lanes. -/
theorem laneMask_getLsbD (l : List Nat) (m : Dword) (j : Nat) (hj : j < 64) :
    (l.foldl (fun m i => m ||| (1#64 <<< i)) m).getLsbD j = (m.getLsbD j || l.contains j) := by
  induction l generalizing m with
  | nil => simp
  | cons i l ih =>
    have h1 : (1#64 <<< i).getLsbD j = (j == i) := by
      rw [← BitVec.twoPow_eq, BitVec.getLsbD_twoPow]
      grind
    rw [List.foldl_cons, ih, BitVec.getLsbD_or, h1, List.contains_cons, Bool.or_assoc]

/-- Parts that are the words of lanes, and of nothing else (R256). -/
def CoversLanes (at_ : Dword → Nat) (lanes : List (Nat × Dword)) (ps : List Part) : Prop :=
  (∀ p ∈ ps, p.size = 4) ∧ ∀ loc, (∃ p ∈ ps, p.loc = loc) ↔ ∃ p ∈ lanes, at_ p.2 = loc

theorem laneParts_covers (at_ : Dword → Nat) (data : Nat → Dword) (lanes : List (Nat × Dword)) : CoversLanes at_ lanes (laneParts at_ data lanes) := by
  refine ⟨fun p hp => ?_, fun loc => by simp [laneParts]⟩
  obtain ⟨_, -, rfl⟩ := List.mem_map.1 hp
  rfl

/-- What a vector load behind C.RLX does, whatever its form: its lanes' words, and the register that they give (R71, R256). -/
def LoadsLanes (s : State) (sc : BitVec 3) (at_ : Dword → Nat) (f : LaneAccess) (o : Out) : Prop :=
  ∃ y ext va ps, Accepted s sc y ∧ o = loadDone f.k (.v f.reg.toNat) ext (s.me.rv f.reg.toNat) va ps y [] ∧ CoversLanes at_ f.lanes ps ∧
    lanesLoaded s f at_ (loadParts y ext (s.me.rv f.reg.toNat) ps)

theorem loadParts_lanes (y : State) (base : Vec) (ps : List Part) : loadParts y 7 base ps = loadLanes y ps base := rfl

theorem loadParts_spread (y : State) (base : Vec) {loc : Nat} (hl : loc < 2 ^ 46) (m : Dword) :
    loadParts y 8 base [⟨loc, 4, m⟩] = spread m (y.load loc 4) base := by
  change spread m (y.readTarget (locTarget loc) 4) base = _
  rw [locTarget_of_lt hl, State.readTarget]

section
variable {s : State} {sc : BitVec 3} {at_ : Dword → Nat} (hc : Calm s)
include hc

theorem accepted_relaxing : Accepted s sc (s.relaxing sc) := ⟨Relaxing.of_calm hc sc, rfl, rfl, rfl⟩

theorem loadsLanes_of_vloadAt {srcs : List (BitVec 5)} {f : LaneAccess} {q : Nat → Bool} {g : Nat → Dword} (hl : f.lanes = laneList (s.vl / 32) q g)
    (hne : f.lanes ≠ []) (hr : ∀ p ∈ f.lanes, Reachable s p.2 4 0 s (at_ p.2)) :
    LoadsLanes s sc at_ f (vloadAt srcs f.reg f.k f.lanes (s.relaxing sc)) := by
  obtain ⟨p, lanes, hp⟩ := List.exists_cons_of_ne_nil hne
  refine ⟨_, 7, p.2, laneParts at_ (fun i => BitVec.ofNat 64 i) f.lanes, accepted_setMe hc sc, ?_, laneParts_covers .., ?_⟩
  · rw [hp]
    exact vloadAt_relaxing hc sc f.k srcs f.reg (hp ▸ hr)
  · have hsmall : ∀ p ∈ laneList (s.vl / 32) q g, p.1 < 2 ^ 64 ∧ at_ p.2 < 2 ^ 46 := fun p hp => by
      have h1 := (mem_laneList hp).1
      have h2 := lanes_le s
      exact ⟨by omega, (hr p (hl ▸ hp)).2⟩
    refine lanesLoaded_of_bits hl fun j b hb => ?_
    rw [loadParts_lanes, hl, loadLanes_eq _ at_ _ _ hsmall, setLanes_of_laneList, setLanes_getLsbD (lanes_le s) _ _ _ _ _ hb]
    rfl

/-- VLDB reads one word into every active lane (R256). -/
theorem loadsLanes_of_vldb {d a b : BitVec 5} {k : BitVec 4}
    (hne : (consecutive s a b).map (fun p => (p.1, s.rg a)) ≠ []) (hr : Reachable s (s.rg a) 4 0 s (at_ (s.rg a))) :
    LoadsLanes s sc at_ ⟨k, d, false, (consecutive s a b).map (fun p => (p.1, s.rg a))⟩ (execVldb d a b k (s.relaxing sc)) := by
  have hx := (accepted_relaxing (sc := sc) hc).toRelaxing
  have hlist : (consecutive s a b).map (fun p => (p.1, s.rg a)) = laneList (s.vl / 32) (maskBit s b) (fun _ => s.rg a) := by
    rw [consecutive_eq, laneList, laneList, List.map_map]; rfl
  have hmask : maskLanes (s.relaxing sc).lanes32 b ((s.relaxing sc).rg b) ≠ [] := by
    intro hm
    rw [hlist, laneList] at hne
    exact hne (by rw [show (List.range (s.vl / 32)).filter (maskBit s b) = [] from hm]; rfl)
  obtain ⟨i, is, hi⟩ := List.exists_cons_of_ne_nil hmask
  refine ⟨_, 8, s.rg a, [⟨at_ (s.rg a), 4, (i :: is).foldl (fun m i => m ||| (1#64 <<< i)) 0⟩], accepted_relaxing hc, ?_, ⟨?_, fun loc => ?_⟩, ?_⟩
  · rw [execVldb, hx.vecGate, hi]
    dsimp only
    rw [hx.gates, hx.makeRoom]
    refine (access_of_check (check_relaxing_cached hr sc) _).trans ?_
    rw [hx.useCredit]
    rfl
  · simp
  · obtain ⟨p, hp⟩ := List.exists_mem_of_ne_nil _ hne
    have hall : ∀ p ∈ (consecutive s a b).map (fun p => (p.1, s.rg a)), p.2 = s.rg a := fun p hp => (mem_laneList (hlist ▸ hp)).2.2
    constructor
    · rintro ⟨_, hq, rfl⟩
      cases List.mem_singleton.1 hq
      exact ⟨p, hp, by rw [hall p hp]⟩
    · rintro ⟨q, hq, rfl⟩
      exact ⟨_, List.mem_singleton.2 rfl, by rw [hall q hq]⟩
  · refine lanesLoaded_of_bits hlist fun j b' hb => ?_
    have hbit (j : Nat) (hj : j < 64) : ((i :: is).foldl (fun m i => m ||| (1#64 <<< i)) 0).getLsbD j = true ↔ j < s.vl / 32 ∧ maskBit s b j := by
      have h0 : (0 : Dword).getLsbD j = false := by simp
      rw [laneMask_getLsbD _ _ _ hj, ← hi, h0, Bool.false_or, List.contains_iff_mem]
      exact List.mem_filter.trans (and_congr_left fun _ => List.mem_range)
    have hle := lanes_le s
    have hact : j < 32 ∧ ((i :: is).foldl (fun m i => m ||| (1#64 <<< i)) 0).getLsbD j = true ↔ j < s.vl / 32 ∧ maskBit s b j :=
      ⟨fun h => (hbit j (by omega)).1 h.2, fun h => ⟨by omega, (hbit j (by omega)).2 h⟩⟩
    rw [loadParts_spread _ _ hr.2, spread_eq, setLanes_getLsbD (Nat.le_refl 32) _ _ _ _ _ hb]
    exact if_congr hact rfl rfl

omit hc in
theorem strideField_zero {x : Dword} (h : x.toNat / 2 ^ 48 = 0) : ¬ dfld x 63 48 ≠ 0 := by
  change ¬ x.toNat / 2 ^ 48 % 2 ^ 16 ≠ 0
  rw [h]
  decide

/-- Every vector load behind a C.RLX loads its lanes. -/
theorem relaxedMeaning_of_laneLoad {i : Instr} {f : LaneAccess} (hf : laneAccess s i = some f) (hst : f.store = false) (hne : f.lanes ≠ [])
    (hr : ∀ p ∈ f.lanes, Reachable s p.2 4 0 s (at_ p.2)) : ∃ o, relaxedMeaning i (s.relaxing sc) = some o ∧ LoadsLanes s sc at_ f o := by
  have hx := (accepted_relaxing (sc := sc) hc).toRelaxing
  obtain ⟨q, g, hl⟩ := laneAccess_lanes hf
  have hv {srcs : List (BitVec 5)} := loadsLanes_of_vloadAt (sc := sc) (srcs := srcs) hc hl hne hr
  cases i with
  | vld d a b k =>
    cases hf
    refine ⟨_, rfl, ?_⟩
    rw [execVld, hx.vecGate, unitLanes_eq]
    exact hv
  | vlds d a b k =>
    obtain ⟨hb, hf⟩ := Option.ite_none_right_eq_some.1 hf
    cases hf
    refine ⟨_, rfl, ?_⟩
    rw [execVlds, hx.vecGate, if_neg (strideField_zero (x := (s.relaxing sc).rg b) hb), strideLanes_eq]
    exact hv
  | vldx d a b k =>
    cases hf
    refine ⟨_, rfl, ?_⟩
    rw [execVldx, hx.vecGate, indexLanes_eq hx]
    exact hv
  | vldb d a b k =>
    cases hf
    obtain ⟨p, hp⟩ := List.exists_mem_of_ne_nil _ hne
    have hpa : p.2 = s.rg a := by obtain ⟨_, -, rfl⟩ := List.mem_map.1 hp; rfl
    exact ⟨_, rfl, loadsLanes_of_vldb hc hne (hpa ▸ hr p hp)⟩
  | vst | vstx => cases hf; cases hst
  | vsts => obtain ⟨-, hf⟩ := Option.ite_none_right_eq_some.1 hf; cases hf; cases hst
  | _ => cases hf

/-- Every vector store behind a C.RLX stores its lanes in rising order. -/
theorem relaxedMeaning_of_laneStore {i : Instr} {f : LaneAccess} (hf : laneAccess s i = some f) (hst : f.store = true) (hne : f.lanes ≠ [])
    (hr : ∀ p ∈ f.lanes, Reachable s p.2 4 1 s (at_ p.2)) : ∃ y va, Accepted s sc y ∧
      relaxedMeaning i (s.relaxing sc) = some (storeDone f.k va (laneParts at_ (fun i => BitVec.ofNat 64 (src s f.reg 32 i)) f.lanes) y) := by
  have hx := (accepted_relaxing (sc := sc) hc).toRelaxing
  obtain ⟨p, lanes, hp⟩ := List.exists_cons_of_ne_nil hne
  refine ⟨_, p.2, accepted_setMe hc sc, ?_⟩
  have hv (srcs : List (BitVec 5)) := vstoreAt_relaxing hc sc f.k srcs f.reg (hp ▸ hr)
  rw [← hp] at hv
  cases i with
  | vst d a b k =>
    cases hf
    rw [← hv [d]]
    refine congrArg some ?_
    rw [execVst, hx.vecGate, unitLanes_eq]
    rfl
  | vsts d a b k =>
    obtain ⟨hb, hf⟩ := Option.ite_none_right_eq_some.1 hf
    cases hf
    rw [← hv [d]]
    refine congrArg some ?_
    rw [execVsts, hx.vecGate, if_neg (strideField_zero (x := (s.relaxing sc).rg b) hb), strideLanes_eq]
    rfl
  | vstx d a b k =>
    cases hf
    rw [← hv [d, b]]
    refine congrArg some ?_
    rw [execVstx, hx.vecGate, indexLanes_eq hx]
    rfl
  | vld | vldx | vldb => cases hf; cases hst
  | vlds => obtain ⟨-, hf⟩ := Option.ite_none_right_eq_some.1 hf; cases hf; cases hst
  | _ => cases hf

end

/-! #### Vector accesses stay outstanding (R71, R252, R256) -/

theorem me_landed_vector (s : State) (n : Nat) (x : Vec) :
    (landed s 0 (.v n) x).me = passed ({ s.me with nextWin := s.me.nextWin + 1 }.wv n x) s.len := me_ended ..

theorem relaxedLanesStay : RelaxedLanesStay := by
  intro s sc i f at_ hc hcause hins hf hne hr
  refine ⟨fun hst hk => ?_, fun hsk => ?_⟩
  · rw [hst] at hr
    obtain ⟨o, hm, y, ext, va, ps, hy, ho, -, hl⟩ := relaxedMeaning_of_laneLoad (sc := sc) hc hf hst hne hr
    refine ⟨landed y 0 (.v f.reg.toNat) (loadParts y ext (s.me.rv f.reg.toNat) ps), _, ?_, hy.mem, hl, ?_⟩
    · rw [exec_cRlx hcause hins hm, ho, hk, hy.toRelaxing.loadDone_now]
    · rw [me_landed_vector, hy.me, hy.len]
  · cases hst : f.store with
    | true =>
      rw [hst] at hr
      obtain ⟨y, va, hy, hm⟩ := relaxedMeaning_of_laneStore (sc := sc) hc hf hst hne hr
      obtain ⟨t, ht, ho⟩ := hy.toRelaxing.storeDone_later f.k va (laneParts at_ (fun i => BitVec.ofNat 64 (src s f.reg 32 i)) f.lanes)
      obtain ⟨htm, htg, htv, htpc, hti, a, hacc, hsc, hwr, hps⟩ := ho.of_accepted hy
      obtain ⟨hsize, hloc⟩ := laneParts_covers at_ (fun i => BitVec.ofNat 64 (src s f.reg 32 i)) f.lanes
      rw [← hps] at hsize hloc
      exact ⟨t, a, by rw [exec_cRlx hcause hins hm, ht], htm, htg, htv, htpc, hti, hacc, hsc, hwr, hsize, hloc, fun _ => hps, nofun⟩
    | false =>
      have hk : f.k ≠ 0 := hsk.resolve_left (by rw [hst]; decide)
      rw [hst] at hr
      obtain ⟨o, hm, y, ext, va, ps, hy, hload, ⟨hsize, hloc⟩, -⟩ := relaxedMeaning_of_laneLoad (sc := sc) hc hf hst hne hr
      obtain ⟨t, ht, ho, hw⟩ := hy.toRelaxing.loadDone_later hk (.v f.reg.toNat) ext (s.me.rv f.reg.toNat) va ps
      obtain ⟨htm, htg, htv, htpc, hti, a, hacc, hsc, hwr, hps⟩ := ho.of_accepted hy
      rw [hy.me] at hw
      rw [← hps] at hsize hloc
      exact ⟨t, a, by rw [exec_cRlx hcause hins hm, hload, ht], htm, htg, htv, htpc, hti, hacc, hsc, hwr, hsize, hloc, nofun, fun _ => hw⟩

end Sys2Proof.Machine

/-- Settles O20. Behind C.RLX the memory instruction runs with the scope noted; a calm thread's access passes every gate and joins its empty list, or, with
LK = 0, is performed as it issues; what R71 does not list has no relaxed meaning and traps. -/
theorem Sys2Proof.relaxedAccessesStayOutstanding : Obligations.RelaxedAccessesStayOutstanding :=
  ⟨Machine.relaxedStay, Machine.relaxedLanesStay, Machine.prefixesTrap⟩

/-! ## The record of a thread that waits too long

The park watchdog's record names the launch of the thread (R393, R404). A job number of more than 16 bits, which the state can hold and which no packet
gives, runs into the detail of that record as it does in the record of a line that cannot be read. -/

namespace Sys2Proof.Machine

/-- A thread of the launch with the wide job number that has waited in MWAIT since time 0, TWAIT ago. -/
def parkedOfWideJob : State :=
  { State.reset with
    launches := [wideJobLaunch], tasks := [scratchTask], boot := { dtb := 100000000 }
    ctxs := [(0, { b0 := { seeded := true, task := 1, wait := some .mwait } })] }

/-- The park watchdog's record of it. -/
theorem parkedOfWideJob_log {t : State} (h : exec (.parkWatchdog 0 0 0) parkedOfWideJob = .next t) :
    t.log.lost = false ∧ (tget 0 t.log.recs 0).extractLsb' 320 64 ≠ 0 := by
  cases h
  decide +kernel

/-- The job number makes the detail of the record 0x305 differ from the PC, which is 0. -/
theorem not_killsAndWatchdogs : ¬ KillsAndWatchdogs := by
  intro h
  obtain ⟨-, hpark, -⟩ := h parkedOfWideJob
  obtain ⟨-, hexpired⟩ := hpark 0 0 0 .mwait (by decide) (by decide) rfl rfl (by decide)
  obtain ⟨t, hexec, -, -, -, hrecord⟩ := hexpired rfl (by decide)
  obtain ⟨hkept, hdetail⟩ := parkedOfWideJob_log hexec
  exact hdetail (hrecord.detail hkept)

end Sys2Proof.Machine

/-- Refutes O46: the statement does not ask that a launch's numbers fit the fields of a record (R393), and the park watchdog's record names the launch
of the thread (`Machine.not_killsAndWatchdogs`). -/
theorem Sys2Proof.not_workIsPreemptedAndWatched : ¬ Obligations.WorkIsPreemptedAndWatched :=
  fun h => Machine.not_killsAndWatchdogs h.2.2

/-! ## What queues do with their instructions

A queue's accesses read and translate, and in intact memory nothing else (R94, R264, R423). An instruction ends by moving its queue on, by a fault, or by
a wait; each of these three is described once (R88, R89, R93, R99, R104 to R106). -/

namespace Sys2Proof.Machine

/-! ### What a queue's reads leave (R91, R94, R264) -/

/-- Nothing differs but the TLBs and the walks. -/
def Cached (s t : State) : Prop := ∃ tlb walks, t = { s with tlb := tlb, walks := walks }

theorem Cached.refl (s : State) : Cached s s := ⟨_, _, rfl⟩

theorem Cached.trans {s t u : State} (h : Cached s t) (g : Cached t u) : Cached s u := by
  obtain ⟨_, _, rfl⟩ := h
  obtain ⟨_, _, rfl⟩ := g
  exact ⟨_, _, rfl⟩

theorem Cached.intact {s t : State} (h : Cached s t) (hs : Intact s) : Intact t := by
  obtain ⟨_, _, rfl⟩ := h
  exact hs

theorem Cached.queue {s t : State} (h : Cached s t) : t.queue = s.queue := by
  obtain ⟨_, _, rfl⟩ := h
  rfl

theorem Cached.of_setQueue {s t : State} {k : Nat} {q : Queue} (h : Cached (s.setQueue k q) t) : ∃ u, Cached s u ∧ t = u.setQueue k q := by
  obtain ⟨tlb, walks, rfl⟩ := h
  exact ⟨{ s with tlb := tlb, walks := walks }, ⟨tlb, walks, rfl⟩, rfl⟩

section
variable {s : State} (h : Intact s)
include h

theorem State.check_cached (q : Req) (va n kind : Nat) : Cached s (s.check q va n kind).1 := State.check_of_intact h q va n kind

/-- What can be read is read, and nothing is recorded (R423, R425). -/
theorem State.queueData_of_intact (q : Queue) (va n : Nat) (t : Target) : s.queueData q va n t = (s, .ok (s.readTarget t n)) := by
  cases t with
  | mem loc => simp only [State.queueData, State.meet_of_intact h, State.poisoned_of_intact h, Bool.false_eq_true, if_false]
  | win tile off => rfl

/-- What a queue reads of its stream: the word where the check finds it, or the cause of its refusal. -/
theorem State.readWord_of_intact (q : Queue) (o : Nat) : s.readWord q o =
    ((s.check q.req (q.vaOf o) 4 0).1, match (s.check q.req (q.vaOf o) 4 0).2 with
      | .ok t => .ok (BitVec.ofNat 32 ((s.check q.req (q.vaOf o) 4 0).1.readTarget t 4))
      | c => .error (queueCause c)) := by
  have hc := (State.check_cached h q.req (q.vaOf o) 4 0).intact h
  unfold State.readWord
  generalize s.check q.req (q.vaOf o) 4 0 = r at hc
  obtain ⟨t, x | _ | _⟩ := r
  · simp only [State.queueData_of_intact hc]
  · rfl
  · rfl

theorem State.readWord_cached (q : Queue) (o : Nat) : Cached s (s.readWord q o).1 := by
  rw [State.readWord_of_intact h]
  exact State.check_cached h ..

omit h in
theorem readBlock_cached (q : Queue) (l : List Nat) {s : State} (h : Intact s) : Cached s (readBlock q l s).1 := by
  induction l generalizing s with
  | nil => exact .refl s
  | cons o l ih =>
    have hw := State.readWord_cached h q o
    unfold readBlock
    rcases hr : s.readWord q o with ⟨t, _ | _⟩ <;> rw [hr] at hw <;> exact hw.trans (ih (hw.intact h))

/-! ### The end of an instruction (R88, R89, R93, R100) -/

/-- Behind a moved pointer the queue's words ahead and block may change, and reads fill TLBs. -/
theorem State.passBlock_setQueue (k : Nat) (q : Queue) :
    ∃ u ahead block, Cached s u ∧ (s.setQueue k q).passBlock k = u.setQueue k { q with ahead := ahead, block := block } := by
  unfold State.passBlock
  rw [State.queue_setQueue]
  dsimp only
  split
  · exact ⟨s, q.ahead, q.block, .refl s, rfl⟩
  · split
    · exact ⟨s, q.ahead, q.block, .refl s, rfl⟩
    · split
      · obtain ⟨u, hu, hr⟩ := (readBlock_cached q (q.blockWords (q.blockOf q.ip + 1) 0) (s := s.setQueue k q) h).of_setQueue
        rw [hr, State.queue_setQueue, State.setQueue_setQueue]
        exact ⟨u, _, _, hu, rfl⟩
      · exact ⟨s, [], none, .refl s, State.setQueue_setQueue ..⟩

end

/-- A queue whose instruction has completed: it counts, and waits for nothing. -/
def Queue.counted (q : Queue) : Queue := { q with exec := q.exec + 1, hold := none, pass := none }

/-- What an instruction makes of its queue, but for what the end of the instruction settles. -/
def Queue.MovesTo (q : Queue) (f : Queue → Queue) (p : Queue) : Prop :=
  ∃ st ahead block, f q.counted =
    { p with exec := q.exec + 1, hold := none, pass := none, head := q.head, st := st, ahead := ahead, block := block }

theorem Queue.heads_eq (q : Queue) : q.heads = { q with head := if q.ibs.isEmpty then q.ip else q.head } := by
  unfold Queue.heads Queue.level
  cases q.ibs <;> rfl

/-- A queue in RUN, or IDLE, which it is between equal pointers at the ring, and never in a buffer. -/
def Queue.Settled (q : Queue) : Prop := (q.st = 1 ∨ q.st = 2) ∧ (q.ibs ≠ [] → q.st = 2) ∧ (q.ibs = [] → q.ip = q.tail → q.st = 1)

theorem State.settleQueue_settled (s : State) (k : Nat) (q : Queue) :
    ∃ st, (s.setQueue k q).settleQueue k = s.setQueue k { q with st := st } ∧ Queue.Settled { q with st := st } := by
  refine ⟨_, State.settleQueue_setQueue s k q, ?_, fun hb => ?_, fun hb ht => ?_⟩
  · dsimp only
    split
    · exact .inr rfl
    · exact .inl rfl
  · exact if_pos (State.queueReady_in_buffer (by rwa [State.queue_setQueue]))
  · have hn := State.queueReady_at_tail (s := s.setQueue k q) (k := k) (by rwa [State.queue_setQueue]) (by rwa [State.queue_setQueue])
    exact if_neg (by rw [hn]; exact Bool.false_ne_true)

theorem State.completeQ_eq {s : State} (h : Intact s) (k : Nat) (f : Queue → Queue) :
    ∃ u st ahead block, Cached s u ∧ Queue.Settled { (f (s.queue k).counted).heads with st := st, ahead := ahead, block := block } ∧
      s.completeQ k f = (u.setQueue k { (f (s.queue k).counted).heads with st := st, ahead := ahead, block := block }).unserve k := by
  have hc : s.completeQ k f = (((s.setQueue k (f (s.queue k).counted).heads).passBlock k).settleQueue k).unserve k := rfl
  obtain ⟨u, ahead, block, hu, hpass⟩ := State.passBlock_setQueue h k (f (s.queue k).counted).heads
  rw [hpass] at hc
  obtain ⟨st, hsettle, hsettled⟩ := u.settleQueue_settled k { (f (s.queue k).counted).heads with ahead := ahead, block := block }
  rw [hsettle] at hc
  exact ⟨u, st, ahead, block, hu, hsettled, hc⟩

/-- A queue of another state that an update of one queue leaves as it was, with its engine free. -/
theorem queueOnly_of_setQueue {s u : State} (h : Cached s u) (k : Nat) (q : Queue) : QueueOnly s ((u.setQueue k q).unserve k) k := by
  obtain ⟨tlb, walks, rfl⟩ := h
  rw [State.unserve_eq]
  exact ⟨rfl, fun j hj => State.queue_setQueue_other s k j q hj⟩

theorem State.queue_unserve (s : State) (k j : Nat) : (s.unserve k).queue j = s.queue j := by
  rw [State.unserve_eq]
  rfl

/-- What the end of an instruction leaves: a queue that has passed it and runs on, or is idle, and nothing else but words and translations read. -/
theorem State.completeQ_spec {s : State} (h : Intact s) {k : Nat} {f : Queue → Queue} {p : Queue} (hf : (s.queue k).MovesTo f p) :
    QueueOnly s (s.completeQ k f) k ∧ QueueHas s (s.completeQ k f) k p := by
  obtain ⟨_, _, _, hf⟩ := hf
  obtain ⟨u, st, ahead, block, hu, hsettled, hc⟩ := State.completeQ_eq h k f
  rw [hf, Queue.heads_eq] at hc hsettled
  rw [hc]
  refine ⟨queueOnly_of_setQueue hu k _, ?_⟩
  unfold QueueHas
  rw [State.queue_unserve, State.queue_setQueue]
  exact ⟨rfl, hsettled⟩

theorem queueOnly_of_cached {s u t : State} {k : Nat} (h : Cached s u) (g : QueueOnly u t k) : QueueOnly s t k := by
  obtain ⟨tlb, walks, rfl⟩ := h
  exact g

theorem queueHas_of_queue {s u t : State} {k : Nat} {p : Queue} (h : u.queue k = s.queue k) (g : QueueHas u t k p) : QueueHas s t k p := by
  unfold QueueHas at *
  rwa [h] at g

/-- An instruction that has read ends as one that has not. -/
theorem completeQ_cached {s u : State} (h : Intact s) (hu : Cached s u) {k : Nat} {f : Queue → Queue} {p : Queue} (hf : (s.queue k).MovesTo f p) :
    QueueOnly s (u.completeQ k f) k ∧ QueueHas s (u.completeQ k f) k p := by
  obtain ⟨honly, hhas⟩ := State.completeQ_spec (hu.intact h) (k := k) (f := f) (p := p) (by rwa [hu.queue])
  exact ⟨queueOnly_of_cached hu honly, queueHas_of_queue (by rw [hu.queue]) hhas⟩

/-! ### Faults and waits (R93, R99, R104 to R106) -/

theorem State.record_of_no_launch (s : State) {r : RecIn} (h : r.launch = none) :
    ∃ log tenants, s.record r = { s with log := log, tenants := tenants } := by
  unfold State.record
  rw [h]
  cases r.tenant <;> exact ⟨_, _, rfl⟩

/-- A queue that has faulted (R93). -/
def Queue.faulted (q : Queue) (cause pc lvl : Nat) : Queue :=
  { q with st := if q.en then 5 else q.st, cause := cause, faultPc := BitVec.ofNat 48 pc, faultLvl := lvl, hold := none, pass := none }

theorem Queue.faulted_enabled {q : Queue} (h : q.en = true) (cause pc lvl : Nat) :
    q.faulted cause pc lvl = { q with st := 5, cause := cause, faultPc := BitVec.ofNat 48 pc, faultLvl := lvl, hold := none, pass := none } := by
  rw [Queue.faulted, if_pos h]

theorem State.queueFault_eq (s : State) (k cause pc lvl : Nat) : ∃ log tenants msix serving, s.queueFault k cause pc lvl =
    { s.setQueue k ((s.queue k).faulted cause pc lvl) with log := log, tenants := tenants, msix := msix, serving := serving } := by
  have hmsi : ∀ (t : State) (fn vec : Nat) (b : Bool), ∃ msix, (if b then t.msi fn vec else t) = { t with msix := msix } :=
    fun t fn vec b => by cases b <;> exact ⟨_, rfl⟩
  obtain ⟨log, tenants, hr⟩ := State.record_of_no_launch (s.setQueue k ((s.queue k).faulted cause pc lvl))
    (r := { cause := cause, sev := 3, engine := engineId 4 (0x1D0 + k / 8) (k % 8), tenant := some (s.queue k).tenant, va := some pc }) rfl
  unfold State.queueFault
  change ∃ _ _ _ _, State.unserve (if (s.queue k).eien then State.msi (State.record (s.setQueue k ((s.queue k).faulted cause pc lvl)) _) _ _ else
    State.record (s.setQueue k ((s.queue k).faulted cause pc lvl)) _) k = _
  rw [hr]
  obtain ⟨msix, hm⟩ := hmsi { s.setQueue k ((s.queue k).faulted cause pc lvl) with log := log, tenants := tenants } _ (s.queue k).evec (s.queue k).eien
  rw [hm, State.unserve_eq]
  exact ⟨_, _, _, _, rfl⟩

/-- A fault of an enabled queue, perhaps after a read. -/
theorem queueFault_faulted {s u : State} (hu : Cached s u) {k : Nat} (hen : (s.queue k).en = true) (cause pc lvl : Nat) :
    QueueFaulted s (u.queueFault k cause pc lvl) k cause (BitVec.ofNat 48 pc) lvl := by
  obtain ⟨log, tenants, msix, serving, hf⟩ := State.queueFault_eq u k cause pc lvl
  rw [hf, hu.queue, Queue.faulted_enabled hen]
  obtain ⟨tlb, walks, rfl⟩ := hu
  exact ⟨State.queue_setQueue s k _, rfl, rfl, rfl, rfl, fun j hj => State.queue_setQueue_other s k j _ hj⟩

theorem queueVa_eq (q : Queue) : BitVec.ofNat 48 (q.vaOf q.ip) = queueVa q := by
  unfold Queue.vaOf Queue.base0 Queue.level queueVa
  cases q.ibs <;> rfl

/-- A fault of the running instruction of an enabled queue stands at the instruction. -/
theorem qfault_faulted {s u : State} (hu : Cached s u) (hen : (s.queue s.curq).en = true) (cause : Nat) :
    ∃ t, qfault cause u = .next t ∧ QueueFaulted s t s.curq cause (queueVa (s.queue s.curq)) (s.queue s.curq).ibs.length := by
  have hf := queueFault_faulted hu hen cause ((s.queue s.curq).vaOf (s.queue s.curq).ip) (s.queue s.curq).level
  rw [queueVa_eq] at hf
  refine ⟨_, ?_, hf⟩
  obtain ⟨tlb, walks, rfl⟩ := hu
  rfl

theorem qdoneWith_moved {s u : State} (h : Intact s) (hu : Cached s u) {f : Queue → Queue} {p : Queue} (hf : (s.queue s.curq).MovesTo f p) :
    ∃ t, qdoneWith f u = .next t ∧ QueueOnly s t s.curq ∧ QueueHas s t s.curq p := by
  refine ⟨_, ?_, completeQ_cached h hu hf⟩
  obtain ⟨tlb, walks, rfl⟩ := hu
  rfl

theorem qhold_held {s u : State} (hu : Cached s u) (st : Nat) (w : QHold) :
    ∃ t, qhold st w u = .next t ∧ QueueOnly s t s.curq ∧ t.queue s.curq = { s.queue s.curq with st := st, hold := some (w, s.len) } := by
  refine ⟨_, ?_, queueOnly_of_setQueue hu s.curq { s.queue s.curq with st := st, hold := some (w, s.len) }, ?_⟩
  · obtain ⟨tlb, walks, rfl⟩ := hu
    rfl
  · rw [State.queue_unserve, State.queue_setQueue]

/-! ### Instructions without a wait (R98, R100 to R102, R107, R108, R110) -/

theorem Queue.after_eq (q : Queue) (n : Nat) :
    q.after n = if q.ibs.isEmpty then (q.ip + n) % 2 ^ (12 + min q.size 12) else q.ip + n := by
  unfold Queue.after Queue.level
  cases q.ibs <;> rfl

theorem onward_eq (q : Queue) (n : Nat) : onward q n = q.next n := by
  rw [onward, ← Queue.after_eq]
  rfl

theorem Queue.movesTo_next (q : Queue) (n : Nat) : q.MovesTo (Queue.next n) (q.next n) := ⟨_, _, _, rfl⟩

section
variable (q : Queue) (n : Nat)

theorem queueAfter_qnop (nx : BitVec 3) : queueAfter q n (.qnop nx) = some (q.next n) := by rw [Queue.next, Queue.after_eq]; rfl

theorem queueAfter_qff : queueAfter q n .qff = some (q.next n) := by rw [Queue.next, Queue.after_eq]; rfl

theorem queueAfter_qprio (p : BitVec 4) : queueAfter q n (.qprio p) = some { q.next n with prio := min p.toNat q.prioMax } := by
  rw [Queue.next, Queue.after_eq]; rfl

theorem queueAfter_qmark (kind : BitVec 5) (id : BitVec 32) :
    queueAfter q n (.qmark kind id) = if kind = 3 then some { q.next n with markv := id } else none := by
  rw [Queue.next, Queue.after_eq]; rfl

theorem queueAfter_qib (va : BitVec 64) (len : BitVec 32) : queueAfter q n (.qib va len) =
    if q.level < 2 ∧ va.toNat % 4 = 0 ∧ len.toNat % 4 = 0 ∧ 4 ≤ len.toNat ∧ len.toNat ≤ 2 ^ 24 then
      some { q with ibs := ⟨va.setWidth 48, len.toNat, q.after n⟩ :: q.ibs, ip := 0 } else none := by
  rw [Queue.after_eq]; rfl

theorem queueAfter_qloop (count : BitVec 32) : queueAfter q n (.qloop count) =
    if q.loops.length < 2 then some { q.next n with loops := ⟨count, q.after n, q.level⟩ :: q.loops } else none := by
  rw [Queue.next, Queue.after_eq]; rfl

theorem queueAfter_qendp : queueAfter q n .qendp =
    if q.preds.head? = some q.level then some { q.next n with preds := q.preds.tail } else none := by
  rw [Queue.next, Queue.after_eq]; rfl

variable {q}

theorem queueAfter_qret_ring (h : q.ibs = []) : queueAfter q n .qret = none := by
  unfold queueAfter
  rw [h]

/-- No loop and no predicate of the buffer's level is open (R100). -/
def Queue.closed (q : Queue) : Bool := q.loops.all (fun l => l.level != q.level) && q.preds.all (fun l => l != q.level)

theorem queueAfter_qret_buffer {b : Ib} {rest : List Ib} (h : q.ibs = b :: rest) :
    queueAfter q n .qret = if q.closed then some { q with ibs := rest, ip := b.ret } else none := by
  unfold queueAfter
  rw [h]
  unfold Queue.closed Queue.level
  rw [h]

theorem Queue.ret_buffer {b : Ib} {rest : List Ib} (h : q.ibs = b :: rest) :
    q.ret = if q.closed then some { q with ibs := rest, ip := b.ret }.discard else none := by
  have hany : (q.loops.any (fun l => l.level == q.level) || q.preds.any (fun l => l == q.level)) = !q.closed := by
    simp [Queue.closed, List.all_eq_not_any_not, bne]
  unfold Queue.ret
  rw [h]
  dsimp only
  rw [hany]
  cases q.closed <;> rfl

theorem queueAfter_qendl_nil (h : q.loops = []) : queueAfter q n .qendl = none := by
  unfold queueAfter
  rw [h]

theorem queueAfter_qendl_cons {l : LoopRec} {rest : List LoopRec} (h : q.loops = l :: rest) : queueAfter q n .qendl =
    if l.level ≠ q.level then none else if l.count = 1 then some { q.next n with loops := rest }
    else some { q with ip := l.start, loops := { l with count := l.count - 1 } :: rest } := by
  rw [Queue.next, Queue.after_eq]
  unfold queueAfter
  rw [h]
  rfl

end

/-- An instruction does what `queueAfter` says, or faults its queue with a cause where that refuses it. -/
def StackStep (s : State) (i : Instr) (cause : Nat) : Prop :=
  match queueAfter (s.queue s.curq) s.len i with
  | some p => ∃ f, exec i s = qdoneWith f s ∧ (s.queue s.curq).MovesTo f p
  | none => exec i s = qfault cause s

section
variable (s : State)

theorem stackStep_qib (va : BitVec 64) (n : BitVec 32) : StackStep s (.qib va n) 0x2C4 := by
  have he : exec (.qib va n) s = execQib va n s := rfl
  unfold StackStep
  rw [queueAfter_qib, he, execQib]
  by_cases h : (s.queue s.curq).level < 2 ∧ va.toNat % 4 = 0 ∧ n.toNat % 4 = 0 ∧ 4 ≤ n.toNat ∧ n.toNat ≤ 2 ^ 24
  · rw [if_pos h, if_neg (by omega)]
    exact ⟨_, rfl, _, _, _, rfl⟩
  · rw [if_neg h, if_pos (by omega)]

theorem stackStep_qloop (count : BitVec 32) : StackStep s (.qloop count) 0x2C5 := by
  have he : exec (.qloop count) s = execQloop count s := rfl
  unfold StackStep
  rw [queueAfter_qloop, he, execQloop]
  by_cases h : (s.queue s.curq).loops.length < 2
  · rw [if_pos h, if_neg (by omega)]
    exact ⟨_, rfl, _, _, _, rfl⟩
  · rw [if_neg h, if_pos (by omega)]

theorem stackStep_qret : StackStep s .qret 0x2C5 := by
  have he : exec .qret s = execQret s := rfl
  unfold StackStep
  rw [he, execQret]
  generalize hq : s.queue s.curq = q
  obtain hb | ⟨b, rest, hb⟩ : q.ibs = [] ∨ ∃ b rest, q.ibs = b :: rest := by cases q.ibs <;> simp
  · rw [queueAfter_qret_ring s.len hb, Queue.ret, hb]
  · rw [queueAfter_qret_buffer s.len hb, Queue.ret_buffer hb]
    cases hc : q.closed with
    | false => rfl
    | true =>
      have hret : q.counted.ret = _ := (Queue.ret_buffer (q := q.counted) hb).trans (if_pos hc)
      exact ⟨_, rfl, _, _, _, congrArg (·.getD q.counted) hret⟩

theorem stackStep_qendl : StackStep s .qendl 0x2C5 := by
  have he : exec .qendl s = execQendl s := rfl
  unfold StackStep
  rw [he, execQendl]
  cases hl : (s.queue s.curq).loops with
  | nil => rw [queueAfter_qendl_nil s.len hl]
  | cons l rest =>
    rw [queueAfter_qendl_cons s.len hl]
    by_cases h : l.level ≠ (s.queue s.curq).level
    · rw [if_pos h]
      exact if_pos h
    · rw [if_neg h]
      by_cases h1 : l.count = 1
      · rw [if_pos h1]
        exact ⟨_, (if_neg h).trans (if_pos h1), _, _, _, rfl⟩
      · rw [if_neg h1]
        exact ⟨_, (if_neg h).trans (if_neg h1), _, _, _, rfl⟩

theorem stackStep_qendp : StackStep s .qendp 0x2C5 := by
  have he : exec .qendp s = execQendp s := rfl
  unfold StackStep
  rw [queueAfter_qendp, he, execQendp]
  cases hp : (s.queue s.curq).preds with
  | nil => rfl
  | cons l rest =>
    by_cases h : l = (s.queue s.curq).level
    · rw [if_pos (by rw [h]; rfl)]
      exact ⟨_, if_pos h, _, _, _, rfl⟩
    · rw [if_neg (by simpa using h)]
      exact if_neg h

end

section
variable {s : State} {i : Instr} {c : Nat}

theorem StackStep.moves (hs : StackStep s i c) {p : Queue} (h : queueAfter (s.queue s.curq) s.len i = some p) :
    ∃ f, exec i s = qdoneWith f s ∧ (s.queue s.curq).MovesTo f p := by
  unfold StackStep at hs
  rwa [h] at hs

theorem StackStep.faults (hs : StackStep s i c) (h : queueAfter (s.queue s.curq) s.len i = none) : exec i s = qfault c s := by
  unfold StackStep at hs
  rwa [h] at hs

theorem stackStep_of_stackFault (h : stackFault i = some c) : StackStep s i c := by
  cases i with
  | qib va n => cases h; exact stackStep_qib s va n
  | qret => cases h; exact stackStep_qret s
  | qendp => cases h; exact stackStep_qendp s
  | qloop count => cases h; exact stackStep_qloop s count
  | qendl => cases h; exact stackStep_qendl s
  | _ => cases h

/-- An instruction that `queueAfter` gives a meaning is executed with it. -/
theorem exec_of_queueAfter {p : Queue} (h : queueAfter (s.queue s.curq) s.len i = some p) :
    ∃ f, exec i s = qdoneWith f s ∧ (s.queue s.curq).MovesTo f p := by
  cases i with
  | qnop nx =>
    rw [queueAfter_qnop] at h
    cases h
    exact ⟨_, rfl, _, _, _, rfl⟩
  | qff =>
    rw [queueAfter_qff] at h
    cases h
    exact ⟨_, rfl, _, _, _, rfl⟩
  | qprio x =>
    rw [queueAfter_qprio] at h
    cases h
    exact ⟨_, rfl, _, _, _, rfl⟩
  | qmark kind id =>
    rw [queueAfter_qmark] at h
    obtain ⟨hk, h⟩ := Option.ite_none_right_eq_some.1 h
    cases h
    exact ⟨_, if_pos hk, _, _, _, rfl⟩
  | qib va n => exact (stackStep_qib s va n).moves h
  | qret => exact (stackStep_qret s).moves h
  | qendp => exact (stackStep_qendp s).moves h
  | qloop count => exact (stackStep_qloop s count).moves h
  | qendl => exact (stackStep_qendl s).moves h
  | _ => cases h

end

/-! #### QMARK of a level (R107) -/

/-- A live level that has been replaced stands in the list. -/
theorem mem_setInst {s : State} {x y : Inst} (h : x ∈ s.insts) (hy : x.tenant = y.tenant ∧ x.kind = y.kind ∧ x.id = y.id) : y ∈ (s.setInst y).insts :=
  List.mem_map.2 ⟨x, h, if_pos hy⟩

theorem qmark_level {s : State} (kind : BitVec 5) (id : BitVec 32) (hk : kind.toNat < 3) :
    ∃ insts, exec (.qmark kind id) s = qdone { s with insts := insts } ∧ insts.length = s.insts.length ∧
      (s.inst? (s.queue s.curq).tenant (kind.toNat + 2) (id.toNat % 2 ^ 16) = none → insts = s.insts) ∧
      ∀ x, s.inst? (s.queue s.curq).tenant (kind.toNat + 2) (id.toNat % 2 ^ 16) = some x → { x with closed := true } ∈ insts := by
  have h3 : kind ≠ 3 := by rintro rfl; exact absurd hk (by decide)
  have he : exec (.qmark kind id) s = execQmark kind id s := rfl
  rw [he, execQmark]
  dsimp only
  rw [if_neg h3]
  cases hi : s.inst? (s.queue s.curq).tenant (kind.toNat + 2) (id.toNat % 2 ^ 16) with
  | none => exact ⟨s.insts, rfl, rfl, fun _ => rfl, nofun⟩
  | some y =>
    refine ⟨_, rfl, List.length_map .., nofun, fun z hz => ?_⟩
    cases hz
    exact mem_setInst (List.mem_of_find?_eq_some hi) ⟨rfl, rfl, rfl⟩

theorem queueInstructionsMoveOn : QueueInstructionsMoveOn := by
  intro s i hs
  refine ⟨fun p hp => ?_, fun c hp hc hen => ?_, fun kind id hk => ?_⟩
  · obtain ⟨f, he, hf⟩ := exec_of_queueAfter hp
    rw [he]
    exact qdoneWith_moved hs (.refl s) hf
  · rw [(stackStep_of_stackFault hc).faults hp]
    exact qfault_faulted (.refl s) hen c
  · obtain ⟨insts, he, hlen, hnone, hsome⟩ := qmark_level kind id hk
    obtain ⟨t, ht, ⟨honly, -⟩, hhas⟩ := qdoneWith_moved (s := { s with insts := insts }) hs (.refl _) (Queue.movesTo_next _ s.len)
    have hinsts : t.insts = insts := by rw [honly]
    refine ⟨t, _, he.trans ht, queueAfter_qnop .., hhas, by rw [honly], by rw [honly], by rw [honly], ?_, ?_, ?_⟩ <;> rw [hinsts]
    exacts [hlen, hnone, hsome]

end Sys2Proof.Machine

/-- Settles O35. What `queueAfter` gives is what the instruction makes of its queue, and the end of an instruction settles the rest; what it refuses
faults; a QMARK of a level closes that level and moves on as QNOP does. -/
theorem Sys2Proof.queueInstructionsMoveOn : Obligations.QueueInstructionsMoveOn := Machine.queueInstructionsMoveOn

/-! ## What queues do with words of memory

A queue's access that the checks place in memory is performed at once. QWR stores, QPRED and QWAIT decide by the word, and QSIG's signal is written when no
launch before it is live (R97, R101, R103 to R105). -/

namespace Sys2Proof.Machine

/-! ### A queue's access to a doubleword of memory (R94, R97, R103, R254) -/

/-- A number written at a location is stored there. -/
theorem State.stored_store {s : State} (h : Memory.wf s.mem = true) (loc n : Nat) (x : Dword) : Stored s.mem (s.store loc n x.toNat).mem loc n x := by
  refine ⟨fun j hj => BitVec.eq_of_getLsbD_eq fun i hi => ?_, fun a ha => memGet_memWrite_other h _ _ _ (by rwa [natBytes_length])⟩
  have hbit := memRead_testBit (s.store loc n x.toNat).mem loc n (8 * j + i)
  have hload : bytesNat (memRead (s.store loc n x.toNat).mem loc n) = x.toNat % 256 ^ n := State.load_store_same h loc n x.toNat
  have hpow : 256 ^ n = 2 ^ (8 * n) := by rw [Nat.pow_mul]
  have hdiv : (8 * j + i) / 8 = j := by omega
  have hmod : (8 * j + i) % 8 = i := by omega
  rw [hload, hpow, Nat.testBit_mod_two_pow, decide_eq_true (by omega), if_pos (by omega), hdiv, hmod, Bool.true_and] at hbit
  rw [← hbit, BitVec.getLsbD_extractLsb', decide_eq_true hi, Bool.true_and, BitVec.testBit_toNat]

/-- A write in intact memory changes the memory alone. -/
theorem State.store_of_intact {s : State} (h : Intact s) (loc n v : Nat) : s.store loc n v = { s with mem := (s.store loc n v).mem } := by
  obtain ⟨hp, hf, -⟩ := h
  have hp' : (s.store loc n v).poison = s.poison := by
    change clearPoison s.poison _ _ = _
    rw [hp]
    rfl
  have hf' : (s.store loc n v).failing = s.failing := by
    change clearFailing s.failing _ _ = _
    rw [hf]
    rfl
  rw [← hp', ← hf']
  rfl

theorem State.load_of_wordAt {s : State} {loc : Nat} {w : Dword} (h : WordAt s.mem loc w) : BitVec.ofNat 64 (s.load loc 8) = w := by
  refine BitVec.eq_of_getLsbD_eq fun j hj => ?_
  have hz := zext_memBit s loc 8 j hj
  rw [zext, Nat.mod_eq_of_lt (load_lt s loc 8)] at hz
  rw [hz, h j hj]

/-- Every bit of the second word is set in the first, or some bit is set in both (R97). -/
theorem and_eq_iff_bits (w x : Dword) : w &&& x = x ↔ ∀ j < 64, x.getLsbD j = true → w.getLsbD j = true := by
  refine ⟨fun h j _ hx => ?_, fun h => BitVec.eq_of_getLsbD_eq fun j hj => ?_⟩
  · rw [← h, BitVec.getLsbD_and, Bool.and_eq_true] at hx
    exact hx.1
  · rw [BitVec.getLsbD_and]
    cases hx : x.getLsbD j with
    | false => rw [Bool.and_false]
    | true => rw [h j hj hx, Bool.and_true]

theorem and_ne_zero_iff_bits (w x : Dword) : w &&& x ≠ 0 ↔ ∃ j < 64, x.getLsbD j = true ∧ w.getLsbD j = true := by
  have h0 : w &&& x = 0 ↔ ∀ j < 64, (w &&& x).getLsbD j = false :=
    ⟨fun h j _ => by rw [h]; exact BitVec.getLsbD_zero, fun h => BitVec.eq_of_getLsbD_eq fun j hj => (h j hj).trans BitVec.getLsbD_zero.symm⟩
  rw [Ne, h0]
  simp [and_comm]

theorem condHolds_eq {c : Nat} (hc : c < 6) (w x : Dword) : condHolds c w x = conditionHolds c w x := by
  interval_cases c
  · rfl
  · exact (decide_not (p := w = x)).symm
  · exact decide_eq_decide.2 BitVec.lt_def
  · exact decide_eq_decide.2 BitVec.le_def
  · rw [Bool.eq_iff_iff]
    simp only [condHolds, conditionHolds, beq_iff_eq, and_eq_iff_bits, List.all_eq_true, List.mem_range, Bool.or_eq_true, Bool.not_eq_true', imp_iff_not_or,
      Bool.not_eq_true]
  · rw [Bool.eq_iff_iff]
    simp only [condHolds, conditionHolds, bne_iff_ne, and_ne_zero_iff_bits, List.any_eq_true, List.mem_range, Bool.and_eq_true]

/-- An access that is answered with a place was aligned. -/
theorem State.check_aligned {s : State} {q : Req} {va n kind : Nat} {t : Target} (h : (s.check q va n kind).2 = .ok t) : va % n = 0 := by
  by_contra hn
  obtain ⟨c, hc⟩ : ∃ c, s.checkMap q va n kind = some c := by
    unfold State.checkMap
    dsimp only
    split
    · exact ⟨_, rfl⟩
    · exact ⟨_, if_pos (.inl hn)⟩
  rw [State.check, hc] at h
  cases h

/-- A translation that answers with an address leaves no walk behind (R264, R438). -/
theorem State.translate_pa {s : State} (h : Intact s) {q : Req} {va kind a : Nat} (ha : (s.translate q va kind).2 = .pa a) :
    ∃ tlb, (s.translate q va kind).1 = { s with tlb := tlb } := by
  have hw : s.walkReads q.tenant va = s := by
    rw [State.walkReads, State.meetAll_of_intact h, State.recordPoison_of_intact h]
  have hfill : ∀ (t : State) g w x, ∃ tlb, (if q.tile < 512 then t.tlbFill q.tile q.tenant va g w x else t) = { t with tlb := tlb } := by
    intro t g w x
    split <;> exact ⟨_, rfl⟩
  unfold State.translate at *
  rw [hw] at ha ⊢
  split at ha
  · exact ⟨_, rfl⟩
  · split at ha
    · exact hfill ..
    · split at ha
      · cases ha
      · dsimp only at *
        cases hk : s.walk q.tenant va with
        | leaf pa w x =>
          rename_i hn
          rw [if_neg hn]
          obtain ⟨tlb, ht⟩ := hfill (s.tlbFill (l2Tlb va) q.tenant va pa w x) pa w x
          exact ⟨tlb, ht⟩
        | absent => rw [hk] at ha; cases ha
        | bad => rw [hk] at ha; cases ha

theorem State.check_ok {s : State} (h : Intact s) {q : Req} {va n kind : Nat} {t : Target} (hc : (s.check q va n kind).2 = .ok t) :
    ∃ tlb, (s.check q va n kind).1 = { s with tlb := tlb } := by
  unfold State.check at *
  cases hm : s.checkMap q va n kind with
  | some c => exact ⟨_, rfl⟩
  | none =>
    rw [hm] at hc
    cases hr : region va with
    | trans v =>
      rw [hr] at hc
      dsimp only at *
      have ht := fun a => State.translate_pa h (q := q) (va := v) (kind := kind) (a := a)
      generalize s.translate q v kind = r at hc ht ⊢
      obtain ⟨u, a | _ | _⟩ := r
      · exact ht a rfl
      · cases hc
      · cases hc
    | win t off => dsimp only; cases regionLoc q (.win t off) <;> exact ⟨_, rfl⟩
    | _ => dsimp only; split <;> exact ⟨_, rfl⟩

theorem State.qcheck_of_check {s u : State} {q : Queue} {va kind : Nat} {t : Target} (h : s.check q.req va 8 kind = (u, .ok t)) :
    s.qcheck q va kind = (u, .ok t) :=
  (if_neg fun hn => hn.1 (State.check_aligned (congrArg Prod.snd h))).trans h

/-- An access to memory waits for no matrix unit (R215). -/
theorem State.queueUnit_of_check {s u : State} {k va kind loc : Nat} (h : s.check (s.queue k).req va 8 kind = (u, .ok (.mem loc))) :
    s.queueUnit k va kind = none := by
  unfold State.queueUnit
  rw [State.qcheck_of_check h]
  rfl

/-- A check does not look at the queues. -/
theorem State.check_setQueue {s u : State} {j va n kind : Nat} {q : Queue} {r : Req} {x : Chk} (h : (s.setQueue j q).check r va n kind = (u, x)) :
    s.check r va n kind = (u.noting s.notes, x) := by
  have hn := State.check_noting (s.setQueue j q) s.notes r va n kind
  rw [h] at hn
  exact hn

section
variable {s u : State} (hs : Intact s) {q : Queue} {va loc : Nat}
include hs

theorem State.qread_of_check (h : s.check q.req va 8 0 = (u, .ok (.mem loc))) {w : Dword} (hw : WordAt s.mem loc w) :
    Cached s u ∧ s.qread q va = (u, .ok w) := by
  have hu : Cached s u := by
    have hc := State.check_cached hs q.req va 8 0
    rwa [h] at hc
  have hm : u.mem = s.mem := by
    obtain ⟨_, _, rfl⟩ := hu
    rfl
  refine ⟨hu, ?_⟩
  unfold State.qread
  rw [State.qcheck_of_check h]
  dsimp only
  rw [State.queueData_of_intact (hu.intact hs)]
  exact congrArg (fun x => (u, Except.ok x)) (State.load_of_wordAt (by rwa [hm]))

theorem State.qwrite_of_check (h : s.check q.req va 8 1 = (u, .ok (.mem loc))) (x : Dword) :
    ∃ tlb, s.qwrite q va x = ({ s with mem := (s.store loc 8 x.toNat).mem, tlb := tlb }, .ok ()) := by
  obtain ⟨tlb, ht⟩ := State.check_ok hs (congrArg Prod.snd h)
  rw [h] at ht
  subst ht
  refine ⟨tlb, ?_⟩
  unfold State.qwrite
  rw [State.qcheck_of_check h]
  exact congrArg (·, Except.ok ()) (State.store_of_intact (s := { s with tlb := tlb }) hs loc 8 x.toNat)

end

theorem reaches_cached {s u : State} {k va n kind loc : Nat} (h : QueueReaches s k va n kind u loc) : Cached s u := by
  obtain ⟨hc, -, hs⟩ := h
  have hu := State.check_cached hs ⟨512, (s.queue k).tenant, .other⟩ va n kind
  rwa [hc] at hu

/-! ### Waiting queues and signals (R104, R105) -/

/-- Nothing is polled where no queue of the engine waits in WAIT. -/
theorem State.pollEngine_of_noneWaits {s : State} {k : Nat} (h : NoneWaits s k) : s.pollEngine (k / 8) = s := by
  have hone : ∀ i ∈ List.range 8, s.pollQueue (8 * (k / 8) + i) = s := by
    intro i hi
    have hj := h (8 * (k / 8) + i) (by have := List.mem_range.1 hi; omega)
    unfold State.pollQueue
    dsimp only
    split
    · exact (hj _ _ _ _ _ _ ‹_›).elim
    · rfl
  unfold State.pollEngine
  generalize List.range 8 = l at hone
  induction l with
  | nil => rfl
  | cons i l ih =>
    rw [List.foldl_cons, hone i List.mem_cons_self]
    exact ih fun j hj => hone j (List.mem_cons_of_mem i hj)

/-- A queue that has completed an instruction waits for nothing, and the others wait as before. -/
theorem noneWaits_of_queueHas {s t : State} {k : Nat} {p : Queue} (h : NoneWaits s k) (ho : ∀ j, j ≠ k → t.queue j = s.queue j) (hq : QueueHas s t k p) :
    NoneWaits t k := by
  intro j hj c va x o f len
  by_cases hk : j = k
  · subst hk
    rw [hq.1]
    exact Option.some_ne_none _ |>.symm
  · rw [ho j hk]
    exact h j hj c va x o f len

/-- A queue with other signals. -/
def State.withSignals (s : State) (k : Nat) (l : List Signal) : State := s.setQueue k { s.queue k with signals := l }

theorem State.queue_withSignals (s : State) (k : Nat) (l : List Signal) : (s.withSignals k l).queue k = { s.queue k with signals := l } :=
  State.queue_setQueue ..

theorem State.queue_withSignals_other {k j : Nat} (h : j ≠ k) (s : State) (l : List Signal) : (s.withSignals k l).queue j = s.queue j :=
  State.queue_setQueue_other s k j _ h

theorem State.withSignals_withSignals (s : State) (k : Nat) (l m : List Signal) : (s.withSignals k l).withSignals k m = s.withSignals k m := by
  unfold State.withSignals
  rw [State.queue_setQueue, State.setQueue_setQueue]

theorem noneWaits_withSignals {s : State} {k : Nat} (h : NoneWaits s k) (l : List Signal) : NoneWaits (s.withSignals k l) k := by
  intro j hj
  by_cases hk : j = k
  · subst hk
    rw [State.queue_withSignals]
    exact h j hj
  · rw [State.queue_withSignals_other hk]
    exact h j hj

/-- The oldest signal, when due and where its word is memory, is written, and interrupts if it is to (R104, log entry 84). -/
theorem State.writeSignal_due {s u : State} {k loc : Nat} {g : Signal} {rest : List Signal}
    (hg : (s.queue k).signals = g :: rest) (hdue : ∀ key ∈ g.launches, ∀ l ∈ s.launches, l.key ≠ key) (hn : NoneWaits s k)
    (hr : QueueReaches (s.withSignals k rest) k g.va.toNat 8 1 u loc) :
    ∃ tlb, s.writeSignal k = { s.withSignals k rest with
      mem := (s.store loc 8 g.val.toNat).mem, tlb := tlb
      msix := s.msix ++ (if g.irq then [(s.functionOf (s.queue k).tenant, g.vec)] else []) } := by
  have hd : s.signalDue g = true :=
    List.all_eq_true.2 fun key hk => Option.isNone_iff_eq_none.2 (List.find?_eq_none.2 fun l hl => by simpa using hdue key hk l hl)
  have hunit : s.queueUnit k g.va.toNat 1 = none := State.queueUnit_of_check (by
    obtain ⟨hc, -⟩ := hr
    rw [State.queue_withSignals] at hc
    exact State.check_setQueue hc)
  obtain ⟨hc, -, hs⟩ := hr
  rw [State.queue_withSignals] at hc
  obtain ⟨tlb, hwrite⟩ := State.qwrite_of_check (q := s.queue k) hs hc g.val
  refine ⟨tlb, ?_⟩
  unfold State.writeSignal
  dsimp only
  rw [hg]
  dsimp only
  rw [if_neg (not_not.2 hd), unitGate, hunit]
  change (match (s.withSignals k rest).qwrite (s.queue k) g.va.toNat g.val with
    | (s, .error c) => s.queueFault k c g.pc.toNat g.level
    | (t, .ok ()) => (if g.irq then t.msi (t.functionOf (s.queue k).tenant) g.vec else t).pollEngine (k / 8)) = _
  rw [hwrite]
  dsimp only
  rw [State.pollEngine_of_noneWaits]
  · cases g.irq with
    | false => rw [if_neg Bool.false_ne_true, if_neg Bool.false_ne_true, List.append_nil]; rfl
    | true => rfl
  · cases g.irq <;> exact noneWaits_withSignals hn rest

/-- A signal behind live launches stays (R104). -/
theorem State.writeSignal_live {s : State} {k key : Nat} {g : Signal} {rest : List Signal} (hg : (s.queue k).signals = g :: rest) (hkey : key ∈ g.launches)
    (hl : (s.launch? key).isSome = true) : s.writeSignal k = s := by
  have hd : ¬ s.signalDue g = true := fun h => by
    have hnone := List.all_eq_true.1 h key hkey
    rw [Option.isNone_iff_eq_none.1 hnone] at hl
    cases hl
  unfold State.writeSignal
  dsimp only
  rw [hg]
  exact if_pos hd

/-! #### The end of an instruction does not look at signals (R88, R89, R91) -/

theorem readBlock_noting (q : Queue) (m : List Signal) (l : List Nat) (s : State) (n : Notes) (hn : n.ctxs = s.ctxs) :
    readBlock { q with signals := m } l (s.noting n) = notingFst n (readBlock q l s) := by
  induction l generalizing s with
  | nil => rfl
  | cons o l ih =>
    have hw : (s.noting n).readWord { q with signals := m } o = notingFst n (s.readWord q o) := State.readWord_noting s n hn q o
    have hc : (s.readWord q o).1.ctxs = s.ctxs := congrArg Notes.ctxs (s.readWord_notes q o)
    unfold readBlock
    rw [hw]
    rcases hr : s.readWord q o with ⟨t, _ | w⟩ <;> rw [hr] at hc
    · exact ih t (hn.trans hc.symm)
    · dsimp only [notingFst]
      rw [ih t (hn.trans hc.symm)]
      rfl

/-- The notes of a state with other signals at a queue. -/
def Notes.withSignals (n : Notes) (k : Nat) (l : List Signal) : Notes :=
  { n with queues := tset n.queues k { tget ({} : Queue) n.queues k with signals := l } }

section
variable (s : State) (k : Nat) (l : List Signal)

theorem State.withSignals_eq : s.withSignals k l = s.noting (s.notes.withSignals k l) := rfl

theorem readBlock_withSignals (q : Queue) (os : List Nat) :
    readBlock { q with signals := l } os (s.withSignals k l) = ((readBlock q os s).1.withSignals k l, (readBlock q os s).2) := by
  rw [State.withSignals_eq, State.withSignals_eq, readBlock_notes, readBlock_noting q l os s _ rfl]
  rfl

theorem State.setQueue_withSignals (f : Queue → Queue) :
    (s.withSignals k l).setQueue k { f (s.queue k) with signals := l } = (s.setQueue k (f (s.queue k))).withSignals k l := by
  unfold State.withSignals
  rw [State.setQueue_setQueue, State.setQueue_setQueue, State.queue_setQueue]

/-- The block that the pointer has moved into, with the words of the block behind it read (R91). -/
def State.takeBlock (s : State) (q : Queue) (k n : Nat) : State :=
  let keep := q.ahead.filter (fun (w : Nat × BitVec 32) => decide (n ≤ q.blockOf w.1))
  let r := readBlock q (q.blockWords (n + 1) 0) s
  r.1.setQueue k { r.1.queue k with ahead := keep ++ r.2, block := some n }

theorem State.passBlock_of_some {b : Nat} (h : (s.queue k).block = some b) :
    let q := s.queue k
    s.passBlock k = if q.blockOf q.ip = b then s else if q.blockOf q.ip = b + 1 then s.takeBlock q k (q.blockOf q.ip) else s.setQueue k q.discard := by
  unfold State.passBlock
  dsimp only
  rw [h]
  rfl

theorem State.takeBlock_withSignals (q : Queue) (n : Nat) :
    (s.withSignals k l).takeBlock { q with signals := l } k n = (s.takeBlock q k n).withSignals k l := by
  have hr := readBlock_withSignals s k l q (q.blockWords (n + 1) 0)
  unfold State.takeBlock
  dsimp only
  change (readBlock { q with signals := l } (q.blockWords (n + 1) 0) (s.withSignals k l)).1.setQueue k _ = _
  rw [show Queue.blockWords { q with signals := l } (n + 1) 0 = q.blockWords (n + 1) 0 from rfl, hr, State.queue_withSignals]
  generalize readBlock q (q.blockWords (n + 1) 0) s = r
  exact r.1.setQueue_withSignals k l fun p =>
    { p with ahead := q.ahead.filter (fun (w : Nat × BitVec 32) => decide (n ≤ q.blockOf w.1)) ++ r.2, block := some n }

theorem State.passBlock_withSignals : (s.withSignals k l).passBlock k = (s.passBlock k).withSignals k l := by
  have hq := State.queue_withSignals s k l
  cases hb : (s.queue k).block with
  | none =>
    have hnone : ∀ t : State, (t.queue k).block = none → t.passBlock k = t := fun t h => by
      unfold State.passBlock
      dsimp only
      rw [h]
    rw [hnone s hb, hnone _ (by rw [hq]; exact hb)]
  | some b =>
    rw [State.passBlock_of_some s k hb, State.passBlock_of_some (s.withSignals k l) k (b := b) (by rw [hq]; exact hb), hq, State.takeBlock_withSignals]
    change (if (s.queue k).blockOf (s.queue k).ip = b then _ else if (s.queue k).blockOf (s.queue k).ip = b + 1 then _ else _) = _
    split
    · rfl
    · split
      · rfl
      · exact s.setQueue_withSignals k l Queue.discard

theorem State.queueReady_withSignals : (s.withSignals k l).queueReady k = s.queueReady k := by
  have hw : ((s.withSignals k l).streamWord k (s.queue k).ip).2 = (s.streamWord k (s.queue k).ip).2 := by
    have hr : (s.withSignals k l).readWord { s.queue k with signals := l } (s.queue k).ip = _ :=
      State.readWord_noting s (s.notes.withSignals k l) rfl (s.queue k) (s.queue k).ip
    have hfind : ∀ x : Option (Nat × BitVec 32), (match x with
        | some w => (s.withSignals k l, Except.ok w.2)
        | none => notingFst (s.notes.withSignals k l) (s.readWord (s.queue k) (s.queue k).ip)).2 =
        (match x with
        | some w => (s, Except.ok w.2)
        | none => s.readWord (s.queue k) (s.queue k).ip).2 := by
      rintro (_ | _) <;> rfl
    unfold State.streamWord
    rw [State.queue_withSignals]
    dsimp only
    rw [hr]
    exact hfind _
  unfold State.queueReady
  rw [State.queue_withSignals]
  dsimp only
  rw [hw]
  rfl

theorem State.settleQueue_withSignals : (s.withSignals k l).settleQueue k = (s.settleQueue k).withSignals k l := by
  unfold State.settleQueue
  rw [State.queueReady_withSignals, State.queue_withSignals]
  unfold State.withSignals
  rw [State.setQueue_setQueue, State.setQueue_setQueue, State.queue_setQueue]

theorem State.unserve_withSignals : (s.withSignals k l).unserve k = (s.unserve k).withSignals k l := by
  rw [State.unserve_eq, State.unserve_eq]
  rfl

/-- A queue with other signals completes its instruction as it would have with its own. -/
theorem State.completeQ_withSignals (n : Nat) : (s.withSignals k l).completeQ k (Queue.next n) = (s.completeQ k (Queue.next n)).withSignals k l := by
  have hc : ∀ t : State, t.completeQ k (Queue.next n) = (((t.setQueue k ((t.queue k).counted.next n).heads).passBlock k).settleQueue k).unserve k :=
    fun _ => rfl
  have hset : (s.withSignals k l).setQueue k (((s.withSignals k l).queue k).counted.next n).heads =
      (s.setQueue k ((s.queue k).counted.next n).heads).withSignals k l := by
    rw [State.queue_withSignals]
    unfold State.withSignals
    rw [State.setQueue_setQueue, State.setQueue_setQueue, State.queue_setQueue]
    rfl
  rw [hc, hset, State.passBlock_withSignals, State.settleQueue_withSignals, State.unserve_withSignals]
  rfl

end

/-! ### QWR, QPRED and QWAIT (R101, R103, R105) -/

theorem qunitGate_of_none {s : State} {va kind : Nat} (h : s.queueUnit s.curq va kind = none) (f : State → Out) : qunitGate va kind s f = f s := by
  rw [qunitGate, h]

section
variable {s u : State} {loc : Nat} {va : BitVec 64}

theorem qwr_stored (hw : Memory.wf s.mem = true) (x : BitVec 64) (hn : NoneWaits s s.curq) (hr : QueueReaches s s.curq va.toNat 8 1 u loc) :
    ∃ t m, exec (.qwr va x) s = .next t ∧ Stored s.mem m loc 8 x ∧
      t = { s with mem := m, queues := t.queues, tlb := t.tlb, walks := t.walks, serving := t.serving } ∧
      QueueHas s t s.curq (onward (s.queue s.curq) s.len) := by
  obtain ⟨hc, -, hs⟩ := hr
  obtain ⟨tlb, hwrite⟩ := State.qwrite_of_check (q := s.queue s.curq) hs hc x
  have hm : Intact { s with mem := (s.store loc 8 x.toNat).mem, tlb := tlb } := hs
  obtain ⟨⟨honly, hother⟩, hhas⟩ := State.completeQ_spec hm (k := s.curq) (onward_eq _ s.len ▸ Queue.movesTo_next (s.queue s.curq) s.len)
  have he : exec (.qwr va x) s = .next
      ((({ s with mem := (s.store loc 8 x.toNat).mem, tlb := tlb } : State).completeQ s.curq (Queue.next s.len)).pollEngine (s.curq / 8)) := by
    have h0 : exec (.qwr va x) s = execQwr va x s := rfl
    rw [h0, execQwr, qunitGate_of_none (State.queueUnit_of_check hc), hwrite]
  rw [State.pollEngine_of_noneWaits (noneWaits_of_queueHas hn hother hhas)] at he
  exact ⟨_, _, he, State.stored_store hw loc 8 x, by rw [honly], hhas⟩

variable {w : Dword} (c : BitVec 5) (x : BitVec 64)

theorem qpred_eq (hr : QueueReaches s s.curq va.toNat 8 0 u loc) (hw : WordAt s.mem loc w) :
    exec (.qpred c va x) s = if condHolds c.toNat w x then
        if 15 ≤ (s.queue s.curq).preds.length then qfault 0x2C5 u
        else qdoneWith (fun q => { q.next s.len with preds := q.level :: q.preds }) u
      else qdoneWith (fun q => { q.next s.len with skip := some (0, 0) }) u := by
  obtain ⟨hc, -, hs⟩ := hr
  obtain ⟨hu, hread⟩ := State.qread_of_check (q := s.queue s.curq) hs hc hw
  have h0 : exec (.qpred c va x) s = execQpred c va x s := rfl
  rw [h0, execQpred, qunitGate_of_none (State.queueUnit_of_check hc)]
  dsimp only
  rw [hread]
  obtain ⟨_, _, rfl⟩ := hu
  rfl

theorem qwait_eq (timeout : BitVec 32) (hr : QueueReaches s s.curq va.toNat 8 0 u loc) (hw : WordAt s.mem loc w) :
    exec (.qwait c va x timeout) s = if condHolds c.toNat w x then qdoneWith (Queue.next s.len) u
      else qhold 3 (.wait c.toNat (va.setWidth 48) x timeout.toNat s.boot.dtb) u := by
  obtain ⟨hc, -, hs⟩ := hr
  obtain ⟨hu, hread⟩ := State.qread_of_check (q := s.queue s.curq) hs hc hw
  have h0 : exec (.qwait c va x timeout) s = execQwait c va x timeout s := rfl
  rw [h0, execQwait, qunitGate_of_none (State.queueUnit_of_check hc), hread]
  obtain ⟨_, _, rfl⟩ := hu
  rfl

end

section
variable {s u : State} {k loc cond timeout since len : Nat} {va : Va} {x w : Dword} (hh : (s.queue k).hold = some (.wait cond va x timeout since, len))
include hh

theorem qwaitTimeout_late (h0 : timeout ≠ 0) (ht : since + 1000 * timeout < s.boot.dtb) :
    exec (.qwaitTimeout k) s = .next (s.queueFault k 0x2C7 ((s.queue k).vaOf (s.queue k).ip) (s.queue k).level) := by
  have he : exec (.qwaitTimeout k) s = execQwaitTimeout k s := rfl
  rw [he, execQwaitTimeout]
  rw [hh]
  dsimp only
  rw [if_neg (by omega), if_pos (by omega)]

/-- The read at the end of a wait's time (R105). -/
theorem qwaitTimeout_due (h0 : timeout ≠ 0) (ht : since + 1000 * timeout = s.boot.dtb) (hr : QueueReaches s k va.toNat 8 0 u loc)
    (hw : WordAt s.mem loc w) :
    exec (.qwaitTimeout k) s = .next (if condHolds cond w x then u.completeQ k (Queue.next len)
      else u.queueFault k 0x2C7 ((s.queue k).vaOf (s.queue k).ip) (s.queue k).level) := by
  obtain ⟨hc, -, hs⟩ := hr
  obtain ⟨hu, hread⟩ := State.qread_of_check (q := s.queue k) hs hc hw
  have he : exec (.qwaitTimeout k) s = execQwaitTimeout k s := rfl
  rw [he, execQwaitTimeout]
  rw [hh]
  dsimp only
  rw [if_neg (by omega), if_neg (by omega), State.lastPoll, State.queueUnit_of_check hc, hread]
  rfl

theorem qwaitPoll_eq (ht : timeout = 0 ∨ s.boot.dtb ≤ since + 1000 * timeout) (hr : QueueReaches s k va.toNat 8 0 u loc) (hw : WordAt s.mem loc w) :
    exec (.qwaitPoll k) s = .next (if condHolds cond w x then u.completeQ k (Queue.next len) else u) := by
  obtain ⟨hc, -, hs⟩ := hr
  obtain ⟨hu, hread⟩ := State.qread_of_check (q := s.queue k) hs hc hw
  have he : exec (.qwaitPoll k) s = .next (s.pollQueue k) := rfl
  rw [he, State.pollQueue]
  rw [hh]
  dsimp only
  rw [if_neg (by omega), unitGate, State.queueUnit_of_check hc]
  dsimp only
  rw [hread]

end

/-! ### QSIG (R104) -/

/-- The signal that QSIG posts: behind the live launches of its queue. -/
def State.signalOf (s : State) (irq : BitVec 1) (vec : BitVec 5) (va x : BitVec 64) : Signal :=
  ⟨va.setWidth 48, x, irq = 1, vec.toNat, queueVa (s.queue s.curq), (s.queue s.curq).ibs.length,
    (s.launches.filter (fun l => l.queue == some s.curq)).map (·.key)⟩

section
variable {s u : State} (irq : BitVec 1) (vec : BitVec 5) (va x : BitVec 64)

theorem qsig_eq : exec (.qsig irq vec va x) s = if 8 ≤ (s.queue s.curq).signals.length then qhold 4 (.signal (s.signalOf irq vec va x)) s
    else .next (((s.completeQ s.curq (Queue.next s.len)).withSignals s.curq
      ((s.queue s.curq).signals ++ [s.signalOf irq vec va x])).writeSignal s.curq) := by
  have h0 : exec (.qsig irq vec va x) s = execQsig irq vec va x s := rfl
  rw [h0, execQsig, ← State.completeQ_withSignals, State.signalOf, ← queueVa_eq]
  rfl

end

/-- Behind the end of an instruction, with other signals. -/
theorem completeQ_withSignals_spec {s : State} (hs : Intact s) (k n : Nat) (l : List Signal) :
    QueueOnly s ((s.completeQ k (Queue.next n)).withSignals k l) k ∧
      QueueHas s ((s.completeQ k (Queue.next n)).withSignals k l) k { onward (s.queue k) n with signals := l } := by
  obtain ⟨⟨honly, hother⟩, heq, hst⟩ := State.completeQ_spec hs (k := k) (onward_eq _ n ▸ Queue.movesTo_next (s.queue k) n)
  generalize s.completeQ k (Queue.next n) = t at honly hother heq hst
  have hq := State.queue_withSignals t k l
  refine ⟨⟨?_, fun j hj => (State.queue_withSignals_other hj t l).trans (hother j hj)⟩, ?_, ?_⟩
  · exact congrArg (fun u : State => u.withSignals k l) honly
  · rw [hq]
    exact congrArg (fun q : Queue => { q with signals := l }) heq
  · rw [hq]
    exact hst

section
variable {s u : State} {loc : Nat} (irq : BitVec 1) (vec : BitVec 5) (va x : BitVec 64) {g : Signal} {rest : List Signal}

/-- The posted signal stays behind live launches. -/
theorem qsig_live (hs : Intact s) (hl : (s.queue s.curq).signals.length < 8) (hg : (s.queue s.curq).signals ++ [s.signalOf irq vec va x] = g :: rest)
    (hlive : ∃ key ∈ g.launches, (s.launch? key).isSome = true) :
    ∃ t, exec (.qsig irq vec va x) s = .next t ∧ QueueOnly s t s.curq ∧
      QueueHas s t s.curq { onward (s.queue s.curq) s.len with signals := g :: rest } := by
  obtain ⟨key, hkey, hlive⟩ := hlive
  obtain ⟨honly, hhas⟩ := completeQ_withSignals_spec hs s.curq s.len (g :: rest)
  refine ⟨_, ?_, honly, hhas⟩
  rw [qsig_eq, if_neg (by omega), hg, State.writeSignal_live (congrArg Queue.signals (State.queue_withSignals ..)) hkey]
  rw [honly.1]
  exact hlive

/-- A due signal is written in the step that posts the last one. -/
theorem qsig_due (hw : Memory.wf s.mem = true) (hs : Intact s) (hn : NoneWaits s s.curq) (hl : (s.queue s.curq).signals.length < 8)
    (hg : (s.queue s.curq).signals ++ [s.signalOf irq vec va x] = g :: rest) (hdue : ∀ key ∈ g.launches, ∀ l ∈ s.launches, l.key ≠ key)
    (hr : QueueReaches ((s.withSignals s.curq rest).completeQ s.curq (Queue.next s.len)) s.curq g.va.toNat 8 1 u loc) :
    ∃ t m, exec (.qsig irq vec va x) s = .next t ∧ Stored s.mem m loc 8 g.val ∧
      t = { s with mem := m, queues := t.queues, tlb := t.tlb, walks := t.walks, serving := t.serving, msix := t.msix } ∧
      t.msix = s.msix ++ (if g.irq then [(s.functionOf (s.queue s.curq).tenant, g.vec)] else []) ∧
      QueueHas s t s.curq { onward (s.queue s.curq) s.len with signals := rest } := by
  obtain ⟨⟨honly, hother⟩, hhas⟩ := completeQ_withSignals_spec hs s.curq s.len (g :: rest)
  obtain ⟨-, hhas'⟩ := completeQ_withSignals_spec hs s.curq s.len rest
  have hq := State.queue_withSignals (s.completeQ s.curq (Queue.next s.len)) s.curq (g :: rest)
  rw [State.completeQ_withSignals] at hr
  rw [← State.withSignals_withSignals _ _ (g :: rest)] at hr hhas'
  have he := qsig_eq irq vec va x (s := s)
  rw [if_neg (by omega), hg] at he
  generalize (s.completeQ s.curq (Queue.next s.len)).withSignals s.curq (g :: rest) = t at *
  obtain ⟨tlb, hwrite⟩ := State.writeSignal_due (congrArg Queue.signals hq) (by rw [honly]; exact hdue) (noneWaits_of_queueHas hn hother hhas) hr
  rw [hwrite] at he
  have htenant : (t.queue s.curq).tenant = (s.queue s.curq).tenant :=
    (congrArg Queue.tenant hhas.1).trans rfl
  rw [htenant] at he
  obtain ⟨_, _, _, _, rfl⟩ : ∃ queues tlb walks serving, t = { s with queues := queues, tlb := tlb, walks := walks, serving := serving } :=
    ⟨_, _, _, _, honly⟩
  exact ⟨_, (s.store loc 8 g.val.toNat).mem, he, State.stored_store hw loc 8 g.val, rfl, rfl, hhas'⟩

end

theorem signalWrite_written {s u : State} {k loc : Nat} {g : Signal} {rest : List Signal} (hw : Memory.wf s.mem = true)
    (hg : (s.queue k).signals = g :: rest) (hdue : ∀ key ∈ g.launches, ∀ l ∈ s.launches, l.key ≠ key) (hn : NoneWaits s k)
    (hr : QueueReaches (s.withSignals k rest) k g.va.toNat 8 1 u loc) :
    ∃ t m, exec (.signalWrite k) s = .next t ∧ Stored s.mem m loc 8 g.val ∧
      t = { s with mem := m, queues := tset s.queues k { s.queue k with signals := rest }, tlb := t.tlb, msix := t.msix } ∧
      t.msix = s.msix ++ (if g.irq then [(s.functionOf (s.queue k).tenant, g.vec)] else []) := by
  obtain ⟨tlb, hwrite⟩ := State.writeSignal_due hg hdue hn hr
  have he : exec (.signalWrite k) s = .next (s.writeSignal k) := rfl
  rw [hwrite] at he
  exact ⟨_, (s.store loc 8 g.val.toNat).mem, he, State.stored_store hw loc 8 g.val, rfl, rfl⟩

theorem Queue.movesTo_onward (q : Queue) (n : Nat) : q.MovesTo (Queue.next n) (onward q n) := onward_eq q n ▸ q.movesTo_next n

theorem queueWordsAreReadAndWritten : QueueWordsAreReadAndWritten := by
  intro s u k loc w hw
  refine ⟨fun va x hk hn hr => ?_, fun c va x hk hc hr hat => ?_, fun c va x timeout since len hh hc => ?_, fun irq vec va x hk => ?_,
    fun g rest hg hdue hn hr => signalWrite_written hw hg hdue hn hr⟩
  · subst hk
    exact qwr_stored hw x hn hr
  · subst hk
    have hs := hr.2.2
    have hu := reaches_cached hr
    rw [← condHolds_eq hc, qpred_eq c x hr hat]
    refine ⟨fun ht hl => ?_, fun ht hl hen => ?_, fun hf => ?_, fun timeout => ?_⟩
    · rw [if_pos ht, if_neg (by omega)]
      exact qdoneWith_moved hs hu ⟨_, _, _, by rw [onward_eq]; rfl⟩
    · rw [if_pos ht, if_pos hl]
      exact qfault_faulted hu hen 0x2C5
    · rw [if_neg (by rw [hf]; exact Bool.false_ne_true)]
      exact qdoneWith_moved hs hu ⟨_, _, _, by rw [onward_eq]; rfl⟩
    · rw [qwait_eq c x timeout hr hat]
      refine ⟨fun ht => ?_, fun hf => ?_⟩
      · rw [if_pos ht]
        exact qdoneWith_moved hs hu (Queue.movesTo_onward ..)
      · rw [if_neg (by rw [hf]; exact Bool.false_ne_true)]
        exact qhold_held hu 3 _
  · have hfault := fun {v : State} (hv : Cached s v) (hen : (s.queue k).en = true) =>
      queueFault_faulted hv hen 0x2C7 ((s.queue k).vaOf (s.queue k).ip) (s.queue k).level
    rw [queueVa_eq] at hfault
    refine ⟨fun h0 ht hen => ⟨_, qwaitTimeout_late hh h0 ht, hfault (.refl s) hen⟩, fun h0 ht hen hr hat => ?_, fun ht hr hat => ?_⟩
    · rw [← condHolds_eq hc, qwaitTimeout_due hh h0 ht hr hat]
      refine ⟨fun hc => ?_, fun hf => ?_⟩
      · rw [if_pos hc]
        exact ⟨_, rfl, completeQ_cached hr.2.2 (reaches_cached hr) (Queue.movesTo_onward ..)⟩
      · rw [if_neg (by rw [hf]; exact Bool.false_ne_true)]
        exact ⟨_, rfl, hfault (reaches_cached hr) hen⟩
    · rw [← condHolds_eq hc, qwaitPoll_eq hh ht hr hat]
      refine ⟨fun hc => ?_, fun hf => ?_⟩
      · rw [if_pos hc]
        exact ⟨_, rfl, completeQ_cached hr.2.2 (reaches_cached hr) (Queue.movesTo_onward ..)⟩
      · rw [if_neg (by rw [hf]; exact Bool.false_ne_true)]
  · subst hk
    refine ⟨fun hl g rest hg => ⟨fun hlive hs => qsig_live irq vec va x hs hl hg hlive,
      fun hdue hs hn hr => qsig_due irq vec va x hw hs hn hl hg hdue hr⟩, fun hfull => ?_⟩
    rw [qsig_eq, if_pos hfull]
    exact qhold_held (.refl s) 4 _

end Sys2Proof.Machine

/-- Settles O36. An access that the checks place in memory waits for no unit and reads or writes its word; the queue then goes on, waits or faults as its
instruction says; a signal at the head of its queue is written when no launch before it is live, and completing an instruction does not look at signals. -/
theorem Sys2Proof.queueWordsAreReadAndWritten : Obligations.QueueWordsAreReadAndWritten := Machine.queueWordsAreReadAndWritten

/-! ## Launches that queues hand over, and the choice among queues

A queue hands its packet to the Front End and waits in DEP; QDEP and QREPLAY wait for what they name (R99, R106, R109, R115). An engine takes the runnable
queue of the greatest priority, in rotation among equals, and an entry reads two blocks (R89, R91). -/

namespace Sys2Proof.Machine

/-! ### What the Front End reads for a launch (R54) -/

theorem State.runLocs_cached (q : Req) (kind f va n : Nat) (acc : List (Nat × Nat)) {s : State} (h : Intact s) :
    Cached s (s.runLocs q kind f va n acc).1 := by
  induction f generalizing s va n acc with
  | zero => exact .refl s
  | succ f ih =>
    have hc := State.check_cached h q va 1 kind
    unfold State.runLocs
    split
    · exact .refl s
    · dsimp only
      generalize s.check q va 1 kind = r at hc
      obtain ⟨t, (_ | _) | _ | _⟩ := r
      · exact hc.trans (ih _ _ _ (hc.intact h))
      · exact hc
      · exact hc
      · exact hc

theorem State.feRead_cached {s : State} (h : Intact s) (t va n : Nat) : Cached s (s.feRead t va n).1 := by
  have hr := State.runLocs_cached (feReq t) 0 (n / 64 + 2) va n [] h
  unfold State.feRead
  generalize s.runLocs (feReq t) 0 (n / 64 + 2) va n [] = r at hr
  obtain ⟨u, _ | l⟩ := r
  · exact hr
  · have hu := hr.intact h
    dsimp only
    rw [State.meetAll_of_intact hu, State.recordPoison_of_intact hu]
    split <;> exact hr

theorem State.readWork_cached {s : State} (h : Intact s) (t va : Nat) : Cached s (s.readWork t va).1 := by
  have hstep : ∀ {u : State}, Cached s u → ∀ va n, Cached s (u.feRead t va n).1 :=
    fun hu va n => hu.trans (State.feRead_cached (hu.intact h) t va n)
  have h1 := hstep (.refl s) va 128
  unfold State.readWork
  generalize s.feRead t va 128 = r at h1 ⊢
  obtain ⟨s1, _ | p⟩ := r
  · exact h1
  have h2 := hstep h1 (fldB p 0x08 8) 64
  dsimp only at h2 ⊢
  generalize s1.feRead t (fldB p 0x08 8) 64 = r at h2 ⊢
  obtain ⟨s2, _ | hd⟩ := r
  · exact h2
  have h3 := hstep h2 (fldB p 0x08 8 + fldB hd 0x20 3) (8 * fldB hd 0x23 1)
  dsimp only at h3 ⊢
  generalize s2.feRead t (fldB p 0x08 8 + fldB hd 0x20 3) (8 * fldB hd 0x23 1) = r at h3 ⊢
  obtain ⟨s3, _ | _⟩ := r
  · exact h3
  have h4 := hstep h3 (fldB p 0x08 8 + fldB hd 0x28 4) 8
  dsimp only at h4 ⊢
  split
  · exact h3
  generalize s3.feRead t (fldB p 0x08 8 + fldB hd 0x28 4) 8 = r at h4 ⊢
  obtain ⟨s4, _ | g⟩ := r
  · exact h4
  have h5 := hstep h4 (fldB p 0x08 8 + fldB hd 0x28 4 + 8) (16 * min (fldB g 0 4) 64)
  dsimp only at h5 ⊢
  generalize s4.feRead t (fldB p 0x08 8 + fldB hd 0x28 4 + 8) (16 * min (fldB g 0 4) 64) = r at h5 ⊢
  obtain ⟨s5, _ | _⟩ := r <;> exact h5

theorem State.openInst_eq (s : State) (t kind id parent : Nat) : ∃ insts, s.openInst t kind id parent = { s with insts := insts } := by
  unfold State.openInst
  split <;> exact ⟨_, rfl⟩

/-! ### Launches (R99, R106, R115) -/

section
variable {s u : State} {t va k cap : Nat} {w : WorkIn}

/-- A packet that can be read and names no completed level is judged by its checks. -/
theorem State.accept_of_readWork (hgone : ∀ p, s.gone t p = false) (hr : s.readWork t va = (u, some w)) :
    s.accept va t (some k) k cap = match u.workCause t w with
      | some c => (u, .error c)
      | none =>
        let l := w.launch u.fresh t ((u.tenant t).lastLid + 1) (some k) k cap (u.tenant t).memb
        if 4096 ≤ (u.launches.filter (fun x => !x.cancelled)).length then (u, .error 0x2E0)
        else
          let v := (((u.setTenant t { u.tenant t with lastLid := l.lid }).openInst t 4 l.job 0).openInst t 3 l.phase l.job).openInst t 2 l.graph l.phase
          ({ v with fresh := v.fresh + 1, launches := v.launches ++ [l] }, .ok l) := by
  have hno : (s.feRead t va 128).2.any (s.gone t) = false := by
    cases (s.feRead t va 128).2 with
    | none => rfl
    | some p => exact hgone p
  rw [State.accept, hno, hr]
  rfl

/-- An accepted launch is the last, takes the tenant's next launch ID, and changes nothing else but level instances. -/
theorem State.accept_ok (hgone : ∀ p, s.gone t p = false) (hr : s.readWork t va = (u, some w)) (hc : u.workCause t w = none)
    (hl : (u.launches.filter (fun x => !x.cancelled)).length < 4096) :
    ∃ l insts fresh, s.accept va t (some k) k cap = ({ u with
        tenants := tset u.tenants t { u.tenant t with lastLid := l.lid }, insts := insts, fresh := fresh, launches := u.launches ++ [l] }, .ok l) ∧
      l.lid = (u.tenant t).lastLid + 1 ∧ l.tenant = t ∧ l.queue = some k ∧ l.prio ≤ cap := by
  rw [State.accept_of_readWork hgone hr, hc]
  dsimp only
  rw [if_neg (by omega)]
  generalize hw : w.launch u.fresh t ((u.tenant t).lastLid + 1) (some k) k cap (u.tenant t).memb = l
  obtain ⟨i1, h1⟩ := State.openInst_eq (u.setTenant t { u.tenant t with lastLid := l.lid }) t 4 l.job 0
  rw [h1]
  obtain ⟨i2, h2⟩ := State.openInst_eq { u.setTenant t { u.tenant t with lastLid := l.lid } with insts := i1 } t 3 l.phase l.job
  rw [h2]
  obtain ⟨i3, h3⟩ := State.openInst_eq { u.setTenant t { u.tenant t with lastLid := l.lid } with insts := i2 } t 2 l.graph l.phase
  rw [h3]
  refine ⟨l, i3, _, rfl, ?_⟩
  subst hw
  exact ⟨rfl, rfl, rfl, min_le_right _ _⟩

end

section
variable {s u : State} {k len : Nat} {va : Va} {w : WorkIn} (hs : Intact s) (hh : (s.queue k).hold = some (.launch va, len))
  (hsig : ∀ g ∈ (s.queue k).signals, ∃ key ∈ g.launches, (s.launch? key).isSome = true) (hgone : ∀ p, s.gone (s.queue k).tenant p = false)
  (hr : s.readWork (s.queue k).tenant va.toNat = (u, some w))
include hh hsig

/-- An acceptance before which no signal is due (R54, R99). -/
theorem launchAccept_eq : exec (.launchAccept k) s = match s.accept va.toNat (s.queue k).tenant (some k) k (s.queue k).prioMax with
    | (t, .ok l) => .next ((t.setQueue k { t.queue k with lastLid := l.lid }).completeQ k (Queue.next len))
    | (t, .error 0x2E0) => .next t
    | (t, .error c) => .next (t.queueFault k c ((s.queue k).vaOf (s.queue k).ip) (s.queue k).level) := by
  have hnone : (s.queue k).signals.any s.signalDue = false := by
    refine List.any_eq_false.2 fun g hg hdue => ?_
    obtain ⟨key, hkey, hlive⟩ := hsig g hg
    rw [Option.isNone_iff_eq_none.1 (List.all_eq_true.1 hdue key hkey)] at hlive
    cases hlive
  have he : exec (.launchAccept k) s = execLaunchAccept k s := rfl
  rw [he, execLaunchAccept, hh, hnone]
  rfl

include hs hgone hr

theorem launchAccept_rejected {c : Nat} (hc : u.workCause (s.queue k).tenant w = some c) (hne : c ≠ 0x2E0) (hen : (s.queue k).en = true) :
    ∃ t, exec (.launchAccept k) s = .next t ∧ QueueFaulted s t k c (queueVa (s.queue k)) (s.queue k).ibs.length := by
  have hu := State.readWork_cached hs (s.queue k).tenant va.toNat
  rw [hr] at hu
  have hf := queueFault_faulted hu hen c ((s.queue k).vaOf (s.queue k).ip) (s.queue k).level
  rw [queueVa_eq] at hf
  refine ⟨_, ?_, hf⟩
  rw [launchAccept_eq hh hsig, State.accept_of_readWork hgone hr, hc]
  dsimp only
  split
  · cases ‹(_, _) = (_, _)›
  · cases ‹(_, _) = (_, _)›
    exact absurd rfl hne
  · cases ‹(_, _) = (_, _)›
    rfl

theorem launchAccept_accepted (hc : u.workCause (s.queue k).tenant w = none) (hl : (s.launches.filter (fun l => !l.cancelled)).length < 4096) :
    ∃ t l, exec (.launchAccept k) s = .next t ∧ t.mem = s.mem ∧ t.ctxs = s.ctxs ∧ t.launches = s.launches ++ [l] ∧
      l.lid = (s.tenant (s.queue k).tenant).lastLid + 1 ∧ (t.tenant (s.queue k).tenant).lastLid = l.lid ∧ l.tenant = (s.queue k).tenant ∧
      l.queue = some k ∧ l.prio ≤ (s.queue k).prioMax ∧ QueueHas s t k { onward (s.queue k) len with lastLid := l.lid } := by
  have hu := State.readWork_cached hs (s.queue k).tenant va.toNat
  rw [hr] at hu
  obtain ⟨tlb, walks, rfl⟩ := hu
  obtain ⟨l, insts, fresh, ha, hlid, ht, hq, hp⟩ := State.accept_ok (k := k) (cap := (s.queue k).prioMax) hgone hr hc hl
  have he := launchAccept_eq hh hsig
  rw [ha] at he
  generalize hv : ({ s with
      tlb := tlb, walks := walks, tenants := tset s.tenants (s.queue k).tenant { s.tenant (s.queue k).tenant with lastLid := l.lid }, insts := insts
      fresh := fresh, launches := s.launches ++ [l] } : State) = v
  have he : exec (.launchAccept k) s = .next ((v.setQueue k { s.queue k with lastLid := l.lid }).completeQ k (Queue.next len)) := by
    rw [he, ← hv]
    rfl
  have hvs : Intact (v.setQueue k { s.queue k with lastLid := l.lid }) := by
    rw [← hv]
    exact hs
  obtain ⟨⟨honly, -⟩, hhas⟩ := State.completeQ_spec hvs (k := k) (Queue.movesTo_onward ((v.setQueue k _).queue k) len)
  generalize (v.setQueue k { s.queue k with lastLid := l.lid }).completeQ k (Queue.next len) = x at *
  refine ⟨x, l, he, ?_, ?_, ?_, hlid, ?_, ht, hq, hp, ?_⟩
  · rw [honly, ← hv]
    rfl
  · rw [honly, ← hv]
    rfl
  · rw [honly, ← hv]
    rfl
  · rw [honly, ← hv]
    exact congrArg Tenant.lastLid (tget_tset_same _ _ _ _)
  · unfold QueueHas at hhas ⊢
    rw [State.queue_setQueue] at hhas
    exact hhas

end

/-! ### QDEP (R106) -/

/-- What QDEP names is over: the queue's launches and signals, the launches of an ID, or a level. -/
theorem State.depHolds_iff (s : State) (k : Nat) (kind : BitVec 5) (id : BitVec 32) : s.depHolds k kind.toNat id.toNat = true ↔
    if kind.toNat = 0 then (s.queue k).signals = [] ∧ ∀ l ∈ s.launches, l.queue ≠ some k
    else if kind.toNat = 1 then ∀ l ∈ s.launches, l.tenant = (s.queue k).tenant → l.lid = id → l.cancelled = true
    else ∀ x ∈ s.insts, ¬ (x.tenant = (s.queue k).tenant ∧ x.kind = kind.toNat ∧ x.id = id.toNat) := by
  unfold State.depHolds
  dsimp only
  match hk : kind.toNat with
  | 0 => simp
  | 1 => simp [BitVec.toNat_inj]
  | n + 2 => simp [State.inst?]

theorem kind_eq_one_iff (kind : BitVec 5) : kind = 1 ↔ kind.toNat = 1 := by
  rw [← BitVec.toNat_inj]
  rfl

theorem qdep_ahead {s : State} {kind : BitVec 5} {id : BitVec 32} (hk : kind.toNat = 1)
    (ha : let ahead := (id - (s.tenant (s.queue s.curq).tenant).lastLid).toNat; 0 < ahead ∧ ahead < 2 ^ 31) :
    exec (.qdep kind id) s = qfault 0x2CB s := if_pos ⟨(kind_eq_one_iff kind).2 hk, ha⟩

theorem qdep_assigned {s : State} {kind : BitVec 5} {id : BitVec 32}
    (ha : let ahead := (id - (s.tenant (s.queue s.curq).tenant).lastLid).toNat; kind.toNat ≠ 1 ∨ ahead = 0 ∨ 2 ^ 31 ≤ ahead) :
    exec (.qdep kind id) s = if s.depHolds s.curq kind.toNat id.toNat then qdone s else qhold 4 (.dep kind.toNat id.toNat) s :=
  if_neg fun h => by
    obtain ⟨h1, h2, h3⟩ := h
    rw [kind_eq_one_iff] at h1
    dsimp only at ha
    omega

/-! ### QREPLAY (R109, R267) -/

theorem insertParked_perm (p : Parked) (l : List Parked) : (insertParked p l).Perm (p :: l) := by
  induction l with
  | nil => exact .refl _
  | cons x l ih =>
    unfold insertParked
    split
    · exact .refl _
    · exact (ih.cons x).trans (.swap p x l)

theorem foldl_insertParked_perm (l m : List Parked) : (l.foldl (fun l p => insertParked p l) m).Perm (l ++ m) := by
  induction l generalizing m with
  | nil => exact .refl _
  | cons p l ih => exact (ih _).trans (((insertParked_perm p m).append_left l).trans List.perm_middle)

/-- A tenant whose parked requests are all due again (R267). -/
def Tenant.replayed (x : Tenant) (l : List Parked) : Tenant := { x with fb := [], fbDrop := false, replay := !l.isEmpty, resend := l, parked := [] }

theorem State.startReplay_eq (s : State) (t : Nat) : ∃ l walks, l.Perm ((s.tenant t).resend ++ (s.tenant t).parked) ∧
    s.startReplay t = { s with tenants := tset s.tenants t ((s.tenant t).replayed l), walks := walks } := by
  refine ⟨_, _, ?_, rfl⟩
  have hp := foldl_insertParked_perm ((s.tenant t).resend ++ (s.tenant t).parked) []
  rwa [List.append_nil] at hp

theorem Tenant.replayed_replay (x : Tenant) {l : List Parked} (hp : l.Perm (x.resend ++ x.parked)) :
    (x.replayed l).replay = true ↔ x.resend ++ x.parked ≠ [] := by
  have hnil : l = [] ↔ x.resend ++ x.parked = [] :=
    ⟨fun h => by rw [h] at hp; exact hp.nil_eq.symm, fun h => by rw [h] at hp; exact hp.eq_nil⟩
  rw [Ne, ← hnil, Tenant.replayed, Bool.not_eq_true', List.isEmpty_eq_false_iff]

/-- QREPLAY waits for a replay that has something to send, when it is to, and else goes on. -/
theorem qreplay_moves {s : State} (hs : Intact s) (w : BitVec 1) : let v := s.startReplay (s.queue s.curq).tenant
    ∃ t, exec (.qreplay w) s = .next t ∧ QueueOnly v t s.curq ∧
      if w = 1 ∧ (v.tenant (s.queue s.curq).tenant).replay = true then
        t.queue s.curq = { s.queue s.curq with st := 4, hold := some (.replay, s.len) }
      else QueueHas s t s.curq (onward (s.queue s.curq) s.len) := by
  intro v
  have he : exec (.qreplay w) s = if w = 1 ∧ (v.tenant (s.queue s.curq).tenant).replay = true then qhold 4 .replay v else qdone v := rfl
  have hv : Intact v := hs
  rw [he]
  split
  · exact qhold_held (.refl v) 4 .replay
  · exact qdoneWith_moved hv (.refl v) (Queue.movesTo_onward (v.queue v.curq) v.len)

theorem qreplay_due {s : State} (hs : Intact s) (w : BitVec 1) : ∃ t, exec (.qreplay w) s = .next t ∧ t.mem = s.mem ∧ t.ctxs = s.ctxs ∧
    t.launches = s.launches ∧
    let x := t.tenant (s.queue s.curq).tenant
    let y := s.tenant (s.queue s.curq).tenant
    x.fb = [] ∧ x.fbDrop = false ∧ x.parked = [] ∧ x.resend.Perm (y.resend ++ y.parked) ∧ (x.replay = true ↔ y.resend ++ y.parked ≠ []) ∧
      ((w = 0 ∨ y.resend ++ y.parked = []) → QueueHas s t s.curq (onward (s.queue s.curq) s.len)) ∧
      (w = 1 → y.resend ++ y.parked ≠ [] → t.queue s.curq = { s.queue s.curq with st := 4, hold := some (.replay, s.len) }) := by
  obtain ⟨l, walks, hp, hstart⟩ := s.startReplay_eq (s.queue s.curq).tenant
  obtain ⟨t, he, ⟨honly, -⟩, hq⟩ := qreplay_moves hs w
  have hrep := Tenant.replayed_replay _ hp
  have hset : (s.startReplay (s.queue s.curq).tenant).tenant (s.queue s.curq).tenant = (s.tenant (s.queue s.curq).tenant).replayed l := by
    rw [hstart]
    exact tget_tset_same _ _ _ _
  have ht : t.tenant (s.queue s.curq).tenant = (s.tenant (s.queue s.curq).tenant).replayed l := by
    rw [← hset, honly]
    rfl
  rw [hset] at hq
  refine ⟨t, he, by rw [honly, hstart], by rw [honly, hstart], by rw [honly, hstart], ?_⟩
  dsimp only
  rw [ht]
  refine ⟨rfl, rfl, rfl, hp, hrep, fun hn => ?_, fun h1 hne => ?_⟩
  · rwa [if_neg] at hq
    rintro ⟨rfl, hr⟩
    exact hn.elim (by decide) (hrep.1 hr)
  · rwa [if_pos ⟨h1, hrep.2 hne⟩] at hq

theorem queueLaunches : QueueLaunches := by
  intro s k hs
  refine ⟨fun va hk => ?_, fun va len u w hh hsig hr hgone => ?_, fun kind id hk hkind => ?_, fun w hk => ?_⟩
  · subst hk
    exact qhold_held (.refl s) 4 _
  · exact ⟨fun c hc hne hen => launchAccept_rejected hs hh hsig hgone hr hc hne hen,
      fun hc hl => launchAccept_accepted hs hh hsig hgone hr hc hl⟩
  · subst hk
    refine ⟨fun h1 hpos hlt hen => ?_, fun ha => ?_⟩
    · rw [qdep_ahead h1 ⟨hpos, hlt⟩]
      exact qfault_faulted (.refl s) hen 0x2CB
    · rw [qdep_assigned ha, ← s.depHolds_iff]
      refine ⟨fun ho => ?_, fun ho => ?_⟩
      · rw [if_pos ho]
        exact qdoneWith_moved hs (.refl s) (Queue.movesTo_onward ..)
      · rw [if_neg ho]
        exact qhold_held (.refl s) 4 _
  · subst hk
    exact qreplay_due hs w

/-! ### The choice among queues (R89) -/

/-- The place of a queue of an engine in the rotation behind the one served last. -/
def turnOf (last i : Nat) : Nat := (i + 7 - last) % 8

/-- The queues of an engine in rotation behind the one served last. -/
def rotation (e last : Nat) : List Nat := (List.range 8).map (fun i => 8 * e + (last + 1 + i) % 8)

theorem mem_rotation {e last k : Nat} : k ∈ rotation e last ↔ ∃ i < 8, k = 8 * e + i := by
  simp only [rotation, List.mem_map, List.mem_range]
  constructor
  · rintro ⟨i, -, rfl⟩
    exact ⟨_, Nat.mod_lt _ (by decide), rfl⟩
  · rintro ⟨i, hi, rfl⟩
    exact ⟨(i + 7 * (last + 1)) % 8, Nat.mod_lt _ (by decide), by omega⟩

theorem turnOf_rotation {last i : Nat} (hl : last < 8) (hi : i < 8) : turnOf last ((last + 1 + i) % 8) = i := by
  unfold turnOf
  omega

theorem rotation_pairwise {e last : Nat} (h : last < 8) : (rotation e last).Pairwise (fun a b => turnOf last (a - 8 * e) < turnOf last (b - 8 * e)) := by
  refine List.pairwise_map.2 (List.pairwise_lt_range.imp_of_mem fun hi hj hij => ?_)
  rwa [Nat.add_sub_cancel_left, Nat.add_sub_cancel_left, turnOf_rotation h (List.mem_range.1 hi), turnOf_rotation h (List.mem_range.1 hj)]

/-- An engine chooses the first of the queues of greatest priority in its rotation. -/
theorem State.chooseQueue_eq (s : State) (e : Nat) :
    s.chooseQueue e = ((rotation e (tget 7 s.lastServed e)).filter s.runnable).argmax (fun k => (s.queue k).prio) := by
  have hf : (fun (best : Option Nat) k => match best with
      | none => some k
      | some b => if (s.queue b).prio < (s.queue k).prio then some k else some b) = List.argAux (fun b c => (s.queue c).prio < (s.queue b).prio) := by
    funext best k
    cases best <;> rfl
  exact congrArg (fun f => List.foldl f none ((rotation e (tget 7 s.lastServed e)).filter s.runnable)) hf

/-- In a list in increasing order, what stands no later is no greater. -/
theorem le_of_idxOf_le {l : List Nat} {f : Nat → Nat} (hp : l.Pairwise (fun a b => f a < f b)) {a b : Nat} (ha : a ∈ l) (hb : b ∈ l)
    (hi : l.idxOf a ≤ l.idxOf b) : f a ≤ f b := by
  have hla := List.idxOf_lt_length_iff.2 ha
  have hlb := List.idxOf_lt_length_iff.2 hb
  obtain heq | hlt := hi.eq_or_lt
  · rw [(List.idxOf_inj ha).1 heq]
  · have h := List.pairwise_iff_getElem.1 hp _ _ hla hlb hlt
    rw [List.getElem_idxOf, List.getElem_idxOf] at h
    exact h.le

section
variable {s : State} {e : Nat}

theorem chooseQueue_none (h : ∀ i < 8, s.runnable (8 * e + i) = false) : s.chooseQueue e = none := by
  rw [State.chooseQueue_eq, List.argmax_eq_none, List.filter_eq_nil_iff]
  intro k hk
  obtain ⟨i, hi, rfl⟩ := mem_rotation.1 hk
  rw [h i hi]
  exact Bool.false_ne_true

theorem chooseQueue_some {j : Nat} (hj : j < 8) (hr : s.runnable (8 * e + j) = true) :
    ∃ i < 8, s.chooseQueue e = some (8 * e + i) ∧ s.runnable (8 * e + i) = true ∧ (s.queue (8 * e + j)).prio ≤ (s.queue (8 * e + i)).prio ∧
      ((s.queue (8 * e + j)).prio = (s.queue (8 * e + i)).prio → tget 7 s.lastServed e < 8 →
        turnOf (tget 7 s.lastServed e) i ≤ turnOf (tget 7 s.lastServed e) j) := by
  have hmem : 8 * e + j ∈ (rotation e (tget 7 s.lastServed e)).filter s.runnable := List.mem_filter.2 ⟨mem_rotation.2 ⟨j, hj, rfl⟩, hr⟩
  cases hc : s.chooseQueue e with
  | none =>
    rw [State.chooseQueue_eq, List.argmax_eq_none] at hc
    rw [hc] at hmem
    cases hmem
  | some k =>
    rw [State.chooseQueue_eq] at hc
    have hk := List.argmax_mem hc
    obtain ⟨hrot, hrun⟩ := List.mem_filter.1 hk
    obtain ⟨i, hi, rfl⟩ := mem_rotation.1 hrot
    refine ⟨i, hi, rfl, hrun, List.le_of_mem_argmax (f := fun k => (s.queue k).prio) hmem hc, fun heq hlast => ?_⟩
    have hle := le_of_idxOf_le ((rotation_pairwise hlast).filter s.runnable) hk hmem (List.index_of_argmax (f := fun k => (s.queue k).prio) hc hmem heq.ge)
    rwa [Nat.add_sub_cancel_left, Nat.add_sub_cancel_left] at hle

/-- What an engine that serves no runnable queue serves next (R89). -/
theorem queueSelect_eq (he : e < 8) (h : tget 0 s.serving e = 0 ∨ s.runnable (tget 0 s.serving e - 1) = false) :
    exec (.queueSelect e) s = .next (match s.chooseQueue e with
      | none => { s with serving := tset s.serving e 0 }
      | some k => { s.setQueue k { s.queue k with st := 2 } with serving := tset s.serving e (k + 1) }) := by
  have hn : ¬ (tget 0 s.serving e ≠ 0 ∧ s.runnable (tget 0 s.serving e - 1) = true) := by
    rintro ⟨h0, hr⟩
    obtain h | h := h
    · exact h0 h
    · rw [h] at hr
      cases hr
  have hx : exec (.queueSelect e) s = .next (s.selectQueue e) := congrArg Host.Outcome.next (if_pos he)
  exact hx.trans (congrArg Host.Outcome.next (if_neg hn))

theorem queueSelect_chooses (he : e < 8) (h : tget 0 s.serving e = 0 ∨ s.runnable (tget 0 s.serving e - 1) = false) :
    ∃ t, exec (.queueSelect e) s = .next t ∧ t = { s with queues := t.queues, serving := t.serving } ∧
      ((∀ i < 8, s.runnable (8 * e + i) = false) → t.queues = s.queues ∧ tget 0 t.serving e = 0) ∧
      ∀ j < 8, s.runnable (8 * e + j) = true →
        ∃ i < 8, let k := 8 * e + i
          s.runnable k = true ∧ tget 0 t.serving e = k + 1 ∧ t.queue k = { s.queue k with st := 2 } ∧
          (∀ k', k' ≠ k → t.queue k' = s.queue k') ∧ (s.queue (8 * e + j)).prio ≤ (s.queue k).prio ∧
          ((s.queue (8 * e + j)).prio = (s.queue k).prio → tget 7 s.lastServed e < 8 →
            (i + 7 - tget 7 s.lastServed e) % 8 ≤ (j + 7 - tget 7 s.lastServed e) % 8) := by
  rw [queueSelect_eq he h]
  cases hc : s.chooseQueue e with
  | none =>
    refine ⟨_, rfl, rfl, fun _ => ⟨rfl, tget_tset_same _ _ _ _⟩, fun j hj hr => ?_⟩
    obtain ⟨i, -, hsome, -⟩ := chooseQueue_some hj hr
    rw [hc] at hsome
    cases hsome
  | some k =>
    refine ⟨_, rfl, rfl, fun hnone => ?_, fun j hj hr => ?_⟩
    · rw [chooseQueue_none hnone] at hc
      cases hc
    · obtain ⟨i, hi, hsome, hrun, hprio, hturn⟩ := chooseQueue_some hj hr
      rw [hc] at hsome
      cases hsome
      exact ⟨i, hi, hrun, tget_tset_same _ _ _ _, State.queue_setQueue .., fun k' hk' => State.queue_setQueue_other s _ k' _ hk', hprio, hturn⟩

end

/-! ### The entry of a block (R91) -/

theorem Queue.vaOf_eq {q : Queue} {o : Nat} (h : q.ibs = [] → o < q.ring) : q.vaOf o = q.base0 + o := by
  unfold Queue.vaOf Queue.level
  split
  · rw [Nat.mod_eq_of_lt (h (List.length_eq_zero_iff.1 ‹_›))]
  · rfl

theorem Queue.limit_le_ring {q : Queue} (hb : q.ibs = []) (ht : q.tail ≤ q.ring) : q.limit ≤ q.ring := by
  unfold Queue.limit
  rw [hb]
  dsimp only
  split
  · exact ht
  · exact le_rfl

/-- The offsets of a block's words within the limits. -/
theorem Queue.mem_blockWords {q : Queue} {b lo o : Nat} :
    o ∈ q.blockWords b lo ↔ lo ≤ o ∧ o < q.limit ∧ (q.base0 + o) % 4 = 0 ∧ (q.base0 + o) / 512 = b := by
  simp only [Queue.blockWords, List.mem_filterMap, List.mem_range, Option.ite_none_right_eq_some, Option.some.injEq]
  refine ⟨?_, fun ⟨hlo, hlim, h4, hb⟩ => ⟨(q.base0 + o - b * 512) / 4, ?_⟩⟩
  · rintro ⟨k, hk, ⟨hbase, hlo, hlim⟩, rfl⟩
    omega
  · omega

/-- What an engine reads of a word of its stream, if it can (R94). -/
def State.wordOf (s : State) (q : Queue) (o : Nat) : Option (BitVec 32) :=
  match (s.check q.req (q.vaOf o) 4 0).2 with
  | .ok t => some (BitVec.ofNat 32 (s.readTarget t 4))
  | _ => none

theorem State.wordOf_eq_some {s : State} {q : Queue} {o : Nat} {w : BitVec 32} (hc : (s.check q.req (q.vaOf o) 4 0).1 = s) :
    s.wordOf q o = some w ↔ ∃ x, s.check q.req (q.vaOf o) 4 0 = (s, .ok x) ∧ w = BitVec.ofNat 32 (s.readTarget x 4) := by
  unfold State.wordOf
  generalize s.check q.req (q.vaOf o) 4 0 = r at hc ⊢
  obtain ⟨t, x⟩ := r
  subst hc
  cases x with
  | ok x => simp [eq_comm]
  | trap c => simp
  | absent => simp

theorem readBlock_of_check {s : State} (hs : Intact s) {q : Queue} (hc : ∀ va, (s.check q.req va 4 0).1 = s) (l : List Nat) :
    readBlock q l s = (s, l.filterMap (fun o => (s.wordOf q o).map (fun w => (o, w)))) := by
  induction l with
  | nil => rfl
  | cons o l ih =>
    unfold readBlock
    rw [State.readWord_of_intact hs, hc, List.filterMap_cons, State.wordOf]
    cases (s.check q.req (q.vaOf o) 4 0).2 <;> (dsimp only; rw [ih]; rfl)

theorem State.enterBlock_of_check {s : State} (hs : Intact s) {k : Nat} (hc : ∀ va, (s.check (s.queue k).req va 4 0).1 = s) :
    let q := s.queue k
    s.enterBlock k = s.setQueue k { q with
      ahead := (q.blockWords (q.blockOf q.ip) q.ip ++ q.blockWords (q.blockOf q.ip + 1) 0).filterMap (fun o => (s.wordOf q o).map (fun w => (o, w)))
      block := some (q.blockOf q.ip) } := by
  unfold State.enterBlock
  dsimp only
  rw [readBlock_of_check hs hc]

/-- The words that an entry reads: those of the block of the next instruction and of the block behind it, within the limits. -/
theorem mem_enterBlock {s : State} {q : Queue} (hring : q.ibs = [] → q.ip < q.ring ∧ q.tail ≤ q.ring) {o : Nat} {w : BitVec 32} :
    (o, w) ∈ (q.blockWords (q.blockOf q.ip) q.ip ++ q.blockWords (q.blockOf q.ip + 1) 0).filterMap (fun o => (s.wordOf q o).map (fun w => (o, w))) ↔
      q.ip ≤ o ∧ o < q.limit ∧ (q.base0 + o) % 4 = 0 ∧ (q.base0 + o) / 512 ≤ (q.base0 + q.ip) / 512 + 1 ∧ s.wordOf q o = some w := by
  have hip : q.blockOf q.ip = (q.base0 + q.ip) / 512 := congrArg (· / 512) (Queue.vaOf_eq fun hb => (hring hb).1)
  rw [hip]
  simp only [List.mem_filterMap, List.mem_append, Queue.mem_blockWords, Option.map_eq_some_iff, Prod.mk.injEq]
  constructor
  · rintro ⟨o', hm, w', hw, rfl, rfl⟩
    exact ⟨by omega, by omega, by omega, by omega, hw⟩
  · rintro ⟨hlo, hlim, h4, hb, hw⟩
    exact ⟨o, by omega, w, hw, rfl, rfl⟩

theorem fetchBlockRead_reads {s : State} {k : Nat} (hen : (s.queue k).en = true) (hblock : (s.queue k).block = none) (hhold : (s.queue k).hold = none)
    (hst : (s.queue k).st = 1 ∨ (s.queue k).st = 2) (hleft : (s.queue k).left ≠ 0)
    (hring : (s.queue k).ibs = [] → (s.queue k).ip < (s.queue k).ring ∧ (s.queue k).tail ≤ (s.queue k).ring) (hs : Intact s)
    (hc : ∀ va, (s.check ⟨512, (s.queue k).tenant, .other⟩ va 4 0).1 = s) :
    let q := s.queue k
    ∃ p : Queue, exec (.fetchBlockRead k) s = .next { s with queues := tset s.queues k p } ∧
      p = { q with ahead := p.ahead, block := some ((q.base0 + q.ip) / 512) } ∧
      ∀ o w, (o, w) ∈ p.ahead ↔
        q.ip ≤ o ∧ o < q.limit ∧ (q.base0 + o) % 4 = 0 ∧ (q.base0 + o) / 512 ≤ (q.base0 + q.ip) / 512 + 1 ∧
          ∃ x, s.check ⟨512, q.tenant, .other⟩ (q.base0 + o) 4 0 = (s, .ok x) ∧ w = BitVec.ofNat 32 (s.readTarget x 4) := by
  have he : exec (.fetchBlockRead k) s = .next (s.enterBlock k) := congrArg Host.Outcome.next (if_pos ⟨hen, hblock, hhold, hst, hleft⟩)
  rw [State.enterBlock_of_check hs hc] at he
  have hip : (s.queue k).blockOf (s.queue k).ip = ((s.queue k).base0 + (s.queue k).ip) / 512 := congrArg (· / 512) (Queue.vaOf_eq fun hb => (hring hb).1)
  refine ⟨_, he, by rw [hip], fun o w => (mem_enterBlock hring).trans ?_⟩
  have hva : o < (s.queue k).limit → (s.queue k).vaOf o = (s.queue k).base0 + o :=
    fun ho => Queue.vaOf_eq fun hb => ho.trans_le (Queue.limit_le_ring hb (hring hb).2)
  refine and_congr_right fun _ => and_congr_right fun ho => and_congr_right fun _ => and_congr_right fun _ => ?_
  rw [State.wordOf_eq_some (hc _), hva ho]
  rfl

theorem enginesChooseAndFetch : EnginesChooseAndFetch := fun _ =>
  ⟨fun _ he h => queueSelect_chooses he h,
    fun _ hen hblock hhold hst hleft hring hs hc => fetchBlockRead_reads hen hblock hhold hst hleft hring hs hc⟩

end Sys2Proof.Machine

/-- Settles O37. -/
theorem Sys2Proof.queuesLaunchAndAreChosen : Obligations.QueuesLaunchAndAreChosen := ⟨Machine.queueLaunches, Machine.enginesChooseAndFetch⟩

/-! ## Register zero -/

/-- Settles O48: `Bank.rg` and `Bank.wg` give g0 a case of its own (`Machine.Bank.rg_wg`). -/
theorem Sys2Proof.registerZeroIsHardWired : Obligations.RegisterZeroIsHardWired := by
  refine ⟨fun b => rfl, fun b x => rfl, fun b n r x hn => ?_⟩
  rw [Sys2Proof.Machine.Bank.rg_wg]
  simp [hn]

/-! ## Instructions of a calm thread

What a calm thread finds settled: its instruction ends at once, a fence holds nothing up, and a read of memory fills TLBs and no more
(R142, R252, R261, R264). -/

namespace Sys2Proof.Machine

/-! ### The instruction of a calm thread -/

theorem Cached.calm {s t : State} (h : Cached s t) (hs : Calm s) : Calm t := by
  obtain ⟨_, _, rfl⟩ := h
  exact ⟨⟨hs.wins, hs.frame, hs.fresh, hs.reply⟩, hs.rlx, hs.scope, hs.acq, hs.ports, hs.rings, hs.intact⟩

theorem Cached.me {s t : State} (h : Cached s t) : t.me = s.me := by
  obtain ⟨_, _, rfl⟩ := h
  rfl

/-- An entry of a table is listed or has the default value. -/
theorem tget_mem_or_eq {α : Type} (d : α) (t : Tbl α) (k : Nat) : (∃ p ∈ t, p.2 = tget d t k) ∨ tget d t k = d := by
  induction t with
  | nil => exact .inr rfl
  | cons p t ih =>
    unfold tget
    split
    · exact .inl ⟨p, List.mem_cons_self, rfl⟩
    · exact ih.imp_left fun ⟨q, hq, he⟩ => ⟨q, List.mem_cons_of_mem p hq, he⟩

/-- An LDT whose reads are parked holds its thread's accesses too (R221, R236). -/
theorem ldtHeld_of_acqHeld {s : State} {r : BankRef} (h : s.acqHeld r = false) : s.ldtHeld r = false := by
  simp only [State.acqHeld, Bool.or_eq_false_iff] at h
  obtain ⟨-, hunits⟩ := h
  obtain ⟨p, hp, he⟩ | he := tget_mem_or_eq {} s.tiles r.tile
  · refine List.any_eq_false.2 fun c hc hbad => ?_
    rw [State.tile, ← he] at hc
    simp only [Bool.and_eq_true] at hbad
    refine List.any_eq_false.1 hunits p hp (List.any_eq_true.2 ⟨c, hc, ?_⟩)
    simp [hbad]
  · unfold State.ldtHeld State.tile
    rw [he]
    rfl

section
variable {s : State} (h : Calm s)
include h

theorem fenceGate_calm (f : State → Out) : fenceGate s f = f s := by
  have hrlx : s.me.rlx.any (fun a => (s.accessBusy a).isSome) = false := by rw [h.rlx]; rfl
  rw [fenceGate, ldtHeld_of_acqHeld h.acq, if_neg Bool.false_ne_true, rlxGate, hrlx, if_neg Bool.false_ne_true]

theorem drain_calm (scope : Nat) : s.drain s.curRef scope = s := by
  rw [State.drain, show (s.bank s.curRef).rlx = [] from h.rlx]
  exact ite_self s

end

theorem writeBack_none {s : State} {r : BankRef} (h : (s.bank r).wins = []) : s.writeBack r = s := by
  unfold State.writeBack
  rw [h]
  rfl

/-- The issue of a quiet thread's instruction is its end. -/
theorem issued_quiet {s : State} (h : Quiet s) : s.issued = ended s s.me := by
  unfold State.issued ended
  rw [Bank.stepped_quiet _ _ h.fresh h.wins h.frame]
  exact noReply h _ rfl

theorem curRef_ended (s : State) (k : Bank) : (ended s k).curRef = s.curRef := State.curRef_setMe s.unscoped _

theorem bank_ended (s : State) (k : Bank) : (ended s k).bank s.curRef = passed k s.len := State.bank_setMe s.unscoped _

theorem ended_me (s : State) (k : Bank) : (ended s k).me = passed k s.len := State.me_setMe s.unscoped _

/-- A quiet thread that parks has issued its instruction and waits (R142). -/
theorem park_quiet {s : State} (h : Quiet s) (w : Wait) : s.park w = parkedOn s s.me w := by
  have hp : s.park w = (parkedOn s s.me w).writeBack s.curRef := by
    unfold State.park
    dsimp only
    rw [issued_quiet h, ended_me, curRef_ended]
    exact congrArg (State.writeBack · s.curRef) (State.setMe_setMe s.unscoped _ _)
  have hw : ((parkedOn s s.me w).bank s.curRef).wins = [] := by
    rw [parkedOn, bank_ended]
    exact h.wins
  rw [hp, writeBack_none hw]

/-- A scalar result that is there at once, and the end of the instruction. -/
theorem ret_quiet {s : State} (h : Quiet s) (d : BitVec 5) (x : Dword) : ret d x s = .next (ended s (s.me.wg d.toNat x)) := by
  refine congrArg _ (retire_setMe h _ ?_ ?_ ?_ ?_) <;> by_cases hd : d.toNat = 0 <;> simp [Bank.wg, hd]

/-! ### TIME, RPT and HFCALL (R148, R149, R150, R390) -/

section
variable {s : State} (h : Unwatched s)
include h

theorem State.fetchUnit_cached (r : BankRef) (va : Va) : Cached s (s.fetchUnit r va).1 := by
  have hc := State.check_cached h.1 ((s.bank r).req (r.tile % 512)) va.toNat 2 2
  unfold State.fetchUnit
  generalize s.check ((s.bank r).req (r.tile % 512)) va.toNat 2 2 = q at hc
  obtain ⟨t, (loc | _) | _ | _⟩ := q
  · have ht : Unwatched t := by obtain ⟨_, _, rfl⟩ := hc; exact h
    have hm : t.meetHalves ((16 - va.toNat % 16) / 2) loc = t := by
      rw [State.meetHalves, State.meet_of_intact ht.1]
      exact ite_self t
    dsimp only at hc ⊢
    rw [hm, State.traceAt_of_off _ _ _ _ _ _ _ _ ht.2]
    split <;> exact hc
  · exact hc
  · exact hc
  · exact hc

theorem State.frameWord_cached (r : BankRef) (va : Va) : Cached s (s.frameWord r va).1 := by
  have h1 := State.fetchUnit_cached h r va
  unfold State.frameWord
  generalize s.fetchUnit r va = q at h1
  obtain ⟨t, _ | hs⟩ := q
  · exact h1
  dsimp only at h1 ⊢
  split
  · exact h1
  have ht : Unwatched t := by obtain ⟨_, _, rfl⟩ := h1; exact h
  have h2 := State.fetchUnit_cached ht r (va + 2)
  generalize t.fetchUnit r (va + 2) = q at h2
  obtain ⟨u, _ | _⟩ := q <;> exact h1.trans h2

/-- The words of a frame's body are read, and nothing else happens (R150). -/
theorem State.loadBody_cached (r : BankRef) (n : Nat) (va : Va) : Cached s (s.loadBody r n va).1 := by
  induction n generalizing s va with
  | zero => exact .refl s
  | succ n ih =>
    have h1 := State.frameWord_cached h r va
    unfold State.loadBody
    generalize s.frameWord r va = q at h1
    obtain ⟨t, _ | _⟩ := q
    · exact h1
    · have ht : Unwatched t := by obtain ⟨_, _, rfl⟩ := h1; exact h
      exact h1.trans (ih ht _)

end

/-- A bank whose RPT has opened its frame (R150). -/
def rptOpened (s : State) (a n : BitVec 5) (x y z : BitVec 3) (body : List (BitVec 32)) : Bank :=
  { s.me with fbuf := [], rpt := ⟨true, false, s.me.pc, (s.rg a).setWidth 32, 0, n.toNat, x.toNat, y.toNat, z.toNat, 0, body⟩ }

section
variable {s : State} {a : BitVec 5} (n : BitVec 5) (x y z : BitVec 3) (hf : s.me.rpt.frozen = false)
include hf

theorem exec_rpt_skips (h : Quiet s) (hc : (s.rg a).setWidth 32 = 0#32) :
    exec (.rpt a n x y z) s = .next (jumpedTo s s.me (s.me.pc + BitVec.ofNat 48 (4 + 4 * (n.toNat + 1)))) := by
  have he : exec (.rpt a n x y z) s = .next (s.jump (s.me.pc + 4 + BitVec.ofNat 48 (4 * (n.toNat + 1)))) :=
    (if_neg (by rw [hf]; exact Bool.false_ne_true)).trans (if_pos hc)
  rw [he, jump_quiet h, BitVec.add_assoc, BitVec.ofNat_add]
  rfl

/-- RPT opens its frame with the words of its body (R149, R150). -/
theorem exec_rpt_opens (h : Calm s) (hc : (s.rg a).setWidth 32 ≠ 0#32) :
    let body := (ended s s.me).loadBody s.curRef (n.toNat + 1) (s.me.pc + 4)
    exec (.rpt a n x y z) s = .next { ended s (rptOpened s a n x y z body.2) with tlb := body.1.tlb, walks := body.1.walks } := by
  intro body
  have hbody : Cached (ended s s.me) body.1 := State.loadBody_cached (s := ended s s.me) ⟨h.intact, h.rings⟩ _ _ _
  have he : exec (.rpt a n x y z) s =
      .next ((body.1.setMe { body.1.me with fbuf := [], rpt := (rptOpened s a n x y z body.2).rpt }).closeDue s.curRef) := by
    have hi := issued_quiet h.toQuiet
    have hb : s.issued.loadBody s.issued.curRef (n.toNat + 1) (s.me.pc + 4) = body := by rw [hi, curRef_ended]
    rw [← hb, ← curRef_ended s s.me, ← hi]
    exact (if_neg (by rw [hf]; exact Bool.false_ne_true)).trans (if_neg hc)
  rw [he, hbody.me, ended_me]
  generalize body = q at hbody
  obtain ⟨t, ws⟩ := q
  obtain ⟨tlb, walks, rfl⟩ := hbody
  have hset : (ended s s.me).setMe { passed s.me s.len with fbuf := [], rpt := (rptOpened s a n x y z ws).rpt } = ended s (rptOpened s a n x y z ws) := by
    refine (State.setMe_setMe s.unscoped _ _).trans ?_
    rw [ended, passed, passed, show (rptOpened s a n x y z ws).fbuf = [] from rfl, List.drop_nil]
    rfl
  have hw : (((ended s s.me).setMe { passed s.me s.len with fbuf := [], rpt := (rptOpened s a n x y z ws).rpt }).bank s.curRef).wins = [] := by
    rw [hset, bank_ended]
    exact h.wins
  change _ = Host.Outcome.next { ended s (rptOpened s a n x y z ws) with tlb := tlb, walks := walks }
  rw [← hset]
  exact congrArg _ (closeDue_none hw)

end

section
variable {s : State} {v : BitVec 6} (d a : BitVec 5) (hk : s.me.kind < 2)
  (hv : v.toNat < 3 ∨ Config.serviceDefined (tget 0 s.boot.negotiated 3).toNat v.toNat = true)
include hk hv

theorem exec_hfcall_refused (h : Trappable s) (hr : Config.serviceRefused s.me.tenant v.toNat = true) :
    exec (.hfcall d a v) s = .next (trapEntered s s.me.pc 0x3F2 0 0) := by
  have he : exec (.hfcall d a v) s = trapAt 0x3F2 0 0 s :=
    (if_neg (by omega)).trans ((if_neg (by rintro ⟨h3, hd⟩; exact hv.elim (by omega) hd)).trans (if_pos hr))
  rw [he, trapAt_trappable h _ (by decide) (fun _ => by decide)]

/-- A service that the firmware does not refuse is called: QUERY with an argument of 0, and ATTEST when its buffer can be written. -/
theorem exec_hfcall_served {u : State} (hr : Config.serviceRefused s.me.tenant v.toNat = false) (h0 : v = 0 → s.rg a = 0)
    (h2 : if v = 2 then ∃ l, s.attestBuffer s.curRef (s.rg a).toNat = (u, .ok l) else u = s) :
    exec (.hfcall d a v) s = fenceGate u fun u => .next ((u.drain u.curRef 4).park (.hfcall v.toNat d.toNat (s.rg a))) := by
  have hdef : ¬ (3 ≤ v.toNat ∧ ¬ Config.serviceDefined (tget 0 s.boot.negotiated 3).toNat v.toNat = true) := by
    rintro ⟨h3, hd⟩
    exact hv.elim (by omega) hd
  change execHfcall d a v s = _
  unfold execHfcall
  dsimp only
  rw [if_neg (by omega), if_neg hdef, if_neg (by rw [hr]; exact Bool.false_ne_true)]
  split
  · next hz =>
    have hz' : v = 0 := BitVec.eq_of_toNat_eq hz
    rw [if_neg (by rw [hz']; decide)] at h2
    rw [h2]
    exact if_neg (not_not_intro (h0 hz'))
  · next htwo =>
    rw [if_pos (BitVec.eq_of_toNat_eq htwo)] at h2
    obtain ⟨l, hl⟩ := h2
    rw [hl]
  · next htwo =>
    rw [if_neg (fun e => htwo (by rw [e]; rfl))] at h2
    rw [h2]

end

/-- HFCALL's release holds a calm thread up by nothing, and it parks for the reply (R390). -/
theorem call_parks {s : State} (h : Calm s) (w : Wait) :
    fenceGate s (fun s => .next ((s.drain s.curRef 4).park w)) = .next (parkedOn s s.me w) := by
  rw [fenceGate_calm h, drain_calm h, park_quiet h.toQuiet]

/-- ATTEST's buffer is translated, and nothing else happens. -/
theorem State.attestBuffer_cached {s : State} (h : Intact s) (r : BankRef) (va : Nat) : Cached s (s.attestBuffer r va).1 := by
  have hl := State.runLocs_cached ((s.bank r).req r.tile) 1 65 va 4096 [] h
  unfold State.attestBuffer
  generalize s.runLocs ((s.bank r).req r.tile) 1 65 va 4096 [] = q at hl
  obtain ⟨t, e | l⟩ := q
  · split
    · exact .refl s
    · exact hl
  · split
    · exact .refl s
    · dsimp only
      split <;> exact hl

theorem controlInstructionsComplete : Obligations.ControlInstructionsComplete := by
  intro s d a n x y z v h
  refine ⟨done_quiet h.toQuiet d.toNat 2 s.dtb, fun hf => ?_, fun hk hv => ⟨fun hr ht => exec_hfcall_refused d a hk hv ht hr, fun hr => ?_⟩⟩
  · split
    · next hc => exact exec_rpt_skips n x y z hf h.toQuiet hc
    · next hc => exact exec_rpt_opens n x y z hf h hc
  · refine ⟨fun h2 h0 => ?_, fun u l h2 hu => ?_⟩
    · rw [exec_hfcall_served d a hk hv hr h0 (by rw [if_neg h2]), call_parks h]
    · have hc := State.attestBuffer_cached h.intact s.curRef (s.rg a).toNat
      rw [hu] at hc
      rw [exec_hfcall_served d a hk hv hr (fun h0 => absurd (h2.symm.trans h0) (by decide)) (by rw [if_pos h2]; exact ⟨l, hu⟩),
        call_parks (hc.calm h), hc.me]

end Sys2Proof.Machine

/-- Settles O13. A quiet thread's TIME and RPT end or jump, the body of a frame is read through the TLBs alone, and HFCALL waits behind the checks that
its service asks for. -/
theorem Sys2Proof.controlInstructionsComplete : Obligations.ControlInstructionsComplete := Machine.controlInstructionsComplete

/-! ## Reflex slots

PRIME and UNPRIME write the slot's reflex state, which no thread's bank shares, and end as any instruction does; a ceiling and a bank switch act on a
slot by themselves (R140, R358 to R364). -/

namespace Sys2Proof.Machine

/-! ### A context changes in part -/

/-- What an update of a context leaves of it, it leaves of every context. -/
theorem State.ctx_setCtx_part {α : Type} (f : Ctx → α) (s : State) {tile slot : Nat} {c : Ctx} (h : f c = f (s.ctx tile slot)) (t k : Nat) :
    f ((s.setCtx tile slot c).ctx t k) = f (s.ctx t k) := by
  by_cases hk : t * 8 + k = tile * 8 + slot
  · have hs : s.ctx t k = s.ctx tile slot := congrArg (tget ({} : Ctx) s.ctxs) hk
    have hn : (s.setCtx tile slot c).ctx t k = c := (congrArg (tget ({} : Ctx) (s.setCtx tile slot c).ctxs) hk).trans (State.ctx_setCtx ..)
    rw [hs, hn, h]
  · rw [State.ctx_setCtx_other _ _ _ _ _ _ hk]

@[simp] theorem State.reflex_setBank (s : State) (r : BankRef) (k : Bank) (t l : Nat) : ((s.setBank r k).ctx t l).reflex = (s.ctx t l).reflex :=
  s.ctx_setCtx_part Ctx.reflex (Ctx.setBank_reflex ..) t l

section
variable {s : State} {tile slot : Nat} {c : Ctx} (ha : c.active = (s.ctx tile slot).active)
include ha

theorem State.curRef_setCtx : (s.setCtx tile slot c).curRef = s.curRef :=
  congrArg (BankRef.mk s.cur.1 s.cur.2) (s.ctx_setCtx_part Ctx.active ha ..)

variable (hb : c.b0 = (s.ctx tile slot).b0) (h0 : s.curRef.bank = 0)
include hb h0

/-- A thread of bank 0 keeps its bank when its context keeps bank 0. -/
theorem State.me_setCtx : (s.setCtx tile slot c).me = s.me := by
  have hc : ((s.setCtx tile slot c).ctx s.cur.1 s.cur.2).b0 = (s.ctx s.cur.1 s.cur.2).b0 := s.ctx_setCtx_part Ctx.b0 hb ..
  have hbank (x : Ctx) : x.bank s.curRef.bank = x.b0 := if_pos h0
  rw [State.me, State.curRef_setCtx ha]
  exact (hbank _).trans (hc.trans (hbank _).symm)

theorem quiet_setCtx (h : Quiet s) : Quiet (s.setCtx tile slot c) := by
  have hm := State.me_setCtx ha hb h0
  exact ⟨by rw [hm]; exact h.wins, by rw [hm]; exact h.frame, by rw [hm]; exact h.fresh, by rw [hm]; exact h.reply⟩

/-- An instruction that answers at once, behind a change of a slot that leaves its thread's bank alone. -/
theorem ret_setCtx (h : Quiet s) (d : BitVec 5) (x : Dword) :
    ∃ t, ret d x (s.setCtx tile slot c) = .next t ∧ t.me = passed (s.me.wg d.toNat x) s.len ∧ t.mem = s.mem ∧ t.tiles = s.tiles ∧
      (t.ctx tile slot).reflex = c.reflex := by
  refine ⟨_, ret_quiet (quiet_setCtx ha hb h0 h) d x, ?_, rfl, rfl, ?_⟩
  · rw [ended_me, State.me_setCtx ha hb h0]
    rfl
  · exact (State.reflex_setBank ..).trans (congrArg Ctx.reflex (State.ctx_setCtx ..))

end

/-! ### PRIME (R358, R359) -/

/-- An XA thread reaches every aligned doubleword of its near window (R243, R254). -/
theorem checkMap_near {s : State} (hx : isXa s.cur.1 = true) {va : Nat} (hva : va < 0x80000) (h8 : va % 8 = 0) : s.checkMap s.req va 8 0 = none := by
  have hr : region va = .near va := by
    unfold region
    rw [if_neg (by omega), if_pos (by omega)]
  have hmap : s.req.map = .xa := if_pos hx
  unfold State.checkMap
  rw [hr]
  have hout : outsideMap s.req 0 (.near va) = false := by
    unfold outsideMap
    rw [hmap]
    exact decide_eq_false (by omega)
  simp [hout, h8, sizeOk, State.tenantOk, State.leashOk]

theorem isNear_of_lt {va : Nat} (hva : va < 0x80000) : isNear va = true := by
  unfold isNear region
  rw [if_neg (by omega), if_pos (by omega)]

/-- The presets that PRIME arms a slot with (R358). -/
def primePreset (s : State) (a b : BitVec 5) (k : Task) (l : Launch) (off : Nat) : Preset :=
  ⟨l.hdr + BitVec.ofNat 48 off, s.me.rg 5, s.me.rg 6, s.me.rg 7, s.me.od, l.numctl, (s.rg a).toNat, dfld (s.rg b) 31 16, k.id⟩

/-- A context that PRIME has armed (R358). -/
def armedCtx (c : Ctx) (p : Preset) : Ctx := { c with b1 := presetBank p, reflex := { armed := true, preset := some p } }

section
variable {s : State} {d a b : BitVec 5} {k : Task} {l : Launch} {off : Nat} (hx : isXa s.cur.1 = true) (hkind : s.me.kind = 0)
  (hk : s.task? s.me.task = some k)
include hx hkind hk

/-- What PRIME does once its operands are in order (R359). -/
theorem exec_prime (hl : s.launchOf s.me = some l) (h7 : dfld (s.rg b) 7 3 = 0) (h63 : dfld (s.rg b) 63 32 = 0)
    (hslot : dfld (s.rg b) 2 0 ∈ k.slots) (hrole : l.role (dfld (s.rg b) 15 8) 1 = some off) (hva : (s.rg a).toNat < 0x80000)
    (h8 : (s.rg a).toNat % 8 = 0) :
    let slot := dfld (s.rg b) 2 0
    let c := s.ctx s.cur.1 slot
    let p := primePreset s a b k l off
    exec (.prime d a b) s =
      if c.reflex.armed || c.reflex.active then ret d 1 s
      else if (s.armedOn s.cur.1 (s.rg a).toNat).isSome then ret d 2 s
      else
        let u := s.setCtx s.cur.1 slot (armedCtx c p)
        let u := (u.setMe (u.me.wg d.toNat 0)).retire
        .next (if u.tag (lsLoc s.cur.1 (s.rg a).toNat) then u.lateActivation s.cur.1 slot p false else u) := by
  intro slot c p
  have hcontains : k.slots.contains (dfld (s.rg b) 2 0) = true := by simpa using hslot
  change execPrime d a b s = _
  unfold execPrime
  dsimp only
  rw [if_neg (by simp [hx, hkind]), if_neg (by simp [h7, h63]), hk, hl]
  dsimp only
  rw [if_neg (not_not_intro hcontains), hrole]
  dsimp only
  rw [checkMap_near hx hva h8]
  dsimp only
  rw [if_neg (not_not_intro (isNear_of_lt hva))]
  rfl

/-! ### UNPRIME (R364) -/

/-- What UNPRIME does to a slot of the thread's task. -/
theorem exec_unprime (h8 : (s.rg a).toNat < 8) (hslot : (s.rg a).toNat ∈ k.slots) :
    let slot := (s.rg a).toNat
    let c := s.ctx s.cur.1 slot
    exec (.unprime d a) s =
      if c.reflex.active then ret d 1 (s.setCtx s.cur.1 slot { c with reflex := { c.reflex with disarm := true } })
      else if c.reflex.armed then ret d 0 (s.setCtx s.cur.1 slot { c with reflex := { c.reflex with armed := false, preset := none } })
      else ret d 2 s := by
  intro slot c
  have hlow : dfld (s.rg a) 2 0 = (s.rg a).toNat := by
    unfold dfld fld
    omega
  have hhigh : dfld (s.rg a) 63 3 = 0 := by
    unfold dfld fld
    omega
  change execUnprime d a s = _
  unfold execUnprime
  dsimp only
  rw [hlow, hk, if_neg (by simp [hx, hkind]), if_neg (by simp [hhigh, hslot])]

end

theorem reflexInstructions : ReflexInstructions := by
  intro s d a b k l off h hx hkind h0 hk hl
  refine ⟨?_, fun h8 hslot => ?_⟩
  · intro w va slot h7 h63 hslot hrole hva h8 x
    have he := exec_prime (d := d) hx hkind hk hl h7 h63 hslot hrole hva h8
    dsimp only at he
    refine ⟨fun hbusy => ?_, fun harm hact hword => ?_, fun harm hact hword htag hlt => ?_⟩
    · rw [he, if_pos (by simpa using hbusy), ret_quiet h.toQuiet]
    · have hfree : ¬ (x.armed || x.active) = true := by rw [harm, hact]; decide
      rw [he, if_neg hfree, if_pos (Option.isSome_iff_ne_none.2 hword), ret_quiet h.toQuiet]
    · obtain ⟨t, ht, hme, hmem, htiles, hreflex⟩ := ret_setCtx (c := armedCtx (s.ctx s.cur.1 slot) (primePreset s a b k l off))
        rfl rfl h0 h.toQuiet d 0
      rw [ret, Host.Outcome.next.injEq] at ht
      have htag' : t.tag (lsLoc s.cur.1 va) = false := by rw [State.tag, State.tile, htiles]; exact htag
      refine ⟨t, primePreset s a b k l off, ?_, hme, hmem, hreflex, rfl, rfl, rfl, rfl, rfl, rfl, rfl, rfl, rfl⟩
      have hfree : ¬ (x.armed || x.active) = true := by rw [harm, hact]; decide
      rw [he, if_neg hfree, if_neg (by rw [hword]; decide), ht, if_neg (by rw [htag']; decide)]
  · have he := exec_unprime (d := d) hx hkind hk h8 hslot
    dsimp only at he
    intro x leaves_
    have hleaves {y : Reflex} {v : Dword}
        (ho : exec (.unprime d a) s = ret d v (s.setCtx s.cur.1 (s.rg a).toNat { s.ctx s.cur.1 (s.rg a).toNat with reflex := y })) : leaves_ y v := by
      obtain ⟨t, ht, hme, hmem, -, hreflex⟩ := ret_setCtx (c := { s.ctx s.cur.1 (s.rg a).toNat with reflex := y }) rfl rfl h0 h.toQuiet d v
      exact ⟨t, ho.trans ht, hme, hmem, hreflex⟩
    refine ⟨fun hact => ?_, fun hact harm => ?_, fun hact harm => ?_⟩
    · exact hleaves (he.trans (if_pos hact))
    · exact hleaves (he.trans ((if_neg (by rw [hact]; decide)).trans (if_pos harm)))
    · rw [he, if_neg (by rw [hact]; decide), if_neg (by rw [harm]; decide), ret_quiet h.toQuiet]

/-! ### The ceiling of an activation (R361, R362) -/

/-- A log that is written to moves its head on or loses the record (R396). -/
theorem logAppend_moves (g : ErrLog) (bits : Bool → BitVec 512) :
    (logAppend g 256 bits).head ≠ g.head ∨ (logAppend g 256 bits).lost = true := by
  unfold logAppend
  split
  · exact .inr rfl
  · refine .inl ?_
    dsimp only
    omega

theorem State.record_log (s : State) (r : RecIn) : (s.record r).log = logAppend s.log 256 (recordBits r s.boot.dtb) := by
  unfold State.record
  cases r.tenant <;> cases r.launch <;> rfl

theorem State.unbind_none {s : State} {r : BankRef} {k : Nat} (h : (s.bank r).port k = none) : s.unbind r k = s := by
  unfold State.unbind
  dsimp only
  rw [h]

theorem State.unbindAll_none {s : State} {r : BankRef} (hpend : (s.bank r).pend = []) (hports : (s.bank r).ports = []) :
    s.unbindAll r = s.setBank r { s.bank r with pend := [] } := by
  have hall : s.landAll r = s.setBank r { s.bank r with pend := [] } := by
    unfold State.landAll
    dsimp only
    rw [hpend]
    rfl
  have hnone (k : Nat) : ((s.landAll r).bank r).port k = none := by
    rw [hall, State.bank_setBank]
    exact congrArg (tfind · k) hports
  rw [State.unbindAll, List.foldl_fixed' (fun k => State.unbind_none (hnone k)), hall]

/-- A bank that its thread has left with nothing outstanding (R128). -/
def Bank.left (b : Bank) : Bank := { b with wins := [], wait := none, pend := [] }

/-- A thread with nothing outstanding leaves its bank with its windows closed (R128, R330). -/
theorem State.leave_none {s : State} {r : BankRef} (hrlx : (s.bank r).rlx = []) (hports : (s.bank r).ports = []) (hpend : (s.bank r).pend = []) :
    s.leave r = s.setBank r (s.bank r).left := by
  have hl : s.leave r = (s.setBank r { s.bank r with wins := [], wait := none }).unbindAll r := by
    unfold State.leave
    dsimp only
    rw [hrlx]
    rfl
  rw [hl, State.unbindAll_none (by rw [State.bank_setBank]; exact hpend) (by rw [State.bank_setBank]; exact hports), State.bank_setBank,
    State.setBank_setBank]
  rfl

theorem State.dying_setBank {s : State} {r : BankRef} {k : Bank} (h : k.task = (s.bank r).task) : (s.setBank r k).dying r = s.dying r := by
  unfold State.dying
  rw [State.bank_setBank, h]
  rfl

theorem State.record_ctx (s : State) (r : RecIn) : (s.record r).ctx = s.ctx := by
  funext t k
  exact congrArg (tget ({} : Ctx) · (t * 8 + k)) (congrArg Notes.ctxs (s.record_notes r))

theorem State.record_cycle (s : State) (r : RecIn) : (s.record r).cycle = s.cycle := by
  unfold State.record
  cases r.tenant <;> cases r.launch <;> rfl

/-- What the end of an activation leaves (R361). -/
theorem State.endActivation_ctx (s : State) (tile slot : Nat) :
    let c := (s.endActivation tile slot).ctx tile slot
    c.b1.seeded = false ∧ c.switch = some (0, s.cycle + 10) ∧ c.reflex.ceil = (s.ctx tile slot).reflex.ceil := by
  intro c
  have hc : c = _ := State.ctx_setCtx ..
  rw [hc]
  exact ⟨rfl, rfl, rfl⟩

/-- A context with CEIL raised (R362). -/
def Ctx.overran (c : Ctx) : Ctx := { c with reflex := { c.reflex with ceil := satInc c.reflex.ceil 255 } }

theorem State.enterTrap_ceiling {s : State} {r : BankRef} (hk : (s.bank r).kind = 3) (hd : s.dying r = false) (pc : Va) :
    ∃ rec, s.enterTrap r ⟨0x247, 0, 0⟩ pc false false =
      ((s.record rec).setCtx r.tile r.slot ((s.record rec).ctx r.tile r.slot).overran).endActivation r.tile r.slot :=
  ⟨_, (if_neg (by rw [hd]; exact Bool.false_ne_true)).trans (if_pos ⟨hk, rfl⟩)⟩

/-- The ceiling ends an activation: with its record, CEIL raised, and the switch back begun (R362). -/
theorem State.enterTrap_ceiling_leaves {s : State} {tile slot : Nat} (hk : (s.ctx tile slot).b1.kind = 3) (hd : s.dying ⟨tile, slot, 1⟩ = false)
    (pc : Va) :
    let t := s.enterTrap ⟨tile, slot, 1⟩ ⟨0x247, 0, 0⟩ pc false false
    t.mem = s.mem ∧ (t.ctx tile slot).b1.seeded = false ∧ (t.ctx tile slot).switch = some (0, s.cycle + 10) ∧
      (t.ctx tile slot).reflex.ceil = satInc (s.ctx tile slot).reflex.ceil 255 ∧ (t.log.head ≠ s.log.head ∨ t.log.lost = true) := by
  intro t
  obtain ⟨rec, ht⟩ := State.enterTrap_ceiling (r := ⟨tile, slot, 1⟩) hk hd pc
  obtain ⟨hseeded, hswitch, hceil⟩ := State.endActivation_ctx ((s.record rec).setCtx tile slot ((s.record rec).ctx tile slot).overran) tile slot
  rw [State.setCtx_cycle, State.record_cycle] at hswitch
  have hlog := logAppend_moves s.log (recordBits rec s.boot.dtb)
  rw [← State.record_log] at hlog
  rw [show t = _ from ht]
  refine ⟨State.record_mem s rec, hseeded, hswitch, hceil.trans ?_, hlog⟩
  rw [State.ctx_setCtx, State.record_ctx]
  rfl

/-- An activation whose next instruction would exceed its ceiling (R362). -/
structure Ctx.AtCeiling (c : Ctx) : Prop where
  active : c.active = 1
  seeded : c.b1.seeded = true
  kind : c.b1.kind = 3
  wait : c.b1.wait = none
  ceiling : c.b1.ceiling ≠ 0
  reached : c.b1.ceiling ≤ c.b1.icount.toNat

section
variable {s : State} {tile slot : Nat} (h : (s.ctx tile slot).AtCeiling)
include h

theorem exec_ceilingTrip : exec (.ceilingTrip tile slot) s =
    .next ((s.leave ⟨tile, slot, 1⟩).enterTrap ⟨tile, slot, 1⟩ ⟨0x247, 0, 0⟩ (s.ctx tile slot).b1.pc false false) := by
  have ho : overCeiling (s.ctx tile slot).b1 = true := by
    rw [overCeiling, decide_eq_true h.ceiling, decide_eq_true (Nat.lt_succ_of_le h.reached)]
    rfl
  exact if_pos ⟨h.active, h.seeded, h.kind, by rw [show (s.bank ⟨tile, slot, 1⟩).wait = none from h.wait]; rfl, ho⟩

theorem ceilingTrip_ends (hrlx : (s.ctx tile slot).b1.rlx = []) (hports : (s.ctx tile slot).b1.ports = [])
    (hpend : (s.ctx tile slot).b1.pend = []) (hd : s.dying ⟨tile, slot, 1⟩ = false) :
    ∃ t, exec (.ceilingTrip tile slot) s = .next t ∧ t.mem = s.mem ∧ (t.ctx tile slot).b1.seeded = false ∧
      (t.ctx tile slot).switch = some (0, s.cycle + 10) ∧ (t.ctx tile slot).reflex.ceil = satInc (s.ctx tile slot).reflex.ceil 255 ∧
      (t.log.head ≠ s.log.head ∨ t.log.lost = true) := by
  have hb : ((s.setBank ⟨tile, slot, 1⟩ (s.bank ⟨tile, slot, 1⟩).left).ctx tile slot).b1 = (s.bank ⟨tile, slot, 1⟩).left :=
    State.bank_setBank s ⟨tile, slot, 1⟩ _
  have ht := State.enterTrap_ceiling_leaves (s := s.setBank ⟨tile, slot, 1⟩ (s.bank ⟨tile, slot, 1⟩).left) (tile := tile) (slot := slot)
    (by rw [hb]; exact h.kind) ((State.dying_setBank (k := (s.bank ⟨tile, slot, 1⟩).left) rfl).trans hd) (s.ctx tile slot).b1.pc
  rw [State.reflex_setBank] at ht
  exact ⟨_, by rw [exec_ceilingTrip h, State.leave_none (r := ⟨tile, slot, 1⟩) hrlx hports hpend], ht⟩

end

/-! ### Bank switches (R140, R361) -/

/-- A context whose activation is over: bank 0 is back, and bank 1 is loaded from its presets (R140, R361). -/
def Ctx.returned (c : Ctx) : Ctx :=
  { c with
    active := 0, switch := none
    b1 := match c.reflex.preset with
      | some p => presetBank p
      | none => { c.b1 with seeded := false }
    reflex := if c.reflex.disarm then { c.reflex with active := false, late := false, armed := false, preset := none, disarm := false }
      else { c.reflex with active := false, late := false } }

theorem Ctx.returned_armed (c : Ctx) : c.returned.reflex.armed = (c.reflex.armed && !c.reflex.disarm) := by
  unfold Ctx.returned
  cases hd : c.reflex.disarm <;> simp

theorem Ctx.returned_active (c : Ctx) : c.returned.reflex.active = false := by
  unfold Ctx.returned
  cases hd : c.reflex.disarm <;> simp

theorem Ctx.returned_preset {c : Ctx} {p : Preset} (h : c.returned.reflex.preset = some p) : c.reflex.preset = some p := by
  unfold Ctx.returned at h
  cases hd : c.reflex.disarm <;> simp_all

/-- A switch back that is due ends the activation; a slot that stays armed waits for a fill when its trigger word is empty (R140, R361). -/
theorem exec_bankSwitchComplete_back {s : State} {tile slot due : Nat} (hx : isXa tile = true) (hs : (s.ctx tile slot).switch = some (0, due))
    (hdue : due ≤ s.cycle) (hrlx : (s.ctx tile slot).b1.rlx = []) (hres : s.resvOf ⟨tile, slot, 1⟩ = [])
    (htag : ∀ p, (s.ctx tile slot).reflex.preset = some p → s.tag (lsLoc tile p.trigger) = false) :
    exec (.bankSwitchComplete tile slot) s = .next (s.setCtx tile slot (s.ctx tile slot).returned) := by
  have hcancel : (performList ⟨tile, slot, 1⟩ (s.ctx tile slot).b1.rlx s).cancelResv ⟨tile, slot, 1⟩ = s := by
    rw [hrlx]
    unfold State.cancelResv
    rw [performList, hres]
    rfl
  change execBankSwitchComplete tile slot s = _
  unfold execBankSwitchComplete
  dsimp only
  rw [hs]
  dsimp only
  rw [if_neg (by simp only [hx, not_true, false_or]; omega), if_neg (by decide), hcancel]
  change (match (if (s.ctx tile slot).returned.reflex.armed = true then (s.ctx tile slot).returned.reflex.preset else none) with
    | some p => Host.Outcome.next (if (s.setCtx tile slot (s.ctx tile slot).returned).tag (lsLoc tile p.trigger) then
        (s.setCtx tile slot (s.ctx tile slot).returned).lateActivation tile slot p true else s.setCtx tile slot (s.ctx tile slot).returned)
    | none => .next (s.setCtx tile slot (s.ctx tile slot).returned)) = _
  split
  · next p hp =>
    split at hp
    · have ht : (s.setCtx tile slot (s.ctx tile slot).returned).tag (lsLoc tile p.trigger) = false := htag p (Ctx.returned_preset hp)
      rw [if_neg (by rw [ht]; exact Bool.false_ne_true)]
    · cases hp
  · rfl

theorem activationsSwitch : ActivationsSwitch := by
  intro s tile slot _ c
  refine ⟨fun hact hseeded hk hw hceil hover hrlx hports hpend hd => ceilingTrip_ends ⟨hact, hseeded, hk, hw, hceil, hover⟩ hrlx hports hpend hd,
    fun due hx hs hdue => ?_, fun due hx hs hdue hrlx hres htag => ?_⟩
  · change execBankSwitchComplete tile slot s = _
    unfold execBankSwitchComplete
    dsimp only
    rw [show (s.ctx tile slot).switch = _ from hs]
    dsimp only
    rw [if_neg (by simp only [hx, not_true, false_or]; omega), if_pos rfl]
  · refine ⟨_, exec_bankSwitchComplete_back hx hs hdue hrlx hres htag, rfl, ?_⟩
    rw [State.ctx_setCtx]
    refine ⟨rfl, rfl, Ctx.returned_active _, Ctx.returned_armed _, fun p hp => ?_⟩
    have hb : (s.ctx tile slot).returned.b1 = presetBank p := by
      unfold Ctx.returned
      rw [show (s.ctx tile slot).reflex.preset = some p from hp]
    rw [hb]
    exact ⟨rfl, rfl, rfl, rfl, rfl, rfl, rfl⟩

end Sys2Proof.Machine

/-- Settles O33. PRIME and UNPRIME answer at once behind a change of their slot alone; an activation's last trap is its ceiling, and the switch back loads
what the slot was armed with. -/
theorem Sys2Proof.reflexSlotsActivate : Obligations.ReflexSlotsActivate := ⟨Machine.reflexInstructions, Machine.activationsSwitch⟩

/-! ## Loads and stores of a tile's window

A plain access of a calm thread passes every gate and is performed as it issues; one of a window's register, plane or control part is a read or a write of
that part, which leaves what its thread needs to end the instruction as it was (R63, R214, R215, R246, R255). -/

namespace Sys2Proof.Machine

/-! ### Plain accesses of a calm thread (R63, R252, R255) -/

/-- What may stand behind C.RLX means the same on its own (R71). -/
theorem exec_of_relaxedMeaning {i : Instr} {s : State} {o : Out} (h : relaxedMeaning i s = some o) : exec i s = o := by
  cases i with
  | ldS8 | ldZ8 | ldS16 | ldZ16 | ldS32 | ldZ32 | ld64 => exact Option.some.inj h
  | ldxS8 | ldxZ8 | ldxS16 | ldxZ16 | ldxS32 | ldxZ32 | ldx64 => exact Option.some.inj h
  | st8 | st16 | st32 | st64 | stx8 | stx16 | stx32 | stx64 => exact Option.some.inj h
  | cLd64 | cSt64 | vld | vst | vlds | vsts | vldx | vstx | vldb => exact Option.some.inj h
  | _ => cases h

theorem drainOverlap_none {s : State} {r : BankRef} (h : (s.bank r).rlx = []) (ps : List Part) : s.drainOverlap r ps = s := by
  unfold State.drainOverlap
  rw [h]
  rfl

/-- A long-latency instruction of a quiet thread whose result is there at once (R63, R64). -/
theorem finishLong_landed {s : State} (h : Quiet s) (hp : s.me.ports = []) (k : Nat) (d : Dest) (x : Vec) :
    s.finishLong k d (some x) none 0 [] = landed s k d x := by
  by_cases hk : k = 0
  · subst hk
    exact finishLong_due h hp d x
  · rw [finishLong_open h k d (some x) hk]
    unfold landed
    rw [if_neg hk]
    rfl

section
variable {s : State} (h : Calm s)
include h

theorem gates_calm (f : State → Out) : gate s (fun s => roomGate s f) = f s := by
  have hroom : roomGate s f = f s := if_neg (by rw [h.rlx]; simp)
  rw [gate, if_neg (by rw [h.acq]; decide), hroom]

theorem makeRoom_calm : s.makeRoom = s := if_neg (by rw [h.scope]; decide)

theorem traceLoads_calm (r : BankRef) (ps : List Part) : traceLoads r ps s = s := by
  induction ps with
  | nil => rfl
  | cons p ps ih => rw [traceLoads, State.traceThread, State.traceAt_of_off _ _ _ _ _ _ _ _ h.rings, ih]

theorem loadDone_calm (k : BitVec 4) (dest : Dest) (ext : Nat) (base : Vec) (va : Dword) (ps : List Part) :
    loadDone k dest ext base va ps s [] = .next (landed s k.toNat dest (loadParts s ext base ps)) := by
  have hsound : s.poisonErr s.curRef va (spans ps) = (s, none) := by
    have hn : (spans ps).find? (fun p => s.poisoned p.1 p.2) = none := by simp [State.poisoned_of_intact h.intact]
    unfold State.poisonErr
    dsimp only
    rw [State.meetAll_of_intact h.intact, hn]
  unfold loadDone
  dsimp only
  rw [drainOverlap_none (r := s.curRef) h.rlx, h.scope]
  dsimp only
  rw [traceLoads_calm h, hsound]
  exact congrArg _ (finishLong_landed h.toQuiet h.ports _ dest _)

theorem storeDone_calm (k : BitVec 4) (va : Dword) (ps : List Part) :
    storeDone k va ps s = .next ((storeParts s.curRef ps s).finishLong k.toNat .none (some 0) none 0 []) := by
  unfold storeDone
  dsimp only
  rw [drainOverlap_none (r := s.curRef) h.rlx, h.scope]

end

/-! ### An update in part -/

/-- What an update of a bank leaves of it, it leaves of every bank. -/
theorem State.bank_setBank_part {α : Type} (f : Bank → α) (s : State) {r : BankRef} {k : Bank} (h : f k = f (s.bank r)) (q : BankRef) :
    f ((s.setBank r k).bank q) = f (s.bank q) := by
  refine s.ctx_setCtx_part (fun c => f (c.bank q.bank)) ?_ q.tile q.slot
  change f k = f (Ctx.bank _ r.bank) at h
  by_cases hr : r.bank = 0 <;> by_cases hq : q.bank = 0 <;> simp_all [Ctx.bank, Ctx.setBank]

/-- What an update of a tile leaves of it, it leaves of every tile. -/
theorem State.tile_setTile_part {α : Type} (f : Tile → α) (s : State) {n : Nat} {x : Tile} (h : f x = f (s.tile n)) (t : Nat) :
    f ((s.setTile n x).tile t) = f (s.tile t) := by
  by_cases ht : t = n
  · rw [ht, State.tile_setTile, h]
  · rw [State.tile_setTile_other _ _ _ _ ht]

/-! ### What a write of a window leaves (R246) -/

/-- Two states that differ, if at all, in what a write of a tile's window can reach: registers, PC and NUMCTL of banks, and the matrix unit and trace
control of the tile. -/
structure WindowOnly (tile : Nat) (s t : State) : Prop where
  bank : ∀ r, ∃ g v pc numctl fbuf pend,
    t.bank r = { s.bank r with g := g, v := v, pc := pc, numctl := numctl, fbuf := fbuf, pend := pend }
  curRef : t.curRef = s.curRef
  seize : ∀ n, (t.tile n).seize = (s.tile n).seize
  other : ∀ n, n ≠ tile → t.tile n = s.tile n
  sound : t.poison = s.poison ∧ t.failing = s.failing
  cur : t.cur = s.cur

section
variable {tile : Nat} {s : State}

theorem WindowOnly.refl (tile : Nat) (s : State) : WindowOnly tile s s :=
  ⟨fun _ => ⟨_, _, _, _, _, _, rfl⟩, rfl, fun _ => rfl, fun _ _ => rfl, ⟨rfl, rfl⟩, rfl⟩

/-- The fields of a bank that a window does not reach. -/
def Bank.withoutWindow (b : Bank) : Bank := { b with g := [], v := [], pc := 0, numctl := 0, fbuf := [], pend := [] }

section
variable (b : Bank)

theorem Bank.withoutWindow_wg (i : Nat) (x : Dword) : (b.wg i x).withoutWindow = b.withoutWindow := by
  unfold Bank.wg
  split <;> rfl

theorem Bank.withoutWindow_wv (i : Nat) (x : Vec) : (b.wv i x).withoutWindow = b.withoutWindow := rfl

theorem Bank.withoutWindow_pend (pend : List Pending) : ({ b with pend := pend } : Bank).withoutWindow = b.withoutWindow := rfl

theorem Bank.withoutWindow_pc (pc : Va) : ({ b with pc := pc, fbuf := [] } : Bank).withoutWindow = b.withoutWindow := rfl

theorem Bank.withoutWindow_numctl (x : Dword) : ({ b with numctl := x } : Bank).withoutWindow = b.withoutWindow := rfl

end

theorem Bank.eq_of_withoutWindow {a b : Bank} (h : a.withoutWindow = b.withoutWindow) :
    a = { b with g := a.g, v := a.v, pc := a.pc, numctl := a.numctl, fbuf := a.fbuf, pend := a.pend } :=
  congrArg (fun x : Bank => { x with g := a.g, v := a.v, pc := a.pc, numctl := a.numctl, fbuf := a.fbuf, pend := a.pend }) h

theorem WindowOnly.setBank {r : BankRef} {k : Bank} (h : k.withoutWindow = (s.bank r).withoutWindow) : WindowOnly tile s (s.setBank r k) :=
  ⟨fun q => ⟨_, _, _, _, _, _, Bank.eq_of_withoutWindow (State.bank_setBank_part Bank.withoutWindow s h q)⟩,
    State.curRef_setBank s r k, fun _ => rfl, fun _ _ => rfl, ⟨rfl, rfl⟩, rfl⟩

theorem WindowOnly.setTile {x : Tile} (h : x.seize = (s.tile tile).seize) : WindowOnly tile s (s.setTile tile x) :=
  ⟨fun _ => ⟨_, _, _, _, _, _, rfl⟩, rfl, State.tile_setTile_part Tile.seize s h, fun n hn => State.tile_setTile_other s tile n x hn, ⟨rfl, rfl⟩, rfl⟩

theorem State.winWrite_only (s : State) (tile off n v : Nat) : WindowOnly tile s (s.winWrite tile off n v) := by
  unfold State.winWrite
  cases windowPart tile off with
  | scalar =>
    dsimp only
    split
    · split
      · exact .setBank (Bank.withoutWindow_pend ..)
      · exact .setBank (Bank.withoutWindow_wg ..)
    · split
      · exact .setBank (Bank.withoutWindow_pc ..)
      · split
        · exact .setBank (Bank.withoutWindow_numctl ..)
        · exact .refl tile s
  | vector =>
    dsimp only
    split
    · exact .refl tile s
    · split
      · exact .refl tile s
      · split
        · exact .setBank (Bank.withoutWindow_pend ..)
        · exact .setBank (Bank.withoutWindow_wv ..)
  | acc => exact .setTile rfl
  | plane => exact .setTile rfl
  | control =>
    dsimp only
    split
    · exact .setTile rfl
    · exact .refl tile s
  | _ => exact .refl tile s

theorem WindowOnly.quiet {t : State} (h : WindowOnly tile s t) (hq : Quiet s) : Quiet t := by
  obtain ⟨g, v, pc, numctl, fbuf, pend, hb⟩ := h.bank s.curRef
  have hm : t.me = { s.me with g := g, v := v, pc := pc, numctl := numctl, fbuf := fbuf, pend := pend } := by
    rw [State.me, h.curRef]
    exact hb
  exact ⟨by rw [hm]; exact hq.wins, by rw [hm]; exact hq.frame, by rw [hm]; exact hq.fresh,
    by rw [hm, h.cur, h.seize]; exact hq.reply⟩

theorem WindowOnly.ports {t : State} (h : WindowOnly tile s t) : t.me.ports = s.me.ports := by
  obtain ⟨g, v, pc, numctl, fbuf, pend, hb⟩ := h.bank s.curRef
  rw [State.me, h.curRef, hb]
  rfl

end

/-! ### Accesses of a window's parts (R214, R215, R246, R255) -/

/-- CheckAccess of a window's register, plane or control part translates nothing. -/
theorem check_window {s u : State} {q : Req} {va n kind tile off : Nat} (h : s.check q va n kind = (u, .ok (.win tile off))) : u = s := by
  unfold State.check at h
  split at h
  · cases h
  · split at h
    · split at h <;> cases h
    · split at h <;> cases h; rfl
    · split at h <;> cases h

theorem locTarget_window {off : Nat} (tile : Nat) (h : off < 2 ^ 22) : locTarget (Target.win tile off).loc = .win tile off := by
  have ht : (2 ^ 46 + tile * 2 ^ 22 + off - 2 ^ 46) / 2 ^ 22 = tile := by omega
  have ho : (2 ^ 46 + tile * 2 ^ 22 + off) % 2 ^ 22 = off := by omega
  rw [Target.loc, locTarget, if_neg (by omega), ht, ho]

section
variable {s : State} {va : Dword} {n kind tile off : Nat} (h : Calm s)
include h

/-- A plain access that CheckAccess sends to a window's part, where no command is in its way, goes there (R215). -/
theorem access_window (hc : s.check s.req va.toNat n kind = (s, .ok (.win tile off)))
    (hfree : s.unitBusy tile off (s.me.unitPass.getD s.fresh) = false) (f : Target → State → Out) :
    gate s (fun s => roomGate s fun s => access va n kind s.makeRoom f) = f (.win tile off) s := by
  rw [gates_calm h, makeRoom_calm h, access, accessElse, hc]
  exact if_neg (by rw [hfree]; exact Bool.false_ne_true)

/-- A store to a window's part is a write of it, and nothing records it. -/
theorem storeParts_window (hoff : off < 2 ^ 22) (x : Dword) :
    storeParts s.curRef [⟨(Target.win tile off).loc, n, x⟩] s = s.winWrite tile off n x.toNat := by
  have hw := s.winWrite_only tile off n x.toNat
  have hloc : locTile (Target.win tile off).loc = 2 ^ 23 + tile := by
    rw [Target.loc, locTile]
    omega
  have hring : (s.winWrite tile off n x.toNat).traceThread s.curRef (Target.win tile off).loc n 1 = s.winWrite tile off n x.toNat := by
    have hoff' : bitOf ((s.winWrite tile off n x.toNat).tile (2 ^ 23 + tile)).trctl.toNat 0 = false := by
      rw [hw.other _ (by omega), bitOf_toNat]
      exact h.rings _
    unfold State.traceThread State.traceAt
    rw [hloc]
    simp only [hoff', Bool.false_and]
    split <;> rfl
  have hwrote : (s.winWrite tile off n x.toNat).wrote [((Target.win tile off).loc, n)] = s.winWrite tile off n x.toNat := by
    obtain ⟨hp, hf⟩ := hw.sound
    obtain ⟨hp0, hf0, -⟩ := h.intact
    exact if_pos ⟨hp.trans hp0, hf.trans hf0⟩
  rw [storeParts, writeParts, writeParts, locTarget_window tile hoff, State.writeTarget, hring]
  exact hwrote

end

/-- A number of few bytes, extended, bit by bit (R255). -/
theorem loadExt_getLsbD (v : Nat) {n : Nat} {sg : Bool} (h : IsLoadSize n sg) (j : Nat) (hj : j < 64) :
    (loadExt (extOf n sg) v).getLsbD j = if j < 8 * n then v.testBit j else sg && v.testBit (8 * n - 1) := by
  rcases h with rfl | rfl | rfl | ⟨rfl, rfl⟩
  case inr.inr.inr =>
    change (BitVec.ofNat 64 v).getLsbD j = _
    rw [BitVec.getLsbD_ofNat, decide_eq_true hj, Bool.true_and, if_pos hj]
  all_goals
    cases sg with
    | true => exact (sext_getLsbD v (by decide) j hj).trans (by simp)
    | false => exact (zext_getLsbD v _ j hj).trans (by simp)

theorem windowAccessesReach : WindowAccessesReach := by
  intro s i va u tile off h hoff hfree
  refine ⟨fun d k n sg hl hc => ?_, fun x k n hs hc => ?_⟩
  · obtain rfl := check_window hc
    obtain ⟨hm, hsize⟩ := relaxedMeaning_of_load (x := u) rfl hl
    refine ⟨loadExt (extOf n sg) (u.winRead tile off n), loadExt_getLsbD _ hsize, ?_⟩
    have hparts : loadParts u (extOf n sg) 0 [⟨(Target.win tile off).loc, n, 0⟩] = (loadExt (extOf n sg) (u.winRead tile off n)).setWidth 1024 := by
      have he := extOf_lt n sg
      unfold loadParts
      rw [if_neg (by omega), if_neg (by omega)]
      dsimp only
      rw [locTarget_window tile hoff, State.readTarget]
    rw [exec_of_relaxedMeaning hm, loadAt, access_window h hc hfree, loadDone_calm h, hparts]
  · obtain rfl := check_window hc
    obtain ⟨d, rfl, hm⟩ := relaxedMeaning_of_store (x := u) rfl hs
    have hw := u.winWrite_only tile off n (u.rg d).toNat
    rw [exec_of_relaxedMeaning hm, storeAt, access_window h hc hfree, storeDone_calm h, storeParts_window h hoff,
      finishLong_landed (hw.quiet h.toQuiet) (hw.ports.trans h.ports)]

end Sys2Proof.Machine

/-! ## The layout of a tile's window

Where each part of a compute tile's window lies (R245), and what its offsets read (R143, R214, R245, R246, R278, R340, R341, R363, R381). An offset is taken
apart once for each part; what a part shows is then its equation. -/

namespace Sys2Proof.Machine

/-! ### Which part an offset lies in (R245) -/

/-- A tile with a window of registers: every tile of the two arrays. -/
def isCompute (tile : Nat) : Prop := isLa tile = true ∨ isXa tile = true

/-- Banks of accumulators, and planes, of a tile (R143, R214). -/
def unitBanks (tile : Nat) : Nat := if isLa tile then 3 else 2

theorem not_isXa_of_isLa {tile : Nat} (h : isLa tile = true) : isXa tile = false := by
  unfold isLa at h
  unfold isXa
  rw [decide_eq_false (fun hx => absurd (of_decide_eq_true h) (by omega))]
  rfl

theorem unitBanks_le (tile : Nat) : unitBanks tile ≤ 3 := by
  unfold unitBanks
  split <;> decide

section
variable {tile : Nat} (ht : isCompute tile)
include ht

theorem vlBits_compute : vlBits tile = if isLa tile then 1024 else 512 := by
  have hcol : tile % 512 = tile ∧ tile ≠ collar := by
    unfold isCompute isLa isXa at ht
    unfold collar
    simp only [Bool.and_eq_true, decide_eq_true_eq] at ht
    omega
  obtain ⟨hmod, hne⟩ := hcol
  have hbeq : (tile == collar) = false := by simpa using hne
  unfold vlBits
  rw [hmod, hbeq, Bool.or_false]
  cases hla : isLa tile with
  | true =>
    rw [not_isXa_of_isLa hla]
    rfl
  | false => rw [ht.resolve_left (by rw [hla]; decide)]; rfl

/-- Above the local store, an offset of a compute tile lies in the part that assigns it. -/
theorem windowPart_above {off : Nat} (h : 0x100000 ≤ off) : windowPart tile off =
    if off < 0x102000 then (if off % 0x200 < 0x150 then .scalar else .none)
    else if 0x180000 ≤ off ∧ off < 0x190000 then .vector
    else if 0x200000 ≤ off ∧ off < 0x200000 + 0x4000 * unitBanks tile then .acc
    else if 0x280000 ≤ off ∧ off < 0x280000 + 0x400 * unitBanks tile then .plane
    else if 0x280C00 ≤ off ∧ off < 0x280C00 + 0x80 * unitBanks tile then .plane
    else if (0x300000 ≤ off ∧ off < 0x300010) ∨ (0x301000 ≤ off ∧ off < 0x301080) ∨ (0x302000 ≤ off ∧ off < 0x303040) ∨
      (0x303100 ≤ off ∧ off < 0x303118) then .control
    else .none := by
  have hls : ¬ off < lsBytes tile := by
    unfold lsBytes
    split <;> omega
  have hne : tile ≠ collar := by
    unfold isCompute isLa isXa at ht
    unfold collar
    simp only [Bool.and_eq_true, decide_eq_true_eq] at ht
    omega
  unfold windowPart unitBanks
  rw [if_neg hls, if_neg hne]
  cases isLa tile <;> simp only [if_true, Bool.false_eq_true, if_false] <;> grind

theorem windowPart_scalar {slot bank x : Nat} (hs : slot < 8) (hb : bank < 2) (hx : x < 0x150) :
    windowPart tile (0x100000 + slot * 0x400 + bank * 0x200 + x) = .scalar := by
  rw [windowPart_above ht (by omega), if_pos (by omega), if_pos (by omega)]

theorem windowPart_vector {slot bank x : Nat} (hs : slot < 8) (hb : bank < 2) (hx : x < 0x1000) :
    windowPart tile (0x180000 + slot * 0x2000 + bank * 0x1000 + x) = .vector := by
  rw [windowPart_above ht (by omega), if_neg (by omega), if_pos (by omega)]

theorem windowPart_acc {k x : Nat} (hk : k < unitBanks tile) (hx : x < 0x4000) : windowPart tile (0x200000 + k * 0x4000 + x) = .acc := by
  have := unitBanks_le tile
  rw [windowPart_above ht (by omega), if_neg (by omega), if_neg (by omega), if_pos (by omega)]

theorem windowPart_plane {p x : Nat} (hp : p < unitBanks tile) (hx : x < 0x400) : windowPart tile (0x280000 + p * 0x400 + x) = .plane := by
  have := unitBanks_le tile
  rw [windowPart_above ht (by omega), if_neg (by omega), if_neg (by omega), if_neg (by omega), if_pos (by omega)]

theorem windowPart_scales {p x : Nat} (hp : p < unitBanks tile) (hx : x < 0x80) : windowPart tile (0x280C00 + p * 0x80 + x) = .plane := by
  have := unitBanks_le tile
  rw [windowPart_above ht (by omega), if_neg (by omega), if_neg (by omega), if_neg (by omega), if_neg (by omega), if_pos (by omega)]

theorem windowPart_control {off : Nat} (h : (0x300000 ≤ off ∧ off < 0x300010) ∨ (0x301000 ≤ off ∧ off < 0x301080) ∨
    (0x302000 ≤ off ∧ off < 0x303040) ∨ (0x303100 ≤ off ∧ off < 0x303118)) : windowPart tile off = .control := by
  have := unitBanks_le tile
  rw [windowPart_above ht (by omega), if_neg (by omega), if_neg (by omega), if_neg (by omega), if_neg (by omega), if_neg (by omega), if_pos h]

end

/-! ### Registers that a window shows (R143, R246) -/

section
variable {b : Bank} {i : Nat}

theorem Bank.find_pend_none {d : Dest} (h : ∀ p ∈ b.pend, p.dest ≠ d) : b.pend.find? (fun p => p.dest == d) = none :=
  List.find?_eq_none.2 fun p hp => by simpa using h p hp

theorem Bank.find_pend_one {p : Pending} {d : Dest} (h : b.pend = [p]) (hd : p.dest = d) : b.pend.find? (fun p => p.dest == d) = some p := by
  rw [h]
  exact List.find?_cons_of_pos (by simp [hd])

theorem Bank.shownG_landed (h : ∀ p ∈ b.pend, p.dest ≠ .g i) : b.shownG i = b.rg i := by
  rw [Bank.shownG, Bank.find_pend_none h]

theorem Bank.shownG_pending {p : Pending} (h : b.pend = [p]) (hd : p.dest = .g i) : b.shownG i = p.old.setWidth 64 := by
  rw [Bank.shownG, Bank.find_pend_one h hd]

theorem Bank.shownV_landed (h : ∀ p ∈ b.pend, p.dest ≠ .v i) : b.shownV i = b.rv i := by
  rw [Bank.shownV, Bank.find_pend_none h]

theorem Bank.shownV_pending {p : Pending} (h : b.pend = [p]) (hd : p.dest = .v i) : b.shownV i = p.old := by
  rw [Bank.shownV, Bank.find_pend_one h hd]

end

/-- What a bank's scalar window shows at an offset (R143, R246). -/
def Bank.shownScalar (b : Bank) (x : Nat) : Nat :=
  if x < 0x100 then (if x = 0 then 0 else (b.shownG (x / 8)).toNat)
  else if x = 0x100 then b.pc.toNat
  else if x = 0x108 then b.numctl.toNat
  else (b.rod ((x - 0x110) / 8)).toNat

theorem Bank.shownScalar_reg (b : Bank) {i : Nat} (h0 : 0 < i) (hi : i < 32) : b.shownScalar (8 * i) = (b.shownG i).toNat := by
  have h8 : 8 * i / 8 = i := by omega
  rw [Bank.shownScalar, if_pos (by omega), if_neg (by omega), h8]

theorem Bank.shownScalar_od (b : Bank) (i : Nat) : b.shownScalar (0x110 + 8 * i) = (b.rod i).toNat := by
  have h8 : (0x110 + 8 * i - 0x110) / 8 = i := by omega
  rw [Bank.shownScalar, if_neg (by omega), if_neg (by omega), if_neg (by omega), h8]

section
variable {tile : Nat} (ht : isCompute tile) (s : State)
include ht

theorem winRead_scalar {slot bank x : Nat} (hs : slot < 8) (hb : bank < 2) (hx : x < 0x150) (n : Nat) :
    s.winRead tile (0x100000 + slot * 0x400 + bank * 0x200 + x) n = ((s.ctx tile slot).bank bank).shownScalar x := by
  have h1 : (0x100000 + slot * 0x400 + bank * 0x200 + x - 0x100000) / 0x400 = slot := by omega
  have h2 : (0x100000 + slot * 0x400 + bank * 0x200 + x - 0x100000) % 0x400 / 0x200 = bank := by omega
  have h3 : (0x100000 + slot * 0x400 + bank * 0x200 + x - 0x100000) % 0x200 = x := by omega
  rw [State.winRead, windowPart_scalar ht hs hb hx]
  dsimp only
  rw [h1, h2, h3, Bank.shownScalar]

theorem winRead_vector {slot bank i o : Nat} (hs : slot < 8) (hb : bank < 2) (hi : i < 32) (ho : o < 128) (n : Nat) :
    s.winRead tile (0x180000 + slot * 0x2000 + bank * 0x1000 + 128 * i + o) n = vecBytes tile (((s.ctx tile slot).bank bank).shownV i) o n := by
  have h1 : (0x180000 + slot * 0x2000 + bank * 0x1000 + (128 * i + o) - 0x180000) / 0x2000 = slot := by omega
  have h2 : (0x180000 + slot * 0x2000 + bank * 0x1000 + (128 * i + o) - 0x180000) % 0x2000 / 0x1000 = bank := by omega
  have h3 : (0x180000 + slot * 0x2000 + bank * 0x1000 + (128 * i + o) - 0x180000) % 0x1000 / 0x80 = i := by omega
  have h4 : (0x180000 + slot * 0x2000 + bank * 0x1000 + (128 * i + o) - 0x180000) % 0x80 = o := by omega
  rw [Nat.add_assoc _ (128 * i), State.winRead, windowPart_vector ht hs hb (by omega)]
  dsimp only
  rw [h1, h2, h3, h4]

/-- An XA tile's registers have their lower half only (R143). -/
theorem vecBytes_testBit (x : Vec) {o n j : Nat} (hj : j < 8 * n) :
    (vecBytes tile x o n).testBit j = (decide (isLa tile = true ∨ 8 * o + j < 512) && x.getLsbD (8 * o + j)) := by
  rw [vecBytes, vlBits_compute ht, Nat.testBit_mod_two_pow, decide_eq_true hj, Bool.true_and, Nat.testBit_div_two_pow, Nat.add_comm j]
  cases isLa tile with
  | true => simp [BitVec.testBit_toNat]
  | false => simp [BitVec.testBit_toNat, -Nat.reducePow]

/-- What a doubleword of the accumulators shows (R214). -/
theorem winRead_acc {k row col : Nat} (hk : k < unitBanks tile) (hr : row < 64) (hc : col < 32) (n : Nat) :
    s.winRead tile (0x200000 + k * 0x4000 + row * 0x100 + col * 8) n = (tget 0 ((s.tile tile).mx.acc k) (32 * row + col)).toNat := by
  have h1 : (0x200000 + k * 0x4000 + (row * 0x100 + col * 8) - 0x200000) / 0x4000 = k := by omega
  have h2 : (0x200000 + k * 0x4000 + (row * 0x100 + col * 8) - 0x200000) % 0x4000 / 8 = 32 * row + col := by omega
  rw [Nat.add_assoc _ (row * 0x100), State.winRead, windowPart_acc ht hk (by omega)]
  dsimp only
  rw [h1, h2]

end

/-! ### Planes (R214) -/

theorem bytesNat_digit {l : List Byte} {j : Nat} {x : Byte} (h : l[j]? = some x) : bytesNat l / 2 ^ (8 * j) % 256 = x.toNat := by
  induction l generalizing j with
  | nil => cases h
  | cons b l ih =>
    cases j with
    | zero =>
      cases h
      have hx := x.isLt
      rw [bytesNat]
      omega
    | succ j =>
      have hpow : 2 ^ (8 * (j + 1)) = 256 * 2 ^ (8 * j) := by rw [Nat.mul_add, Nat.pow_add, Nat.mul_comm]
      have hdiv : (b.toNat + 256 * bytesNat l) / 256 = bytesNat l := by omega
      rw [bytesNat, hpow, ← Nat.div_div_eq_div_mul, hdiv]
      exact ih (by simpa using h)

theorem planeByte_byte (m : Matrix) {p x : Nat} (hp : p < 3) (hx : x < 0x400) : planeByte m (p * 0x400 + x) = tget 0 (m.plane p).bytes x := by
  have h1 : (p * 0x400 + x) / 0x400 = p := by omega
  have h2 : (p * 0x400 + x) % 0x400 = x := by omega
  rw [planeByte, if_pos (by omega), h1, h2]

theorem planeByte_scale (m : Matrix) (p : Nat) {x : Nat} (hx : x < 0x80) :
    planeByte m (0xC00 + p * 0x80 + x) = (tget 0 (m.plane p).scales (x / 2)).extractLsb' (8 * (x % 2)) 8 := by
  have h1 : (0xC00 + p * 0x80 + x - 0xC00) / 0x80 = p := by omega
  have h2 : (0xC00 + p * 0x80 + x - 0xC00) % 0x80 = x := by omega
  have h3 : (0xC00 + p * 0x80 + x) % 2 = x % 2 := by omega
  rw [planeByte, if_neg (by omega), h1, h2, h3]

section
variable {tile : Nat} (ht : isCompute tile) (s : State) {p : Nat} (hp : p < unitBanks tile)
include ht hp

theorem winRead_plane {o n j : Nat} (ho : o + n ≤ 0x400) (hj : j < n) :
    s.winRead tile (0x280000 + p * 0x400 + o) n / 2 ^ (8 * j) % 256 = (tget 0 ((s.tile tile).mx.plane p).bytes (o + j)).toNat := by
  have hp3 := unitBanks_le tile
  have h1 : 0x280000 + p * 0x400 + o - 0x280000 = p * 0x400 + o := by omega
  rw [State.winRead, windowPart_plane ht hp (by omega)]
  dsimp only
  rw [h1]
  refine bytesNat_digit ?_
  rw [List.getElem?_map, List.getElem?_range hj, Option.map_some, Nat.add_assoc, planeByte_byte _ (by omega) (by omega)]

theorem winRead_scale {i : Nat} (hi : i < 64) :
    s.winRead tile (0x280C00 + p * 0x80 + 2 * i) 2 = (tget 0 ((s.tile tile).mx.plane p).scales i).toNat := by
  have h1 : 0x280C00 + p * 0x80 + 2 * i - 0x280000 = 0xC00 + p * 0x80 + 2 * i := by omega
  have hlow : planeByte (s.tile tile).mx (0xC00 + p * 0x80 + 2 * i) = (tget 0 ((s.tile tile).mx.plane p).scales i).extractLsb' 0 8 := by
    rw [planeByte_scale _ p (by omega), show 2 * i / 2 = i by omega, show 2 * i % 2 = 0 by omega]
  have hhigh : planeByte (s.tile tile).mx (0xC00 + p * 0x80 + 2 * i + 1) = (tget 0 ((s.tile tile).mx.plane p).scales i).extractLsb' 8 8 := by
    rw [Nat.add_assoc _ (2 * i), planeByte_scale _ p (by omega), show (2 * i + 1) / 2 = i by omega, show (2 * i + 1) % 2 = 1 by omega]
  rw [State.winRead, windowPart_scales ht hp (by omega)]
  dsimp only
  rw [h1]
  change bytesNat [planeByte (s.tile tile).mx (0xC00 + p * 0x80 + 2 * i), planeByte (s.tile tile).mx (0xC00 + p * 0x80 + 2 * i + 1)] = _
  rw [hlow, hhigh, bytesNat, bytesNat, bytesNat, BitVec.extractLsb'_toNat, BitVec.extractLsb'_toNat, Nat.shiftRight_eq_div_pow,
    Nat.shiftRight_eq_div_pow]
  have hw := (tget 0 ((s.tile tile).mx.plane p).scales i).isLt
  omega

end

/-! ### The control part (R278, R340, R341, R363, R381) -/

theorem bitOf_of_digit {w k : Nat} {b : Bool} (h : w / 2 ^ k % 2 = b2n b) : bitOf w k = b := by
  rw [bitOf, h]
  cases b <;> rfl

/-- RXSTAT's fields, where its counters keep to their widths (R363). -/
theorem Reflex.word_fields (x : Reflex) (hm : x.miss < 2 ^ 16) (hc : x.ceil < 2 ^ 8) (ho : x.ovr < 2 ^ 16) :
    let y := BitVec.ofNat 64 x.word
    y.getLsbD 0 = x.armed ∧ y.getLsbD 1 = x.active ∧ y.getLsbD 2 = x.late ∧ y.getLsbD 3 = x.missLast ∧
      dfld y 7 4 = 0 ∧ dfld y 23 8 = x.act % 2 ^ 16 ∧ dfld y 39 24 = x.miss ∧ dfld y 47 40 = x.ceil ∧ dfld y 63 48 = x.ovr := by
  intro y
  have h0 := b2n_le_one x.armed
  have h1 := b2n_le_one x.active
  have h2 := b2n_le_one x.late
  have h3 := b2n_le_one x.missLast
  have hy : y.toNat = b2n x.armed + 2 * b2n x.active + 4 * b2n x.late + 8 * b2n x.missLast + x.act % 65536 * 2 ^ 8 + x.miss * 2 ^ 24 +
      x.ceil * 2 ^ 40 + x.ovr * 2 ^ 48 := by
    refine (BitVec.toNat_ofNat ..).trans (Nat.mod_eq_of_lt ?_)
    unfold Reflex.word
    omega
  simp only [← bitOf_toNat, dfld, fld, hy]
  refine ⟨bitOf_of_digit ?_, bitOf_of_digit ?_, bitOf_of_digit ?_, bitOf_of_digit ?_, ?_, ?_, ?_, ?_, ?_⟩ <;> omega

section
variable {tile : Nat} (ht : isCompute tile) (s : State)
include ht

theorem winRead_trctl (n : Nat) : s.winRead tile 0x300000 n = (s.tile tile).trctl.toNat := by
  rw [State.winRead, windowPart_control ht (by omega)]
  rfl

theorem winRead_trstat (n : Nat) : s.winRead tile 0x300008 n =
    (s.tile tile).trnext + (if (s.tile tile).trwrap then 2 ^ 8 else 0) + (if (s.tile tile).trhalt then 2 ^ 9 else 0) := by
  rw [State.winRead, windowPart_control ht (by omega)]
  dsimp only
  rw [if_neg (by omega), if_pos rfl]
  cases (s.tile tile).trwrap <;> cases (s.tile tile).trhalt <;> simp [b2n]

theorem winRead_copyBytes {slot bank : Nat} (hs : slot < 8) (hb : bank < 2) (n : Nat) :
    s.winRead tile (0x301000 + slot * 0x10 + bank * 8) n = ((s.ctx tile slot).bank bank).copyBytes.toNat := by
  have h1 : (0x301000 + slot * 0x10 + bank * 8 - 0x301000) / 0x10 = slot := by omega
  have h2 : (0x301000 + slot * 0x10 + bank * 8) % 0x10 / 8 = bank := by omega
  rw [State.winRead, windowPart_control ht (by omega)]
  dsimp only
  rw [if_neg (by omega), if_neg (by omega), if_pos (by omega), h1, h2]

theorem winRead_trace {e : Nat} (he : e < 256) (n : Nat) :
    s.winRead tile (0x302000 + 16 * e) n = (tget (0, 0) (s.tile tile).trace e).1.toNat ∧
      s.winRead tile (0x302008 + 16 * e) n = (tget (0, 0) (s.tile tile).trace e).2.toNat := by
  have h1 : (0x302000 + 16 * e - 0x302000) / 16 = e := by omega
  have h2 : (0x302008 + 16 * e - 0x302000) / 16 = e := by
    rw [show 0x302008 + 16 * e = 0x302000 + (16 * e + 8) by omega, Nat.add_sub_cancel_left]
    omega
  constructor
  · rw [State.winRead, windowPart_control ht (by omega)]
    dsimp only
    rw [if_neg (by omega), if_neg (by omega), if_neg (by omega), if_pos (by omega), if_pos (by omega), h1]
  · rw [State.winRead, windowPart_control ht (by omega)]
    dsimp only
    rw [if_neg (by omega), if_neg (by omega), if_neg (by omega), if_pos (by omega), if_neg (by omega), h2]

theorem winRead_rxstat {slot : Nat} (hs : slot < 8) (n : Nat) : s.winRead tile (0x303000 + 8 * slot) n = (s.ctx tile slot).reflex.word := by
  have h1 : (0x303000 + 8 * slot - 0x303000) / 8 = slot := by omega
  rw [State.winRead, windowPart_control ht (by omega)]
  dsimp only
  rw [if_neg (by omega), if_neg (by omega), if_neg (by omega), if_neg (by omega), if_pos (by omega), h1]

/-- The counters of a tile's seizures (R381). -/
theorem winRead_seizures (n : Nat) : s.winRead tile 0x303100 n = (s.tile tile).seize.count.toNat ∧
    s.winRead tile 0x303108 n = (s.tile tile).seize.cyc.toNat ∧
    s.winRead tile 0x303110 n = (s.tile tile).seize.last + (s.tile tile).seize.worst * 2 ^ 16 := by
  refine ⟨?_, ?_, ?_⟩ <;>
    · rw [State.winRead, windowPart_control ht (by omega)]
      rfl

end

theorem windowsShowTheirParts : WindowsShowTheirParts := by
  intro s tile ht t banks
  have hbanks : banks = unitBanks tile := rfl
  refine ⟨fun slot hs bank hb => ⟨?_, ?_, ?_, fun i hi => ?_, fun i h0 hi => ⟨fun hp => ?_, fun p hp hd => ?_⟩, fun i hi o n ho j hj => ?_, ?_⟩,
    fun k hk row hr col hc => winRead_acc ht s hk hr hc 8, fun p hp => ⟨fun o n ho j hj => winRead_plane ht s hp ho hj, fun i => winRead_scale ht s hp⟩,
    winRead_trctl ht s 8, winRead_trstat ht s 8, fun e he => winRead_trace ht s he 8, fun slot hs => ?_, winRead_seizures ht s 8⟩
  · exact winRead_scalar ht s hs hb (x := 0) (by omega) 8
  · exact winRead_scalar ht s hs hb (x := 0x100) (by omega) 8
  · exact winRead_scalar ht s hs hb (x := 0x108) (by omega) 8
  · rw [Nat.add_assoc _ 0x110, winRead_scalar ht s hs hb (by omega), Bank.shownScalar_od]
  · rw [winRead_scalar ht s hs hb (by omega), Bank.shownScalar_reg _ h0 hi, Bank.shownG_landed hp]
  · rw [winRead_scalar ht s hs hb (by omega), Bank.shownScalar_reg _ h0 hi, Bank.shownG_pending hp hd]
  · intro shown read
    have hread (x : Vec) (hx : ((s.ctx tile slot).bank bank).shownV i = x) : read = shown x := by
      change (s.winRead _ _ _).testBit j = _
      rw [winRead_vector ht s hs hb hi (by omega), hx, vecBytes_testBit ht x hj]
    exact ⟨fun hp => hread _ (Bank.shownV_landed hp), fun p hp hd => hread _ (Bank.shownV_pending hp hd)⟩
  · exact winRead_copyBytes ht s hs hb 8
  · intro x y hm hc ho
    have hy : y = BitVec.ofNat 64 x.word := congrArg (BitVec.ofNat 64) (winRead_rxstat ht s hs 8)
    rw [hy]
    exact Reflex.word_fields x hm hc ho

end Sys2Proof.Machine

/-! ## Writes of a tile's window

What a write of each part of a compute tile's window leaves (R143, R161, R214, R246, R340). -/

namespace Sys2Proof.Machine

/-! ### The scalar part (R143, R161, R246) -/

/-- A write of a bank's scalar window at an offset. -/
def State.writeScalar (s : State) (r : BankRef) (x v : Nat) : State :=
  let b := s.bank r
  if x < 0x100 then
    match b.pend.find? (fun p => p.dest == .g (x / 8)) with
    | some _ => s.setBank r { b with pend := b.pend.map (fun p => if p.dest = .g (x / 8) then { p with old := BitVec.ofNat 1024 v } else p) }
    | none => s.setBank r (b.wg (x / 8) (BitVec.ofNat 64 v))
  else if x = 0x100 then s.setBank r { b with pc := BitVec.ofNat 48 (v / 2 * 2), fbuf := [] }
  else if x = 0x108 then s.setBank r { b with numctl := numctlWrite b.numctl (BitVec.ofNat 64 v) }
  else s

theorem winWrite_scalar {tile : Nat} (ht : isCompute tile) (s : State) {slot bank x : Nat} (hs : slot < 8) (hb : bank < 2) (hx : x < 0x150) (n v : Nat) :
    s.winWrite tile (0x100000 + slot * 0x400 + bank * 0x200 + x) n v = s.writeScalar ⟨tile, slot, bank⟩ x v := by
  have h1 : (0x100000 + slot * 0x400 + bank * 0x200 + x - 0x100000) / 0x400 = slot := by omega
  have h2 : (0x100000 + slot * 0x400 + bank * 0x200 + x - 0x100000) % 0x400 / 0x200 = bank := by omega
  have h3 : (0x100000 + slot * 0x400 + bank * 0x200 + x - 0x100000) % 0x200 = x := by omega
  rw [State.winWrite, windowPart_scalar ht hs hb hx]
  dsimp only
  rw [h1, h2, h3]
  rfl

section
variable (s : State) (r : BankRef) (v : Nat)

theorem writeScalar_landed {i : Nat} (hi : i < 32) (hp : ∀ p ∈ (s.bank r).pend, p.dest ≠ .g i) :
    s.writeScalar r (8 * i) v = s.setBank r ((s.bank r).wg i (BitVec.ofNat 64 v)) := by
  have h8 : 8 * i / 8 = i := by omega
  unfold State.writeScalar
  dsimp only
  rw [if_pos (by omega), h8, Bank.find_pend_none hp]

theorem writeScalar_pending {i : Nat} (hi : i < 32) {p : Pending} (hp : (s.bank r).pend = [p]) (hd : p.dest = .g i) :
    s.writeScalar r (8 * i) v = s.setBank r { s.bank r with pend := [{ p with old := BitVec.ofNat 1024 v }] } := by
  have h8 : 8 * i / 8 = i := by omega
  unfold State.writeScalar
  dsimp only
  rw [if_pos (by omega), h8, Bank.find_pend_one hp hd, hp, List.map_singleton, if_pos hd]

/-- The PC stays even (R143). -/
theorem even_ofNat (v : Nat) : BitVec.ofNat 48 (v / 2 * 2) = BitVec.ofNat 48 v &&& ~~~1#48 := by
  refine BitVec.eq_of_getLsbD_eq fun j hj => ?_
  have hbit : (v / 2 * 2).testBit j = (v.testBit j && !decide (j = 0)) := by
    have h := Nat.testBit_two_pow_mul_add (v / 2) (i := 1) (b := 0) (by decide) j
    rw [Nat.add_zero, Nat.pow_one, Nat.mul_comm] at h
    rw [h]
    cases j with
    | zero => simp
    | succ j => simp [Nat.testBit_add_one]
  rw [BitVec.getLsbD_and, BitVec.getLsbD_not, BitVec.getLsbD_one, BitVec.getLsbD_ofNat, BitVec.getLsbD_ofNat, hbit, decide_eq_true hj]
  cases v.testBit j <;> simp

theorem writeScalar_pc : s.writeScalar r 0x100 v = s.setBank r { s.bank r with pc := BitVec.ofNat 48 v &&& ~~~1#48, fbuf := [] } := by
  unfold State.writeScalar
  dsimp only
  rw [if_neg (by omega), if_pos rfl, even_ofNat]

theorem writeScalar_numctl :
    s.writeScalar r 0x108 v = s.setBank r { s.bank r with numctl := numctlWrite (s.bank r).numctl (BitVec.ofNat 64 v) } := by
  unfold State.writeScalar
  dsimp only
  rw [if_neg (by omega), if_neg (by omega), if_pos rfl]

end

/-- A field, bit by bit. -/
theorem dfld_testBit (x : Dword) (hi lo j : Nat) : (dfld x hi lo).testBit j = (decide (j < hi + 1 - lo) && x.getLsbD (lo + j)) := by
  rw [dfld, fld, Nat.testBit_mod_two_pow, Nat.testBit_div_two_pow, BitVec.testBit_toNat, Nat.add_comm j]

theorem dfld_testBit_sub (x : Dword) (hi : Nat) {lo k : Nat} (h : lo ≤ k) : (dfld x hi lo).testBit (k - lo) = (decide (k < hi + 1) && x.getLsbD k) := by
  have hlt : k - lo < hi + 1 - lo ↔ k < hi + 1 := by omega
  rw [dfld_testBit, Nat.add_sub_cancel' h]
  simp only [hlt]

theorem dfld_lt (x : Dword) (hi lo : Nat) : dfld x hi lo < 2 ^ (hi + 1 - lo) := Nat.mod_lt _ (Nat.two_pow_pos _)

/-- RM keeps its value where a reserved one is written (R161). -/
def keptRm (old x : Dword) : Nat := if 6 ≤ dfld x 2 0 then dfld old 2 0 else dfld x 2 0

/-- CNAN stays set under DET (R161). -/
def keptCnan (old x : Dword) : Nat := if dfld old 6 6 = 1 then 1 else dfld x 4 4

section
variable (old x : Dword)

theorem keptRm_lt : keptRm old x < 2 ^ 3 := by
  unfold keptRm
  split
  · exact dfld_lt old 2 0
  · exact dfld_lt x 2 0

theorem keptRm_testBit {j : Nat} (hj : j < 3) : (keptRm old x).testBit j = if 6 ≤ dfld x 2 0 then old.getLsbD j else x.getLsbD j := by
  unfold keptRm
  split <;> rw [dfld_testBit, decide_eq_true (by omega), Bool.true_and, Nat.zero_add]

theorem keptCnan_lt : keptCnan old x < 2 ^ 1 := by
  unfold keptCnan
  split
  · decide
  · exact dfld_lt x 4 4

theorem keptCnan_testBit : (keptCnan old x).testBit 0 = (x.getLsbD 4 || old.getLsbD 6) := by
  have hdet : old.getLsbD 6 = decide (dfld old 6 6 = 1) := by
    have hlt : dfld old 6 6 < 2 := dfld_lt old 6 6
    have h := dfld_testBit old 6 6 0
    rw [Nat.testBit_zero, Nat.mod_eq_of_lt hlt] at h
    simpa using h.symm
  unfold keptCnan
  rw [hdet]
  split
  · next h => simp [h]
  · next h => rw [dfld_testBit, decide_eq_false h, Bool.or_false]; rfl

/-- NUMCTL as written, its fields by their places. -/
theorem numctlWrite_eq : numctlWrite old x = BitVec.ofNat 64 (2 ^ 3 * (2 ^ 1 * (2 ^ 1 * (2 ^ 1 * (2 ^ 2 * (2 ^ 8 * (2 ^ 8 * dfld x 31 24 +
    dfld x 22 16) + dfld x 14 8) + dfld old 6 6) + dfld x 5 5) + keptCnan old x) + dfld x 3 3) + keptRm old x) := by
  refine congrArg (BitVec.ofNat 64) ?_
  change keptRm old x + dfld x 3 3 * 8 + keptCnan old x * 16 + dfld x 5 5 * 32 + dfld old 6 6 * 64 + dfld x 14 8 * 256 + dfld x 22 16 * 65536 +
    dfld x 31 24 * 2 ^ 24 = _
  omega

/-- NUMCTL as written, bit by bit (R161, R246). -/
theorem numctlWrite_getLsbD {k : Nat} (hk : k < 64) : (numctlWrite old x).getLsbD k =
    if k < 3 then (if 6 ≤ dfld x 2 0 then old.getLsbD k else x.getLsbD k)
    else if k = 4 then x.getLsbD 4 || old.getLsbD 6
    else if k = 6 then old.getLsbD 6
    else if k = 7 ∨ k = 15 ∨ k = 23 ∨ 32 ≤ k then false
    else x.getLsbD k := by
  have h6 : dfld old 6 6 < 2 ^ 2 := (dfld_lt old 6 6).trans (by decide)
  have h8 : dfld x 14 8 < 2 ^ 8 := (dfld_lt x 14 8).trans (by decide)
  have h16 : dfld x 22 16 < 2 ^ 8 := (dfld_lt x 22 16).trans (by decide)
  rw [numctlWrite_eq, BitVec.getLsbD_ofNat, decide_eq_true hk, Bool.true_and, Nat.testBit_two_pow_mul_add _ (keptRm_lt old x),
    Nat.testBit_two_pow_mul_add _ (dfld_lt x 3 3), Nat.testBit_two_pow_mul_add _ (keptCnan_lt old x),
    Nat.testBit_two_pow_mul_add _ (dfld_lt x 5 5), Nat.testBit_two_pow_mul_add _ h6, Nat.testBit_two_pow_mul_add _ h8,
    Nat.testBit_two_pow_mul_add _ h16]
  by_cases hrm : k < 3
  · rw [if_pos hrm, if_pos hrm, keptRm_testBit old x hrm]
  rw [if_neg hrm, if_neg hrm]
  by_cases hcnan : k = 4
  · subst hcnan
    simpa using keptCnan_testBit old x
  simp only [Nat.sub_sub, Nat.reduceAdd]
  clear h6 h8 h16
  grind [dfld_testBit_sub]

end

/-- A doubleword written to NUMCTL, bit by bit (R161, R246). -/
theorem numctlWrite_ofNat_getLsbD (old : Dword) (v : Nat) {k : Nat} (hk : k < 64) : (numctlWrite old (BitVec.ofNat 64 v)).getLsbD k =
    if k < 3 then (if 6 ≤ v % 8 then old.getLsbD k else v.testBit k)
    else if k = 4 then v.testBit 4 || old.getLsbD 6
    else if k = 6 then old.getLsbD 6
    else if k = 7 ∨ k = 15 ∨ k = 23 ∨ 32 ≤ k then false
    else v.testBit k := by
  have hrm : dfld (BitVec.ofNat 64 v) 2 0 = v % 8 := by
    rw [dfld, fld, BitVec.toNat_ofNat]
    omega
  rw [numctlWrite_getLsbD _ _ hk, hrm]
  simp only [BitVec.getLsbD_ofNat, decide_eq_true hk, Bool.true_and]
  rfl

/-! ### The vector part (R143, R246) -/

/-- Bytes of a vector register replaced, bit by bit. -/
theorem setVecBytes_getLsbD (x : Vec) (o n v : Nat) {j : Nat} (hj : j < 1024) :
    (setVecBytes x o n v).getLsbD j = if 8 * o ≤ j ∧ j < 8 * (o + n) then v.testBit (j - 8 * o) else x.getLsbD j := by
  rw [setVecBytes, BitVec.getLsbD_ofNat, decide_eq_true hj, Bool.true_and, replaced_testBit, BitVec.testBit_toNat, Nat.mul_add]

section
variable {tile : Nat} (ht : isCompute tile) (s : State) {slot bank i o : Nat} (hs : slot < 8) (hb : bank < 2) (hi : i < 32) (ho : o < 128) (n v : Nat)
include ht hs hb hi ho

/-- The upper half of an XA tile's register is not there (R143). -/
theorem winWrite_vector_absent (hw : isLa tile = false) (h64 : 64 ≤ o) :
    s.winWrite tile (0x180000 + slot * 0x2000 + bank * 0x1000 + 128 * i + o) n v = s := by
  have h4 : (0x180000 + slot * 0x2000 + bank * 0x1000 + (128 * i + o) - 0x180000) % 0x80 = o := by omega
  have hv : vlBits tile = 512 := by rw [vlBits_compute ht, hw]; rfl
  rw [Nat.add_assoc _ (128 * i), State.winWrite, windowPart_vector ht hs hb (by omega)]
  dsimp only
  rw [h4]
  exact if_pos ⟨hv, h64⟩

theorem winWrite_vector_landed (hw : isLa tile = true ∨ o < 64) (hport : 28 ≤ i → (s.bank ⟨tile, slot, bank⟩).port (i - 28) = none)
    (hpend : ∀ p ∈ (s.bank ⟨tile, slot, bank⟩).pend, p.dest ≠ .v i) :
    s.winWrite tile (0x180000 + slot * 0x2000 + bank * 0x1000 + 128 * i + o) n v =
      s.setBank ⟨tile, slot, bank⟩ ((s.bank ⟨tile, slot, bank⟩).wv i (setVecBytes ((s.bank ⟨tile, slot, bank⟩).rv i) o n v)) := by
  have h1 : (0x180000 + slot * 0x2000 + bank * 0x1000 + (128 * i + o) - 0x180000) / 0x2000 = slot := by omega
  have h2 : (0x180000 + slot * 0x2000 + bank * 0x1000 + (128 * i + o) - 0x180000) % 0x2000 / 0x1000 = bank := by omega
  have h3 : (0x180000 + slot * 0x2000 + bank * 0x1000 + (128 * i + o) - 0x180000) % 0x1000 / 0x80 = i := by omega
  have h4 : (0x180000 + slot * 0x2000 + bank * 0x1000 + (128 * i + o) - 0x180000) % 0x80 = o := by omega
  have hthere : ¬ (vlBits tile = 512 ∧ 64 ≤ o) := by
    rintro ⟨hv, h64⟩
    rw [vlBits_compute ht, if_pos (hw.resolve_right (by omega))] at hv
    omega
  have hopen : ¬ (28 ≤ i ∧ ((s.bank ⟨tile, slot, bank⟩).port (i - 28)).isSome = true) := by
    rintro ⟨h28, hsome⟩
    rw [hport h28] at hsome
    cases hsome
  rw [Nat.add_assoc _ (128 * i), State.winWrite, windowPart_vector ht hs hb (by omega)]
  dsimp only
  rw [h1, h2, h3, h4, if_neg hthere, if_neg hopen, Bank.find_pend_none hpend]

end

/-! ### Accumulators and planes (R214) -/

/-- A write of an element of an accumulator bank. -/
theorem winWrite_acc {tile : Nat} (ht : isCompute tile) (s : State) {k row col : Nat} (hk : k < unitBanks tile) (hr : row < 64) (hc : col < 32) (n v : Nat) :
    s.winWrite tile (0x200000 + k * 0x4000 + row * 0x100 + col * 8) n v = s.setTile tile { s.tile tile with
      mx := (s.tile tile).mx.setAcc k (tset ((s.tile tile).mx.acc k) (32 * row + col) (BitVec.ofNat 40 v)) } := by
  have h1 : (0x200000 + k * 0x4000 + (row * 0x100 + col * 8) - 0x200000) / 0x4000 = k := by omega
  have h2 : (0x200000 + k * 0x4000 + (row * 0x100 + col * 8) - 0x200000) % 0x4000 / 8 = 32 * row + col := by omega
  rw [Nat.add_assoc _ (row * 0x100), State.winWrite, windowPart_acc ht hk (by omega)]
  dsimp only
  rw [h1, h2]

section
variable (m : Matrix) (p : Nat) (x y : Plane)

theorem Matrix.setPlane_plane : m.setPlane p (m.plane p) = m := by
  unfold Matrix.setPlane Matrix.plane
  split
  · rfl
  · split <;> rfl

theorem Matrix.setPlane_setPlane : (m.setPlane p x).setPlane p y = m.setPlane p y := by
  unfold Matrix.setPlane
  split
  · rfl
  · split <;> rfl

@[simp] theorem Matrix.plane_setPlane : (m.setPlane p x).plane p = x := by
  unfold Matrix.setPlane Matrix.plane
  split
  · rfl
  · split <;> rfl

theorem Matrix.plane_setPlane_other {p q : Nat} (hp : p < 3) (hq : q < 3) (h : q ≠ p) : (m.setPlane p x).plane q = m.plane q := by
  unfold Matrix.setPlane Matrix.plane
  grind

/-- A plane's update leaves the rest of the unit. -/
theorem Matrix.setPlane_frame : m.setPlane p x =
    { m with active := (m.setPlane p x).active, shadow := (m.setPlane p x).shadow, leash := (m.setPlane p x).leash } := by
  unfold Matrix.setPlane
  split
  · rfl
  · split <;> rfl

end

section
variable (m : Matrix) {p : Nat} (b : Byte)

theorem setPlaneByte_byte {x : Nat} (hp : p < 3) (hx : x < 0x400) :
    setPlaneByte m (p * 0x400 + x) b = m.setPlane p { m.plane p with bytes := tset (m.plane p).bytes x b } := by
  have h1 : (p * 0x400 + x) / 0x400 = p := by omega
  have h2 : (p * 0x400 + x) % 0x400 = x := by omega
  unfold setPlaneByte
  dsimp only
  rw [if_pos (by omega), h1, h2]

/-- A byte of a scale word replaced. -/
theorem setPlaneByte_scale {x : Nat} (hx : x < 0x80) : setPlaneByte m (0xC00 + p * 0x80 + x) b =
    m.setPlane p { m.plane p with scales := tset (m.plane p).scales (x / 2) (if x % 2 = 0
      then (tget 0 (m.plane p).scales (x / 2)).extractLsb' 8 8 ++ b else b ++ (tget 0 (m.plane p).scales (x / 2)).extractLsb' 0 8) } := by
  have h1 : (0xC00 + p * 0x80 + x - 0xC00) / 0x80 = p := by omega
  have h2 : (0xC00 + p * 0x80 + x - 0xC00) % 0x80 / 2 = x / 2 := by omega
  have h3 : (0xC00 + p * 0x80 + x) % 2 = x % 2 := by omega
  unfold setPlaneByte
  dsimp only
  rw [if_neg (by omega), h1, h2, h3]

/-- Bytes of a plane written one after another: the plane with them, and the rest of the unit as it was. -/
theorem foldl_setPlaneByte (v : Nat) {o : Nat} (hp : p < 3) (n : Nat) (hn : o + n ≤ 0x400) :
    ∃ x : Plane, (List.range n).foldl (fun m k => setPlaneByte m (p * 0x400 + o + k) (BitVec.ofNat 8 (v / 2 ^ (8 * k)))) m = m.setPlane p x ∧
      x.scales = (m.plane p).scales ∧
      ∀ k, tget 0 x.bytes k = if o ≤ k ∧ k < o + n then BitVec.ofNat 8 (v / 2 ^ (8 * (k - o))) else tget 0 (m.plane p).bytes k := by
  induction n with
  | zero => exact ⟨m.plane p, (m.setPlane_plane p).symm, rfl, fun k => (if_neg (by omega)).symm⟩
  | succ n ih =>
    obtain ⟨x, hfold, hscales, hbytes⟩ := ih (by omega)
    refine ⟨{ x with bytes := tset x.bytes (o + n) (BitVec.ofNat 8 (v / 2 ^ (8 * n))) }, ?_, hscales, fun k => ?_⟩
    · rw [List.range_succ, List.foldl_append, hfold, List.foldl_cons, List.foldl_nil, Nat.add_assoc (p * 0x400),
        setPlaneByte_byte _ _ hp (by omega), Matrix.plane_setPlane, Matrix.setPlane_setPlane]
    · rw [tget_tset, hbytes]
      by_cases hk : k = o + n
      · rw [if_pos hk, if_pos (by omega), hk, Nat.add_sub_cancel_left]
      · rw [if_neg hk]
        exact ite_congr (by simp only [eq_iff_iff]; omega) (fun _ => rfl) fun _ => rfl

/-- Both bytes of a scale word written: the word. -/
theorem scaleWord_ofNat (old : BitVec 8) (v : Nat) :
    BitVec.ofNat 8 (v / 2 ^ 8) ++ (old ++ BitVec.ofNat 8 v).extractLsb' 0 8 = BitVec.ofNat 16 v := by
  refine BitVec.eq_of_getLsbD_eq fun j hj => ?_
  rw [BitVec.getLsbD_append, BitVec.getLsbD_ofNat, BitVec.getLsbD_ofNat, Nat.testBit_div_two_pow, decide_eq_true hj, Bool.true_and]
  by_cases h : j < 8
  · rw [if_pos h, BitVec.getLsbD_extractLsb', Nat.zero_add, BitVec.getLsbD_append, if_pos h, BitVec.getLsbD_ofNat]
    simp [h]
  · rw [if_neg h, decide_eq_true (by omega), Bool.true_and, Nat.sub_add_cancel (by omega)]

/-- A scale word written, and the rest of the unit as it was. -/
theorem foldl_setPlaneByte_scale (v : Nat) {i : Nat} (hi : i < 64) : ∃ x : Plane,
    (List.range 2).foldl (fun m k => setPlaneByte m (0xC00 + p * 0x80 + 2 * i + k) (BitVec.ofNat 8 (v / 2 ^ (8 * k)))) m = m.setPlane p x ∧
      x.bytes = (m.plane p).bytes ∧ ∀ k, tget 0 x.scales k = if k = i then BitVec.ofNat 16 v else tget 0 (m.plane p).scales k := by
  have hlow : 2 * i / 2 = i := by omega
  have hhigh : (2 * i + 1) / 2 = i := by omega
  have hbyte : v / 2 ^ (8 * 0) = v := by rw [Nat.mul_zero, Nat.pow_zero, Nat.div_one]
  let low : BitVec 16 := (tget 0 (m.plane p).scales i).extractLsb' 8 8 ++ BitVec.ofNat 8 v
  refine ⟨{ m.plane p with scales := tset (tset (m.plane p).scales i low) i (BitVec.ofNat 16 v) }, ?_, rfl, fun k => ?_⟩
  · change List.foldl _ m [0, 1] = _
    rw [List.foldl_cons, List.foldl_cons, List.foldl_nil, Nat.add_zero, Nat.add_assoc _ (2 * i), setPlaneByte_scale _ _ (by omega),
      setPlaneByte_scale _ _ (by omega), Matrix.plane_setPlane, Matrix.setPlane_setPlane, hlow, hhigh, if_pos (by omega), if_neg (by omega),
      tget_tset_same, hbyte, Nat.mul_one, scaleWord_ofNat]
  · rw [tget_tset, tget_tset]
    split <;> rfl

end

section
variable {tile : Nat} (ht : isCompute tile) (s : State) {p : Nat} (hp : p < unitBanks tile)
include ht hp

theorem winWrite_plane (v : Nat) {o n : Nat} (h0 : 0 < n) (hn : o + n ≤ 0x400) : s.winWrite tile (0x280000 + p * 0x400 + o) n v =
    s.setTile tile { s.tile tile with
      mx := List.foldl (fun m k => setPlaneByte m (p * 0x400 + o + k) (BitVec.ofNat 8 (v / 2 ^ (8 * k)))) (s.tile tile).mx (List.range n) } := by
  have h1 : 0x280000 + p * 0x400 + o - 0x280000 = p * 0x400 + o := by omega
  rw [State.winWrite, windowPart_plane ht hp (by omega)]
  dsimp only
  rw [h1]

theorem winWrite_scales (n v : Nat) {i : Nat} (hi : i < 64) : s.winWrite tile (0x280C00 + p * 0x80 + 2 * i) n v =
    s.setTile tile { s.tile tile with
      mx := List.foldl (fun m k => setPlaneByte m (0xC00 + p * 0x80 + 2 * i + k) (BitVec.ofNat 8 (v / 2 ^ (8 * k)))) (s.tile tile).mx (List.range n) } := by
  have h1 : 0x280C00 + p * 0x80 + 2 * i - 0x280000 = 0xC00 + p * 0x80 + 2 * i := by omega
  rw [State.winWrite, windowPart_scales ht hp (by omega)]
  dsimp only
  rw [h1]

end

/-! ### The control part (R340) -/

theorem bitOf_eq_testBit (v k : Nat) : bitOf v k = v.testBit k := by
  rw [bitOf, Nat.testBit_eq_decide_div_mod_eq]
  rfl

theorem winWrite_trctl {tile : Nat} (ht : isCompute tile) (s : State) (n v : Nat) :
    s.winWrite tile 0x300000 n v = s.setTile tile (traceWrite (s.tile tile) v) := by
  rw [State.winWrite, windowPart_control ht (by omega)]
  exact if_pos rfl

theorem traceWrite_eq (t : Tile) (v : Nat) : ∃ h, traceWrite t v = { t with
    trctl := BitVec.ofNat 64 (v % 16), trnext := if v.testBit 0 && !t.trctl.getLsbD 0 then 0 else t.trnext,
    trwrap := if v.testBit 0 && !t.trctl.getLsbD 0 then false else t.trwrap, trhalt := h } := by
  refine ⟨(traceWrite t v).trhalt, ?_⟩
  rw [← bitOf_eq_testBit, ← bitOf_toNat]
  rfl

/-! ### Every part -/

theorem Matrix.setAcc_eq (m : Matrix) (k : Nat) (f : Tbl (BitVec 40) → Tbl (BitVec 40)) : m.setAcc k (f (m.acc k)) =
    if k = 0 then { m with acc0 := f m.acc0 } else if k = 1 then { m with acc1 := f m.acc1 } else { m with accL := f m.accL } := by
  unfold Matrix.setAcc Matrix.acc
  split
  · rfl
  · split <;> rfl

theorem windowsTakeWrites : WindowsTakeWrites := by
  intro s tile v ht t banks
  have hbanks (p : Nat) (hp : p < banks) : p < 3 := Nat.lt_of_lt_of_le hp (unitBanks_le tile)
  refine ⟨fun slot hs bank hb => ?_, fun k hk row hr col hc => ?_, fun p hp => ?_, ?_⟩
  · intro r b at_
    have hscalar (x : Nat) (hx : x < 0x150) : s.winWrite tile (at_ + x) 8 v = s.writeScalar r x v := winWrite_scalar ht s hs hb hx 8 v
    refine ⟨fun i hi => ?_, ?_, ?_, fun i hi o n hport hpend => ?_⟩
    · rw [hscalar _ (by omega)]
      exact ⟨writeScalar_landed s r v hi, fun p => writeScalar_pending s r v hi⟩
    · exact (hscalar _ (by omega)).trans (writeScalar_pc s r v)
    · exact ⟨_, (hscalar _ (by omega)).trans (writeScalar_numctl s r v), fun k => numctlWrite_ofNat_getLsbD b.numctl v⟩
    · refine ⟨fun h0 hn => ?_, fun hxa h64 ho => ?_⟩
      · have hw : isLa tile = true ∨ o < 64 := by
          by_cases hla : isLa tile = true
          · exact .inl hla
          · rw [if_neg hla] at hn
            exact .inr (by omega)
        have ho : o < 128 := by split at hn <;> omega
        exact ⟨_, winWrite_vector_landed ht s hs hb hi ho n v hw hport hpend, fun j => setVecBytes_getLsbD _ o n v⟩
      · have hla : isLa tile = false := Bool.eq_false_iff.2 fun hla => absurd hxa (by rw [not_isXa_of_isLa hla]; decide)
        exact winWrite_vector_absent ht s hs hb hi ho n v hla h64
  · intro put
    rw [winWrite_acc ht s hk hr hc 8 v]
    exact congrArg (fun m => s.setTile tile { t with mx := m }) (Matrix.setAcc_eq t.mx k put)
  · intro plane frame
    have hframe (x : Plane) : frame (t.mx.setPlane p x) :=
      ⟨Matrix.setPlane_frame .., fun q hq hne => Matrix.plane_setPlane_other _ _ (hbanks p hp) hq hne⟩
    have hplane (x : Plane) : plane (t.mx.setPlane p x) p = x := Matrix.plane_setPlane ..
    refine ⟨fun o n h0 hn => ?_, fun i hi => ?_⟩
    · obtain ⟨x, hfold, hscales, hbytes⟩ := foldl_setPlaneByte t.mx v (hbanks p hp) n hn
      refine ⟨t.mx.setPlane p x, ?_, hframe x, ?_⟩
      · rw [winWrite_plane ht s hp v h0 hn, hfold]
      · rw [hplane]
        exact ⟨hscales, hbytes⟩
    · obtain ⟨x, hfold, hbytes, hscales⟩ := foldl_setPlaneByte_scale t.mx (p := p) v hi
      refine ⟨t.mx.setPlane p x, ?_, hframe x, ?_⟩
      · rw [winWrite_scales ht s hp 2 v hi, hfold]
      · rw [hplane]
        exact ⟨hbytes, hscales⟩
  · obtain ⟨h, htrace⟩ := traceWrite_eq t v
    exact ⟨h, (winWrite_trctl ht s 8 v).trans (congrArg (s.setTile tile) htrace)⟩

end Sys2Proof.Machine

/-- Settles O17. An access of a window goes to its part as it issues, and each part's offsets are taken apart once, for what they read and for what they take. -/
theorem Sys2Proof.windowAccessesReachTheirPart : Obligations.WindowAccessesReachTheirPart :=
  ⟨Sys2Proof.Machine.windowAccessesReach, Sys2Proof.Machine.windowsShowTheirParts, Sys2Proof.Machine.windowsTakeWrites⟩

/-! ## Numeric traps

Which exception of an instruction's lanes traps, and what TRAPVAL says of it (R162, R163). -/

namespace Sys2Proof.Machine

theorem noFlag_getLsbD (k : Nat) : (0 : Flags).getLsbD k = false := BitVec.getLsbD_zero

theorem foldl_or_getLsbD (l : List (Nat × Flags)) (a : Flags) (k : Nat) :
    (l.foldl (fun a p => a ||| p.2) a).getLsbD k = (a.getLsbD k || l.any (fun p => p.2.getLsbD k)) := by
  induction l generalizing a with
  | nil => simp
  | cons p l ih => rw [List.foldl_cons, ih, BitVec.getLsbD_or, List.any_cons, Bool.or_assoc]

theorem orFlags_getLsbD (l : List (Nat × Flags)) (k : Nat) : (orFlags l).getLsbD k = l.any (fun p => p.2.getLsbD k) := by
  rw [orFlags, foldl_or_getLsbD, noFlag_getLsbD, Bool.false_or]

/-- Bit k of the exceptions that trap: some lane raised it, and its trap is enabled. -/
theorem trapping_getLsbD (n : Dword) (l : List (Nat × Flags)) {k : Nat} (hk : k < 7) :
    (orFlags l &&& enables n).getLsbD k = (l.any (fun p => p.2.getLsbD k) && n.getLsbD (8 + k)) := by
  rw [BitVec.getLsbD_and, orFlags_getLsbD, enables, BitVec.getLsbD_extractLsb', decide_eq_true hk, Bool.true_and]

/-- The lowest exception of a set that is not empty is in it, and nothing below it is. -/
theorem lowestFlag_spec {f : Flags} (h : f ≠ 0) :
    lowestFlag f < 7 ∧ f.getLsbD (lowestFlag f) = true ∧ ∀ j < lowestFlag f, f.getLsbD j = false := by
  obtain ⟨i, hi⟩ : ∃ i, (List.range 7).find? (fun i => f.getLsbD i) = some i := by
    rw [← Option.isSome_iff_exists, List.find?_isSome]
    by_contra hnone
    refine h (BitVec.eq_of_getLsbD_eq fun i hi => ?_)
    simpa using fun hbit => hnone ⟨i, List.mem_range.2 hi, hbit⟩
  obtain ⟨hbit, hmem, hlow⟩ := List.find?_range_eq_some.1 hi
  rw [lowestFlag, hi, Option.getD_some]
  exact ⟨List.mem_range.1 hmem, hbit, fun j hj => by simpa using hlow j hj⟩

theorem foldl_min_le (l : List (Nat × Flags)) (m : Nat) :
    l.foldl (fun m p => min m p.1) m ≤ m ∧ ∀ p ∈ l, l.foldl (fun m p => min m p.1) m ≤ p.1 := by
  induction l generalizing m with
  | nil => simp
  | cons q l ih =>
    obtain ⟨hm, hl⟩ := ih (min m q.1)
    simp only [List.foldl_cons, List.forall_mem_cons]
    exact ⟨hm.trans (min_le_left ..), hm.trans (min_le_right ..), hl⟩

theorem foldl_min_eq (l : List (Nat × Flags)) (m : Nat) :
    l.foldl (fun m p => min m p.1) m = m ∨ ∃ p ∈ l, l.foldl (fun m p => min m p.1) m = p.1 := by
  induction l generalizing m with
  | nil => exact .inl rfl
  | cons q l ih =>
    simp only [List.foldl_cons, List.exists_mem_cons_iff]
    rcases ih (min m q.1) with h | h
    · rw [h]
      exact (min_choice m q.1).imp_right .inl
    · exact .inr (.inr h)

/-- The lowest lane that raised an exception is one of those that raised it. -/
theorem lowestLane_spec {l : List (Nat × Flags)} (hl : ∀ p ∈ l, p.1 < 64) {k : Nat} (hk : ∃ p ∈ l, p.2.getLsbD k = true) :
    (∃ p ∈ l, p.2.getLsbD k = true ∧ lowestLane l k = p.1) ∧ ∀ q ∈ l, q.2.getLsbD k = true → lowestLane l k ≤ q.1 := by
  have hle : ∀ q ∈ l, q.2.getLsbD k = true → lowestLane l k ≤ q.1 := fun q hq hbit =>
    (foldl_min_le (l.filter fun p => p.2.getLsbD k) 63).2 q (List.mem_filter.2 ⟨hq, hbit⟩)
  refine ⟨?_, hle⟩
  rcases foldl_min_eq (l.filter fun p => p.2.getLsbD k) 63 with h | ⟨p, hp, h⟩
  · obtain ⟨p, hp, hbit⟩ := hk
    have hmin : lowestLane l k = 63 := h
    have := hl p hp
    have := hle p hp hbit
    exact ⟨p, hp, hbit, by omega⟩
  · obtain ⟨hpl, hbit⟩ := List.mem_filter.1 hp
    exact ⟨p, hpl, hbit, h⟩

/-- TRAPVAL's fields: the exceptions below bit 7 and the lane from bit 16. -/
theorem trapVal_fields (f : Flags) {lane : Nat} (h : lane < 64) :
    (∀ j < 7, (BitVec.ofNat 64 (f.toNat + lane * 65536)).getLsbD j = f.getLsbD j) ∧
      (BitVec.ofNat 64 (f.toNat + lane * 65536)).toNat / 65536 = lane := by
  have hf : f.toNat < 2 ^ 7 := f.isLt
  constructor
  · intro j hj
    have hsum : f.toNat + lane * 65536 = 2 ^ 16 * lane + f.toNat := by omega
    rw [BitVec.getLsbD_ofNat, hsum, Nat.testBit_two_pow_mul_add lane (by omega), if_pos (by omega), decide_eq_true (by omega), Bool.true_and,
      BitVec.testBit_toNat]
  · rw [BitVec.toNat_ofNat, Nat.mod_eq_of_lt (by omega)]
    omega

theorem numericTrap_of_hit {n : Dword} {l : List (Nat × Flags)} (h : orFlags l &&& enables n ≠ 0) :
    numericTrap n l = some (0x041 + lowestFlag (orFlags l &&& enables n),
      BitVec.ofNat 64 ((orFlags l).toNat + lowestLane l (lowestFlag (orFlags l &&& enables n)) * 65536)) := if_neg h

/-- Nothing traps exactly when no exception that was raised is enabled; otherwise the lowest such one does. -/
theorem numericTrap_eq_none {n : Dword} {l : List (Nat × Flags)} : numericTrap n l = none ↔ orFlags l &&& enables n = 0 := by
  by_cases h : orFlags l &&& enables n = 0
  · exact iff_of_true (if_pos h) h
  · refine iff_of_false (fun hn => ?_) h
    rw [numericTrap_of_hit h] at hn
    cases hn

theorem numericTrap_eq_none_iff (n : Dword) (l : List (Nat × Flags)) :
    numericTrap n l = none ↔ ∀ k < 7, n.getLsbD (8 + k) = true → ∀ p ∈ l, p.2.getLsbD k = false := by
  have hbit (k : Nat) (hk : k < 7) : (orFlags l &&& enables n).getLsbD k = false ↔ (n.getLsbD (8 + k) = true → ∀ p ∈ l, p.2.getLsbD k = false) := by
    rw [trapping_getLsbD n l hk, Bool.and_eq_false_iff, List.any_eq_false]
    cases n.getLsbD (8 + k) <;> simp
  rw [numericTrap_eq_none]
  constructor
  · intro h k hk
    exact (hbit k hk).1 (by rw [h, noFlag_getLsbD])
  · intro h
    exact BitVec.eq_of_getLsbD_eq fun k hk => by rw [(hbit k hk).2 (h k hk), noFlag_getLsbD]

/-- The trap of a lane's exceptions: its cause is that of the lowest enabled exception, and TRAPVAL tells of every exception and of its lowest lane. -/
theorem numericTrap_eq_some {n : Dword} {l : List (Nat × Flags)} (hl : ∀ p ∈ l, p.1 < 64) {c : Nat} {v : Dword} (h : numericTrap n l = some (c, v)) :
    ∃ k < 7, c = 0x041 + k ∧ n.getLsbD (8 + k) ∧ (∃ p ∈ l, p.2.getLsbD k) ∧
      (∀ j < k, n.getLsbD (8 + j) → ∀ p ∈ l, p.2.getLsbD j = false) ∧
      (∀ j < 7, v.getLsbD j = l.any (fun p => p.2.getLsbD j)) ∧
      ∃ p ∈ l, p.2.getLsbD k ∧ v.toNat / 65536 = p.1 ∧ ∀ q ∈ l, q.2.getLsbD k → p.1 ≤ q.1 := by
  have hne : orFlags l &&& enables n ≠ 0 := fun h0 => by rw [numericTrap_eq_none.2 h0] at h; cases h
  rw [numericTrap_of_hit hne] at h
  obtain ⟨hk, hbit, hlow⟩ := lowestFlag_spec hne
  generalize lowestFlag (orFlags l &&& enables n) = k at *
  obtain ⟨rfl, rfl⟩ := Prod.mk.inj (Option.some.inj h)
  rw [trapping_getLsbD n l hk, Bool.and_eq_true, List.any_eq_true] at hbit
  obtain ⟨hraised, henabled⟩ := hbit
  obtain ⟨⟨p, hp, hpk, hlane⟩, hmin⟩ := lowestLane_spec hl hraised
  obtain ⟨hflags, hfield⟩ := trapVal_fields (orFlags l) (hlane ▸ hl p hp)
  refine ⟨k, hk, rfl, henabled, hraised, fun j hj hj8 q hq => ?_, fun j hj => ?_, p, hp, hpk, hfield.trans hlane, hlane ▸ hmin⟩
  · have hnot := hlow j hj
    rw [trapping_getLsbD n l (hj.trans hk), hj8, Bool.and_true, List.any_eq_false] at hnot
    simpa using hnot q hq
  · rw [hflags j hj, orFlags_getLsbD]

end Sys2Proof.Machine

/-- Settles O49: bit by bit, the exceptions that trap are those that some lane raised and that NUMCTL enables. -/
theorem Sys2Proof.numericTrapIsTheLowestEnabled : Obligations.NumericTrapIsTheLowestEnabled :=
  fun n l hl => ⟨Machine.numericTrap_eq_none_iff n l, fun _ _ => Machine.numericTrap_eq_some hl⟩

/-! ## Rounding to nearest

Between two neighbouring values of a format the nearer one is taken, so that no finite value of the format is nearer to the exact number (R164, R165). -/

namespace Sys2Proof.Machine

/-! ### floor(log2 x) -/

theorem log2Fuel_eq (f x : Nat) (h : x < 2 ^ f) : log2Fuel f x = Nat.log 2 x := by
  induction f generalizing x with
  | zero =>
    have hx : x = 0 := by omega
    rw [hx, Nat.log_zero_right]
    rfl
  | succ f ih =>
    unfold log2Fuel
    split
    next h2 => rw [Nat.log_of_lt h2]
    next h2 =>
      have hx : x / 2 < 2 ^ f := by rw [Nat.pow_succ] at h; omega
      rw [ih _ hx, Nat.log_of_one_lt_of_le (n := x) (by decide) (by omega), Nat.add_comm]

/-- A positive number lies in the binade of its logarithm. -/
theorem log2Fuel_binade {f n m : Nat} (h0 : m ≠ 0) (hn : n ≤ f) (h : m < 2 ^ n) : 2 ^ log2Fuel f m ≤ m ∧ m < 2 ^ (log2Fuel f m + 1) := by
  rw [log2Fuel_eq f m (h.trans_le (Nat.pow_le_pow_right (by decide) hn))]
  exact ⟨Nat.pow_log_le_self 2 h0, Nat.lt_pow_succ_log_self (by decide) m⟩

/-! ### The values of a format, in the order of their codes (R155) -/

section
variable (f : Fmt)

/-- The grid of binade n has steps of this size. -/
def Fmt.unit (f : Fmt) (n : Nat) : Rat := 2 ^ (f.emin - f.mb + n)

theorem Fmt.unit_pos (n : Nat) : 0 < f.unit n := zpow_pos (by norm_num) _

theorem Fmt.unit_succ (n : Nat) : f.unit (n + 1) = 2 * f.unit n := by
  rw [unit, unit, Nat.cast_add, Nat.cast_one, ← add_assoc, zpow_add_one₀ (by norm_num), mul_comm]

/-- The code of a normal number of binade n, and those of the subnormal ones, which lie on the grid of binade 0. -/
theorem codeValue_normal {n q : Nat} (h : 2 ^ f.mb ≤ q) (h2 : q < 2 * 2 ^ f.mb) : codeValue f (n * 2 ^ f.mb + q) = q * f.unit n := by
  obtain ⟨p, rfl⟩ := Nat.exists_eq_add_of_le h
  have hp : p < 2 ^ f.mb := by omega
  have hdiv : (n * 2 ^ f.mb + (2 ^ f.mb + p)) / 2 ^ f.mb = n + 1 := by
    rw [show n * 2 ^ f.mb + (2 ^ f.mb + p) = p + 2 ^ f.mb * (n + 1) by ring, Nat.add_mul_div_left _ _ (Nat.two_pow_pos _), Nat.div_eq_of_lt hp, zero_add]
  have hmod : (n * 2 ^ f.mb + (2 ^ f.mb + p)) % 2 ^ f.mb = p := by
    rw [show n * 2 ^ f.mb + (2 ^ f.mb + p) = p + 2 ^ f.mb * (n + 1) by ring, Nat.add_mul_mod_self_left, Nat.mod_eq_of_lt hp]
  rw [codeValue, if_neg (by omega), hdiv, hmod, Fmt.unit, Fmt.emin]
  congr 2
  push_cast
  ring

theorem codeValue_subnormal {q : Nat} (h : q < 2 ^ f.mb) : codeValue f q = q * f.unit 0 := by
  rw [codeValue, if_pos h, Fmt.unit, Nat.cast_zero, add_zero]

/-- q steps of binade n stand for a code of that grid: a normal number, or one of the lowest grid. -/
def Fmt.OnGrid (f : Fmt) (n q : Nat) : Prop := (n = 0 ∨ 2 ^ f.mb ≤ q) ∧ q < 2 * 2 ^ f.mb

theorem codeValue_onGrid {n q : Nat} (h : f.OnGrid n q) : codeValue f (n * 2 ^ f.mb + q) = q * f.unit n := by
  obtain ⟨hn, hq⟩ := h
  by_cases hm : 2 ^ f.mb ≤ q
  · exact codeValue_normal f hm hq
  · obtain rfl : n = 0 := hn.resolve_right hm
    rw [zero_mul, zero_add, codeValue_subnormal f (by omega)]

/-- The code after the last one of a grid is the first of the next. -/
theorem codeValue_onGrid_succ {n q : Nat} (h : f.OnGrid n q) : codeValue f (n * 2 ^ f.mb + q + 1) = (q + 1 : Nat) * f.unit n := by
  obtain ⟨hn, hq⟩ := h
  by_cases hlast : q + 1 < 2 * 2 ^ f.mb
  · exact codeValue_onGrid f (q := q + 1) ⟨hn.imp_right (·.trans (Nat.le_succ q)), hlast⟩
  · have hq1 : q + 1 = 2 * 2 ^ f.mb := by omega
    have hcode : n * 2 ^ f.mb + q + 1 = (n + 1) * 2 ^ f.mb + 2 ^ f.mb := by rw [add_assoc, hq1]; ring
    rw [hcode, codeValue_normal f le_rfl (by have := Nat.two_pow_pos f.mb; omega), hq1, Fmt.unit_succ]
    push_cast
    ring

/-- Every code lies on a grid. -/
theorem exists_onGrid (k : Nat) : ∃ n q, f.OnGrid n q ∧ k = n * 2 ^ f.mb + q := by
  have hpos := Nat.two_pow_pos f.mb
  have hk := Nat.div_add_mod' k (2 ^ f.mb)
  have hlt := Nat.mod_lt k hpos
  rcases hd : k / 2 ^ f.mb with _ | n
  · exact ⟨0, k, ⟨.inl rfl, by rw [hd] at hk; omega⟩, by omega⟩
  · refine ⟨n, 2 ^ f.mb + k % 2 ^ f.mb, ⟨.inr (by omega), by omega⟩, ?_⟩
    rw [hd] at hk
    rw [← add_assoc, ← Nat.succ_mul]
    exact hk.symm

theorem codeValue_mono : Monotone (codeValue f) := by
  refine monotone_nat_of_le_succ fun k => ?_
  obtain ⟨n, q, h, rfl⟩ := exists_onGrid f k
  rw [codeValue_onGrid f h, codeValue_onGrid_succ f h]
  exact mul_le_mul_of_nonneg_right (by exact_mod_cast Nat.le_succ q) (f.unit_pos n).le

/-- Of the two codes around a number the nearer one is nearest of all. -/
theorem nearest_of_between {n q : Nat} (h : f.OnGrid n q) {x : Rat} (hlo : q * f.unit n ≤ x) (hhi : x ≤ (q + 1 : Nat) * f.unit n) {up : Bool}
    (hup : up = true → (2 * q + 1) * f.unit n ≤ 2 * x) (hdown : up = false → 2 * x ≤ (2 * q + 1) * f.unit n) (j : Nat) :
    |codeValue f (n * 2 ^ f.mb + q + b2n up) - x| ≤ |codeValue f j - x| := by
  have hv0 := codeValue_onGrid f h
  have hv1 := codeValue_onGrid_succ f h
  have hj : codeValue f j ≤ q * f.unit n ∨ (q + 1 : Nat) * f.unit n ≤ codeValue f j := by
    rw [← hv0, ← hv1]
    exact (Nat.lt_or_ge (n * 2 ^ f.mb + q) j).symm.imp (codeValue_mono f ·) (codeValue_mono f ·)
  push_cast at hhi hj hv1
  cases up with
  | false =>
    have hd := hdown rfl
    rw [show b2n false = 0 from rfl, add_zero, hv0, abs_of_nonpos (by linarith)]
    rcases hj with hj | hj
    · rw [abs_of_nonpos (by linarith)]; linarith
    · rw [abs_of_nonneg (by linarith)]; linarith
  | true =>
    have hu := hup rfl
    rw [show b2n true = 1 from rfl, hv1, abs_of_nonneg (by linarith)]
    rcases hj with hj | hj
    · rw [abs_of_nonpos (by linarith)]; linarith
    · rw [abs_of_nonneg (by linarith)]; linarith

end

/-! ### The grid on which a number is rounded -/

/-- The exponent of the grid for m · 2^e: that of its binade, within the format's. -/
def Fmt.gridExp (f : Fmt) (m : Nat) (e : Int) : Int :=
  if (ilog2 m : Int) + e < f.emin then f.emin else if f.emax < (ilog2 m : Int) + e then f.emax else (ilog2 m : Int) + e

/-- Whole steps of the grid below m · 2^e, and the rest as r of d: 1 of 2^40 stands for a rest far below the middle. -/
def Fmt.gridSplit (f : Fmt) (m : Nat) (e : Int) : Nat × Nat × Nat :=
  let top := (ilog2 m : Int) + e
  let u := f.gridExp m e - f.mb
  if u ≤ e then (if f.emax < top then 2 ^ (f.mb + 2) else m * 2 ^ (e - u).toNat, 0, 1)
  else if top < u - 40 then (0, 1, 2 ^ 40)
  else (m / 2 ^ (u - e).toNat, m % 2 ^ (u - e).toNat, 2 ^ (u - e).toNat)

/-- The binade of the grid, counted from the format's lowest. -/
def Fmt.gridBinade (f : Fmt) (m : Nat) (e : Int) : Nat := (f.gridExp m e - f.emin).toNat

/-- Whether rounding to nearest takes the upper neighbour. -/
def Fmt.nearestUp (f : Fmt) (m : Nat) (e : Int) : Bool :=
  let p := f.gridSplit m e
  p.2.1 != 0 && (decide (p.2.2 < 2 * p.2.1) || (decide (2 * p.2.1 = p.2.2) && p.1 % 2 == 1))

/-- The code that rounding to nearest gives before a look at overflow. -/
def Fmt.nearestCode (f : Fmt) (m : Nat) (e : Int) : Nat := f.gridBinade m e * 2 ^ f.mb + (f.gridSplit m e).1 + b2n (f.nearestUp m e)

/-- Rounding, in terms of the steps of the grid. -/
theorem roundFin_eq (f : Fmt) (c : Ctl) (lane idx : Nat) (s : Bool) {m : Nat} (hm : m ≠ 0) (e : Int) :
    roundFin f c lane idx s m e =
      let (q, r, d) := f.gridSplit m e
      let base := f.gridBinade m e * 2 ^ f.mb
      let up := r != 0 && chooseUp c s (q % 2 == 1) r d lane idx (f.sign s + min (base + q) f.maxCode)
      let code := base + q + b2n up
      if f.maxCode < code then overflowTo f c s up
      else if c.ftz = true ∧ f.ftz = true ∧ decide (code < 2 ^ f.mb) = true ∧ 0 < code then (f.sign s, flUF ||| flNX)
      else (f.sign s + code, (if r ≠ 0 then flNX else 0) ||| (if r ≠ 0 ∧ decide (code < 2 ^ f.mb) = true then flUF else 0)) := by
  have hq : (f.gridSplit m e).1 = (if f.gridExp m e - f.mb ≤ e then
        (if f.emax < (ilog2 m : Int) + e then 2 ^ (f.mb + 2) else m * 2 ^ (e - (f.gridExp m e - f.mb)).toNat)
      else if (ilog2 m : Int) + e < f.gridExp m e - f.mb - 40 then 0 else m / 2 ^ (f.gridExp m e - f.mb - e).toNat) := by
    unfold Fmt.gridSplit; dsimp only; split_ifs <;> rfl
  have hr : (f.gridSplit m e).2.1 = (if f.gridExp m e - f.mb ≤ e then 0
      else if (ilog2 m : Int) + e < f.gridExp m e - f.mb - 40 then 1 else m % (f.gridSplit m e).2.2) := by
    unfold Fmt.gridSplit; dsimp only; split_ifs <;> rfl
  have hd : (f.gridSplit m e).2.2 = (if f.gridExp m e - f.mb ≤ e then 1
      else if (ilog2 m : Int) + e < f.gridExp m e - f.mb - 40 then 2 ^ 40 else 2 ^ (f.gridExp m e - f.mb - e).toNat) := by
    unfold Fmt.gridSplit; dsimp only; split_ifs <;> rfl
  dsimp only
  rw [hr, hq, hd, roundFin, if_neg hm]
  rfl

theorem overflowTo_raises (f : Fmt) (c : Ctl) (s up : Bool) : (overflowTo f c s up).2.getLsbD 2 = true := by
  unfold overflowTo
  simp [flOF]

theorem roundFin_nearest {f : Fmt} {c : Ctl} (hrm : c.rm = 0) (hftz : c.ftz = false) (lane idx : Nat) (s : Bool) {m : Nat} (hm : m ≠ 0) (e : Int)
    (hof : (roundFin f c lane idx s m e).2.getLsbD 2 = false) :
    f.nearestCode m e ≤ f.maxCode ∧ (roundFin f c lane idx s m e).1 = f.sign s + f.nearestCode m e := by
  have hchoose (odd : Bool) (r d enc : Nat) : chooseUp c s odd r d lane idx enc = (decide (d < 2 * r) || (decide (2 * r = d) && odd)) := by
    unfold chooseUp
    rw [hrm]
    rfl
  rw [roundFin_eq f c lane idx s hm e] at *
  simp only [hchoose, hftz, Bool.false_eq_true, false_and, if_false] at *
  by_cases hover : f.maxCode < f.nearestCode m e
  · have hraised := (congrArg (fun x : Res => x.2.getLsbD 2) (if_pos hover)).symm.trans hof
    exact Bool.noConfusion ((overflowTo_raises f c s (f.nearestUp m e)).symm.trans hraised)
  · exact ⟨Nat.le_of_not_lt hover, congrArg Prod.fst (if_neg hover)⟩

/-! ### Where the exact number lies on its grid -/

/-- A number x on a grid of steps of size u: whole steps below it, and a rest r of d that lies on the same side of the middle as x. -/
structure Splits (u x : Rat) (p : Nat × Nat × Nat) : Prop where
  below : p.1 * u ≤ x
  above : x < (p.1 + 1 : Nat) * u
  upper : p.2.2 ≤ 2 * p.2.1 → (2 * p.1 + 1) * u ≤ 2 * x
  lower : p.2.1 = 0 ∨ 2 * p.2.1 ≤ p.2.2 → 2 * x ≤ (2 * p.1 + 1) * u

section
variable {f : Fmt} (hf : f.emin ≤ f.emax)
include hf

theorem Fmt.unit_gridBinade (m : Nat) (e : Int) : f.unit (f.gridBinade m e) = 2 ^ (f.gridExp m e - f.mb) := by
  have hle : f.emin ≤ f.gridExp m e := by unfold gridExp; split_ifs <;> omega
  have hn : ((f.gridBinade m e : Nat) : Int) = f.gridExp m e - f.emin := Int.toNat_of_nonneg (by omega)
  rw [unit, hn]
  congr 1
  ring

variable {m : Nat} (hm : 2 ^ ilog2 m ≤ m ∧ m < 2 ^ (ilog2 m + 1)) (e : Int)
include hm

omit hf in
theorem exact_binade : (2 : Rat) ^ ((ilog2 m : Int) + e) ≤ m * (2 : Rat) ^ e ∧ m * (2 : Rat) ^ e < (2 : Rat) ^ ((ilog2 m : Int) + e + 1) := by
  obtain ⟨hlo, hhi⟩ := hm
  have hpos : (0 : Rat) < 2 ^ e := zpow_pos (by norm_num) e
  have hlo' : (2 : Rat) ^ (ilog2 m : Int) ≤ m := by rw [zpow_natCast]; exact_mod_cast hlo
  have hhi' : (m : Rat) < 2 ^ ((ilog2 m : Int) + 1) := by
    rw [show ((ilog2 m : Int) + 1) = ((ilog2 m + 1 : Nat) : Int) by push_cast; rfl, zpow_natCast]
    exact_mod_cast hhi
  constructor
  · rw [zpow_add₀ (by norm_num)]
    exact mul_le_mul_of_nonneg_right hlo' hpos.le
  · rw [add_right_comm, zpow_add₀ (by norm_num)]
    exact mul_lt_mul_of_pos_right hhi' hpos

/-- The steps and the rest of a split say between which neighbours the number lies, and on which side of the middle. -/
theorem gridSplit_splits (htop : (ilog2 m : Int) + e ≤ f.emax ∨ e < f.gridExp m e - f.mb) :
    Splits (f.unit (f.gridBinade m e)) (m * 2 ^ e) (f.gridSplit m e) := by
  obtain ⟨-, hhi⟩ := exact_binade hm e
  have hu := Fmt.unit_gridBinade hf m e
  have hpos := f.unit_pos (f.gridBinade m e)
  unfold Fmt.gridSplit
  generalize hU : f.unit (f.gridBinade m e) = U at *
  dsimp only
  by_cases hexact : f.gridExp m e - f.mb ≤ e
  · have hx : (m : Rat) * 2 ^ e = (m * 2 ^ (e - (f.gridExp m e - f.mb)).toNat : Nat) * U := by
      have hsub := Int.toNat_of_nonneg (Int.sub_nonneg.2 hexact)
      rw [hu, Nat.cast_mul, Nat.cast_pow, Nat.cast_ofNat, mul_assoc, ← zpow_natCast, hsub, ← zpow_add₀ (by norm_num)]
      congr 2
      ring
    rw [if_pos hexact, if_neg (by omega), hx]
    refine ⟨le_rfl, ?_, fun h => absurd h (show ¬ 1 ≤ 2 * 0 by decide), fun _ => ?_⟩ <;> push_cast <;> linarith
  · rw [if_neg hexact]
    by_cases htiny : (ilog2 m : Int) + e < f.gridExp m e - f.mb - 40
    · have hsmall : 2 * ((m : Rat) * 2 ^ e) ≤ U := by
        have hstep : (2 : Rat) ^ ((ilog2 m : Int) + e + 1) * 2 ≤ U := by
          rw [hu, ← zpow_add_one₀ (by norm_num)]
          exact zpow_le_zpow_right₀ (by norm_num) (by omega)
        linarith
      have hnonneg : (0 : Rat) ≤ m * 2 ^ e := by positivity
      rw [if_pos htiny]
      refine ⟨by simpa using hnonneg, ?_, fun h => absurd h (by decide), fun _ => ?_⟩ <;> push_cast <;> linarith
    · rw [if_neg htiny]
      have hdiv := Nat.div_add_mod m (2 ^ (f.gridExp m e - f.mb - e).toNat)
      have hmod := Nat.mod_lt m (Nat.two_pow_pos (f.gridExp m e - f.mb - e).toNat)
      have hunit : U = (2 ^ (f.gridExp m e - f.mb - e).toNat : Nat) * (2 : Rat) ^ e := by
        have hsub := Int.toNat_of_nonneg (a := f.gridExp m e - f.mb - e) (by omega)
        rw [hu, Nat.cast_pow, Nat.cast_ofNat, ← zpow_natCast, hsub, ← zpow_add₀ (by norm_num)]
        congr 1
        ring
      generalize 2 ^ (f.gridExp m e - f.mb - e).toNat = d at *
      generalize m / d = q at *
      generalize m % d = r at *
      have he : (0 : Rat) < 2 ^ e := zpow_pos (by norm_num) e
      have hle {a b : Nat} (h : a ≤ b) : (a : Rat) * 2 ^ e ≤ b * 2 ^ e := mul_le_mul_of_nonneg_right (by exact_mod_cast h) he.le
      have hltc {a b : Nat} (h : a < b) : (a : Rat) * 2 ^ e < b * 2 ^ e := mul_lt_mul_of_pos_right (by exact_mod_cast h) he
      rw [hunit]
      refine ⟨?_, ?_, fun h => ?_, fun h => ?_⟩
      · have := hle (a := q * d) (b := m) (by rw [mul_comm]; omega)
        push_cast at this; linarith
      · have := hltc (a := m) (b := (q + 1) * d) (by rw [mul_comm]; rw [mul_add]; omega)
        push_cast at this ⊢; linarith
      · have := hle (a := (2 * q + 1) * d) (b := 2 * m) (by nlinarith)
        push_cast at this; linarith
      · have := hle (a := 2 * m) (b := (2 * q + 1) * d) (by rcases h with h | h <;> nlinarith)
        push_cast at this; linarith

/-- A result that does not overflow lies on its grid. -/
theorem onGrid_of_le (hmax : f.maxCode < ((f.emax - f.emin).toNat + 2) * 2 ^ f.mb) (hcode : f.nearestCode m e ≤ f.maxCode) :
    ((ilog2 m : Int) + e ≤ f.emax ∨ e < f.gridExp m e - f.mb) ∧ f.OnGrid (f.gridBinade m e) (f.gridSplit m e).1 := by
  obtain ⟨hlo, hhi⟩ := exact_binade hm e
  have hbase : f.gridBinade m e * 2 ^ f.mb + (f.gridSplit m e).1 ≤ f.maxCode := (Nat.le_add_right ..).trans hcode
  have hsteps (hover : f.emax < (ilog2 m : Int) + e) : (f.gridSplit m e).1 < 2 * 2 ^ f.mb := by
    have hn : f.gridBinade m e = (f.emax - f.emin).toNat := by
      unfold Fmt.gridBinade Fmt.gridExp
      rw [if_neg (by omega), if_pos hover]
    rw [hn] at hbase
    nlinarith
  have hex : (ilog2 m : Int) + e ≤ f.emax ∨ e < f.gridExp m e - f.mb := by
    by_contra hno
    obtain ⟨hover, hexact⟩ : f.emax < (ilog2 m : Int) + e ∧ f.gridExp m e - f.mb ≤ e := by omega
    have hq : (f.gridSplit m e).1 = 2 ^ (f.mb + 2) := by
      unfold Fmt.gridSplit
      dsimp only
      rw [if_pos hexact, if_pos hover]
    have hlt := hsteps hover
    rw [hq, Nat.pow_add] at hlt
    omega
  have hu := Fmt.unit_gridBinade hf m e
  obtain ⟨hqlo, hqhi, -, -⟩ := gridSplit_splits hf hm e hex
  have hpos := f.unit_pos (f.gridBinade m e)
  have hmb : (2 : Rat) ^ (f.gridExp m e) = (2 ^ f.mb : Nat) * f.unit (f.gridBinade m e) := by
    rw [hu, Nat.cast_pow, Nat.cast_ofNat, ← zpow_natCast, ← zpow_add₀ (by norm_num)]
    congr 1
    ring
  refine ⟨hex, ?_, ?_⟩
  · by_cases hlow : (ilog2 m : Int) + e ≤ f.emin
    · refine .inl ?_
      unfold Fmt.gridBinade Fmt.gridExp
      split_ifs <;> omega
    · refine .inr (Nat.lt_succ_iff.1 ?_)
      have hge : (2 : Rat) ^ (f.gridExp m e) ≤ 2 ^ ((ilog2 m : Int) + e) :=
        zpow_le_zpow_right₀ (by norm_num) (by unfold Fmt.gridExp; split_ifs <;> omega)
      have hlt : ((2 ^ f.mb : Nat) : Rat) * f.unit (f.gridBinade m e) < ((f.gridSplit m e).1 + 1 : Nat) * f.unit (f.gridBinade m e) := by linarith
      exact_mod_cast lt_of_mul_lt_mul_right hlt hpos.le
  · by_cases hover : f.emax < (ilog2 m : Int) + e
    · exact hsteps hover
    · have hle : (2 : Rat) ^ ((ilog2 m : Int) + e + 1) ≤ 2 ^ (f.gridExp m e + 1) :=
        zpow_le_zpow_right₀ (by norm_num) (by unfold Fmt.gridExp; split_ifs <;> omega)
      rw [zpow_add_one₀ (by norm_num) (f.gridExp m e), hmb] at hle
      have hlt : ((f.gridSplit m e).1 : Rat) * f.unit (f.gridBinade m e) < (2 * 2 ^ f.mb : Nat) * f.unit (f.gridBinade m e) := by
        push_cast at hle ⊢; linarith
      exact_mod_cast lt_of_mul_lt_mul_right hlt hpos.le

/-- Rounding to nearest is as near as any value of the format. -/
theorem nearestCode_nearest (hmax : f.maxCode < ((f.emax - f.emin).toNat + 2) * 2 ^ f.mb) (hcode : f.nearestCode m e ≤ f.maxCode) (j : Nat) :
    |codeValue f (f.nearestCode m e) - m * (2 : Rat) ^ e| ≤ |codeValue f j - m * (2 : Rat) ^ e| := by
  obtain ⟨hex, hgrid⟩ := onGrid_of_le hf hm e hmax hcode
  obtain ⟨hlo, hhi, habove, hbelow⟩ := gridSplit_splits hf hm e hex
  refine nearest_of_between f hgrid hlo hhi.le (fun hup => habove ?_) (fun hdown => hbelow ?_) j
  · unfold Fmt.nearestUp at hup
    simp only [Bool.and_eq_true, Bool.or_eq_true, decide_eq_true_eq] at hup
    omega
  · unfold Fmt.nearestUp at hdown
    simp only [Bool.and_eq_false_iff, Bool.or_eq_false_iff, decide_eq_false_iff_not, bne_eq_false_iff_eq] at hdown
    omega

end

/-- The formats' constants fit together: the codes of the last binade lie below those that overflow (R155). -/
theorem formats_fit {f : Fmt} (h : f = fp32 ∨ f = fp16 ∨ f = bf16 ∨ f = e5m2 ∨ f = e4m3) :
    f.emin ≤ f.emax ∧ f.maxCode < ((f.emax - f.emin).toNat + 2) * 2 ^ f.mb := by
  rcases h with rfl | rfl | rfl | rfl | rfl <;> decide

end Sys2Proof.Machine

/-- Settles O50: the two neighbours on the grid of the exact number's binade are codes that follow each other (`Machine.codeValue_onGrid_succ`), values
rise with their codes, and rounding takes the nearer neighbour. -/
theorem Sys2Proof.roundingGoesToTheNearest : Obligations.RoundingGoesToTheNearest := by
  intro f c lane idx s m e hf hrm hftz hlt hof
  by_cases hm : m = 0
  · subst hm
    refine ⟨0, Nat.zero_le _, rfl, fun j _ => ?_⟩
    have h0 : codeValue f 0 = 0 := by rw [codeValue, if_pos (Nat.two_pow_pos _), Nat.cast_zero, zero_mul]
    rw [h0, Nat.cast_zero, zero_mul, sub_self, abs_zero]
    exact abs_nonneg _
  · obtain ⟨hcode, hres⟩ := Machine.roundFin_nearest hrm hftz lane idx s hm e hof
    obtain ⟨hexp, hmax⟩ := Machine.formats_fit hf
    exact ⟨f.nearestCode m e, hcode, hres, fun j _ =>
      Machine.nearestCode_nearest hexp (Machine.log2Fuel_binade hm (by decide) hlt) e hmax hcode j⟩

/-! ## Vector reductions

A vector instruction of a thread without ports ends with its flags raised. VRED's value is the root of the fixed tree over the active lanes, and
VREDSUM.I32's the sum of their signed numbers (R172, R197, R204). -/

namespace Sys2Proof.Machine

section
variable {s : State} (h : s.me.ports = [])
include h

/-- No register of the thread is a bound port (R329). -/
theorem portOf_unbound (r : BitVec 5) : s.me.portOf r = none := by
  unfold Bank.portOf Bank.port
  rw [h]
  exact ite_self _

theorem srcPorts_unbound (srcs : List (BitVec 5)) : s.me.srcPorts srcs = [] := by
  unfold Bank.srcPorts
  simp only [portOf_unbound h]
  rw [List.filterMap_eq_nil_iff.2 fun _ _ => rfl]
  rfl

theorem vecGate_unbound (srcs : List (BitVec 5)) (dst : Option (BitVec 5)) (f : State → Out) : vecGate srcs dst s f = f s := by
  have hd : dst.bind s.me.portOf = none := by cases dst <;> simp [portOf_unbound h]
  unfold vecGate
  dsimp only
  rw [srcPorts_unbound h, hd]
  rfl

theorem rv_unbound (a : BitVec 5) : s.rv a = s.me.rv a.toNat := by
  rw [State.rv, portOf_unbound h]

end

/-- The end of a vector instruction with a scalar result: the register, what is pending, and the flags (R135, R162). -/
theorem vsdone_quiet {s : State} (h : VectorQuiet s) (srcs : List (BitVec 5)) (d : BitVec 5) (lat : Nat) (x : Dword) (fl : Flags) :
    ∃ p, vsdone srcs d lat x fl s = .next (ended s ({ s.me.wg d.toNat x with pend := p }.raise fl)) := by
  obtain ⟨p, hp⟩ : ∃ p, (s.wgLat d.toNat lat x).setMe ((s.wgLat d.toNat lat x).me.raise fl) = s.setMe ({ s.me.wg d.toNat x with pend := p }.raise fl) := by
    by_cases hd : d.toNat = 0
    · exact ⟨s.me.pend, by rw [State.wgLat, if_pos hd, Bank.wg, if_pos hd]⟩
    · refine ⟨((s.me.wg d.toNat x).await s.cycle (.g d.toNat) lat ((s.me.rg d.toNat).setWidth 1024) []).pend, ?_⟩
      rw [State.wgLat, if_neg hd, State.setMe_setMe, State.me_setMe]
      rfl
  refine ⟨p, ?_⟩
  unfold vsdone
  rw [srcPorts_unbound h.ports]
  refine congrArg _ ((congrArg State.retire hp).trans (retire_setMe h.toQuiet _ ?_ ?_ ?_ ?_)) <;>
    by_cases hd : d.toNat = 0 <;> simp [Bank.raise, Bank.wg, hd]

theorem active_iff (s : State) (m : BitVec 5) (i : Nat) : s.active m i = true ↔ m = 0 ∨ (s.rg m).getLsbD i = true := by
  rw [State.active, Bool.or_eq_true, beq_iff_eq]

theorem withFlags_quiet {l : List (Nat × Flags)} {s : State} (h : numericTrap s.me.numctl l = none) (f : Flags → State → Out) :
    withFlags l s f = f (orFlags l) s := by
  rw [withFlags, h]

/-- The active lanes of a source, as the leaves of the tree (R172, R197). -/
def reductionLeaves (s : State) (w : Nat) (a m : BitVec 5) : List (Option Nat) :=
  (List.range (s.vl / w)).map (fun i => if m = 0 ∨ (s.rg m).getLsbD i then some (src s a w i) else none)

theorem vreduce_quiet {s : State} (h : VectorQuiet s) (w : Nat) (d a m : BitVec 5) (e : Nat) (f : Ctl → Nat → Nat → Nat → Nat → Res)
    (hn : numericTrap s.me.numctl (tree (fun k lane x y => f s.ctl lane k x y) (ilog2 (s.vl / w)) 0 (reductionLeaves s w a m)).2 = none) :
    let r := tree (fun k lane x y => f s.ctl lane k x y) (ilog2 (s.vl / w)) 0 (reductionLeaves s w a m)
    ∃ p, vreduce w d a m e f s = .next (ended s ({ s.me.wg d.toNat (BitVec.ofNat 64 (r.1.getD e)) with pend := p }.raise (orFlags r.2))) := by
  have hl : (List.range (s.lanes w)).map (fun i => if s.active m i then some (laneOf (s.rv a) w i) else none) = reductionLeaves s w a m := by
    unfold reductionLeaves
    simp only [active_iff, rv_unbound h.ports]
    rfl
  unfold vreduce
  rw [vecGate_unbound h.ports]
  dsimp only
  rw [hl, State.lanes, withFlags_quiet hn]
  exact vsdone_quiet h _ _ _ _ _

/-- What an instruction of VRED does to the active lanes of its source. -/
theorem exec_reduction {s : State} {i : Instr} {w : Nat} {d a m : BitVec 5} {e : Nat} {f : Nat → Nat → Nat → Nat → Res}
    (h : reductionOf s i = some (w, d, a, m, e, f)) :
    ∃ g : Ctl → Nat → Nat → Nat → Nat → Res, exec i s = vreduce w d a m e g s ∧ f = fun k lane x y => g s.ctl lane k x y := by
  cases i with
  | vredsumF32 => cases h; exact ⟨fun c l k x y => fAdd fp32 c l k x y, rfl, rfl⟩
  | vredsumBf16 => cases h; exact ⟨fun c l k x y => fAdd bf16 c l k x y, rfl, rfl⟩
  | vredmaxF32 => cases h; exact ⟨fun c _ _ x y => fMinMax fp32 c true x y, rfl, rfl⟩
  | vredminF32 => cases h; exact ⟨fun c _ _ x y => fMinMax fp32 c false x y, rfl, rfl⟩
  | vredmaxBf16 => cases h; exact ⟨fun c _ _ x y => fMinMax bf16 c true x y, rfl, rfl⟩
  | _ => cases h

theorem foldl_add_if (p : Nat → Bool) (g : Nat → Int) (l : List Nat) (v : Int) :
    l.foldl (fun v i => if p i then v + g i else v) v = v + ((l.filter p).map g).sum := by
  induction l generalizing v with
  | nil => simp
  | cons i l ih => cases hp : p i <;> simp [hp, ih, add_assoc]

/-- VREDSUM.I32's value is exact (R204). -/
theorem exec_vredsumI32 {s : State} (h : VectorQuiet s) (d a m : BitVec 5) :
    ∃ p, exec (.vredsumI32 d a m) s = .next (ended s { s.me.wg d.toNat (BitVec.ofInt 64
      (((List.range (s.vl / 32)).filter (fun i => m = 0 ∨ (s.rg m).getLsbD i)).map (fun i => srcS s a 32 i)).sum) with pend := p }) := by
  have hsum : (List.range (s.lanes 32)).foldl (fun v i => if s.active m i then v + toS 32 (laneOf (s.rv a) 32 i) else v) (0 : Int) =
      (((List.range (s.vl / 32)).filter (fun i => m = 0 ∨ (s.rg m).getLsbD i)).map (fun i => srcS s a 32 i)).sum := by
    have hp : s.active m = fun i => decide (m = 0 ∨ (s.rg m).getLsbD i = true) := by
      funext i
      rw [Bool.eq_iff_iff, active_iff, decide_eq_true_eq]
    rw [foldl_add_if, zero_add, hp, rv_unbound h.ports]
    rfl
  obtain ⟨p, hp⟩ := vsdone_quiet h [a] d 10 (BitVec.ofInt 64
      (((List.range (s.vl / 32)).filter (fun i => m = 0 ∨ (s.rg m).getLsbD i)).map (fun i => srcS s a 32 i)).sum) 0
  refine ⟨p, ?_⟩
  rw [Bank.raise_zero] at hp
  rw [← hp, ← hsum]
  exact vecGate_unbound h.ports [a] none (fun s => vsdone [a] d 10 (BitVec.ofInt 64
    ((List.range (s.lanes 32)).foldl (fun v i => if s.active m i then v + toS 32 (laneOf (s.rv a) 32 i) else v) (0 : Int))) 0 s)

end Sys2Proof.Machine

/-- Settles O10. -/
theorem Sys2Proof.reductionsFollowTheFixedTree : Obligations.ReductionsFollowTheFixedTree := by
  refine ⟨?_, fun s d a m h => Machine.exec_vredsumI32 h d a m⟩
  intro s i w d a m e f h hi l r hn
  obtain ⟨g, hexec, rfl⟩ := Machine.exec_reduction hi
  rw [hexec]
  exact Machine.vreduce_quiet h w d a m e g hn

/-! ## A window that closes with its result

The only window of a thread without ports closes: its register is written, and the flags of its instruction are raised (R63, R64, R161). -/

namespace Sys2Proof.Machine

section
variable {s : State} {r : BankRef} (hp : (s.bank r).ports = [])
include hp

theorem bank_land_unbound (d : Dest) (x : Vec) : (s.land r d x).bank r = (s.bank r).put d x := by
  have h := congrArg (fun t => t.bank r) (land_unbound hp d x)
  simpa only [State.bank_setBank] using h

theorem setBank_land_unbound (d : Dest) (x : Vec) (b : Bank) : (s.land r d x).setBank r b = s.setBank r b := by
  have h := congrArg (fun t => t.setBank r b) (land_unbound hp d x)
  simpa only [State.setBank_setBank] using h

/-- What a window that closes does to its bank (R64). -/
def Bank.closing (b : Bank) (w : Window) (x : Vec) : Bank := { (b.put w.dest x).raise w.flags with wins := [] }

theorem closeDue_one {w : Window} {x : Vec} (hw : (s.bank r).wins = [w]) (hleft : w.left = 0) (hres : w.result = some x) (herr : w.err = none)
    (hback : w.back = false) (hfrees : w.frees = []) : s.closeDue r = s.setBank r ((s.bank r).closing w x) := by
  have hdue : w.due = true := by simp [Window.due, hleft, hres, herr, hback]
  have hself : (s.setBank r (s.bank r)).bank r = s.bank r := State.bank_setBank ..
  have hland : bring r [] [w] (s.setBank r (s.bank r)) = s.setBank r (((s.bank r).put w.dest x).raise w.flags) := by
    have hp' : ((s.setBank r (s.bank r)).bank r).ports = [] := by rw [hself]; exact hp
    simp only [bring, hdue, hres, hfrees, if_true, List.contains_nil, Bool.false_eq_true, if_false, Option.getD_some]
    rw [bank_land_unbound hp', setBank_land_unbound hp', hself, State.setBank_setBank]
  have hback : (s.setBank r (s.bank r)).writeBack r =
      s.setBank r { ((s.bank r).put w.dest x).raise w.flags with wins := [{ w with back := true }] } := by
    unfold State.writeBack
    rw [hself, hw]
    dsimp only
    rw [if_pos (by simp [hdue]), hland, State.setBank_setBank, State.bank_setBank, List.map_singleton, if_pos hdue]
  have hopen : ¬ ((s.bank r).wins.all (fun w => w.left != 0)) = true := by simp [hw, hleft]
  have hsound : (if (s.bank r).wins.any (fun w => w.left == 0 && w.err.isSome) then (s.bank r).endWindows else s.bank r) = s.bank r :=
    if_neg (by simp [hw, herr])
  unfold State.closeDue
  rw [if_neg hopen]
  dsimp only
  rw [hsound, hback, State.bank_setBank]
  dsimp only
  simp only [List.filter_singleton, hleft, hres, List.any_cons, List.any_nil, Option.isNone_some, Bool.or_false, Bool.false_eq_true, if_false, undo, herr, Option.isSome_none,
    List.filterMap_cons, List.filterMap_nil, BEq.rfl, bne_self_eq_false, State.setBank_setBank, cond_true]
  rfl

end

/-- A bank whose long-latency instruction, with LK = 0, has opened its window with a result and flags. -/
def Bank.flagged (b : Bank) (left : Nat) (d : Dest) (x : Vec) (fl : Flags) : Bank :=
  { b with wins := [⟨left, d, some x, none, fl, b.nextWin, false, []⟩], nextWin := b.nextWin + 1 }

theorem issued_openWindow_flagged {s : State} (h : Quiet s) (n : Nat) (x : Vec) (fl : Flags) :
    (s.openWindow 0 (.g n) (some x) none fl []).curRef = s.curRef ∧
      (s.openWindow 0 (.g n) (some x) none fl []).issued = s.unscoped.setMe (passed (s.me.flagged 0 (.g n) x fl) s.len) := by
  have hopen : s.openWindow 0 (.g n) (some x) none fl [] = s.setMe (s.me.flagged 1 (.g n) x fl) := by
    unfold State.openWindow Bank.flagged
    simp only [h.fresh, h.wins, List.nil_append, Bool.false_eq_true, if_false]
  have hstep : (s.me.flagged 1 (.g n) x fl).stepped s.len = passed (s.me.flagged 0 (.g n) x fl) s.len := Bank.stepped_fresh _ _ h.fresh h.frame
  have hi : (s.setMe (s.me.flagged 1 (.g n) x fl)).issued = ((s.unscoped.setMe (s.me.flagged 1 (.g n) x fl)).setMe
      ((s.setMe (s.me.flagged 1 (.g n) x fl)).me.stepped s.len)).leashReply (s.setMe (s.me.flagged 1 (.g n) x fl)).curRef := rfl
  rw [hopen, hi, State.me_setMe, hstep, State.curRef_setMe, State.setMe_setMe]
  exact ⟨rfl, noReply h _ rfl⟩

/-- A long-latency instruction of a quiet thread with LK = 0, whose register is written and whose flags are raised at its end (R63, R161). -/
theorem finishLong_raised {s : State} (h : Quiet s) (hp : s.me.ports = []) (n : Nat) (x : Vec) (fl : Flags) :
    s.finishLong 0 (.g n) (some x) none fl [] = ended s ({ s.me.wg n (x.setWidth 64) with nextWin := s.me.nextWin + 1 }.raise fl) := by
  obtain ⟨hcur, hissued⟩ := issued_openWindow_flagged h n x fl
  have hb : (s.unscoped.setMe (passed (s.me.flagged 0 (.g n) x fl) s.len)).bank s.curRef = passed (s.me.flagged 0 (.g n) x fl) s.len :=
    State.bank_setMe s.unscoped _
  rw [State.finishLong, State.retire, hissued, hcur, State.settle,
    closeDue_one (x := x) (by rw [hb]; exact hp) (by rw [hb]; rfl) rfl rfl rfl rfl rfl, hb]
  refine (State.setBank_setBank ..).trans (congrArg (s.unscoped.setBank s.curRef) ?_)
  by_cases hn : n = 0 <;> simp [Bank.closing, Bank.put, Bank.wg, Bank.flagged, Bank.raise, passed, hn, h.wins]

end Sys2Proof.Machine

/-! ## Memory-side reductions

A reduction of a calm thread joins its core's path as it issues; one whose turn has come reads, combines and writes its target in one action, or joins a
wide accumulator; and WACRD and WACCLR are plain accesses (R173, R174, R345 to R350). -/

namespace Sys2Proof.Machine

/-! ### What a reduction leaves in its target (R345, R347) -/

theorem ofNat_toNat (x : Dword) : BitVec.ofNat 64 x.toNat = x := by simp

theorem redWord_intOp {minor : Nat} (h2 : 2 ≤ minor) (h8 : minor ≤ 8) (m v : Dword) : redWord minor m.toNat v = (intOp (minor - 1) m v).toNat := by
  interval_cases minor <;> exact congrArg (fun x => (intOp _ x v).toNat) (ofNat_toNat _)

theorem redWord_add64 (m v : Dword) : redWord 0 m.toNat v = (m.toNat + v.toNat) % 2 ^ 64 := by
  exact (congrArg (fun x => (intOp 0 x v).toNat) (ofNat_toNat m)).trans (BitVec.toNat_add m v)

theorem ofInt_toInt_toNat (x : Dword) : (BitVec.ofInt 64 x.toInt).toNat = x.toNat := by rw [BitVec.ofInt_toInt]

theorem intOp_min (m v : Dword) : (intOp 1 m v).toNat = (BitVec.ofInt 64 (min m.toInt v.toInt)).toNat := by
  rw [min_def, apply_ite (BitVec.ofInt 64), apply_ite BitVec.toNat, ofInt_toInt_toNat, ofInt_toInt_toNat]
  exact apply_ite BitVec.toNat ..

theorem intOp_max (m v : Dword) : (intOp 2 m v).toNat = (BitVec.ofInt 64 (max m.toInt v.toInt)).toNat := by
  rw [max_def, apply_ite (BitVec.ofInt 64), apply_ite BitVec.toNat, ofInt_toInt_toNat, ofInt_toInt_toNat]
  exact apply_ite BitVec.toNat ..

theorem intOp_minu (m v : Dword) : (intOp 3 m v).toNat = min m.toNat v.toNat := by
  rw [min_def]
  exact apply_ite BitVec.toNat ..

theorem intOp_maxu (m v : Dword) : (intOp 4 m v).toNat = max m.toNat v.toNat := by
  rw [max_def]
  exact apply_ite BitVec.toNat ..

/-! ### Which reduction an instruction issues (R345) -/

/-- An instruction issues the reduction of this minor: where its operands stand, how much of the target it acts on, and what it leaves there. -/
structure IssuesReduction (s : State) (i : Instr) (f : RedForm) (minor : Nat) : Prop where
  exec : ∃ rel a b, exec i s = redIssue minor rel f.acq f.scope a b s ∧ f.va = s.rg a ∧ f.val = s.rg b
  bytes : redSize minor = f.bytes
  float : 9 ≤ minor → f.float = true
  word : ∀ m v : Dword, m.toNat < 2 ^ (8 * f.bytes) → redWord minor m.toNat v = f.f m v

theorem issuesReduction_of_redForm {s : State} {i : Instr} {f : RedForm} (h : redForm s i = some f) : ∃ minor, IssuesReduction s i f minor := by
  have none_float {n : Nat} (hn : n < 9) (b : Bool) : 9 ≤ n → b = true := fun h9 => absurd hn (Nat.not_lt.2 h9)
  cases i with
  | redAdd64 rel a b sc q =>
    cases h
    exact ⟨0, ⟨rel, a, b, rfl, rfl, rfl⟩, rfl, none_float (by decide) _, fun m v _ => redWord_add64 m v⟩
  | redAdd32 rel a b sc q =>
    cases h
    exact ⟨1, ⟨rel, a, b, rfl, rfl, rfl⟩, rfl, none_float (by decide) _, fun _ _ _ => rfl⟩
  | redMin64 rel a b sc q =>
    cases h
    exact ⟨2, ⟨rel, a, b, rfl, rfl, rfl⟩, rfl, none_float (by decide) _, fun m v _ => (redWord_intOp (by decide) (by decide) m v).trans (intOp_min m v)⟩
  | redMax64 rel a b sc q =>
    cases h
    exact ⟨3, ⟨rel, a, b, rfl, rfl, rfl⟩, rfl, none_float (by decide) _, fun m v _ => (redWord_intOp (by decide) (by decide) m v).trans (intOp_max m v)⟩
  | redMinu64 rel a b sc q =>
    cases h
    exact ⟨4, ⟨rel, a, b, rfl, rfl, rfl⟩, rfl, none_float (by decide) _, fun m v _ => (redWord_intOp (by decide) (by decide) m v).trans (intOp_minu m v)⟩
  | redMaxu64 rel a b sc q =>
    cases h
    exact ⟨5, ⟨rel, a, b, rfl, rfl, rfl⟩, rfl, none_float (by decide) _, fun m v _ => (redWord_intOp (by decide) (by decide) m v).trans (intOp_maxu m v)⟩
  | redAnd64 rel a b sc q =>
    cases h
    exact ⟨6, ⟨rel, a, b, rfl, rfl, rfl⟩, rfl, none_float (by decide) _, fun m v _ => redWord_intOp (by decide) (by decide) m v⟩
  | redOr64 rel a b sc q =>
    cases h
    exact ⟨7, ⟨rel, a, b, rfl, rfl, rfl⟩, rfl, none_float (by decide) _, fun m v _ => redWord_intOp (by decide) (by decide) m v⟩
  | redXor64 rel a b sc q =>
    cases h
    exact ⟨8, ⟨rel, a, b, rfl, rfl, rfl⟩, rfl, none_float (by decide) _, fun m v _ => redWord_intOp (by decide) (by decide) m v⟩
  | redfAddF32 rel a b sc q =>
    cases h
    refine ⟨9, ⟨rel, a, b, rfl, rfl, rfl⟩, rfl, fun _ => rfl, fun m v hm => ?_⟩
    exact congrArg (fun k => (fAdd fp32 redCtl 0 0 k _).1) (Nat.mod_eq_of_lt hm).symm
  | redfAddBf16 rel a b sc q =>
    cases h
    refine ⟨10, ⟨rel, a, b, rfl, rfl, rfl⟩, rfl, fun _ => rfl, fun m v hm => ?_⟩
    exact congrArg (fun k => (fAdd bf16 redCtl 0 0 k _).1) (Nat.mod_eq_of_lt hm).symm
  | _ => cases h

/-! ### The issue (R346) -/

/-- The reduction that a thread issues. -/
def State.reductionOf (s : State) (minor : Nat) (acq : BitVec 1) (scope : BitVec 3) (va val : Dword) : Reduction :=
  { id := s.fresh, va := va, val := val, minor := minor, det := s.me.numctl.getLsbD 6, acq := acq = 1, scope := scope.toNat, owner := s.curRef,
    thread := s.me.thread, task := s.me.task, pc := s.me.pc, parked := false }

section
variable {s : State} (h : Calm s)
include h

theorem redOverlap_calm {x : Reduction} (hx : x.owner = s.curRef) : s.redOverlap x = s := by
  have hd (ps : List Part) : s.drainOverlap x.owner ps = s := by rw [hx]; exact drainOverlap_none (r := s.curRef) h.rlx ps
  unfold State.redOverlap
  split
  · exact hd _
  · rfl

theorem releaseGate_calm (rel : Bool) (scope : BitVec 3) (f : State → Out) : releaseGate rel scope s f = f s := by
  have hgate : rlxGate s f = f s := if_neg (by rw [h.rlx]; exact Bool.false_ne_true)
  rw [releaseGate, hgate]
  exact ite_self _

variable {minor : Nat} {rel acq : BitVec 1} {scope : BitVec 3} {a b : BitVec 5}
  (hmbm : ∀ off, region (s.rg a).toNat ≠ .mbm off) (hmap : s.checkMap s.req (s.rg a).toNat (redSize minor) 1 = none)
  (hdet : 9 ≤ minor → s.me.numctl.getLsbD 6 = true → isTrans (s.rg a).toNat = true)
include hmbm hmap hdet

/-- The checks of a reduction pass: it waits for an entry of the path, or joins it. -/
theorem redIssue_calm : redIssue minor rel acq scope a b s =
    if 64 ≤ (s.tile s.cur.1).reds.length then .next (s.hold .redFull)
    else .next (ended { s.setTile s.cur.1 { s.tile s.cur.1 with
      reds := (s.tile s.cur.1).reds ++ [s.reductionOf minor acq scope (s.rg a) (s.rg b)] } with fresh := s.fresh + 1 } s.me) := by
  have hfloat : ¬ (9 ≤ minor ∧ s.me.numctl.getLsbD 6 = true ∧ ¬ isTrans (s.rg a).toNat = true) := fun ⟨h9, hd, ht⟩ => ht (hdet h9 hd)
  have hdrain : (if rel = 1 then s.drain s.curRef scope.toNat else s) = s := by rw [drain_calm h]; exact ite_self _
  unfold redIssue
  refine (if_neg ?_).trans ?_
  · split
    next off he => exact absurd he (hmbm off)
    next => exact Bool.false_ne_true
  rw [gate, if_neg (by rw [h.acq]; exact Bool.false_ne_true), hmap]
  rw [if_neg hfloat, releaseGate_calm h]
  dsimp only
  rw [hdrain, redOverlap_calm h rfl]
  congr 2
  refine retire_quiet ⟨h.wins, h.frame, h.fresh, fun hk => ?_⟩
  have hr := h.reply hk
  change (State.tile (s.setTile s.cur.1 _) s.cur.1).seize.first = true
  rwa [State.tile_setTile]

end

theorem reductionsIssue : ReductionsIssue := by
  intro s i f h hf hmap hmbm hdet
  obtain ⟨minor, ⟨rel, a, b, hexec, hva, hval⟩, hbytes, hfloat, hword⟩ := issuesReduction_of_redForm hf
  have hissue := redIssue_calm (minor := minor) (rel := rel) (acq := f.acq) (scope := f.scope) (a := a) (b := b) h (hva ▸ hmbm)
    (by rw [hbytes, ← hva]; exact hmap) (fun h9 hd => hva ▸ hdet (hfloat h9) hd)
  rw [hexec, hissue, ← hva, ← hval]
  constructor
  · intro hroom
    exact ⟨s.reductionOf minor f.acq f.scope f.va f.val, rfl, rfl, rfl, rfl, rfl, rfl, rfl, rfl, rfl, hbytes, hword, if_neg (Nat.not_le.2 hroom)⟩
  · intro hfull
    have hme : (s.hold .redFull).me =
        { s.me with wait := some .redFull, waitPc := s.me.pc, waitSince := s.boot.dtb, waitLogged := false } := State.me_setMe ..
    exact ⟨s.hold .redFull, if_pos hfull, by rw [hme], by rw [hme], rfl⟩

/-! ### The action at the target (R345, R346, R349) -/

/-- The device after a reduction has left the path: nothing but its core's path has changed. -/
def State.withoutRed (s : State) (tile : Nat) (x : Reduction) : State :=
  s.setTile tile { s.tile tile with reds := (s.tile tile).reds.filter (fun y => y.id != x.id) }

theorem endRed_of_no_wait {s : State} {x : Reduction} (h : (s.bank x.owner).wait = none) (tile : Nat) : s.endRed tile x = s.withoutRed tile x := by
  change (s.withoutRed tile x).wacDone x.owner = _
  have hw : ((s.withoutRed tile x).bank x.owner).wait = none := h
  rw [State.wacDone, hw]

/-- An accumulator that is bound to the address takes the addend (R173, R349). -/
theorem addWide_bound {s : State} {x : Reduction} {pa : Nat} {w : WideAcc} (h : (s.bank x.owner).wait = none)
    (hw : s.wacc? (s.engineReq x.owner x.task).tenant pa = some w) (tile : Nat) :
    s.addWide tile x pa = (s.withoutRed tile x).setWacc
      (w.add (if x.minor = 9 then fp32.read false (x.val.toNat % 2 ^ 32) else bf16.read false (x.val.toNat % 2 ^ 16))) := by
  rw [State.addWide, hw]
  exact endRed_of_no_wait (s := s.setWacc _) h tile

section
variable {s u : State} {ix tile loc : Nat} {x : Reduction} {k : Task} (hix : s.allReds[ix]? = some (tile, x)) (hk : s.task? x.task = some k)
  (hkill : k.killing = false) (hpark : x.parked = false) (hbehind : s.redBehind tile x = false) (hcheck : s.redCheck x = (u, .ok (.mem loc)))
  (hdram : isTrans x.va.toNat = true → isDramLoc loc = true)
include hix hk hkill hpark hbehind hcheck hdram

/-- A reduction whose turn has come acts at once: one that a deterministic launch keeps for an accumulator joins it, and every other one reads, combines
and writes. -/
theorem reductionPerform_acts (hu : Intact u) (hrings : ∀ t, (u.tile t).trctl.getLsbD 0 = false) :
    exec (.reductionPerform ix) s = .next (if 9 ≤ x.minor ∧ x.det = true then u.addWide tile x loc
      else (u.store loc (redSize x.minor) (redWord x.minor (u.load loc (redSize x.minor)) x.val)).endRed tile x) := by
  have hlive : ((s.task? x.task).map (·.killing)).getD true = false := by rw [hk]; exact hkill
  have hfree : ¬ (x.parked = true ∨ s.redBehind tile x = true) := by simp [hpark, hbehind]
  have hhost : ¬ (isTrans x.va.toNat && !isDramLoc (Target.mem loc).loc) = true := fun h => by
    obtain ⟨ht, hl⟩ := Bool.and_eq_true_iff.1 h
    exact Bool.noConfusion (hl.symm.trans (congrArg not (hdram ht)))
  have hsound : ¬ u.poisoned (Target.mem loc).loc (redSize x.minor) = true := by rw [State.poisoned_of_intact hu]; exact Bool.false_ne_true
  change execReductionPerform ix s = _
  unfold execReductionPerform
  rw [hix]
  dsimp only
  rw [hlive, if_neg Bool.false_ne_true, if_neg hfree, hcheck]
  dsimp only
  rw [if_neg hhost, State.meet_of_intact hu, if_neg Bool.false_ne_true, if_neg hsound,
    State.traceAt_of_off (s := u.writeTarget (.mem loc) _ _) _ _ _ _ _ _ _ _ hrings]
  exact (apply_ite Host.Outcome.next ..).symm

end

theorem natBytes_mod {n m : Nat} (h : n ≤ m) (x : Nat) : natBytes n (x % 256 ^ m) = natBytes n x := by
  induction n generalizing m x with
  | zero => rfl
  | succ n ih =>
    obtain ⟨m, rfl⟩ := Nat.exists_eq_add_of_le' (Nat.zero_lt_of_lt h)
    have hlow : BitVec.ofNat 8 (x % 256 ^ (m + 1)) = BitVec.ofNat 8 x :=
      BitVec.eq_of_toNat_eq (by
        rw [BitVec.toNat_ofNat, BitVec.toNat_ofNat, Nat.pow_succ']
        exact Nat.mod_mul_right_mod x 256 (256 ^ m))
    rw [natBytes, natBytes, hlow, Nat.pow_succ', Nat.mod_mul_right_div_self, ih (by omega)]

/-- Of a number, a write of at most 8 bytes takes what a doubleword holds. -/
theorem store_ofNat (s : State) (loc : Nat) {n : Nat} (hn : n ≤ 8) (v : Nat) : s.store loc n (BitVec.ofNat 64 v).toNat = s.store loc n v := by
  have h : (BitVec.ofNat 64 v).toNat = v % 256 ^ 8 := BitVec.toNat_ofNat v 64
  rw [State.store, State.store, h, natBytes_mod hn]

theorem redSize_le (minor : Nat) : redSize minor ≤ 8 := by
  unfold redSize
  split_ifs <;> decide

theorem reductionsPerform : ReductionsPerform := by
  intro s ix tile x k u loc hwf hix hk hkill hpark hbehind hwait hcheck hs hdram hrings gone
  obtain ⟨tlb, hu⟩ : ∃ tlb, u = { s with tlb := tlb } := by
    have h := State.check_ok hs (q := s.engineReq x.owner x.task) (va := x.va.toNat) (n := redSize x.minor) (kind := 1) (t := .mem loc)
      (congrArg Prod.snd hcheck)
    rwa [show s.check _ _ _ _ = _ from hcheck] at h
  have hui : Intact u := by subst hu; exact hs
  have hacts := reductionPerform_acts hix hk hkill hpark hbehind hcheck hdram hui (by subst hu; exact hrings)
  rw [hacts]
  constructor
  · intro hplain
    have hstored := State.stored_store hwf loc (redSize x.minor) (BitVec.ofNat 64 (redWord x.minor (s.load loc (redSize x.minor)) x.val))
    rw [store_ofNat s loc (redSize_le x.minor)] at hstored
    refine ⟨_, hstored, ?_⟩
    rw [if_neg hplain, State.store_of_intact hui, endRed_of_no_wait (by subst hu; exact hwait)]
    subst hu
    rfl
  · intro w h9 hdet hw
    rw [if_pos ⟨h9, hdet⟩, addWide_bound (by subst hu; exact hwait) (by subst hu; exact hw)]
    rfl

/-! ### WACRD and WACCLR (R350) -/

section
variable {s u : State} (h : Calm s) {va : Dword} {kind loc : Nat} (hr : Reachable s va 2 kind u loc)
include h hr

/-- What a calm thread's access reaches leaves it calm, and its banks and accumulators as they were. -/
theorem reachable_calm : Calm u ∧ u.me = s.me ∧ u.curRef = s.curRef ∧ u.wacc = s.wacc := by
  obtain ⟨tlb, hu⟩ := State.check_ok h.intact (congrArg Prod.snd hr.1)
  rw [hr.1] at hu
  dsimp only at hu
  subst hu
  exact ⟨Cached.calm ⟨_, _, rfl⟩ h, rfl, rfl, rfl⟩

end

/-- Behind its checks and with no reduction of the thread before it, WACRD or WACCLR acts as it issues. -/
theorem wacAt_acts {s u : State} {minor loc : Nat} {d a : BitVec 5} (h : Calm s) (htrans : isTrans (s.rg a).toNat = true) (hdram : isDramLoc loc = true)
    (hfree : u.wacHeld s.curRef loc = false) (hr : Reachable s (s.rg a) 2 (if minor = 12 then 1 else 0) u loc) (k : BitVec 4) :
    let q := u.wacAct s.curRef minor loc
    wacAt minor d a k s = .next (q.1.finishLong k.toNat (if minor = 12 then .none else .g d.toNat) (some (q.2.1.setWidth 1024)) q.2.2.1 q.2.2.2) := by
  obtain ⟨-, -, hcur, -⟩ := reachable_calm h hr
  have hplace : ¬ ¬ (isTrans (s.rg a).toNat = true ∧ isDramLoc (Target.mem loc).loc = true) := not_not.2 ⟨htrans, hdram⟩
  have hnone : ¬ u.wacHeld s.curRef (Target.mem loc).loc = true := fun ht => Bool.noConfusion (hfree.symm.trans ht)
  unfold wacAt
  dsimp only
  rw [gate, if_neg (by rw [h.acq]; exact Bool.false_ne_true), access_of_check hr.1]
  simp only [Bool.and_eq_true]
  rw [if_neg hplace, hcur, if_neg hnone]
  rfl

theorem wacAct_unbound {s : State} {r : BankRef} {pa : Nat} (h : s.wacc? (s.bank r).tenant pa = none) : s.wacAct r 11 pa = (s, 0, none, 0) := by
  rw [State.wacAct, if_neg (by decide), h]

theorem wacAct_bound {s : State} {r : BankRef} {pa : Nat} {w : WideAcc} (h : s.wacc? (s.bank r).tenant pa = some w)
    (hquiet : numericTrap (s.bank r).numctl [(0, (w.read (ctlOf (s.bank r).numctl)).2)] = none) :
    s.wacAct r 11 pa = (s, BitVec.ofNat 64 (w.read (ctlOf (s.bank r).numctl)).1, none, (w.read (ctlOf (s.bank r).numctl)).2) := by
  rw [State.wacAct, if_neg (by decide), h]
  dsimp only
  rw [hquiet]
  rfl

theorem wideAccumulatorsRead : WideAccumulatorsRead := by
  intro s u d a k loc h htrans hdram hfree
  have h0 : (0 : Dword).setWidth 1024 = (0 : Vec) := BitVec.setWidth_zero ..
  refine ⟨fun hr hnone => ?_, fun w hr hw hquiet => ?_, fun hr => ?_⟩
  · obtain ⟨hu, hme, hcur, hwacc⟩ := reachable_calm h hr
    have hact : u.wacAct s.curRef 11 loc = (u, 0, none, 0) := by
      refine wacAct_unbound ?_
      rw [← hcur, State.bank_curRef, hme, State.wacc?, hwacc]
      exact hnone
    refine (wacAt_acts h htrans hdram hfree (minor := 11) hr k).trans ?_
    rw [hact]
    dsimp only
    rw [h0]
    exact congrArg _ (finishLong_landed hu.toQuiet hu.ports _ _ _)
  · obtain ⟨hu, hme, hcur, hwacc⟩ := reachable_calm h hr
    have hbank : u.bank s.curRef = s.me := by rw [← hcur]; exact hme
    have hact := wacAct_bound (s := u) (r := s.curRef) (pa := loc) (w := w) (by rw [hbank, State.wacc?, hwacc]; exact hw) (by rw [hbank]; exact hquiet)
    refine (wacAt_acts h htrans hdram hfree (minor := 11) hr 0).trans ?_
    rw [hact, hbank]
    refine congrArg _ ((finishLong_raised hu.toQuiet hu.ports _ _ _).trans ?_)
    have hx (y : Dword) : (y.setWidth 1024).setWidth 64 = y := by
      rw [BitVec.setWidth_setWidth_of_le _ (by decide), BitVec.setWidth_eq]
    rw [hme, hx]
    rfl
  · obtain ⟨hu, hme, hcur, hwacc⟩ := reachable_calm h hr
    refine (wacAt_acts h htrans hdram hfree (minor := 12) (d := 0) hr 0).trans ?_
    have hact : u.wacAct s.curRef 12 loc =
        ({ u with wacc := s.wacc.filter (fun w => !(w.tenant == s.me.tenant && w.pa == loc)) }, 0, none, 0) := by
      rw [State.wacAct, if_pos rfl, ← hcur, State.bank_curRef, hme, hwacc]
    rw [hact]
    dsimp only
    rw [h0]
    have hland := finishLong_landed (s := { u with wacc := s.wacc.filter (fun w => !(w.tenant == s.me.tenant && w.pa == loc)) })
      ⟨hu.wins, hu.frame, hu.fresh, hu.reply⟩ hu.ports 0 .none 0
    rw [if_pos rfl, show (0 : BitVec 4).toNat = 0 from rfl, hland]

end Sys2Proof.Machine

/-- Settles O23. A calm thread's reduction passes every gate into its core's path; one whose turn has come meets intact memory or its accumulator; and a
check changes the TLBs alone, so that WACRD and WACCLR end as plain accesses. -/
theorem Sys2Proof.reductionsCombineInOneAction : Obligations.ReductionsCombineInOneAction :=
  ⟨Machine.reductionsIssue, Machine.reductionsPerform, Machine.wideAccumulatorsRead⟩

/-! ## The commands of the matrix unit

A command enters a queue, starts behind those before it, runs and leaves; a forwarded one is answered (R158, R222 to R239). -/

namespace Sys2Proof.Machine

/-! ### Lists searched by a test -/

theorem findIx_append {α : Type} {p : α → Bool} {pre : List α} (h : ∀ x ∈ pre, p x = false) (l : List α) (n : Nat) :
    findIx p (pre ++ l) n = findIx p l (n + pre.length) := by
  induction pre generalizing n with
  | nil => rfl
  | cons x pre ih =>
    obtain ⟨hx, hpre⟩ := List.forall_mem_cons.mp h
    rw [List.cons_append, findIx, hx, if_neg Bool.false_ne_true, ih hpre, List.length_cons]
    congr 1
    omega

theorem findIx_head {α : Type} {p : α → Bool} {c : α} (h : p c = true) (l : List α) (n : Nat) : findIx p (c :: l) n = some (n, c) := if_pos h

/-- A list of at most one element: only the number k of a range has a value. -/
theorem filterMap_range_single {α : Type} {f : Nat → Option α} {k n : Nat} (hk : k < n) (h : ∀ j < n, j ≠ k → f j = none) :
    (List.range n).filterMap f = (f k).toList := by
  induction n with
  | zero => omega
  | succ n ih =>
    rw [List.range_succ, List.filterMap_append, show List.filterMap f [n] = (f n).toList by cases h : f n <;> simp [h]]
    by_cases e : k = n
    · subst e
      have hnone : (List.range k).filterMap f = [] :=
        List.filterMap_eq_nil_iff.mpr fun j hj => h j (by have := List.mem_range.mp hj; omega) (by have := List.mem_range.mp hj; omega)
      rw [hnone, List.nil_append]
    · rw [ih (by omega) fun j hj hne => h j (by omega) hne, h n (by omega) (Ne.symm e), Option.toList_none, List.append_nil]

/-! ### A thread that goes on -/

section
variable {s : State} {r : BankRef} (h : (s.bank r).wins = [])
include h

/-- No window holds the register of a thread without windows. -/
theorem wake_unheld (d : Dest) (x : Vec) : s.wake r d x = ((s.unpark r).land r d x).settle r := by
  unfold State.wake
  dsimp only
  rw [if_neg (by simp [h])]

/-- Such a thread that waits for nothing more has only its wait taken (R141, R142). -/
theorem wake_none : s.wake r .none 0 = s.unpark r := by
  have hu : ((s.unpark r).bank r).wins = [] := by rw [State.unpark, State.bank_setBank]; exact h
  rw [wake_unheld h]
  exact closeDue_none hu

/-- One that waits for a register has it written too (R142). -/
theorem wake_g (n : Nat) (x : Vec) : s.wake r (.g n) x =
    s.setBank r ({ s.bank r with wait := none, readyAt := max (s.bank r).readyAt (s.cycle + 1) }.wg n (x.setWidth 64)) := by
  rw [wake_unheld h, State.settle, State.land, State.unpark, State.bank_setBank, State.setBank_setBank]
  refine closeDue_none ?_
  rw [State.bank_setBank]
  by_cases hn : n = 0 <;> simp [Bank.wg, hn, h]

theorem wake_g_wait (n : Nat) (x : Vec) : ((s.wake r (.g n) x).bank r).wait = none := by
  rw [wake_g h, State.bank_setBank]
  by_cases hn : n = 0 <;> simp [Bank.wg, hn]

theorem wake_g_regs (n : Nat) (x : Vec) : ((s.wake r (.g n) x).bank r).g = ((s.bank r).wg n (x.setWidth 64)).g := by
  rw [wake_g h, State.bank_setBank]
  by_cases hn : n = 0 <;> simp [Bank.wg, hn]

end

/-! ### Entry (R222) -/

/-- The only thread of a tile that waits for an entry of a queue. -/
theorem mxWaiters_single {s : State} {tile ix : Nat} {c : MxCmd} (hix : ix < 16) (hw : (s.bank ⟨tile, ix / 2, ix % 2⟩).wait = some (.mxFull c))
    (hother : ∀ j < 16, j ≠ ix → ∀ e, (s.bank ⟨tile, j / 2, j % 2⟩).wait ≠ some (.mxFull e)) (leash : Bool) :
    s.mxWaiters tile leash = if ((s.bank ⟨tile, ix / 2, ix % 2⟩).kind == 2) = leash then [(⟨tile, ix / 2, ix % 2⟩, c)] else [] := by
  unfold State.mxWaiters
  rw [filterMap_range_single hix]
  · dsimp only
    rw [hw]
    dsimp only
    by_cases h : ((s.bank ⟨tile, ix / 2, ix % 2⟩).kind == 2) = leash
    · rw [if_pos h, if_pos (by simp [h])]; rfl
    · rw [if_neg h, if_neg (by simpa using h)]; rfl
  · intro j hj hne
    dsimp only
    split
    · next e he => exact absurd he (hother j hj hne e)
    · rfl

theorem commandEntry {s : State} {tile ix : Nat} {c : MxCmd} (hix : ix < 16) (hw : (s.bank ⟨tile, ix / 2, ix % 2⟩).wait = some (.mxFull c))
    (hother : ∀ j < 16, j ≠ ix → ∀ e, (s.bank ⟨tile, j / 2, j % 2⟩).wait ≠ some (.mxFull e))
    (hroom : (s.tile tile).mx.room ((s.bank ⟨tile, ix / 2, ix % 2⟩).kind == 2) = true) (hwins : (s.bank ⟨tile, ix / 2, ix % 2⟩).wins = []) :
    execMatrixCommandEntry tile s = .next (({ s with fresh := s.fresh + 1 }.setTile tile { s.tile tile with
      mx := (s.tile tile).mx.push ((s.bank ⟨tile, ix / 2, ix % 2⟩).kind == 2) { c with id := s.fresh } }).unpark ⟨tile, ix / 2, ix % 2⟩) := by
  have hcands : (if (s.tile tile).mx.room false then s.mxWaiters tile false else []) ++ (if (s.tile tile).mx.room true then s.mxWaiters tile true else []) =
      [(⟨tile, ix / 2, ix % 2⟩, c)] := by
    rw [mxWaiters_single hix hw hother, mxWaiters_single hix hw hother]
    cases h : ((s.bank ⟨tile, ix / 2, ix % 2⟩).kind == 2) <;> rw [h] at hroom <;> simp [hroom]
  unfold execMatrixCommandEntry
  dsimp only
  rw [hcands]
  exact congrArg Host.Outcome.next (wake_none hwins)

/-! ### Start (R222 to R224) -/

/-- What the model tests of the commands before one is that it may start behind them. -/
theorem startsAfter_iff {s : State} {tile : Nat} {leash : Bool} {pre : List MxCmd} {c : MxCmd} :
    startsAfter s.cycle tile leash pre c = true ↔ MayStart s tile leash pre c := by
  have hstep : (((((c.readDone = true ∧ ∀ x ∈ pre, ¬x.minor = 1) ∧ ∀ x ∈ pre, ¬x.minor = 8) ∧
      ∀ x ∈ pre, x.isStep = true → x.rows.length = x.n ∧ x.after tile ≤ s.cycle) ∧ (leash = false ∨ ∀ x ∈ pre, x.isLoad = false)) ∧
      ∀ x ∈ pre, x.usesBank = true → x.isStep = false → ¬x.bank = c.bank) ↔
      c.readDone = true ∧ ∀ x ∈ pre, ¬x.minor = 1 ∧ ¬x.minor = 8 ∧ (x.isStep = true → x.rows.length = x.n ∧ x.after tile ≤ s.cycle) ∧
        (x.isStep = false → x.usesBank = true → ¬x.bank = c.bank) ∧ (leash = true → x.isLoad = false) := by
    grind
  unfold startsAfter MayStart
  dsimp only
  split
  case h_5 => simpa using hstep
  case h_6 => simpa using hstep
  case h_7 => simp only [Bool.and_eq_true, Bool.not_eq_true', List.any_eq_false]; simp; grind
  all_goals simp

/-- A set whose conditions of start stand does not stand still (R213, R240). -/
theorem mxHalts_false {s : State} {tile : Nat} {leash : Bool}
    (h : if leash then (s.tile tile).seize.st = 3 ∧ (∃ k, s.task? (s.tile tile).seize.task = some k ∧ k.killing = false) ∧
        ∀ x ∈ (s.tile tile).mx.tq, x.inArray = false
      else (s.tile tile).mx.frozen = false ∧ (s.tile tile).mx.clearing = false ∧ (∀ x ∈ (s.tile tile).mx.lq, x.inArray = false) ∧
        ∀ k, (s.tile tile).mx.owner = some k → s.resident k = true ∧ ∃ x, s.task? k = some x ∧ x.killing = false ∧ x.saving = false) :
    s.mxHalts tile leash = false ∧ ¬ (leash = true ∧ (s.tile tile).mx.tq.any (·.inArray) = true) := by
  unfold State.mxHalts
  cases leash
  · obtain ⟨hfrozen, hclear, hlq, howner⟩ := h
    refine ⟨?_, by simp⟩
    have hany : (s.tile tile).mx.lq.any (·.inArray) = false := by simpa using hlq
    simp only [Bool.false_eq_true, if_false, hfrozen, hclear, hany, Bool.or_false, Bool.false_or]
    split
    · next k ho =>
      obtain ⟨hres, x, hx, hkill, hsave⟩ := howner k ho
      simp [hres, hx, hkill, hsave]
    · rfl
  · obtain ⟨hst, ⟨k, hk, hkill⟩, htq⟩ := h
    exact ⟨by simp [hst, hk, hkill], by simpa using htq⟩

section
variable {s : State} {tile : Nat} {leash : Bool} {pre post : List MxCmd} {c : MxCmd} (hq : (s.tile tile).mx.queue leash = pre ++ c :: post)
  (hpre : ∀ x ∈ pre, x.started.isSome = true) (hc : c.started = none)
include hq hpre hc

theorem findIx_notStarted : findIx (fun (c : MxCmd) => c.started.isNone) ((s.tile tile).mx.queue leash) 0 = some (pre.length, c) := by
  rw [hq, findIx_append (fun x hx => by simpa using hpre x hx), findIx_head (by simp [hc]), Nat.zero_add]

/-- The first command of a queue that has not started waits while those before it do not let it start. -/
theorem commandStart_waits (h : ¬ MayStart s tile leash pre c) : execMatrixCommandStart tile leash s = .next s := by
  unfold execMatrixCommandStart
  dsimp only
  rw [findIx_notStarted hq hpre hc]
  dsimp only
  rw [hq, List.take_left, if_pos]
  exact .inr (.inr (.inr (.inr (.inl (mt startsAfter_iff.mp h)))))

/-- It starts once nothing holds it. -/
theorem commandStart_starts (h : MayStart s tile leash pre c) (hi : Intact s) (he : startError s tile leash c = none)
    (hheld : s.heldBack tile c = false) (hrlx : (s.bank c.owner).rlx = []) (hkill : ∀ x, s.task? c.sender = some x → x.killing = false)
    (hrun : s.mxHalts tile leash = false ∧ ¬ (leash = true ∧ (s.tile tile).mx.tq.any (·.inArray) = true)) :
    execMatrixCommandStart tile leash s =
      .next (s.setTile tile { s.tile tile with mx := (s.tile tile).mx.setCmd (s.startCmd tile c) }) := by
  have hsender : ¬ (s.task? c.sender).any (·.killing) = true := by
    cases ht : s.task? c.sender with
    | none => simp
    | some x => simp [hkill x ht]
  unfold execMatrixCommandStart
  dsimp only
  rw [findIx_notStarted hq hpre hc]
  dsimp only
  rw [hq, List.take_left, if_neg, State.meetAll_of_intact hi, he]
  simp only [hrun.1, hsender, hrun.2, hrlx, List.any_nil, Bool.and_false, startsAfter_iff, h, hheld, Bool.false_eq_true, not_true, or_self, not_false_iff]

end

/-! ### Clearing (R213) -/

theorem clearComplete {s : State} {tile : Nat} (h : (s.tile tile).mx.clearing = true) : execMatrixClearComplete tile s =
    .next (s.setTile tile { s.tile tile with mx := { (s.tile tile).mx with
      active := {}, shadow := {}, acc0 := [], acc1 := [], owner := none, clearing := false, rflags := 0 } }) :=
  if_neg (not_not.mpr h)

/-! ### Forwarding (R238, R239) -/

section
variable {s : State} {ms : List Msg} {tile tenant : Nat} {cap : Dword} {c : MxCmd} (hnet : s.net = .mcmd tile cap tenant c :: ms)
include hnet

/-- A forwarded command finds no owner. -/
theorem mcmdArrival_free (ho : (s.tile tile).mx.owner = none) :
    execMcmdArrival tile s = .next { s with net := ms ++ [.mcmdReply c.owner c.sender 3] } := by
  unfold execMcmdArrival
  rw [hnet, findIx_head (by simp)]
  dsimp only [listDel]
  split
  · rfl
  · next k hk => exact absurd (ho.symm.trans hk) (Option.some_ne_none k).symm

variable {k : Nat} {x : Task} {l : Launch} (ho : (s.tile tile).mx.owner = some k) (hclear : (s.tile tile).mx.clearing = false)
  (hx : s.task? k = some x) (hl : s.launch? x.launch = some l) (htenant : l.tenant = tenant) (hcap : dfld cap 5 0 = tenant)
  (hlid : dfld cap 63 32 = l.lid.toNat)
include ho hclear hx hl htenant hcap hlid

/-- A forwarded command whose capability and tenants agree is answered 2, or enters the task queue. -/
theorem mcmdArrival_owned : execMcmdArrival tile s =
    if s.mxRoom tile false then .next { s.setTile tile { s.tile tile with
        mx := (s.tile tile).mx.push false { c with task := k, id := s.fresh } } with
      fresh := s.fresh + 1, net := ms ++ [.mcmdReply c.owner c.sender 0] }
    else .next { s with net := ms ++ [.mcmdReply c.owner c.sender 2] } := by
  have hlaunch : (({ s with net := ms } : State).task? k).bind (fun t => ({ s with net := ms } : State).launch? t.launch) = some l := by
    rw [show ({ s with net := ms } : State).task? k = s.task? k from rfl, hx]
    exact hl
  have hgood : ¬ (l.tenant ≠ tenant ∨ dfld cap 5 0 ≠ tenant ∨ dfld cap 63 32 ≠ l.lid.toNat) := by simp [htenant, hcap, hlid]
  have hopen : ¬ (({ s with net := ms } : State).tile tile).mx.clearing = true := fun h => Bool.false_ne_true (hclear.symm.trans h)
  unfold execMcmdArrival
  rw [hnet, findIx_head (by simp)]
  dsimp only [listDel]
  split
  · next hk => exact absurd (hk.symm.trans ho) (Option.some_ne_none k).symm
  · next k' hk =>
    obtain rfl : k' = k := Option.some.inj (hk.symm.trans ho)
    refine (if_neg hopen).trans ?_
    split
    · next hn => exact absurd (hn.symm.trans hlaunch) (Option.some_ne_none l).symm
    · next l' hs =>
      obtain rfl : l' = l := Option.some.inj (hs.symm.trans hlaunch)
      exact (if_neg hgood).trans (ite_not ..)

end

/-- The reply of a forwarded command wakes its sender with the answer (R239). -/
theorem replyArrival {s : State} {ms : List Msg} {tile slot bank task val reg : Nat} {x : Task}
    (hnet : s.net = .mcmdReply ⟨tile, slot, bank⟩ task val :: ms) (hw : (s.bank ⟨tile, slot, bank⟩).wait = some (.mcmd reg))
    (htask : (s.bank ⟨tile, slot, bank⟩).task = task) (hx : s.task? task = some x) (hkill : x.killing = false) :
    execRemoteReplyArrival tile slot bank s =
      .next (({ s with net := ms } : State).wake ⟨tile, slot, bank⟩ (.g reg) (BitVec.ofNat 1024 val)) := by
  unfold execRemoteReplyArrival
  dsimp only
  rw [hw]
  dsimp only
  rw [hnet, findIx_head (by simp)]
  dsimp only [listDel]
  refine if_neg ?_
  rw [show ({ s with net := ms } : State).task? task = s.task? task from rfl, hx]
  simp [hkill, show ({ s with net := ms } : State).bank ⟨tile, slot, bank⟩ = s.bank ⟨tile, slot, bank⟩ from rfl, htask]

theorem matrixForwards : MatrixForwards := by
  intro s ms tile tenant cap c
  refine ⟨fun hnet => ⟨fun ho => mcmdArrival_free hnet ho, fun k x l ho hclear hx hl htenant hcap hlid => ?_⟩,
    fun slot bank task val reg x hnet hw htask hx hkill hwins => ?_⟩
  · have h : exec (.mcmdArrival tile) s = _ := mcmdArrival_owned hnet ho hclear hx hl htenant hcap hlid
    refine ⟨fun hfull => h.trans (if_neg ?_), fun hroom hempty => h.trans (if_pos ?_)⟩
    · obtain hfull | hfull := hfull <;> simp [State.mxRoom, hfull]
    · simp [State.mxRoom, hroom, hempty]
  · have h : exec (.remoteReplyArrival tile slot bank) s = _ := replyArrival hnet hw htask hx hkill
    have hnone : (({ s with net := ms } : State).bank ⟨tile, slot, bank⟩).wins = [] := hwins
    have hval : (BitVec.ofNat 1024 val).setWidth 64 = BitVec.ofNat 64 val := BitVec.eq_of_toNat_eq (by simp)
    exact ⟨_, h, State.wake_mem .., congrArg State.net (wake_g hnone reg (BitVec.ofNat 1024 val)), wake_g_wait hnone reg (BitVec.ofNat 1024 val),
      (wake_g_regs hnone reg (BitVec.ofNat 1024 val)).trans (congrArg (fun y => ((s.bank ⟨tile, slot, bank⟩).wg reg y).g) hval)⟩

end Sys2Proof.Machine

/-! ## The rows of a step

The unit reads for a step, enters its rows, each as EA40's exactly rounded sums, and completes it (R158, R223, R228). -/

namespace Sys2Proof.Machine

/-! ### The only command of a unit -/

theorem mxSet_single {c d : MxCmd} (h : d.id = c.id) : mxSet [c] d = [d] := by simp [mxSet, h]

theorem OnlyCommand.queue_self {m : Matrix} {leash : Bool} {c : MxCmd} (h : OnlyCommand m leash c) : m.queue leash = [c] := by
  cases leash
  · exact h.1
  · exact h.1

theorem OnlyCommand.queue_other {m : Matrix} {leash : Bool} {c : MxCmd} (h : OnlyCommand m leash c) : m.queue (!leash) = [] := by
  cases leash
  · exact h.2
  · exact h.2

theorem OnlyCommand.setCmd {m : Matrix} {leash : Bool} {c d : MxCmd} (h : OnlyCommand m leash c) (hid : d.id = c.id) : OnlyCommand (m.setCmd d) leash d := by
  cases leash
  · exact ⟨by rw [Matrix.setCmd, h.1, mxSet_single hid], by rw [Matrix.setCmd, h.2]; rfl⟩
  · exact ⟨by rw [Matrix.setCmd, h.1, mxSet_single hid], by rw [Matrix.setCmd, h.2]; rfl⟩

/-- The work of one queue in one cycle (R223, R226). -/
def mxAct (tile : Nat) (leash : Bool) (s : State) : State :=
  ((s.tile tile).mx.queue leash).foldl (fun s c =>
    if c.started.isNone then s
    else if c.isStep then s.enterDue tile leash c 64
    else if c.isLoad then
      let t := s.tile tile
      s.setTile tile { t with mx := t.mx.setCmd (s.loadDue tile c) }
    else s) (s.headReads tile leash)

theorem mxCycle_eq (s : State) (tile : Nat) : s.mxCycle tile = mxAct tile true (mxAct tile false s) := rfl

theorem mxAct_empty {s : State} {tile : Nat} {leash : Bool} (h : (s.tile tile).mx.queue leash = []) : mxAct tile leash s = s := by
  unfold mxAct State.headReads
  rw [h]
  rfl

/-- The unit works for its only command. -/
theorem mxCycle_only {s : State} {tile : Nat} {leash : Bool} {c d : MxCmd} (h : OnlyCommand (s.tile tile).mx leash c)
    (hd : OnlyCommand ((mxAct tile leash s).tile tile).mx leash d) : s.mxCycle tile = mxAct tile leash s := by
  rw [mxCycle_eq]
  cases leash
  · exact mxAct_empty (OnlyCommand.queue_other (leash := false) hd)
  · rw [mxAct_empty (leash := false) (OnlyCommand.queue_other (leash := true) h)]

theorem mx_setTile (s : State) (tile : Nat) (m : Matrix) : ((s.setTile tile { s.tile tile with mx := m }).tile tile).mx = m :=
  congrArg Tile.mx (State.tile_setTile ..)

/-! ### The step at the head of a queue (R223) -/

section
variable {s : State} {tile : Nat} {leash : Bool} {c : MxCmd} (h : OnlyCommand (s.tile tile).mx leash c)
include h

theorem headReads_started (hs : c.started.isSome = true) : s.headReads tile leash = s := by
  unfold State.headReads
  rw [OnlyCommand.queue_self h, List.find?_cons_of_neg (by simpa [Option.isSome_iff_ne_none] using hs), List.find?_nil]

theorem headReads_head (hs : c.started = none) (hread : c.readDone = false) (hhalt : s.mxHalts tile leash = false) :
    s.headReads tile leash = s.setTile tile { s.tile tile with mx := (s.tile tile).mx.setCmd (s.readHead tile c) } := by
  unfold State.headReads
  rw [OnlyCommand.queue_self h, List.find?_cons_of_pos (by simp [hs])]
  exact if_neg (by simp [hread, hhalt])

theorem mxCycle_head (hs : c.started = none) (hread : c.readDone = false) (hhalt : s.mxHalts tile leash = false) :
    s.mxCycle tile = s.setTile tile { s.tile tile with mx := (s.tile tile).mx.setCmd (s.readHead tile c) } := by
  have hact : mxAct tile leash s = s.setTile tile { s.tile tile with mx := (s.tile tile).mx.setCmd (s.readHead tile c) } := by
    rw [mxAct, OnlyCommand.queue_self h, List.foldl_cons, List.foldl_nil, if_pos (by simp [hs]), headReads_head h hs hread hhalt]
  have hid : (s.readHead tile c).id = c.id := by
    unfold State.readHead
    split <;> rfl
  rw [← hact]
  refine mxCycle_only h (d := s.readHead tile c) ?_
  rw [hact, mx_setTile]
  exact OnlyCommand.setCmd h hid

end

/-! ### A row enters (R158, R223) -/

section
variable (m : Matrix) (b : Nat) (x y : Tbl (BitVec 40))

@[simp] theorem Matrix.acc_setAcc : (m.setAcc b x).acc b = x := by
  unfold Matrix.setAcc Matrix.acc
  split
  · rfl
  · split <;> rfl

theorem Matrix.setAcc_setAcc : (m.setAcc b x).setAcc b y = m.setAcc b y := by
  unfold Matrix.setAcc
  split
  · rfl
  · split <;> rfl

theorem Matrix.setAcc_self : m.setAcc b (m.acc b) = m := by
  unfold Matrix.setAcc Matrix.acc
  split
  · rfl
  · split <;> rfl

theorem Matrix.setAcc_queues : (m.setAcc b x).tq = m.tq ∧ (m.setAcc b x).lq = m.lq := by
  unfold Matrix.setAcc
  split
  · exact ⟨rfl, rfl⟩
  · split <;> exact ⟨rfl, rfl⟩

end

/-- A row whose first columns have entered: each of their elements is EA40's exactly rounded sum with the old one. -/
theorem enterRow_columns (m : Matrix) (b row : Nat) (x : List (Option Num)) (plane : Plane) {n : Nat} (hn : n ≤ 32) :
    ∃ acc fl, (List.range n).foldl (fun (acc : Matrix × Flags) col =>
        let k := 32 * row + col
        let old := tget 0 (acc.1.acc b) k
        let z := ea40Step old x (plane.column col)
        (acc.1.setAcc b (tset (acc.1.acc b) k (BitVec.ofNat 40 z.1)), acc.2 ||| z.2)) (m, 0) = (m.setAcc b acc, fl) ∧
      ∀ k, tget 0 acc k = if 32 * row ≤ k ∧ k < 32 * row + n then
        BitVec.ofNat 40 (ea40Step (tget 0 (m.acc b) k) x (plane.column (k % 32))).1 else tget 0 (m.acc b) k := by
  induction n with
  | zero => exact ⟨m.acc b, 0, by rw [Matrix.setAcc_self]; rfl, fun k => (if_neg (by omega)).symm⟩
  | succ n ih =>
    obtain ⟨acc, fl, hfold, hacc⟩ := ih (by omega)
    have hold : tget 0 acc (32 * row + n) = tget 0 (m.acc b) (32 * row + n) := by rw [hacc, if_neg (by omega)]
    rw [List.range_succ, List.foldl_append, hfold, List.foldl_cons, List.foldl_nil]
    dsimp only
    rw [Matrix.acc_setAcc, Matrix.setAcc_setAcc, hold]
    refine ⟨_, _, rfl, fun k => ?_⟩
    rw [tget_tset, hacc]
    by_cases hk : k = 32 * row + n
    · have hcol : k % 32 = n := by omega
      rw [if_pos hk, if_pos (by omega), hcol, hk]
    · rw [if_neg hk]
      exact if_congr (by omega) rfl rfl

/-- A step whose next row is due enters that row, and no further one in the cycle. -/
theorem enterDue_one {s : State} {tile : Nat} {leash : Bool} {c : MxCmd} {f : Nat} (hrows : c.rows.length < c.n) (hdue : c.nextRow tile ≤ s.cycle)
    (hgo : c.rows = [] ∨ c.rows.length ∉ c.cuts ∨ s.mxHalts tile leash = false) :
    s.enterDue tile leash c (f + 2) = s.setTile tile { s.tile tile with
      mx := (enterRow s tile leash c (s.tile tile).mx c.rows.length).1.setCmd
        { c with rows := c.rows ++ [(s.cycle, (enterRow s tile leash c (s.tile tile).mx c.rows.length).2)] } } := by
  have hfirst : ¬ (c.n ≤ c.rows.length ∨ s.cycle < c.nextRow tile ∨ (c.rows.length ≠ 0 ∧ c.cuts.contains c.rows.length ∧ s.mxHalts tile leash)) := by
    rintro (h | h | ⟨hne, hcut, hhalt⟩)
    · omega
    · omega
    · obtain hg | hg | hg := hgo
      · exact hne (by rw [hg]; rfl)
      · exact hg (by simpa using hcut)
      · exact Bool.false_ne_true (hg.symm.trans hhalt)
  have hlater (fl : BitVec 7) : s.cycle < { c with rows := c.rows ++ [(s.cycle, fl)] }.nextRow tile := by
    have hwidth (d : MxCmd) (r : Nat) : 0 < d.width r := by unfold MxCmd.width; split <;> omega
    have htime : 0 < (if isXa tile then 4 else 1) := by split <;> omega
    unfold MxCmd.nextRow
    simp only [List.getLast?_concat]
    have := Nat.mul_pos htime (hwidth { c with rows := c.rows ++ [(s.cycle, fl)] } (c.rows ++ [(s.cycle, fl)]).length)
    omega
  rw [State.enterDue]
  dsimp only
  rw [if_neg hfirst, State.enterDue]
  dsimp only
  rw [if_pos (.inr (.inl (hlater _)))]

section
variable {s : State} {tile : Nat} {leash : Bool} {c : MxCmd} (h : OnlyCommand (s.tile tile).mx leash c) (hstep : c.isStep = true)
  (hs : c.started.isSome = true) (hrows : c.rows.length < c.n) (hdue : c.nextRow tile ≤ s.cycle)
  (hgo : c.rows = [] ∨ c.rows.length ∉ c.cuts ∨ s.mxHalts tile leash = false)
include h hstep hs hrows hdue hgo

theorem mxAct_row : mxAct tile leash s = s.setTile tile { s.tile tile with
    mx := (enterRow s tile leash c (s.tile tile).mx c.rows.length).1.setCmd
      { c with rows := c.rows ++ [(s.cycle, (enterRow s tile leash c (s.tile tile).mx c.rows.length).2)] } } := by
  rw [mxAct, OnlyCommand.queue_self h, headReads_started h hs, List.foldl_cons, List.foldl_nil,
    if_neg (by simpa [Option.isSome_iff_ne_none] using hs), if_pos hstep]
  exact enterDue_one hrows hdue hgo

/-- In a cycle in which a row of a unit's only step may enter, it enters, and nothing else changes (R158, R223). -/
theorem mxCycle_row : ∃ acc fl, s.mxCycle tile = s.setTile tile { s.tile tile with
      mx := ((s.tile tile).mx.setAcc c.bank acc).setCmd { c with rows := c.rows ++ [(s.cycle, fl)] } } ∧
    OnlyCommand (((s.tile tile).mx.setAcc c.bank acc).setCmd { c with rows := c.rows ++ [(s.cycle, fl)] }) leash
      { c with rows := c.rows ++ [(s.cycle, fl)] } ∧
    ∀ k, tget 0 acc k = if 32 * (c.row0 + c.rows.length) ≤ k ∧ k < 32 * (c.row0 + c.rows.length) + 32 then
      BitVec.ofNat 40 (ea40Step (tget 0 ((s.tile tile).mx.acc c.bank) k) (stepRow s tile c c.rows.length)
        ((if leash then (s.tile tile).mx.leash else (s.tile tile).mx.active).column (k % 32))).1
      else tget 0 ((s.tile tile).mx.acc c.bank) k := by
  obtain ⟨acc, fl, hfold, hacc⟩ := enterRow_columns (s.tile tile).mx c.bank (c.row0 + c.rows.length) (stepRow s tile c c.rows.length)
    (if leash then (s.tile tile).mx.leash else (s.tile tile).mx.active) (le_refl 32)
  have hrow : enterRow s tile leash c (s.tile tile).mx c.rows.length = ((s.tile tile).mx.setAcc c.bank acc, fl) := hfold
  have hact := mxAct_row h hstep hs hrows hdue hgo
  rw [hrow] at hact
  have honly : OnlyCommand ((s.tile tile).mx.setAcc c.bank acc) leash c := by
    obtain ⟨htq, hlq⟩ := Matrix.setAcc_queues (s.tile tile).mx c.bank acc
    unfold OnlyCommand
    rw [htq, hlq]
    exact h
  have hset := OnlyCommand.setCmd (d := { c with rows := c.rows ++ [(s.cycle, fl)] }) honly rfl
  refine ⟨acc, fl, (mxCycle_only h (d := { c with rows := c.rows ++ [(s.cycle, fl)] }) ?_).trans hact, hset, hacc⟩
  rw [hact, mx_setTile]
  exact hset

end

/-! ### The end of a command (R228) -/

theorem Matrix.delCmd_eq (m : Matrix) (c : MxCmd) : m.delCmd c = without m c := rfl

/-- A command of the unit's thread that no access waits for, no word is told of and no thread waits for leaves nothing else behind (R223). -/
theorem finishMx_alone {s : State} {c : MxCmd} (h : Alone s c) (hunit : s.atUnit = []) (tile v : Nat) :
    s.finishMx tile c v = s.setTile tile { s.tile tile with mx := without (s.tile tile).mx c } := by
  obtain ⟨-, hnotify, hwait⟩ := h
  have hserve : (s.setTile tile { s.tile tile with mx := without (s.tile tile).mx c }).serveAtUnit =
      s.setTile tile { s.tile tile with mx := without (s.tile tile).mx c } := if_pos hunit
  have hstay : ¬ (((s.setTile tile { s.tile tile with mx := without (s.tile tile).mx c }).bank c.owner).wait = some .mwait ∧
      ¬ (s.setTile tile { s.tile tile with mx := without (s.tile tile).mx c }).mxBusy c.owner) := fun hw => hwait hw.1
  unfold State.finishMx
  rw [hnotify]
  dsimp only
  rw [Matrix.delCmd_eq, hserve, State.mwaitDone, if_neg hstay]

theorem without_only {m : Matrix} {leash : Bool} {c d : MxCmd} (h : OnlyCommand m leash d) (hid : d.id = c.id) :
    (without m c).tq = [] ∧ (without m c).lq = [] := by
  cases leash <;> simp [without, h.1, h.2, hid]

/-- The unit that has counted a drained step (R228, R234). -/
def Matrix.stepped (m : Matrix) (leash : Bool) (c : MxCmd) : Matrix :=
  { m.setCmd { c with drained := c.n } with steps := if leash then m.steps else m.steps + 1 }

/-- The flags of a step's rows. -/
def MxCmd.rowFlags (c : MxCmd) : BitVec 7 := (c.rows.drop c.drained).foldl (fun (f : BitVec 7) x => f ||| x.2) 0

/-- The state in which a step has drained and its thread has its flags (R228). -/
def State.drainedStep (s : State) (tile : Nat) (leash : Bool) (c : MxCmd) : State :=
  (s.setTile tile { s.tile tile with mx := (s.tile tile).mx.stepped leash c }).setBank c.owner ((s.bank c.owner).raise c.rowFlags)

theorem State.drainedStep_mx (s : State) (tile : Nat) (leash : Bool) (c : MxCmd) :
    ((s.drainedStep tile leash c).tile tile).mx = (s.tile tile).mx.stepped leash c := by
  rw [State.drainedStep, State.tile_of_setBank, mx_setTile]

theorem State.drainedStep_bank (s : State) (tile : Nat) (leash : Bool) (c : MxCmd) :
    (s.drainedStep tile leash c).bank c.owner = (s.bank c.owner).raise c.rowFlags := State.bank_setBank ..

section
variable {s : State} {tile : Nat} {leash : Bool} {c : MxCmd} (h : OnlyCommand (s.tile tile).mx leash c) (halone : Alone s c)
  (hstep : c.isStep = true) (hs : c.started.isSome = true) (hend : c.stepEnd = c.n) (hrows : c.rows.length = c.n)
  (hdue : ((c.rows[c.n - 1]?).map (·.1)).getD 0 + (if isXa tile then 4 else 1) + 24 ≤ s.cycle) (htask : (s.bank c.owner).task = c.sender)
include h halone hstep hs hend hrows hdue htask

/-- A step drains 24 cycles after its last row, and its flags join its thread's NUMCTL (R223, R228). -/
theorem stepComplete_finishes : execMatrixStepComplete tile leash s = .next ((s.drainedStep tile leash c).finishMx tile c 0) := by
  have hown : ¬ c.remote = true := fun hr => Bool.false_ne_true (halone.1.symm.trans hr)
  have hnow : ¬ (c.rows.length < c.stepEnd ∨ s.cycle < ((c.rows[c.stepEnd - 1]?).map (·.1)).getD 0 + (if isXa tile then 4 else 1) + 24) := by
    rw [hend]
    omega
  have hfound : ((s.tile tile).mx.queue leash).find? (fun c => c.isStep && c.started.isSome) = some c := by
    rw [OnlyCommand.queue_self h, List.find?_cons_of_pos (by simp [hstep, hs])]
  unfold execMatrixStepComplete
  rw [hfound]
  dsimp only
  rw [if_neg hnow, hend, List.take_of_length_le (le_of_eq hrows), if_pos (.inl rfl), if_neg hown]
  exact congrArg (fun u => Host.Outcome.next (State.finishMx u tile c 0)) (if_pos ⟨hown, htask⟩)

theorem stepComplete (hunit : s.atUnit = []) : execMatrixStepComplete tile leash s =
    .next ((s.drainedStep tile leash c).setTile tile { (s.drainedStep tile leash c).tile tile with mx := without ((s.tile tile).mx.stepped leash c) c }) := by
  obtain ⟨hown, hnotify, hwait⟩ := halone
  have hwait' : ((s.drainedStep tile leash c).bank c.owner).wait ≠ some .mwait := by rwa [State.drainedStep_bank]
  rw [stepComplete_finishes h ⟨hown, hnotify, hwait⟩ hstep hs hend hrows hdue htask, finishMx_alone ⟨hown, hnotify, hwait'⟩ hunit, State.drainedStep_mx]

end

theorem Matrix.setCmd_acc (m : Matrix) (c : MxCmd) (b : Nat) : (m.setCmd c).acc b = m.acc b := rfl

theorem Matrix.without_acc (m : Matrix) (c : MxCmd) (b : Nat) : (without m c).acc b = m.acc b := rfl

end Sys2Proof.Machine

/-! ## The commands other than steps

A load leaves its plane, MWSWAP and MXSWAP exchange planes and banks, MZERO clears rows, MWRA writes lanes and MRDA gives them to its thread
(R224, R226, R227, R230 to R232). -/

namespace Sys2Proof.Machine

/-! ### Tables -/

/-- A table of which the entries of some keys are left. -/
theorem tget_filter {α : Type} (d : α) (p : Nat → Bool) (t : Tbl α) (k : Nat) :
    tget d (t.filter (fun e => p e.1)) k = if p k then tget d t k else d := by
  induction t with
  | nil => exact (ite_self d).symm
  | cons e t ih =>
    obtain ⟨j, a⟩ := e
    by_cases hk : k = j
    · subst hk
      cases hp : p k <;> simp [hp, tget, ih]
    · cases hj : p j <;> simp [hj, tget, ih, hk]

/-- The elements of a list, numbered from a start. -/
theorem tget_zip_range' {α : Type} (d : α) (l : List α) (a j : Nat) : tget d ((List.range' a l.length).zip l) (a + j) = l.getD j d := by
  induction l generalizing a j with
  | nil => rfl
  | cons x l ih =>
    rw [List.length_cons, List.range'_succ, List.zip_cons_cons, tget]
    cases j with
    | zero => exact if_pos rfl
    | succ j => rw [if_neg (by omega), show a + (j + 1) = a + 1 + j by omega, ih, List.getD_cons_succ]

theorem tget_zip_range {α : Type} (d : α) (l : List α) (j : Nat) : tget d ((List.range l.length).zip l) j = l.getD j d := by
  have h := tget_zip_range' d l 0 j
  rwa [Nat.zero_add, ← List.range_eq_range'] at h

/-- A table after the keys from a base on have been set. -/
theorem tget_foldl_tset_from {α : Type} (d : α) (f : Nat → α) (base n : Nat) (t : Tbl α) (k : Nat) :
    tget d ((List.range n).foldl (fun t i => tset t (base + i) (f i)) t) k = if base ≤ k ∧ k < base + n then f (k - base) else tget d t k := by
  have hmap : (List.range n).foldl (fun t i => tset t (base + i) (f i)) t =
      ((List.range n).map (base + ·)).foldl (fun t k => tset t k (f (k - base))) t := by
    rw [List.foldl_map]
    simp only [Nat.add_sub_cancel_left]
  rw [hmap, tget_foldl_tset d (fun k => f (k - base))]
  refine if_congr ?_ rfl rfl
  rw [List.mem_map]
  constructor
  · rintro ⟨i, hi, rfl⟩
    have := List.mem_range.mp hi
    omega
  · rintro ⟨h, h'⟩
    exact ⟨k - base, List.mem_range.mpr (by omega), by omega⟩

/-! ### Completion (R224) -/

section
variable {s : State} {tile : Nat} {c : MxCmd} (htq : (s.tile tile).mx.tq = [c]) (hs : c.started.isSome = true)
  (hdue : c.started.getD 0 + c.duration ≤ s.cycle) (hstep : c.isStep = false)
include htq hs hdue hstep

theorem commandComplete_finishes : execMatrixCommandComplete tile false 0 s = .next ((s.mxEffect tile false c).finishMx tile c 0) := by
  have hgo : ¬ (c.started.isNone ∨ c.isStep ∨ (c.isLoad ∧ ([c].take 0).any (·.isLoad)) ∨ s.cycle < c.started.getD 0 + c.duration) := by
    simp only [Option.isNone_iff_eq_none, Option.isSome_iff_ne_none.mp hs, hstep, List.take_zero, List.any_nil, Bool.false_eq_true, and_false, false_or]
    omega
  have hqueue : (s.tile tile).mx.queue false = [c] := htq
  unfold execMatrixCommandComplete
  dsimp only
  rw [hqueue]
  exact if_neg hgo

/-- A command of the unit's thread that changes the unit alone (R224). -/
theorem commandComplete_mx {m : Matrix} (halone : Alone s c) (hunit : s.atUnit = [])
    (heffect : s.mxEffect tile false c = s.setTile tile { s.tile tile with mx := m }) :
    execMatrixCommandComplete tile false 0 s = .next (s.setTile tile { s.tile tile with mx := without m c }) := by
  have halone' : Alone (s.setTile tile { s.tile tile with mx := m }) c := halone
  rw [commandComplete_finishes htq hs hdue hstep, heffect, finishMx_alone halone' hunit, State.tile_setTile, State.setTile_setTile]

end

section
variable {s : State} {tile : Nat} {c : MxCmd}

theorem mxEffect_planes (h : c.minor = 1) : s.mxEffect tile false c = s.setTile tile { s.tile tile with
    mx := { (s.tile tile).mx with active := (s.tile tile).mx.shadow, shadow := (s.tile tile).mx.active } } := by
  unfold State.mxEffect
  rw [h]
  rfl

theorem mxEffect_banks (h : c.minor = 8) : s.mxEffect tile false c = s.setTile tile { s.tile tile with
    mx := { (s.tile tile).mx with acc0 := (s.tile tile).mx.acc1, acc1 := (s.tile tile).mx.acc0 } } := by
  unfold State.mxEffect
  rw [h]
  rfl

theorem mxEffect_load (h : c.minor = 0 ∨ c.minor = 16) : s.mxEffect tile false c = s.setTile tile { s.tile tile with
    mx := { (s.tile tile).mx with shadow := c.plane } } := by
  unfold State.mxEffect
  obtain h | h := h <;> rw [h] <;> rfl

/-- MZERO leaves nothing in its rows (R230). -/
theorem mxEffect_zero (h : c.minor = 3) : ∃ acc, s.mxEffect tile false c = s.setTile tile { s.tile tile with mx := (s.tile tile).mx.setAcc c.bank acc } ∧
    ∀ k, tget 0 acc k = if 32 * c.row0 ≤ k ∧ k < 32 * (c.row0 + c.n) then 0 else tget 0 ((s.tile tile).mx.acc c.bank) k := by
  refine ⟨((s.tile tile).mx.acc c.bank).filter (fun e => decide (e.1 < 32 * c.row0) || decide (32 * (c.row0 + c.n) ≤ e.1)), ?_, fun k => ?_⟩
  · unfold State.mxEffect
    rw [h]
    rfl
  · rw [tget_filter 0 (fun k => decide (k < 32 * c.row0) || decide (32 * (c.row0 + c.n) ≤ k)), ← ite_not]
    refine if_congr ?_ rfl rfl
    simp

theorem toNat_ofNat_shiftLeft (v k : Nat) : (BitVec.ofNat 40 v <<< k).toNat = v * 2 ^ k % 2 ^ 40 := by
  rw [BitVec.toNat_shiftLeft, BitVec.toNat_ofNat, Nat.shiftLeft_eq, Nat.mod_mul_mod]

/-- A lane that MWRA writes (R232). -/
theorem writeLane_eq (rfmt : Nat) {v : Nat} (hv : v < 2 ^ 32) : writeLane rfmt v =
    if rfmt = 0 then BitVec.ofNat 40 v <<< 8 else if rfmt = 1 then BitVec.ofNat 40 v <<< 24
    else BitVec.ofNat 40 (intToF ea40 ⟨0, false, true, false, 0⟩ 0 0 ((BitVec.ofNat 40 v).setWidth 32).toInt).1 := by
  have hwide : BitVec.ofNat 40 (v % 2 ^ 32 * 2 ^ 8) = BitVec.ofNat 40 v <<< 8 := by
    refine BitVec.eq_of_toNat_eq ?_
    rw [toNat_ofNat_shiftLeft, BitVec.toNat_ofNat, Nat.mod_eq_of_lt hv]
  have hhigh : BitVec.ofNat 40 (v % 2 ^ 16 * 2 ^ 16 % 2 ^ 32 * 2 ^ 8) = BitVec.ofNat 40 v <<< 24 := by
    refine BitVec.eq_of_toNat_eq ?_
    rw [toNat_ofNat_shiftLeft, BitVec.toNat_ofNat]
    omega
  have hint : BitVec.ofNat 32 v = (BitVec.ofNat 40 v).setWidth 32 := by
    refine BitVec.eq_of_toNat_eq ?_
    rw [BitVec.toNat_ofNat, BitVec.toNat_setWidth, BitVec.toNat_ofNat]
    omega
  match rfmt with
  | 0 => exact hwide
  | 1 => exact hhigh
  | n + 2 =>
    rw [if_neg (by omega), if_neg (by omega), ← hint]
    rfl

theorem mxEffect_write (h : c.minor = 5) : ∃ acc, s.mxEffect tile false c = s.setTile tile { s.tile tile with mx := (s.tile tile).mx.setAcc c.bank acc } ∧
    ∀ k, tget 0 acc k = if 32 * c.row0 + (c.cols tile).1 ≤ k ∧ k < 32 * c.row0 + (c.cols tile).1 + (c.cols tile).2 then
      writeLane (c.f 31 30) (lane32 c.vdata (k - (32 * c.row0 + (c.cols tile).1))) else tget 0 ((s.tile tile).mx.acc c.bank) k := by
  refine ⟨_, ?_, tget_foldl_tset_from 0 (fun i => writeLane (c.f 31 30) (lane32 c.vdata i)) (32 * c.row0 + (c.cols tile).1) (c.cols tile).2 _⟩
  unfold State.mxEffect
  rw [h]
  rfl

end

end Sys2Proof.Machine

/-! ## MRDA

The lanes that MRDA reads come to its thread's window as one vector, with the flags of their rounding (R231). -/

namespace Sys2Proof.Machine

/-! ### Lanes of 32 bits in one vector -/

/-- Numbers as the 32-bit lanes of one, the first lowest. -/
def listLanes (l : List Nat) : Nat := l.foldr (fun x acc => x % 2 ^ 32 + acc * 2 ^ 32) 0

theorem listLanes_cons (x : Nat) (l : List Nat) : listLanes (x :: l) = x % 2 ^ 32 + listLanes l * 2 ^ 32 := by
  unfold listLanes
  rw [List.foldr_cons]

theorem listLanes_lt (l : List Nat) : listLanes l < 2 ^ (32 * l.length) := by
  induction l with
  | nil => exact Nat.one_pos
  | cons x l ih =>
    rw [listLanes_cons, List.length_cons, Nat.mul_succ, Nat.pow_add]
    have hx : x % 2 ^ 32 < 2 ^ 32 := Nat.mod_lt _ (Nat.two_pow_pos 32)
    have := Nat.mul_le_mul_right (2 ^ 32) (Nat.succ_le_of_lt ih)
    rw [Nat.succ_mul] at this
    omega

theorem listLanes_lane (l : List Nat) (i : Nat) : listLanes l / 2 ^ (32 * i) % 2 ^ 32 = l.getD i 0 % 2 ^ 32 := by
  induction l generalizing i with
  | nil => exact congrArg (· % 2 ^ 32) (Nat.zero_div _)
  | cons x l ih =>
    rw [listLanes_cons]
    cases i with
    | zero => rw [Nat.mul_zero, Nat.pow_zero, Nat.div_one, Nat.add_mul_mod_self_right, Nat.mod_mod]; rfl
    | succ i =>
      have hpow : 2 ^ (32 * (i + 1)) = 2 ^ 32 * 2 ^ (32 * i) := by rw [Nat.mul_succ, Nat.pow_add, Nat.mul_comm]
      rw [hpow, ← Nat.div_div_eq_div_mul, Nat.add_mul_div_right _ _ (Nat.two_pow_pos 32), Nat.div_eq_of_lt (Nat.mod_lt _ (Nat.two_pow_pos 32)), Nat.zero_add,
        ih, List.getD_cons_succ]

section
variable {l : List Nat} (h : l.length ≤ 32)
include h

theorem listLanes_toNat : (BitVec.ofNat 1024 (listLanes l)).toNat = listLanes l := by
  rw [BitVec.toNat_ofNat]
  exact Nat.mod_eq_of_lt ((listLanes_lt l).trans_le (Nat.pow_le_pow_right (n := 2) Nat.two_pos (Nat.mul_le_mul_left 32 h)))

theorem listLanes_extract (i : Nat) : (BitVec.ofNat 1024 (listLanes l)).extractLsb' (32 * i) 32 = BitVec.ofNat 32 (l.getD i 0) := by
  refine BitVec.eq_of_toNat_eq ?_
  rw [BitVec.extractLsb'_toNat, listLanes_toNat h, Nat.shiftRight_eq_div_pow, listLanes_lane, BitVec.toNat_ofNat]

theorem listLanes_above {j : Nat} (hj : 32 * l.length ≤ j) : (BitVec.ofNat 1024 (listLanes l)).getLsbD j = false := by
  rw [BitVec.getLsbD, listLanes_toNat h]
  exact Nat.testBit_lt_two_pow ((listLanes_lt l).trans_le (Nat.pow_le_pow_right Nat.two_pos hj))

end

/-! ### What MRDA reads -/

theorem readLane_eq (c : MxCmd) (col : Nat) (v : BitVec 40) : readLane (ctlOf c.ga) (c.f 31 30) c.row0 col v = lanesRead c col v := by
  unfold readLane lanesRead
  dsimp only
  split
  · next h => rw [h]; rfl
  · next h => rw [h]; rfl
  · next h0 h1 => rw [if_neg h0, if_neg h1]

/-- The lanes of a read-out, each rounded or converted under the thread's NUMCTL. -/
def mrdaLanes (m : Matrix) (tile : Nat) (c : MxCmd) (i : Nat) : Res :=
  lanesRead c ((c.cols tile).1 + i) (tget 0 (m.acc c.bank) (32 * c.row0 + (c.cols tile).1 + i))

/-- Their flags. -/
def mrdaFlags (m : Matrix) (tile : Nat) (c : MxCmd) : List (Nat × Flags) := (List.range (c.cols tile).2).map (fun i => (i, (mrdaLanes m tile c i).2))

/-- Their vector. -/
def mrdaVec (m : Matrix) (tile : Nat) (c : MxCmd) : Vec :=
  BitVec.ofNat 1024 (listLanes ((List.range (c.cols tile).2).map (fun i => (mrdaLanes m tile c i).1)))

theorem readOut_eq (m : Matrix) (tile : Nat) (c : MxCmd) : readOut m tile c =
    (mrdaVec m tile c, (numericTrap c.ga (mrdaFlags m tile c)).map (fun p => ⟨p.1, 0, p.2⟩), orFlags (mrdaFlags m tile c)) := by
  have hlane (i : Nat) : readLane (ctlOf c.ga) (c.f 31 30) c.row0 ((c.cols tile).1 + i) (tget 0 (m.acc c.bank) (32 * c.row0 + (c.cols tile).1 + i)) =
      mrdaLanes m tile c i := readLane_eq ..
  have hzip : (List.range (c.cols tile).2).zip ((List.range (c.cols tile).2).map (fun i => (mrdaLanes m tile c i).2)) = mrdaFlags m tile c := by
    refine List.ext_getElem (by simp [mrdaFlags]) fun i h h' => ?_
    simp [mrdaFlags]
  unfold readOut
  simp only [hlane, List.map_map, Function.comp_def, hzip]
  rfl

theorem mrda_columns (tile : Nat) (c : MxCmd) : (c.cols tile).2 ≤ 32 := by
  unfold MxCmd.cols
  split
  · exact Nat.le_of_ble_eq_true rfl
  · exact le_refl 32

theorem mrdaVec_lane (m : Matrix) (tile : Nat) (c : MxCmd) {i : Nat} (hi : i < (c.cols tile).2) :
    (mrdaVec m tile c).extractLsb' (32 * i) 32 = BitVec.ofNat 32 (mrdaLanes m tile c i).1 := by
  rw [mrdaVec, listLanes_extract (by simpa only [List.length_map, List.length_range] using mrda_columns tile c)]
  simp [hi]

theorem mrdaVec_above (m : Matrix) (tile : Nat) (c : MxCmd) {j : Nat} (hj : 32 * (c.cols tile).2 ≤ j) : (mrdaVec m tile c).getLsbD j = false :=
  listLanes_above (by simpa only [List.length_map, List.length_range] using mrda_columns tile c) (by simpa using hj)

theorem mxEffect_read {s : State} {tile : Nat} {c : MxCmd} (h : c.minor = 4) : s.mxEffect tile false c =
    s.resultReady c.owner c.win (mrdaVec (s.tile tile).mx tile c) ((numericTrap c.ga (mrdaFlags (s.tile tile).mx tile c)).map (fun p => ⟨p.1, 0, p.2⟩))
      (orFlags (mrdaFlags (s.tile tile).mx tile c)) := by
  unfold State.mxEffect
  rw [h]
  dsimp only
  rw [readOut_eq (s.tile tile).mx tile c]
  rfl

/-! ### The window of MRDA (R64, R231) -/

/-- A window with its result. -/
def Window.filled (w : Window) (x : Vec) (err : Option TrapInfo) (fl : Flags) : Window := { w with result := some x, err := err, flags := fl }

theorem writeBack_undue {s : State} {r : BankRef} (h : ¬ (s.bank r).wins.any Window.due = true) : s.writeBack r = s := by
  unfold State.writeBack
  exact if_neg h

section
variable {s : State} {r : BankRef} {w : Window} (hw : (s.bank r).wins = [w])
include hw

/-- A result of the thread's only window. -/
theorem resultReady_window (hwait : (s.bank r).wait = some .window) (x : Vec) (err : Option TrapInfo) (fl : BitVec 7) :
    s.resultReady r w.id x err fl =
      ((s.setBank r { s.bank r with wins := [w.filled x err fl] }).unpark r).closeDue r := by
  unfold State.resultReady
  dsimp only
  rw [hw, List.map_singleton, if_pos rfl]
  split
  · rfl
  · next i pc h => exact absurd (hwait.symm.trans h) (by simp)
  · next h _ => exact absurd hwait h

/-- A result for an open window stays there. -/
theorem resultReady_open (hleft : w.left ≠ 0) (hwait : (s.bank r).wait = none) (x : Vec) (err : Option TrapInfo) (fl : BitVec 7) :
    s.resultReady r w.id x err fl = s.setBank r { s.bank r with wins := [w.filled x err fl] } := by
  have hdue : ¬ ((s.setBank r { s.bank r with wins := [w.filled x err fl] }).bank r).wins.any Window.due = true := by
    rw [State.bank_setBank]
    simp [Window.due, Window.filled, hleft]
  unfold State.resultReady
  dsimp only
  rw [hw, List.map_singleton, if_pos rfl]
  split
  · next h => exact absurd (hwait.symm.trans h) (by simp)
  · next i pc h => exact absurd (hwait.symm.trans h) (by simp)
  · exact writeBack_undue hdue

/-- The result that a thread without ports waits for closes its window. -/
theorem resultReady_awaited (hleft : w.left = 0) (hback : w.back = false) (hfrees : w.frees = []) (hwait : (s.bank r).wait = some .window)
    (hports : (s.bank r).ports = []) (x : Vec) (fl : BitVec 7) :
    s.resultReady r w.id x none fl = s.setBank r (Bank.closing
      { s.bank r with wins := [w.filled x none fl], wait := none, readyAt := max (s.bank r).readyAt (s.cycle + 1) }
      (w.filled x none fl) x) := by
  have hready : ((s.setBank r { s.bank r with wins := [w.filled x none fl] }).unpark r) = s.setBank r
      { s.bank r with wins := [w.filled x none fl], wait := none, readyAt := max (s.bank r).readyAt (s.cycle + 1) } := by
    rw [State.unpark, State.setBank_setBank, State.bank_setBank]
    rfl
  rw [resultReady_window hw hwait, hready, closeDue_one (w := w.filled x none fl) (x := x)
    (by rw [State.bank_setBank]; exact hports) (by rw [State.bank_setBank]) hleft rfl rfl hback hfrees, State.bank_setBank, State.setBank_setBank]

end

theorem Bank.closing_v {w : Window} {d : Nat} (h : w.dest = .v d) (b : Bank) (x : Vec) :
    b.closing w x = { b with v := tset b.v d x, numctl := b.numctl ||| (w.flags.setWidth 64 <<< 16), wins := [] } := by
  rw [Bank.closing, h]
  rfl

section
variable {s : State} {tile : Nat} {c : MxCmd} (hminor : c.minor = 4) (htq : (s.tile tile).mx.tq = [c]) (halone : Alone s c) (hunit : s.atUnit = [])
  (hs : c.started.isSome = true) (hdue : c.started.getD 0 + c.duration ≤ s.cycle)
include hminor htq halone hunit hs hdue

/-- MRDA completes with its result in its thread's bank (R224, R231). -/
theorem readComplete {b : Bank} (hb : b.wait ≠ some .mwait) (heffect : s.mxEffect tile false c = s.setBank c.owner b) :
    execMatrixCommandComplete tile false 0 s =
      .next ((s.setBank c.owner b).setTile tile { s.tile tile with mx := without (s.tile tile).mx c }) := by
  have halone' : Alone (s.setBank c.owner b) c := ⟨halone.1, halone.2.1, by rwa [State.bank_setBank]⟩
  have hstep : c.isStep = false := by simp [MxCmd.isStep, hminor]
  rw [commandComplete_finishes htq hs hdue hstep, heffect, finishMx_alone halone' hunit, State.tile_of_setBank]

theorem readComplete_open {w : Window} (hw : (s.bank c.owner).wins = [w]) (hid : w.id = c.win) (hleft : w.left ≠ 0) (hwait : (s.bank c.owner).wait = none) :
    execMatrixCommandComplete tile false 0 s = .next ((s.setBank c.owner { s.bank c.owner with
        wins := [w.filled (mrdaVec (s.tile tile).mx tile c) ((numericTrap c.ga (mrdaFlags (s.tile tile).mx tile c)).map (fun p => ⟨p.1, 0, p.2⟩))
          (orFlags (mrdaFlags (s.tile tile).mx tile c))] }).setTile tile
      { s.tile tile with mx := without (s.tile tile).mx c }) := by
  refine readComplete hminor htq halone hunit hs hdue (fun h => Option.some_ne_none _ (h.symm.trans hwait)) ?_
  rw [mxEffect_read hminor, ← hid]
  exact resultReady_open hw hleft hwait _ _ _

theorem readComplete_awaited {w : Window} {d : Nat} (hdest : w.dest = .v d) (hw : (s.bank c.owner).wins = [w]) (hid : w.id = c.win) (hleft : w.left = 0) (hback : w.back = false)
    (hfrees : w.frees = []) (hwait : (s.bank c.owner).wait = some .window) (hports : (s.bank c.owner).ports = [])
    (htrap : numericTrap c.ga (mrdaFlags (s.tile tile).mx tile c) = none) :
    ∃ b, execMatrixCommandComplete tile false 0 s = .next ((s.setBank c.owner b).setTile tile { s.tile tile with mx := without (s.tile tile).mx c }) ∧
      b.wait = none ∧ b.wins = [] ∧ b.rv d = mrdaVec (s.tile tile).mx tile c ∧
      b.numctl = (s.bank c.owner).numctl ||| ((orFlags (mrdaFlags (s.tile tile).mx tile c)).setWidth 64 <<< 16) := by
  have heffect := mxEffect_read (s := s) (tile := tile) hminor
  rw [htrap, Option.map_none, ← hid, resultReady_awaited hw hleft hback hfrees hwait hports, Bank.closing_v (w := w.filled _ _ _) hdest] at heffect
  exact ⟨_, readComplete hminor htq halone hunit hs hdue (fun h => Option.some_ne_none _ h.symm) heffect, rfl, rfl, tget_tset_same .., rfl⟩

end

end Sys2Proof.Machine

/-! ## Matrix commands run

Every clause of the unit's commands: entry, start, the reads of the step at the head, the rows that enter, and the completions. -/

namespace Sys2Proof.Machine

section
variable {s : State} {tile : Nat} {c : MxCmd}

theorem commandEntry_effect {ix : Nat} (hix : ix < 16) (hw : (s.bank ⟨tile, ix / 2, ix % 2⟩).wait = some (.mxFull c))
    (hother : ∀ j < 16, j ≠ ix → ∀ e, (s.bank ⟨tile, j / 2, j % 2⟩).wait ≠ some (.mxFull e))
    (hroom : (s.tile tile).mx.room ((s.bank ⟨tile, ix / 2, ix % 2⟩).kind == 2) = true) (hwins : (s.bank ⟨tile, ix / 2, ix % 2⟩).wins = []) :
    ∃ t, exec (.matrixCommandEntry tile) s = .next t ∧ t.mem = s.mem ∧ (t.bank ⟨tile, ix / 2, ix % 2⟩).wait = none ∧
      (t.tile tile).mx = (s.tile tile).mx.push ((s.bank ⟨tile, ix / 2, ix % 2⟩).kind == 2) { c with id := s.fresh } ∧ t.fresh = s.fresh + 1 := by
  refine ⟨_, commandEntry hix hw hother hroom hwins, rfl, ?_, ?_, rfl⟩
  · rw [State.unpark, State.bank_setBank]
  · rw [State.unpark, State.tile_of_setBank]
    exact congrArg Tile.mx (State.tile_setTile ..)

variable (s tile c) in
theorem readHead_eq : s.readHead tile c =
    if c.norec = false ∧ c.recw = none then { c with recw := some (s.load (lsLoc tile c.recoff) 8) }
    else { c with scl := c.scl ++ (List.range (min 32 (2 * c.n - c.scl.length))).map (fun j =>
      BitVec.ofNat 16 (s.load (lsLoc tile (c.scaleAt + 2 * c.scl.length + 2 * j)) 2)) } := by
  unfold State.readHead
  exact if_congr (by simp) rfl rfl

theorem rowEnters {leash : Bool} (h : OnlyCommand (s.tile tile).mx leash c) (hstep : c.isStep = true) (hs : c.started.isSome = true)
    (hrows : c.rows.length < c.n) (hdue : c.nextRow tile ≤ s.cycle)
    (hgo : c.rows = [] ∨ c.rows.length ∉ c.cuts ∨ s.mxHalts tile leash = false) :
    (s.mxCycle tile).mem = s.mem ∧ (s.mxCycle tile).ctxs = s.ctxs ∧
      (∃ fl, OnlyCommand ((s.mxCycle tile).tile tile).mx leash { c with rows := c.rows ++ [(s.cycle, fl)] }) ∧
      ∀ k, tget 0 (((s.mxCycle tile).tile tile).mx.acc c.bank) k =
        if 32 * (c.row0 + c.rows.length) ≤ k ∧ k < 32 * (c.row0 + c.rows.length + 1) then
          BitVec.ofNat 40 (ea40Step (tget 0 ((s.tile tile).mx.acc c.bank) k) (stepRow s tile c c.rows.length)
            ((if leash then (s.tile tile).mx.leash else (s.tile tile).mx.active).column (k % 32))).1
        else tget 0 ((s.tile tile).mx.acc c.bank) k := by
  obtain ⟨acc, fl, hcycle, honly, hacc⟩ := mxCycle_row h hstep hs hrows hdue hgo
  rw [hcycle, mx_setTile, Matrix.setCmd_acc, Matrix.acc_setAcc]
  refine ⟨rfl, rfl, ⟨fl, honly⟩, fun k => (hacc k).trans (if_congr ?_ rfl rfl)⟩
  omega

theorem stepComplete_effect {leash : Bool} (h : OnlyCommand (s.tile tile).mx leash c) (halone : Alone s c) (hunit : s.atUnit = [])
    (hstep : c.isStep = true) (hs : c.started.isSome = true) (hend : c.stepEnd = c.n) (hrows : c.rows.length = c.n)
    (hdue : ((c.rows[c.n - 1]?).map (·.1)).getD 0 + (if isXa tile then 4 else 1) + 24 ≤ s.cycle) (htask : (s.bank c.owner).task = c.sender) :
    ∃ t, exec (.matrixStepComplete tile leash) s = .next t ∧ t.mem = s.mem ∧ (t.tile tile).mx.tq = [] ∧ (t.tile tile).mx.lq = [] ∧
      (∀ b, (t.tile tile).mx.acc b = (s.tile tile).mx.acc b) ∧
      (t.tile tile).mx.steps = (if leash then (s.tile tile).mx.steps else (s.tile tile).mx.steps + 1) ∧
      (t.bank c.owner).numctl = (s.bank c.owner).numctl ||| (c.rowFlags.setWidth 64 <<< 16) := by
  have honly : OnlyCommand ((s.tile tile).mx.stepped leash c) leash { c with drained := c.n } := OnlyCommand.setCmd h rfl
  obtain ⟨htq, hlq⟩ := without_only (c := c) honly rfl
  refine ⟨_, stepComplete h halone hstep hs hend hrows hdue htask hunit, rfl, ?_, ?_, fun b => ?_, ?_, ?_⟩
  · rw [mx_setTile, htq]
  · rw [mx_setTile, hlq]
  · rw [mx_setTile]
    rfl
  · rw [mx_setTile]
    rfl
  · rw [State.bank_of_setTile, State.drainedStep_bank]
    rfl

section
variable (htq : (s.tile tile).mx.tq = [c]) (halone : Alone s c) (hunit : s.atUnit = []) (hs : c.started.isSome = true)
  (hdue : c.started.getD 0 + c.duration ≤ s.cycle)
include htq halone hunit hs hdue

/-- A command that only changes a bank of the unit (R230, R232). -/
theorem bankComplete {acc : Tbl (BitVec 40)} (hstep : c.isStep = false)
    (heffect : s.mxEffect tile false c = s.setTile tile { s.tile tile with mx := (s.tile tile).mx.setAcc c.bank acc }) :
    ∃ t, exec (.matrixCommandComplete tile false 0) s = .next t ∧ t.mem = s.mem ∧ (t.tile tile).mx.tq = [] ∧ (t.tile tile).mx.acc c.bank = acc := by
  refine ⟨_, commandComplete_mx htq hs hdue hstep halone hunit heffect, rfl, ?_, ?_⟩ <;> rw [mx_setTile]
  · simp [without, (Matrix.setAcc_queues ..).1, htq]
  · rw [Matrix.without_acc, Matrix.acc_setAcc]

theorem loadComplete (hminor : c.minor = 0 ∨ c.minor = 16) (hdata : c.data.length = 1024) :
    ∃ t, exec (.matrixCommandComplete tile false 0) s = .next t ∧ t.mem = s.mem ∧
      (t.tile tile).mx.tq = [] ∧ (t.tile tile).mx.active = (s.tile tile).mx.active ∧ (t.tile tile).mx.shadow.fmt = c.fmt ∧
      (∀ j < 1024, tget 0 (t.tile tile).mx.shadow.bytes j = c.data.getD j 0) ∧
      ∀ j < c.scl.length, tget 0 (t.tile tile).mx.shadow.scales j = c.scl.getD j 0 := by
  have hstep : c.isStep = false := by obtain h | h := hminor <;> simp [MxCmd.isStep, h]
  refine ⟨_, commandComplete_mx htq hs hdue hstep halone hunit (mxEffect_load hminor), rfl, ?_⟩
  rw [mx_setTile]
  simp only [without, htq, MxCmd.plane, ← hdata]
  exact ⟨by simp, trivial, trivial, fun j _ => tget_zip_range 0 c.data j, fun j _ => tget_zip_range 0 c.scl j⟩

theorem readComplete_effect (hminor : c.minor = 4) : ∃ x : Vec,
    (∀ i < (c.cols tile).2, x.extractLsb' (32 * i) 32 = BitVec.ofNat 32 (mrdaLanes (s.tile tile).mx tile c i).1) ∧
    (∀ j, 32 * (c.cols tile).2 ≤ j → x.getLsbD j = false) ∧
    (∀ w, (s.bank c.owner).wins = [w] → w.id = c.win → w.left ≠ 0 → (s.bank c.owner).wait = none →
      ∃ t, exec (.matrixCommandComplete tile false 0) s = .next t ∧ t.mem = s.mem ∧ (t.tile tile).mx = without (s.tile tile).mx c ∧
        t.bank c.owner = { s.bank c.owner with
          wins := [w.filled x ((numericTrap c.ga (mrdaFlags (s.tile tile).mx tile c)).map (fun p => ⟨p.1, 0, p.2⟩))
            (orFlags (mrdaFlags (s.tile tile).mx tile c))] }) ∧
    ∀ w d, (s.bank c.owner).wins = [w] → w.id = c.win → w.left = 0 → w.dest = .v d → w.back = false → w.frees = [] →
      (s.bank c.owner).wait = some .window → (s.bank c.owner).ports = [] → numericTrap c.ga (mrdaFlags (s.tile tile).mx tile c) = none →
      ∃ t, exec (.matrixCommandComplete tile false 0) s = .next t ∧ t.mem = s.mem ∧ (t.tile tile).mx = without (s.tile tile).mx c ∧
        (t.bank c.owner).wait = none ∧ (t.bank c.owner).wins = [] ∧ (t.bank c.owner).rv d = x ∧
        (t.bank c.owner).numctl = (s.bank c.owner).numctl ||| ((orFlags (mrdaFlags (s.tile tile).mx tile c)).setWidth 64 <<< 16) := by
  refine ⟨mrdaVec (s.tile tile).mx tile c, fun i hi => mrdaVec_lane _ tile c hi, fun j hj => mrdaVec_above _ tile c hj,
    fun w hw hid hleft hwait => ⟨_, readComplete_open hminor htq halone hunit hs hdue hw hid hleft hwait, rfl, ?_, ?_⟩,
    fun w d hw hid hleft hdest hback hfrees hwait hports htrap => ?_⟩
  · exact congrArg Tile.mx (State.tile_setTile ..)
  · rw [State.bank_of_setTile, State.bank_setBank]
  · obtain ⟨b, ht, hnowait, hclosed, hreg, hflags⟩ :=
      readComplete_awaited hminor htq halone hunit hs hdue hdest hw hid hleft hback hfrees hwait hports htrap
    refine ⟨_, ht, rfl, congrArg Tile.mx (State.tile_setTile ..), ?_⟩
    rw [State.bank_of_setTile, State.bank_setBank]
    exact ⟨hnowait, hclosed, hreg, hflags⟩

end

end

theorem matrixCommandsRun_unit : Sys2Proof.MatrixCommandsRun := by
  intro s tile c m
  refine ⟨fun ix hix hw hother hroom hwins => commandEntry_effect hix hw hother hroom hwins, fun leash pre post hq hpre hc => ⟨?_, ?_⟩, ?_, ?_, ?_, ?_, ?_⟩
  · exact commandStart_waits hq hpre hc
  · exact fun hmay hi he hheld hrlx hkill hrun => commandStart_starts hq hpre hc hmay hi he hheld hrlx hkill (mxHalts_false hrun)
  · intro leash honly hs hread hhalt
    rw [mxCycle_head honly hs hread hhalt, readHead_eq]
  · exact fun leash honly hstep hs hrows hdue hgo _ _ => rowEnters honly hstep hs hrows hdue hgo
  · exact fun leash honly halone hunit hstep hs hend hrows hdue htask => stepComplete_effect honly halone hunit hstep hs hend hrows hdue htask
  · rintro ⟨htq, -, halone, hunit, hs, hdue⟩
    refine ⟨fun h1 => ?_, fun h8 => ?_, fun h3 _ => ?_, fun hload hdata => ?_, fun h5 _ => ?_, fun h4 _ => ?_⟩
    · exact commandComplete_mx htq hs hdue (by simp [MxCmd.isStep, h1]) halone hunit (mxEffect_planes h1)
    · exact commandComplete_mx htq hs hdue (by simp [MxCmd.isStep, h8]) halone hunit (mxEffect_banks h8)
    · obtain ⟨acc, heffect, hacc⟩ := mxEffect_zero h3
      obtain ⟨t, ht, hmem, hq, hbank⟩ := bankComplete htq halone hunit hs hdue (by simp [MxCmd.isStep, h3]) heffect
      exact ⟨t, ht, hmem, hq, fun k => by rw [hbank]; exact hacc k⟩
    · exact loadComplete htq halone hunit hs hdue hload hdata
    · obtain ⟨acc, heffect, hacc⟩ := mxEffect_write h5
      obtain ⟨t, ht, hmem, hq, hbank⟩ := bankComplete htq halone hunit hs hdue (by simp [MxCmd.isStep, h5]) heffect
      refine ⟨t, ht, hmem, hq, fun k => ?_⟩
      rw [hbank]
      exact (hacc k).trans (if_congr Iff.rfl (writeLane_eq _ (Nat.mod_lt _ (Nat.two_pow_pos 32))) rfl)
    · exact readComplete_effect htq halone hunit hs hdue h4
  · exact clearComplete

end Sys2Proof.Machine

/-- Settles O32: each clause by the lemma on its command, and the forwarded ones by those on their arrivals. -/
theorem Sys2Proof.matrixCommandsRun : Obligations.MatrixCommandsRun := ⟨Machine.matrixCommandsRun_unit, Machine.matrixForwards⟩
